-- ==== Sys2Proof/Word.lean ====
section
/-! DEFINITION. The word types of the module and the numbering of fields inside a word (spec/00 R4). -/

namespace Sys2Proof

/-- One byte of any memory. -/
abbrev Byte := BitVec 8
/-- One instruction word, register or lane value. -/
abbrev W32 := BitVec 32
/-- A virtual address or a 64-bit record field. -/
abbrev W64 := BitVec 64

/-- The `n` bits of `w` from bit `lo` up, as a number (R4: bit 0 is the least significant). -/
def fieldOf (w lo n : Nat) : Nat := w / 2 ^ lo % 2 ^ n

/-- A number given by the little-endian bytes `bs` (R4). -/
def leNat : List Byte → Nat
  | [] => 0
  | b :: bs => b.toNat + 256 * leNat bs

/-- The `n` little-endian bytes of `v` (R4). -/
def leBytes : Nat → Nat → List Byte
  | 0, _ => []
  | n + 1, v => BitVec.ofNat 8 v :: leBytes n (v / 256)

end Sys2Proof
end

