-- ==== Sys2Proof/Config.lean ====
section
/-! DEFINITION. What an implementation fixes and the values that the manual leaves open. Every constant here without a
body is a free value: nothing can be proved of it but what holds for all values. -/

namespace Sys2Proof.Config

/-- Is the strand of a group busy at a clock, so that another group of its quadrant issues (spec/15 R397; log 139)? -/
opaque strandBusy : Nat → Nat → Bool

/-- The clocks between two steps (log 1): the manual's timing is not modelled. Argument: the clock count. -/
opaque clockGap : Nat → Nat

/-- The fixed result of an approximate FUN member, before it is held to the bounds of spec/08 R202 (log 10).
Arguments: the member's code and the operand. -/
opaque approx : Nat → W32 → W32

/-- A free bit, by draw number (log 3). -/
opaque freeBool : Nat → Bool

/-- A free 32-bit value, by draw number (log 3). -/
opaque freeW32 : Nat → W32

/-- A free byte, by draw number (log 3). -/
opaque freeByte : Nat → Byte

/-- The sticky bit of an N-sum that becomes NaN or an infinity (spec/09 R223 names none). Argument: the bit before. -/
opaque specialSticky : Bool → Bool

/-- The SCALE that TSTA writes for 2^k where FP32 has no such value (spec/09 R231). Argument: k. -/
opaque scaleOut : Int → W32

/-- The public seed of the device's signature key (spec/21 R462; log 9). -/
opaque deviceSeed : BitVec 256

/-- The secret of the device key that makes a signature's random part (spec/21 R462; log 9). -/
opaque deviceRandom : BitVec 256

/-- The secret start of a chain of the device key (spec/21 R462; log 9). Arguments: layer, tree, leaf, chain. -/
opaque deviceSecret : Nat → Nat → Nat → Nat → BitVec 256

/-- The boot ROM's measurement of a firmware image (spec/21 R462, R464; log 9). -/
opaque measure : List Byte → List Byte

/-- The signature that a firmware image carries over its measurement (spec/21 R464; log 9). -/
opaque firmwareSig : List Byte → List Byte

/-- The version of a firmware image, posted as FWVER (spec/21 R459; log 9). -/
opaque firmwareVersion : List Byte → W32

/-- Afoset's public key in fuses, key slot 0, 68 bytes (spec/21 R461; log 9). -/
opaque fuseKey : BitVec 544

/-- The fused minimum of a firmware image's version (spec/21 R464; log 9). -/
opaque firmwareMin : W32

/-- The low bit of the slot address on Field C (spec/22 R476; log 128). -/
opaque slotBit : Bool

/-- The spare columns of a matrix quarter, which the manual does not count (spec/01 R12; log 106). -/
opaque spareColumns : Nat

end Sys2Proof.Config
end

