-- ==== Sys2Proof/Syntax.lean ====
section
/-! DEFINITION. The instructions of the Keval architecture and the other indivisible steps of the module:
one constructor per row of spec/opcode_table.json. The first part follows the encodings of spec/06, the second
part (the steps that no word encodes) carries operands of the model's own. -/

namespace Sys2Proof

/-- What a source selector names (spec/06 R136): a V or G register, an inline constant, a special, a queue. -/
inductive Src where
  | v (r : BitVec 7)
  | g (r : BitVec 6)
  | const (c : BitVec 5)
  | special (c : BitVec 4)
  | q (n : BitVec 2)
deriving DecidableEq, Repr

/-- A source selector with its T bit (R136, R112). -/
structure Sel where
  src : Src
  t : Bool
deriving DecidableEq, Repr

/-- The B operand of a GA word: a selector, or the imm32 of an extension word (R141, R142). -/
inductive UOpd where
  | sel (s : Sel)
  | imm (w : W32)
deriving DecidableEq, Repr

/-- Scopes (R144). -/
inductive Scope where
  | group | team | cluster | die | device | system | rteam
deriving DecidableEq, Repr

/-- Orders (R144). -/
inductive Order where
  | plain | acq | rel | acqRel
deriving DecidableEq, Repr

/-- Conditions (R143); which of them a compare accepts is checked by WellFormed. -/
inductive Cond where
  | eq | ne | lt | ge | le | gt | ord | uno | ltu | geu | leu | gtu
deriving DecidableEq, Repr

/-- Branch hints (R141); 0b11 is illegal and has no constructor. -/
inductive Hint where
  | none | likely | unlikely
deriving DecidableEq, Repr

/-- Rounding modes (spec/05 R129) and `cur`, the mode in RMODE (R133 mode 7). -/
inductive RMode where
  | rne | rtz | rdn | rup | sr | cur
deriving DecidableEq, Repr

/-- XRED modes (spec/08 R196). -/
inductive XMode where
  | totalG | totalV | forerunner | inclusive
deriving DecidableEq, Repr

/-- Conversions of CVT (spec/05 R133). The arguments pick the half, byte or nibble widened. -/
inductive CvtOp where
  | f32s32 | f32u32 | s32f32 | u32f32
  | f32bf16 (hi : Bool) | bf16f32 | f32f16 (hi : Bool) | f16f32
  | f32e4m3 (k : BitVec 2) | f32e5m2 (k : BitVec 2) | e4m3f32 | e5m2f32
  | f32e3m2 | f32e2m3 | e3m2f32 | e2m3f32
  | f32e2m1 (n : BitVec 3) | e2m1f32
  | f32s8 (k : BitVec 2) | s8f32
deriving DecidableEq, Repr

/-- Atomic operations (spec/07 R163). -/
inductive AOp where
  | add | min | max | umin | umax | and | or | xor | fadd | fmin | fmax | b2add | xchg | cas
deriving DecidableEq, Repr

/-- What TREC records (spec/10 R250). `n` is registers − 1, `fmt` the SUB code. -/
inductive TrecKind where
  | value (nm1 : BitVec 2)
  | lvalue (fmt : BitVec 2)
  | index
deriving DecidableEq, Repr

/-- What TPOP accepts (R250). -/
inductive TpopKind where
  | value (nm1 : BitVec 2)
  | index
deriving DecidableEq, Repr

/-- The barrier object a fabric instruction charges (spec/11 R280 ABO): none, or object 0 to 7. -/
inductive Abo where
  | none
  | obj (k : BitVec 3)
deriving DecidableEq, Repr

/-- BSET's field codes 0 to 7 (spec/07 R180). -/
inductive BField where
  | baseLo | baseHi | ext0 | ext1 | stride0 | stride1 | w6 | w7
deriving DecidableEq, Repr

/-- WAITC conditions (spec/14 R366). -/
inductive WCond where
  | eq | ne | geu | ltu
deriving DecidableEq, Repr

/-- The copy engine a step concerns: a core's own, or the link die's (spec/03 R45, R47). -/
inductive Eng where
  | core (n : Nat)
  | link
deriving DecidableEq, Repr

/-- Requests a coherent scratchpad segment's home serves (spec/04 R92). -/
inductive DirReq where
  | read | write | evict
deriving DecidableEq, Repr

/-- The header fields of an arriving packet that every packet has in common (spec/11 R273): the sender's generation, JOB,
SRC, SEQ, and CE as the pool nodes left it. What ADDR, FADDR, LEN and ARGS say stands in the packet's own arguments. -/
structure Hdr where
  gen : BitVec 16
  job : BitVec 16
  src : BitVec 16
  seq : BitVec 32
  ce : Bool
deriving DecidableEq, Repr

/-- One element write of a PUT: its virtual address in the target context and its bytes (R283). -/
structure PutWord where
  addr : W64
  bytes : List Byte
deriving DecidableEq, Repr

/-- One thread's part of a PUT packet: its words in order and its flag address, if any (R283, R286). -/
structure PutThread where
  words : List PutWord
  flag : Option W64
deriving DecidableEq, Repr

/-- One thread's part of a RATOM packet (R284). -/
structure AtomThread where
  addr : W64
  op : AOp
  val : W32
  cmp : W32
deriving DecidableEq, Repr

/-- One element add of a RACC packet: `bf16` picks the element format (R285). -/
structure AccElem where
  addr : W64
  bf16 : Bool
  val : W32
deriving DecidableEq, Repr

/-- The header of a two-sided message (spec/12 R309, R312). -/
structure MsgHdr where
  gen : BitVec 16
  job : BitVec 16
  src : BitVec 16
  seq : BitVec 32
  ce : Bool
  srank : BitVec 16
  sctx : BitVec 16
  comm : BitVec 16
  tag : W32
  len : Nat
  num : Nat
deriving DecidableEq, Repr

/-- The header fields of a message's packet. -/
def MsgHdr.head (m : MsgHdr) : Hdr := ⟨m.gen, m.job, m.src, m.seq, m.ce⟩

/-- What the ARGS of a message name (spec/12 R309): the sending context, the communicator, the tag, the length in bytes
and the message number of R312. -/
structure MsgArgs where
  sctx : BitVec 16
  comm : BitVec 16
  tag : W32
  len : Nat
  num : Nat
deriving DecidableEq, Repr

/-- What a message header names. -/
def MsgHdr.args (m : MsgHdr) : MsgArgs := ⟨m.sctx, m.comm, m.tag, m.len, m.num⟩

/-- What a COLL packet carries (spec/11 R297 to R301). Its ARGS: COMM, the activation's sequence number, the chunk, the
hop and the sender's logical index. `off` is the chunk's element that its data begin with; `fp32` tells FP32 partials
(R298), `sat` the elements that saturated (R301, 19 R448). The data are one word per element (a code where the chunk is quantised), `len` their bytes (LEN),
`scales` one scale per block of 32, and `nan` per element the lowest contributing rank + 1, or 0 (R299). `err` reports an
activation that has ended at its sender: the class, and the logical index at fault (R304, R306; log 94). -/
structure CollMsg where
  comm : BitVec 16
  act : Nat
  chunk : Nat
  hop : Nat
  sender : Nat
  off : Nat
  len : Nat
  fp32 : Bool
  sat : List Bool
  data : List W32
  scales : List Nat
  nan : List Nat
  err : Option (Nat × Nat)
deriving DecidableEq, Repr

/-- An access of the host to BAR 2 (spec/21 R454): a read, or a write of bytes; or one for which the table has no step of
its own (log 97): a read of BAR 0, a write of DOORBELL there (21 R454), a read or a write of a word of BAR 4 (21 R466), a change
of the power state between D0 and D3hot (21 R453), a read of `n` I3C registers at the target address `addr` (22 R476), a read of the FRU EEPROM (22 R472). -/
inductive ApOp where
  | read (n : Nat)
  | write (bytes : List Byte)
  | bar0 (n : Nat)
  | doorbell (v : W32)
  | bar4 (n : Nat)
  | poke (v : W32)
  | power (d3 : Bool)
  | i3c (addr n : Nat)
  | fru (n : Nat)
deriving DecidableEq, Repr

/-- The view home that a snapshot request goes to (spec/03 R80): that of a context of this module, or, for the join engine
(17 R439), that of peer number `i`, which answers: none that arrives, refused, or opened under a handle, with PAGES of the
view (for a close nothing but whether an answer arrives counts). -/
inductive SnapAt where
  | here (ctx : Nat)
  | peer (i : Nat) (answer : Option (Option (Nat × Nat)))
deriving DecidableEq, Repr

/-- A unit that fails (spec/01 R20, R21): a core, a strand, `n` more matrix columns of a quadrant, an HBM channel, a lane of a
port; or (log 97) words of a core's tile memory segment or accumulator (09 R237), or 16-bit symbols of a 64-byte transfer of
HBM, one of which the controller corrects (02 R23). -/
inductive FailUnit where
  | core (n : Nat)
  | strand (core quad : Nat)
  | columns (core quad n : Nat)
  | channel (die slot : Nat)
  | lane (port : Nat)
  | segment (core seg : Nat)
  | accum (core tile : Nat)
  | symbols (pa : Nat) (several : Bool)
deriving DecidableEq, Repr

/-- What a sensor sample found (spec/22 R475): junction and inlet in 0.5 °C units, input in mV, power in W. -/
structure Sample where
  tj : Nat
  tin : Nat
  mv : Nat
  watt : Nat
  overcurrent : Bool
deriving DecidableEq, Repr

/-- Every indivisible step of the part (spec/opcode_table.json). -/
inductive Instr where
  -- lane integer arithmetic (08 R187)
  | iadd (d : BitVec 7) (a b : Sel)
  | isub (d : BitVec 7) (a b : Sel)
  | imul (d : BitVec 7) (a b : Sel)
  | imulh (d : BitVec 7) (a b : Sel)
  | imulhu (d : BitVec 7) (a b : Sel)
  | imad (d : BitVec 7) (a b : Sel)
  | imin (d : BitVec 7) (a b : Sel)
  | imax (d : BitVec 7) (a b : Sel)
  | umin (d : BitVec 7) (a b : Sel)
  | umax (d : BitVec 7) (a b : Sel)
  | and (d : BitVec 7) (a b : Sel)
  | or (d : BitVec 7) (a b : Sel)
  | xor (d : BitVec 7) (a b : Sel)
  | andn (d : BitVec 7) (a b : Sel)
  | shl (d : BitVec 7) (a b : Sel)
  | shr (d : BitVec 7) (a b : Sel)
  | sar (d : BitVec 7) (a b : Sel)
  | rot (d : BitVec 7) (a b : Sel)
  -- lane compares (08 R188); their sources have no T bit
  | icmp (c : Cond) (g : BitVec 5) (a b : Src)
  | ucmp (c : Cond) (g : BitVec 5) (a b : Src)
  | fcmp (c : Cond) (g : BitVec 5) (a b : Src)
  -- unary integer functions (08 R189)
  | popc (d : BitVec 7) (a : Sel)
  | clz (d : BitVec 7) (a : Sel)
  | ctz (d : BitVec 7) (a : Sel)
  | brev (d : BitVec 7) (a : Sel)
  | bswap (d : BitVec 7) (a : Sel)
  | sext8 (d : BitVec 7) (a : Sel)
  | sext16 (d : BitVec 7) (a : Sel)
  | zext8 (d : BitVec 7) (a : Sel)
  | zext16 (d : BitVec 7) (a : Sel)
  | not (d : BitVec 7) (a : Sel)
  | neg (d : BitVec 7) (a : Sel)
  | abs (d : BitVec 7) (a : Sel)
  -- bit fields and carry-less multiply (08 R190, R191)
  | bfe (d : BitVec 7) (a b : Sel)
  | bfi (d : BitVec 7) (a b : Sel)
  | clmul (d : BitVec 7) (a b : Sel)
  | clmulh (d : BitVec 7) (a b : Sel)
  -- shuffles (08 R194)
  | shfl (d : BitVec 7) (a b : Sel)
  | shflx (d : BitVec 7) (a b : Sel)
  | shflu (d : BitVec 7) (a b : Sel)
  | shfld (d : BitVec 7) (a b : Sel)
  -- cross-thread reductions (08 R196)
  | xredAdd (m : XMode) (d : BitVec 7) (a : Sel)
  | xredMin (m : XMode) (d : BitVec 7) (a : Sel)
  | xredMax (m : XMode) (d : BitVec 7) (a : Sel)
  | xredUmin (m : XMode) (d : BitVec 7) (a : Sel)
  | xredUmax (m : XMode) (d : BitVec 7) (a : Sel)
  | xredAnd (m : XMode) (d : BitVec 7) (a : Sel)
  | xredOr (m : XMode) (d : BitVec 7) (a : Sel)
  | xredXor (m : XMode) (d : BitVec 7) (a : Sel)
  | xredFadd (m : XMode) (d : BitVec 7) (a : Sel)
  | xredFmin (m : XMode) (d : BitVec 7) (a : Sel)
  | xredFmax (m : XMode) (d : BitVec 7) (a : Sel)
  | mov (d : BitVec 7) (a : Sel)
  -- FP32 arithmetic (08 R199)
  | fadd (d : BitVec 7) (a b : Sel)
  | fsub (d : BitVec 7) (a b : Sel)
  | fmul (d : BitVec 7) (a b : Sel)
  | ffma (d : BitVec 7) (a b : Sel)
  | fmin (d : BitVec 7) (a b : Sel)
  | fmax (d : BitVec 7) (a b : Sel)
  -- unary FP32 functions (08 R200)
  | fabs (d : BitVec 7) (a : Sel)
  | fneg (d : BitVec 7) (a : Sel)
  | frcp (d : BitVec 7) (a : Sel)
  | frsq (d : BitVec 7) (a : Sel)
  | fsqrt (d : BitVec 7) (a : Sel)
  | fexp2 (d : BitVec 7) (a : Sel)
  | flog2 (d : BitVec 7) (a : Sel)
  | fsin (d : BitVec 7) (a : Sel)
  | fcos (d : BitVec 7) (a : Sel)
  | ftanh (d : BitVec 7) (a : Sel)
  | ffrac (d : BitVec 7) (a : Sel)
  | frnde (d : BitVec 7) (a : Sel)
  | ftrunc (d : BitVec 7) (a : Sel)
  | ffloor (d : BitVec 7) (a : Sel)
  | fceil (d : BitVec 7) (a : Sel)
  -- packed BF16 (08 R203)
  | b2add (d : BitVec 7) (a b : Sel)
  | b2mul (d : BitVec 7) (a b : Sel)
  | b2fma (d : BitVec 7) (a b : Sel)
  | b2max (d : BitVec 7) (a b : Sel)
  | b2min (d : BitVec 7) (a b : Sel)
  -- conversions (05 R133, 08 R204 to R209)
  | cvt (op : CvtOp) (m : RMode) (d : BitVec 7) (a : Sel)
  | qscl (d : BitVec 7) (a : BitVec 7) (t : Bool) (b : Sel)
  | qcvt (d : BitVec 7) (a : BitVec 7) (t : Bool) (b : Sel)
  | qexp (d : BitVec 7) (a b : Sel)
  | rnd (d : BitVec 7) (a b : Sel)
  -- local memory (07 R158)
  | ldl (d : BitVec 7) (a : Sel) (k : BitVec 4) (sc : Scope) (o : Order)
  | stl (d : BitVec 7) (a : Sel) (k : BitVec 4) (sc : Scope) (o : Order)
  | ldv (d : BitVec 7) (a : Sel) (k : BitVec 4) (sc : Scope) (o : Order)
  | stv (d : BitVec 7) (a : Sel) (k : BitVec 4) (sc : Scope) (o : Order)
  | atom (op : AOp) (d : BitVec 7) (a b c : Sel) (k : BitVec 4) (sc : Scope) (o : Order)
  | red (op : AOp) (a b : Sel) (k : BitVec 4) (sc : Scope) (o : Order)
  -- fabric (11 R280)
  | put (d : BitVec 7) (a : Sel) (nm1 : BitVec 2) (k : BitVec 4) (flag : Option (BitVec 4 × Sel)) (abo : Abo)
  | ratom (op : AOp) (ret : Option (BitVec 7)) (a b c : Sel) (k : BitVec 4) (abo : Abo)
  | racc (d : BitVec 7) (a : Sel) (nm1 : BitVec 2) (k : BitVec 4) (abo : Abo)
  | sel (d : BitVec 7) (a b c : Sel) (inv : Bool)
  -- spill stack (07 R166)
  | spst (d : BitVec 7) (nm1 : BitVec 4) (off : BitVec 16)
  | spld (d : BitVec 7) (nm1 : BitVec 4) (off : BitVec 16)
  -- tape, lane side (10 R250)
  | trec (d : BitVec 7) (kind : TrecKind) (s : BitVec 1)
  | tpop (d : BitVec 7) (kind : TpopKind) (s : BitVec 1)
  -- uniform arithmetic (14 R351 to R354)
  | gadd (d : BitVec 6) (a : Sel) (b : UOpd)
  | gsub (d : BitVec 6) (a : Sel) (b : UOpd)
  | gmul (d : BitVec 6) (a : Sel) (b : UOpd)
  | gmulh (d : BitVec 6) (a : Sel) (b : UOpd)
  | gand (d : BitVec 6) (a : Sel) (b : UOpd)
  | gor (d : BitVec 6) (a : Sel) (b : UOpd)
  | gxor (d : BitVec 6) (a : Sel) (b : UOpd)
  | gandn (d : BitVec 6) (a : Sel) (b : UOpd)
  | gshl (d : BitVec 6) (a : Sel) (b : UOpd)
  | gshr (d : BitVec 6) (a : Sel) (b : UOpd)
  | gsar (d : BitVec 6) (a : Sel) (b : UOpd)
  | gmin (d : BitVec 6) (a : Sel) (b : UOpd)
  | gmax (d : BitVec 6) (a : Sel) (b : UOpd)
  | gmov (d : BitVec 6) (b : UOpd)
  | gcmp (c : Cond) (d : BitVec 5) (a b : Src)
  | gpopc (d : BitVec 6) (a : Sel)
  | gclz (d : BitVec 6) (a : Sel)
  | gctz (d : BitVec 6) (a : Sel)
  | gnot (d : BitVec 6) (a : Sel)
  | gneg (d : BitVec 6) (a : Sel)
  | gbrev (d : BitVec 6) (a : Sel)
  | rdlane (d : BitVec 6) (a : BitVec 7) (t : Bool) (b : UOpd)
  -- exec masks (14 R355)
  | mset (d : BitVec 6) (b : UOpd)
  | mand (d : BitVec 6) (a : Sel) (b : UOpd)
  | mandn (d : BitVec 6) (a : Sel) (b : UOpd)
  | mor (d : BitVec 6) (a : Sel) (b : UOpd)
  -- spill pointer, fences, publish (07 R168, R171, R173)
  | spadj (b : UOpd)
  | fence (o : Order) (sc : Scope)
  | fenceFlush (o : Order) (sc : Scope)
  | publish (sc : Scope) (a : Sel)
  -- branches (14 R358)
  | bra (disp : BitVec 17) (h : Hint)
  | bez (c : BitVec 6) (disp : BitVec 17) (h : Hint)
  | bnz (c : BitVec 6) (disp : BitVec 17) (h : Hint)
  | bmz (c : BitVec 6) (disp : BitVec 17) (h : Hint)
  | bmnz (c : BitVec 6) (disp : BitVec 17) (h : Hint)
  | call (c : BitVec 6) (disp : BitVec 17) (h : Hint)
  | jmpr (c : BitVec 6) (disp : BitVec 17) (h : Hint)
  | loop (c : BitVec 6) (disp : BitVec 17) (h : Hint)
  -- barriers and waits (14 R361 to R367, 07 R170)
  | bar (n : BitVec 3) (a : Sel)
  | cbar
  | abarAdd (k : BitVec 3) (b : UOpd)
  | abarSub (k : BitVec 3) (b : UOpd)
  | abarSet (k : BitVec 3) (b : UOpd)
  | abwait (k : BitVec 3) (b : UOpd)
  | waitc (c : WCond) (k : BitVec 4) (a : Sel) (b : UOpd)
  | waitn (p : BitVec 3) (a : Sel)
  | topen (g : BitVec 6)
  -- SYS (14 R368)
  | nop
  | exit
  | trap (a : Sel)
  | brkpt
  | yield
  | srd (d : BitVec 6) (a : Sel)
  | swr (n : BitVec 6) (a : Sel)
  | eret
  | genfence (d : BitVec 6)
  | rtswap (d : BitVec 6)
  | tlbi (g : BitVec 6)
  | tacq (a : Sel)
  -- tape, uniform side (10 R252 to R265)
  | tbrk (s : BitVec 1) (a : Sel)
  | tbpop (s : BitVec 1) (d : BitVec 6)
  | tmark (s : BitVec 1) (d : BitVec 6) (b : UOpd)
  | trev (s : BitVec 1) (d : BitVec 6)
  | tclose (s : BitVec 1) (d : BitVec 6)
  -- copies (07 R174)
  | bcopy (d g : BitVec 6)
  | bcopym (d g : BitVec 6)
  | pstw (d g : BitVec 6)
  -- matrix array (09 R218 to R234)
  | tmma (acc : BitVec 2) (g : BitVec 6) (ctl : UOpd)
  | tdual (x w : BitVec 2) (g : BitVec 6) (ctl : UOpd)
  | tprom (acc : BitVec 2) (g : BitVec 6)
  | tsta (acc : BitVec 2) (g : BitVec 6) (ctl : UOpd)
  | tlda (acc : BitVec 2) (g : BitVec 6) (ctl : UOpd)
  | tzero (acc : BitVec 2) (g : BitVec 6)
  | tmaxr (d : BitVec 6) (g : BitVec 6) (b : UOpd)
  -- tags and buffer records (07 R177 to R181)
  | ttag (d : BitVec 6) (a : Sel) (b : UOpd)
  | bld (k : BitVec 4) (a : Sel) (b : UOpd)
  | bset (k : BitVec 4) (f : BField) (b : UOpd)
  | bsetAdd (k : BitVec 4) (b : UOpd)
  | bxlate (d : BitVec 6) (k : BitVec 4)
  -- messaging (12) and chunk fire (11 R295)
  | send (d g : BitVec 6)
  | rpost (d g : BitVec 6)
  | rprobe (d g : BitVec 6)
  | rcancel (d g : BitVec 6)
  | cfire (a : Sel) (b : UOpd)
  -- copy engines (03)
  | copyPiece (e : Eng) (id : Nat)
  | copyTagRequeue (e : Eng) (id : Nat)
  | copyCompletion (e : Eng) (id : Nat)
  | followOnFire (e : Eng) (id : Nat)
  | q3HeldRelease (gk : Nat)
  | snapshotOpen (at1 : SnapAt) (handle live ver : Nat)
  | snapshotClose (at1 : SnapAt) (handle : Nat)
  -- L2, scratchpad homes, returns, monitors (04, 05, 14)
  | l2RangeWrite (die idx : Nat) (v : BitVec 128)
  | l2PinSweep (stack : Nat)
  | directoryRequest (die core seg : Nat) (r : DirReq)
  | longLatencyWrite (gk i : Nat)
  | monitorReread (gk : Nat)
  -- array and tape engines (09, 10)
  | tileStart (core pos : Nat)
  | tileComplete (core i : Nat)
  | tapeDrain (gk : Nat) (s : Bool)
  | tapeFetch (gk : Nat) (s : Bool)
  -- fabric transport (11)
  | putPacket (h : Hdr) (ts : List PutThread)
  | ratomPacket (h : Hdr) (ts : List AtomThread)
  | raccPacket (h : Hdr) (ts : List (List AccElem))
  | ackReceive (id : Nat) (ece : Bool)
  | rdataReceive (id : Nat) (v : W32) (ece : Bool)
  | nackReceive (id : Nat) (code : Nat) (ece : Bool)
  | busyResend (id : Nat)
  | transferTimeout (id : Nat)
  | flitRetransmit (port : Nat)
  | portDead (port : Nat)
  | rateRecover
  | collectiveActivate (ctx desc : Nat) (seed : W32)
  | collPacket (h : Hdr) (m : CollMsg)
  | msgPacket (m : MsgHdr) (bytes : List Byte)
  | rtsPacket (m : MsgHdr)
  | pullPacket (h : Hdr) (id off len : Nat)
  | pdataPacket (h : Hdr) (ctx handle off : Nat) (bytes : List Byte)
  | receiveCompletion (ctx handle : Nat)
  | q2HeldRelease (team : Nat)
  -- migration (02)
  | migrationStep (stack i : Nat)
  | faultRequest (pa : Nat) (tgt : Nat) (dst : Nat) (big : Bool) (host : Option Nat)
  -- walkers and schedulers (15)
  | nodeStart (ctx queue : Nat) (node : W64)
  | waitSatisfied (ctx : Nat) (node : W64)
  | nodeCompletion (ctx : Nat) (node : W64)
  | teamDispatch (die : Nat)
  | teamExit (team : Nat)
  | teamSwapOut (team : Nat)
  | activeSetRotation (core quad : Nat)
  | preemptTrigger (die launch : Nat)
  | invarPositionSwap (core quad : Nat)
  | invarWake (gk : Nat)
  | preemptionRequest (team : Nat)
  | contextSave (team : Nat)
  | tlbiDrained (gk : Nat)
  | accxferSave (gk : Nat)
  | accxferLoad (gk : Nat)
  | registerWrite (gk n : Nat) (v : W32)
  -- host interface (21)
  | notify (v : W64) (whole : Bool)
  | evheadWrite (v : W32)
  | apertureAccess (off : Nat) (op : ApOp)
  | debugResume (entry : Nat) (ss : Bool)
  | init (slot : Nat) (ring : W64) (size : Nat) (apbase : W64)
  | ctxnew (slot ctx : Nat) (sup : Bool) (asid : BitVec 13) (fjob : BitVec 16) (vt tcb ct qt : W64)
  | ctxdel (slot ctx : Nat)
  | load (slot ctx seg : Nat) (container : W64)
  | segmentLoad
  | keyadd (slot keySlot signer : Nat) (key sig : List Byte) (admin : Bool)
  | quote (slot : Nat) (q : List Byte × Nat)
  | stepstart (slot ctx queue : Nat) (index : BitVec 16)
  | answer (slot gk : Nat) (retry : Bool)
  | migrate (slot stack i : Nat) (entry : BitVec 128) (big : Bool)
  | rtable (slot : Nat) (addr : Nat)
  | abort (slot job : Nat)
  | join (slot : Nat) (addr : Nat)
  | fabcfg (slot : Nat) (cfg : List Byte)
  | fabreset (slot : Nat)
  | drain (slot : Nat)
  | fwpush (slot : Nat) (image : Nat × Nat)
  -- fabric engine and join engine (17)
  | heartbeat
  | selfCheckResult (acc : Option (BitVec 8))
  | watcherCheck (j : Nat) (r : Option (W32 × Bool))
  | accusationResult (j : Nat) (old : Option (BitVec 8))
  | trafficHold
  | stripeLanded (k : Nat) (peerCrc : W32) (err : Bool) (bytes : List Byte)
  -- power, reset, sensors (22, 21 R465, 01 R20)
  | powerOn
  | moduleReset
  | trainingComplete (chan0 chan1 : Nat) (live full8 : BitVec 18)
  | powerLoss
  | sensorSample (x : Sample)
  | alarmClear (m : BitVec 8)
  | offRequest
  | forceOff
  | unitFailure (u : FailUnit)
  | linkAcknowledgement (port n : Nat)
  | malformedPacket (h : Hdr)
deriving DecidableEq, Repr

end Sys2Proof
end

