-- ==== Sys2Proof/Machine/Flags.lean ====
section
/-! DEFINITION. Number formats, rounding and the floating-point flags (spec/05 R117, R125 to R133; 08 R186, R199 to
R203). Values are exact rationals, narrowed only by the rounding function. -/

namespace Sys2Proof.Machine

/-- A floating-point format (R125): exponent and fraction widths, bias, largest finite code, and whether it has an
infinity, a NaN, and saturating overflow (R129). -/
structure FFmt where
  ew : Nat
  mw : Nat
  bias : Nat
  max : Nat
  inf : Bool
  nan : Bool
  sat : Bool
deriving DecidableEq, Repr

/-- FP32. -/
def fp32 : FFmt := ⟨8, 23, 127, 0x7F7FFFFF, true, true, false⟩
/-- FP16. -/
def fp16 : FFmt := ⟨5, 10, 15, 0x7BFF, true, true, false⟩
/-- BF16. -/
def bf16 : FFmt := ⟨8, 7, 127, 0x7F7F, true, true, false⟩
/-- E4M3. -/
def e4m3 : FFmt := ⟨4, 3, 7, 0x7E, false, true, true⟩
/-- E5M2. -/
def e5m2 : FFmt := ⟨5, 2, 15, 0x7B, true, true, true⟩
/-- E3M2. -/
def e3m2 : FFmt := ⟨3, 2, 3, 0x1F, false, false, true⟩
/-- E2M3. -/
def e2m3 : FFmt := ⟨2, 3, 1, 0x1F, false, false, true⟩
/-- E2M1. -/
def e2m1 : FFmt := ⟨2, 1, 1, 0x7, false, false, true⟩

/-- The width of a format's element in bits. -/
def FFmt.width (f : FFmt) : Nat := 1 + f.ew + f.mw

/-- A value: NaN, an infinity, or the rational ±num/den (`neg` also signs a zero). -/
inductive FVal where
  | nan
  | inf (neg : Bool)
  | fin (neg : Bool) (num den : Nat)
deriving DecidableEq, Repr

/-- The flags of FPFLAGS (R117). -/
abbrev FFlags := BitVec 4
/-- NV. -/
def fNV : FFlags := 1
/-- DZ. -/
def fDZ : FFlags := 2
/-- OF. -/
def fOF : FFlags := 4
/-- UF. -/
def fUF : FFlags := 8

/-- A result pattern with the flags it sets (R117). -/
structure FRes where
  bits : Nat
  fl : FFlags
deriving DecidableEq, Repr

/-- 2^k for an integer k, as a numerator and a denominator. -/
def pow2Q (k : Int) : Nat × Nat := if 0 ≤ k then (2 ^ k.toNat, 1) else (1, 2 ^ (-k).toNat)

/-- ±n × 2^k as a value. -/
def dyadic (neg : Bool) (n : Nat) (k : Int) : FVal :=
  let q := pow2Q k
  .fin neg (n * q.1) q.2

/-- The value of a pattern (R125). -/
def unpack (f : FFmt) (c : Nat) : FVal :=
  let neg := decide (c / 2 ^ (f.ew + f.mw) % 2 = 1)
  let mag := c % 2 ^ (f.ew + f.mw)
  let e := mag / 2 ^ f.mw
  let m := mag % 2 ^ f.mw
  if f.max < mag then (if f.inf && m = 0 then .inf neg else .nan)
  else if e = 0 then dyadic neg m (1 - (f.bias : Int) - f.mw)
  else dyadic neg (2 ^ f.mw + m) ((e : Int) - f.bias - f.mw)

/-- A sign bit and a magnitude code. -/
def signed (f : FFmt) (neg : Bool) (mag : Nat) : Nat := (if neg then 2 ^ (f.ew + f.mw) else 0) + mag

/-- The canonical NaN of a format (R126): 0x7F in E4M3, and the quiet pattern with a set top fraction bit elsewhere. -/
def canonNaN (f : FFmt) : Nat :=
  if f.inf then (2 ^ f.ew - 1) * 2 ^ f.mw + 2 ^ (f.mw - 1) else 2 ^ (f.ew + f.mw) - 1

/-- ⌊log₂(num/den)⌋ for a positive rational. -/
def floorLog2 (num den : Nat) : Int :=
  let k : Int := (Nat.log2 num : Int) - Nat.log2 den
  let q := pow2Q k
  if q.1 * den ≤ num * q.2 then k else k - 1

/-- The integer part, and the 16 most significant discarded bits, and whether anything is discarded, of
(num/den)/2^q. -/
def scaleQ (num den : Nat) (q : Int) : Nat × Nat × Bool × Ordering :=
  let p := pow2Q q
  let n := num * p.2
  let d := den * p.1
  let lo := n / d
  let r := n % d
  (lo, r * 65536 / d, decide (r ≠ 0), compare (2 * r) d)

/-- Whether a rounding takes the upper neighbour (R129): `lo` the lower one in units of the grid, `d16` the 16
discarded bits, `half` how the discarded part compares with one half, `rnd` the random bits of SR. -/
def roundUp (mode : RMode) (neg : Bool) (lo d16 : Nat) (half : Ordering) (rnd : Nat) : Bool :=
  match mode with
  | .rtz => false
  | .rdn => neg
  | .rup => !neg
  | .sr => decide (65536 ≤ d16 + rnd)
  | _ => match half with
    | .lt => false
    | .gt => true
    | .eq => decide (lo % 2 = 1)

/-- Overflow (R129): FP8, FP6 and FP4 saturate; the others give infinity or the maximum by the mode. -/
def overflowMag (f : FFmt) (mode : RMode) (neg : Bool) : Nat :=
  if f.sat then f.max
  else match mode with
    | .rtz => f.max
    | .rdn => if neg then f.max + 1 else f.max
    | .rup => if neg then f.max else f.max + 1
    | _ => f.max + 1

/-- The rounding function of R129 for a positive rational and a sign, with the flags of R117 and R129. -/
def roundPos (f : FFmt) (mode : RMode) (rnd : Nat) (neg : Bool) (num den : Nat) : FRes :=
  let emin : Int := 1 - (f.bias : Int)
  let q : Int := max (floorLog2 num den) emin - f.mw
  let s := scaleQ num den q
  let y := if s.2.2.1 && roundUp mode neg s.1 s.2.1 s.2.2.2 rnd then s.1 + 1 else s.1
  let y2 := if y = 2 ^ (f.mw + 1) then 2 ^ f.mw else y
  let q2 := if y = 2 ^ (f.mw + 1) then q + 1 else q
  let mag := if y2 < 2 ^ f.mw then y2 else (q2 + f.mw + f.bias).toNat * 2 ^ f.mw + (y2 - 2 ^ f.mw)
  if f.max < mag then ⟨signed f neg (overflowMag f mode neg), fOF⟩
  else ⟨signed f neg mag, if s.2.2.1 && decide (mag < 2 ^ f.mw) then fUF else 0⟩

/-- Narrowing of a value into a format (R126, R129, R133; 03 R58): NaN gives the canonical NaN, or +0 with NV where
the format has none; an infinity is kept or becomes the maximum with OF. -/
def narrow (f : FFmt) (mode : RMode) (rnd : Nat) : FVal → FRes
  | .nan => if f.nan then ⟨canonNaN f, 0⟩ else ⟨0, fNV⟩
  | .inf neg => if f.inf then ⟨signed f neg (f.max + 1), 0⟩ else ⟨signed f neg f.max, fOF⟩
  | .fin neg num den => if num = 0 then ⟨signed f neg 0, 0⟩ else roundPos f mode rnd neg num den

/-- The value with its sign turned. -/
def FVal.neg : FVal → FVal
  | .nan => .nan
  | .inf n => .inf (!n)
  | .fin n a b => .fin (!n) a b

/-- The exact sum (R199): an exact zero from opposite signs is +0, and −0 under RDN; ∞ − ∞ is invalid. -/
def exAdd (mode : RMode) : FVal → FVal → FVal × FFlags
  | .nan, _ => (.nan, 0)
  | _, .nan => (.nan, 0)
  | .inf a, .inf b => if a = b then (.inf a, 0) else (.nan, fNV)
  | .inf a, .fin _ _ _ => (.inf a, 0)
  | .fin _ _ _, .inf b => (.inf b, 0)
  | .fin na a da, .fin nb b db =>
    let x := a * db
    let y := b * da
    let d := da * db
    if na = nb then (.fin na (x + y) d, 0)
    else if x = y then (.fin (decide (mode = .rdn)) 0 1, 0)
    else if y < x then (.fin na (x - y) d, 0)
    else (.fin nb (y - x) d, 0)

/-- The exact product; 0 × ∞ is invalid. -/
def exMul : FVal → FVal → FVal × FFlags
  | .nan, _ => (.nan, 0)
  | _, .nan => (.nan, 0)
  | .inf a, .inf b => (.inf (a != b), 0)
  | .inf a, .fin b n _ => if n = 0 then (.nan, fNV) else (.inf (a != b), 0)
  | .fin a n _, .inf b => if n = 0 then (.nan, fNV) else (.inf (a != b), 0)
  | .fin a n d, .fin b n' d' => (.fin (a != b) (n * n') (d * d'), 0)

/-- The exact a × b + d; 0 × ∞ is invalid even when d is NaN (R199). -/
def exFma (mode : RMode) (a b d : FVal) : FVal × FFlags :=
  let p := exMul a b
  if p.2 = 0 then exAdd mode p.1 d else p

/-- IEEE 754 division as 05 R122 gives it for a scale. -/
def exDiv : FVal → FVal → FVal
  | .nan, _ => .nan
  | _, .nan => .nan
  | .inf _, .inf _ => .nan
  | .inf a, .fin b _ _ => .inf (a != b)
  | .fin a _ _, .inf b => .fin (a != b) 0 1
  | .fin a n d, .fin b n' d' =>
    if n' = 0 then (if n = 0 then .nan else .inf (a != b)) else .fin (a != b) (n * d') (d * n')

/-- Rounds an exact result. -/
def finishF (f : FFmt) (mode : RMode) (rnd : Nat) (r : FVal × FFlags) : FRes :=
  let x := narrow f mode rnd r.1
  ⟨x.bits, x.fl ||| r.2⟩

/-- round(a + b, f, mode). -/
def fAdd (f : FFmt) (mode : RMode) (rnd a b : Nat) : FRes :=
  finishF f mode rnd (exAdd mode (unpack f a) (unpack f b))

/-- round(a − b, f, mode). -/
def fSub (f : FFmt) (mode : RMode) (rnd a b : Nat) : FRes :=
  finishF f mode rnd (exAdd mode (unpack f a) (unpack f b).neg)

/-- round(a × b, f, mode). -/
def fMul (f : FFmt) (mode : RMode) (rnd a b : Nat) : FRes :=
  finishF f mode rnd (exMul (unpack f a) (unpack f b))

/-- round(a × b + d, f, mode), one rounding. -/
def fFma (f : FFmt) (mode : RMode) (rnd a b d : Nat) : FRes :=
  finishF f mode rnd (exFma mode (unpack f a) (unpack f b) (unpack f d))

/-- Is the pattern a NaN? -/
def isNaN (f : FFmt) (c : Nat) : Bool := unpack f c = .nan

/-- The pattern's place in the order with −0 below +0 (R130). -/
def orderKey (f : FFmt) (c : Nat) : Int :=
  let mag : Int := (c % 2 ^ (f.ew + f.mw) : Nat)
  if c / 2 ^ (f.ew + f.mw) % 2 = 1 then -mag - 1 else mag

/-- IEEE 754-2019 minimum (R130). -/
def fMin (f : FFmt) (a b : Nat) : Nat :=
  if isNaN f a || isNaN f b then canonNaN f else if orderKey f a ≤ orderKey f b then a else b

/-- IEEE 754-2019 maximum (R130). -/
def fMax (f : FFmt) (a b : Nat) : Nat :=
  if isNaN f a || isNaN f b then canonNaN f else if orderKey f a ≤ orderKey f b then b else a

/-- The pattern's place in the order of FCMP, in which −0 equals +0 (R143). -/
def cmpKey (c : Nat) : Int :=
  let mag : Int := (c % 2 ^ 31 : Nat)
  if c / 2 ^ 31 % 2 = 1 then -mag else mag

/-- A condition of FCMP (R143). -/
def fcond (c : Cond) (a b : Nat) : Bool :=
  let n := isNaN fp32 a || isNaN fp32 b
  match c with
  | .eq => !n && decide (cmpKey a = cmpKey b)
  | .ne => !n && decide (cmpKey a ≠ cmpKey b)
  | .lt => !n && decide (cmpKey a < cmpKey b)
  | .ge => !n && decide (cmpKey b ≤ cmpKey a)
  | .le => !n && decide (cmpKey a ≤ cmpKey b)
  | .gt => !n && decide (cmpKey b < cmpKey a)
  | .ord => !n
  | .uno => n
  | _ => false

/-- A condition of ICMP, UCMP and GCMP (R143): `sg` reads LT to GT as signed. -/
def icond (sg : Bool) (c : Cond) (a b : W32) : Bool :=
  match c with
  | .eq => a == b
  | .ne => a != b
  | .lt => if sg then a.slt b else a.ult b
  | .ge => if sg then b.sle a else b.ule a
  | .le => if sg then a.sle b else a.ule b
  | .gt => if sg then b.slt a else b.ult a
  | .ltu => a.ult b
  | .geu => b.ule a
  | .leu => a.ule b
  | .gtu => b.ult a
  | _ => false

/-- A value rounded to an integer: its magnitude (R133). -/
def toIntMag (mode : RMode) (rnd : Nat) (neg : Bool) (num den : Nat) : Nat × Bool :=
  let s := scaleQ num den 0
  (if s.2.2.1 && roundUp mode neg s.1 s.2.1 s.2.2.2 rnd then s.1 + 1 else s.1, s.2.2.1)

/-- Conversion to an integer of the range [lo, hi], saturating with NV; NaN gives 0 with NV (R133). -/
def toInt (mode : RMode) (rnd : Nat) (lo hi : Int) : FVal → Int × FFlags
  | .nan => (0, fNV)
  | .inf neg => (if neg then lo else hi, fNV)
  | .fin neg num den =>
    let m : Int := ((toIntMag mode rnd neg num den).1 : Nat)
    let v := if neg then -m else m
    if v < lo then (lo, fNV) else if hi < v then (hi, fNV) else (v, 0)

/-- An integer rounded into FP32 (R133 codes 0x00, 0x01). -/
def ofInt (mode : RMode) (rnd : Nat) (v : Int) : FRes :=
  narrow fp32 mode rnd (.fin (decide (v < 0)) v.natAbs 1)

/-- One round of Philox (R131). -/
def philoxRound (c0 c1 c2 c3 k0 k1 : Nat) : Nat × Nat × Nat × Nat :=
  let p := 0xD2511F53 * c0
  let q := 0xCD9E8D57 * c2
  ((q / 2 ^ 32) ^^^ c1 ^^^ k0, q % 2 ^ 32, (p / 2 ^ 32) ^^^ c3 ^^^ k1, p % 2 ^ 32)

/-- `n` rounds of Philox. -/
def philoxN : Nat → Nat → Nat → Nat → Nat → Nat → Nat → Nat × Nat × Nat × Nat
  | 0, c0, c1, c2, c3, _, _ => (c0, c1, c2, c3)
  | n + 1, c0, c1, c2, c3, k0, k1 =>
    let r := philoxRound c0 c1 c2 c3 k0 k1
    philoxN n r.1 r.2.1 r.2.2.1 r.2.2.2 ((k0 + 0x9E3779B9) % 2 ^ 32) ((k1 + 0xBB67AE85) % 2 ^ 32)

/-- Word c0 of Philox4x32-10 (R131). -/
def philox (c0 c1 c2 c3 k0 k1 : W32) : Nat :=
  (philoxN 10 c0.toNat c1.toNat c2.toNat c3.toNat k0.toNat k1.toNat).1

/-- Bits [15:0] of a random word, or bits [31:16] for a high element (R131). -/
def rnd16 (hi : Bool) (w : Nat) : Nat := if hi then w / 65536 % 65536 else w % 65536

/-- The integer square root by halving: the largest r below 2^`k` more than `r` whose square is at most `n`. -/
def isqrtFrom (n : Nat) : Nat → Nat → Nat
  | 0, r => r
  | k + 1, r => isqrtFrom n k (if (r + 2 ^ k) * (r + 2 ^ k) ≤ n then r + 2 ^ k else r)

/-- ⌊√n⌋. -/
def isqrt (n : Nat) : Nat := isqrtFrom n (Nat.log2 n / 2 + 1) 0

/-- The square root of a positive rational to 2^-200: exact, or the middle of the interval that holds it, which no
point of a rounding grid divides. -/
def sqrtQ (num den : Nat) : Nat × Nat :=
  let n := num * den * 2 ^ 400
  let r := isqrt n
  if r * r = n then (r, den * 2 ^ 200) else (2 * r + 1, den * 2 ^ 201)

/-- FSQRT, correctly rounded (08 R201, R202). -/
def fSqrt (mode : RMode) (rnd : Nat) (a : Nat) : FRes :=
  match unpack fp32 a with
  | .nan => ⟨canonNaN fp32, 0⟩
  | .inf true => ⟨canonNaN fp32, fNV⟩
  | .inf false => ⟨0x7F800000, 0⟩
  | .fin neg num den =>
    if num = 0 then ⟨a, 0⟩
    else if neg then ⟨canonNaN fp32, fNV⟩
    else
      let q := sqrtQ num den
      narrow fp32 mode rnd (.fin false q.1 q.2)

/-! Fixed-point values of the transcendental functions, in units of 2^-192, exact to far below the bounds of R202. -/

/-- One, in fixed point. -/
def fxOne : Nat := 2 ^ 192
/-- π in fixed point. -/
def fxPi : Nat := 19720096697726538562396133364228268891463450865190089732560
/-- ln 2 in fixed point. -/
def fxLn2 : Nat := 4350955369971217654477563090224794165364344896676135745069

/-- Σ over k of terms t·x/(k·(k+step)...): the Taylor tail of e^x with `t` the term of index k. -/
def fxExpAux (x : Nat) : Nat → Nat → Nat → Nat
  | 0, _, _ => 0
  | n + 1, k, t => t + fxExpAux x n (k + 1) (t * x / fxOne / (k + 1))

/-- e^x for 0 ≤ x ≤ 1. -/
def fxExp (x : Nat) : Nat := fxExpAux x 60 0 fxOne

/-- The alternating Taylor tails of sine (k odd) and cosine (k even): `t` the term of index k. -/
def fxTrigAux (x2 : Nat) : Nat → Nat → Nat → Int → Int
  | 0, _, _, s => s
  | n + 1, k, t, s =>
    fxTrigAux x2 n (k + 2) (t * x2 / fxOne / ((k + 1) * (k + 2))) (s + if k / 2 % 2 = 0 then (t : Int) else -(t : Int))

/-- sin x for 0 ≤ x ≤ π/2. -/
def fxSin (x : Nat) : Int := fxTrigAux (x * x / fxOne) 40 1 x 0
/-- cos x for 0 ≤ x ≤ π/2. -/
def fxCos (x : Nat) : Int := fxTrigAux (x * x / fxOne) 40 0 fxOne 0

/-- sin(x + quarter·π/2) for x ≥ 0 in fixed point. -/
def fxSinQ (x quarter : Nat) : Int :=
  let h := fxPi / 2
  let n := (x / h + quarter) % 4
  let r := x % h
  match n with
  | 0 => fxSin r
  | 1 => fxCos r
  | 2 => -fxSin r
  | _ => -fxCos r

/-- Σ of z^(2k+1)/(2k+1): atanh z for 0 ≤ z ≤ 1/3. -/
def fxAtanhAux (z2 : Nat) : Nat → Nat → Nat → Nat
  | 0, _, _ => 0
  | n + 1, k, t => t / k + fxAtanhAux z2 n (k + 2) (t * z2 / fxOne)

/-- ln m for 1 ≤ m ≤ 2, m = num/den. -/
def fxLn (num den : Nat) : Nat :=
  let z := (num - den) * fxOne / (num + den)
  2 * fxAtanhAux (z * z / fxOne) 70 1 z

/-- 2^f in fixed point for a fraction f in fixed point. -/
def fxExp2 (f : Nat) : Nat := fxExp (f * fxLn2 / fxOne)

/-- log₂ of a positive rational, in fixed point. -/
def fxLog2 (num den : Nat) : Int :=
  let k := floorLog2 num den
  let q := pow2Q k
  k * (fxOne : Int) + ((fxLn (num * q.2) (den * q.1) * fxOne / fxLn2 : Nat) : Int)

/-- tanh of a positive rational, in fixed point. -/
def fxTanh (num den : Nat) : Nat :=
  if 20 * den ≤ num then fxOne - 1
  else
    let y := 2 * num * fxOne / den
    let e := fxExp2 (y * fxOne / fxLn2 % fxOne) * 2 ^ (y * fxOne / fxLn2 / fxOne)
    (e - fxOne) * fxOne / (e + fxOne)

/-- |a/b − c/d| ≤ e/g for signed numerators and positive denominators. -/
def withinQ (a : Int) (b : Nat) (c : Int) (d : Nat) (e g : Nat) : Bool :=
  decide ((a * d - c * b).natAbs * g ≤ e * (b * d))

/-- The signed numerator and denominator of a finite value. -/
def FVal.q : FVal → Int × Nat
  | .fin neg n d => (if neg then -(n : Int) else n, d)
  | _ => (0, 1)

/-- Is the value finite? -/
def FVal.isFin : FVal → Bool
  | .fin _ _ _ => true
  | _ => false

/-- One ulp of FP32 at a positive rational. -/
def ulpQ (num den : Nat) : Nat × Nat := pow2Q (max (floorLog2 num den) (-126) - 23)

/-- UF of an approximate member: a tiny result that is not exact (R117). -/
def tinyFl (bits : Nat) : FFlags := if bits % 2 ^ 31 < 2 ^ 23 then fUF else 0

/-- The result of an approximate member (R202): the free value, held to its bound of e/g about c/d; where the free
value breaks the bound, the correctly rounded one. -/
def approx (m : Nat) (a : W32) (c : Int) (d e g : Nat) : FRes :=
  let free := (Config.approx m a).toNat
  let exact := narrow fp32 .rne 0 (.fin (decide (c < 0)) c.natAbs d)
  let v := unpack fp32 free
  if exact.fl &&& fOF ≠ 0 then exact
  else if v.isFin && withinQ v.q.1 v.q.2 c d e g then ⟨free, tinyFl free⟩
  else ⟨exact.bits, tinyFl exact.bits⟩

/-- FRCP (R201, R202): within 1 ulp. -/
def fRcp (a : W32) : FRes :=
  match unpack fp32 a.toNat with
  | .nan => ⟨canonNaN fp32, 0⟩
  | .inf neg => ⟨signed fp32 neg 0, 0⟩
  | .fin neg n d =>
    if n = 0 then ⟨signed fp32 neg 0x7F800000, fDZ⟩
    else
      let u := ulpQ d n
      let c : Int := if neg then -(d : Int) else d
      let exact := narrow fp32 .rne 0 (.fin neg d n)
      let r := approx 2 a c n u.1 u.2
      let v := (unpack fp32 r.bits).q
      if v.1 * n = c * v.2 then ⟨exact.bits, exact.fl⟩ else r

/-- FRSQ: within 2 ulp. -/
def fRsq (a : W32) : FRes :=
  match unpack fp32 a.toNat with
  | .nan => ⟨canonNaN fp32, 0⟩
  | .inf neg => if neg then ⟨canonNaN fp32, fNV⟩ else ⟨0, 0⟩
  | .fin neg n d =>
    if n = 0 then ⟨signed fp32 neg 0x7F800000, fDZ⟩
    else if neg then ⟨canonNaN fp32, fNV⟩
    else
      let q := sqrtQ d n
      let u := ulpQ q.1 q.2
      approx 3 a q.1 q.2 (2 * u.1) u.2

/-- FEXP2: within 2 ulp, and exact where 2^x is representable. Below 2^-152 the same FP32 values lie within 2 ulp of 2^x,
and the same is the nearest, whatever x is. -/
def fExp2 (a : W32) : FRes :=
  match unpack fp32 a.toNat with
  | .nan => ⟨canonNaN fp32, 0⟩
  | .inf neg => if neg then ⟨0, 0⟩ else ⟨0x7F800000, 0⟩
  | .fin neg n d =>
    if n = 0 then ⟨0x3F800000, 0⟩
    else if n % d = 0 && decide (n / d ≤ 149) then
      narrow fp32 .rne 0 (dyadic false 1 (if neg then -((n / d : Nat) : Int) else ((n / d : Nat) : Int)))
    else if !neg && decide (128 * d ≤ n) then ⟨0x7F800000, fOF⟩
    else if neg && decide (152 * d ≤ n) then approx 5 a 1 (2 ^ 152) (2 * (pow2Q (-149)).1) (pow2Q (-149)).2
    else
      let x : Int := if neg then -((n * fxOne / d : Nat) : Int) else ((n * fxOne / d : Nat) : Int)
      let k : Int := x.fdiv fxOne
      let q := pow2Q k
      let num := fxExp2 (x.fmod fxOne).toNat * q.1
      let den := fxOne * q.2
      let u := ulpQ num den
      approx 5 a num den (2 * u.1) u.2

/-- FLOG2: absolute error 2^-22 on [0.5, 2], elsewhere within 2 ulp; exact at powers of two. -/
def fLog2 (a : W32) : FRes :=
  match unpack fp32 a.toNat with
  | .nan => ⟨canonNaN fp32, 0⟩
  | .inf neg => if neg then ⟨canonNaN fp32, fNV⟩ else ⟨0x7F800000, 0⟩
  | .fin neg n d =>
    if n = 0 then ⟨0xFF800000, fDZ⟩
    else if neg then ⟨canonNaN fp32, fNV⟩
    else
      let k := floorLog2 n d
      let q := pow2Q k
      if q.1 * d = n * q.2 then narrow fp32 .rne 0 (.fin (decide (k < 0)) k.natAbs 1)
      else
        let v := fxLog2 n d
        if d ≤ 2 * n && n ≤ 2 * d then approx 6 a v fxOne 1 (2 ^ 22)
        else
          let u := ulpQ v.natAbs fxOne
          approx 6 a v fxOne (2 * u.1) u.2

/-- FSIN (`quarter` 0) and FCOS (`quarter` 1): absolute error 2^-21 up to 32,768, beyond any result in [−1, 1]. -/
def fTrig (m quarter : Nat) (a : W32) : FRes :=
  match unpack fp32 a.toNat with
  | .nan => ⟨canonNaN fp32, 0⟩
  | .inf _ => ⟨canonNaN fp32, fNV⟩
  | .fin neg n d =>
    if n = 0 then (if quarter = 0 then ⟨a.toNat, 0⟩ else ⟨0x3F800000, 0⟩)
    else if 32768 * d < n then approx m a 0 1 1 1
    else
      let v := fxSinQ (n * fxOne / d) quarter
      approx m a (if neg && quarter = 0 then -v else v) fxOne 1 (2 ^ 21)

/-- FTANH: absolute error 2^-20; x itself below 2^-12. -/
def fTanh (a : W32) : FRes :=
  match unpack fp32 a.toNat with
  | .nan => ⟨canonNaN fp32, 0⟩
  | .inf neg => ⟨signed fp32 neg 0x3F800000, 0⟩
  | .fin neg n d =>
    if n * 4096 < d then ⟨a.toNat, 0⟩
    else
      let v : Int := (fxTanh n d : Nat)
      approx 9 a (if neg then -v else v) fxOne 1 (2 ^ 20)

/-- FFRAC (R201): x − floor x under RTZ; a negative x so small that 1 + x is not representable gives the largest
value below 1. -/
def fFrac (a : Nat) : FRes :=
  match unpack fp32 a with
  | .nan => ⟨canonNaN fp32, 0⟩
  | .inf _ => ⟨canonNaN fp32, fNV⟩
  | .fin neg n d =>
    let r := n % d
    if r = 0 then ⟨0, 0⟩
    else narrow fp32 .rtz 0 (.fin false (if neg then d - r else r) d)

/-- The integer-rounding members (R201): exact, and a zero keeps its sign. -/
def fInt (mode : RMode) (a : Nat) : FRes :=
  match unpack fp32 a with
  | .nan => ⟨canonNaN fp32, 0⟩
  | .inf _ => ⟨a, 0⟩
  | .fin neg n d => ⟨(narrow fp32 .rne 0 (.fin neg (toIntMag mode 0 neg n d).1 1)).bits, 0⟩

end Sys2Proof.Machine
end

