-- ==== Sys2Proof/Machine/Tbl.lean ====
section
/-! DEFINITION. Sparse tables: a list of key and value pairs in one canonical form (keys strictly rising, no entry
equal to the value an unlisted key reads as). Registers, memories and every other indexed store of the machine are
such tables; a byte memory is one whose unlisted bytes read as 0 (DESIGN CHOICE, log 6). -/

namespace Sys2Proof.Machine

/-- A sparse table of `α`. -/
abbrev Tbl (α : Type) := List (Nat × α)

/-- The value at key `k`; `d` where nothing is listed. -/
def tget {α : Type} (d : α) : Tbl α → Nat → α
  | [], _ => d
  | (i, v) :: m, k => if k = i then v else tget d m k

/-- The table without key `k`. -/
def tdel {α : Type} (k : Nat) : Tbl α → Tbl α
  | [] => []
  | (i, v) :: m => if k = i then tdel k m else (i, v) :: tdel k m

/-- `v` put at key `k`, before the first larger key (for a table that does not list `k`). -/
def tins {α : Type} (k : Nat) (v : α) : Tbl α → Tbl α
  | [] => [(k, v)]
  | (i, w) :: m => if k < i then (k, v) :: (i, w) :: m else (i, w) :: tins k v m

/-- The table with `v` at key `k`, in canonical form. -/
def tset {α : Type} [DecidableEq α] (d : α) (m : Tbl α) (k : Nat) (v : α) : Tbl α :=
  if v = d then tdel k m else tins k v (tdel k m)

/-- The table with the value at `k` changed by `f`. -/
def tmod {α : Type} [DecidableEq α] (d : α) (m : Tbl α) (k : Nat) (f : α → α) : Tbl α :=
  tset d m k (f (tget d m k))

/-- The canonical form: keys strictly rising and no listed value equal to the unlisted one. -/
def twf {α : Type} [DecidableEq α] (d : α) : Tbl α → Bool
  | [] => true
  | (i, v) :: m => decide (v ≠ d) && m.all (fun p => decide (i < p.1)) && twf d m

/-- A byte memory: address and byte pairs; an unlisted byte reads 0. -/
abbrev Memory := List Host.Cell

/-- The canonical form of a memory. -/
def Memory.wf (m : Memory) : Bool := twf (0 : Byte) m

/-- The byte at address `a`. -/
def mget (m : Memory) (a : Nat) : Byte := tget (0 : Byte) m a

/-- The memory with `b` at address `a`. -/
def mset (m : Memory) (a : Nat) (b : Byte) : Memory := tset (0 : Byte) m a b

/-- The `n` bytes from address `a` up. -/
def mread (m : Memory) : Nat → Nat → List Byte
  | _, 0 => []
  | a, n + 1 => mget m a :: mread m (a + 1) n

/-- The memory with the bytes `bs` from address `a` up. -/
def mwrite (m : Memory) : Nat → List Byte → Memory
  | _, [] => m
  | a, b :: bs => mwrite (mset m a b) (a + 1) bs

/-- The little-endian word of `n` bytes at `a` (R4). -/
def mnum (m : Memory) (a n : Nat) : Nat := leNat (mread m a n)

/-- The memory with `v` stored as `n` little-endian bytes at `a`. -/
def mput (m : Memory) (a n v : Nat) : Memory := mwrite m a (leBytes n v)

/-- The memory with every byte of `[a, a + n)` at 0. -/
def mclear (m : Memory) (a n : Nat) : Memory := m.filter (fun p => !(decide (a ≤ p.1) && decide (p.1 < a + n)))

/-- The bytes of `[a, a + n)`, re-based so that `a` becomes `b`. -/
def mslice (m : Memory) (a n b : Nat) : Memory :=
  (m.filter (fun p => decide (a ≤ p.1) && decide (p.1 < a + n))).map (fun p => (p.1 - a + b, p.2))

/-- `m` with `[b, b + n)` replaced by the bytes of `[a, a + n)` of `src`. -/
def mcopy (m src : Memory) (a n b : Nat) : Memory :=
  (mslice src a n b).foldl (fun acc p => mset acc p.1 p.2) (mclear m b n)

end Sys2Proof.Machine
end

