-- ==== Sys2Proof/Machine/State.lean ====
section
/-! DEFINITION. The state of the module as plain data: everything spec/ gives it, unit by unit; Fault and Refusal;
and State.reset, the module right after module reset. Each field's comment gives its width, the rule that names it
and its reset value. -/

namespace Sys2Proof.Machine

/-- Why a step can stop the machine. The manual turns every fault into a trap entry, a status or a parked group, so
no meaning raises this; it stands for a step outside the model. SAFE: nothing is proved of a run that stops. -/
inductive Fault where
  /-- Raised by no meaning; kept so that the type is not empty. SAFE. -/
  | unreachable
deriving DecidableEq, Repr

/-- Why an instruction has no meaning. -/
inductive Refusal where
  /-- Raised by Dispatch for an instruction that has no meaning yet. SAFE. -/
  | notModelled (mnemonic : String)
deriving DecidableEq, Repr

/-- A BT register (spec/02 R36): the translation of a buffer record's BASE. -/
structure BT where
  /-- valid; 1 bit; 02 R36; reset 0 -/
  valid : Bool
  /-- TGT of the leaf; 2 bits; 02 R36; reset 0 -/
  tgt : BitVec 2
  /-- writable; 1 bit; 02 R36; reset 0 -/
  w : Bool
  /-- supervisor-only leaf, kept so that a cached translation obeys R32; 1 bit; 02 R32, R36; reset 0 -/
  sup : Bool
  /-- page size; 2 bits; 02 R36; reset 0 -/
  psz : BitVec 2
  /-- LIMIT, bytes from BASE to the end of its page; 38 bits; 02 R36; reset 0 -/
  limit : BitVec 38
  /-- PA of BASE; 52 bits; 02 R36; reset 0 -/
  pa : BitVec 52
deriving DecidableEq, Repr

/-- What a reader of a register finds besides its value: an uncorrectable error (spec/03 R71, 10 R267), or the
failure of the RATOM that was to write it (11 R288). -/
inductive RegErr where
  | data (sub : Nat) (val : W64)
  | fabric
deriving DecidableEq, Repr

/-- A register a long-latency producer writes (spec/05 R111): `lanes` holds sixteen values, written under `mask`. -/
inductive Dest where
  | v (r : Nat) (mask : BitVec 16) (lanes : List W32)
  | g (r : Nat) (val : W32)
deriving DecidableEq, Repr

/-- A destination register: a V register, or a uniform register, 64 to 67 for HG0 to HG3. -/
inductive DReg where
  | v (r : Nat)
  | g (r : Nat)
deriving DecidableEq, Repr

/-- A long-latency write on its way (R111): its register, the path it counts on, and what its reader meets. -/
structure Pending where
  /-- the registers and values, which land together; 05 R111; none at reset -/
  dests : List Dest
  /-- the access path it counts on; 07 R169; none at reset -/
  path : Option Nat
  /-- the error its reader meets; 03 R71; none at reset -/
  err : Option RegErr
deriving DecidableEq, Repr

/-- The registers of a group (spec/05 R108). -/
structure Regs where
  /-- V0 to V127, 16 lanes of 32 bits each, lane t of register r at key 16r + t; 05 R108; reset 0 (launch value) -/
  v : Tbl W32
  /-- empty bits of V0 to V127 (1 = empty); 128 bits; 05 R108, R111; reset 0 (full) -/
  vEmpty : BitVec 128
  /-- G0 to G63; 64 × 32 bits; 05 R108; reset 0 (launch value) -/
  g : Tbl W32
  /-- empty bits of G0 to G63; 64 bits; 05 R108, R111; reset 0 (full) -/
  gEmpty : BitVec 64
  /-- handler bank HG0 to HG3; 4 × 32 bits; 16 R408; reset DESIGN CHOICE 0 (log 5) -/
  hg : Tbl W32
  /-- buffer records B0 to B15; 16 × 256 bits; 05 R108, R120; reset 0 -/
  b : Tbl (BitVec 256)
  /-- BT registers, one per B record; 02 R35, R36; reset 0 -/
  bt : Tbl BT
  /-- EXM; 16 bits; 05 R108, R109; reset 0xFFFF (launch value) -/
  exm : BitVec 16
  /-- SPP; 32 bits; 05 R110; reset 0 -/
  spp : W32
  /-- PC, the virtual address of the next instruction; 64 bits; 06 R134, 15 R385; reset DESIGN CHOICE 0 (log 5): set at launch -/
  pc : W64
deriving DecidableEq, Repr

/-- The per-group system registers (spec/05 R116, 16 R409). -/
structure SysRegs where
  /-- FPFLAGS 0x000, bits [3:0]; 32 bits; 05 R117; reset 0 -/
  fpflags : W32
  /-- RMODE 0x001; 32 bits; 05 R118; reset 0 -/
  rmode : W32
  /-- SRKEY 0x002; 32 bits; 05 R119; reset 0 -/
  srkey : W32
  /-- SRCNT 0x003; 32 bits; 05 R119; reset 0 -/
  srcnt : W32
  /-- TCAUSE 0x102; 32 bits; 16 R409; reset DESIGN CHOICE 0 (log 5; zero at launch by 05 R108) -/
  tcause : W32
  /-- TEPC 0x103; 32 bits; 16 R409; reset DESIGN CHOICE 0 (log 5; zero at launch by 05 R108) -/
  tepc : W32
  /-- TADDR and TADDRH 0x104, 0x105; 64 bits; 16 R409; reset DESIGN CHOICE 0 (log 5; zero at launch by 05 R108) -/
  taddr : W64
  /-- TMASK 0x106; 16 bits; 16 R409; reset DESIGN CHOICE 0 (log 5; zero at launch by 05 R108) -/
  tmask : BitVec 16
  /-- TEXM 0x107; 16 bits; 16 R409; reset DESIGN CHOICE 0 (log 5; zero at launch by 05 R108) -/
  texm : BitVec 16
  /-- TSTAT.HM 0x10C [0]; 1 bit; 16 R411; reset 0 -/
  hm : Bool
  /-- TSTAT.SS 0x10C [1]; 1 bit; 16 R411; reset 0 -/
  ss : Bool
  /-- ACCXFER 0x120, the last value written; 32 bits; 16 R409, R413; reset DESIGN CHOICE 0 (log 5; zero at launch by 05 R108) -/
  accxfer : W32
  /-- ACCIMG 0x121, 0x122; 52 bits; 16 R409; reset DESIGN CHOICE 0 (log 5; zero at launch by 05 R108) -/
  accimg : BitVec 52
  /-- the high half of the count the latest CLK read returned (CLKH); 32 bits; 06 R138; reset 0 -/
  clkh : W32
deriving DecidableEq, Repr

/-- The state of a tape stream (spec/10 R240). -/
inductive StreamSt where
  | closed | record | dropping | replay | failed
deriving DecidableEq, Repr

/-- A record fetched back from a tape region (spec/10 R258, R259). -/
structure TapeHead where
  /-- byte offset of the record in its region; 10 R259; none at reset -/
  off : Nat
  /-- the header word; 32 bits; 10 R244; none at reset -/
  hdr : W32
  /-- the payload words; 10 R244; none at reset -/
  body : List W32
  /-- the trailer equals the header and KIND is not reserved; 10 R259; none at reset -/
  good : Bool
  /-- an uncorrectable error was met in the fetch; 10 R267; none at reset -/
  bad : Bool
deriving DecidableEq, Repr

/-- A record accepted for recording and not yet drained: its offset, its bytes, and whether path 5 counts it (R243). -/
structure StageRec where
  /-- in the spill region; 10 R256; none at reset -/
  spill : Bool
  /-- byte offset in its region; 10 R244; none at reset -/
  off : Nat
  /-- the record's bytes; 10 R244; none at reset -/
  bytes : List Byte
  /-- counted on path 5 (a LINK is not); 10 R243; none at reset -/
  counted : Bool
deriving DecidableEq, Repr

/-- A tape stream of a group (spec/10 R269 lists what is saved). -/
structure Stream where
  /-- state; 10 R240; reset CLOSED -/
  st : StreamSt
  /-- LRM (1 = RNE); 1 bit; 10 R248; reset 0 -/
  lrm : Bool
  /-- DIVP (1 = ADOPT); 1 bit; 10 R248; reset 0 -/
  divp : Bool
  /-- OVF; 2 bits; 10 R248; reset 0 -/
  ovf : BitVec 2
  /-- captured region record RB; 256 bits; 10 R249; reset 0 -/
  region : BitVec 256
  /-- captured spill region record SPB; 256 bits; 10 R249; reset 0 -/
  spillRec : BitVec 256
  /-- staging offset; 32 bits; 10 R241; reset 0 -/
  staging : W32
  /-- L, committed length in the region in use; 31 bits; 10 R249, R255; reset 0 -/
  len : Nat
  /-- the region in use is the spill region; 1 bit; 10 R256; reset 0 -/
  inSpill : Bool
  /-- a MARK has been written; 1 bit; 10 R257; reset 0 -/
  marked : Bool
  /-- Pm, offset of the last MARK; 10 R254; reset 0 -/
  pm : Nat
  /-- DROP flag of the last MARK; 1 bit; 10 R254; reset 0 -/
  markDrop : Bool
  /-- identifier, or DROPID, of the last MARK; 16 bits; 10 R254; reset 0 -/
  markId : BitVec 16
  /-- DROPID of the range being dropped; 16 bits; 10 R257; reset 0 -/
  dropId : BitVec 16
  /-- sequence number; 10 R253; reset 0 -/
  seq : Nat
  /-- read position in replay: length not yet popped in the region in use; 10 R249, R258; reset 0 -/
  pos : Nat
  /-- the read position lies in the spill region; 1 bit; 10 R256, R258; reset 0 -/
  posSpill : Bool
  /-- replay count; 10 R261; reset 0 -/
  popped : Nat
  /-- registers of the head record already read through Q0; 10 R264; reset 0 -/
  q0 : Nat
  /-- accepted records not yet drained (in staging); 10 R241; reset empty -/
  stage : List StageRec
  /-- records at the head of staging that stand in the half given to the copy engine to drain; 10 R241; reset 0 -/
  full : Nat
  /-- the fetched head record; 10 R258; reset none -/
  head : Option TapeHead
  /-- a thread store fell into the staging area: contents unspecified; 10 R241; reset 0 -/
  spoiled : Bool
deriving DecidableEq, Repr

/-- What a group waits for. -/
inductive Wait where
  /-- a register left empty by XRED, or an empty destination: no wait that leaves the active set (15 R398) -/
  | short
  | reg | queue | counter | barrier | cluster | object | monitor | engine | array | tape | view | shootdown
  | accum | exit | messages | checked | stores
deriving DecidableEq, Repr

/-- Whether a group can issue. -/
inductive GStatus where
  /-- resident and free to issue -/
  | ready
  /-- waiting; it issues its instruction again (spec/15 R398) -/
  | waiting (w : Wait)
  /-- Invar mode: asleep (15 R404) -/
  | asleep
  /-- parked on a fault (16 R415) -/
  | parked
  /-- in debug stop (16 R420) -/
  | debug
  /-- stopped by a double trap (16 R414) -/
  | stopped
  /-- exited (14 R369) -/
  | exited
deriving DecidableEq, Repr

/-- A fabric-error entry (spec/11 R288): code, address, and its place in the order of failures. -/
structure FabErr where
  /-- failure code; 4 bits; 11 R279, R288; none at reset -/
  code : Nat
  /-- target address; 64 bits; 11 R288; none at reset -/
  addr : W64
  /-- order of failures; 11 R288; none at reset -/
  order : Nat
deriving DecidableEq, Repr

/-- An armed condition monitor (spec/14 R367): the watched word, named by space and home address, and the condition. -/
structure Monitor where
  /-- watched space; 3 bits; 14 R366; none at reset -/
  space : Nat
  /-- address at the home: tile or window offset, scratchpad offset, or HBM address; 14 R367; none at reset -/
  addr : Nat
  /-- core or die that holds the word; 14 R367; none at reset -/
  home : Nat
  /-- condition; 14 R366; none at reset -/
  cond : WCond
  /-- compared value; 32 bits; 14 R366; none at reset -/
  val : W32
  /-- L2 class of the record through which a word of HBM is read; 3 bits; 04 R83; none at reset -/
  cls : Nat
deriving DecidableEq, Repr

/-- A parked fault (spec/16 R415, R416). -/
structure Parked where
  /-- cause 0x05, 0x09 or 0x0B; 16 R415; none at reset -/
  cause : Nat
  /-- faulting address of the lowest parked thread; 64 bits; 16 R415; none at reset -/
  va : W64
  /-- parked threads; 16 bits; 16 R415; none at reset -/
  mask : BitVec 16
  /-- stored answer (true = RETRY); 16 R416; none at reset -/
  answer : Option Bool
deriving DecidableEq, Repr

/-- The synchronisation state of a group (spec/16 R422 lists what is saved). -/
structure GSync where
  /-- whether the group can issue; 15 R398; reset exited (no group) -/
  status : GStatus
  /-- number of the group's slot on its core; 7 bits; 16 R415, 15 R380; reset 0 -/
  gslot : Nat
  /-- access-path counters 0 to 7; 8 × 16 bits; 07 R169; reset DESIGN CHOICE 0 (log 5) -/
  paths : Tbl Nat
  /-- Q3, at most 16 entries; 05 R115, 03 R68; reset empty -/
  q3 : List W32
  /-- queue selection of Q0 and Q1 (stream slot); 1 bit; 10 R264; reset S0 -/
  qsel : Bool
  /-- fabric-error entry of path 3; 11 R288; reset clear -/
  fab3 : Option FabErr
  /-- fabric-error entry of path 7; 11 R288; reset clear -/
  fab7 : Option FabErr
  /-- address of a PUT, RATOM or RACC and its threads not yet sent; 11 R282; reset none -/
  unsent : Option (W64 × BitVec 16)
  /-- the same of an instruction of the handler, in handler mode; 11 R282, 16 R414; reset none -/
  unsentH : Option (W64 × BitVec 16)
  /-- parked state; 16 R415; reset none -/
  parked : Option Parked
  /-- single-step armed for the next instruction; 16 R419; reset 0 -/
  stepArmed : Bool
  /-- the BAR or CBAR at PC has arrived; 14 R362, R377; reset 0 -/
  arrived : Bool
  /-- TTAG progress: segments done and the captured word; 07 R182; reset none -/
  ttag : Option (Nat × W32)
  /-- condition monitor; 14 R367; reset none -/
  monitor : Option Monitor
  /-- the wait of the instruction at PC has been satisfied; 14 R367; reset 0 -/
  woken : Bool
  /-- retired instructions since launch; 64 bits; 15 R406; reset 0 -/
  retired : Nat
  /-- clock of the last instruction issued; 15 R399; reset 0 -/
  issuedAt : Nat
  /-- long-latency writes on their way; 05 R111; reset none -/
  pend : List Pending
  /-- registers written together whose first reader meets an error; 03 R71, 10 R267, 11 R288; reset none -/
  errs : List (List DReg × RegErr)
  /-- specials and queue entries that the waiting instruction at PC read when it issued, by source, for threads 0 to 15; 06 R138, 05 R115; reset none -/
  sampled : List (Src × List W32)
  /-- EXM, CLKH and the stream of Q0 and Q1 as the waiting instruction at PC found them before it read its sources; 06 R135; reset none -/
  undo : Option (BitVec 16 × W32 × Option Stream)
  /-- TLBI at PC has issued and waits for its drain (true = drained); 02 R37; reset none -/
  tlbi : Option Bool
  /-- ACCXFER transfer at PC has been asked for (true = done); 16 R413; reset none -/
  accx : Option Bool
  /-- SENDs of this group that have not written status; 12 R330; reset 0 -/
  sends : Nat
  /-- a FENCE with release order at TEAM scope precedes, so that each later write is a release; 13 R338, R344; reset 0 -/
  relFence : Bool
  /-- the GENFENCE at PC has made its change and waits for old receives: its register and result; 14 R374; reset none -/
  fence : Option (Nat × W32)
deriving DecidableEq, Repr

/-- A group slot's contents. -/
structure Group where
  /-- the slot holds a group of a launched team; 15 R380; reset 0 -/
  live : Bool
  /-- registers; 05 R108; reset as Regs -/
  r : Regs
  /-- system registers; 05 R116; reset as SysRegs -/
  sys : SysRegs
  /-- synchronisation state; 07 R169; reset as GSync -/
  y : GSync
  /-- tape stream S0; 10 R239; reset CLOSED -/
  s0 : Stream
  /-- tape stream S1; 10 R239; reset CLOSED -/
  s1 : Stream
deriving DecidableEq, Repr

/-- A team barrier (spec/14 R362). -/
structure Barrier where
  /-- the phase is open; 1 bit; 14 R362; reset 0 -/
  opened : Bool
  /-- the phase's count (its A value); 14 R362; reset 0 -/
  count : Nat
  /-- indexes of the groups that have arrived; 14 R362; reset none -/
  arrived : List Nat
deriving DecidableEq, Repr

/-- What a team is doing. -/
inductive TeamSt where
  /-- not launched -/
  | none
  /-- resident on its core -/
  | resident
  /-- a pre-emption has brought it to its boundary (spec/16 R421) -/
  | boundary
  /-- saved (16 R422), dispatchable again -/
  | saved
  /-- exited (15 R349) -/
  | exited
deriving DecidableEq, Repr

/-- A tile instruction in an array queue (spec/09 R211): what was captured at issue. -/
inductive TileOp where
  | tmma (acc : Nat) (ctl : W32) (a b : W32)
  | tdual (x w : Nat) (ctl : W32) (g x0 : W32)
  | tprom (acc : Nat)
  | tzero (acc : Nat)
  | tsta (acc : Nat) (ctl : W32) (origin : W32) (rcd : BitVec 256) (rm : BitVec 3)
  | tlda (acc : Nat) (ctl : W32) (origin : W32) (rcd : BitVec 256)
deriving DecidableEq, Repr

/-- An entry of an array queue; `acc` numbers in `op` are the team's names. -/
structure TileCmd where
  /-- team key; 09 R211; none at reset -/
  team : Nat
  /-- issuing group's index; 09 R210; none at reset -/
  g : Nat
  /-- the instruction and its captured operands; 09 R218; none at reset -/
  op : TileOp
  /-- its number among its team's tile instructions, in issue order; 09 R234; none at reset -/
  no : Nat
  /-- it has started, but its B registers are not all full yet; 09 R213; none at reset -/
  unread : Bool
deriving DecidableEq, Repr

/-- A TMAXR that waits for its team's earlier tile instructions (spec/09 R234): destination, TCB index, CLR. -/
structure MaxrCmd where
  /-- group index; 09 R234; none at reset -/
  g : Nat
  /-- destination G register; 09 R234; none at reset -/
  d : Nat
  /-- TCB index; 8 bits; 09 R234; none at reset -/
  tcb : Nat
  /-- CLR; 1 bit; 09 R234; none at reset -/
  clr : Bool
  /-- tile instructions that the team had issued before it; 09 R234; none at reset -/
  before : Nat
deriving DecidableEq, Repr

/-- Progress of a copy command. -/
inductive CopySt where
  | queued | active
  /-- every byte is done, or an error stopped it; the status is not yet written -/
  | done
  /-- done, and held by a full Q3 (spec/03 R68) or by a full array queue (R64) -/
  | held
  /-- stopped by a pre-emption (R72) -/
  | stopped
deriving DecidableEq, Repr

/-- A slot that a command has bound through a view handle, with its copy pin (spec/03 R76). -/
structure ViewPin where
  /-- handle of the record; 16 bits; 03 R76; none at reset -/
  handle : Nat
  /-- SHADOW of the record; 1 bit; 03 R76; none at reset -/
  shadow : Bool
  /-- live handle whose slot is pinned; 16 bits; 03 R76; none at reset -/
  live : Nat
  /-- slot; 2 bits; 03 R76; none at reset -/
  slot : Nat
  /-- frame list of the slot; 52 bits; 03 R75; none at reset -/
  list : Nat
  /-- PAGES of the handle; 24 bits; 03 R76; none at reset -/
  pages : Nat
deriving DecidableEq, Repr

/-- A bulk copy command (spec/03 R46 to R72). -/
structure CopyCmd where
  /-- command number within the module; 03 R45; none at reset -/
  id : Nat
  /-- issuing group, or none for a COPY node or a join stripe; 03 R45, 15 R387; none at reset -/
  gk : Option Nat
  /-- graph node address of a COPY node; 15 R387; none at reset -/
  node : Option W64
  /-- context; 03 R46; none at reset -/
  ctx : Nat
  /-- privilege of the issuing group; 02 R29; none at reset -/
  priv : Bool
  /-- PSTW; 07 R175; none at reset -/
  pstw : Bool
  /-- BCOPYM; 03 R64; none at reset -/
  follow : Bool
  /-- captured command words w0 to w7; 03 R46, R48; none at reset -/
  w : List W32
  /-- captured records S, D and T; 03 R46; none at reset -/
  s : BitVec 256
  d : BitVec 256
  t : BitVec 256
  /-- seed for stochastic rounding; 03 R59; none at reset -/
  seed : W32
  /-- status register; 03 R65; none at reset -/
  gd : Nat
  /-- progress state; 03 R45; none at reset -/
  st : CopySt
  /-- runs of up to 32 elements done, in geometry order; 03 R50, R72; none at reset -/
  pos : Nat
  /-- elements of the run at hand that have been read, and written; 03 R62, R67; none at reset -/
  rd : Nat
  wr : Nat
  /-- destination bits written; 03 R66; none at reset -/
  bytes : Nat
  /-- saturated elements; 03 R58, R66; none at reset -/
  sat : Nat
  /-- largest finite source magnitude read, as an FP32 pattern; 03 R60; none at reset -/
  amax : W32
  /-- error class; 3 bits; 03 R67; none at reset -/
  cls : Nat
  /-- DETAIL; 16 bits; 03 R67; none at reset -/
  detail : Nat
  /-- slots bound through views; 03 R76; none at reset -/
  bound : List ViewPin
  /-- destination segments now FILLING, with their metadata words from before; 03 R62, R67; none at reset -/
  filling : List (Nat × W32)
  /-- source segments being read with tags honoured; 03 R62; none at reset -/
  reading : List Nat
  /-- gathered table entry in use: outer index and base; 03 R52; none at reset -/
  gather : Option (Nat × W64)
  /-- home core or die of spaces 0 to 2; 03 R47; none at reset -/
  home : Nat
  /-- the follow-on word read and held while the array queue is full; 32 bits; 03 R64; none at reset -/
  fword : Option W32
deriving DecidableEq, Repr

/-- The scheduling state of a quadrant (spec/15 R397, R398, R405). -/
structure Quad where
  /-- active set: group keys at positions 0 to 7; 15 R397; reset empty -/
  active : Tbl (Option Nat)
  /-- pending FIFO of group keys; 15 R398; reset empty -/
  fifo : List Nat
  /-- positions in the order in which they were taken, oldest first; 15 R398; reset empty -/
  held : List Nat
  /-- position of the group that issued last; 15 R397; reset DESIGN CHOICE 7 (log 139) -/
  last : Nat
  /-- instructions issued since the last Invar swap; 15 R405; reset 0 -/
  issued : Nat
  /-- Invar swaps so far; 15 R405; reset 0 -/
  swaps : Nat
deriving DecidableEq, Repr

/-- A team (spec/15 R380 to R385). -/
structure Team where
  /-- what the team is doing; 15 R380; reset none -/
  st : TeamSt
  /-- launch key; 15 R381; reset 0 -/
  launch : Nat
  /-- context number; 16 R409; reset 0 -/
  ctx : Nat
  /-- team linear index; 32 bits; 05 R132; reset 0 -/
  index : Nat
  /-- grid coordinates GRIDX, GRIDY, GRIDZ; 3 × 16 bits; 06 R138; reset 0 -/
  gx : Nat
  gy : Nat
  gz : Nat
  /-- TEAMX, rank in the cluster; 4 bits; 06 R138, 15 R382; reset 0 -/
  rank : Nat
  /-- cluster key shared by its teams; 15 R382; reset 0 -/
  cluster : Nat
  /-- logical core; 8 bits; 06 R138; reset 0 -/
  core : Nat
  /-- team slot 0 to 3 on its core; 2 bits; 15 R380, 09 R235; reset 0 -/
  slot : Nat
  /-- first physical segment; 9 bits; 04 R97; reset 0 -/
  base : Nat
  /-- barriers 0 to 7; 14 R362; reset no open phase -/
  bars : Tbl Barrier
  /-- groups that have arrived at the cluster barrier's phase; 14 R363; reset none -/
  cbar : List Nat
  /-- asynchronous barrier objects 0 to 7; 8 × 32 bits; 14 R364; reset 0 -/
  abar : Tbl W32
  /-- Q2, at most 256 entries; 05 R115, 12 R318; reset empty -/
  q2 : List W32
  /-- accumulator name map A0 to A3 to physical tiles; 09 R235; reset none -/
  accMap : List Nat
  /-- image records of accumulator names; 16 R413; reset none -/
  images : Tbl (Option (BitVec 52))
  /-- queued tile instructions saved with the context, and those that wait to enter the queue again; 09 R211, R236; reset none -/
  savedTiles : List TileCmd
  /-- tile instructions that the team has issued; 09 R234; reset 0 -/
  tileNo : Nat
  /-- TMAXRs waiting; 09 R234; reset none -/
  maxr : List MaxrCmd
  /-- an uncorrectable error of a quartet's tile instruction not yet reported (quartet numbers); 09 R237; reset none -/
  tileErr : List Nat
  /-- saved tile memory (team offsets), side band, metadata; 16 R422; reset empty -/
  saveTile : Memory
  saveSide : Memory
  saveMeta : Tbl W32
  /-- stopped copy commands saved with the context, each with true for the link die's engines; 03 R72; reset none -/
  saveCopies : List (CopyCmd × Bool)
  /-- the teams saved with it, which are restored with it, ascending; 16 R421; reset none -/
  mates : List Nat
  /-- turn counter and quadrants of an Invar core as saved; 15 R407; reset none -/
  inv : Option (Nat × Tbl Quad)
  /-- clock of the last placement; 15 R394; reset 0 -/
  placedAt : Nat
  /-- clock since which a saved team waits for a place; 15 R396; reset 0 -/
  since : Nat
deriving DecidableEq, Repr

/-- A launch (spec/15 R383): the record as read at the node's start, and its progress. -/
structure Launch where
  /-- the node has started and not completed; 15 R388; reset 0 -/
  live : Bool
  /-- context number; 15 R383; reset 0 -/
  ctx : Nat
  /-- graph node address; 64 bits; 15 R386; reset 0 -/
  node : W64
  /-- the 64 words of the launch record; 15 R383; reset none -/
  rcd : List W32
  /-- teams placed so far; 15 R381; reset 0 -/
  placed : Nat
  /-- teams exited so far; 15 R387; reset 0 -/
  exited : Nat
  /-- the launch is marked failed, with the completion DETAIL; 16 R418, R414; reset 0 -/
  failed : Option Nat
  /-- a bound collective ended badly: the completion DETAIL, and whether the queue is then rewound; 11 R290, 16 R417; reset 0 -/
  bindErr : Option (Nat × Bool)
  /-- effective class; 2 bits; 15 R395; reset 0 -/
  cls : Nat
  /-- the launch was ended by a double trap, an abort or a context's end; 16 R414; reset 0 -/
  dead : Bool
  /-- clock since which its next team waits for a place; 15 R396; reset 0 -/
  since : Nat
  /-- a cooperative launch that is the dispatch choice and waits until all its teams fit; 15 R401; reset 0 -/
  waiting : Bool
deriving DecidableEq, Repr

/-- An N-sum (spec/09 R223). -/
inductive NKind where
  | zero | val | inf | nan
deriving DecidableEq, Repr

/-- An N-sum with its sticky bit (spec/09 R223, laid out in 16 R413). -/
structure NSum where
  /-- kind; 2 bits; 09 R223; reset DESIGN CHOICE +0 (log 5) -/
  kind : NKind
  /-- sign; 1 bit; 09 R223; reset DESIGN CHOICE 0 (log 5) -/
  neg : Bool
  /-- exponent of bias 127; 8 bits; 09 R223; reset DESIGN CHOICE 0 (log 5) -/
  exp : BitVec 8
  /-- fraction; 13 bits; 09 R223; reset DESIGN CHOICE 0 (log 5) -/
  frac : BitVec 13
  /-- sticky; 1 bit; 09 R223; reset DESIGN CHOICE 0 (log 5) -/
  sticky : Bool
deriving DecidableEq, Repr

/-- A physical accumulator tile (spec/09 R223, R235). -/
structure Acc where
  /-- owner tag: context number and team slot, or NONE; 09 R235; reset NONE -/
  owner : Option (Nat × Nat)
  /-- MODEL'S OWN: the team that was tagged, whose state an image record goes to; 16 R413; reset 0 -/
  team : Nat
  /-- 128 × 128 FP32 elements at key 128m + n; 05 R108; reset DESIGN CHOICE 0 (log 5) -/
  vals : Tbl W32
  /-- N-sums at key 128m + n; 09 R223; reset DESIGN CHOICE +0 (log 5) -/
  ns : Tbl NSum
  /-- promotion counter; 4 bits; 09 R223; reset DESIGN CHOICE 0 (log 5) -/
  c : Nat
  /-- a read of the tile meets an uncorrectable error; 09 R237; reset 0 -/
  bad : Bool
deriving DecidableEq, Repr

/-- A scratchpad segment held by a core's segment cache (spec/04 R91, R95). Only software-managed segments keep
bytes of their own: a coherent segment's bytes stand at its home. -/
structure SegCopy where
  /-- segment number of the die's scratchpad; 04 R91; none at reset -/
  seg : Nat
  /-- software-managed; 04 R91; none at reset -/
  soft : Bool
  /-- bytes held, keyed by scratchpad offset; 04 R95; none at reset -/
  bytes : Memory
  /-- offsets of the dirty bytes; 04 R95; none at reset -/
  dirty : List Nat
  /-- 128-byte lines of the copy that have been dropped: address / 128; 07 R165, 13 R345; none at reset -/
  gone : List Nat
deriving DecidableEq, Repr

/-- A cached translation (spec/02 R30, R35). -/
structure TlbEntry where
  /-- ASID tag; 13 bits; 02 R30; none at reset -/
  asid : BitVec 13
  /-- virtual address of the page; 02 R31; none at reset -/
  va : Nat
  /-- page size: 0 64 KiB, 1 2 MiB, 2 1 GiB; 02 R31; none at reset -/
  psz : Nat
  /-- the leaf entry; 64 bits; 02 R32; none at reset -/
  leaf : W64
deriving DecidableEq, Repr

/-- A core (spec/01 R12). -/
structure Core where
  /-- the core has failed and is fenced off; 01 R20, R21; reset 0 -/
  lost : Bool
  /-- teams in slots 0 to 3: team key + 1, or 0; 15 R380; reset empty -/
  slots : Tbl Nat
  /-- tile memory, 2 MiB, physical bytes; 04 R97; reset DESIGN CHOICE 0 (log 5) -/
  tile : Memory
  /-- side bands, 512 × 256 bytes; 04 R101; reset DESIGN CHOICE 0 (log 5) -/
  side : Memory
  /-- metadata words of the 512 segments; 32 bits each; 04 R99; reset 0 -/
  mdw : Tbl W32
  /-- context that last used a segment, + 1; 04 R97; reset none -/
  segOwner : Tbl Nat
  /-- team that holds a segment, + 1; 15 R380; reset none -/
  segTeam : Tbl Nat
  /-- accumulator tiles A0 to A3; 09 R235; reset as Acc -/
  acc : Tbl Acc
  /-- array queue, at most 8 entries; 09 R211; reset empty -/
  queue : List TileCmd
  /-- started tile instructions, in start order; 09 R212; reset none -/
  running : List TileCmd
  /-- copy engine: accepted commands in queue order, at most 32; 03 R45; reset empty -/
  copies : List CopyCmd
  /-- segment cache, most recently used first, at most 128; 04 R91; reset empty -/
  segs : List SegCopy
  /-- view entries held in the copy engine's translation cache, newest first: context, handle, entry; 03 R73, R81; reset empty -/
  views : List (Nat × Nat × Nat)
  /-- core TLB, newest first, at most 2,048; 02 R35; reset empty -/
  tlb : List TlbEntry
  /-- copy-engine translation cache, newest first, at most 256; 02 R35; reset empty -/
  ctlb : List TlbEntry
  /-- quadrants 0 to 3; 15 R397; reset empty -/
  quads : Tbl Quad
  /-- Invar turn counter n; 15 R403; reset 0 -/
  turn : Nat
  /-- failed strands per quadrant, kept over module reset; 01 R21; reset 0 -/
  strands : Tbl Nat
  /-- failed matrix columns per quadrant, kept over module reset; 01 R12, R21; reset 0 -/
  columns : Tbl Nat
  /-- a strand or columns are fenced off and their spares not brought in yet; 1 bit; 01 R20; reset 0 -/
  fenced : Bool
  /-- segments whose reads meet an uncorrectable error; 09 R237; reset none -/
  badSegs : List Nat
deriving DecidableEq, Repr

/-- State of a coherent scratchpad segment's directory entry (spec/04 R92). T, the transit state, lasts only inside
one DIRECTORY_REQUEST step. -/
inductive DirSt where
  | i
  | s (cores : List Nat)
  | o (core : Nat)
  | u (op : AOp)
deriving DecidableEq, Repr

/-- A die (spec/01 R11). -/
structure Die where
  /-- L2 range registers L2RNG0 to L2RNG7; 8 × 128 bits; 04 R86; reset 0 -/
  l2rng : Tbl (BitVec 128)
  /-- L2PQ; 4 bits; 04 R87; reset 8 -/
  l2pq : BitVec 4
  /-- region registers SPRGN0 to SPRGN15; 16 × 64 bits; 04 R90; reset 0 -/
  sprgn : Tbl W64
  /-- die scratchpad, 160 MiB, at the home slices; 04 R89; reset DESIGN CHOICE 0 (log 5) -/
  spad : Memory
  /-- directory entries of coherent segments; 04 R92; reset DESIGN CHOICE I (log 5) -/
  dir : Tbl DirSt
  /-- reduction partials: (core, word offset, value), by segment; 04 R93; reset none -/
  parts : Tbl (List (Nat × Nat × W32))
  /-- writer identifiers of 128-byte lines in checked regions: core + 1 and pending; 04 R96; reset DESIGN CHOICE none (log 5) -/
  writers : Tbl (Nat × Bool)
  /-- spare cores left; 01 R11, R19; reset 4 -/
  spares : Nat
  /-- enabled cores; 01 R19, R21; reset 96 -/
  cores : Nat
  /-- channels retired (slots out of CMAP), so n = 128 − count; 02 R25, R44; reset none -/
  retired : List Nat
  /-- channels that have failed and are not yet retired; 01 R20, 02 R44; reset none -/
  failed : List Nat
  /-- frames whose page was unmapped, so that no pin applies to them until a page is mapped there: first byte and size; 02 R39; reset none -/
  nopin : List (Nat × Nat)
deriving DecidableEq, Repr

/-- An L2 line (spec/04 R82 to R88). Its data stands in the HBM memory. -/
structure L2Line where
  /-- line address (device physical, 256-byte units); 04 R82; none at reset -/
  addr : Nat
  /-- class (CACHE code); 3 bits; 04 R83; none at reset -/
  cls : Nat
  /-- epoch at fill; 8 bits; 04 R85; none at reset -/
  epoch : BitVec 8
  /-- dirty; 1 bit; 04 R84; none at reset -/
  dirty : Bool
  /-- pinned; 1 bit; 04 R87; none at reset -/
  pinned : Bool
deriving DecidableEq, Repr

/-- State of a migration entry (spec/02 R40). -/
inductive MigSt where
  | idle | moving | done | retired
deriving DecidableEq, Repr

/-- A migration-table entry (spec/02 R40). -/
structure Mig where
  /-- STATE; 02 R40; reset IDLE -/
  st : MigSt
  /-- OLD; 52 bits; 02 R40; reset 0 -/
  old : Nat
  /-- OTGT; 2 bits; 02 R40; reset 0 -/
  otgt : Nat
  /-- NEW; 52 bits; 02 R40; reset 0 -/
  new : Nat
  /-- NTGT; 2 bits; 02 R40; reset 0 -/
  ntgt : Nat
  /-- PSZ (1 = 2 MiB); 1 bit; 02 R40; reset 0 -/
  big : Bool
  /-- PROG, in 256-byte lines; 02 R40; reset 0 -/
  prog : Nat
  /-- an inbound move's TLBI has retired, so that lines may be fetched; 1 bit; 02 R42; reset 0 -/
  run : Bool
  /-- clock at which a fault request wrote the entry, and the mailbox slot of the host's; 02 R43; reset none -/
  asked : Option (Nat × Option Nat)
  /-- the group whose TLBI, run after the page table entry was rewritten, the move waits for; 02 R42; reset none -/
  tlb : Option Nat
deriving DecidableEq, Repr

/-- A stack controller (spec/02 R23, R40; 04 R82). -/
structure Stack where
  /-- L2 sets: resident lines of set s, most recently used first, at most 16; 04 R82; reset DESIGN CHOICE empty (log 5) -/
  sets : Tbl (List L2Line)
  /-- epochs of STEP0 to STEP3; 4 × 8 bits; 04 R85; reset DESIGN CHOICE 0 (log 5) -/
  epochs : Tbl (BitVec 8)
  /-- migration table, 64 entries; 02 R40; reset IDLE -/
  mig : Tbl Mig
  /-- fault requests answered "served remotely": target, page, whether the host's, and the clock; 02 R43; reset none -/
  lost : List (Nat × Nat × Bool × Nat)
  /-- corrected-error counter; 02 R23; reset DESIGN CHOICE 0 (log 5) -/
  errors : Nat
deriving DecidableEq, Repr

/-- A posted receive (spec/12 R308, R324). -/
structure Recv where
  /-- handle; 14 bits; 12 R308; none at reset -/
  handle : Nat
  /-- posting group; 12 R316; none at reset -/
  gk : Nat
  /-- home core of the posting group when it posted: its die is that of space 2; 04 R89, 12 R331; none at reset -/
  home : Nat
  /-- communicator; 16 bits; 12 R324; none at reset -/
  comm : BitVec 16
  /-- source rank, or ANY; 12 R324; none at reset -/
  src : Option (BitVec 16)
  /-- posted tag; 32 bits; 12 R324; none at reset -/
  tag : W32
  /-- tag mask; 32 bits; 12 R324; none at reset -/
  mask : W32
  /-- capacity in elements; 32 bits; 12 R324; none at reset -/
  n : Nat
  /-- destination record; 256 bits; 12 R325; none at reset -/
  rcd : BitVec 256
  /-- completion-record buffer and offset; 12 R324; none at reset -/
  cb : Option (BitVec 256 × W32)
  /-- NOQ; 1 bit; 12 R324; none at reset -/
  noq : Bool
  /-- privilege of the posting group; 02 R29; none at reset -/
  priv : Bool
  /-- generation; 16 bits; 12 R326; none at reset -/
  gen : BitVec 16
  /-- the message taken; 12 R311; none at reset -/
  msg : Option MsgHdr
  /-- the message travelled eagerly; 12 R313, R318; none at reset -/
  eager : Bool
  /-- bytes landed or skipped; 12 R313; none at reset -/
  got : Nat
  /-- rendezvous pulls outstanding; 12 R313; none at reset -/
  pulls : List Nat
  /-- next byte to pull; 12 R313; none at reset -/
  next : Nat
  /-- completion class once the receive has ended; 12 R317; none at reset -/
  cls : Option Nat
  /-- completion CODE; 4 bits; 12 R317; none at reset -/
  code : Nat
  /-- the completion record has been written; 12 R318; none at reset -/
  recorded : Bool
deriving DecidableEq, Repr

/-- A message in the unexpected queue, or held for an earlier number (spec/12 R307, R312). -/
structure Unexp where
  /-- the header; 12 R307; none at reset -/
  hdr : MsgHdr
  /-- eager payload; 12 R307; none at reset -/
  bytes : List Byte
  /-- announced by an RTS; 12 R313; none at reset -/
  rdv : Bool
  /-- held for an earlier number; 12 R312; none at reset -/
  ahead : Bool
deriving DecidableEq, Repr

/-- A rendezvous or eager SEND that has not written status (spec/12 R321 to R323). -/
structure SendCmd where
  /-- transfer number that carries it; 12 R313; none at reset -/
  id : Nat
  /-- issuing group; 12 R321; none at reset -/
  gk : Nat
  /-- status register; 12 R321; none at reset -/
  gd : Nat
  /-- context; 12 R321; none at reset -/
  ctx : Nat
  /-- source record; 256 bits; 12 R321; none at reset -/
  rcd : BitVec 256
  /-- privilege; 02 R29; none at reset -/
  priv : Bool
  /-- payload length; 12 R322; none at reset -/
  len : Nat
  /-- rendezvous; 12 R313; none at reset -/
  rdv : Bool
  /-- home core of the issuing group when it issued; 04 R89, 12 R331; none at reset -/
  home : Nat
  /-- bytes whose PDATA has been acknowledged; 12 R313; none at reset -/
  acked : Nat
  /-- destination slot, and what its packets name: communicator, tag, length, message number; 12 R309, R312; none at reset -/
  dst : Nat
  args : MsgArgs
deriving DecidableEq, Repr

/-- A context (spec/16 R409, 12 R307). -/
structure Ctx where
  /-- the context exists; 21 R458; reset 0 -/
  live : Bool
  /-- CTXID.SUP; 1 bit; 16 R408; reset DESIGN CHOICE 0 (log 5) -/
  sup : Bool
  /-- ASID 0x111; 13 bits; 02 R30, 16 R409; reset DESIGN CHOICE 0 (log 5) -/
  asid : BitVec 13
  /-- TVEC and TVECH 0x100, 0x101; 57 bits; 16 R409; reset DESIGN CHOICE 0 (log 5) -/
  tvec : W64
  /-- VTBASE 0x112, 0x113; 64 bits; 16 R409; reset DESIGN CHOICE 0 (log 5) -/
  vtbase : W64
  /-- TCBBASE 0x114, 0x115; 64 bits; 16 R409; reset DESIGN CHOICE 0 (log 5) -/
  tcbbase : W64
  /-- CTBASE 0x116, 0x117; 64 bits; 16 R409; reset DESIGN CHOICE 0 (log 5) -/
  ctbase : W64
  /-- QTBASE 0x118, 0x119; 64 bits; 16 R409; reset DESIGN CHOICE 0 (log 5) -/
  qtbase : W64
  /-- FJOB 0x11A; 16 bits; 16 R409; reset DESIGN CHOICE 0 (log 5) -/
  fjob : BitVec 16
  /-- CTXDBG 0x11B: STOPTEAM, ATTACH; 2 bits; 16 R409; reset DESIGN CHOICE 0 (log 5) -/
  dbg : BitVec 2
  /-- posted-receive list, in posting order, at most 16,384; 12 R307; reset empty -/
  posted : List Recv
  /-- receives that have taken a message or ended, not yet delivered; 12 R316; reset empty -/
  taken : List Recv
  /-- unexpected queue, in arrival order, at most 8,192; 12 R307; reset empty -/
  unexp : List Unexp
  /-- handle counter; 14 bits; 12 R308; reset 0 -/
  handle : Nat
  /-- next message number per destination rank and communicator (key 65536·rank + comm); 12 R312; reset 0 -/
  sendNo : Tbl Nat
  /-- expected message number per sending module, context and communicator; 12 R312; reset 0 -/
  recvNo : Tbl Nat
  /-- messages answered busy and not yet accepted: sequence key and number; 12 R314; reset none -/
  busyMsgs : List (Nat × Nat)
  /-- SENDs without status; 12 R330; reset none -/
  sends : List SendCmd
  /-- registered step starts per queue, + 1; 16 R418, 21 R458; reset none -/
  step : Tbl Nat
  /-- queues stopped; 15 R388; reset none -/
  stopped : List Nat
  /-- running graph nodes: address and queue; 15 R388; reset none -/
  nodes : List (W64 × Nat)
  /-- nodes whose end is known and not yet written: address, class, detail, ARG1 word; 15 R388; reset none -/
  ended : List (W64 × Nat × Nat × Option W32)
  /-- WAIT nodes armed: node address, word address, value; 15 R390; reset none -/
  waits : List (W64 × Nat × W64)
  /-- nodes ready through PEND = 0 and not yet started; 15 R388; reset none -/
  ready : List W64
  /-- frames written by the loader, write-locked until the context is destroyed: first frame byte and size; 21 R461; reset none -/
  locked : List (Nat × Nat)
deriving DecidableEq, Repr

/-- A transfer without its final reply (spec/11 R287). -/
inductive XKind where
  | put | ratom | racc
  /-- one data word, or the flag, of a PUT to pool memory (11 R283) -/
  | word
  /-- an eager SEND's MSG -/
  | msg
  /-- a rendezvous SEND's RTS -/
  | rts
  /-- a receiver's PULL -/
  | pull
  /-- a sender's PDATA -/
  | pdata
  /-- a collective's COLL packet -/
  | coll
deriving DecidableEq, Repr

/-- What one transfer puts into a packet, or a reply answers (spec/11 R273, R279, R283 to R285, R300; 12 R309). Towards
a module an address is virtual in the target context, towards a pool node it is the pool address of 02 R28. -/
inductive Item where
  /-- PUT: words in order, then the flag; POOLWR for a word of a PUT to the pool -/
  | put (t : PutThread)
  /-- RATOM or POOLAT -/
  | atom (t : AtomThread)
  | racc (es : List AccElem)
  /-- POOLRD of `n` bytes -/
  | read (addr : W64) (n : Nat)
  /-- POOLWR -/
  | write (addr : W64) (bytes : List Byte)
  | coll (m : CollMsg)
  | msg (a : MsgArgs) (bytes : List Byte)
  | rts (a : MsgArgs)
  /-- PULL of `n` bytes at an offset; of length 0 the closing PULL -/
  | pull (a : MsgArgs) (off n : Nat)
  | pdata (a : MsgArgs) (off : Nat) (bytes : List Byte)
  | ack
  | nack (code : Nat)
  | rdata (v : List W32)
deriving DecidableEq, Repr

/-- A packet that leaves (spec/11 R273). TYPE, LEN, ADDR and FADDR follow from DST and the items; CE is never set here,
and SRC is the pod slot in force. -/
structure Packet where
  /-- GEN at send time; 16 bits; 11 R273; none at reset -/
  gen : BitVec 16
  /-- JOB; 16 bits; 11 R273, R274; none at reset -/
  job : BitVec 16
  /-- DST; 16 bits; 11 R273; none at reset -/
  dst : Nat
  /-- SRC; 16 bits; 11 R273; none at reset -/
  src : Nat
  /-- ECE; 1 bit; 11 R273, R278; none at reset -/
  ece : Bool
  /-- SEQ; 32 bits; 11 R273; none at reset -/
  seq : Nat
  /-- the transfers that travel in it, none for a reply, a beat or an engine's pool access; 11 R286; none at reset -/
  ids : List Nat
  /-- ARGS and payload, one item per transfer; 11 R273, R286; none at reset -/
  items : List Item
deriving DecidableEq, Repr

/-- An outstanding transfer (spec/11 R279, R287, R288). -/
structure Xfer where
  /-- transfer number; 11 R287; none at reset -/
  id : Nat
  /-- kind; 11 R273; none at reset -/
  kind : XKind
  /-- group, or the context for a PULL, PDATA or COLL; 11 R287; none at reset -/
  gk : Nat
  /-- receive handle of a PULL, SEND number of a MSG, RTS or PDATA, 64·activation + descriptor of a COLL, PUT of a word; 12 R313, 11 R283, R300; none at reset -/
  ref : Nat
  /-- charged barrier object; 11 R280; none at reset -/
  abo : Abo
  /-- JOB of its packet; 16 bits; 11 R274; none at reset -/
  job : BitVec 16
  /-- destination: pod slot, or 0x8000 + pool node; local HBM is 0x10000; 11 R273; none at reset -/
  dst : Nat
  /-- end-to-end sequence number of the packet that carries it; 32 bits; 11 R273; none at reset -/
  seq : Nat
  /-- the transfers that share its packet bear one number; 11 R286; none at reset -/
  grp : Nat
  /-- target address; 64 bits; 11 R288; none at reset -/
  addr : W64
  /-- what it carries, kept until it is acknowledged; 11 R283 to R285, R304, 12 R309; none at reset -/
  item : Item
  /-- RATOM return: register, thread and old value if known; 11 R284; none at reset -/
  ret : Option (Nat × Nat × Option W32)
  /-- busy answers so far; 11 R279; none at reset -/
  busy : Nat
  /-- waiting out a busy interval, or held back with the module's traffic (17 R433); 11 R279; none at reset -/
  backoff : Bool
deriving DecidableEq, Repr

/-- A packet in a port's retransmission buffer (spec/11 R277). -/
structure Sent where
  /-- the packet, kept whole; 11 R277; none at reset -/
  pk : Packet
  /-- link-level sequence number of its first flit; 11 R277; none at reset -/
  first : Nat
  /-- flits acknowledged at link level; 11 R277; none at reset -/
  acked : Nat
deriving DecidableEq, Repr

/-- An Eciovia port (spec/11 R277). -/
structure Port where
  /-- declared dead; 1 bit; 11 R277; reset 0 -/
  dead : Bool
  /-- packets sent and not acknowledged at link level, oldest first; 11 R277; reset empty -/
  buf : List Sent
  /-- link-level sequence number of the next flit; 11 R277; reset DESIGN CHOICE 0 (log 5) -/
  next : Nat
  /-- failed retransmissions of the oldest flit; 11 R277; reset 0 -/
  fails : Nat
deriving DecidableEq, Repr

/-- The transport (spec/11 R276 to R279). -/
structure Fabric where
  /-- outstanding transfers; 11 R287; reset none -/
  xfers : List Xfer
  /-- next transfer number; 11 R287; reset 0 -/
  next : Nat
  /-- ports 0 to 17; 11 R277; reset live and empty -/
  ports : Tbl Port
  /-- routing table: masks by destination (pod slot, or 0x8000 + node); 18 bits each; 11 R276; reset DESIGN CHOICE all ports (log 5) -/
  routes : Tbl (BitVec 18)
  /-- rates by destination; 11 R278; reset the port rate -/
  rates : Tbl Nat
  /-- next SEQ by destination; 32 bits; 11 R273; reset DESIGN CHOICE 0 (log 5) -/
  seqs : Tbl Nat
  /-- served SEQs by source, each with a reply given; 11 R277; reset none -/
  served : List (Nat × Nat × Packet)
  /-- stale-packet counter; 11 R275; reset DESIGN CHOICE 0 (log 5) -/
  stale : Nat
  /-- dropped-packet counter; 11 R273; reset DESIGN CHOICE 0 (log 5) -/
  malformed : Nat
  /-- order of failures recorded so far; 11 R288; reset 0 -/
  fails : Nat
  /-- packets to this module's own slot that have left and not come back, oldest first; 11 R276; reset none -/
  loop : List Packet
  /-- module packets of dead ports, kept whole while module traffic is held; 11 R277, 17 R433; reset none -/
  parked : List Packet
  /-- destination, + 1, of transfers that ended without their reply, whose late reply may still carry ECE; 11 R278; reset none -/
  late : Tbl Nat
deriving DecidableEq, Repr

/-- A COLL packet that waits here (spec/17 R437): for its descriptor to become active, or for a local fire. -/
structure CollPk where
  /-- context; 11 R274; none at reset -/
  ctx : Nat
  /-- what it carries; 11 R300; none at reset -/
  m : CollMsg
deriving DecidableEq, Repr

/-- An activation that has not begun (spec/11 R290). -/
structure CollWait where
  /-- context; 11 R290; none at reset -/
  ctx : Nat
  /-- descriptor index; 6 bits; 11 R290; none at reset -/
  desc : Nat
  /-- SEED; 32 bits; 11 R290; none at reset -/
  seed : W32
  /-- activated by a COLLECTIVE node at this address; 15 R387; none at reset -/
  node : Option W64
  /-- activated by the start of this launch; 11 R294; none at reset -/
  lk : Option Nat
  /-- chunks its launch has fired already; 11 R294; none at reset -/
  fired : List Nat
deriving DecidableEq, Repr

/-- A collective activation (spec/11 R290 to R305). -/
structure Coll where
  /-- context; 11 R290; none at reset -/
  ctx : Nat
  /-- descriptor index; 6 bits; 11 R290; none at reset -/
  desc : Nat
  /-- the descriptor's 32 words as captured; 11 R290, R291; none at reset -/
  w : List W32
  /-- RLIST as captured; 11 R291; none at reset -/
  ranks : List Nat
  /-- logical index of this module; 11 R291; none at reset -/
  p : Nat
  /-- SEED; 32 bits; 11 R290; none at reset -/
  seed : W32
  /-- activation sequence number of its communicator; 11 R300; none at reset -/
  act : Nat
  /-- generation; 16 bits; 11 R303; none at reset -/
  gen : BitVec 16
  /-- chunks fired here; 11 R296; none at reset -/
  fired : List Nat
  /-- packets of chunks of which others are still to arrive; 11 R272, R300; none at reset -/
  pieces : List CollMsg
  /-- chunks acknowledged and held for a local fire; 17 R437; none at reset -/
  heldPk : List CollMsg
  /-- chunks written to DREC here; 11 R303; none at reset -/
  written : List Nat
  /-- final results of reductions known here; 11 R297; none at reset -/
  sent : List Nat
  /-- XF, ESC, SAT, NAN; 11 R303; none at reset -/
  xf : Bool
  esc : Bool
  satf : Bool
  nan : Bool
  /-- NANRANK; 16 bits; 11 R299; none at reset -/
  nanrank : Nat
  /-- ROTATE: last step landed, steps released, steps forwarded; 11 R302; none at reset -/
  step : Nat
  /-- slots bound through views; 11 R293; none at reset -/
  bound : List ViewPin
  /-- activated by a COLLECTIVE node at this address; 15 R387; none at reset -/
  node : Option W64
  /-- activated by the start of this launch; 11 R294; none at reset -/
  lk : Option Nat
deriving DecidableEq, Repr

/-- A rank table (spec/17 R425): generation and pod slots by rank. -/
structure RankTab where
  /-- GEN; 16 bits; 17 R425; none at reset -/
  gen : BitVec 16
  /-- pod slots by rank; 256 × 8 bits; 17 R425; none at reset -/
  slots : List Nat
deriving DecidableEq, Repr

/-- Membership and the fabric engine (spec/17 R424 to R433). -/
structure Member where
  /-- pod slot; 8 bits; 17 R424; reset DESIGN CHOICE 0 (log 5): fixed by the configuration -/
  slot : Nat
  /-- generation; 16 bits; 17 R424; reset 0 -/
  gen : BitVec 16
  /-- current rank table; 17 R424; reset empty -/
  cur : Option RankTab
  /-- pending rank table; 17 R424; reset empty -/
  pend : Option RankTab
  /-- fabric engine configuration, 176 bytes as 44 words, in force; 17 R428; reset none -/
  cfg : Option (List W32)
  /-- BEAT; 32 bits; 17 R429; reset DESIGN CHOICE 0 (log 5) -/
  beat : W32
  /-- LEAVING to be set in the next beat; 1 bit; 17 R432; reset 0 -/
  leaving : Bool
  /-- fenced state; 1 bit; 17 R432; reset 0 -/
  fenced : Bool
  /-- module traffic held; 1 bit; 17 R433; reset 0 -/
  held : Bool
  /-- clock of the last self-check that found fewer than 5 accusations, or since which a configuration is in force; 17 R433;
  reset DESIGN CHOICE 0 (log 5) -/
  good : Nat
  /-- last BEAT seen and consecutive misses by watched entry j; 17 R431; reset none -/
  seen : Tbl (Option W32 × Nat)
  /-- watched entries whose accusation has not returned; 17 R431; reset none -/
  accusing : List Nat
  /-- watched entries accused so far, whose accusation is repeated at each later check; 17 R431; reset none -/
  accused : List Nat
  /-- consecutive accusations that failed to reach the vote node, by watched entry; 17 R431; reset 0 -/
  lost : Tbl Nat
deriving DecidableEq, Repr

/-- State of the join engine (spec/17 R439). -/
inductive JoinSt where
  | idle | opening | pull | closing | done | failed
deriving DecidableEq, Repr

/-- The join engine (spec/17 R438 to R441). -/
structure Join where
  /-- state; 17 R439; reset idle -/
  st : JoinSt
  /-- the descriptor's words; 17 R438; reset none -/
  w : List W32
  /-- regions: handle, version, DST, SOFF, LEN; 17 R438; reset none -/
  regions : List (Nat × Nat × Nat × Nat × Nat)
  /-- peers: FJOB and SLOT; 17 R438; reset none -/
  peers : List (Nat × Nat)
  /-- stripes landed; 17 R441; reset none -/
  landed : List Nat
  /-- failures by stripe; 17 R440; reset 0 -/
  fails : Tbl Nat
  /-- RETRY; 16 bits; 17 R441; reset 0 -/
  retry : Nat
  /-- indexes of the peers still in rotation, whose number is LIVE; 17 R440, R441; reset none -/
  rot : List Nat
  /-- stripes outstanding, each with the index of the peer asked; 17 R440; reset none -/
  out : List (Nat × Nat)
  /-- the next stripe that has not been asked for; 17 R440; reset 0 -/
  next : Nat
  /-- stripes to be asked again, each with the index of the peer that failed; 17 R440; reset none -/
  again : List (Nat × Nat)
  /-- snapshots opened: index of the peer, index of the region, handle; 17 R439; reset none -/
  snaps : List (Nat × Nat × Nat)
  /-- class, DETAIL and OPENED of a join that has ended, once its snapshots are closed; 17 R439, R441; reset none -/
  fin : Option (Nat × Nat × Bool)
deriving DecidableEq, Repr

/-- The host interface and control processor (spec/21). -/
structure HostIf where
  /-- EVHEAD; 32 bits; 21 R454; reset DESIGN CHOICE 0 (log 5) -/
  evhead : W32
  /-- events written to the host ring so far; 21 R457; reset 0 -/
  evtail : Nat
  /-- event ring address; 64 bits; 21 R458; reset DESIGN CHOICE 0 (log 5) -/
  ring : W64
  /-- event ring size in events; 21 R458; reset DESIGN CHOICE 0 (log 5) -/
  ringSize : Nat
  /-- events held for room, oldest first, 16 words each; 21 R457; reset none -/
  held : List (List W32)
  /-- APBASE; 64 bits; 21 R454; reset DESIGN CHOICE 0 (log 5) -/
  apbase : W64
  /-- the 64 mailbox slots of 64 bytes, word 15 of each holding its completion code; 21 R454, R458; reset DESIGN CHOICE 0 (log 5) -/
  mail : Memory
  /-- SERVICE; 2 bits; 21 R459; reset 0 -/
  service : Nat
  /-- the control processor has been told that the module is fenced; 1 bit; 17 R432; reset 0 -/
  fenceTold : Bool
  /-- LIVE; 18 bits; 21 R459; reset 0 -/
  live : BitVec 18
  /-- FULL8; 18 bits; 21 R459; reset 0 -/
  full8 : BitVec 18
  /-- CHAN0, CHAN1 posted; 2 × 8 bits; 21 R459; reset 0 -/
  chan0 : Nat
  chan1 : Nat
  /-- CORES0, CORES1 posted; 2 × 8 bits; 21 R459; reset 0 -/
  cores0 : Nat
  cores1 : Nat
  /-- FWVER; 32 bits; 21 R459; reset 0 -/
  fwver : W32
  /-- PINRATE; 8 bits; 21 R459; reset 0 -/
  pinrate : Nat
  /-- accepted LOADs: slot, context, segment, container; 21 R461; reset none -/
  loads : List (Nat × Nat × Nat × W64)
  /-- key table slots 1 to 7: key bytes and ADMIN (slot 0 is in fuses); 21 R461; reset empty -/
  keys : Tbl (Option (List Byte × Bool))
  /-- AR; 256 bits; 21 R462; reset 0, then the boot ROM's measurement -/
  ar : BitVec 256
  /-- extension count; 64 bits; 21 R462; reset 0 -/
  ext : Nat
  /-- the last quote's signature, and AR and the count it covers; 21 R462; reset none -/
  quote : Option (BitVec 256 × Nat × List Byte)
  /-- stopped groups of the debug window; 21 R466; reset none -/
  dbg : List Nat
  /-- the last aperture read's bytes; 21 R454; reset none -/
  apdata : List Byte
  /-- the answer to the module's last fault request: true is "served remotely"; 02 R43; reset none -/
  fault : Option Bool
  /-- doorbells not yet answered to, oldest first: mailbox slots; 21 R454, R458; reset none -/
  bells : List Nat
  /-- DRAIN requests whose contexts are not all saved: mailbox slots; 21 R458; reset none -/
  drains : List Nat
  /-- the function is in D3hot; 1 bit; 21 R453; reset 0 (D0) -/
  d3hot : Bool
deriving DecidableEq, Repr

/-- What survives power-off (spec/21 R463, R464; 22 R472). -/
structure Nonvol where
  /-- firmware image in flash; 21 R464; reset PRESUMED empty (log 7): written by the maker -/
  image : List Byte
  /-- next signature index N in flash; 21 R463; reset DESIGN CHOICE 0 (log 5) -/
  n : Nat
  /-- checkpoint count F in fuses, at most 16,384; 21 R463; reset DESIGN CHOICE 0 (log 5) -/
  f : Nat
  /-- ALARM trip causes latched for the next power-on; 7 bits; 22 R475, R476; reset latched value, DESIGN CHOICE 0 (log 5) -/
  alarm : BitVec 8
  /-- FRU EEPROM, on the board's 3.3 V management supply; 22 R472; reset PRESUMED empty (log 7): written by the maker -/
  fru : List Byte
deriving DecidableEq, Repr

/-- Power and management (spec/22). -/
structure Phys where
  /-- PERST# is released, so that the module runs; 22 R471; reset 1 (module reset follows the release) -/
  powered : Bool
  /-- 48 V is present; 22 R468, R472; reset 1 (the module runs) -/
  v48 : Bool
  /-- rails in tolerance, in their rising order; 0 to 6; 22 R471; reset 6 (PERST# is released) -/
  rails : Nat
  /-- I3C STATE 0x00; 8 bits; 22 R476; reset 0, then as 21 R464, R465 -/
  state : Nat
  /-- TJMAX 0x02; 8 bits; 22 R476; reset 0 -/
  tjmax : Nat
  /-- TIN 0x03; 8 bits; 22 R476; reset 0 -/
  tin : Nat
  /-- PWR 0x04-0x05; 16 bits; 22 R476; reset 0 -/
  pwr : Nat
  /-- OFFST 0x07; 2 bits; 22 R476; reset 0 -/
  offst : Nat
deriving DecidableEq, Repr

/-- The link die (spec/01 R11). -/
structure Link where
  /-- transport; 11; reset as Fabric -/
  fab : Fabric
  /-- active collectives, at most 64; 11 R290; reset none -/
  colls : List Coll
  /-- activations waiting, oldest first; 11 R290; reset none -/
  collWait : List CollWait
  /-- activations ended here with an error in this generation: 65536·context + communicator, number, class; 11 R304; reset none -/
  deadColls : List (Nat × Nat × Nat)
  /-- COLL packets held for a descriptor not yet active; 17 R437; reset none -/
  early : List CollPk
  /-- activations so far in this generation at key 65536·context + communicator; 11 R300; reset DESIGN CHOICE 0 (log 5) -/
  acts : Tbl Nat
  /-- link-die copy commands, at most 256; 03 R47; reset none -/
  copies : List CopyCmd
  /-- view entries held in the link-die translation cache, newest first; 03 R73, R81; reset empty -/
  views : List (Nat × Nat × Nat)
  /-- link-die translation cache, at most 16,384; 02 R35; reset empty -/
  tlb : List TlbEntry
  /-- eager bytes held in the 32 MiB reserve; 12 R307; reset 0 -/
  eager : Nat
  /-- membership and fabric engine; 17 R424; reset as Member -/
  mem : Member
  /-- join engine; 17 R439; reset idle -/
  join : Join
deriving DecidableEq, Repr

/-- Which agent moves next (DESIGN CHOICE, log 2): a group issues, or another step of the table takes place. -/
inductive Turn where
  | issue (gk : Nat)
  | event (i : Instr)
deriving DecidableEq, Repr

/-- The module. -/
structure State where
  /-- MODEL'S OWN (log 2): the turns to come; reset empty -/
  agenda : List Turn
  /-- MODEL'S OWN (log 2): the group whose turn it is (64·team + index); reset 0 -/
  cur : Nat
  /-- MODEL'S OWN (log 2): the answers that pool nodes will give to the engines' POOLRD and POOLWR packets, in order: 0 or a final NACK code of 11 R279 (6 for no reply), and ECE; none left stands for (0, no ECE); reset empty -/
  answers : List (Nat × Bool)
  /-- MODEL'S OWN (log 3): counter of free values drawn; reset DESIGN CHOICE 0 -/
  free : Nat
  /-- clock count since module reset; 64 bits; 06 R138; reset 0 -/
  clock : Nat
  /-- groups at key 64·team + index, at most 128 per core; 01 R15; reset none -/
  groups : Tbl Group
  /-- teams by team key; 15 R380; reset none -/
  teams : Tbl Team
  /-- next team key (the model's numbering); 15 R381; reset 1 -/
  nextTeam : Nat
  /-- launches by launch key; 15 R383; reset none -/
  launches : Tbl Launch
  /-- dispatch pointers ptr[0] to ptr[3] of the round-robin: 64·context + queue; 15 R393; reset DESIGN CHOICE 0 (log 5) -/
  ptr : Tbl Nat
  /-- next launch key (the model's numbering); 15 R383; reset 1 -/
  nextLaunch : Nat
  /-- next copy command number (the model's numbering); 03 R45; reset 0 -/
  nextCopy : Nat
  /-- contexts by number; 16 R409; reset none -/
  ctxs : Tbl Ctx
  /-- cores by logical number 0 to 191; 01 R19; reset as Core -/
  cores : Tbl Core
  /-- compute dies 0 and 1; 01 R11; reset as Die -/
  dies : Tbl Die
  /-- stack controllers 0 to 7; 02 R24; reset as Stack -/
  stks : Tbl Stack
  /-- link die; 01 R11; reset as Link -/
  link : Link
  /-- every page translation made and not invalidated since, in a cache still or evicted from it: what tells a TLBI the frames of the pages that it unmaps; 02 R39; reset none -/
  maps : List TlbEntry
  /-- words of spaces 1 and 2 last written by a release at TEAM scope: place (0 tile memory, 1 side band, 2 scratchpad; core or die; address), value, the releasing team's core and its ASID; 13 R344; reset none -/
  rels : List ((Nat × Nat × Nat) × Option W32 × Nat × BitVec 13)
  /-- ASTBASE; 52 bits; 02 R30; reset DESIGN CHOICE 0 (log 5) -/
  astbase : BitVec 52
  /-- HBM, 512 GB, by device physical address; 02 R24; reset DESIGN CHOICE 0 (log 6) -/
  hbm : Memory
  /-- HBM 64-byte transfers that meet an uncorrectable error; 02 R23; reset none -/
  ecc : List Nat
  /-- pool memory as this module reaches it (node in [51:40]); 02 R28; reset DESIGN CHOICE 0 (log 8) -/
  pool : Memory
  /-- host memory as this module reaches it; 02 R28; reset DESIGN CHOICE 0 (log 8) -/
  host : Memory
  /-- peer memory as this module's engines reach it (rank in [63:48]); 02 R27; reset DESIGN CHOICE 0 (log 8) -/
  peer : Memory
  /-- host interface; 21; reset as HostIf -/
  hif : HostIf
  /-- flash and fuses; 21 R463; reset as Nonvol -/
  nv : Nonvol
  /-- power and management; 22; reset as Phys -/
  phys : Phys
deriving DecidableEq, Repr

/-- No translation held (R36). -/
def BT.reset : BT := ⟨false, 0, false, false, 0, 0, 0⟩

/-- The registers at launch (spec/05 R108). -/
def Regs.reset : Regs :=
  { v := [], vEmpty := 0, g := [], gEmpty := 0, hg := [], b := [], bt := [], exm := 0xFFFF, spp := 0, pc := 0 }

/-- The system registers at launch (R108). -/
def SysRegs.reset : SysRegs :=
  { fpflags := 0, rmode := 0, srkey := 0, srcnt := 0, tcause := 0, tepc := 0, taddr := 0, tmask := 0, texm := 0,
    hm := false, ss := false, accxfer := 0, accimg := 0, clkh := 0 }

/-- A closed stream (spec/10 R240). -/
def Stream.reset : Stream :=
  { st := .closed, lrm := false, divp := false, ovf := 0, region := 0, spillRec := 0, staging := 0, len := 0,
    inSpill := false, marked := false, pm := 0, markDrop := false, markId := 0, dropId := 0, seq := 0, pos := 0,
    posSpill := false, popped := 0, q0 := 0, stage := [], full := 0, head := none, spoiled := false }

/-- The synchronisation state of a slot that holds no group. -/
def GSync.reset : GSync :=
  { status := .exited, gslot := 0, paths := [], q3 := [], qsel := false, fab3 := none, fab7 := none, unsent := none, unsentH := none,
    parked := none, stepArmed := false, arrived := false, ttag := none, monitor := none, woken := false,
    retired := 0, issuedAt := 0, pend := [], errs := [], sampled := [], undo := none, tlbi := none, accx := none, sends := 0, relFence := false, fence := none }

/-- A slot that holds no group. -/
def Group.reset : Group :=
  { live := false, r := Regs.reset, sys := SysRegs.reset, y := GSync.reset, s0 := Stream.reset, s1 := Stream.reset }

/-- A barrier with no open phase (spec/15 R385). -/
def Barrier.reset : Barrier := ⟨false, 0, []⟩

/-- A team key that names no team. -/
def Team.reset : Team :=
  { st := .none, launch := 0, ctx := 0, index := 0, gx := 0, gy := 0, gz := 0, rank := 0, cluster := 0, core := 0,
    slot := 0, base := 0, bars := [], cbar := [], abar := [], q2 := [], accMap := [], images := [], savedTiles := [], tileNo := 0,
    maxr := [], tileErr := [], saveTile := [], saveSide := [], saveMeta := [], saveCopies := [], mates := [], inv := none, placedAt := 0, since := 0 }

/-- A launch key that names no launch. -/
def Launch.reset : Launch :=
  { live := false, ctx := 0, node := 0, rcd := [], placed := 0, exited := 0, failed := none, bindErr := none, cls := 0, dead := false,
    since := 0, waiting := false }

/-- A cleared N-sum (spec/09 R224). -/
def NSum.reset : NSum := ⟨.zero, false, 0, 0, false⟩

/-- An accumulator tile tagged NONE (spec/09 R235). -/
def Acc.reset : Acc := { owner := none, team := 0, vals := [], ns := [], c := 0, bad := false }

/-- An empty quadrant. -/
def Quad.reset : Quad := { active := [], fifo := [], held := [], last := 7, issued := 0, swaps := 0 }

/-- A core with nothing resident. -/
def Core.reset : Core :=
  { lost := false, slots := [], tile := [], side := [], mdw := [], segOwner := [], segTeam := [], acc := [],
    queue := [], running := [], copies := [], segs := [], views := [], tlb := [], ctlb := [], quads := [], turn := 0,
    strands := [], columns := [], fenced := false, badSegs := [] }

/-- A die after reset (spec/04 R87: L2PQ resets to 8). -/
def Die.reset : Die :=
  { l2rng := [], l2pq := 8, sprgn := [], spad := [], dir := [], parts := [], writers := [], spares := 4, cores := 96,
    retired := [], failed := [], nopin := [] }

/-- An idle migration entry (spec/02 R40). -/
def Mig.reset : Mig := ⟨.idle, 0, 0, 0, 0, false, 0, false, none, none⟩

/-- A stack controller after reset. -/
def Stack.reset : Stack := { sets := [], epochs := [], mig := [], lost := [], errors := 0 }

/-- A context number that names no context. -/
def Ctx.reset : Ctx :=
  { live := false, sup := false, asid := 0, tvec := 0, vtbase := 0, tcbbase := 0, ctbase := 0, qtbase := 0, fjob := 0,
    dbg := 0, posted := [], taken := [], unexp := [], handle := 0, sendNo := [], recvNo := [], busyMsgs := [], sends := [], step := [],
    stopped := [], nodes := [], ended := [], waits := [], ready := [], locked := [] }

/-- A live port with an empty buffer. -/
def Port.reset : Port := ⟨false, [], 0, 0⟩

/-- The transport after reset. -/
def Fabric.reset : Fabric :=
  { xfers := [], next := 0, ports := [], routes := [], rates := [], seqs := [], served := [], stale := 0,
    malformed := 0, fails := 0, loop := [], parked := [], late := [] }

/-- Membership after reset (spec/17 R424). -/
def Member.reset : Member :=
  { slot := 0, gen := 0, cur := none, pend := none, cfg := none, beat := 0, leaving := false, fenced := false,
    held := false, good := 0, seen := [], accusing := [], accused := [], lost := [] }

/-- An idle join engine. -/
def Join.reset : Join :=
  { st := .idle, w := [], regions := [], peers := [], landed := [], fails := [], retry := 0, rot := [], out := [], next := 0,
    again := [], snaps := [], fin := none }

/-- The link die after reset. -/
def Link.reset : Link :=
  { fab := Fabric.reset, colls := [], collWait := [], deadColls := [], early := [], acts := [], copies := [], views := [], tlb := [], eager := 0,
    mem := Member.reset, join := Join.reset }

/-- The host interface after reset (spec/21 R459, R462). -/
def HostIf.reset : HostIf :=
  { evhead := 0, evtail := 0, ring := 0, ringSize := 0, held := [], apbase := 0, mail := [], service := 0, fenceTold := false, live := 0,
    full8 := 0, chan0 := 0, chan1 := 0, cores0 := 0, cores1 := 0, fwver := 0, pinrate := 0, loads := [], keys := [],
    ar := 0, ext := 0, quote := none, dbg := [], apdata := [], fault := none, bells := [], drains := [],
    d3hot := false }

/-- Flash and fuses as the model takes them before any use (log 7). -/
def Nonvol.reset : Nonvol := { image := [], n := 0, f := 0, alarm := 0, fru := [] }

/-- Management registers after reset (spec/22 R476); the rails are up, since module reset follows them (R471). -/
def Phys.reset : Phys := { powered := true, v48 := true, rails := 6, state := 0, tjmax := 0, tin := 0, pwr := 0, offst := 0 }

/-- The module right after module reset: no context, no team, GEN 0 and empty rank tables (spec/17 R424), every
field map at its Reset column (00 R8), SERVICE 0 (21 R459); values the manual leaves open as log 5 to 8 name them. -/
def State.reset : State :=
  { agenda := [], cur := 0, answers := [], free := 0, clock := 0, groups := [], teams := [], nextTeam := 1, launches := [],
    ptr := [], nextLaunch := 1, nextCopy := 0, ctxs := [], cores := [], dies := [], stks := [], link := Link.reset, maps := [], rels := [], astbase := 0,
    hbm := [], ecc := [], pool := [], host := [], peer := [], hif := HostIf.reset, nv := Nonvol.reset,
    phys := Phys.reset }

end Sys2Proof.Machine
end

