-- ==== Sys2Proof/Machine/Keys.lean ====
section
/-! DEFINITION. The parts of the state by key, fields of launch records (spec/15 R383), registers, and the waiting and
waking of groups in their quadrants (15 R397, R398). -/

namespace Sys2Proof.Machine

/-! Parts of the state by key. -/

/-- The group at key `gk` (64·team + index). -/
def State.grp (s : State) (gk : Nat) : Group := tget Group.reset s.groups gk
/-- The state with the group at `gk` replaced. -/
def State.setGrp (s : State) (gk : Nat) (g : Group) : State := { s with groups := tset Group.reset s.groups gk g }
/-- The state with the group at `gk` changed. -/
def State.modGrp (s : State) (gk : Nat) (f : Group → Group) : State := s.setGrp gk (f (s.grp gk))
/-- The team at key `tk`. -/
def State.team (s : State) (tk : Nat) : Team := tget Team.reset s.teams tk
/-- The state with the team at `tk` changed. -/
def State.modTeam (s : State) (tk : Nat) (f : Team → Team) : State :=
  { s with teams := tset Team.reset s.teams tk (f (s.team tk)) }
/-- The launch at key `lk`. -/
def State.launch (s : State) (lk : Nat) : Launch := tget Launch.reset s.launches lk
/-- The state with the launch at `lk` changed. -/
def State.modLaunch (s : State) (lk : Nat) (f : Launch → Launch) : State :=
  { s with launches := tset Launch.reset s.launches lk (f (s.launch lk)) }
/-- The context of number `n`. -/
def State.ctx (s : State) (n : Nat) : Ctx := tget Ctx.reset s.ctxs n
/-- The state with context `n` changed. -/
def State.modCtx (s : State) (n : Nat) (f : Ctx → Ctx) : State :=
  { s with ctxs := tset Ctx.reset s.ctxs n (f (s.ctx n)) }
/-- Logical core `c`. -/
def State.core (s : State) (c : Nat) : Core := tget Core.reset s.cores c
/-- The state with core `c` changed. -/
def State.modCore (s : State) (c : Nat) (f : Core → Core) : State :=
  { s with cores := tset Core.reset s.cores c (f (s.core c)) }
/-- Compute die `d`. -/
def State.die (s : State) (d : Nat) : Die := tget Die.reset s.dies d
/-- The state with die `d` changed. -/
def State.modDie (s : State) (d : Nat) (f : Die → Die) : State :=
  { s with dies := tset Die.reset s.dies d (f (s.die d)) }
/-- Stack controller `k`. -/
def State.stk (s : State) (k : Nat) : Stack := tget Stack.reset s.stks k
/-- The state with stack controller `k` changed. -/
def State.modStk (s : State) (k : Nat) (f : Stack → Stack) : State :=
  { s with stks := tset Stack.reset s.stks k (f (s.stk k)) }

/-- The team key of a group. -/
def teamOf (gk : Nat) : Nat := gk / 64
/-- GIDX of a group (06 R138). -/
def idxOf (gk : Nat) : Nat := gk % 64
/-- The team of a group. -/
def State.teamG (s : State) (gk : Nat) : Team := s.team (teamOf gk)
/-- The launch of a group. -/
def State.launchG (s : State) (gk : Nat) : Launch := s.launch (s.teamG gk).launch
/-- The context number of a group. -/
def State.ctxNoG (s : State) (gk : Nat) : Nat := (s.teamG gk).ctx
/-- The context of a group. -/
def State.ctxG (s : State) (gk : Nat) : Ctx := s.ctx (s.ctxNoG gk)
/-- Is a team on its core? -/
def Team.here (t : Team) : Bool := t.st == .resident || t.st == .boundary
/-- The core of a group. -/
def State.coreNoG (s : State) (gk : Nat) : Nat := (s.teamG gk).core
/-- The die of a core (01 R19). -/
def dieOf (core : Nat) : Nat := core / 96

/-- The group whose turn it is. -/
def State.g (s : State) : Group := s.grp s.cur
/-- The state with the current group changed. -/
def State.modG (s : State) (f : Group → Group) : State := s.modGrp s.cur f
/-- The state with the current group's registers changed. -/
def State.modR (s : State) (f : Regs → Regs) : State := s.modG (fun g => { g with r := f g.r })
/-- The state with the current group's system registers changed. -/
def State.modSys (s : State) (f : SysRegs → SysRegs) : State := s.modG (fun g => { g with sys := f g.sys })
/-- The state with the current group's synchronisation state changed. -/
def State.modY (s : State) (f : GSync → GSync) : State := s.modG (fun g => { g with y := f g.y })
/-- The current group's team. -/
def State.t (s : State) : Team := s.teamG s.cur
/-- The current group's launch. -/
def State.l (s : State) : Launch := s.launchG s.cur
/-- The current group's context. -/
def State.x (s : State) : Ctx := s.ctxG s.cur
/-- The current group's core number. -/
def State.cn (s : State) : Nat := s.coreNoG s.cur

/-- Is the group privileged (16 R408)? -/
def State.privG (s : State) (gk : Nat) : Bool := (s.grp gk).sys.hm || (s.ctxG gk).sup
/-- Is the current group privileged? -/
def State.priv (s : State) : Bool := s.privG s.cur

/-! Launch record fields (15 R383). -/

/-- Word `i` of a launch record. -/
def Launch.word (l : Launch) (i : Nat) : Nat := (l.rcd.getD i 0).toNat
/-- CB. -/
def Launch.cb (l : Launch) : W64 := BitVec.ofNat 64 (l.word 0 + 2 ^ 32 * l.word 1)
/-- ENTRY. -/
def Launch.entry (l : Launch) : Nat := l.word 2
/-- TSEG. -/
def Launch.tseg (l : Launch) : Nat := fieldOf (l.word 3) 16 10
/-- CH. -/
def Launch.ch (l : Launch) : Nat := fieldOf (l.word 3) 12 4
/-- CW. -/
def Launch.cw (l : Launch) : Nat := fieldOf (l.word 3) 8 4
/-- Groups per team. -/
def Launch.groups (l : Launch) : Nat := fieldOf (l.word 3) 0 6 + 1
/-- DIEM. -/
def Launch.diem (l : Launch) : Nat := fieldOf (l.word 4) 27 2
/-- NARG. -/
def Launch.narg (l : Launch) : Nat := fieldOf (l.word 4) 24 3
/-- INVAR. -/
def Launch.invar (l : Launch) : Bool := decide (fieldOf (l.word 4) 23 1 = 1)
/-- COOP. -/
def Launch.coop (l : Launch) : Bool := decide (fieldOf (l.word 4) 22 1 = 1)
/-- QUEUE. -/
def Launch.queue (l : Launch) : Nat := fieldOf (l.word 4) 16 6
/-- PRIO. -/
def Launch.prio (l : Launch) : Nat := fieldOf (l.word 4) 14 2
/-- NTAPE. -/
def Launch.ntape (l : Launch) : Nat := fieldOf (l.word 4) 12 2
/-- NACC. -/
def Launch.nacc (l : Launch) : Nat := fieldOf (l.word 4) 9 3
/-- SS, the per-group spill size in bytes. -/
def Launch.ss (l : Launch) : Nat := fieldOf (l.word 4) 0 9 * 256
/-- GX. -/
def Launch.gx (l : Launch) : Nat := fieldOf (l.word 5) 0 16
/-- GY. -/
def Launch.gy (l : Launch) : Nat := fieldOf (l.word 5) 16 16
/-- GZ. -/
def Launch.gz (l : Launch) : Nat := fieldOf (l.word 6) 0 16
/-- SEED. -/
def Launch.seed (l : Launch) : W32 := BitVec.ofNat 32 (l.word 7)
/-- Team tile memory in bytes. -/
def Launch.tileBytes (l : Launch) : Nat := l.tseg * 4096
/-- The visible size (04 R98). -/
def Launch.visible (l : Launch) : Nat := l.tileBytes - l.groups * l.ss

/-! Registers. Uniform registers are numbered 0 to 63 for G0 to G63 and 64 to 67 for HG0 to HG3. -/

/-- The register that number `n` names: the handler bank in handler mode (16 R408). -/
def Group.gName (g : Group) (n : Nat) : Nat := if g.sys.hm && decide (60 ≤ n) then n + 4 else n

/-- The value of a uniform register. -/
def Regs.getG (r : Regs) (n : Nat) : W32 := if n < 64 then tget 0 r.g n else tget 0 r.hg (n - 64)
/-- A uniform register written. -/
def Regs.setG (r : Regs) (n : Nat) (v : W32) : Regs :=
  if n < 64 then { r with g := tset 0 r.g n v } else { r with hg := tset 0 r.hg (n - 64) v }
/-- Is a uniform register empty? HG0 to HG3 are always full (R408). -/
def Regs.emptyG (r : Regs) (n : Nat) : Bool := decide (n < 64) && r.gEmpty.getLsbD n
/-- A uniform register marked empty or full; the handler bank has no such bits (16 R408; log 146). -/
def Regs.markG (r : Regs) (n : Nat) (e : Bool) : Regs :=
  if n < 64 then
    { r with gEmpty := if e then r.gEmpty ||| BitVec.twoPow 64 n else r.gEmpty &&& ~~~(BitVec.twoPow 64 n) }
  else r
/-- Lane `t` of a V register. -/
def Regs.getV (r : Regs) (n t : Nat) : W32 := tget 0 r.v (16 * n + t)
/-- Lane `t` of a V register written. -/
def Regs.setV (r : Regs) (n t : Nat) (v : W32) : Regs := { r with v := tset 0 r.v (16 * n + t) v }
/-- Is a V register empty? -/
def Regs.emptyV (r : Regs) (n : Nat) : Bool := r.vEmpty.getLsbD n
/-- A V register marked empty or full. -/
def Regs.markV (r : Regs) (n : Nat) (e : Bool) : Regs :=
  { r with vEmpty := if e then r.vEmpty ||| BitVec.twoPow 128 n else r.vEmpty &&& ~~~(BitVec.twoPow 128 n) }
/-- The lanes of a V register in thread order. -/
def Regs.lanesV (r : Regs) (n : Nat) : List W32 := (List.range 16).map (r.getV n)

/-- Lanes written for the threads of `mask`, from thread `t` up (05 R109). -/
def Regs.putLanes (r : Regs) (n : Nat) (mask : BitVec 16) (val : Nat → W32) : Nat → Nat → Regs
  | _, 0 => r
  | t, k + 1 => Regs.putLanes (if mask.getLsbD t then r.setV n t (val t) else r) n mask val (t + 1) k

/-- A V register written for the threads of `mask`. -/
def Regs.writeV (r : Regs) (n : Nat) (mask : BitVec 16) (val : Nat → W32) : Regs := r.putLanes n mask val 0 16

/-- A buffer record. -/
def Regs.getB (r : Regs) (k : Nat) : BitVec 256 := tget 0 r.b k
/-- A buffer record written: its BT becomes invalid (02 R36). -/
def Regs.setB (r : Regs) (k : Nat) (v : BitVec 256) : Regs :=
  { r with b := tset 0 r.b k v, bt := tset BT.reset r.bt k BT.reset }
/-- A BT register. -/
def Regs.getBT (r : Regs) (k : Nat) : BT := tget BT.reset r.bt k
/-- A BT register filled or made invalid. -/
def Regs.setBT (r : Regs) (k : Nat) (v : BT) : Regs := { r with bt := tset BT.reset r.bt k v }

/-- Is thread `t` active (05 R109)? -/
def Group.act (g : Group) (t : Nat) : Bool := g.r.exm.getLsbD t

/-- The mask of the threads below 16 that satisfy `p`. -/
def maskOf (p : Nat → Bool) : BitVec 16 :=
  (List.range 16).foldl (fun m t => if p t then m ||| BitVec.twoPow 16 t else m) 0

/-! Waiting and waking. -/

/-- The group is marked able to issue if it was waiting. -/
def State.poke (s : State) (gk : Nat) : State :=
  s.modGrp gk (fun g => match g.y.status with
    | .waiting _ => { g with y := { g.y with status := .ready } }
    | _ => g)

/-- Live group keys. -/
def State.liveKeys (s : State) : List Nat := (s.groups.filter (fun p => p.2.live)).map (fun p => p.1)
/-- Live group keys of a team. -/
def State.teamKeys (s : State) (tk : Nat) : List Nat := s.liveKeys.filter (fun k => decide (teamOf k = tk))
/-- Live group keys on a core. -/
def State.coreKeys (s : State) (c : Nat) : List Nat :=
  s.liveKeys.filter (fun k => decide ((s.teamG k).core = c) && decide ((s.teamG k).st = .resident))

/-- Every waiting group of a team is marked able to issue. -/
def State.pokeTeam (s : State) (tk : Nat) : State := (s.teamKeys tk).foldl State.poke s
/-- Every waiting group of a core is marked able to issue. -/
def State.pokeCore (s : State) (c : Nat) : State := (s.coreKeys c).foldl State.poke s
/-- Every waiting group is marked able to issue. -/
def State.pokeAll (s : State) : State := s.liveKeys.foldl State.poke s

/-- The teams in a core's slots, by slot. -/
def Core.teams (c : Core) : List Nat :=
  (List.range 4).filterMap (fun i => let k := tget 0 c.slots i; if k = 0 then none else some (k - 1))

/-- Does the core hold an Invar team (15 R402)? -/
def State.coreInvar (s : State) (c : Nat) : Bool :=
  (s.core c).teams.any (fun tk => (s.launch (s.team tk).launch).invar)

/-- The quadrant of a group (15 R380). -/
def quadOf (gk : Nat) : Nat := idxOf gk % 4

/-- Quadrant `q` of a core. -/
def Core.quad (c : Core) (q : Nat) : Quad := tget Quad.reset c.quads q
/-- A quadrant of a core changed. -/
def State.modQuad (s : State) (c q : Nat) (f : Quad → Quad) : State :=
  s.modCore c (fun co => { co with quads := tset Quad.reset co.quads q (f (co.quad q)) })

/-- The position that a group holds in its quadrant's active set. -/
def Quad.posOf (q : Quad) (gk : Nat) : Option Nat :=
  (List.range 8).find? (fun p => decide (tget none q.active p = some gk))

/-- A group of the FIFO takes a position; the group that held it joins the FIFO's tail (15 R398). -/
def Quad.take (q : Quad) (p h : Nat) : Quad :=
  { q with
    active := tset none q.active p (some h)
    fifo := q.fifo.erase h ++ (tget none q.active p).toList
    held := q.held.erase p ++ [p] }

/-- Can the group issue, as far as is known (log 4)? -/
def State.isReady (s : State) (gk : Nat) : Bool := decide ((s.grp gk).y.status = .ready)

/-- A waiting group leaves the active set if the FIFO holds a group that can issue (15 R398). -/
def State.leaveActive (s : State) (gk : Nat) : State :=
  let c := s.coreNoG gk
  let q := (s.core c).quad (quadOf gk)
  if s.coreInvar c then s
  else match q.posOf gk, q.fifo.find? s.isReady with
    | some p, some h => s.modQuad c (quadOf gk) (fun q => q.take p h)
    | _, _ => s

/-- Does a group that waits so leave the active set (15 R398)? -/
def Wait.leaves (w : Wait) : Bool := decide (w ≠ .short)

/-- The waiting group at position `p` of a quadrant leaves the active set if it may. -/
def State.leaveAt (s : State) (c q p : Nat) : State :=
  match tget none ((s.core c).quad q).active p with
  | some gk => match (s.grp gk).y.status with
    | .waiting w => if w.leaves then s.leaveActive gk else s
    | _ => s
  | none => s

/-- Waiting groups leave the active set of a quadrant as groups of its FIFO become able to issue (15 R398). -/
def State.leaveAll (s : State) (c q : Nat) : State := (List.range 8).foldl (fun st p => st.leaveAt c q p) s

/-- A group is put into a quadrant: the first empty position, or the FIFO's tail. -/
def Quad.enter (q : Quad) (gk : Nat) : Quad :=
  match (List.range 8).find? (fun p => decide (tget none q.active p = none)) with
  | some p => { q with active := tset none q.active p (some gk), held := q.held.erase p ++ [p] }
  | none => { q with fifo := q.fifo ++ [gk] }

/-- A group leaves its quadrant for good; the FIFO's head takes its position. -/
def Quad.drop (q : Quad) (gk : Nat) : Quad :=
  match q.posOf gk with
  | none => { q with fifo := q.fifo.erase gk }
  | some p =>
    match q.fifo with
    | [] => { q with active := tset none q.active p none, held := q.held.erase p }
    | h :: rest => { q with active := tset none q.active p (some h), fifo := rest, held := q.held.erase p ++ [p] }

/-! Free values and addresses. -/

/-- A free value is drawn (log 3): the counter of draws advances. -/
def State.draw (s : State) : Nat × State := (s.free, { s with free := s.free + 1 })

/-- A 57-bit address in canonical form (02 R29). -/
def canon57 (a : W64) : W64 := (a.truncate 57).signExtend 64

end Sys2Proof.Machine
end

