-- ==== Sys2Proof/Machine/Xlate.lean ====
section
/-! DEFINITION. Device physical memory with migration and the L2 (spec/02 R24 to R44; 04 R82 to R88), translation
(R29 to R36), the fields of buffer records (05 R120), and metadata words (04 R99). -/

namespace Sys2Proof.Machine

/-! Physical memory. -/

/-- The first device physical address of die 1 (02 R24). -/
def die1Base : Nat := 0x3B9ACA0000
/-- The first address beyond HBM (02 R24). -/
def hbmEnd : Nat := 0x7735940000
/-- The bytes of one channel (02 R25). -/
def chanBytes : Nat := 2000000000

/-- The die of a device physical address. -/
def dieOfPa (pa : Nat) : Nat := if pa < die1Base then 0 else 1
/-- The offset of a device physical address in its die's range. -/
def offOfPa (pa : Nat) : Nat := if pa < die1Base then pa else pa - die1Base

/-- Channels in service on a die (02 R44). -/
def Die.chans (d : Die) : Nat := 128 - d.retired.length

/-- Does an address lie in HBM and not in the hole that a retired channel leaves (02 R24)? -/
def State.inHbm (s : State) (pa : Nat) : Bool :=
  decide (pa < hbmEnd) && decide (offOfPa pa < (s.die (dieOfPa pa)).chans * chanBytes)

/-- The channel map of a die: the channels in service in ascending order (02 R44). -/
def Die.cmap (d : Die) : List Nat := (List.range 128).filter (fun c => !d.retired.contains c)

/-- Placement (02 R25): the channel (128·die + slot number) and the byte address within it. -/
def State.place (s : State) (pa : Nat) : Nat × Nat :=
  let d := dieOfPa pa
  let n := (s.die d).chans
  let o := offOfPa pa
  let g := o / 256
  let q := g / n
  let h := (q % 128) ^^^ (q / 2 ^ 7 % 128) ^^^ (q / 2 ^ 14 % 128) ^^^ (q / 2 ^ 21 % 4)
  let sl := (g % n + h) % n
  (128 * d + (s.die d).cmap.getD sl 0, q * 256 + o % 256)

/-- The stack controller of a device physical address (02 R26). -/
def State.stackOf (s : State) (pa : Nat) : Nat := (s.place pa).1 / 32

/-- The bytes of a migrated page. -/
def Mig.size (e : Mig) : Nat := if e.big then 2 ^ 21 else 2 ^ 16

/-- Where a line of a moving page is served (02 R41): below PROG from the new frame, else from the old. -/
def Mig.serve (e : Mig) (tgt pa : Nat) : Option (Nat × Nat) :=
  if e.st = .moving ∨ e.st = .done then
    let off := if tgt = e.otgt ∧ e.old ≤ pa ∧ pa < e.old + e.size then some (pa - e.old)
      else if tgt = e.ntgt ∧ e.new ≤ pa ∧ pa < e.new + e.size then some (pa - e.new)
      else none
    off.map (fun o => if o / 256 < e.prog then (e.ntgt, e.new + o) else (e.otgt, e.old + o))
  else none

/-- The frame that serves a physical address (02 R41). -/
def State.served (s : State) (tgt pa : Nat) : Nat × Nat :=
  ((s.stks.flatMap (fun k => k.2.mig)).findSome? (fun e => e.2.serve tgt pa)).getD (tgt, pa)

/-- The memory image of a target: 0 HBM, 1 pool, 2 host, 3 peer. -/
def State.image (s : State) (tgt : Nat) : Memory :=
  match tgt with
  | 0 => s.hbm
  | 1 => s.pool
  | 2 => s.host
  | _ => s.peer

/-- A memory image replaced. -/
def State.setImage (s : State) (tgt : Nat) (m : Memory) : State :=
  match tgt with
  | 0 => { s with hbm := m }
  | 1 => { s with pool := m }
  | 2 => { s with host := m }
  | _ => { s with peer := m }

/-- A byte of physical memory. -/
def State.pbyte (s : State) (tgt pa : Nat) : Byte :=
  let f := s.served tgt pa
  mget (s.image f.1) f.2

/-- `n` bytes of physical memory. -/
def State.pread (s : State) (tgt : Nat) : Nat → Nat → List Byte
  | _, 0 => []
  | pa, n + 1 => s.pbyte tgt pa :: State.pread s tgt (pa + 1) n

/-- A little-endian number of `n` bytes of physical memory. -/
def State.pnum (s : State) (tgt pa n : Nat) : Nat := leNat (s.pread tgt pa n)

/-- A byte of physical memory written. -/
def State.pset (s : State) (tgt pa : Nat) (b : Byte) : State :=
  let f := s.served tgt pa
  s.setImage f.1 (mset (s.image f.1) f.2 b)

/-- Bytes of physical memory written. -/
def State.pwrite (s : State) (tgt : Nat) : Nat → List Byte → State
  | _, [] => s
  | pa, b :: bs => State.pwrite (s.pset tgt pa b) tgt (pa + 1) bs

/-- Does an address lie on a channel that has failed (01 R20)? -/
def State.onFailed (s : State) (pa : Nat) : Bool :=
  let d := s.die (dieOfPa pa)
  !d.failed.isEmpty && d.failed.contains ((s.place pa).1 % 128)

/-- Does a read of `n` bytes meet an uncorrectable error (02 R23)? The frame that serves the address tells (R41). -/
def State.pbad (s : State) (tgt pa n : Nat) : Bool :=
  let f := s.served tgt pa
  f.1 == 0 && (s.ecc.any (fun k => decide (f.2 / 64 ≤ k) && decide (k ≤ (f.2 + n - 1) / 64)) ||
    s.onFailed f.2 || s.onFailed (f.2 + n - 1))

/-! L2 (04 R82 to R88): which lines are resident. Data stands in the HBM image. -/

/-- Is a line in a pinned range, and pinned by the sample (04 R87)? The first Bool is for the range alone. -/
def Die.pins (d : Die) (pa : Nat) : Bool × Bool :=
  let rs := (List.range 8).filter (fun i =>
    let r := (tget 0 d.l2rng i).toNat
    decide (fieldOf r 63 1 = 1) && decide (fieldOf r 0 36 * 65536 ≤ pa) && decide (pa < fieldOf r 64 36 * 65536))
  (!rs.isEmpty, rs.any (fun i => decide
    ((fieldOf pa 8 3) ^^^ (fieldOf pa 11 3) ^^^ (fieldOf pa 14 3) ≤ fieldOf (tget 0 d.l2rng i).toNat 60 3)))

/-- Pinned now (04 R87): a quota of 0 turns pinning off, and no pin applies to an unmapped page (02 R39). -/
def State.pinned (s : State) (pa : Nat) : Bool :=
  let d := s.die (dieOfPa pa)
  (d.pins pa).2 && decide (d.l2pq ≠ 0) && !d.nopin.any (fun f => decide (f.1 ≤ pa) && decide (pa < f.1 + f.2))

/-- The tier of a line as a victim (04 R84); STEP lines count as expired when their epoch is not the current one. -/
def Stack.tier (k : Stack) (l : L2Line) : Nat :=
  if l.pinned then 5
  else if l.cls = 1 then 2
  else if 4 ≤ l.cls then (if tget 0 k.epochs (l.cls - 4) = l.epoch then 4 else 2)
  else if l.cls = 3 then 4
  else 3

/-- The last line of a tier in a set (its least recently used). -/
def Stack.victim (k : Stack) (ls : List L2Line) (t : Nat) : Option L2Line :=
  (ls.filter (fun l => decide (k.tier l = t))).getLast?

/-- Room for a fill in a full set (04 R84, R87): the victim removed, or nothing allocated. -/
def Stack.evict (k : Stack) (quota : Nat) (pin : Bool) (ls : List L2Line) : Option (List L2Line) :=
  let pinnedNow := (ls.filter (fun l => l.pinned)).length
  if pin && decide (quota ≤ pinnedNow) then
    (k.victim ls 5).map (fun v => ls.erase v)
  else if ls.length < 16 then some ls
  else
    ((k.victim ls 2).or ((k.victim ls 3).or (k.victim ls 4))).map (fun v => ls.erase v)

/-- One access to an HBM line under a class (04 R83 to R85, R87). The quota limits the fill of a pinned line alone, as the
rule says; a resident line that a hit finds pinned stays, also in a set at its quota (DESIGN CHOICE, log 131). A hit makes the line the most recently used, and a write under
another class gives it that class and its epoch; a fill puts a STREAM line in as the least recently used. -/
def State.l2touch (s : State) (pa cls : Nat) (wr : Bool) : State :=
  let pl := s.place pa
  let st := pl.1 / 32
  let set := pl.2 / 256 % 4096 % 3072
  let a := pa / 256
  let k := s.stk st
  let ls := tget [] k.sets set
  let pin := s.pinned pa
  let quota := (s.die (dieOfPa pa)).l2pq.toNat
  let epoch := if 4 ≤ cls then tget 0 k.epochs (cls - 4) else 0
  let new := match ls.find? (fun l => decide (l.addr = a)) with
    | some l =>
      let other := wr && decide (cls ≠ 2) && decide (cls ≠ l.cls)
      { l with
        cls := if other then cls else l.cls
        epoch := if other then epoch else l.epoch
        dirty := l.dirty || wr
        pinned := pin } :: ls.erase l
    | none =>
      if cls = 2 then ls
      else match k.evict quota pin ls with
        | none => ls
        | some rest => if cls = 1 then rest ++ [⟨a, cls, epoch, wr, pin⟩] else ⟨a, cls, epoch, wr, pin⟩ :: rest
  s.modStk st (fun k => { k with sets := tset [] k.sets set new })

/-- One access to each line of a range, in the L2 of the frame that serves it (04 R82, 02 R41): L2 holds HBM lines only. -/
def State.l2range (s : State) (tgt pa n cls : Nat) (wr : Bool) : State :=
  if n = 0 then s
  else
    ((List.range ((pa + n - 1) / 256 - pa / 256 + 1)).map (fun i => (pa / 256 + i) * 256)).foldl
      (fun st a => let f := st.served tgt a; if f.1 = 0 then st.l2touch f.2 cls wr else st) s

/-! Translation (02 R29 to R36). -/

/-- Why a translation fails. -/
inductive XFault where
  /-- a translation fault -/
  | miss
  /-- a permission fault; the Bool says whether the supervisor rule is broken (03 R67 DETAIL [3]) -/
  | perm (sup : Bool)
  /-- the leaf's TGT disagrees with SPACE (02 R27) -/
  | space
deriving DecidableEq, Repr

/-- A holder of translations (02 R35). -/
inductive Holder where
  | core (c : Nat)
  | copy (c : Nat)
  | link
deriving DecidableEq, Repr

/-- What an access needs of its leaf. -/
inductive Need where
  | read | write | fetch
deriving DecidableEq, Repr

/-- The bytes of a page by size code. -/
def pageBytes (psz : Nat) : Nat := match psz with | 0 => 2 ^ 16 | 1 => 2 ^ 21 | _ => 2 ^ 30

/-- Canonical form (02 R29). -/
def isCanon (va : W64) : Bool := canon57 va == va
/-- Supervisor half (02 R29). -/
def isSupHalf (va : W64) : Bool := va.getLsbD 56

/-- FRAME and NEXT of an entry (02 R32). -/
def entryAddr (e : Nat) : Nat := fieldOf e 12 40 * 4096

/-- Are an entry's reserved fields zero, and is it valid (02 R32)? -/
def entryOk (e : Nat) : Bool :=
  decide (fieldOf e 52 12 = 0) && decide (fieldOf e 10 2 = 0) && decide (fieldOf e 5 3 = 0) && decide (fieldOf e 0 1 = 1)

/-- The address alignment of a leaf by page size (02 R32): the bits that must be zero. -/
def leafAligned (e psz : Nat) : Bool := decide (entryAddr e % pageBytes psz = 0)

/-- The levels of a walk from `lvl` down (02 R31): the page size and the leaf. -/
def State.walkFrom (s : State) (va : Nat) : Nat → Nat → Option (Nat × Nat)
  | 0, tab =>
    let a := tab + 8 * (va / 2 ^ 16 % 32)
    let e := s.pnum 0 a 8
    if s.inHbm a && entryOk e && decide (fieldOf e 1 1 = 1) && decide (fieldOf e 8 2 ≠ 3) && leafAligned e 0
    then some (0, e) else none
  | lvl + 1, tab =>
    let sh := 21 + 9 * lvl
    let a := tab + 8 * (va / 2 ^ sh % 512)
    let e := s.pnum 0 a 8
    if s.inHbm a && entryOk e then
      if fieldOf e 1 1 = 1 then
        if lvl ≤ 1 ∧ fieldOf e 8 2 ≠ 3 ∧ leafAligned e (lvl + 1) = true then some (lvl + 1, e) else none
      else if fieldOf e 8 2 = 0 then State.walkFrom s va lvl (entryAddr e)
      else none
    else none

/-- A walk (02 R30, R31): the page size and the leaf, or a translation fault. -/
def State.walk (s : State) (asid : BitVec 13) (va : Nat) : Option (Nat × Nat) :=
  let a := s.astbase.toNat + 8 * asid.toNat
  let e := s.pnum 0 a 8
  if s.inHbm a && decide (e % 4096 = 1) && decide (e < 2 ^ 52) then s.walkFrom va 4 (entryAddr e) else none

/-- The table entries that a walk reads from `lvl` down (02 R31), as far as it comes. -/
def State.trailFrom (s : State) (va : Nat) : Nat → Nat → List Nat
  | 0, tab => [tab + 8 * (va / 2 ^ 16 % 32)]
  | lvl + 1, tab =>
    let a := tab + 8 * (va / 2 ^ (21 + 9 * lvl) % 512)
    let e := s.pnum 0 a 8
    a :: (if s.inHbm a && entryOk e && decide (fieldOf e 1 1 = 0) && decide (fieldOf e 8 2 = 0)
      then State.trailFrom s va lvl (entryAddr e) else [])

/-- The L2 accesses of a walk (02 R34): the table entries that it reads, in order. -/
def State.walkL2 (s : State) (asid : BitVec 13) (va : Nat) : State :=
  let a := s.astbase.toNat + 8 * asid.toNat
  let e := s.pnum 0 a 8
  let l := a :: (if s.inHbm a && decide (e % 4096 = 1) && decide (e < 2 ^ 52) then s.trailFrom va 4 (entryAddr e) else [])
  (l.filter s.inHbm).foldl (fun st x => st.l2range 0 x 8 0 false) s

/-- A translation made is remembered, beside any that its page had before and that no TLBI has covered yet, and a pin may
apply to its frame again (02 R39). -/
def State.noteMap (s : State) (t : TlbEntry) : State :=
  let base := entryAddr t.leaf.toNat
  let size := pageBytes t.psz
  let s1 := if fieldOf t.leaf.toNat 8 2 = 0 then s.modDie (dieOfPa base) (fun d =>
      { d with nopin := d.nopin.filter (fun f => !(decide (f.1 < base + size) && decide (base < f.1 + f.2))) }) else s
  { s1 with maps := t :: s.maps.filter (fun x => decide (x ≠ t)) }

/-- Does the page of a translation still lead where it leads (02 R39)? -/
def State.leads (s : State) (t : TlbEntry) : Bool :=
  decide ((s.walk t.asid t.va).map (fun p => (p.1, entryAddr p.2, fieldOf p.2 8 2)) =
    some (t.psz, entryAddr t.leaf.toNat, fieldOf t.leaf.toNat 8 2))

/-- Does a cached translation serve an address? -/
def TlbEntry.hits (t : TlbEntry) (asid : BitVec 13) (va : Nat) : Bool :=
  t.asid == asid && decide (va / pageBytes t.psz = t.va / pageBytes t.psz)

/-- The translations of a holder. -/
def State.tlbOf (s : State) : Holder → List TlbEntry
  | .core c => (s.core c).tlb
  | .copy c => (s.core c).ctlb
  | .link => s.link.tlb

/-- A holder's translations replaced. -/
def State.setTlb (s : State) (h : Holder) (l : List TlbEntry) : State :=
  match h with
  | .core c => s.modCore c (fun co => { co with tlb := l })
  | .copy c => s.modCore c (fun co => { co with ctlb := l })
  | .link => { s with link := { s.link with tlb := l } }

/-- Entries a holder has (02 R35). -/
def Holder.cap : Holder → Nat
  | .core _ => 2048
  | .copy _ => 256
  | .link => 16384

/-- The leaf of an address through a holder: a hit, or a walk that fills the holder (the oldest entry gives way,
DESIGN CHOICE, log 11). -/
def State.leafOf (s : State) (h : Holder) (asid : BitVec 13) (va : Nat) : Option (Nat × Nat) × State :=
  match (s.tlbOf h).find? (fun t => t.hits asid va) with
  | some t => (some (t.psz, t.leaf.toNat), s)
  | none =>
    let s1 := s.walkL2 asid va
    match s.walk asid va with
    | none => (none, s1)
    | some (psz, e) =>
      let t : TlbEntry := ⟨asid, va / pageBytes psz * pageBytes psz, psz, BitVec.ofNat 64 e⟩
      (some (psz, e), (s1.noteMap t).setTlb h ((t :: s.tlbOf h).take h.cap))

/-- The rights of a leaf (02 R29, R32): an unprivileged access to an S page or a supervisor-half access through a page
without S, then W or X. -/
def leafRights (va : W64) (leaf : Nat) (priv : Bool) (need : Need) : Option XFault :=
  if fieldOf leaf 4 1 = 1 ∧ priv = false then some (.perm true)
  else if isSupHalf va = true ∧ fieldOf leaf 4 1 = 0 then some (.perm true)
  else match need with
    | .read => none
    | .write => if fieldOf leaf 2 1 = 1 then none else some (.perm false)
    | .fetch => if fieldOf leaf 3 1 = 1 then none else some (.perm false)

/-- A translated address. -/
structure XAddr where
  tgt : Nat
  pa : Nat
  psz : Nat
  leaf : Nat
deriving DecidableEq, Repr

/-- Translation of an access (02 R29 to R32): `tgt` is the target that SPACE asks for. An HBM address in a hole or
beyond the stacks is a translation fault (R24). A page whose TGT disagrees with SPACE gives the space fault even where
its rights fail too, since the manual orders neither before the other (DESIGN CHOICE, log 27). -/
def State.xlate (s : State) (h : Holder) (asid : BitVec 13) (va : W64) (tgt : Nat) (priv : Bool) (need : Need) :
    Except XFault XAddr × State :=
  if !isCanon va then (.error .miss, s)
  else if isSupHalf va && !priv then (.error (.perm true), s)
  else
    let r := s.leafOf h asid (va.toNat % 2 ^ 57)
    match r.1 with
    | none => (.error .miss, r.2)
    | some (psz, leaf) =>
      if fieldOf leaf 8 2 ≠ tgt then (.error .space, r.2)
      else match leafRights va leaf priv need with
        | some f => (.error f, r.2)
        | none =>
          let pa := entryAddr leaf + va.toNat % pageBytes psz
          if tgt = 0 ∧ s.inHbm pa = false then (.error .miss, r.2)
          else (.ok ⟨tgt, pa, psz, leaf⟩, r.2)

/-- The target that a translated space asks for (02 R27). -/
def spaceTgt (sp : Nat) : Nat := match sp with | 3 => 0 | 4 => 1 | _ => 2

/-- `n` bytes read through a holder from one virtual address; the access does not cross its page. -/
def State.vread (s : State) (h : Holder) (asid : BitVec 13) (va : W64) (tgt : Nat) (priv : Bool) (n : Nat) :
    Except XFault (List Byte) × State :=
  let r := s.xlate h asid va tgt priv .read
  match r.1 with
  | .error e => (.error e, r.2)
  | .ok a => (.ok (r.2.pread a.tgt a.pa n), r.2.l2range a.tgt a.pa n 0 false)

/-- A little-endian number read through a holder. -/
def State.vnum (s : State) (h : Holder) (asid : BitVec 13) (va : W64) (tgt : Nat) (priv : Bool) (n : Nat) :
    Except XFault Nat × State :=
  let r := s.vread h asid va tgt priv n
  match r.1 with
  | .error e => (.error e, r.2)
  | .ok bs => (.ok (leNat bs), r.2)

/-- Bytes written through a holder at one virtual address. -/
def State.vwrite (s : State) (h : Holder) (asid : BitVec 13) (va : W64) (tgt : Nat) (priv : Bool) (bs : List Byte) :
    Except XFault XAddr × State :=
  let r := s.xlate h asid va tgt priv .write
  match r.1 with
  | .error e => (.error e, r.2)
  | .ok a => (.ok a, (r.2.pwrite a.tgt a.pa bs).l2range a.tgt a.pa bs.length 0 true)

/-- `n` 32-bit words read through a holder, each translated. -/
def State.vwords (s : State) (h : Holder) (asid : BitVec 13) (tgt : Nat) (priv : Bool) :
    W64 → Nat → Except XFault (List W32) × State
  | _, 0 => (.ok [], s)
  | va, n + 1 =>
    let r := s.vnum h asid va tgt priv 4
    match r.1 with
    | .error e => (.error e, r.2)
    | .ok w =>
      let q := State.vwords r.2 h asid tgt priv (va + 4) n
      match q.1 with
      | .error e => (.error e, q.2)
      | .ok ws => (.ok (BitVec.ofNat 32 w :: ws), q.2)

/-! Buffer records (05 R120). -/

/-- A field of a record. -/
def bfield (r : BitVec 256) (lo n : Nat) : Nat := fieldOf r.toNat lo n
/-- BASE. -/
def rBase (r : BitVec 256) : W64 := r.extractLsb' 0 64
/-- EXT0. -/
def rExt0 (r : BitVec 256) : Nat := bfield r 64 32
/-- EXT1. -/
def rExt1 (r : BitVec 256) : Nat := bfield r 96 32
/-- STRIDE0. -/
def rStr0 (r : BitVec 256) : Nat := bfield r 128 32
/-- STRIDE1. -/
def rStr1 (r : BitVec 256) : Nat := bfield r 160 32
/-- FMT. -/
def rFmt (r : BitVec 256) : Nat := bfield r 192 8
/-- SPACE. -/
def rSpace (r : BitVec 256) : Nat := bfield r 200 3
/-- BCHK. -/
def rBchk (r : BitVec 256) : Nat := bfield r 203 2
/-- CACHE. -/
def rCache (r : BitVec 256) : Nat := bfield r 205 3
/-- SHADOW. -/
def rShadow (r : BitVec 256) : Bool := r.getLsbD 208
/-- RO. -/
def rRo (r : BitVec 256) : Bool := r.getLsbD 209
/-- SWZ. -/
def rSwz (r : BitVec 256) : Nat := bfield r 210 6
/-- VIEW. -/
def rView (r : BitVec 256) : Nat := bfield r 216 16
/-- TCB. -/
def rTcb (r : BitVec 256) : Nat := bfield r 232 8

/-- What BCHK makes of an index (03 R50). -/
inductive Checked where
  | bad
  | idx (x : Nat)
  | drop
deriving DecidableEq, Repr

/-- The bounds check of an index against an extent (03 R50). -/
def check (x ext bchk : Nat) : Checked :=
  if x < ext then .idx x
  else match bchk with
    | 0 => .bad
    | 1 => if ext = 0 then .bad else .idx (ext - 1)
    | 2 => .drop
    | _ => if ext = 0 then .bad else .idx (x % ext)

/-- The address of element (i, j) of a record (05 R120); in space 5 the rank in bits [63:48] is kept (02 R478). -/
def elemAddr (space : Nat) (base : W64) (str1 str0 i j : Nat) : W64 :=
  if space = 5 then
    BitVec.ofNat 64 (base.toNat / 2 ^ 48 * 2 ^ 48 + (base.toNat % 2 ^ 48 + i * str1 + j * str0) % 2 ^ 48)
  else base + BitVec.ofNat 64 (i * str1 + j * str0)

/-- The element width of a FMT code in bits; none where the code is unassigned (05 R121). -/
def fmtBits (f : Nat) : Option Nat :=
  match f with
  | 0x00 => some 8 | 0x01 => some 16 | 0x02 => some 32 | 0x03 => some 64 | 0x04 => some 8 | 0x05 => some 32
  | 0x08 => some 32 | 0x09 => some 16 | 0x0A => some 16 | 0x0B => some 8 | 0x0C => some 8 | 0x0D => some 6
  | 0x0E => some 6 | 0x0F => some 4 | 0x10 => some 8 | 0x11 => some 8 | 0x12 => some 6 | 0x13 => some 6
  | 0x14 => some 4 | 0x15 => some 8 | 0x18 => some 8 | 0x19 => some 6 | 0x1A => some 4 | _ => none

/-- Block formats (05 R121, R127). -/
def isBlock (f : Nat) : Bool := (decide (0x10 ≤ f) && decide (f ≤ 0x15)) || (decide (0x18 ≤ f) && decide (f ≤ 0x1A))
/-- KX formats. -/
def isKX (f : Nat) : Bool := decide (0x18 ≤ f)

/-! Metadata words (04 R99). -/

/-- The metadata word of a physical segment (04 R99). -/
def Core.meta1 (c : Core) (seg : Nat) : W32 := tget 0 c.mdw seg
/-- A metadata word replaced. -/
def State.setMeta (s : State) (c seg : Nat) (w : W32) : State :=
  s.modCore c (fun co => { co with mdw := tset 0 co.mdw seg w })
/-- TAG. -/
def mTag (w : W32) : Nat := fieldOf w.toNat 0 2
/-- STAMP. -/
def mStamp (w : W32) : Nat := fieldOf w.toNat 2 6
/-- KEEP. -/
def mKeep (w : W32) : Bool := w.getLsbD 8
/-- SBV. -/
def mSbv (w : W32) : Bool := w.getLsbD 9
/-- SBW. -/
def mSbw (w : W32) : Nat := fieldOf w.toNat 10 2
/-- A metadata word with TAG replaced. -/
def mSetTag (w : W32) (t : Nat) : W32 := (w &&& 0xFFFFFFFC) ||| BitVec.ofNat 32 (t % 4)
/-- A metadata word with STAMP replaced. -/
def mSetStamp (w : W32) (t : Nat) : W32 := (w &&& 0xFFFFFF03) ||| BitVec.ofNat 32 (t % 64 * 4)

end Sys2Proof.Machine
end

