-- ==== Sys2Proof/Machine/ViewTab.lean ====
section
/-! DEFINITION. The view table: entries at the view home and as caches hold them, binding, pins and the swap of PUBLISH
(spec/03 R73 to R81). -/

namespace Sys2Proof.Machine

/-- A field of `n` bits of a number replaced. -/
def nput (e lo n v : Nat) : Nat := e - fieldOf e lo n * 2 ^ lo + v % 2 ^ n * 2 ^ lo

/-- KIND of an entry (R74). -/
def vKind (e : Nat) : Nat := fieldOf e 248 2
/-- CUR. -/
def vCur (e : Nat) : Nat := fieldOf e 250 2
/-- SHD; 3 is NONE. -/
def vShd (e : Nat) : Nat := fieldOf e 252 2
/-- PAGES. -/
def vPages (e : Nat) : Nat := fieldOf e 224 24
/-- LIST of a slot. -/
def vList (e s : Nat) : Nat := fieldOf e (64 * s) 64 % 2 ^ 52
/-- LV of a slot. -/
def vLv (e s : Nat) : Nat := fieldOf e (384 + 32 * s) 32
/-- SPIN of a slot. -/
def vSpin (e s : Nat) : Nat := fieldOf e (272 + 8 * s) 8
/-- The reserved fields are zero (R74). -/
def vOk (e : Nat) : Bool :=
  decide (fieldOf e 480 32 = 0) && decide (fieldOf e 300 84 = 0) && decide (fieldOf e 254 2 = 0)

/-- The address of an entry (R73). -/
def Ctx.viewAddr (c : Ctx) (h : Nat) : W64 := c.vtbase + BitVec.ofNat 64 (64 * h)

/-- A view entry, read at the view home with the hardware's own rights: VTBASE is a virtual address of the context's ASID
(DESIGN CHOICE, log 15); none for handle 0 and where the table cannot be read. -/
def State.viewEntry (s : State) (cx h : Nat) : Option Nat × State :=
  if h = 0 then (none, s)
  else
    let r := s.vnum .link (s.ctx cx).asid ((s.ctx cx).viewAddr h) 0 true 64
    match r.1 with
    | .error _ => (none, r.2)
    | .ok e => (some e, r.2)

/-! The view entries that the copy engines' and the link die's translation caches hold (R73, R81). -/

/-- The view entries of a holder: context, handle, entry. -/
def State.viewsOf (s : State) : Holder → List (Nat × Nat × Nat)
  | .link => s.link.views
  | .core c => (s.core c).views
  | .copy c => (s.core c).views

/-- A holder's view entries replaced. -/
def State.setViews (s : State) (h : Holder) (l : List (Nat × Nat × Nat)) : State :=
  match h with
  | .link => { s with link := { s.link with views := l } }
  | .core c => s.modCore c (fun co => { co with views := l })
  | .copy c => s.modCore c (fun co => { co with views := l })

/-- Held view entries dropped from every cache: those of contexts and handles that `p` picks. -/
def State.dropViews (s : State) (p : Nat → Nat → Bool) : State :=
  let keep := fun (l : List (Nat × Nat × Nat)) => l.filter (fun e => !p e.1 e.2.1)
  { s with
    cores := s.cores.map (fun c => (c.1, { c.2 with views := keep c.2.views }))
    link := { s.link with views := keep s.link.views } }

/-- A view entry as an engine finds it: the one that its cache holds, else the one at the view home, which the cache then
holds (the oldest gives way, log 11). -/
def State.viewHeld (s : State) (hd : Holder) (cx h : Nat) : Option Nat × State :=
  match (s.viewsOf hd).find? (fun e => decide (e.1 = cx) && decide (e.2.1 = h)) with
  | some e => (some e.2.2, s)
  | none =>
    let r := s.viewEntry cx h
    match r.1 with
    | none => (none, r.2)
    | some e => (some e, r.2.setViews hd (((cx, h, e) :: r.2.viewsOf hd).take hd.cap))

/-- A view entry written at the view home; no cache holds it any more (R78, R81). -/
def State.setView (s : State) (cx h e : Nat) : State :=
  (s.vwrite .link (s.ctx cx).asid ((s.ctx cx).viewAddr h) 0 true (leBytes 64 e)).2.dropViews (fun c n =>
    decide (c = cx) && decide (n = h))

/-- Every list of bound slots in a context: copies of the cores and of the link die, copies saved with their teams, and
collectives (R72, R76, 11 R293). -/
def State.pinLists (s : State) (cx : Nat) : List (List ViewPin) :=
  let mine := fun (l : List CopyCmd) => (l.filter (fun c => decide (c.ctx = cx))).map (fun c => c.bound)
  (s.cores.flatMap (fun c => mine c.2.copies)) ++ mine s.link.copies ++
    (s.teams.flatMap (fun t => mine (t.2.saveCopies.map (fun c => c.1)))) ++
    ((s.link.colls.filter (fun c => decide (c.ctx = cx))).map (fun c => c.bound))

/-- Copy pins on a slot of a live view (R76). -/
def State.copyPins (s : State) (cx h slot : Nat) : Nat :=
  ((s.pinLists cx).filter (fun l => l.any (fun p => decide (p.live = h) && decide (p.slot = slot)))).length

/-- pins(s) of R78. -/
def State.pins (s : State) (cx h e slot : Nat) : Nat := vSpin e slot + s.copyPins cx h slot

/-- A free slot besides two (R78). -/
def State.freeSlot (s : State) (cx h e a b : Nat) : Option Nat :=
  (List.range 3).find? (fun f => decide (f ≠ a) && decide (f ≠ b) && decide (vList e f ≠ 0) &&
    decide (s.pins cx h e f = 0))

/-- A slot that drops to zero pins while SHD is NONE becomes SHD at once (R78). -/
def State.slotIdle (s : State) (cx h slot : Nat) : State :=
  let r := s.viewEntry cx h
  match r.1 with
  | none => r.2
  | some e =>
    if vKind e = 1 ∧ vShd e = 3 ∧ slot ≠ vCur e ∧ r.2.pins cx h e slot = 0 then r.2.setView cx h (nput e 252 2 slot)
    else r.2

/-- Slots whose pins a command has given up. -/
def State.unpin (s : State) (cx : Nat) (l : List ViewPin) : State :=
  l.foldl (fun st p => st.slotIdle cx p.live p.slot) s

/-- What binding a view gives (R76, R77). -/
inductive Bind where
  | err (cls detail : Nat)
  | wait
  | ok (p : ViewPin)

/-- The binding of a handle by a command (R76, R77) whose engine holds translations in `hd`: `wr` for a write. -/
def State.viewBind (s : State) (hd : Holder) (cx h : Nat) (shadow wr : Bool) : Bind × State :=
  let r := s.viewHeld hd cx h
  match r.1 with
  | none => (.err 6 1, r.2)
  | some e =>
    if !vOk e then (.err 6 1, r.2)
    else if vKind e = 1 then
      if wr && (!shadow || decide (fieldOf e 299 1 = 0)) then (.err 6 2, r.2)
      else if shadow && decide (vShd e = 3) then
        if (List.range 3).any (fun f => decide (f ≠ vCur e) && decide (0 < r.2.copyPins cx h f)) then (.wait, r.2)
        else (.err 6 3, r.2)
      else
        let sl := if shadow then vShd e else vCur e
        if vList e sl = 0 then (.err 6 1, r.2) else (.ok ⟨h, shadow, h, sl, vList e sl, vPages e⟩, r.2)
    else if vKind e = 2 then
      if wr then (.err 6 2, r.2)
      else
        let p := fieldOf e 256 16
        let sl := fieldOf e 297 2
        let q := r.2.viewHeld hd cx p
        match q.1 with
        | none => (.err 6 1, q.2)
        | some pe =>
          if !vOk pe ∨ vKind pe ≠ 1 ∨ vList pe sl = 0 then (.err 6 1, q.2)
          else (.ok ⟨h, shadow, p, sl, vList pe sl, vPages e⟩, q.2)
    else (.err 6 1, r.2)

/-- DIRTY of a live view set, if the slot written is its shadow still (R77). -/
def State.setDirty (s : State) (cx h slot : Nat) : State :=
  let r := s.viewEntry cx h
  match r.1 with
  | none => r.2
  | some e => if fieldOf e 296 1 = 1 ∨ vShd e ≠ slot then r.2 else r.2.setView cx h (nput e 296 1 1)

/-- The view operation of PUBLISH (R78): none where it is the view fault. -/
def State.publish (s : State) (cx h : Nat) : Option State :=
  let r := s.viewEntry cx h
  match r.1 with
  | none => none
  | some e =>
    if !vOk e ∨ vKind e ≠ 1 ∨ vShd e = 3 then none
    else
      let old := vCur e
      let cur := vShd e
      let ver := (fieldOf e 192 32 + 1) % 2 ^ 32
      let e1 := nput (nput (nput (nput e 250 2 cur) 192 32 ver) (384 + 32 * cur) 32 ver) 296 1 0
      let shd := if r.2.pins cx h e1 old = 0 then old else (r.2.freeSlot cx h e1 cur old).getD 3
      some (r.2.setView cx h (nput e1 252 2 shd))

end Sys2Proof.Machine
end

