-- ==== Sys2Proof/Machine/Tcb.lean ====
section
/-! DEFINITION. Tensor control blocks and their AMAX (spec/05 R122 to R124; 03 R60). -/

namespace Sys2Proof.Machine

/-- A tensor control block (05 R122): the fields that a unit reads. -/
structure Tcb where
  widen : Nat
  rule : Nat
  seed : W32
  scale : W32
  amax : W32
deriving DecidableEq, Repr

/-- The null block (05 R123). -/
def Tcb.null : Tcb := ⟨0, 0, 0, 0, 0⟩

/-- The address of a context's tensor control block; TCBBASE is read as a virtual address of the context (DEDUCED,
log 15). -/
def Ctx.tcbAddr (c : Ctx) (i : Nat) : W64 := c.tcbbase + BitVec.ofNat 64 (64 * i)

/-- A tensor control block of a context, read through a holder with the hardware's own rights; index 0 is the null
block, and so is a block that cannot be translated (DESIGN CHOICE, log 15). -/
def State.tcb (s : State) (h : Holder) (cx i : Nat) : Tcb × State :=
  if i = 0 then (Tcb.null, s)
  else
    let c := s.ctx cx
    let r := s.vread h c.asid (c.tcbAddr i) 0 true 16
    match r.1 with
    | .error _ => (Tcb.null, r.2)
    | .ok bs =>
      let v := leNat bs
      (⟨fieldOf v 106 2 % 3, fieldOf v 104 2 % 3, BitVec.ofNat 32 (fieldOf v 64 32),
        BitVec.ofNat 32 (fieldOf v 32 32), BitVec.ofNat 32 (fieldOf v 0 32)⟩, r.2)

/-- An AMAX update with a non-negative FP32 value (05 R124): kept when it holds a value at least as large, counting
+0.0 and +∞; replaced otherwise. -/
def amaxUpd (old v : W32) : W32 :=
  if old.toNat ≤ 0x7F800000 ∧ v.toNat ≤ old.toNat then old else v

/-- The AMAX of a tensor control block raised at its home. -/
def State.raiseAmax (s : State) (h : Holder) (cx i : Nat) (v : W32) : State :=
  if i = 0 then s
  else
    let c := s.ctx cx
    let r := s.vread h c.asid (c.tcbAddr i) 0 true 4
    match r.1 with
    | .error _ => r.2
    | .ok bs =>
      (r.2.vwrite h c.asid (c.tcbAddr i) 0 true
        (leBytes 4 (amaxUpd (BitVec.ofNat 32 (leNat bs)) v).toNat)).2

/-- SCALE of a tensor control block written (09 R231). -/
def State.setScale (s : State) (h : Holder) (cx i : Nat) (v : W32) : State :=
  if i = 0 then s
  else
    let c := s.ctx cx
    (s.vwrite h c.asid (c.tcbAddr i + 4) 0 true (leBytes 4 v.toNat)).2

/-- The largest finite magnitude of FP32 patterns, as an FP32 pattern; NaN and ±∞ do not count (03 R60). -/
def amaxOf (a v : Nat) : Nat :=
  let m := v % 2 ^ 31
  if m < 0x7F800000 ∧ a < m then m else a

end Sys2Proof.Machine
end

