-- ==== Sys2Proof/Machine/Engines.lean ====
section
/-! DEFINITION. The copy engines' lists of commands: places, commands that come back with their teams, and commands that are
cancelled (spec/03 R45, R47, R60, R67, R72). -/

namespace Sys2Proof.Machine

/-- Word `i`. -/
def CopyCmd.word (c : CopyCmd) (i : Nat) : Nat := (c.w.getD i 0).toNat
/-- KIND: 0 COPY, 1 FILL, 2 CONVERT, 3 GATHER, 4 REDUCE; 5 stands for PSTW. -/
def CopyCmd.kind (c : CopyCmd) : Nat := if c.pstw then 5 else fieldOf (c.word 0) 0 4
/-- Does the command keep AMAX (R60)? -/
def CopyCmd.tracks (c : CopyCmd) : Bool := c.kind = 2 && (rFmt c.d == 0x0B || rFmt c.d == 0x0C || isBlock (rFmt c.d))

/-! Engines. -/

/-- The commands of an engine. -/
def State.cmdsOf (s : State) : Eng → List CopyCmd
  | .core n => (s.core n).copies
  | .link => s.link.copies

/-- The commands of an engine replaced. -/
def State.setCmds (s : State) (e : Eng) (l : List CopyCmd) : State :=
  match e with
  | .core n => s.modCore n (fun co => { co with copies := l })
  | .link => { s with link := { s.link with copies := l } }

/-- A command of an engine. -/
def State.cmdOf (s : State) (e : Eng) (id : Nat) : Option CopyCmd := (s.cmdsOf e).find? (fun c => decide (c.id = id))

/-- A command of an engine changed. -/
def State.putCmd (s : State) (e : Eng) (c : CopyCmd) : State :=
  s.setCmds e ((s.cmdsOf e).map (fun x => if x.id = c.id then c else x))

/-- Every engine that holds commands. -/
def State.engines (s : State) : List Eng := s.cores.map (fun c => Eng.core c.1) ++ [.link]

/-- The places of an engine (R45, R47). -/
def engCap : Eng → Nat
  | .core _ => 32
  | .link => 256

/-- The holder of an engine's translations (02 R35). -/
def engHolder : Eng → Holder
  | .core n => .copy n
  | .link => .link

/-- AMAX raised by a command that narrows, over what it has read (R60). One that has read no finite magnitude, only NaN or
infinities, offers +0.0 (DESIGN CHOICE, log 130). -/
def State.cAmax (s : State) (e : Eng) (c : CopyCmd) : State :=
  if c.tracks && decide (0 < c.pos ∨ 0 < c.rd ∨ c.amax ≠ 0) then s.raiseAmax (engHolder e) c.ctx (rTcb c.d) c.amax else s

/-! Commands that come back (16 R422, 03 R72). -/

/-- The segment key at the place where the team now is. -/
def State.segIn (s : State) (g : Nat) : Nat := 512 * (s.team (g / 512)).core + (s.team (g / 512)).base + g % 512

/-- A command's segments renamed. -/
def CopyCmd.reseg (c : CopyCmd) (f : Nat → Nat) : CopyCmd :=
  { c with filling := c.filling.map (fun x => (f x.1, x.2)), reading := c.reading.map f }

/-- Commands saved with a team resume (16 R422, 03 R72), as far as the engines have places (R45); the others follow as
places come free (DEDUCED, log 100). -/
def State.resumeCopies (s : State) (tk : Nat) : State :=
  ((s.team tk).saveCopies).foldl (fun st p =>
    let e := if p.2 then Eng.link else .core (st.team tk).core
    if engCap e ≤ (st.cmdsOf e).length then st.modTeam tk (fun t => { t with saveCopies := t.saveCopies ++ [p] })
    else st.setCmds e (st.cmdsOf e ++ [p.1.reseg st.segIn])) (s.modTeam tk (fun t => { t with saveCopies := [] }))

/-- A place of an engine is free: commands that came back with their teams take it. -/
def State.refill (s : State) : State :=
  ((s.teams.filter (fun (t : Nat × Team) => t.2.st == .resident && !t.2.saveCopies.isEmpty)).map (fun t => t.1)).foldl State.resumeCopies s

/-! Commands that are cancelled. -/

/-- Is a command one of a team's? -/
def CopyCmd.ofTeam (c : CopyCmd) (tk : Nat) : Bool := (c.gk.map teamOf) == some tk

/-- What a cancelled command leaves: its AMAX has what it has read (R60), its FILLING segments return to EMPTY (R67), and its
pins are given up (R76, R78). -/
def State.dropCmd (s : State) (e : Eng) (c : CopyCmd) : State :=
  (c.filling.foldl (fun st f => if mTag ((st.core (f.1 / 512)).meta1 (f.1 % 512)) = 1 then
      st.setMeta (f.1 / 512) (f.1 % 512) (mSetTag ((st.core (f.1 / 512)).meta1 (f.1 % 512)) 0)
    else st) (s.cAmax e c)).unpin c.ctx c.bound

/-- The commands that `p` picks taken out of every engine and cancelled; others that wait for places take theirs. -/
def State.cancelCmds (s : State) (p : CopyCmd → Bool) : State :=
  let gone := s.engines.flatMap (fun e => ((s.cmdsOf e).filter p).map (fun c => (e, c)))
  let s1 := s.engines.foldl (fun st e => st.setCmds e ((st.cmdsOf e).filter (fun c => !p c))) s
  (gone.foldl (fun st c => st.dropCmd c.1 c.2) s1).refill

/-- The copy commands of a team are cancelled (16 R414), in whatever engine they stand. No status is written, since the
groups that would read it are gone. -/
def State.cancelCopies (s : State) (tk : Nat) : State :=
  let t := s.team tk
  let s1 := (s.modTeam tk (fun t => { t with saveCopies := [] })).cancelCmds (fun c => c.ofTeam tk)
  t.saveCopies.foldl (fun st c => st.dropCmd (if c.2 then .link else .core t.core) { c.1 with filling := [] }) s1

end Sys2Proof.Machine
end

