-- ==== Sys2Proof/Machine/Ops.lean ====
section
/-! DEFINITION. The named operations over groups: path counters, the end of teams and launches, taking a trap
(spec/16 R411), returning from one, retirement, and the delivery of long-latency writes (05 R111). -/

namespace Sys2Proof.Machine

/-! Path counters (07 R169). -/

/-- Counter of a path. -/
def GSync.path (y : GSync) (p : Nat) : Nat := tget 0 y.paths p
/-- A path counter changed. -/
def GSync.setPath (y : GSync) (p n : Nat) : GSync := { y with paths := tset 0 y.paths p n }
/-- A path counter raised by `n`. -/
def State.incPath (s : State) (gk p n : Nat) : State :=
  s.modGrp gk (fun g => { g with y := g.y.setPath p (g.y.path p + n) })
/-- A path counter lowered by 1. -/
def State.decPath (s : State) (gk p : Nat) : State :=
  (s.modGrp gk (fun g => { g with y := g.y.setPath p (g.y.path p - 1) })).poke gk

/-! Taking a trap. -/

/-- A trap (16 R410): its cause, SUB, value and mask. -/
structure Trap where
  cause : Nat
  sub : Nat
  val : W64
  mask : BitVec 16
deriving DecidableEq, Repr

/-- A trap of cause `c` with value `v`. -/
def Trap.mk2 (c : Nat) (v : W64) : Trap := ⟨c, 0, v, 0⟩

/-- The code offset of an address (16 R409). -/
def State.codeOff (s : State) (gk : Nat) (a : W64) : W32 := (a - (s.launchG gk).cb).truncate 32

/-- What a trap saves (16 R411): TCAUSE, TEPC, TADDR, TMASK and TEXM. -/
def SysRegs.save (y : SysRegs) (t : Trap) (epc : W32) (exm : BitVec 16) : SysRegs :=
  { y with
    tcause := BitVec.ofNat 32 (t.sub * 256 + t.cause)
    tepc := epc
    taddr := t.val
    tmask := t.mask
    texm := exm }

/-- Trap entry into the handler (16 R411). -/
def Group.enter (g : Group) (t : Trap) (epc : W32) (tvec : W64) : Group :=
  { g with
    sys := { g.sys.save t epc g.r.exm with ss := false, hm := true }
    r := { g.r with exm := 0xFFFF, pc := canon57 tvec }
    y := { g.y with status := .ready, stepArmed := false, woken := false, arrived := false, monitor := none, sampled := [], undo := none } }

/-- What a waiting instruction has taken by reading its sources is given back (06 R135): queue entries to the heads of
their queues, EXM, CLKH and the replayed stream as they were. -/
def State.giveBack (s : State) (gk : Nat) : State :=
  match (s.grp gk).y.undo with
  | none => s
  | some (exm, h, x) =>
    let q := fun (n : BitVec 2) => ((s.grp gk).y.sampled.filter (fun p => p.1 == .q n)).map (fun p => p.2.headD 0)
    let s1 := s.modGrp gk (fun g =>
      { g with
        r := { g.r with exm := exm }
        sys := { g.sys with clkh := h }
        s0 := if g.y.qsel then g.s0 else x.getD g.s0
        s1 := if g.y.qsel then x.getD g.s1 else g.s1
        y := { g.y with q3 := q 3 ++ g.y.q3, sampled := [], undo := none } })
    s1.modTeam (teamOf gk) (fun t => { t with q2 := q 2 ++ t.q2 })

/-- The teams of a launch that hold or wait for a place. -/
def State.launchTeams (s : State) (lk : Nat) : List Nat :=
  (s.teams.filter (fun p => decide (p.2.launch = lk) &&
    (p.2.st == .resident || p.2.st == .boundary || p.2.st == .saved))).map (fun p => p.1)

/-- A team gives back its places: slots, segments, positions and queued tile instructions; its groups are gone. Its
accumulators stay under their tags (09 R235). -/
def State.freeTeam (s : State) (tk : Nat) : State :=
  let c := (s.team tk).core
  let keys := s.teamKeys tk
  let s1 := s.modCore c (fun co =>
    { co with
      slots := co.slots.filter (fun p => decide (p.2 ≠ tk + 1))
      segTeam := co.segTeam.filter (fun p => decide (p.2 ≠ tk + 1))
      queue := co.queue.filter (fun q => decide (q.team ≠ tk)) })
  let s2 := keys.foldl (fun st k => st.modQuad c (quadOf k) (fun q => q.drop k)) s1
  { s2 with groups := s2.groups.filter (fun p => decide (teamOf p.1 ≠ tk)) }

/-- The posted receives and the SENDs of a team are gone with it. -/
def State.dropPosted (s : State) (tk : Nat) : State :=
  s.modCtx (s.team tk).ctx (fun c =>
    { c with
      posted := c.posted.filter (fun (r : Recv) => decide (teamOf r.gk ≠ tk))
      sends := c.sends.filter (fun (x : SendCmd) => decide (teamOf x.gk ≠ tk)) })

/-- A team removed without a save (16 R414; 17 R435): its commands are cancelled and its places given back. -/
def State.removeTeam (s : State) (tk : Nat) : State :=
  ((s.cancelCopies tk).freeTeam tk).modTeam tk (fun t =>
    { t with st := .exited, q2 := [], maxr := [], images := [], savedTiles := [] })

/-- A team removed, with its posted receives and SENDs (log 113). -/
def State.killTeam (s : State) (tk : Nat) : State := (s.dropPosted tk).removeTeam tk

/-- A launch whose teams are gone: no further team is placed, and its node completes with a class and a DETAIL. -/
def State.closeLaunch (s : State) (lk cls detail : Nat) : State :=
  let l := s.launch lk
  let s2 := s.modLaunch lk (fun l => { l with dead := true, failed := some detail })
  if l.live && !l.dead then s2.modCtx l.ctx (fun c => { c with ended := c.ended ++ [(l.node, cls, detail, none)] }) else s2

/-- The control processor ends a launch (16 R414): its teams are removed without a save, and its node completes. -/
def State.endWith (s : State) (lk cls detail : Nat) : State :=
  ((s.launchTeams lk).foldl State.killTeam s).closeLaunch lk cls detail

/-- A step abort ends a launch (17 R435): receives and SENDs of its teams stay until the GENFENCE that ends them (12 R329). -/
def State.abortWith (s : State) (lk cls detail : Nat) : State :=
  ((s.launchTeams lk).foldl State.removeTeam s).closeLaunch lk cls detail

/-- A launch ended by a double trap (16 R414). -/
def State.endLaunch (s : State) (lk detail : Nat) : State := s.endWith lk 3 detail

/-- A launch is marked failed by a data error (16 R418). -/
def State.markFailed (s : State) (lk : Nat) : State :=
  s.modLaunch lk (fun l => { l with failed := l.failed.or (some 5) })

/-- Debug stop of a group (16 R420): the place to resume is saved as a trap saves it; with STOPTEAM the other groups of
the team stop too. -/
def State.debugStop (s : State) (gk : Nat) (t : Trap) (epc : W32) : State :=
  let s1 := s.modGrp gk (fun g =>
    { g with sys := g.sys.save t epc g.r.exm, y := { g.y with status := .debug, stepArmed := false } })
  let s2 := if (s.ctxG gk).dbg.getLsbD 1 then
      (s1.teamKeys (teamOf gk)).foldl (fun st k => st.modGrp k (fun g => match g.y.status with
        | .ready => { g with y := { g.y with status := .debug } }
        | .waiting _ => { g with y := { g.y with status := .debug } }
        | .asleep => { g with y := { g.y with status := .debug } }
        | _ => g)) s1
    else s1
  { s2 with hif := { s2.hif with dbg := s2.hif.dbg ++ [gk] } }

/-- A group takes a trap whose TEPC names `epc` (16 R411, R414, R418, R420); an instruction that had waited gives back what
it took (06 R135). -/
def State.trapGrp (s0 : State) (gk : Nat) (epc : W64) (t : Trap) : State :=
  let s := s0.giveBack gk
  let s1 := if t.cause = 0x18 then s.markFailed (s.teamG gk).launch else s
  if (t.cause = 0x1A || t.cause = 0x1B) && (s.ctxG gk).dbg.getLsbD 0 then s1.debugStop gk t (s.codeOff gk epc)
  else if (s.grp gk).sys.hm then
    s1.endLaunch (s.teamG gk).launch (0x100 + t.cause)
  else s1.modGrp gk (fun g => g.enter t (s.codeOff gk epc) (s.ctxG gk).tvec)

/-! The outcome of a group's instruction. -/

/-- What an instruction of a group ends in. -/
inductive Res where
  /-- retired; the next word follows -/
  | ok (s : State)
  /-- retired; the next word is at the address -/
  | jump (s : State) (pc : W64)
  /-- waits, and executes again -/
  | block (w : Wait) (s : State)
  /-- a trap; TEPC names the instruction -/
  | trap (t : Trap) (s : State)
  /-- a trap after retirement; TEPC names the next word (16 R410, causes 0x19 and 0x1B) -/
  | trapNext (t : Trap) (s : State)
  /-- stops in a state of its own: parked, exited -/
  | gone (s : State)

/-- A group has issued (15 R399): the clock is noted. In Invar mode the turn passes to the next position and the
quadrant counts an instruction (15 R403, R405), but for a sleeper whose waiting instruction retires (20 R451). -/
def State.turnDone (s0 : State) (gk : Nat) : State :=
  let c := s0.coreNoG gk
  let s := s0.modGrp gk (fun g => { g with y := { g.y with issuedAt := s0.clock } })
  if s.coreInvar c && decide ((s0.grp gk).y.status ≠ .asleep) then
    (s.modCore c (fun co => { co with turn := co.turn + 1 })).modQuad c (quadOf gk)
      (fun q => { q with issued := q.issued + 1 })
  else s

/-- The bookkeeping of a retirement: the pc moves on, the progress of the instruction is forgotten, and the count of
retired instructions rises (15 R406). -/
def Group.retire (g : Group) (pc : W64) : Group :=
  { g with
    r := { g.r with pc := pc }
    y := { g.y with
      status := .ready
      arrived := false
      woken := false
      ttag := none
      monitor := none
      tlbi := none
      accx := none
      unsent := if g.sys.hm then g.y.unsent else none
      unsentH := if g.sys.hm then none else g.y.unsentH
      fence := none
      sampled := []
      undo := none
      retired := g.y.retired + 1 } }

/-- An instruction of the current group retires without a step check. -/
def State.retireG (s : State) (pc : W64) : State := (s.turnDone s.cur).modG (fun g => g.retire pc)

/-- An instruction of the current group retires; the single-step trap follows if it is armed (16 R419). -/
def State.retire (s : State) (pc : W64) : State :=
  let s1 := s.retireG pc
  if s.g.y.stepArmed then s1.trapGrp s.cur pc ⟨0x1B, 0, 0, 0⟩ else s1

/-- The current group waits; in Invar mode the four waits of 15 R404 put it to sleep. -/
def State.wait (s : State) (w : Wait) : State :=
  if s.coreInvar s.cn && (w == .barrier || w == .cluster || w == .object || w == .monitor) then
    (s.turnDone s.cur).modY (fun y => { y with status := .asleep })
  else
    let s1 := s.modY (fun y => { y with status := .waiting w })
    if w.leaves then s1.leaveActive s.cur else s1

/-- The outcome of an instruction of `len` bytes. -/
def finish (len : Nat) (r : Res) : Host.Outcome State Fault Refusal :=
  .next (match r with
    | .ok s => s.retire (s.g.r.pc + BitVec.ofNat 64 len)
    | .jump s pc => s.retire pc
    | .block w s => s.wait w
    | .trap t s => (s.turnDone s.cur).trapGrp s.cur s.g.r.pc t
    | .trapNext t s => (s.retireG (s.g.r.pc + BitVec.ofNat 64 len)).trapGrp s.cur (s.g.r.pc + BitVec.ofNat 64 len) t
    | .gone s => s.turnDone s.cur)

/-- The state after ERET (16 R411), before the step of R419 is armed. -/
def Group.eret (g : Group) (cb : W64) : Group :=
  { g with
    r := { g.r with exm := g.sys.texm, pc := cb + g.sys.tepc.zeroExtend 64 }
    sys := { g.sys with hm := false }
    y := { g.y with stepArmed := g.sys.ss } }

/-! Long-latency writes (05 R111 to R114). -/

/-- A register marked empty. -/
def Regs.markDest (r : Regs) (d : Dest) : Regs :=
  match d with
  | .v n _ _ => r.markV n true
  | .g n _ => r.markG n true

/-- A register written by its producer and marked full. -/
def Regs.deliver (r : Regs) (d : Dest) : Regs :=
  match d with
  | .v n mask vals => (r.writeV n mask (fun t => vals.getD t 0)).markV n false
  | .g n v => (r.setG n v).markG n false

/-- A long-latency write begins: its register is marked empty and its path counts it. -/
def State.issuePend (s : State) (gk : Nat) (p : Pending) : State :=
  let s1 := s.modGrp gk (fun g =>
    { g with r := p.dests.foldl Regs.markDest g.r, y := { g.y with pend := g.y.pend ++ [p] } })
  match p.path with
  | some k => s1.incPath gk k 1
  | none => s1

/-- The register that a producer writes. -/
def Dest.reg : Dest → DReg
  | .v r _ _ => .v r
  | .g r _ => .g r

/-- What the first reader of any of some registers meets from now on (03 R71, 10 R267). -/
def GSync.flag (y : GSync) (ds : List Dest) (e : Option RegErr) : GSync :=
  match e with
  | some e => { y with errs := y.errs ++ [(ds.map Dest.reg, e)] }
  | none => y

/-- Registers of a group are written by their producer. -/
def State.deliverTo (s : State) (gk : Nat) (ds : List Dest) (e : Option RegErr) : State :=
  (s.modGrp gk (fun g => { g with r := ds.foldl Regs.deliver g.r, y := g.y.flag ds e })).poke gk

/-- The `i`th write on its way to a group lands. -/
def State.deliver (s : State) (gk i : Nat) : State :=
  match (s.grp gk).y.pend[i]? with
  | none => s
  | some p =>
    let s1 := s.modGrp gk (fun g => { g with y := { g.y with pend := g.y.pend.eraseIdx i } })
    let s2 := s1.deliverTo gk p.dests p.err
    match p.path with
    | some k => s2.decPath gk k
    | none => s2

/-- A status word is written into a uniform register of a group (05 R111). -/
def State.writeStatus (s : State) (gk n : Nat) (v : W32) (e : Option RegErr) : State := s.deliverTo gk [.g n v] e

/-- Every write on its way to a group lands (16 R422). -/
def State.deliverAll (s : State) (gk : Nat) : State :=
  (s.grp gk).y.pend.foldl (fun st _ => st.deliver gk 0) s

end Sys2Proof.Machine
end

