-- ==== Sys2Proof/Machine/Mem.lean ====
section
/-! DEFINITION. Tile memory and its side band (spec/04 R97 to R106), the die scratchpad and the segment caches
(04 R89 to R96), and the promotion of team releases (13 R344). -/

namespace Sys2Proof.Machine

/-! Tile memory. -/

/-- A place of a core's tile memory: a data byte or a side-band byte, by physical offset. -/
inductive TLoc where
  | data (core p : Nat)
  | side (core p : Nat)
deriving DecidableEq, Repr

/-- The place of `n` bytes at a space 0 address of a team (04 R97, R101): below the visible size, or in the side-band
window of segments below it. A segment that the visible size ends inside holds spill bytes and has no window (DEDUCED,
log 12). -/
def State.tileLoc (s : State) (tk a n : Nat) : Option TLoc :=
  let t := s.team tk
  let vis := (s.launch t.launch).visible
  if a + n ≤ vis then some (.data t.core (t.base * 4096 + a))
  else if 0x40000000 ≤ a ∧ a - 0x40000000 + n ≤ vis / 4096 * 256 then
    some (.side t.core (t.base * 256 + (a - 0x40000000)))
  else none

/-- The team of a rank in the cluster of a team (04 R106). A rank whose team has exited names no team (DESIGN CHOICE, log
134). -/
def State.rankTeam (s : State) (tk rank : Nat) : Option Nat :=
  let t := s.team tk
  let l := s.launch t.launch
  if l.cw * l.ch ≤ rank then none
  else ((s.teams.find? (fun p => decide (p.2.launch = t.launch) && decide (p.2.cluster = t.cluster) &&
    decide (p.2.rank = rank) && p.2.st != .none && p.2.st != .exited)).map (fun p => p.1))

/-- The place of `n` bytes at a space 1 address (04 R106). An address with a bit set outside rank, side-band bit and offset,
[29:25] or [31] and up, has no place (DESIGN CHOICE, log 134; 07 R156 then gives the local-range fault). -/
def State.clusterLoc (s : State) (tk a n : Nat) : Option TLoc :=
  if 2 ^ 31 ≤ a ∨ fieldOf a 25 5 ≠ 0 then none
  else match s.rankTeam tk (fieldOf a 21 4) with
    | none => none
    | some rk => s.tileLoc rk (fieldOf a 0 21 + (if fieldOf a 30 1 = 1 then 0x40000000 else 0)) n

/-- The place of `n` bytes at a local tile address. -/
def State.localLoc (s : State) (tk space a n : Nat) : Option TLoc :=
  if space = 0 then s.tileLoc tk a n else s.clusterLoc tk a n

/-- `n` bytes of tile memory. -/
def State.tread (s : State) (p : TLoc) (n : Nat) : List Byte :=
  match p with
  | .data c a => mread (s.core c).tile a n
  | .side c a => mread (s.core c).side a n

/-- Streams of the team whose staging contains a place lose their contents (10 R241). -/
def Stream.spoil (st : Stream) (base p n : Nat) : Stream :=
  if st.st != .closed && decide (p < base * 4096 + st.staging.toNat + 8192) &&
      decide (base * 4096 + st.staging.toNat < p + n) then { st with spoiled := true } else st

/-- Bytes stored into tile memory by a thread (04 R100, 10 R241): a store to data sets the stamps to 0. -/
def State.tstore (s : State) (p : TLoc) (bs : List Byte) : State :=
  match p with
  | .data c a =>
    let segs := (List.range ((a + bs.length - 1) / 4096 - a / 4096 + 1)).map (fun i => a / 4096 + i)
    let s1 := s.modCore c (fun co =>
      { co with
        tile := mwrite co.tile a bs
        mdw := segs.foldl (fun m g => tset 0 m g (mSetStamp (tget 0 m g) 0)) co.mdw })
    { s1 with groups := s1.groups.map (fun p =>
        if (s.teamG p.1).core = c ∧ (s.teamG p.1).here = true then
          (p.1, { p.2 with
            s0 := p.2.s0.spoil (s.teamG p.1).base a bs.length
            s1 := p.2.s1.spoil (s.teamG p.1).base a bs.length })
        else p) }
  | .side c a => s.modCore c (fun co => { co with side := mwrite co.side a bs })

/-- Bytes written into tile memory by an engine: tags and stamps follow 03 R62 and are handled by the engine. -/
def State.twrite (s : State) (p : TLoc) (bs : List Byte) : State :=
  match p with
  | .data c a => s.modCore c (fun co => { co with tile := mwrite co.tile a bs })
  | .side c a => s.modCore c (fun co => { co with side := mwrite co.side a bs })

/-- Swizzle (04 R104): the physical byte of logical byte `x` of a segment under mode `m`. -/
def swizzle (m x : Nat) : Nat :=
  let l := x / 256
  let c := x / 16 % 16
  let c2 := if m = 0 then c else c ^^^ (l % 2 ^ m)
  l * 256 + c2 * 16 + x % 16

/-- The physical place of a logical place under the stamp of its segment (04 R105). -/
def State.stamped (s : State) (p : TLoc) : TLoc :=
  match p with
  | .data c a => .data c (a / 4096 * 4096 + swizzle (mStamp ((s.core c).meta1 (a / 4096))) (a % 4096))
  | .side c a => .side c a

/-- Logical bytes of tile memory, each through its segment's stamp (04 R105); a byte of the side band is plain. -/
def State.treadL (s : State) (p : TLoc) : Nat → List Byte
  | 0 => []
  | n + 1 =>
    let q := match p with
      | .data c a => TLoc.data c (a + 1)
      | .side c a => TLoc.side c (a + 1)
    s.tread (s.stamped p) 1 ++ State.treadL s q n

/-! The die scratchpad (04 R89 to R96). -/

/-- Bytes of the scratchpad. -/
def spadBytes : Nat := 0x0A000000

/-- The region that holds a segment: the lowest-numbered enabled one (04 R90). -/
def Die.region (d : Die) (seg : Nat) : Option Nat :=
  (List.range 16).find? (fun i =>
    let r := (tget 0 d.sprgn i).toNat
    decide (fieldOf r 47 1 = 1) && decide (fieldOf r 0 16 ≤ seg) && decide (seg < fieldOf r 0 16 + fieldOf r 16 16))

/-- May an address space use a segment (04 R90)? -/
def State.spadOk (s : State) (d : Nat) (asid : BitVec 13) (a : Nat) : Bool :=
  match (s.die d).region (a / 4096) with
  | none => false
  | some i => decide (fieldOf (tget 0 (s.die d).sprgn i).toNat 32 13 = asid.toNat)

/-- Is the segment software-managed? -/
def Die.soft (d : Die) (seg : Nat) : Bool :=
  match d.region seg with
  | none => false
  | some i => decide (fieldOf (tget 0 d.sprgn i).toNat 46 1 = 1)

/-- Is the segment in checking mode (04 R90, R96)? -/
def Die.chk (d : Die) (seg : Nat) : Bool :=
  match d.region seg with
  | none => false
  | some i => decide (fieldOf (tget 0 d.sprgn i).toNat 46 1 = 1) && decide (fieldOf (tget 0 d.sprgn i).toNat 45 1 = 1)

/-- The value of an atomic operation (07 R163). -/
def aop (op : AOp) (old v c : W32) : W32 :=
  match op with
  | .add => old + v
  | .min => if old.sle v then old else v
  | .max => if old.sle v then v else old
  | .umin => if old.ule v then old else v
  | .umax => if old.ule v then v else old
  | .and => old &&& v
  | .or => old ||| v
  | .xor => old ^^^ v
  | .fadd => BitVec.ofNat 32 (fAdd fp32 .rne 0 old.toNat v.toNat).bits
  | .fmin => BitVec.ofNat 32 (fMin fp32 old.toNat v.toNat)
  | .fmax => BitVec.ofNat 32 (fMax fp32 old.toNat v.toNat)
  | .b2add => BitVec.ofNat 32 ((fAdd bf16 .rne 0 (old.toNat % 65536) (v.toNat % 65536)).bits +
      65536 * (fAdd bf16 .rne 0 (old.toNat / 65536) (v.toNat / 65536)).bits)
  | .xchg => v
  | .cas => if old = c then v else old

/-- The identity of a reduction (04 R93, 08 R197); B2ADD's is the pair of −0.0 (DEDUCED, log 13). FADD's is +0.0 as
04 R93 gives it. -/
def aopId (op : AOp) : W32 :=
  match op with
  | .min => 0x7FFFFFFF
  | .max => 0x80000000
  | .umin => 0xFFFFFFFF
  | .and => 0xFFFFFFFF
  | .fmin => 0x7F800000
  | .fmax => 0xFF800000
  | .b2add => 0x80008000
  | _ => 0

/-- A partial put behind those of cores up to its own. -/
def insByCore (p : Nat × Nat × W32) : List (Nat × Nat × W32) → List (Nat × Nat × W32)
  | [] => [p]
  | q :: l => if p.1 < q.1 then p :: q :: l else q :: insByCore p l

/-- Partials in ascending core number. -/
def byCore (l : List (Nat × Nat × W32)) : List (Nat × Nat × W32) := l.foldl (fun a p => insByCore p a) []

/-- The partials of a segment combined into its home in ascending core number (04 R93); the entry returns to I. -/
def Die.combine (d : Die) (seg : Nat) : Die :=
  match tget DirSt.i d.dir seg with
  | .u op =>
    let ps := byCore (tget [] d.parts seg)
    { d with
      spad := ps.foldl (fun m p => mput m (seg * 4096 + p.2.1) 4
        (aop op (BitVec.ofNat 32 (mnum m (seg * 4096 + p.2.1) 4)) p.2.2 0).toNat) d.spad
      dir := tset DirSt.i d.dir seg .i
      parts := tset [] d.parts seg [] }
  | _ => d

/-- The dirty bytes of a software-managed copy written back with byte enables (04 R95), and the pending bits of the
lines that name this core cleared (R96). `ok` picks the bytes written back. -/
def Die.writeBack (d : Die) (core : Nat) (c : SegCopy) (ok : Nat → Bool) : Die :=
  let bs := c.dirty.filter ok
  { d with
    spad := bs.foldl (fun m a => mset m a (mget c.bytes a)) d.spad
    writers := bs.foldl (fun w a =>
      let l := tget (0, false) w (a / 128)
      if l.1 = core + 1 then tset (0, false) w (a / 128) (core + 1, false) else w) d.writers }

/-- A U episode of a segment ends (04 R93): the partials are combined at the home, and no core holds one any more. -/
def State.combineSeg (s : State) (d seg : Nat) : State :=
  let cs := (tget [] (s.die d).parts seg).map (fun p => p.1)
  (cs.foldl (fun st c => st.modCore c (fun co =>
    { co with segs := co.segs.filter (fun x => x.soft || decide (x.seg ≠ seg)) })) s).modDie d (fun x => x.combine seg)

/-- A segment leaves a core's cache (04 R91 to R93, R95). -/
def State.evictSeg (s : State) (core : Nat) (c : SegCopy) : State :=
  let d := dieOf core
  let s1 := s.modCore core (fun co => { co with segs := co.segs.filter (fun x => decide (x.seg ≠ c.seg)) })
  if c.soft then s1.modDie d (fun x => x.writeBack core c (fun _ => true))
  else match tget DirSt.i (s1.die d).dir c.seg with
    | .o p => if p = core then s1.modDie d (fun x => { x with dir := tset DirSt.i x.dir c.seg .i }) else s1
    | .s cs =>
      s1.modDie d (fun x => { x with dir := tset DirSt.i x.dir c.seg (if (cs.erase core).isEmpty then .i else .s (cs.erase core)) })
    | .u _ => if (tget [] (s1.die d).parts c.seg).any (fun p => decide (p.1 = core)) then s1.combineSeg d c.seg else s1
    | .i => s1

/-- A segment not held becomes the most recently used of a core's cache; a full cache evicts its least recently used. -/
def State.fillSeg (s : State) (core seg : Nat) (soft : Bool) : State :=
  let s1 := if 128 ≤ (s.core core).segs.length then
      match (s.core core).segs.getLast? with
      | some v => s.evictSeg core v
      | none => s
    else s
  let bytes := if soft then mslice (s1.die (dieOf core)).spad (seg * 4096) 4096 (seg * 4096) else []
  s1.modCore core (fun co => { co with segs := ⟨seg, soft, bytes, [], []⟩ :: co.segs })

/-- A segment becomes the most recently used of a core's cache. A copy kept under the other kind, from before a write of
its region register, leaves first (DEDUCED, log 96). -/
def State.useSeg (s : State) (core seg : Nat) (soft : Bool) : State :=
  match (s.core core).segs.find? (fun x => decide (x.seg = seg)) with
  | some c =>
    if c.soft = soft then s.modCore core (fun co => { co with segs := c :: co.segs.filter (fun x => decide (x.seg ≠ seg)) })
    else (s.evictSeg core c).fillSeg core seg soft
  | none => s.fillSeg core seg soft

/-- The copies of other cores are dropped from their caches. -/
def State.dropOthers (s : State) (seg : Nat) (keep : List Nat) (cores : List Nat) : State :=
  (cores.filter (fun c => !keep.contains c)).foldl (fun st c =>
    st.modCore c (fun co => { co with segs := co.segs.filter (fun x => decide (x.seg ≠ seg)) })) s

/-- The cores that hold a segment. -/
def dirCores : DirSt → List Nat
  | .s cs => cs
  | .o p => [p]
  | _ => []

/-- A read request of a coherent segment at its home (04 R92). -/
def State.dirRead (s : State) (core seg : Nat) : State :=
  let s1 := s.combineSeg (dieOf core) seg
  let st := tget DirSt.i (s1.die (dieOf core)).dir seg
  let new := match st with
    | .s cs => DirSt.s (if cs.contains core then cs else cs ++ [core])
    | .o p => if p = core then .o p else .s [p, core]
    | _ => .s [core]
  (s1.modDie (dieOf core) (fun d => { d with dir := tset DirSt.i d.dir seg new })).useSeg core seg false

/-- A write or atomic request of a coherent segment at its home (04 R92). -/
def State.dirWrite (s : State) (core seg : Nat) : State :=
  let s1 := s.combineSeg (dieOf core) seg
  let st := tget DirSt.i (s1.die (dieOf core)).dir seg
  let s2 := s1.dropOthers seg [core] (dirCores st)
  (s2.modDie (dieOf core) (fun d => { d with dir := tset DirSt.i d.dir seg (.o core) })).useSeg core seg false

/-- A partial of a RED (04 R93): the operation applied to the core's partial of the word. -/
def addPart (ps : List (Nat × Nat × W32)) (core off : Nat) (op : AOp) (v : W32) : List (Nat × Nat × W32) :=
  match ps.find? (fun p => decide (p.1 = core) && decide (p.2.1 = off)) with
  | some p => ps.map (fun q => if q = p then (core, off, aop op p.2.2 v 0) else q)
  | none => ps ++ [(core, off, aop op (aopId op) v 0)]

/-- A RED of one word of a coherent segment (04 R93): update-only in I or U, otherwise as an atomic (R92). -/
def State.dirRed (s : State) (core a : Nat) (op : AOp) (v : W32) : State :=
  let d := dieOf core
  let seg := a / 4096
  let s0 := match tget DirSt.i (s.die d).dir seg with
    | .u o => if o = op then s else s.combineSeg d seg
    | _ => s
  match tget DirSt.i (s0.die d).dir seg with
  | .s _ | .o _ =>
    let s1 := s0.dirWrite core seg
    s1.modDie d (fun x => { x with spad := mput x.spad a 4 (aop op (BitVec.ofNat 32 (mnum x.spad a 4)) v 0).toNat })
  | _ =>
    (s0.modDie d (fun x =>
      { x with
        dir := tset DirSt.i x.dir seg (.u op)
        parts := tset [] x.parts seg (addPart (tget [] x.parts seg) core (a % 4096) op v) })).useSeg core seg false

/-- A copy with its dropped lines of a range fetched from the home again. -/
def SegCopy.refill (c : SegCopy) (home : Memory) (a n : Nat) : SegCopy :=
  let ls := c.gone.filter (fun l => decide (a / 128 ≤ l) && decide (l ≤ (a + n - 1) / 128))
  { c with
    bytes := ls.foldl (fun m l => mcopy m (mslice home (l * 128) 128 (l * 128)) (l * 128) 128 (l * 128)) c.bytes
    gone := c.gone.filter (fun l => !ls.contains l) }

/-- A core's copy of a software-managed segment, most recently used, with every line of a range present (04 R95): a read is
served from the copy where it is present. -/
def State.softSeg (s : State) (core a n : Nat) : State :=
  let s1 := s.useSeg core (a / 4096) true
  let home := (s1.die (dieOf core)).spad
  s1.modCore core (fun co => { co with segs := co.segs.map (fun x => if x.seg = a / 4096 then x.refill home a n else x) })

/-- A thread or engine read of the scratchpad by a core (04 R91 to R95): the bytes, and the state with the caches and
the directory moved on. -/
def State.spadRead (s : State) (core a n : Nat) : List Byte × State :=
  let seg := a / 4096
  if (s.die (dieOf core)).soft seg then
    let s1 := s.softSeg core a n
    match (s1.core core).segs.find? (fun x => decide (x.seg = seg)) with
    | some c => (mread c.bytes a n, s1)
    | none => ([], s1)
  else
    let s1 := s.dirRead core seg
    (mread (s1.die (dieOf core)).spad a n, s1)

/-- The writer identifiers of a first write since the last write-back (04 R96). -/
def Die.noteWriter (d : Die) (core a : Nat) (first : Bool) : Die :=
  if d.chk (a / 4096) && first then { d with writers := tset (0, false) d.writers (a / 128) (core + 1, true) } else d

/-- A copy with bytes written and marked dirty. -/
def SegCopy.put (c : SegCopy) : Nat → List Byte → SegCopy
  | _, [] => c
  | a, b :: bs =>
    SegCopy.put { c with bytes := mset c.bytes a b, dirty := if c.dirty.contains a then c.dirty else c.dirty ++ [a] }
      (a + 1) bs

/-- A plain thread store to the scratchpad by a core (04 R92, R95, R96). -/
def State.spadWrite (s : State) (core a : Nat) (bs : List Byte) : State :=
  let seg := a / 4096
  if (s.die (dieOf core)).soft seg then
    let s1 := s.softSeg core a bs.length
    let first := match (s1.core core).segs.find? (fun x => decide (x.seg = seg)) with
      | some c => !c.dirty.any (fun x => decide (x / 128 = a / 128))
      | none => true
    (s1.modCore core (fun co =>
      { co with segs := co.segs.map (fun x => if x.seg = seg then x.put a bs else x) })).modDie (dieOf core)
        (fun d => d.noteWriter core a first)
  else
    let s1 := s.dirWrite core seg
    s1.modDie (dieOf core) (fun d => { d with spad := mwrite d.spad a bs })

/-- A strong access of a software-managed line (07 R165, 13 R345): this core's dirty bytes of the 128-byte line are
written back and its copy of the line is dropped, so that the access is performed at the home slice and a later plain
read fetches the line again. The copy's other lines stay. -/
def State.dropLine (s : State) (core a : Nat) : State :=
  match (s.core core).segs.find? (fun x => decide (x.seg = a / 4096) && x.soft) with
  | none => s
  | some c =>
    (s.modDie (dieOf core) (fun d => d.writeBack core c (fun x => decide (x / 128 = a / 128)))).modCore core (fun co =>
      { co with segs := co.segs.map (fun x =>
        if x.seg = a / 4096 then
          { x with
            dirty := x.dirty.filter (fun y => decide (y / 128 ≠ a / 128))
            gone := if x.gone.contains (a / 128) then x.gone else a / 128 :: x.gone }
        else x) })

/-- A strong read of the scratchpad (13 R345). -/
def State.spadReadS (s : State) (core a n : Nat) : List Byte × State :=
  if (s.die (dieOf core)).soft (a / 4096) then
    let s1 := s.dropLine core a
    (mread (s1.die (dieOf core)).spad a n, s1)
  else s.spadRead core a n

/-- A strong write of the scratchpad (13 R345). -/
def State.spadWriteS (s : State) (core a : Nat) (bs : List Byte) : State :=
  if (s.die (dieOf core)).soft (a / 4096) then
    (s.dropLine core a).modDie (dieOf core) (fun d => { d with spad := mwrite d.spad a bs })
  else s.spadWrite core a bs

/-- The pending bit of each line of a range is cleared where it names a core that has no dirty byte of it left (04 R96). -/
def Die.settled (d : Die) (core : Nat) (dirty : List Nat) (a n : Nat) : Die :=
  let clear := fun (w : Tbl (Nat × Bool)) (l : Nat) =>
    if (tget (0, false) w l).1 = core + 1 ∧ dirty.any (fun y => decide (y / 128 = l)) = false then
      tset (0, false) w l (core + 1, false)
    else w
  { d with writers := ((List.range ((a + n - 1) / 128 - a / 128 + 1)).map (fun i => a / 128 + i)).foldl clear d.writers }

/-- Bytes that an engine writes into a software-managed segment (04 R91): into the home, and clean into a core's copy when
one is held. -/
def State.softPut (s : State) (core a : Nat) (bs : List Byte) : State :=
  let s1 := (s.modDie (dieOf core) (fun d => { d with spad := mwrite d.spad a bs })).modCore core (fun co =>
    { co with segs := co.segs.map (fun x =>
        if x.seg = a / 4096 ∧ x.soft = true then
          { x with
            bytes := mwrite x.bytes a bs
            dirty := x.dirty.filter (fun y => !(decide (a ≤ y) && decide (y < a + bs.length))) }
        else x) })
  match (s1.core core).segs.find? (fun x => decide (x.seg = a / 4096) && x.soft) with
  | some c => s1.modDie (dieOf core) (fun d => d.settled core c.dirty a bs.length)
  | none => s1

/-- A core's copy engine writes the scratchpad (04 R91). -/
def State.spadEngine (s : State) (core a : Nat) (bs : List Byte) : State :=
  if (s.die (dieOf core)).soft (a / 4096) then s.softPut core a bs else s.spadWrite core a bs

/-- `n` bytes of a software-managed segment as an engine outside the cores finds them for a group of `core` (13 R347): the
home's, under the group's own bytes that its core has not written back. -/
def State.softGet (s : State) (d : Nat) (core : Option Nat) (a n : Nat) : List Byte :=
  let home := (s.die d).spad
  match core.bind (fun c => (s.core c).segs.find? (fun x => decide (x.seg = a / 4096) && x.soft && decide (dieOf c = d))) with
  | some c => (List.range n).map (fun i => if c.dirty.contains (a + i) then mget c.bytes (a + i) else mget home (a + i))
  | none => mread home a n

/-- An access by an engine outside the cores to die `d`'s scratchpad, served at the home slice (03 R47, 15 R387): a
coherent segment comes back from its holders first. -/
def State.homeRecall (s : State) (d seg : Nat) : State :=
  let s1 := s.combineSeg d seg
  let st := tget DirSt.i (s1.die d).dir seg
  if (s1.die d).soft seg then s1
  else (s1.dropOthers seg [] (dirCores st)).modDie d (fun x => { x with dir := tset DirSt.i x.dir seg .i })

/-- Every dirty byte of a core's software-managed copies in regions of an address space is written back; with `drop`
the copies are dropped too (07 R172). -/
def State.flushSpad (s : State) (core : Nat) (asid : BitVec 13) (drop : Bool) : State :=
  let mine := (s.core core).segs.filter (fun c => c.soft && s.spadOk (dieOf core) asid (c.seg * 4096))
  let s1 := mine.foldl (fun st c => st.modDie (dieOf core) (fun d => d.writeBack core c (fun _ => true))) s
  s1.modCore core (fun co => { co with
    segs := if drop then co.segs.filter (fun c => !mine.contains c)
    else co.segs.map (fun c => if mine.contains c then { c with dirty := [] } else c) })

/-! Remote-scope promotion (13 R344). -/

/-- The place of the word of an address of spaces 0 to 2, from the current group: 0 tile memory, 1 side band, 2 die
scratchpad; its core or die; its offset. -/
def State.relAt (s : State) (sp a : Nat) : Nat × Nat × Nat :=
  match (if sp = 2 then none else s.localLoc (teamOf s.cur) sp a 1) with
  | some (.data c q) => (0, c, q / 4 * 4)
  | some (.side c q) => (1, c, q / 4 * 4)
  | none => (2, dieOf s.cn, a / 4 * 4)

/-- The word at a place. -/
def State.relVal (s : State) (at1 : Nat × Nat × Nat) : W32 :=
  BitVec.ofNat 32 (match at1.1 with
    | 0 => mnum (s.core at1.2.1).tile at1.2.2 4
    | 1 => mnum (s.core at1.2.1).side at1.2.2 4
    | _ => mnum (s.die at1.2.1).spad at1.2.2 4)

/-- A thread's write of a word of spaces 0 to 2: a release at TEAM scope, or a write that follows a release fence at that
scope (13 R338), is noted with the value that it leaves (none where the word is still to be combined, 04 R93). Any other
write takes the notes away, but for a read-modify-write, through which earlier releases are still read. -/
def State.noteRel (s : State) (sp a : Nat) (rel rmw : Bool) : State :=
  let at1 := s.relAt sp a
  let v := match (if sp = 2 then tget DirSt.i (s.die (dieOf s.cn)).dir (a / 4096) else .i) with
    | .u _ => none
    | _ => some (s.relVal at1)
  let l := if rmw then s.rels.map (fun r => if r.1 = at1 then (at1, v, r.2.2) else r)
    else s.rels.filter (fun r => decide (r.1 ≠ at1))
  let e := (at1, v, s.cn, s.x.asid)
  { s with rels := if rel || s.g.y.relFence then e :: l.filter (fun r => decide (r ≠ e)) else l }

/-- An RTEAM acquire that has read a word (13 R344): where it reads the write of a release at TEAM scope, the dirty
software-managed bytes of the releasing team's core are written back before it returns, as a flush release writes them
back. Other releases need no promotion. -/
def State.promote (s : State) (sp a : Nat) : State :=
  let at1 := s.relAt sp a
  (s.rels.filter (fun r => decide (r.1 = at1) && decide (r.2.1.getD (s.relVal at1) = s.relVal at1))).foldl
    (fun st r => st.flushSpad r.2.2.1 r.2.2.2 false) s

end Sys2Proof.Machine
end

