-- ==== Sys2Proof/Machine/Formats.lean ====
section
/-! DEFINITION. Block formats: scales, narrowing and widening of 32-element blocks (spec/05 R127, R128; 03 R57, R58;
08 R205 to R208), and the per-tensor formats of FMT codes (05 R121). -/

namespace Sys2Proof.Machine

/-- An element of a block: a floating-point format, or INT8 standing for k × 2^-6. -/
inductive Elem where
  | flt (f : FFmt)
  | int8
deriving DecidableEq, Repr

/-- The element of a block FMT code (05 R121, R127). -/
def blockElem (fmt : Nat) : Elem :=
  match fmt with
  | 0x10 => .flt e4m3 | 0x11 => .flt e5m2 | 0x12 => .flt e3m2 | 0x13 => .flt e2m3 | 0x14 => .flt e2m1
  | 0x15 => .int8 | 0x18 => .flt e4m3 | 0x19 => .flt e2m3 | _ => .flt e2m1

/-- The FMT code of a format index (08 R205). -/
def fiFmt (fi : Nat) : Option Nat :=
  match fi with
  | 0 => some 0x10 | 1 => some 0x11 | 2 => some 0x12 | 3 => some 0x13 | 4 => some 0x14 | 5 => some 0x15
  | 8 => some 0x18 | 9 => some 0x19 | 10 => some 0x1A | _ => none

/-- The width of a block element. -/
def Elem.width : Elem → Nat
  | .flt f => f.width
  | .int8 => 8

/-- emax of an MX element (03 R57). -/
def mxEmax (fmt : Nat) : Int := match fmt with | 0x10 => 8 | 0x11 => 15 | 0x12 => 4 | 0x13 => 2 | 0x14 => 2 | _ => 0

/-- The divisor m of a KX scale, as a rational (03 R57). -/
def kxDiv (fmt : Nat) : Nat × Nat := match fmt with | 0x18 => (448, 1) | 0x19 => (15, 2) | _ => (6, 1)

/-- The value of a UE8M2 code (05 R128): E in [9:2], M in [1:0]. -/
def ue8m2 (c : Nat) : Nat × Nat :=
  let e := c / 4 % 256
  let m := c % 4
  if e = 0 then (m, 2 ^ 128) else
    let q := pow2Q ((e : Int) - 129)
    ((4 + m) * q.1, q.2)

/-- Is a scale code the NaN code? -/
def scaleNaN (fmt c : Nat) : Bool := if isKX fmt then c == 0x3FF else c == 0xFF
/-- Is a scale code the ZERO-block code? -/
def scaleZero (fmt c : Nat) : Bool := isKX fmt && c == 0

/-- The value of a finite scale code. -/
def scaleVal (fmt c : Nat) : Nat × Nat := if isKX fmt then ue8m2 c else pow2Q ((c : Int) - 127)

/-- The larger of two magnitudes given as rationals. -/
def maxQ (a b : Nat × Nat) : Nat × Nat := if a.1 * b.2 ≤ b.1 * a.2 then b else a

/-- The magnitude of a finite value. -/
def FVal.mag : FVal → Nat × Nat
  | .fin _ n d => (n, d)
  | _ => (0, 1)

/-- The largest magnitude of finite values. -/
def maxMag (l : List FVal) : Nat × Nat := l.foldl (fun a v => maxQ a v.mag) (0, 1)

/-- The MX scale code of a largest magnitude (03 R57): floor log2 less emax, clamped to the finite codes. -/
def mxCode (fmt : Nat) (a : Nat × Nat) : Nat :=
  let e := floorLog2 a.1 a.2 - mxEmax fmt + 127
  if e < 0 then 0 else if 254 < e then 254 else e.toNat

/-- The smallest UE8M2 code whose value is at least a/m (03 R57), clamped to the finite codes. -/
def kxCode (fmt : Nat) (a : Nat × Nat) : Nat :=
  let m := kxDiv fmt
  let n := a.1 * m.2
  let d := a.2 * m.1
  let k := floorLog2 n d
  let c : Nat :=
    if k < -126 then (n * 2 ^ 128 + d - 1) / d
    else
      let q := pow2Q k
      -- 4·(t/2^k − 1), rounded up
      4 * (k + 127).toNat + ((4 * n * q.2 + d * q.1 - 1) / (d * q.1) - 4)
  if c < 1 then 1 else if 0x3FE < c then 0x3FE else c

/-- The scale of a block (03 R57). -/
def blockScale (fmt : Nat) (l : List FVal) : Nat :=
  if l.any (fun v => !v.isFin) then (if isKX fmt then 0x3FF else 0xFF)
  else
    let a := maxMag l
    if a.1 = 0 then 0 else if isKX fmt then kxCode fmt a else mxCode fmt a

/-- A value divided by a positive rational. -/
def FVal.divQ (v : FVal) (s : Nat × Nat) : FVal :=
  match v with
  | .fin neg n d => .fin neg (n * s.2) (d * s.1)
  | v => v

/-- A value multiplied by a rational. -/
def FVal.mulQ (v : FVal) (s : Nat × Nat) : FVal :=
  match v with
  | .fin neg n d => .fin neg (n * s.1) (d * s.2)
  | v => v

/-- An element narrowed (03 R57, R58): saturated to ± the element maximum; NaN in a format without NaN gives 0 and NV. -/
def narrowElem (e : Elem) (mode : RMode) (rnd : Nat) (v : FVal) : FRes :=
  match e with
  | .flt f => narrow f mode rnd v
  | .int8 =>
    match v with
    | .nan => ⟨0, fNV⟩
    | .inf neg => ⟨if neg then 256 - 127 else 127, fOF⟩
    | .fin neg n d =>
      let k := (toIntMag mode rnd neg (n * 64) d).1
      let m := if 127 < k then 127 else k
      ⟨if neg && decide (m ≠ 0) then 256 - m else m, if 127 < k then fOF else 0⟩

/-- The value of an element. -/
def widenElem (e : Elem) (c : Nat) : FVal :=
  match e with
  | .flt f => unpack f c
  | .int8 => if c < 128 then .fin false c 64 else .fin true (256 - c) 64

/-- An element of a block narrowed under a scale code: NaN and ZERO scales give +0 (08 R207, 03 R57). In an MX block of zeros,
whose scale is 0x00, a zero element keeps its sign (DESIGN CHOICE, log 98): the manual only says zero. -/
def narrowIn (fmt c : Nat) (mode : RMode) (rnd : Nat) (v : FVal) : FRes :=
  if scaleNaN fmt c || scaleZero fmt c then ⟨0, 0⟩
  else narrowElem (blockElem fmt) mode rnd (v.divQ (scaleVal fmt c))

/-- The value element × scale (03 R58): a NaN scale gives NaN, a ZERO block +0. -/
def widenIn (fmt c elem : Nat) : FVal :=
  if scaleNaN fmt c then .nan
  else if scaleZero fmt c then .fin false 0 1
  else (widenElem (blockElem fmt) elem).mulQ (scaleVal fmt c)

/-- The floating-point format of a plain FMT code (05 R121); none for raw, integer and block codes. -/
def fltOf (fmt : Nat) : Option FFmt :=
  match fmt with
  | 0x08 => some fp32 | 0x09 => some fp16 | 0x0A => some bf16 | 0x0B => some e4m3 | 0x0C => some e5m2
  | 0x0D => some e3m2 | 0x0E => some e2m3 | 0x0F => some e2m1 | _ => none

/-- RM codes 0 to 4 (03 R48). -/
def rmOf (m : Nat) : RMode := match m with | 0 => .rne | 1 => .rtz | 2 => .rdn | 3 => .rup | 4 => .sr | _ => .cur

/-- A UE8M2 field written into its 32-bit word (03 R55): the other fields keep their values. -/
def putKx (w i c : Nat) : Nat := w - fieldOf w (10 * i) 10 * 2 ^ (10 * i) + c % 1024 * 2 ^ (10 * i)

end Sys2Proof.Machine
end

