-- ==== Sys2Proof/Machine/Ports.lean ====
section
/-! DEFINITION. The transport's packets, ports and routes, and the engines' packets to pool nodes (spec/11 R272 to R279). -/

namespace Sys2Proof.Machine

/-- The link die's transport changed. -/
def State.modFab (s : State) (f : Fabric → Fabric) : State := { s with link := { s.link with fab := f s.link.fab } }

/-! Destinations. -/

/-- The destination number of HBM of this module: no packet leaves. -/
def dstLocal : Nat := 0x10000
/-- The destination number of a PUT to pool memory, whose words have destinations of their own (R283). -/
def dstWords : Nat := 0x10001
/-- The destination number of a pool node (R273). -/
def dstPool (n : Nat) : Nat := 0x8000 + n
/-- Is a destination a pool node? -/
def toPool (dst : Nat) : Bool := decide (0x8000 ≤ dst ∧ dst < 0x10000)

/-! Packets (R272, R273). -/

/-- Flits of a packet with a payload (R272). -/
def flitsOf (len : Nat) : Nat := if len ≤ 192 then 1 else 1 + (len - 192 + 255) / 256

/-- The largest payload of a packet (R272). -/
def payloadCap : Nat := 8192

/-- Payload bytes of an item (R272, R273; 12 R309). -/
def Item.len : Item → Nat
  | .put t => (t.words.map (fun w => w.bytes.length)).sum
  | .atom _ => 4
  | .racc es => (es.map (fun e => if e.bf16 then 2 else 4)).sum
  | .write _ bs => bs.length
  | .coll m => m.len
  | .msg _ bs => bs.length
  | .pdata _ _ bs => bs.length
  | .rdata v => 4 * v.length
  | _ => 0

/-- TYPE of an item's packet, towards a pool node or a module (R273; 12 R309). -/
def Item.type (pool : Bool) : Item → Nat
  | .put _ => if pool then 0x05 else 0x01
  | .atom _ => if pool then 0x06 else 0x02
  | .racc _ => 0x03
  | .read _ _ => 0x04
  | .write _ _ => 0x05
  | .coll _ => 0x20
  | .msg _ _ => 0x30
  | .rts _ => 0x31
  | .pull _ _ _ => 0x32
  | .pdata _ _ _ => 0x33
  | .ack => 0x10
  | .nack _ => 0x11
  | .rdata _ => 0x12

/-- ADDR that an item asks for (R273). -/
def Item.addr : Item → W64
  | .put t => ((t.words.head?).map (fun w => w.addr)).getD 0
  | .atom t => t.addr
  | .racc es => ((es.head?).map (fun e => e.addr)).getD 0
  | .read a _ => a
  | .write a _ => a
  | _ => 0

/-- FADDR that an item asks for: a PUT's flag (R273). -/
def Item.faddr : Item → W64
  | .put t => t.flag.getD 0
  | _ => 0

/-- TYPE. -/
def Packet.type (p : Packet) : Nat := ((p.items.head?).map (Item.type (toPool p.dst))).getD 0x10
/-- LEN. -/
def Packet.len (p : Packet) : Nat := (p.items.map Item.len).sum
/-- ADDR and FADDR are those of the first transfer. -/
def Packet.addr (p : Packet) : W64 := ((p.items.head?).map Item.addr).getD 0
/-- FADDR. -/
def Packet.faddr (p : Packet) : W64 := ((p.items.head?).map Item.faddr).getD 0
/-- Flits of a packet. -/
def Packet.flits (p : Packet) : Nat := flitsOf p.len

/-! Ports and routes (R276, R277). -/

/-- Flits of a packet that are still to be acknowledged. -/
def Sent.flits (q : Sent) : Nat := q.pk.flits - q.acked

/-- Flits queued on a port. -/
def Port.queued (p : Port) : Nat := (p.buf.map Sent.flits).sum

/-- A packet in a port's buffer, its flits numbered on from the port's last one. -/
def Port.put (p : Port) (k : Packet) : Port := { p with buf := p.buf ++ [⟨k, p.next, 0⟩], next := p.next + k.flits }

/-- A port of the transport. -/
def Fabric.port (f : Fabric) (p : Nat) : Port := tget Port.reset f.ports p

/-- A port of the transport changed. -/
def Fabric.modPort (f : Fabric) (p : Nat) (g : Port → Port) : Fabric :=
  { f with ports := tset Port.reset f.ports p (g (f.port p)) }

/-- The live ports that reach a destination (R276). -/
def Fabric.route (f : Fabric) (dst : Nat) : List Nat :=
  (List.range 18).filter (fun p => (tget 0x3FFFF f.routes dst).getLsbD p && !(f.port p).dead)

/-- The port of R276: the fewest queued flits, then the lowest number. -/
def Fabric.choose (f : Fabric) (dst : Nat) : Option Nat :=
  match f.route dst with
  | [] => none
  | p :: ps => some (ps.foldl (fun b q => if (f.port q).queued < (f.port b).queued then q else b) p)

/-- A packet to this module's own slot is on its way, and will come back (R276). -/
def Fabric.noteLoop (f : Fabric) (k : Packet) : Fabric := if k.dst = k.src then { f with loop := f.loop ++ [k] } else f

/-- A packet put into a port's retransmission buffer; nothing where no live port leads there. -/
def Fabric.send (f : Fabric) (k : Packet) : Fabric :=
  match f.choose k.dst with
  | none => f
  | some p => (f.modPort p (fun q => q.put k)).noteLoop k

/-- The next SEQ towards a destination, taken. -/
def Fabric.takeSeq (f : Fabric) (dst : Nat) : Nat × Fabric :=
  let n := tget 0 f.seqs dst
  (n, { f with seqs := tset 0 f.seqs dst ((n + 1) % 2 ^ 32) })

/-- A request packet: GEN, SRC and SEQ as they stand when it leaves. -/
def State.request (s : State) (job : BitVec 16) (dst seq : Nat) (ids : List Nat) (items : List Item) : Packet :=
  ⟨s.link.mem.gen, job, dst, s.link.mem.slot, false, seq, ids, items⟩

/-! Rates (R278), in units of the port rate / 2^20. -/

/-- The port rate. -/
def portRate : Nat := 2 ^ 20

/-- A congestion echo: r := r − r/8, not below port rate / 256. -/
def Fabric.slow (f : Fabric) (dst : Nat) (ece : Bool) : Fabric :=
  let r := tget portRate f.rates dst
  if ece then { f with rates := tset portRate f.rates dst (max (r - r / 8) (portRate / 256)) } else f

/-- The congestion echo of a pool node's answer to a packet of the fabric engine, which is the next of the answers to come
(R278). -/
def State.echo (s : State) (dst : Nat) : State :=
  match s.answers with
  | [] => s
  | a :: l => { s.modFab (fun f => f.slow dst a.2) with answers := l }

/-! Peers. -/

/-- The rank of a pod slot in a rank table (17 R425). -/
def RankTab.rankOf (t : RankTab) (slot : Nat) : Option Nat := t.slots.idxOf? slot

/-- This module's rank in the table in force (17 R425): none while it holds no rank. -/
def Member.rank (m : Member) : Option Nat := m.cur.bind (fun t => t.rankOf m.slot)

/-- How a transfer towards a peer stands (11 R276; 17 R432, R433). -/
inductive PeerSt where
  | go (slot : Nat)
  /-- the traffic is held -/
  | held
  | fail (code : Nat)
deriving DecidableEq, Repr

/-- Does the module hold its module traffic (17 R433): more than 440,000 clocks since a good self-check? -/
def State.holding (s : State) : Bool :=
  s.link.mem.held || (s.link.mem.cfg.isSome && decide (s.link.mem.good + 440000 < s.clock))

/-- What stands between this module and a rank: code 1 with no rank held or fenced, code 6 with no entry or no route. -/
def State.peerSt (s : State) (rank : Nat) : PeerSt :=
  match s.link.mem.cur, s.link.mem.rank with
  | some t, some _ =>
    if s.link.mem.fenced then .fail 1
    else match t.slots[rank]? with
      | none => .fail 6
      | some sl => if (s.link.fab.route sl).isEmpty then .fail 6 else if s.holding then .held else .go sl
  | _, _ => .fail 1

/-- A free error class from 1 to 7 and a free DETAIL. -/
def State.freeErr (s : State) : (Nat × Nat) × State :=
  let d := s.draw
  ((1 + (Config.freeW32 d.1).toNat % 7, (Config.freeW32 d.1).toNat / 65536), d.2)

/-! The engines' accesses to pool memory (R279): copies, SEND sources, landings and tape regions. -/

/-- A pool access of an engine: its packet leaves by a live port, and the node's answer is taken: none, or how it failed
(no live port and no reply give code 6). Each access to one span is one packet (DESIGN CHOICE, log 95). -/
def State.poolAsk (s : State) (job : BitVec 16) (it : Item) : Option Nat × State :=
  let dst := dstPool (it.addr.toNat / 2 ^ 40 % 4096)
  if (s.link.fab.route dst).isEmpty then (some 6, s)
  else
    let q := s.link.fab.takeSeq dst
    let s1 := s.modFab (fun _ => q.2.send (s.request job dst q.1 [] [it]))
    match s.answers with
    | [] => (none, s1)
    | a :: l =>
      (if a.1 = 0 then none else some a.1, { s1.modFab (fun f => f.slow dst a.2) with answers := l })

/-- The error class of a pool access that failed: translation, permission and data as the node reports them, else a class
that the manual does not name (log 22). -/
def State.poolErr (s : State) (side code : Nat) : (Nat × Nat) × State :=
  if 3 ≤ code ∧ code ≤ 5 then ((code, side), s) else s.freeErr

end Sys2Proof.Machine
end

