-- ==== Sys2Proof/WellFormed.lean ====
section
/-! DEFINITION. Which terms of Instr a word can encode (spec/06 R147): the first check an instruction breaks, by
name. A decoder that meets a broken check rejects under the same name; both end in the illegal-instruction trap. -/

namespace Sys2Proof

/-- Why a word is no valid instruction (R147). -/
inductive Illegal where
  /-- a reserved opcode -/
  | opcode
  /-- a function, conversion, rounding-mode, atomic, kind or field code that is not assigned -/
  | code
  /-- an illegal operand -/
  | selector
  /-- a Q register named in two source fields -/
  | twoQueues
  /-- a condition illegal for the opcode -/
  | cond
  /-- a scope or order illegal for the opcode -/
  | scope
  /-- HINT 11 -/
  | hint
  /-- X = 1 where B is no source selector, or with B non-zero -/
  | extension
  /-- a GE block beyond G63, or an A that is no G code with T = 0 -/
  | block
  /-- a register number out of the opcode's range -/
  | register
  /-- a must-be-zero field that is not zero -/
  | zero
deriving DecidableEq, Repr

/-- The T bit is allowed on registers and queues only (R139). -/
def Src.tOk : Src → Bool
  | .const _ | .special _ => false
  | _ => true

/-- Operands a uniform word allows (R136, R138, 14 R350): no V register, no Q0, no TIDX. -/
def Src.uniOk : Src → Bool
  | .v _ => false
  | .q n => n != 0
  | .special c => c != 0
  | _ => true

/-- Is it a queue? -/
def Src.isQ : Src → Bool
  | .q _ => true
  | _ => false

/-- A legal selector of a lane word (R136, R139). -/
def Sel.ok (s : Sel) : Bool := !s.t || s.src.tOk

/-- A legal selector of a uniform word. -/
def Sel.uniOk (s : Sel) : Bool := s.ok && s.src.uniOk

/-- The selector whose code is 0, which stands in a field that must be zero. -/
def Sel.zero : Sel := ⟨.v 0, false⟩

/-- The checks of a lane word's selectors: legal, and at most one queue (R115). -/
def laneErr (l : List Sel) : Option Illegal :=
  if l.all Sel.ok then if (l.filter (fun s => s.src.isQ)).length ≤ 1 then none else some .twoQueues
  else some .selector

/-- The checks of a uniform word's selectors. -/
def uniErr (l : List Sel) : Option Illegal :=
  if l.all Sel.uniOk then if (l.filter (fun s => s.src.isQ)).length ≤ 1 then none else some .twoQueues
  else some .selector

/-- The selectors of a B operand: none for an imm32 (R142). -/
def UOpd.sels : UOpd → List Sel
  | .sel s => [s]
  | .imm _ => []

/-- A condition of ICMP and UCMP (R143). -/
def Cond.intOk : Cond → Bool
  | .eq | .ne | .lt | .ge | .le | .gt => true
  | _ => false

/-- A condition of FCMP (R143). -/
def Cond.fpOk : Cond → Bool
  | .ord | .uno => true
  | c => c.intOk

/-- A condition of GCMP (R143). -/
def Cond.uniOk : Cond → Bool
  | .ord | .uno => false
  | _ => true

/-- A plain access has no scope (R158, R162). -/
def plainOk (sc : Scope) (o : Order) : Bool := o != .plain || sc == .group

/-- Orders and scopes of a load (07 R158). -/
def loadOrd (sc : Scope) (o : Order) : Bool := (o == .plain || o == .acq) && plainOk sc o

/-- Orders and scopes of a store or a RED (R158, R162). -/
def storeOrd (sc : Scope) (o : Order) : Bool := (o == .plain || o == .rel) && plainOk sc o && sc != .rteam

/-- Orders and scopes of an ATOM (R162). -/
def atomOrd (sc : Scope) (o : Order) : Bool :=
  plainOk sc o && (sc != .rteam || o == .acq || o == .acqRel)

/-- The first of the checks that fails. -/
def firstErr : List (Bool × Illegal) → Option Illegal
  | [] => none
  | (ok, e) :: l => if ok then firstErr l else some e

/-- The checks `l`, then the selectors' error `e`. -/
def errs (l : List (Bool × Illegal)) (e : Option Illegal) : Option Illegal := (firstErr l).or e

/-- A command block of `n` registers from G`g` stays within G63 (R141). -/
def blockOk (g : BitVec 6) (n : Nat) : Bool := decide (g.toNat + n ≤ 64)

/-- The first check that an instruction breaks; none for the steps that no word encodes. -/
def Instr.wfErr : Instr → Option Illegal
  | .iadd _ a b => laneErr [a, b]
  | .isub _ a b => laneErr [a, b]
  | .imul _ a b => laneErr [a, b]
  | .imulh _ a b => laneErr [a, b]
  | .imulhu _ a b => laneErr [a, b]
  | .imad _ a b => laneErr [a, b]
  | .imin _ a b => laneErr [a, b]
  | .imax _ a b => laneErr [a, b]
  | .umin _ a b => laneErr [a, b]
  | .umax _ a b => laneErr [a, b]
  | .and _ a b => laneErr [a, b]
  | .or _ a b => laneErr [a, b]
  | .xor _ a b => laneErr [a, b]
  | .andn _ a b => laneErr [a, b]
  | .shl _ a b => laneErr [a, b]
  | .shr _ a b => laneErr [a, b]
  | .sar _ a b => laneErr [a, b]
  | .rot _ a b => laneErr [a, b]
  | .bfe _ a b => laneErr [a, b]
  | .bfi _ a b => laneErr [a, b]
  | .clmul _ a b => laneErr [a, b]
  | .clmulh _ a b => laneErr [a, b]
  | .shfl _ a b => laneErr [a, b]
  | .shflx _ a b => laneErr [a, b]
  | .shflu _ a b => laneErr [a, b]
  | .shfld _ a b => laneErr [a, b]
  | .fadd _ a b => laneErr [a, b]
  | .fsub _ a b => laneErr [a, b]
  | .fmul _ a b => laneErr [a, b]
  | .ffma _ a b => laneErr [a, b]
  | .fmin _ a b => laneErr [a, b]
  | .fmax _ a b => laneErr [a, b]
  | .b2add _ a b => laneErr [a, b]
  | .b2mul _ a b => laneErr [a, b]
  | .b2fma _ a b => laneErr [a, b]
  | .b2max _ a b => laneErr [a, b]
  | .b2min _ a b => laneErr [a, b]
  | .qexp d a b => errs [(decide (d.toNat ≤ 126), .register)] (laneErr [a, b])
  | .rnd _ a b => laneErr [a, b]
  | .icmp c _ a b => errs [(c.intOk, .cond)] (laneErr [⟨a, false⟩, ⟨b, false⟩])
  | .ucmp c _ a b => errs [(c.intOk, .cond)] (laneErr [⟨a, false⟩, ⟨b, false⟩])
  | .fcmp c _ a b => errs [(c.fpOk, .cond)] (laneErr [⟨a, false⟩, ⟨b, false⟩])
  | .popc _ a => laneErr [a]
  | .clz _ a => laneErr [a]
  | .ctz _ a => laneErr [a]
  | .brev _ a => laneErr [a]
  | .bswap _ a => laneErr [a]
  | .sext8 _ a => laneErr [a]
  | .sext16 _ a => laneErr [a]
  | .zext8 _ a => laneErr [a]
  | .zext16 _ a => laneErr [a]
  | .not _ a => laneErr [a]
  | .neg _ a => laneErr [a]
  | .abs _ a => laneErr [a]
  | .fabs _ a => laneErr [a]
  | .fneg _ a => laneErr [a]
  | .frcp _ a => laneErr [a]
  | .frsq _ a => laneErr [a]
  | .fsqrt _ a => laneErr [a]
  | .fexp2 _ a => laneErr [a]
  | .flog2 _ a => laneErr [a]
  | .fsin _ a => laneErr [a]
  | .fcos _ a => laneErr [a]
  | .ftanh _ a => laneErr [a]
  | .ffrac _ a => laneErr [a]
  | .frnde _ a => laneErr [a]
  | .ftrunc _ a => laneErr [a]
  | .ffloor _ a => laneErr [a]
  | .fceil _ a => laneErr [a]
  | .mov _ a => laneErr [a]
  | .xredAdd m d a => errs [(m != .totalG || decide (d.toNat < 64), .register)] (laneErr [a])
  | .xredMin m d a => errs [(m != .totalG || decide (d.toNat < 64), .register)] (laneErr [a])
  | .xredMax m d a => errs [(m != .totalG || decide (d.toNat < 64), .register)] (laneErr [a])
  | .xredUmin m d a => errs [(m != .totalG || decide (d.toNat < 64), .register)] (laneErr [a])
  | .xredUmax m d a => errs [(m != .totalG || decide (d.toNat < 64), .register)] (laneErr [a])
  | .xredAnd m d a => errs [(m != .totalG || decide (d.toNat < 64), .register)] (laneErr [a])
  | .xredOr m d a => errs [(m != .totalG || decide (d.toNat < 64), .register)] (laneErr [a])
  | .xredXor m d a => errs [(m != .totalG || decide (d.toNat < 64), .register)] (laneErr [a])
  | .xredFadd m d a => errs [(m != .totalG || decide (d.toNat < 64), .register)] (laneErr [a])
  | .xredFmin m d a => errs [(m != .totalG || decide (d.toNat < 64), .register)] (laneErr [a])
  | .xredFmax m d a => errs [(m != .totalG || decide (d.toNat < 64), .register)] (laneErr [a])
  | .cvt _ _ _ a => laneErr [a]
  | .qscl _ a t b => errs [(decide (a.toNat ≤ 126), .register)] (laneErr [⟨.v a, t⟩, b])
  | .qcvt _ a t b => errs [(decide (a.toNat ≤ 126), .register)] (laneErr [⟨.v a, t⟩, b])
  | .ldl _ a _ sc o => errs [(loadOrd sc o, .scope)] (laneErr [a])
  | .stl _ a _ sc o => errs [(storeOrd sc o, .scope)] (laneErr [a])
  | .ldv d a _ sc o => errs [(decide (d.toNat ≤ 124), .register), (loadOrd sc o, .scope)] (laneErr [a])
  | .stv d a _ sc o => errs [(decide (d.toNat ≤ 124), .register), (storeOrd sc o, .scope)] (laneErr [a])
  | .atom op _ a b c _ sc o => errs [(op == .cas || c == .zero, .zero), (atomOrd sc o, .scope)] (laneErr [a, b, c])
  | .red op a b _ sc o => errs [(op != .xchg && op != .cas, .code), (storeOrd sc o, .scope)] (laneErr [a, b])
  | .put d a n _ f _ => errs [(decide (d.toNat + n.toNat ≤ 127), .register)] (laneErr (a :: (f.map Prod.snd).toList))
  | .ratom op _ a b c _ _ => errs [(op == .cas || c == .zero, .zero)] (laneErr [a, b, c])
  | .racc d a n _ _ => errs [(decide (d.toNat + n.toNat ≤ 127), .register)] (laneErr [a])
  | .sel _ a b c _ => laneErr [a, b, c]
  | .spst d n off => errs [(decide (d.toNat + n.toNat ≤ 127), .register), (decide (off.toNat % 4 = 0), .zero)] none
  | .spld d n off => errs [(decide (d.toNat + n.toNat ≤ 127), .register), (decide (off.toNat % 4 = 0), .zero)] none
  | .trec d k _ => errs [(decide (d.toNat + (match k with
      | .value n => n.toNat
      | .lvalue _ => 1
      | .index => 0) ≤ 127), .register)] none
  | .tpop d k _ => errs [(decide (d.toNat + (match k with
      | .value n => n.toNat
      | .index => 0) ≤ 127), .register)] none
  | .gadd _ a b => uniErr (a :: b.sels)
  | .gsub _ a b => uniErr (a :: b.sels)
  | .gmul _ a b => uniErr (a :: b.sels)
  | .gmulh _ a b => uniErr (a :: b.sels)
  | .gand _ a b => uniErr (a :: b.sels)
  | .gor _ a b => uniErr (a :: b.sels)
  | .gxor _ a b => uniErr (a :: b.sels)
  | .gandn _ a b => uniErr (a :: b.sels)
  | .gshl _ a b => uniErr (a :: b.sels)
  | .gshr _ a b => uniErr (a :: b.sels)
  | .gsar _ a b => uniErr (a :: b.sels)
  | .gmin _ a b => uniErr (a :: b.sels)
  | .gmax _ a b => uniErr (a :: b.sels)
  | .gmov _ b => uniErr b.sels
  | .gcmp c _ a b => errs [(c.uniOk, .cond)] (uniErr [⟨a, false⟩, ⟨b, false⟩])
  | .gpopc _ a => uniErr [a]
  | .gclz _ a => uniErr [a]
  | .gctz _ a => uniErr [a]
  | .gnot _ a => uniErr [a]
  | .gneg _ a => uniErr [a]
  | .gbrev _ a => uniErr [a]
  | .rdlane _ _ _ b => uniErr b.sels
  | .mset _ b => uniErr b.sels
  | .mand _ a b => uniErr (a :: b.sels)
  | .mandn _ a b => uniErr (a :: b.sels)
  | .mor _ a b => uniErr (a :: b.sels)
  | .spadj b => uniErr b.sels
  | .fence _ sc => errs [(sc != .rteam, .scope)] none
  | .fenceFlush _ sc => errs [(sc != .rteam && sc != .group && sc != .team && sc != .cluster, .scope)] none
  | .publish sc a => errs [(sc != .rteam && sc != .group, .scope)] (uniErr [a])
  | .bra _ _ => none
  | .bez _ _ _ => none
  | .bnz _ _ _ => none
  | .bmz _ _ _ => none
  | .bmnz _ _ _ => none
  | .call _ _ _ => none
  | .jmpr _ _ _ => none
  | .loop _ _ _ => none
  | .bar _ a => uniErr [a]
  | .cbar => none
  | .abarAdd _ b => uniErr b.sels
  | .abarSub _ b => uniErr b.sels
  | .abarSet _ b => uniErr b.sels
  | .abwait _ b => uniErr b.sels
  | .waitc _ _ a b => uniErr (a :: b.sels)
  | .waitn _ a => uniErr [a]
  | .topen g => errs [(blockOk g 3, .block)] none
  | .nop => none
  | .exit => none
  | .brkpt => none
  | .yield => none
  | .eret => none
  | .trap a => uniErr [a]
  | .srd _ a => uniErr [a]
  | .swr _ a => uniErr [a]
  | .genfence _ => none
  | .rtswap _ => none
  | .tlbi g => errs [(blockOk g 4, .block)] none
  | .tacq a => uniErr [a]
  | .tbrk _ a => uniErr [a]
  | .tbpop _ _ => none
  | .tmark _ _ b => uniErr b.sels
  | .trev _ _ => none
  | .tclose _ _ => none
  | .bcopy _ g => errs [(blockOk g 8, .block)] none
  | .bcopym _ g => errs [(blockOk g 8, .block)] none
  | .pstw _ g => errs [(blockOk g 4, .block)] none
  | .tmma _ g b => errs [(blockOk g 2, .block)] (uniErr b.sels)
  | .tdual x w g b => errs [(x != w, .register), (blockOk g 2, .block)] (uniErr b.sels)
  | .tprom _ _ => none
  | .tzero _ _ => none
  | .tsta _ _ b => uniErr b.sels
  | .tlda _ _ b => uniErr b.sels
  | .tmaxr _ _ b => uniErr b.sels
  | .ttag _ a b => uniErr (a :: b.sels)
  | .bld _ a b => uniErr (a :: b.sels)
  | .bset _ _ b => uniErr b.sels
  | .bsetAdd _ b => uniErr b.sels
  | .bxlate _ _ => none
  | .send _ g => errs [(blockOk g 4, .block)] none
  | .rpost _ g => errs [(blockOk g 7, .block)] none
  | .rprobe d g => errs [(decide (d.toNat ≤ 61), .register), (blockOk g 4, .block)] none
  | .rcancel _ _ => none
  | .cfire a b => uniErr (a :: b.sels)
  | .copyPiece _ _ => none
  | .copyTagRequeue _ _ => none
  | .copyCompletion _ _ => none
  | .followOnFire _ _ => none
  | .q3HeldRelease _ => none
  | .snapshotOpen _ _ _ _ => none
  | .snapshotClose _ _ => none
  | .l2RangeWrite _ _ _ => none
  | .l2PinSweep _ => none
  | .directoryRequest _ _ _ _ => none
  | .longLatencyWrite _ _ => none
  | .monitorReread _ => none
  | .tileStart _ _ => none
  | .tileComplete _ _ => none
  | .tapeDrain _ _ => none
  | .tapeFetch _ _ => none
  | .putPacket _ _ => none
  | .ratomPacket _ _ => none
  | .raccPacket _ _ => none
  | .ackReceive _ _ => none
  | .rdataReceive _ _ _ => none
  | .nackReceive _ _ _ => none
  | .busyResend _ => none
  | .transferTimeout _ => none
  | .flitRetransmit _ => none
  | .portDead _ => none
  | .rateRecover => none
  | .collectiveActivate _ _ _ => none
  | .collPacket _ _ => none
  | .msgPacket _ _ => none
  | .rtsPacket _ => none
  | .pullPacket _ _ _ _ => none
  | .pdataPacket _ _ _ _ _ => none
  | .receiveCompletion _ _ => none
  | .q2HeldRelease _ => none
  | .migrationStep _ _ => none
  | .faultRequest _ _ _ _ _ => none
  | .nodeStart _ _ _ => none
  | .waitSatisfied _ _ => none
  | .nodeCompletion _ _ => none
  | .teamDispatch _ => none
  | .teamExit _ => none
  | .teamSwapOut _ => none
  | .activeSetRotation _ _ => none
  | .preemptTrigger _ _ => none
  | .invarPositionSwap _ _ => none
  | .invarWake _ => none
  | .preemptionRequest _ => none
  | .contextSave _ => none
  | .tlbiDrained _ => none
  | .accxferSave _ => none
  | .accxferLoad _ => none
  | .registerWrite _ _ _ => none
  | .notify _ _ => none
  | .evheadWrite _ => none
  | .apertureAccess _ _ => none
  | .debugResume _ _ => none
  | .init _ _ _ _ => none
  | .ctxnew _ _ _ _ _ _ _ _ _ => none
  | .ctxdel _ _ => none
  | .load _ _ _ _ => none
  | .segmentLoad => none
  | .keyadd _ _ _ _ _ _ => none
  | .quote _ _ => none
  | .stepstart _ _ _ _ => none
  | .answer _ _ _ => none
  | .migrate _ _ _ _ _ => none
  | .rtable _ _ => none
  | .abort _ _ => none
  | .join _ _ => none
  | .fabcfg _ _ => none
  | .fabreset _ => none
  | .drain _ => none
  | .fwpush _ _ => none
  | .heartbeat => none
  | .selfCheckResult _ => none
  | .watcherCheck _ _ => none
  | .accusationResult _ _ => none
  | .trafficHold => none
  | .stripeLanded _ _ _ _ => none
  | .powerOn => none
  | .moduleReset => none
  | .trainingComplete _ _ _ _ => none
  | .powerLoss => none
  | .sensorSample _ => none
  | .alarmClear _ => none
  | .offRequest => none
  | .forceOff => none
  | .unitFailure _ => none
  | .linkAcknowledgement _ _ => none
  | .malformedPacket _ => none

/-- A term that a word encodes, or one of the steps that no word encodes. -/
def Instr.wf (i : Instr) : Bool := i.wfErr.isNone

end Sys2Proof
end

