-- ==== Sys2Proof/Decode.lean ====
section
/-! DEFINITION. Decoding instruction words (spec/06 R134 to R148) and, after it, the encoder. Words are numbers:
`w` is the first word, `x` the extension word. Total on any bytes; a word that is no valid instruction is rejected
under the name of the first check it breaks. -/

namespace Sys2Proof

/-- A source code of 8 bits (R136). -/
def decSrc (c : Nat) : Option Src :=
  if c < 0x80 then some (.v (BitVec.ofNat 7 c))
  else if c < 0xC0 then some (.g (BitVec.ofNat 6 (c - 0x80)))
  else if c < 0xE0 then some (.const (BitVec.ofNat 5 (c - 0xC0)))
  else if c < 0xF0 then some (.special (BitVec.ofNat 4 (c - 0xE0)))
  else if c < 0xF4 then some (.q (BitVec.ofNat 2 (c - 0xF0)))
  else none

/-- A source selector of 9 bits: bit 8 is T (R136, R139). -/
def decSel (c : Nat) : Option Sel :=
  match decSrc (c % 256) with
  | some s => some ⟨s, decide (c / 256 % 2 = 1)⟩
  | none => none

/-- SCOPE (R144). -/
def decScope : Nat → Option Scope
  | 0 => some .group | 1 => some .team | 2 => some .cluster | 3 => some .die | 4 => some .device
  | 5 => some .system | 6 => some .rteam | _ => none

/-- ORDER (R144). -/
def decOrder : Nat → Order
  | 0 => .plain | 1 => .acq | 2 => .rel | _ => .acqRel

/-- COND (R143): the codes common to the compare opcodes, then FCMP's and GCMP's own. -/
def decCond (gcmp : Bool) : Nat → Option Cond
  | 0 => some .eq | 1 => some .ne | 2 => some .lt | 3 => some .ge | 4 => some .le | 5 => some .gt
  | 6 => some (if gcmp then .ltu else .ord) | 7 => some (if gcmp then .geu else .uno)
  | 8 => if gcmp then some .leu else none
  | 9 => if gcmp then some .gtu else none
  | _ => none

/-- The condition of a compare opcode: ICMP and UCMP take no ORD or UNO. -/
def decCondOf (gcmp fp : Bool) (c : Nat) : Option Cond :=
  match decCond gcmp c with
  | some .ord => if fp then some .ord else none
  | some .uno => if fp then some .uno else none
  | r => r

/-- HINT (R141). -/
def decHint : Nat → Option Hint
  | 0 => some .none | 1 => some .likely | 2 => some .unlikely | _ => none

/-- The mode of CVT (05 R133). -/
def decRMode : Nat → Option RMode
  | 0 => some .rne | 1 => some .rtz | 2 => some .rdn | 3 => some .rup | 4 => some .sr | 7 => some .cur | _ => none

/-- The conversion code of CVT (05 R133). -/
def decCvt (c : Nat) : Option CvtOp :=
  match c with
  | 0x00 => some .f32s32 | 0x01 => some .f32u32 | 0x02 => some .s32f32 | 0x03 => some .u32f32
  | 0x04 => some (.f32bf16 false) | 0x05 => some (.f32bf16 true) | 0x06 => some .bf16f32
  | 0x07 => some (.f32f16 false) | 0x08 => some (.f32f16 true) | 0x09 => some .f16f32
  | 0x10 => some (.f32e4m3 0) | 0x11 => some (.f32e4m3 1) | 0x12 => some (.f32e4m3 2) | 0x13 => some (.f32e4m3 3)
  | 0x14 => some (.f32e5m2 0) | 0x15 => some (.f32e5m2 1) | 0x16 => some (.f32e5m2 2) | 0x17 => some (.f32e5m2 3)
  | 0x18 => some .e4m3f32 | 0x19 => some .e5m2f32 | 0x1A => some .f32e3m2 | 0x1B => some .f32e2m3
  | 0x1C => some .e3m2f32 | 0x1D => some .e2m3f32
  | 0x20 => some (.f32e2m1 0) | 0x21 => some (.f32e2m1 1) | 0x22 => some (.f32e2m1 2) | 0x23 => some (.f32e2m1 3)
  | 0x24 => some (.f32e2m1 4) | 0x25 => some (.f32e2m1 5) | 0x26 => some (.f32e2m1 6) | 0x27 => some (.f32e2m1 7)
  | 0x28 => some .e2m1f32
  | 0x2C => some (.f32s8 0) | 0x2D => some (.f32s8 1) | 0x2E => some (.f32s8 2) | 0x2F => some (.f32s8 3)
  | 0x30 => some .s8f32
  | _ => none

/-- AOP (07 R163). -/
def decAOp : Nat → Option AOp
  | 0 => some .add | 1 => some .min | 2 => some .max | 3 => some .umin | 4 => some .umax | 5 => some .and
  | 6 => some .or | 7 => some .xor | 8 => some .fadd | 9 => some .fmin | 10 => some .fmax | 11 => some .b2add
  | 12 => some .xchg | 13 => some .cas | _ => none

/-- XRED's mode (08 R196). -/
def decXMode : Nat → XMode
  | 0 => .totalG | 1 => .totalV | 2 => .forerunner | _ => .inclusive

/-- ABO (11 R280). -/
def decAbo (c : Nat) : Option Abo :=
  if c = 0 then some .none else if c ≤ 8 then some (.obj (BitVec.ofNat 3 (c - 1))) else none

/-- BSET's field code (07 R180), other than ADD. -/
def decBField : Nat → Option BField
  | 0 => some .baseLo | 1 => some .baseHi | 2 => some .ext0 | 3 => some .ext1 | 4 => some .stride0
  | 5 => some .stride1 | 6 => some .w6 | 7 => some .w7 | _ => none

/-- WAITC's condition (14 R366). -/
def decWCond : Nat → WCond
  | 0 => .eq | 1 => .ne | 2 => .geu | _ => .ltu

/-- The result of decoding. -/
abbrev Dec := Except Illegal Instr

/-- `i` unless one of the checks fails. -/
def decIf (l : List (Bool × Illegal)) (i : Instr) : Dec :=
  match firstErr l with
  | none => .ok i
  | some e => .error e

/-- D of an LA, LM or LX word. -/
def dOf (w : Nat) : BitVec 7 := BitVec.ofNat 7 (fieldOf w 18 7)
/-- D of a GA or GE word. -/
def gdOf (w : Nat) : BitVec 6 := BitVec.ofNat 6 (fieldOf w 19 6)
/-- A of an LA, LM or LX word. -/
def aOf (w : Nat) : Option Sel := decSel (fieldOf w 9 9)
/-- B of an LA or LX word. -/
def bOf (w : Nat) : Option Sel := decSel (fieldOf w 0 9)
/-- A of a GA word. -/
def gaOf (w : Nat) : Option Sel := decSel (fieldOf w 10 9)
/-- The register of a V code, with its T bit. -/
def vOf (c : Nat) : Option (BitVec 7 × Bool) :=
  if c % 256 < 128 then some (BitVec.ofNat 7 c, decide (c / 256 % 2 = 1)) else none

/-- B of a GA or GE word where it is a source selector: an imm32 when X = 1, and B must then be zero (R141, R142). -/
def gbOf (w x : Nat) : Except Illegal UOpd :=
  if fieldOf w 0 1 = 1 then if fieldOf w 1 9 = 0 then .ok (.imm (BitVec.ofNat 32 x)) else .error .extension
  else match decSel (fieldOf w 1 9) with
    | some s => .ok (.sel s)
    | none => .error .selector

/-- An LA word of two sources. -/
def decLA2 (mk : BitVec 7 → Sel → Sel → Instr) (w : Nat) : Dec :=
  match aOf w, bOf w with
  | some a, some b => .ok (mk (dOf w) a b)
  | _, _ => .error .selector

/-- An LA word whose B is a code or zero. -/
def decLA1 (mk : BitVec 7 → Sel → Instr) (w : Nat) : Dec :=
  match aOf w with
  | some a => .ok (mk (dOf w) a)
  | none => .error .selector

/-- An LC word. -/
def decLC (fp : Bool) (mk : Cond → BitVec 5 → Src → Src → Instr) (w : Nat) : Dec :=
  match decCondOf false fp (fieldOf w 21 4) with
  | none => .error .cond
  | some c =>
    match decSrc (fieldOf w 8 8), decSrc (fieldOf w 0 8) with
    | some a, some b => .ok (mk c (BitVec.ofNat 5 (fieldOf w 16 5)) a b)
    | _, _ => .error .selector

/-- An LM word. -/
def decLM (mk : BitVec 7 → Sel → BitVec 4 → Scope → Order → Instr) (w : Nat) : Dec :=
  match aOf w, decScope (fieldOf w 2 3) with
  | some a, some sc => .ok (mk (dOf w) a (BitVec.ofNat 4 (fieldOf w 5 4)) sc (decOrder (fieldOf w 0 2)))
  | none, _ => .error .selector
  | some _, none => .error .scope

/-- IUN (08 R189). -/
def decIUN (w : Nat) : Dec :=
  match fieldOf w 0 9 with
  | 0 => decLA1 .popc w
  | 1 => decLA1 .clz w
  | 2 => decLA1 .ctz w
  | 3 => decLA1 .brev w
  | 4 => decLA1 .bswap w
  | 5 => decLA1 .sext8 w
  | 6 => decLA1 .sext16 w
  | 7 => decLA1 .zext8 w
  | 8 => decLA1 .zext16 w
  | 9 => decLA1 .not w
  | 10 => decLA1 .neg w
  | 11 => decLA1 .abs w
  | _ => .error .code

/-- FUN (08 R200). -/
def decFUN (w : Nat) : Dec :=
  match fieldOf w 0 9 with
  | 0 => decLA1 .fabs w
  | 1 => decLA1 .fneg w
  | 2 => decLA1 .frcp w
  | 3 => decLA1 .frsq w
  | 4 => decLA1 .fsqrt w
  | 5 => decLA1 .fexp2 w
  | 6 => decLA1 .flog2 w
  | 7 => decLA1 .fsin w
  | 8 => decLA1 .fcos w
  | 9 => decLA1 .ftanh w
  | 10 => decLA1 .ffrac w
  | 11 => decLA1 .frnde w
  | 12 => decLA1 .ftrunc w
  | 13 => decLA1 .ffloor w
  | 14 => decLA1 .fceil w
  | _ => .error .code

/-- An XRED function (08 R196). -/
def decXRED1 (mk : XMode → BitVec 7 → Sel → Instr) (w : Nat) : Dec :=
  if fieldOf w 6 3 = 0 then decLA1 (mk (decXMode (fieldOf w 4 2))) w else .error .zero

/-- XRED (R146, R196). -/
def decXRED (w : Nat) : Dec :=
  match fieldOf w 0 4 with
  | 0 => decXRED1 .xredAdd w
  | 1 => decXRED1 .xredMin w
  | 2 => decXRED1 .xredMax w
  | 3 => decXRED1 .xredUmin w
  | 4 => decXRED1 .xredUmax w
  | 5 => decXRED1 .xredAnd w
  | 6 => decXRED1 .xredOr w
  | 7 => decXRED1 .xredXor w
  | 8 => decXRED1 .xredFadd w
  | 9 => decXRED1 .xredFmin w
  | 10 => decXRED1 .xredFmax w
  | _ => .error .code

/-- CVT (08 R204). -/
def decCVT (w : Nat) : Dec :=
  match decCvt (fieldOf w 0 6), decRMode (fieldOf w 6 3) with
  | some op, some m => decLA1 (.cvt op m) w
  | _, _ => .error .code

/-- QSCL and QCVT (08 R206): A names a V register. -/
def decQ (mk : BitVec 7 → BitVec 7 → Bool → Sel → Instr) (w : Nat) : Dec :=
  match vOf (fieldOf w 9 9), bOf w with
  | some (a, t), some b => .ok (mk (dOf w) a t b)
  | _, _ => .error .selector

/-- ATOM (07 R162). -/
def decATOM (w x : Nat) : Dec :=
  match aOf w, bOf w, decSel (fieldOf x 18 9), decAOp (fieldOf x 8 5), decScope (fieldOf x 13 3) with
  | some a, some b, some c, some op, some sc =>
    decIf [(decide (fieldOf x 27 5 = 0), .zero), (decide (fieldOf x 4 4 = 0), .zero)]
      (.atom op (dOf w) a b c (BitVec.ofNat 4 (fieldOf x 0 4)) sc (decOrder (fieldOf x 16 2)))
  | _, _, _, none, _ => .error .code
  | _, _, _, some _, none => .error .scope
  | _, _, _, some _, some _ => .error .selector

/-- RED (07 R162). -/
def decRED (w x : Nat) : Dec :=
  match aOf w, bOf w, decAOp (fieldOf x 8 5), decScope (fieldOf x 13 3) with
  | some a, some b, some op, some sc =>
    decIf [(decide (fieldOf x 27 5 = 0), .zero), (decide (fieldOf x 18 9 = 0), .zero),
        (decide (fieldOf x 4 4 = 0), .zero), (decide (fieldOf w 18 7 = 0), .zero)]
      (.red op a b (BitVec.ofNat 4 (fieldOf x 0 4)) sc (decOrder (fieldOf x 16 2)))
  | _, _, none, _ => .error .code
  | _, _, some _, none => .error .scope
  | _, _, some _, some _ => .error .selector

/-- PUT (11 R280). -/
def decPUT (w x : Nat) : Dec :=
  match aOf w, bOf w, decAbo (fieldOf x 28 4) with
  | some a, some b, some abo =>
    decIf [(decide (fieldOf x 18 9 = 0), .zero), (decide (fieldOf x 13 1 = 0), .zero),
        (decide (fieldOf x 8 5 = 0), .zero), (decide (fieldOf x 4 2 = 0), .zero),
        (decide (fieldOf x 27 1 = 1 ∨ (fieldOf x 14 4 = 0 ∧ fieldOf w 0 9 = 0)), .zero)]
      (.put (dOf w) a (BitVec.ofNat 2 (fieldOf x 6 2)) (BitVec.ofNat 4 (fieldOf x 0 4))
        (if fieldOf x 27 1 = 1 then some (BitVec.ofNat 4 (fieldOf x 14 4), b) else none) abo)
  | _, _, none => .error .code
  | _, _, some _ => .error .selector

/-- RATOM (11 R280). -/
def decRATOM (w x : Nat) : Dec :=
  match aOf w, bOf w, decSel (fieldOf x 18 9), decAOp (fieldOf x 8 5), decAbo (fieldOf x 28 4) with
  | some a, some b, some c, some op, some abo =>
    decIf [(decide (fieldOf x 27 1 = 0), .zero), (decide (fieldOf x 14 4 = 0), .zero),
        (decide (fieldOf x 6 2 = 0), .zero), (decide (fieldOf x 4 2 = 0), .zero),
        (decide (fieldOf x 13 1 = 1 ∨ fieldOf w 18 7 = 0), .zero)]
      (.ratom op (if fieldOf x 13 1 = 1 then some (dOf w) else none) a b c (BitVec.ofNat 4 (fieldOf x 0 4)) abo)
  | _, _, _, none, _ => .error .code
  | _, _, _, some _, none => .error .code
  | _, _, _, some _, some _ => .error .selector

/-- RACC (11 R280). -/
def decRACC (w x : Nat) : Dec :=
  match aOf w, decAbo (fieldOf x 28 4) with
  | some a, some abo =>
    decIf [(decide (fieldOf w 0 9 = 0), .zero), (decide (fieldOf x 8 20 = 0), .zero),
        (decide (fieldOf x 4 2 = 0), .zero)]
      (.racc (dOf w) a (BitVec.ofNat 2 (fieldOf x 6 2)) (BitVec.ofNat 4 (fieldOf x 0 4)) abo)
  | _, none => .error .code
  | none, some _ => .error .selector

/-- SEL (08 R193). -/
def decSEL (w x : Nat) : Dec :=
  match aOf w, bOf w, decSel (fieldOf x 0 9) with
  | some a, some b, some c =>
    decIf [(decide (fieldOf x 10 22 = 0), .zero)] (.sel (dOf w) a b c (decide (fieldOf x 9 1 = 1)))
  | _, _, _ => .error .selector

/-- SPST and SPLD (07 R166). -/
def decSP (mk : BitVec 7 → BitVec 4 → BitVec 16 → Instr) (w x : Nat) : Dec :=
  decIf [(decide (fieldOf w 0 18 = 0), .zero), (decide (fieldOf x 20 12 = 0), .zero)]
    (mk (dOf w) (BitVec.ofNat 4 (fieldOf x 16 4)) (BitVec.ofNat 16 (fieldOf x 0 16)))

/-- TREC (10 R250). -/
def decTREC (w x : Nat) : Dec :=
  let s := BitVec.ofNat 1 (fieldOf x 0 1)
  let z := [(decide (fieldOf w 0 18 = 0), Illegal.zero), (decide (fieldOf x 10 22 = 0), Illegal.zero),
    (decide (fieldOf x 1 3 = 0), Illegal.zero)]
  match fieldOf x 8 2 with
  | 0 => decIf (z ++ [(decide (fieldOf x 4 2 = 0), .zero)])
      (.trec (dOf w) (.value (BitVec.ofNat 2 (fieldOf x 6 2))) s)
  | 1 => decIf (z ++ [(decide (fieldOf x 6 2 = 1), .code)])
      (.trec (dOf w) (.lvalue (BitVec.ofNat 2 (fieldOf x 4 2))) s)
  | 2 => decIf (z ++ [(decide (fieldOf x 4 4 = 0), .zero)]) (.trec (dOf w) .index s)
  | _ => .error .code

/-- TPOP (10 R250). -/
def decTPOP (w x : Nat) : Dec :=
  let s := BitVec.ofNat 1 (fieldOf x 0 1)
  let z := [(decide (fieldOf w 0 18 = 0), Illegal.zero), (decide (fieldOf x 10 22 = 0), Illegal.zero),
    (decide (fieldOf x 1 5 = 0), Illegal.zero)]
  match fieldOf x 8 2 with
  | 0 => decIf z (.tpop (dOf w) (.value (BitVec.ofNat 2 (fieldOf x 6 2))) s)
  | 2 => decIf (z ++ [(decide (fieldOf x 6 2 = 0), .zero)]) (.tpop (dOf w) .index s)
  | _ => .error .code

/-- A word of the lane set (R140, R145). -/
def decLane (w x : Nat) : Dec :=
  match fieldOf w 25 6 with
  | 0x00 => decLA2 .iadd w
  | 0x01 => decLA2 .isub w
  | 0x02 => decLA2 .imul w
  | 0x03 => decLA2 .imulh w
  | 0x04 => decLA2 .imulhu w
  | 0x05 => decLA2 .imad w
  | 0x06 => decLA2 .imin w
  | 0x07 => decLA2 .imax w
  | 0x08 => decLA2 .umin w
  | 0x09 => decLA2 .umax w
  | 0x0A => decLA2 .and w
  | 0x0B => decLA2 .or w
  | 0x0C => decLA2 .xor w
  | 0x0D => decLA2 .andn w
  | 0x0E => decLA2 .shl w
  | 0x0F => decLA2 .shr w
  | 0x10 => decLA2 .sar w
  | 0x11 => decLA2 .rot w
  | 0x12 => decLC false .icmp w
  | 0x13 => decLC false .ucmp w
  | 0x14 => decLC true .fcmp w
  | 0x15 => decIUN w
  | 0x16 => decLA2 .bfe w
  | 0x17 => decLA2 .bfi w
  | 0x18 => decLA2 .clmul w
  | 0x19 => decLA2 .clmulh w
  | 0x1A => decLA2 .shfl w
  | 0x1B => decLA2 .shflx w
  | 0x1C => decLA2 .shflu w
  | 0x1D => decLA2 .shfld w
  | 0x1E => decXRED w
  | 0x1F => if fieldOf w 0 9 = 0 then decLA1 .mov w else .error .zero
  | 0x20 => decLA2 .fadd w
  | 0x21 => decLA2 .fsub w
  | 0x22 => decLA2 .fmul w
  | 0x23 => decLA2 .ffma w
  | 0x24 => decLA2 .fmin w
  | 0x25 => decLA2 .fmax w
  | 0x26 => decFUN w
  | 0x27 => decLA2 .b2add w
  | 0x28 => decLA2 .b2mul w
  | 0x29 => decLA2 .b2fma w
  | 0x2A => decLA2 .b2max w
  | 0x2B => decLA2 .b2min w
  | 0x2C => decCVT w
  | 0x2D => decQ .qscl w
  | 0x2E => decQ .qcvt w
  | 0x2F => decLA2 .qexp w
  | 0x30 => decLA2 .rnd w
  | 0x31 => decLM .ldl w
  | 0x32 => decLM .stl w
  | 0x33 => decLM .ldv w
  | 0x34 => decLM .stv w
  | 0x35 => decATOM w x
  | 0x36 => decRED w x
  | 0x37 => decPUT w x
  | 0x38 => decRATOM w x
  | 0x39 => decRACC w x
  | 0x3A => decSEL w x
  | 0x3B => decSP .spst w x
  | 0x3C => decSP .spld w x
  | 0x3D => decTREC w x
  | 0x3E => decTPOP w x
  | _ => .error .opcode

/-- A GA word with D, A and B. -/
def decGA3 (mk : BitVec 6 → Sel → UOpd → Instr) (w x : Nat) : Dec :=
  match gaOf w, gbOf w x with
  | some a, .ok b => .ok (mk (gdOf w) a b)
  | none, _ => .error .selector
  | some _, .error e => .error e

/-- A GA word with A and B, whose D is decoded by `mk`. -/
def decGAB (mk : Sel → UOpd → Dec) (w x : Nat) : Dec :=
  match gaOf w, gbOf w x with
  | some a, .ok b => mk a b
  | none, _ => .error .selector
  | some _, .error e => .error e

/-- A GA word with B, whose A must be zero. -/
def decGB1 (mk : UOpd → Dec) (w x : Nat) : Dec :=
  if fieldOf w 10 9 = 0 then
    match gbOf w x with
    | .ok b => mk b
    | .error e => .error e
  else .error .zero

/-- A GA word with A, whose B is a code and X zero. -/
def decGA1 (mk : Sel → Dec) (w : Nat) : Dec :=
  match gaOf w with
  | some a => mk a
  | none => .error .selector

/-- GUN (14 R353). -/
def decGUN (w : Nat) : Dec :=
  if fieldOf w 0 1 = 1 then .error .extension else
  match fieldOf w 1 9 with
  | 0 => decGA1 (fun a => .ok (.gpopc (gdOf w) a)) w
  | 1 => decGA1 (fun a => .ok (.gclz (gdOf w) a)) w
  | 2 => decGA1 (fun a => .ok (.gctz (gdOf w) a)) w
  | 3 => decGA1 (fun a => .ok (.gnot (gdOf w) a)) w
  | 4 => decGA1 (fun a => .ok (.gneg (gdOf w) a)) w
  | 5 => decGA1 (fun a => .ok (.gbrev (gdOf w) a)) w
  | _ => .error .code

/-- GCMP (14 R352). -/
def decGCMP (w : Nat) : Dec :=
  match decCondOf true false (fieldOf w 21 4) with
  | none => .error .cond
  | some c =>
    match decSrc (fieldOf w 8 8), decSrc (fieldOf w 0 8) with
    | some a, some b => .ok (.gcmp c (BitVec.ofNat 5 (fieldOf w 16 5)) a b)
    | _, _ => .error .selector

/-- RDLANE (14 R354). -/
def decRDLANE (w x : Nat) : Dec :=
  match vOf (fieldOf w 10 9), gbOf w x with
  | some (a, t), .ok b => .ok (.rdlane (gdOf w) a t b)
  | none, _ => .error .selector
  | some _, .error e => .error e

/-- FENCE (07 R171). -/
def decFENCE (w : Nat) : Dec :=
  match decScope (fieldOf w 1 3) with
  | none => .error .scope
  | some sc =>
    let z := [(decide (fieldOf w 10 15 = 0), Illegal.zero), (decide (fieldOf w 0 1 = 0), Illegal.extension),
      (decide (fieldOf w 8 2 = 0), Illegal.zero)]
    match fieldOf w 6 2 with
    | 0 => decIf z (.fence (decOrder (fieldOf w 4 2)) sc)
    | 1 => decIf z (.fenceFlush (decOrder (fieldOf w 4 2)) sc)
    | _ => .error .code

/-- PUBLISH (07 R173). -/
def decPUBLISH (w : Nat) : Dec :=
  match gaOf w, decScope (fieldOf w 1 3) with
  | some a, some sc =>
    decIf [(decide (fieldOf w 19 6 = 0), .zero), (decide (fieldOf w 0 1 = 0), .extension),
      (decide (fieldOf w 4 6 = 0), .zero)] (.publish sc a)
  | none, _ => .error .selector
  | some _, none => .error .scope

/-- A GB word (R141, R142). -/
def decGB (mk : BitVec 6 → BitVec 17 → Hint → Dec) (w : Nat) : Dec :=
  match decHint (fieldOf w 0 2) with
  | some h => mk (gdOf w) (BitVec.ofNat 17 (fieldOf w 2 17)) h
  | none => .error .hint

/-- B and X zero. -/
def bxZero (w : Nat) : List (Bool × Illegal) :=
  [(decide (fieldOf w 0 1 = 0), .extension), (decide (fieldOf w 1 9 = 0), .zero)]

/-- ABAR (14 R364). -/
def decABAR (w : Nat) (b : UOpd) : Dec :=
  let k := BitVec.ofNat 3 (fieldOf w 19 3)
  if fieldOf w 24 1 = 0 then
    match fieldOf w 22 2 with
    | 0 => .ok (.abarAdd k b)
    | 1 => .ok (.abarSub k b)
    | 2 => .ok (.abarSet k b)
    | _ => .error .code
  else .error .zero

/-- SYS (14 R368): `z` says D is zero, `a` the A field. -/
def decSYS (w : Nat) : Dec :=
  let x := (decide (fieldOf w 0 1 = 0), Illegal.extension)
  let dz := (decide (fieldOf w 19 6 = 0), Illegal.zero)
  let az := (decide (fieldOf w 10 9 = 0), Illegal.zero)
  match fieldOf w 1 9 with
  | 0 => decIf [x, dz, az] .nop
  | 1 => decIf [x, dz, az] .exit
  | 2 => decGA1 (fun a => decIf [x, dz] (.trap a)) w
  | 3 => decIf [x, dz, az] .brkpt
  | 4 => decIf [x, dz, az] .yield
  | 5 => decGA1 (fun a => decIf [x] (.srd (gdOf w) a)) w
  | 6 => decGA1 (fun a => decIf [x] (.swr (gdOf w) a)) w
  | 7 => decIf [x, dz, az] .eret
  | 8 => decIf [x, az] (.genfence (gdOf w))
  | 9 => decIf [x, az] (.rtswap (gdOf w))
  | 10 => decIf [x, dz, (decide (fieldOf w 16 3 = 2), .block)] (.tlbi (BitVec.ofNat 6 (fieldOf w 10 6)))
  | 11 => decGA1 (fun a => decIf [x, dz] (.tacq a)) w
  | _ => .error .code

/-- The A field of a GE word: a G code with T = 0 (R141). -/
def geA (w : Nat) : Bool × Illegal := (decide (fieldOf w 16 3 = 2), .block)
/-- Gc of a GE word. -/
def gcOf (w : Nat) : BitVec 6 := BitVec.ofNat 6 (fieldOf w 10 6)

/-- A GE word with B and X zero. -/
def decGE0 (l : List (Bool × Illegal)) (i : Instr) (w : Nat) : Dec := decIf (geA w :: l ++ bxZero w) i

/-- A GE word whose B gives a control word. -/
def decGEB (l : List (Bool × Illegal)) (mk : UOpd → Instr) (w x : Nat) : Dec :=
  match gbOf w x with
  | .ok b => decIf (geA w :: l) (mk b)
  | .error e => .error e

/-- A tape word of the uniform set: A is a code whose bit 0 is S (10 R254). -/
def decTapeS (l : List (Bool × Illegal)) (mk : BitVec 1 → BitVec 6 → Instr) (w : Nat) : Dec :=
  decIf ((decide (fieldOf w 11 8 = 0), .zero) :: l) (mk (BitVec.ofNat 1 (fieldOf w 10 1)) (gdOf w))

/-- BSET (07 R180): A is a 9-bit field code. -/
def decBSET (w x : Nat) : Dec :=
  match gbOf w x with
  | .error e => .error e
  | .ok b =>
    let k := BitVec.ofNat 4 (fieldOf w 19 4)
    let z := [(decide (fieldOf w 23 2 = 0), Illegal.zero)]
    if fieldOf w 10 9 = 8 then decIf z (.bsetAdd k b)
    else match decBField (fieldOf w 10 9) with
      | some f => decIf z (.bset k f b)
      | none => .error .code

/-- A word of the uniform set (R141, R145). -/
def decUni (w x : Nat) : Dec :=
  match fieldOf w 25 6 with
  | 0x00 => decGA3 .gadd w x
  | 0x01 => decGA3 .gsub w x
  | 0x02 => decGA3 .gmul w x
  | 0x03 => decGA3 .gmulh w x
  | 0x04 => decGA3 .gand w x
  | 0x05 => decGA3 .gor w x
  | 0x06 => decGA3 .gxor w x
  | 0x07 => decGA3 .gandn w x
  | 0x08 => decGA3 .gshl w x
  | 0x09 => decGA3 .gshr w x
  | 0x0A => decGA3 .gsar w x
  | 0x0B => decGA3 .gmin w x
  | 0x0C => decGA3 .gmax w x
  | 0x0D => decGB1 (fun b => .ok (.gmov (gdOf w) b)) w x
  | 0x0E => decGCMP w
  | 0x0F => decGUN w
  | 0x10 => decRDLANE w x
  | 0x11 => decGB1 (fun b => .ok (.mset (gdOf w) b)) w x
  | 0x12 => decGA3 .mand w x
  | 0x13 => decGA3 .mandn w x
  | 0x14 => decGA3 .mor w x
  | 0x15 => decGB1 (fun b => decIf [(decide (fieldOf w 19 6 = 0), .zero)] (.spadj b)) w x
  | 0x16 => decFENCE w
  | 0x17 => decPUBLISH w
  | 0x18 => decGB (fun c p h => decIf [(c == 0, .zero)] (.bra p h)) w
  | 0x19 => decGB (fun c p h => .ok (.bez c p h)) w
  | 0x1A => decGB (fun c p h => .ok (.bnz c p h)) w
  | 0x1B => decGB (fun c p h => .ok (.bmz c p h)) w
  | 0x1C => decGB (fun c p h => .ok (.bmnz c p h)) w
  | 0x1D => decGB (fun c p h => .ok (.call c p h)) w
  | 0x1E => decGB (fun c p h => .ok (.jmpr c p h)) w
  | 0x1F => decGB (fun c p h => .ok (.loop c p h)) w
  | 0x20 => decGA1 (fun a => decIf ((decide (fieldOf w 22 3 = 0), .zero) :: bxZero w) (.bar (BitVec.ofNat 3 (fieldOf w 19 3)) a)) w
  | 0x21 => decIf ((decide (fieldOf w 10 15 = 0), .zero) :: bxZero w) .cbar
  | 0x22 => decGB1 (decABAR w) w x
  | 0x23 => decGB1 (fun b => decIf [(decide (fieldOf w 22 3 = 0), .zero)] (.abwait (BitVec.ofNat 3 (fieldOf w 19 3)) b)) w x
  | 0x24 => decGAB (fun a b => .ok (.waitc (decWCond (fieldOf w 23 2)) (BitVec.ofNat 4 (fieldOf w 19 4)) a b)) w x
  | 0x25 => decGA1 (fun a => decIf [(decide (fieldOf w 19 6 = 0), .zero), (decide (fieldOf w 0 1 = 0), .extension), (decide (fieldOf w 4 6 = 0), .zero)] (.waitn (BitVec.ofNat 3 (fieldOf w 1 3)) a)) w
  | 0x26 => decGE0 [(decide (fieldOf w 19 6 = 0), .zero)] (.topen (gcOf w)) w
  | 0x27 => decSYS w
  | 0x28 => decGA1 (fun a => decIf ((decide (fieldOf w 20 5 = 0), .zero) :: bxZero w) (.tbrk (BitVec.ofNat 1 (fieldOf w 19 1)) a)) w
  | 0x29 => decTapeS (bxZero w) .tbpop w
  | 0x2A => match gbOf w x with
    | .ok b => decTapeS [] (fun s d => .tmark s d b) w
    | .error e => .error e
  | 0x2B => decTapeS (bxZero w) .trev w
  | 0x2C => decTapeS (bxZero w) .tclose w
  | 0x2D => decGE0 [] (.bcopy (gdOf w) (gcOf w)) w
  | 0x2E => decGE0 [] (.bcopym (gdOf w) (gcOf w)) w
  | 0x2F => decGE0 [] (.pstw (gdOf w) (gcOf w)) w
  | 0x30 => decGEB [(decide (fieldOf w 21 4 = 0), .zero)] (.tmma (BitVec.ofNat 2 (fieldOf w 19 2)) (gcOf w)) w x
  | 0x31 => decGEB [(decide (fieldOf w 23 2 = 0), .zero)] (.tdual (BitVec.ofNat 2 (fieldOf w 19 2)) (BitVec.ofNat 2 (fieldOf w 21 2)) (gcOf w)) w x
  | 0x32 => decGE0 [(decide (fieldOf w 21 4 = 0), .zero)] (.tprom (BitVec.ofNat 2 (fieldOf w 19 2)) (gcOf w)) w
  | 0x33 => decGEB [(decide (fieldOf w 21 4 = 0), .zero)] (.tsta (BitVec.ofNat 2 (fieldOf w 19 2)) (gcOf w)) w x
  | 0x34 => decGEB [(decide (fieldOf w 21 4 = 0), .zero)] (.tlda (BitVec.ofNat 2 (fieldOf w 19 2)) (gcOf w)) w x
  | 0x35 => decGE0 [(decide (fieldOf w 21 4 = 0), .zero)] (.tzero (BitVec.ofNat 2 (fieldOf w 19 2)) (gcOf w)) w
  | 0x36 => decGEB [] (.tmaxr (gdOf w) (gcOf w)) w x
  | 0x37 => decGA3 .ttag w x
  | 0x38 => decGAB (fun a b => decIf [(decide (fieldOf w 23 2 = 0), .zero)] (.bld (BitVec.ofNat 4 (fieldOf w 19 4)) a b)) w x
  | 0x39 => decBSET w x
  | 0x3A => decIf [(decide (fieldOf w 10 9 = 0), .zero), (decide (fieldOf w 0 1 = 0), .extension), (decide (fieldOf w 5 5 = 0), .zero)]
      (.bxlate (gdOf w) (BitVec.ofNat 4 (fieldOf w 1 4)))
  | 0x3B => decGE0 [] (.send (gdOf w) (gcOf w)) w
  | 0x3C => decGE0 [] (.rpost (gdOf w) (gcOf w)) w
  | 0x3D => decGE0 [] (.rprobe (gdOf w) (gcOf w)) w
  | 0x3E => decGE0 [] (.rcancel (gdOf w) (gcOf w)) w
  | 0x3F => decGAB (fun a b => decIf [(decide (fieldOf w 19 6 = 0), .zero)] (.cfire a b)) w x
  | _ => .error .opcode

/-- Decoding of a first word `w` and an extension word `x` (ignored by one-word instructions). -/
def decodeWords (w x : Nat) : Dec :=
  match if fieldOf w 31 1 = 0 then decLane w x else decUni w x with
  | .error e => .error e
  | .ok i =>
    match i.wfErr with
    | some e => .error e
    | none => .ok i

/-- The uniform opcodes whose B is a source selector, so that X = 1 adds an extension word (R142). -/
def bIsSource (op : Nat) : Bool :=
  decide (op ≤ 0x0D) || (decide (0x10 ≤ op) && decide (op ≤ 0x15)) || (decide (0x22 ≤ op) && decide (op ≤ 0x24)) ||
  op == 0x2A || op == 0x30 || op == 0x31 || op == 0x33 || op == 0x34 || (decide (0x36 ≤ op) && decide (op ≤ 0x39)) ||
  op == 0x3F

/-- Does an extension word follow `w` (R134, R140, R142)? -/
def twoWords (w : Nat) : Bool :=
  if fieldOf w 31 1 = 0 then decide (0x35 ≤ fieldOf w 25 6) && decide (fieldOf w 25 6 ≤ 0x3E)
  else bIsSource (fieldOf w 25 6) && decide (fieldOf w 0 10 = 1)

/-- The instruction at the head of a byte sequence and the number of bytes it takes; `none` where the bytes end too
early. -/
def decode (bs : List Byte) : Option (Except Illegal (Instr × Nat)) :=
  match bs with
  | b0 :: b1 :: b2 :: b3 :: rest =>
    let w := leNat [b0, b1, b2, b3]
    if twoWords w then
      match rest with
      | c0 :: c1 :: c2 :: c3 :: _ =>
        some (match decodeWords w (leNat [c0, c1, c2, c3]) with
          | .ok i => .ok (i, 8)
          | .error e => .error e)
      | _ => none
    else
      some (match decodeWords w 0 with
        | .ok i => .ok (i, 4)
        | .error e => .error e)
  | _ => none

/-- The instruction that the decoder reads from a word numbered as spec/opcode_table.json numbers it; bits above
`nbits` are 0. -/
def decodeTableWord (nbits w : Nat) : Option Instr :=
  match decode (leBytes 8 (w % 2 ^ nbits)) with
  | some (.ok (i, _)) => some i
  | _ => none

/-! The encoder: the words of an instruction, from the same tables. -/

/-- The code of a source (R136). -/
def Src.code : Src → Nat
  | .v r => r.toNat
  | .g r => 0x80 + r.toNat
  | .const c => 0xC0 + c.toNat
  | .special c => 0xE0 + c.toNat
  | .q n => 0xF0 + n.toNat

/-- The 9-bit selector. -/
def Sel.code (s : Sel) : Nat := s.src.code + (if s.t then 256 else 0)

/-- SCOPE (R144). -/
def Scope.code : Scope → Nat
  | .group => 0 | .team => 1 | .cluster => 2 | .die => 3 | .device => 4 | .system => 5 | .rteam => 6

/-- ORDER (R144). -/
def Order.code : Order → Nat
  | .plain => 0 | .acq => 1 | .rel => 2 | .acqRel => 3

/-- COND (R143). -/
def Cond.code : Cond → Nat
  | .eq => 0 | .ne => 1 | .lt => 2 | .ge => 3 | .le => 4 | .gt => 5 | .ord => 6 | .uno => 7
  | .ltu => 6 | .geu => 7 | .leu => 8 | .gtu => 9

/-- HINT (R141). -/
def Hint.code : Hint → Nat
  | .none => 0 | .likely => 1 | .unlikely => 2

/-- CVT's mode (R133). -/
def RMode.code : RMode → Nat
  | .rne => 0 | .rtz => 1 | .rdn => 2 | .rup => 3 | .sr => 4 | .cur => 7

/-- CVT's code (R133). -/
def CvtOp.code : CvtOp → Nat
  | .f32s32 => 0x00 | .f32u32 => 0x01 | .s32f32 => 0x02 | .u32f32 => 0x03
  | .f32bf16 h => if h then 0x05 else 0x04
  | .bf16f32 => 0x06
  | .f32f16 h => if h then 0x08 else 0x07
  | .f16f32 => 0x09
  | .f32e4m3 k => 0x10 + k.toNat | .f32e5m2 k => 0x14 + k.toNat
  | .e4m3f32 => 0x18 | .e5m2f32 => 0x19 | .f32e3m2 => 0x1A | .f32e2m3 => 0x1B | .e3m2f32 => 0x1C | .e2m3f32 => 0x1D
  | .f32e2m1 n => 0x20 + n.toNat
  | .e2m1f32 => 0x28
  | .f32s8 k => 0x2C + k.toNat
  | .s8f32 => 0x30

/-- AOP (07 R163). -/
def AOp.code : AOp → Nat
  | .add => 0 | .min => 1 | .max => 2 | .umin => 3 | .umax => 4 | .and => 5 | .or => 6 | .xor => 7
  | .fadd => 8 | .fmin => 9 | .fmax => 10 | .b2add => 11 | .xchg => 12 | .cas => 13

/-- XRED's mode (08 R196). -/
def XMode.code : XMode → Nat
  | .totalG => 0 | .totalV => 1 | .forerunner => 2 | .inclusive => 3

/-- ABO (11 R280). -/
def Abo.code : Abo → Nat
  | .none => 0
  | .obj k => 1 + k.toNat

/-- BSET's field code (07 R180). -/
def BField.code : BField → Nat
  | .baseLo => 0 | .baseHi => 1 | .ext0 => 2 | .ext1 => 3 | .stride0 => 4 | .stride1 => 5 | .w6 => 6 | .w7 => 7

/-- WAITC's condition (14 R366). -/
def WCond.code : WCond → Nat
  | .eq => 0 | .ne => 1 | .geu => 2 | .ltu => 3

/-- An LA, LM or LX first word (R140). -/
def encLA (op d a b : Nat) : Nat := op * 2 ^ 25 + d * 2 ^ 18 + a * 2 ^ 9 + b

/-- An LC word (R140). -/
def encLC (op c g a b : Nat) : Nat := op * 2 ^ 25 + c * 2 ^ 21 + g * 2 ^ 16 + a * 2 ^ 8 + b

/-- A GA or GE word (R141). -/
def encGA (op d a b x : Nat) : Nat := 2 ^ 31 + op * 2 ^ 25 + d * 2 ^ 19 + a * 2 ^ 10 + b * 2 + x

/-- A GB word (R141). -/
def encGB (op c p h : Nat) : Nat := 2 ^ 31 + op * 2 ^ 25 + c * 2 ^ 19 + p * 2 ^ 2 + h

/-- A GA or GE word with its B operand: one word, or two with an imm32 (R142). -/
def encGAB (op d a : Nat) : UOpd → List Nat
  | .sel s => [encGA op d a s.code 0]
  | .imm w => [encGA op d a 0 1, w.toNat]

/-- The words of an instruction; none for the steps that no word encodes. -/
def encode : Instr → List Nat
  | .iadd d a b => [encLA 0x00 d.toNat a.code b.code]
  | .isub d a b => [encLA 0x01 d.toNat a.code b.code]
  | .imul d a b => [encLA 0x02 d.toNat a.code b.code]
  | .imulh d a b => [encLA 0x03 d.toNat a.code b.code]
  | .imulhu d a b => [encLA 0x04 d.toNat a.code b.code]
  | .imad d a b => [encLA 0x05 d.toNat a.code b.code]
  | .imin d a b => [encLA 0x06 d.toNat a.code b.code]
  | .imax d a b => [encLA 0x07 d.toNat a.code b.code]
  | .umin d a b => [encLA 0x08 d.toNat a.code b.code]
  | .umax d a b => [encLA 0x09 d.toNat a.code b.code]
  | .and d a b => [encLA 0x0A d.toNat a.code b.code]
  | .or d a b => [encLA 0x0B d.toNat a.code b.code]
  | .xor d a b => [encLA 0x0C d.toNat a.code b.code]
  | .andn d a b => [encLA 0x0D d.toNat a.code b.code]
  | .shl d a b => [encLA 0x0E d.toNat a.code b.code]
  | .shr d a b => [encLA 0x0F d.toNat a.code b.code]
  | .sar d a b => [encLA 0x10 d.toNat a.code b.code]
  | .rot d a b => [encLA 0x11 d.toNat a.code b.code]
  | .bfe d a b => [encLA 0x16 d.toNat a.code b.code]
  | .bfi d a b => [encLA 0x17 d.toNat a.code b.code]
  | .clmul d a b => [encLA 0x18 d.toNat a.code b.code]
  | .clmulh d a b => [encLA 0x19 d.toNat a.code b.code]
  | .shfl d a b => [encLA 0x1A d.toNat a.code b.code]
  | .shflx d a b => [encLA 0x1B d.toNat a.code b.code]
  | .shflu d a b => [encLA 0x1C d.toNat a.code b.code]
  | .shfld d a b => [encLA 0x1D d.toNat a.code b.code]
  | .fadd d a b => [encLA 0x20 d.toNat a.code b.code]
  | .fsub d a b => [encLA 0x21 d.toNat a.code b.code]
  | .fmul d a b => [encLA 0x22 d.toNat a.code b.code]
  | .ffma d a b => [encLA 0x23 d.toNat a.code b.code]
  | .fmin d a b => [encLA 0x24 d.toNat a.code b.code]
  | .fmax d a b => [encLA 0x25 d.toNat a.code b.code]
  | .b2add d a b => [encLA 0x27 d.toNat a.code b.code]
  | .b2mul d a b => [encLA 0x28 d.toNat a.code b.code]
  | .b2fma d a b => [encLA 0x29 d.toNat a.code b.code]
  | .b2max d a b => [encLA 0x2A d.toNat a.code b.code]
  | .b2min d a b => [encLA 0x2B d.toNat a.code b.code]
  | .qexp d a b => [encLA 0x2F d.toNat a.code b.code]
  | .rnd d a b => [encLA 0x30 d.toNat a.code b.code]
  | .icmp c g a b => [encLC 0x12 c.code g.toNat a.code b.code]
  | .ucmp c g a b => [encLC 0x13 c.code g.toNat a.code b.code]
  | .fcmp c g a b => [encLC 0x14 c.code g.toNat a.code b.code]
  | .popc d a => [encLA 0x15 d.toNat a.code 0]
  | .clz d a => [encLA 0x15 d.toNat a.code 1]
  | .ctz d a => [encLA 0x15 d.toNat a.code 2]
  | .brev d a => [encLA 0x15 d.toNat a.code 3]
  | .bswap d a => [encLA 0x15 d.toNat a.code 4]
  | .sext8 d a => [encLA 0x15 d.toNat a.code 5]
  | .sext16 d a => [encLA 0x15 d.toNat a.code 6]
  | .zext8 d a => [encLA 0x15 d.toNat a.code 7]
  | .zext16 d a => [encLA 0x15 d.toNat a.code 8]
  | .not d a => [encLA 0x15 d.toNat a.code 9]
  | .neg d a => [encLA 0x15 d.toNat a.code 10]
  | .abs d a => [encLA 0x15 d.toNat a.code 11]
  | .xredAdd m d a => [encLA 0x1E d.toNat a.code (m.code * 16 + 0)]
  | .xredMin m d a => [encLA 0x1E d.toNat a.code (m.code * 16 + 1)]
  | .xredMax m d a => [encLA 0x1E d.toNat a.code (m.code * 16 + 2)]
  | .xredUmin m d a => [encLA 0x1E d.toNat a.code (m.code * 16 + 3)]
  | .xredUmax m d a => [encLA 0x1E d.toNat a.code (m.code * 16 + 4)]
  | .xredAnd m d a => [encLA 0x1E d.toNat a.code (m.code * 16 + 5)]
  | .xredOr m d a => [encLA 0x1E d.toNat a.code (m.code * 16 + 6)]
  | .xredXor m d a => [encLA 0x1E d.toNat a.code (m.code * 16 + 7)]
  | .xredFadd m d a => [encLA 0x1E d.toNat a.code (m.code * 16 + 8)]
  | .xredFmin m d a => [encLA 0x1E d.toNat a.code (m.code * 16 + 9)]
  | .xredFmax m d a => [encLA 0x1E d.toNat a.code (m.code * 16 + 10)]
  | .mov d a => [encLA 0x1F d.toNat a.code 0]
  | .fabs d a => [encLA 0x26 d.toNat a.code 0]
  | .fneg d a => [encLA 0x26 d.toNat a.code 1]
  | .frcp d a => [encLA 0x26 d.toNat a.code 2]
  | .frsq d a => [encLA 0x26 d.toNat a.code 3]
  | .fsqrt d a => [encLA 0x26 d.toNat a.code 4]
  | .fexp2 d a => [encLA 0x26 d.toNat a.code 5]
  | .flog2 d a => [encLA 0x26 d.toNat a.code 6]
  | .fsin d a => [encLA 0x26 d.toNat a.code 7]
  | .fcos d a => [encLA 0x26 d.toNat a.code 8]
  | .ftanh d a => [encLA 0x26 d.toNat a.code 9]
  | .ffrac d a => [encLA 0x26 d.toNat a.code 10]
  | .frnde d a => [encLA 0x26 d.toNat a.code 11]
  | .ftrunc d a => [encLA 0x26 d.toNat a.code 12]
  | .ffloor d a => [encLA 0x26 d.toNat a.code 13]
  | .fceil d a => [encLA 0x26 d.toNat a.code 14]
  | .cvt op m d a => [encLA 0x2C d.toNat a.code (m.code * 64 + op.code)]
  | .qscl d a t b => [encLA 0x2D d.toNat (a.toNat + (if t then 256 else 0)) b.code]
  | .qcvt d a t b => [encLA 0x2E d.toNat (a.toNat + (if t then 256 else 0)) b.code]
  | .ldl d a k sc o => [encLA 0x31 d.toNat a.code (k.toNat * 32 + sc.code * 4 + o.code)]
  | .stl d a k sc o => [encLA 0x32 d.toNat a.code (k.toNat * 32 + sc.code * 4 + o.code)]
  | .ldv d a k sc o => [encLA 0x33 d.toNat a.code (k.toNat * 32 + sc.code * 4 + o.code)]
  | .stv d a k sc o => [encLA 0x34 d.toNat a.code (k.toNat * 32 + sc.code * 4 + o.code)]
  | .atom op d a b c k sc o => [encLA 0x35 d.toNat a.code b.code,
      c.code * 2 ^ 18 + o.code * 2 ^ 16 + sc.code * 2 ^ 13 + op.code * 2 ^ 8 + k.toNat]
  | .red op a b k sc o => [encLA 0x36 0 a.code b.code,
      o.code * 2 ^ 16 + sc.code * 2 ^ 13 + op.code * 2 ^ 8 + k.toNat]
  | .put d a n k f abo => match f with
      | none => [encLA 0x37 d.toNat a.code 0, abo.code * 2 ^ 28 + n.toNat * 2 ^ 6 + k.toNat]
      | some (fb, b) => [encLA 0x37 d.toNat a.code b.code,
          abo.code * 2 ^ 28 + 2 ^ 27 + fb.toNat * 2 ^ 14 + n.toNat * 2 ^ 6 + k.toNat]
  | .ratom op ret a b c k abo => match ret with
      | none => [encLA 0x38 0 a.code b.code, abo.code * 2 ^ 28 + c.code * 2 ^ 18 + op.code * 2 ^ 8 + k.toNat]
      | some d => [encLA 0x38 d.toNat a.code b.code,
          abo.code * 2 ^ 28 + c.code * 2 ^ 18 + 2 ^ 13 + op.code * 2 ^ 8 + k.toNat]
  | .racc d a n k abo => [encLA 0x39 d.toNat a.code 0, abo.code * 2 ^ 28 + n.toNat * 2 ^ 6 + k.toNat]
  | .sel d a b c inv => [encLA 0x3A d.toNat a.code b.code, c.code + (if inv then 512 else 0)]
  | .spst d n off => [encLA 0x3B d.toNat 0 0, n.toNat * 2 ^ 16 + off.toNat]
  | .spld d n off => [encLA 0x3C d.toNat 0 0, n.toNat * 2 ^ 16 + off.toNat]
  | .trec d k s => [encLA 0x3D d.toNat 0 0, (match k with
      | .value n => n.toNat * 2 ^ 6
      | .lvalue f => 2 ^ 8 + 2 ^ 6 + f.toNat * 2 ^ 4
      | .index => 2 * 2 ^ 8) + s.toNat]
  | .tpop d k s => [encLA 0x3E d.toNat 0 0, (match k with
      | .value n => n.toNat * 2 ^ 6
      | .index => 2 * 2 ^ 8) + s.toNat]
  | .gadd d a b => encGAB 0x00 d.toNat a.code b
  | .gsub d a b => encGAB 0x01 d.toNat a.code b
  | .gmul d a b => encGAB 0x02 d.toNat a.code b
  | .gmulh d a b => encGAB 0x03 d.toNat a.code b
  | .gand d a b => encGAB 0x04 d.toNat a.code b
  | .gor d a b => encGAB 0x05 d.toNat a.code b
  | .gxor d a b => encGAB 0x06 d.toNat a.code b
  | .gandn d a b => encGAB 0x07 d.toNat a.code b
  | .gshl d a b => encGAB 0x08 d.toNat a.code b
  | .gshr d a b => encGAB 0x09 d.toNat a.code b
  | .gsar d a b => encGAB 0x0A d.toNat a.code b
  | .gmin d a b => encGAB 0x0B d.toNat a.code b
  | .gmax d a b => encGAB 0x0C d.toNat a.code b
  | .gmov d b => encGAB 0x0D d.toNat 0 b
  | .gcmp c d a b => [2 ^ 31 + encLC 0x0E c.code d.toNat a.code b.code]
  | .gpopc d a => [encGA 0x0F d.toNat a.code 0 0]
  | .gclz d a => [encGA 0x0F d.toNat a.code 1 0]
  | .gctz d a => [encGA 0x0F d.toNat a.code 2 0]
  | .gnot d a => [encGA 0x0F d.toNat a.code 3 0]
  | .gneg d a => [encGA 0x0F d.toNat a.code 4 0]
  | .gbrev d a => [encGA 0x0F d.toNat a.code 5 0]
  | .rdlane d a t b => encGAB 0x10 d.toNat (a.toNat + (if t then 256 else 0)) b
  | .mset d b => encGAB 0x11 d.toNat 0 b
  | .mand d a b => encGAB 0x12 d.toNat a.code b
  | .mandn d a b => encGAB 0x13 d.toNat a.code b
  | .mor d a b => encGAB 0x14 d.toNat a.code b
  | .spadj b => encGAB 0x15 0 0 b
  | .fence o sc => [encGA 0x16 0 0 (o.code * 8 + sc.code) 0]
  | .fenceFlush o sc => [encGA 0x16 0 0 (32 + o.code * 8 + sc.code) 0]
  | .publish sc a => [encGA 0x17 0 a.code sc.code 0]
  | .bra p h => [encGB 0x18 0 p.toNat h.code]
  | .bez c p h => [encGB 0x19 c.toNat p.toNat h.code]
  | .bnz c p h => [encGB 0x1A c.toNat p.toNat h.code]
  | .bmz c p h => [encGB 0x1B c.toNat p.toNat h.code]
  | .bmnz c p h => [encGB 0x1C c.toNat p.toNat h.code]
  | .call c p h => [encGB 0x1D c.toNat p.toNat h.code]
  | .jmpr c p h => [encGB 0x1E c.toNat p.toNat h.code]
  | .loop c p h => [encGB 0x1F c.toNat p.toNat h.code]
  | .bar n a => [encGA 0x20 n.toNat a.code 0 0]
  | .cbar => [encGA 0x21 0 0 0 0]
  | .abarAdd k b => encGAB 0x22 k.toNat 0 b
  | .abarSub k b => encGAB 0x22 (k.toNat + 8) 0 b
  | .abarSet k b => encGAB 0x22 (k.toNat + 16) 0 b
  | .abwait k b => encGAB 0x23 k.toNat 0 b
  | .waitc c k a b => encGAB 0x24 (c.code * 16 + k.toNat) a.code b
  | .waitn p a => [encGA 0x25 0 a.code p.toNat 0]
  | .topen g => [encGA 0x26 0 (0x80 + g.toNat) 0 0]
  | .nop => [encGA 0x27 0 0 0 0]
  | .exit => [encGA 0x27 0 0 1 0]
  | .brkpt => [encGA 0x27 0 0 3 0]
  | .yield => [encGA 0x27 0 0 4 0]
  | .eret => [encGA 0x27 0 0 7 0]
  | .trap a => [encGA 0x27 0 a.code 2 0]
  | .srd d a => [encGA 0x27 d.toNat a.code 5 0]
  | .swr n a => [encGA 0x27 n.toNat a.code 6 0]
  | .genfence d => [encGA 0x27 d.toNat 0 8 0]
  | .rtswap d => [encGA 0x27 d.toNat 0 9 0]
  | .tlbi g => [encGA 0x27 0 (0x80 + g.toNat) 10 0]
  | .tacq a => [encGA 0x27 0 a.code 11 0]
  | .tbrk s a => [encGA 0x28 s.toNat a.code 0 0]
  | .tbpop s d => [encGA 0x29 d.toNat s.toNat 0 0]
  | .tmark s d b => encGAB 0x2A d.toNat s.toNat b
  | .trev s d => [encGA 0x2B d.toNat s.toNat 0 0]
  | .tclose s d => [encGA 0x2C d.toNat s.toNat 0 0]
  | .bcopy d g => [encGA 0x2D d.toNat (0x80 + g.toNat) 0 0]
  | .bcopym d g => [encGA 0x2E d.toNat (0x80 + g.toNat) 0 0]
  | .pstw d g => [encGA 0x2F d.toNat (0x80 + g.toNat) 0 0]
  | .tmma e g b => encGAB 0x30 e.toNat (0x80 + g.toNat) b
  | .tdual x w g b => encGAB 0x31 (w.toNat * 4 + x.toNat) (0x80 + g.toNat) b
  | .tprom e g => [encGA 0x32 e.toNat (0x80 + g.toNat) 0 0]
  | .tsta e g b => encGAB 0x33 e.toNat (0x80 + g.toNat) b
  | .tlda e g b => encGAB 0x34 e.toNat (0x80 + g.toNat) b
  | .tzero e g => [encGA 0x35 e.toNat (0x80 + g.toNat) 0 0]
  | .tmaxr d g b => encGAB 0x36 d.toNat (0x80 + g.toNat) b
  | .ttag d a b => encGAB 0x37 d.toNat a.code b
  | .bld k a b => encGAB 0x38 k.toNat a.code b
  | .bset k f b => encGAB 0x39 k.toNat f.code b
  | .bsetAdd k b => encGAB 0x39 k.toNat 8 b
  | .bxlate d k => [encGA 0x3A d.toNat 0 k.toNat 0]
  | .send d g => [encGA 0x3B d.toNat (0x80 + g.toNat) 0 0]
  | .rpost d g => [encGA 0x3C d.toNat (0x80 + g.toNat) 0 0]
  | .rprobe d g => [encGA 0x3D d.toNat (0x80 + g.toNat) 0 0]
  | .rcancel d g => [encGA 0x3E d.toNat (0x80 + g.toNat) 0 0]
  | .cfire a b => encGAB 0x3F 0 a.code b
  | .copyPiece _ _ => []
  | .copyTagRequeue _ _ => []
  | .copyCompletion _ _ => []
  | .followOnFire _ _ => []
  | .q3HeldRelease _ => []
  | .snapshotOpen _ _ _ _ => []
  | .snapshotClose _ _ => []
  | .l2RangeWrite _ _ _ => []
  | .l2PinSweep _ => []
  | .directoryRequest _ _ _ _ => []
  | .longLatencyWrite _ _ => []
  | .monitorReread _ => []
  | .tileStart _ _ => []
  | .tileComplete _ _ => []
  | .tapeDrain _ _ => []
  | .tapeFetch _ _ => []
  | .putPacket _ _ => []
  | .ratomPacket _ _ => []
  | .raccPacket _ _ => []
  | .ackReceive _ _ => []
  | .rdataReceive _ _ _ => []
  | .nackReceive _ _ _ => []
  | .busyResend _ => []
  | .transferTimeout _ => []
  | .flitRetransmit _ => []
  | .portDead _ => []
  | .rateRecover => []
  | .collectiveActivate _ _ _ => []
  | .collPacket _ _ => []
  | .msgPacket _ _ => []
  | .rtsPacket _ => []
  | .pullPacket _ _ _ _ => []
  | .pdataPacket _ _ _ _ _ => []
  | .receiveCompletion _ _ => []
  | .q2HeldRelease _ => []
  | .migrationStep _ _ => []
  | .faultRequest _ _ _ _ _ => []
  | .nodeStart _ _ _ => []
  | .waitSatisfied _ _ => []
  | .nodeCompletion _ _ => []
  | .teamDispatch _ => []
  | .teamExit _ => []
  | .teamSwapOut _ => []
  | .activeSetRotation _ _ => []
  | .preemptTrigger _ _ => []
  | .invarPositionSwap _ _ => []
  | .invarWake _ => []
  | .preemptionRequest _ => []
  | .contextSave _ => []
  | .tlbiDrained _ => []
  | .accxferSave _ => []
  | .accxferLoad _ => []
  | .registerWrite _ _ _ => []
  | .notify _ _ => []
  | .evheadWrite _ => []
  | .apertureAccess _ _ => []
  | .debugResume _ _ => []
  | .init _ _ _ _ => []
  | .ctxnew _ _ _ _ _ _ _ _ _ => []
  | .ctxdel _ _ => []
  | .load _ _ _ _ => []
  | .segmentLoad => []
  | .keyadd _ _ _ _ _ _ => []
  | .quote _ _ => []
  | .stepstart _ _ _ _ => []
  | .answer _ _ _ => []
  | .migrate _ _ _ _ _ => []
  | .rtable _ _ => []
  | .abort _ _ => []
  | .join _ _ => []
  | .fabcfg _ _ => []
  | .fabreset _ => []
  | .drain _ => []
  | .fwpush _ _ => []
  | .heartbeat => []
  | .selfCheckResult _ => []
  | .watcherCheck _ _ => []
  | .accusationResult _ _ => []
  | .trafficHold => []
  | .stripeLanded _ _ _ _ => []
  | .powerOn => []
  | .moduleReset => []
  | .trainingComplete _ _ _ _ => []
  | .powerLoss => []
  | .sensorSample _ => []
  | .alarmClear _ => []
  | .offRequest => []
  | .forceOff => []
  | .unitFailure _ => []
  | .linkAcknowledgement _ _ => []
  | .malformedPacket _ => []

/-- The bytes of an instruction as memory holds them (R4). -/
def encodeBytes (i : Instr) : List Byte := (encode i).flatMap (leBytes 4)

end Sys2Proof
end

