-- ==== Sys2Proof/Machine/TapeRec.lean ====
section
/-! DEFINITION. The records of a tape (spec/10 R244 to R247, R262): encoding into words and decoding from them. -/

namespace Sys2Proof.Machine

/-- Record kinds (10 R244). -/
inductive RKind where
  | value | lvalue | decision | index | mark | link | reserved
deriving DecidableEq, Repr

/-- KIND codes. -/
def RKind.code : RKind → Nat
  | .value => 0 | .lvalue => 1 | .decision => 2 | .index => 3 | .mark => 4 | .link => 5 | .reserved => 6

/-- KIND of a header. -/
def hdrKind (h : W32) : RKind :=
  match fieldOf h.toNat 29 3 with
  | 0 => .value | 1 => .lvalue | 2 => .decision | 3 => .index | 4 => .mark | 5 => .link | _ => .reserved
/-- NM1. -/
def hdrNm1 (h : W32) : Nat := fieldOf h.toNat 27 2
/-- SUB. -/
def hdrSub (h : W32) : Nat := fieldOf h.toNat 24 3
/-- LEN. -/
def hdrLen (h : W32) : Nat := fieldOf h.toNat 16 8
/-- TAG. -/
def hdrTag (h : W32) : BitVec 16 := h.truncate 16

/-- A header word. -/
def mkHdr (k : RKind) (nm1 sub len : Nat) (tag : BitVec 16) : W32 :=
  BitVec.ofNat 32 (k.code * 2 ^ 29 + nm1 * 2 ^ 27 + sub * 2 ^ 24 + len * 2 ^ 16 + tag.toNat)

/-- The words of a record: header, payload, trailer. -/
def recWords (k : RKind) (nm1 sub : Nat) (tag : BitVec 16) (payload : List W32) : List W32 :=
  let h := mkHdr k nm1 sub payload.length tag
  h :: payload ++ [h]

/-- Words as bytes (00 R4). -/
def wordBytes (ws : List W32) : List Byte := ws.flatMap (fun w => leBytes 4 w.toNat)

/-- Bytes as words. -/
def bytesWords : Nat → List Byte → List W32
  | 0, _ => []
  | n + 1, bs => BitVec.ofNat 32 (leNat (bs.take 4)) :: bytesWords n (bs.drop 4)

/-- The active threads of a mask, ascending. -/
def actives (m : BitVec 16) : List Nat := (List.range 16).filter (fun t => m.getLsbD t)

/-- The deltas of one register (10 R245): the mask of the non-zero ones and their list; `idx` codes an INDEX record. -/
def deltas (idx : Bool) : Nat → W32 → List W32 → Nat × List W32
  | _, _, [] => (0, [])
  | k, prev, w :: ws =>
    let e := if idx then w - prev - 1 else w ^^^ prev
    let r := deltas idx (k + 1) w ws
    if e = 0 then r else (r.1 + 2 ^ k, e :: r.2)

/-- The lanes of one register, from its mask and its list (10 R245): the lanes and what is left of the list. -/
def undelta (idx : Bool) (mask : Nat) : Nat → W32 → Nat → List W32 → List W32 × List W32
  | 0, _, _, l => ([], l)
  | n + 1, prev, k, l =>
    let e : W32 := if mask / 2 ^ k % 2 = 1 then l.headD 0 else 0
    let rest := if mask / 2 ^ k % 2 = 1 then l.tail else l
    let w := if idx then prev + 1 + e else prev ^^^ e
    let r := undelta idx mask n w (k + 1) rest
    (w :: r.1, r.2)

/-- The start of the deltas: 0, or 0xFFFFFFFF for an INDEX record. -/
def delta0 (idx : Bool) : W32 := if idx then 0xFFFFFFFF else 0

/-- Masks paired into words. -/
def packMasks : List Nat → List W32
  | [] => []
  | [a] => [BitVec.ofNat 32 a]
  | a :: b :: l => BitVec.ofNat 32 (a + 65536 * b) :: packMasks l

/-- The payload of a VALUE or INDEX record (10 R245): the registers' lanes, already restricted to active threads. -/
def packLanes (idx : Bool) (regs : List (List W32)) : List W32 :=
  let ds := regs.map (fun l => deltas idx 0 (delta0 idx) l)
  packMasks (ds.map (fun d => d.1)) ++ (ds.map (fun d => d.2)).flatten

/-- The lanes of the registers of a VALUE or INDEX payload, for `m` active threads. -/
def unpackLanes (idx : Bool) (masks : List Nat) (m : Nat) (l : List W32) : List (List W32) :=
  match masks with
  | [] => []
  | k :: ks =>
    let r := undelta idx k m (delta0 idx) 0 l
    r.1 :: unpackLanes idx ks m r.2

/-- Mask `i` of a payload. -/
def maskAt (payload : List W32) (i : Nat) : Nat := (payload.getD (i / 2) 0).toNat / 2 ^ (16 * (i % 2)) % 65536

/-- Lanes of active threads spread over the sixteen threads; the others read 0. -/
def spread (act : List Nat) (vals : List W32) : List W32 :=
  (List.range 16).map (fun t => match act.idxOf? t with
    | some k => vals.getD k 0
    | none => 0)

/-- The FMT code of an LVALUE record's SUB (10 R244). -/
def subFmt (sub : Nat) : Nat := match sub with | 0 => 0x14 | 1 => 0x10 | 2 => 0x18 | _ => 0x1A

/-- The payload of an LVALUE record (10 R246): the 32 elements are FP32 patterns, `rnd e` the random bits of element e. -/
def packBlock (sub : Nat) (mode : RMode) (rnd : Nat → Nat) (els : List W32) : List W32 :=
  let fmt := subFmt sub
  let vs := els.map (fun w => unpack fp32 w.toNat)
  let c := blockScale fmt vs
  let codes := (vs.zipIdx).map (fun p => (narrowIn fmt c mode (rnd p.2) p.1).bits)
  let w := (blockElem fmt).width
  let bits := (codes.zipIdx).foldl (fun a p => a + p.1 * 2 ^ (w * p.2)) 0
  BitVec.ofNat 32 c :: (List.range w).map (fun i => BitVec.ofNat 32 (bits / 2 ^ (32 * i)))

/-- The values of the 32 elements of an LVALUE payload (10 R246, R262). -/
def unpackBlock (sub : Nat) (payload : List W32) : List FVal :=
  let fmt := subFmt sub
  let w := (blockElem fmt).width
  let c := (payload.headD 0).toNat % (if isKX fmt then 1024 else 256)
  let bits := (payload.tail.zipIdx).foldl (fun a p => a + p.1.toNat * 2 ^ (32 * p.2)) 0
  (List.range 32).map (fun j => widenIn fmt c (bits / 2 ^ (w * j) % 2 ^ w))

/-- A widened element placed in its lane (10 R262). -/
def placeWiden (widen : Nat) (rnd : Nat) (v : FVal) : W32 :=
  match widen with
  | 1 => BitVec.ofNat 32 ((narrow bf16 .rne 0 v).bits * 65536)
  | 2 => BitVec.ofNat 32 ((narrow bf16 .sr rnd v).bits * 65536)
  | _ => BitVec.ofNat 32 (narrow fp32 .rne 0 v).bits

/-- The lanes of the registers of a fetched record (10 R261, R262, R264): `widen` and `rnd` are for LVALUE. -/
def recLanes (h : TapeHead) (widen : Nat) (rnd : Nat → Nat) : List (List W32) :=
  let act := actives (hdrTag h.hdr)
  match hdrKind h.hdr with
  | .lvalue =>
    let vs := unpackBlock (hdrSub h.hdr) h.body
    let ws := (vs.zipIdx).map (fun p => placeWiden widen (rnd p.2) p.1)
    let half := fun (b : Nat) => (List.range 16).map (fun t =>
      if (hdrTag h.hdr).getLsbD t then ws.getD (2 * t + b) 0 else 0)
    [half 0, half 1]
  | k =>
    let idx := k == .index
    let n := if idx then 1 else hdrNm1 h.hdr + 1
    let masks := (List.range n).map (maskAt h.body)
    (unpackLanes idx masks act.length (h.body.drop ((n + 1) / 2))).map (spread act)

/-- The largest encoded size of a record (10 R255). -/
def maxRec (k : RKind) (n sub : Nat) : Nat :=
  match k with
  | .value => 8 + 4 * ((n + 1) / 2) + 64 * n
  | .lvalue => if sub = 0 ∨ sub = 3 then 28 else 44
  | .index => 76
  | _ => 12

end Sys2Proof.Machine
end

