-- ==== Sys2Proof/Machine/Operands.lean ====
section
/-! DEFINITION. Operands: source selectors with their full and empty bits (spec/05 R111 to R115, 06 R136 to R139),
queue reads with their checks (10 R259, R260, R264; 12 R319), destinations, and `run`, the frame of every
instruction. -/

namespace Sys2Proof.Machine

/-- The uniform register that a 6-bit field names in the current group. -/
def State.gn (s : State) (r : BitVec 6) : Nat := s.g.gName r.toNat
/-- The destination of a lane instruction. -/
def dv (d : BitVec 7) : DReg := .v d.toNat
/-- The destination of a uniform instruction. -/
def State.dg (s : State) (d : BitVec 6) : DReg := .g (s.gn d)

/-- A stream of a group. -/
def Group.stream (g : Group) (sl : Bool) : Stream := if sl then g.s1 else g.s0
/-- A stream of a group replaced. -/
def Group.setStream (g : Group) (sl : Bool) (x : Stream) : Group := if sl then { g with s1 := x } else { g with s0 := x }
/-- A stream of the current group changed. -/
def State.modStream (s : State) (sl : Bool) (f : Stream → Stream) : State :=
  s.modG (fun g => g.setStream sl (f (g.stream sl)))
/-- The stream that Q0 and Q1 read (10 R264). -/
def State.qstream (s : State) : Stream := s.g.stream s.g.y.qsel

/-- A source that the waiting instruction has read already (06 R138, 05 R115): its value for thread `t`. -/
def State.sample (s : State) (x : Src) (t : Nat) : Option W32 :=
  (s.g.y.sampled.find? (fun p => decide (p.1 = x))).map (fun p => p.2.getD t 0)

/-- Is a source empty (05 R112, R115; 10 R264)? -/
def State.srcEmpty (s : State) (x : Src) : Bool :=
  (s.sample x 0).isNone && match x with
  | .v r => s.g.r.emptyV r.toNat
  | .g r => s.g.r.emptyG (s.gn r)
  | .q n =>
    match n.toNat with
    | 2 => s.t.q2.isEmpty
    | 3 => s.g.y.q3.isEmpty
    | _ => decide (s.qstream.st = .replay) && s.qstream.head.isNone && decide (s.qstream.pos ≠ 0)
  | _ => false

/-- Is a destination empty (R113)? -/
def State.destEmpty (s : State) (d : DReg) : Bool :=
  match d with
  | .v r => s.g.r.emptyV r
  | .g r => s.g.r.emptyG r

/-- The B registers that a queued tile instruction will read: base and count (09 R213, R216). -/
def TileOp.bregs (o : TileOp) : Nat × Nat :=
  match o with
  | .tmma _ ctl _ _ =>
    if ctl.getLsbD 27 then (0, 0) else (fieldOf ctl.toNat 16 7, if isBlock (fieldOf ctl.toNat 8 8) then 18 else 16)
  | .tdual _ _ ctl _ _ => (fieldOf ctl.toNat 16 7, 16)
  | _ => (0, 0)

/-- Does a tile instruction of the group's quartet, queued, waiting to enter the queue again after a restore (09 R236), or
started, still have to read a V register (09 R213)? -/
def State.locked (s : State) (d : DReg) : Bool :=
  match d with
  | .v r => ((s.core s.cn).queue ++ (s.core s.cn).running.filter (fun c => c.unread) ++ s.t.savedTiles).any (fun c =>
      decide (c.team = teamOf s.cur) && decide (c.g / 4 = idxOf s.cur / 4) &&
        decide (c.op.bregs.1 ≤ r) && decide (r < c.op.bregs.1 + c.op.bregs.2))
  | .g _ => false

/-- Has an XRED left a register empty: its write is on its way and counts on no path (05 R111, 08 R196)? -/
def State.xredLeft (s : State) (d : DReg) : Bool := s.g.y.pend.any (fun p => p.path.isNone && p.dests.any (fun x => x.reg == d))

/-- The register that a source names, for the errors kept with registers. -/
def State.srcReg (s : State) (x : Src) : Option DReg :=
  match x with
  | .v r => some (.v r.toNat)
  | .g r => some (.g (s.gn r))
  | _ => none

/-- The path-7 entry cleared: the failure is reported, so no return register of a failed RATOM reports it again (11 R288). -/
def GSync.clear7 (y : GSync) : GSync := { y with fab7 := none, errs := y.errs.filter (fun e => decide (e.2 ≠ .fabric)) }

/-- What a group waits for when a source is empty (15 R398). -/
def State.waitOf (s : State) (x : Src) : Wait :=
  match x with
  | .q n => if n.toNat < 2 then .tape else .queue
  | _ => if (s.srcReg x).any s.xredLeft then .short else .reg

/-- The trap that the reader of a register takes (16 R417, 11 R288), and the state without its cause. -/
def State.regErr (s : State) (d : DReg) : Option Res :=
  (s.g.y.errs.find? (fun e => e.1.contains d)).map (fun e =>
    let s1 := s.modY (fun y => { y with errs := y.errs.erase e })
    match e.2 with
    | .data sub v => .trap ⟨0x18, sub, v, 0⟩ s1
    | .fabric =>
      let f := s.g.y.fab7.getD ⟨0, 0, 0⟩
      .trap ⟨0x14, f.code, f.addr, 0⟩ (s1.modY GSync.clear7))

/-- What a replay instruction asks of the head record (10 R259). -/
inductive HeadWant where
  | value (n : Nat)
  | index
  | decision
  | q0
  | mark (id : BitVec 16)
deriving DecidableEq, Repr

/-- The divergence code of a head that is not what an instruction asks for (R259, R264). -/
def HeadWant.code (w : HeadWant) (h : TapeHead) (q0 : Nat) : Option Nat :=
  let k := hdrKind h.hdr
  match w with
  | .value n => if (k = .value ∨ k = .lvalue) ∧ hdrNm1 h.hdr + 1 = n ∧ q0 = 0 then none else some 1
  | .index => if k = .index ∧ q0 = 0 then none else some 1
  | .decision => if k = .decision then none else some 1
  | .q0 => if k = .value ∨ k = .lvalue ∨ k = .index then none else some 1
  | .mark id => if k = .mark then (if hdrTag h.hdr = id then none else some 3) else some 1

/-- A divergence fault (R259, R260). -/
def divTrap (code off : Nat) (mask : BitVec 16) : Trap := ⟨0x13, code, BitVec.ofNat 64 off, mask⟩

/-- The head record of a stream in REPLAY popped: the position steps back over it and the count rises (R258, R261). -/
def Stream.pop (x : Stream) : Stream :=
  match x.head with
  | some h => { x with head := none, pos := h.off, q0 := 0, popped := x.popped + 1 }
  | none => x

/-- The checks of a replay read (10 R259, R260, R267, R268): the trap or wait, or the state with EXM adopted. -/
def State.headCheck (s : State) (sl : Bool) (w : HeadWant) : Except Res State :=
  let x := s.g.stream sl
  match x.st with
  | .failed => .error (.trap (Trap.mk2 0x11 5) s)
  | .replay =>
    match x.head with
    | none => if x.pos = 0 then .error (.trap (divTrap 4 0 0) s) else .error (.block .tape s)
    | some h =>
      if h.bad then
        .error (.trap ⟨0x18, 3, BitVec.ofNat 64 h.off, 0⟩ (s.modStream sl Stream.pop))
      else if !h.good then .error (.trap (divTrap 5 h.off 0) s)
      else match w.code h x.q0 with
        | some c => .error (.trap (divTrap c h.off 0) s)
        | none =>
          if hdrKind h.hdr = .mark ∨ hdrTag h.hdr = s.g.r.exm then .ok s
          else if x.divp then .ok (s.modR (fun r => { r with exm := hdrTag h.hdr }))
          else .error (.trap (divTrap 2 h.off (hdrTag h.hdr)) s)
  | _ => .error (.trap (Trap.mk2 0x11 1) s)

/-- The faults of one source at execution (06 R148 rank 5). -/
def State.srcFault (s : State) (x : Src) : Except Res State :=
  if (s.sample x 0).isSome then .ok s
  else match x with
  | .q n =>
    match n.toNat with
    | 0 => s.headCheck s.g.y.qsel .q0
    | 1 => s.headCheck s.g.y.qsel .decision
    | 2 =>
      let e := s.t.q2.headD 0
      if fieldOf e.toNat 15 3 = 5 then
        .error (.trap ⟨0x18, 4, e.zeroExtend 64, 0⟩ (s.modTeam (teamOf s.cur) (fun t => { t with q2 := t.q2.tail })))
      else .ok s
    | _ => .ok s
  | _ =>
    match (s.srcReg x).bind s.regErr with
    | some r => .error r
    | none => .ok s

/-- The faults of several sources, in field order. -/
def State.srcFaults (s : State) : List Src → Except Res State
  | [] => .ok s
  | x :: xs =>
    match s.srcFault x with
    | .error r => .error r
    | .ok s1 => State.srcFaults s1 xs

/-- R113 and R112 for an instruction's destinations and sources, the array's hold on registers (09 R213), then the
faults of its sources. An empty destination blocks first, whatever the T bits of the sources (R113, 08 R183); of several
empty sources the first in field order decides (DEDUCED, log 17). -/
def State.ready (s : State) (sels : List Sel) (dests : List DReg) : Except Res State :=
  if dests.any s.destEmpty then .error (.block .short s)
  else match sels.find? (fun x => s.srcEmpty x.src) with
    | some x =>
      if x.t then .error (.trap (Trap.mk2 4 (BitVec.ofNat 64 x.code)) s) else .error (.block (s.waitOf x.src) s)
    | none =>
      if dests.any s.locked then .error (.block .array s)
      else s.srcFaults (sels.map (fun x => x.src))

/-! Values. -/

/-- An inline constant (06 R137). -/
def constVal (c : Nat) : W32 :=
  match c with
  | 16 => 0xFFFFFFFF | 17 => 0x80000000 | 18 => 0x3F000000 | 19 => 0x3F800000 | 20 => 0x40000000
  | 21 => 0x40800000 | 22 => 0xBF800000 | 23 => 0xBF000000 | 24 => 0x3FB8AA3B | 25 => 0x3F317218
  | 26 => 0x7F800000 | 27 => 0x7F7FFFFF | 28 => 0x0000FFFF | 29 => 0x00FF00FF | 30 => 0x3F803F80
  | 31 => 0x3F003F00 | n => BitVec.ofNat 32 n

/-- The count that CLK reads (06 R138, 15 R406). -/
def State.clkCount (s : State) : Nat := if s.coreInvar s.cn then s.g.y.retired else s.clock

/-- A special (06 R138) for thread `t`. -/
def State.special (s : State) (c t : Nat) : W32 :=
  match c with
  | 0 => BitVec.ofNat 32 t
  | 1 => BitVec.ofNat 32 (idxOf s.cur)
  | 2 => BitVec.ofNat 32 s.t.rank
  | 3 => BitVec.ofNat 32 s.t.gx
  | 4 => BitVec.ofNat 32 s.t.gy
  | 5 => BitVec.ofNat 32 s.t.gz
  | 6 => s.g.r.exm.zeroExtend 32
  | 7 => BitVec.ofNat 32 s.clkCount
  | 8 => s.g.sys.clkh
  | 9 => match s.link.mem.rank with
    | some r => BitVec.ofNat 32 r
    | none => 0xFFFFFFFF
  | 10 => s.link.mem.gen.zeroExtend 32
  | 11 => BitVec.ofNat 32 s.cn
  | 12 => s.l.seed
  | 13 => s.g.sys.rmode
  | 15 => s.g.r.spp
  | _ => 0

/-- A decision as read (10 R263): the taken mask and the recorded EXM. -/
def TapeHead.decision (h : TapeHead) : W32 :=
  ((h.body.headD 0).truncate 16 : BitVec 16).zeroExtend 32 ||| ((hdrTag h.hdr).zeroExtend 32 <<< 16)

/-- The tensor control block of a stream's region record (10 R239). -/
def State.streamTcb (s : State) (x : Stream) : Tcb := (s.tcb (.core s.cn) (s.ctxNoG s.cur) (rTcb x.region)).1

/-- The registers of a stream's head record (10 R261, R262): rounding under SR follows 05 R132's tape row with the
replay count. -/
def State.headLanes (s : State) (x : Stream) (h : TapeHead) : List (List W32) :=
  let tc := s.streamTcb x
  recLanes h tc.widen (fun e =>
    rnd16 false (philox (BitVec.ofNat 32 x.popped) (BitVec.ofNat 32 e) 3 1 s.l.seed tc.seed))

/-- The half in hand given to the copy engine to drain, unless the other one is still being drained (10 R241). -/
def Stream.ask (x : Stream) : Stream := if x.full = 0 then { x with full := x.stage.length } else x

/-- The value that a source gives thread `t` when it is read (06 R136, 05 R115). -/
def State.freshVal (s : State) (x : Src) (t : Nat) : W32 :=
  match x with
  | .v r => s.g.r.getV r.toNat t
  | .g r => s.g.r.getG (s.gn r)
  | .const c => constVal c.toNat
  | .special c => s.special c.toNat t
  | .q n =>
    match n.toNat with
    | 0 =>
      match s.qstream.head with
      | some h => ((s.headLanes s.qstream h).getD s.qstream.q0 []).getD t 0
      | none => 0
    | 1 =>
      match s.qstream.head with
      | some h => h.decision
      | none => 0
    | 2 => s.t.q2.headD 0
    | _ => s.g.y.q3.headD 0

/-- The value of a source for thread `t`: a special or a queue entry is read once, when the instruction issues (06 R138,
05 R115). -/
def State.laneVal (s : State) (x : Src) (t : Nat) : W32 := (s.sample x t).getD (s.freshVal x t)

/-- The value of a source in a uniform word. -/
def State.uniVal (s : State) (x : Src) : W32 := s.laneVal x 0

/-- The value of a uniform B operand (06 R142). -/
def State.uval (s : State) (b : UOpd) : W32 :=
  match b with
  | .sel x => s.uniVal x.src
  | .imm w => w

/-- The bytes of a uniform instruction with a B operand. -/
def uLen : UOpd → Nat
  | .sel _ => 4
  | .imm _ => 8

/-- The number of registers that Q0 gives from a head record. -/
def TapeHead.regs (h : TapeHead) : Nat :=
  match hdrKind h.hdr with
  | .lvalue => 2
  | .index => 1
  | _ => hdrNm1 h.hdr + 1

/-- One register of the head read through Q0: the record is popped after its last (10 R264). -/
def Stream.q0pop (x : Stream) : Stream :=
  match x.head with
  | some h => if x.q0 + 1 < h.regs then { x with q0 := x.q0 + 1 } else x.pop
  | none => x

/-- What a source read leaves behind: a pop (05 R115), or the high half that CLKH reads (06 R138). -/
def State.popSrc (s : State) (x : Src) : State :=
  if (s.sample x 0).isSome then s
  else match x with
  | .q n =>
    match n.toNat with
    | 0 => s.modStream s.g.y.qsel Stream.q0pop
    | 1 => s.modStream s.g.y.qsel Stream.pop
    | 2 => s.modTeam (teamOf s.cur) (fun t => { t with q2 := t.q2.tail })
    | _ => s.modY (fun y => { y with q3 := y.q3.tail })
  | .special c =>
    if c.toNat = 7 then s.modSys (fun y => { y with clkh := BitVec.ofNat 32 (s.clkCount / 2 ^ 32) }) else s
  | _ => s

/-- What all source reads of an instruction leave behind. -/
def State.popSrcs (s : State) (l : List Src) : State := l.foldl State.popSrc s

/-- Does a source read change what a later read gives? -/
def onceRead : Src → Bool
  | .special _ => true
  | .q _ => true
  | _ => false

/-- Does a source read the replayed stream? -/
def readsStream : Src → Bool
  | .q n => decide (n.toNat < 2)
  | _ => false

/-- What a waiting instruction would give back if it trapped (06 R135): `s` is the state before it read its sources. -/
def State.undoOf (s : State) (l : List Src) : BitVec 16 × W32 × Option Stream :=
  (s.g.r.exm, s.g.sys.clkh, if l.any readsStream then some s.qstream else none)

/-- An instruction that waits has read its sources: `s` is the state before, and `s0` the one in which it read them. Its
specials and queue entries are kept, and the entries are popped, once per executed instruction (05 R115, 06 R138); what
they changed is noted, should the instruction trap after all (06 R135). -/
def State.sampleSrcs (s1 s s0 : State) (l : List Src) : State :=
  let new := (l.filter (fun x => onceRead x && (s0.sample x 0).isNone)).map (fun x => (x, (List.range 16).map (s0.freshVal x)))
  if new.isEmpty then s1
  else (s1.popSrcs l).modY (fun y =>
    { y with sampled := y.sampled ++ new, undo := y.undo.or (some (s.undoOf l)) })

/-- The pops of an instruction that retires; a trap leaves the state as it was before the instruction
(06 R135). `s` is that state, and `s0` the one that the sources are read from. One that parks pops nothing, and when RETRY
executes it again it samples its sources anew (06 R138 says of neither; DESIGN CHOICE, log 144). -/
def Res.settle (r : Res) (s s0 : State) (l : List Src) : Res :=
  match r with
  | .ok s1 => .ok (s1.popSrcs l)
  | .jump s1 pc => .jump (s1.popSrcs l) pc
  | .trapNext t s1 => .trapNext t (s1.popSrcs l)
  | .trap t _ => .trap t s
  | .block w s1 => .block w (s1.sampleSrcs s s0 l)
  | .gone s1 => .gone s1

/-- A trap or a wait that a source gives leaves EXM as it was, though an earlier source has adopted a mask (06 R135). -/
def Res.unadopt (r : Res) (exm : BitVec 16) : Res :=
  match r with
  | .trap t s1 => .trap t (s1.modR (fun x => { x with exm := exm }))
  | .block w s1 => .block w (s1.modR (fun x => { x with exm := exm }))
  | x => x

/-- An instruction of `len` bytes with its sources and destinations: it waits or traps by R112, R113 and the faults of
its sources, or `body` executes with the state that its sources are read from. -/
def run (len : Nat) (s : State) (sels : List Sel) (dests : List DReg) (body : State → Res) :
    Host.Outcome State Fault Refusal :=
  finish len (match s.ready sels dests with
    | .error r => r.unadopt s.g.r.exm
    | .ok s1 => (body s1).settle s s1 (sels.map (fun x => x.src)))

/-! Destinations. -/

/-- The errors kept for a register are gone once it is written again. -/
def GSync.unflag (y : GSync) (d : DReg) : GSync :=
  { y with errs := (y.errs.map (fun e => (e.1.filter (fun r => decide (r ≠ d)), e.2))).filter (fun e => !e.1.isEmpty) }

/-- A V register written for the active threads (05 R109). -/
def State.setLanes (s : State) (d : BitVec 7) (f : Nat → W32) : State :=
  s.modG (fun g => { g with r := g.r.writeV d.toNat g.r.exm f, y := g.y.unflag (.v d.toNat) })

/-- A uniform register, as numbered by `gName`, written. -/
def State.setU (s : State) (n : Nat) (v : W32) : State :=
  s.modG (fun g => { g with r := g.r.setG n v, y := g.y.unflag (.g n) })

/-- A long-latency write of the current group begins (05 R111); what a reader of the old value would have met is gone. -/
def State.produce (s : State) (p : Pending) : State :=
  (s.modY (fun y => p.dests.foldl (fun y d => y.unflag d.reg) y)).issuePend s.cur p

/-- Floating-point flags raised (05 R117). -/
def State.orFlags (s : State) (f : FFlags) : State :=
  s.modSys (fun y => { y with fpflags := y.fpflags ||| f.zeroExtend 32 })

/-- The flags of the active threads together. -/
def State.actFlags (s : State) (f : Nat → FFlags) : FFlags :=
  (List.range 16).foldl (fun a t => if s.g.act t then a ||| f t else a) 0

/-- The mode in RMODE (05 R118). -/
def State.rmode (s : State) : RMode := rmOf s.g.sys.rmode.toNat

/-- The random word of thread `t` (05 R132, lane row). -/
def State.laneRnd (s : State) (t : Nat) : Nat :=
  philox (BitVec.ofNat 32 (idxOf s.cur * 16 + t)) s.g.sys.srcnt 0 (BitVec.ofNat 32 s.t.index) s.l.seed s.g.sys.srkey

/-- SRCNT advances after an instruction that rounds by SR (05 R119). -/
def State.countSr (s : State) (m : RMode) : State :=
  if m = .sr then s.modSys (fun y => { y with srcnt := y.srcnt + 1 }) else s

/-- The source list of a selector without a T bit. -/
def blk (x : Src) : Sel := ⟨x, false⟩
/-- The selectors of a command block of `n` registers from `c` up: they block. -/
def blockSels (c : BitVec 6) (n : Nat) : List Sel :=
  (List.range n).map (fun i => ⟨.g (BitVec.ofNat 6 (c.toNat + i)), false⟩)
/-- Word `i` of a command block. -/
def State.cmd (s : State) (c : BitVec 6) (i : Nat) : W32 := s.g.r.getG (s.g.gName (c.toNat + i))
/-- The words of a command block. -/
def State.cmds (s : State) (c : BitVec 6) (n : Nat) : List W32 := (List.range n).map (s.cmd c)

end Sys2Proof.Machine
end

