-- ==== Sys2Proof/Machine/LocalMem.lean ====
section
/-! DEFINITION. Thread accesses to tile memory, cluster tile memory and the die scratchpad, and the spill stack
(spec/07 R154 to R168; 13 R339, R344, R345). -/

namespace Sys2Proof.Machine

/-! Fences (07 R172, 13 R339). -/

/-- The paths that a FENCE waits on (07 R172); a release of RTEAM scope waits as TEAM. -/
def fencePaths (sc : Scope) : List Nat :=
  match sc with
  | .group | .team | .rteam => [0]
  | .cluster => [0, 1]
  | .die => [0, 1, 2]
  | .device | .system => [0, 1, 2, 3, 7]

/-- May a release at a scope be performed (13 R339)? Every earlier access of the group is performed once its path
counters are zero. -/
def State.released (s : State) (sc : Scope) : Bool := (fencePaths sc).all (fun p => decide (s.g.y.path p = 0))

/-- Is an order a release? -/
def isRel : Order → Bool
  | .rel | .acqRel => true
  | _ => false
/-- Is an order an acquire? -/
def isAcq : Order → Bool
  | .acq | .acqRel => true
  | _ => false

/-! Checks of a thread access (07 R154 to R157). -/

/-- FMT codes of LDL and STL (R155). -/
def ldFmts : List Nat := [0x00, 0x01, 0x02, 0x04, 0x05, 0x08, 0x09, 0x0A, 0x0B, 0x0C, 0x10, 0x11, 0x15, 0x18]
/-- FMT codes of LDV and STV. -/
def lvFmts : List Nat := [0x02, 0x03, 0x05, 0x08]
/-- FMT codes of ATOM and RED. -/
def atFmts : List Nat := [0x02, 0x05, 0x08]

/-- What an instruction asks of its accesses. -/
structure LKind where
  fmts : List Nat
  /-- bytes of one access -/
  size : Nat
  write : Bool
  atomic : Bool
  plain : Bool
deriving DecidableEq, Repr

/-- The trap cause of a rank of R156. -/
def rankCause (r : Nat) : Nat := match r with | 1 => 5 | 2 => 6 | 3 => 7 | 4 => 8 | 5 => 9 | _ => 0xA

/-- One access of a thread checked (R154, R156): its address, none where BCHK drops it, or the rank that fails and
TADDR. `dj` and `plus` move the element and the byte (R159). Rank 4 tests the address alone, but that an access which
R157 lets be misaligned may not run past the end either (DEDUCED, log 99). -/
def State.check1 (s : State) (k : LKind) (rc : BitVec 256) (x : W32) (dj plus : Nat) :
    Except (Nat × W64) (Option Nat) :=
  let sp := rSpace rc
  if 3 ≤ sp then .error (1, rBase rc)
  else if !k.fmts.contains (rFmt rc) then .error (2, BitVec.ofNat 64 (rFmt rc))
  else
    match check (x.toNat % 2 ^ 20 + dj) (rExt0 rc) (rBchk rc), check (x.toNat / 2 ^ 20) (rExt1 rc) (rBchk rc) with
    | .bad, _ => .error (3, x.zeroExtend 64)
    | _, .bad => .error (3, x.zeroExtend 64)
    | .idx j, .idx i =>
      let a := (elemAddr sp (rBase rc) (rStr1 rc) (rStr0 rc) i j + BitVec.ofNat 64 plus).toNat
      let av := BitVec.ofNat 64 a
      let mayMis := sp = 0 ∧ k.atomic = false ∧ k.plain = true
      let size := if mayMis then k.size else 1
      if (if sp = 2 then decide (spadBytes ≤ a) else (s.localLoc (teamOf s.cur) sp a size).isNone) then .error (4, av)
      else if (k.write || k.atomic) && rRo rc then .error (5, av)
      else if sp = 2 ∧ s.spadOk (dieOf s.cn) s.x.asid a = false then .error (5, av)
      else if a % k.size ≠ 0 ∧ ¬mayMis then .error (6, av)
      else .ok (some a)
    | _, _ => .ok none

/-- One word of an instruction's accesses: thread, word number, element offset and byte offset. -/
structure LWord where
  t : Nat
  k : Nat
  dj : Nat
  plus : Nat
deriving DecidableEq, Repr

/-- A checked access. -/
structure LAcc where
  t : Nat
  k : Nat
  at? : Option Nat
deriving DecidableEq, Repr

/-- Every access of an instruction checked before any is performed (R156): the trap of the first condition that some
thread fails, with every thread that fails it, or the accesses. -/
def State.checkAll (s : State) (k : LKind) (rc : BitVec 256) (idx : Nat → W32) (ws : List LWord) :
    Except Trap (List LAcc) :=
  let rs := ws.map (fun w => (w, s.check1 k rc (idx w.t) w.dj w.plus))
  let bad := rs.filterMap (fun r => match r.2 with | .error e => some (r.1.t, e) | .ok _ => none)
  match bad with
  | [] => .ok (rs.map (fun r => ⟨r.1.t, r.1.k, match r.2 with | .ok a => a | .error _ => none⟩))
  | b :: bs =>
    let m := bs.foldl (fun m x => min m x.2.1) b.2.1
    let fs := bad.filter (fun x => decide (x.2.1 = m))
    let v := ((fs.head?).map (fun x => x.2.2)).getD 0
    .error ⟨rankCause m, 0, v, maskOf (fun t => fs.any (fun x => decide (x.1 = t)))⟩

/-- The active threads. -/
def State.actThreads (s : State) : List Nat := (List.range 16).filter s.g.act

/-- One access per active thread. -/
def State.words1 (s : State) : List LWord := s.actThreads.map (fun t => ⟨t, 0, 0, 0⟩)
/-- Four words per active thread for elements of `n` bytes (R159). -/
def State.words4 (s : State) (n : Nat) : List LWord :=
  s.actThreads.flatMap (fun t => (List.range 4).map (fun k => ⟨t, k, 4 * k / n, 4 * k % n⟩))

/-! Performing an access. -/

/-- Does a place of tile memory lie in the staging of an open stream (10 R241)? -/
def State.inStaging (s : State) (p : TLoc) (n : Nat) : Bool :=
  match p with
  | .side _ _ => false
  | .data c a => s.groups.any (fun g => decide (s.coreNoG g.1 = c) && (s.teamG g.1).here && [g.2.s0, g.2.s1].any (fun st =>
      let b := (s.teamG g.1).base * 4096 + st.staging.toNat
      st.st != .closed && decide (a < b + 8192) && decide (b < a + n)))

/-- `n` free bytes (log 3). -/
def State.freeBytes (s : State) : Nat → List Byte × State
  | 0 => ([], s)
  | n + 1 =>
    let d := s.draw
    let r := State.freeBytes d.2 n
    (Config.freeByte d.1 :: r.1, r.2)

/-- Bytes of a local space read by a thread; a load from a stream's staging returns unspecified bytes (10 R241). -/
def State.lread (s : State) (sp a n : Nat) (strong : Bool) : List Byte × State :=
  if sp = 2 then (if strong then s.spadReadS s.cn a n else s.spadRead s.cn a n)
  else match s.localLoc (teamOf s.cur) sp a n with
    | none => (leBytes n 0, s)
    | some p => if s.inStaging p n then s.freeBytes n else (s.tread p n, s)

/-- Bytes of a local space written by a thread. -/
def State.lwrite (s : State) (sp a : Nat) (bs : List Byte) (strong : Bool) : State :=
  if sp = 2 then (if strong then s.spadWriteS s.cn a bs else s.spadWrite s.cn a bs)
  else match s.localLoc (teamOf s.cur) sp a bs.length with
    | none => s
    | some p => s.tstore p bs

/-- One atomic read-modify-write of a word of a local space (R164, R165): the old value and the state. -/
def State.lrmw (s : State) (sp a : Nat) (f : W32 → W32) : W32 × State :=
  if sp = 2 then
    let d := dieOf s.cn
    if (s.die d).soft (a / 4096) then
      let s1 := s.dropLine s.cn a
      let old := BitVec.ofNat 32 (mnum (s1.die d).spad a 4)
      (old, s1.modDie d (fun x => { x with spad := mput x.spad a 4 (f old).toNat }))
    else
      let s1 := s.dirWrite s.cn (a / 4096)
      let old := BitVec.ofNat 32 (mnum (s1.die d).spad a 4)
      (old, s1.modDie d (fun x => { x with spad := mput x.spad a 4 (f old).toNat }))
  else
    let r := s.lread sp a 4 true
    let old := BitVec.ofNat 32 (leNat r.1)
    (old, r.2.lwrite sp a (leBytes 4 (f old).toNat) true)

/-- The loads of an instruction in order: what each returns (0 where dropped), and the state. -/
def State.loads (s : State) (sp n : Nat) (strong : Bool) : List LAcc → List (Nat × Nat × W32) × State
  | [] => ([], s)
  | c :: cs =>
    match c.at? with
    | none =>
      let q := State.loads s sp n strong cs
      ((c.t, c.k, 0) :: q.1, q.2)
    | some a =>
      let r := s.lread sp a n strong
      let q := State.loads r.2 sp n strong cs
      ((c.t, c.k, BitVec.ofNat 32 (leNat r.1)) :: q.1, q.2)

/-- The stores of an instruction in order (R160): the low bytes of each thread's word. `rel` is a release at TEAM scope. -/
def State.stores (s : State) (sp n : Nat) (strong rel : Bool) (val : Nat → Nat → W32) : List LAcc → State
  | [] => s
  | c :: cs =>
    match c.at? with
    | none => State.stores s sp n strong rel val cs
    | some a =>
      State.stores ((s.lwrite sp a (leBytes n (val c.t c.k).toNat) strong).noteRel sp a rel false) sp n strong rel val cs

/-- A release at TEAM scope (13 R344). -/
def teamRel (o : Order) (sc : Scope) : Bool := isRel o && (sc == .team || sc == .rteam)

/-- The words that an RTEAM acquire outside space 0 has read promote what they were released with (13 R344). -/
def State.promotes (s : State) (sp : Nat) (o : Order) (sc : Scope) (cs : List LAcc) : State :=
  if isAcq o = true ∧ sc = .rteam ∧ sp ≠ 0 then (cs.filterMap (fun c => c.at?)).foldl (fun st a => st.promote sp a) s else s

/-- An access of space 1 counts on path 1 until its target acknowledges it (04 R107; 07 R169). -/
def State.count1 (s : State) (sp : Nat) : State := if sp = 1 then s.issuePend s.cur ⟨[], some 1, none⟩ else s

/-- The value of word `k` of thread `t` among loaded values. -/
def loaded (l : List (Nat × Nat × W32)) (k t : Nat) : W32 :=
  ((l.find? (fun x => decide (x.1 = t) && decide (x.2.1 = k))).map (fun x => x.2.2)).getD 0

/-- An INT8 element sign-extends (R155). -/
def extend8 (rc : BitVec 256) (v : W32) : W32 := if rFmt rc = 4 then (v.truncate 8).signExtend 32 else v

/-- The path that counts an access of a space (R169). -/
def spacePath (sp : Nat) : Nat := if 2 ≤ sp then 2 else sp

/-- May the path's counter rise (R169)? -/
def State.pathRoom (s : State) (p : Nat) : Bool := decide (s.g.y.path p < 65535)

/-- The address of a checked line that another core has written and not flushed, met by a load (04 R96). -/
def State.checkedLine (s : State) (cs : List LAcc) : Option Nat :=
  (cs.filterMap (fun c => c.at?)).find? (fun a =>
    let d := s.die (dieOf s.cn)
    let w := tget (0, false) d.writers (a / 128)
    d.chk (a / 4096) && w.2 && decide (w.1 ≠ s.cn + 1))

/-- A load of `nw` words per thread (R158 to R161): from space 0, and from a checked region, its registers are written
at once; otherwise they are marked empty and land later. -/
def loadInstr (nw n : Nat) (k : LKind) (ws : State → List LWord) (d : BitVec 7) (a : Sel) (b : BitVec 4) (sc : Scope)
    (o : Order) (ext : BitVec 256 → W32 → W32) (s : State) : Host.Outcome State Fault Refusal :=
  run 4 s [a] ((List.range nw).map (fun i => DReg.v (d.toNat + i))) (fun x =>
    let rc := x.g.r.getB b.toNat
    let sp := rSpace rc
    match x.checkAll k rc (x.laneVal a.src) (ws x) with
    | .error t => .trap t x
    | .ok cs =>
      if sp ≠ 0 ∧ x.pathRoom (spacePath sp) = false then .block .counter x
      else match (if sp = 2 then x.checkedLine cs else none) with
      | some ad => .trap (Trap.mk2 0x17 (BitVec.ofNat 64 ad)) x
      | none =>
        let r := x.loads sp n (decide (o ≠ .plain)) cs
        let y := r.2.promotes sp o sc cs
        let val := fun i t => ext rc (loaded r.1 i t)
        let chk := sp = 2 ∧ cs.any (fun c => match c.at? with
          | some ad => (x.die (dieOf x.cn)).chk (ad / 4096)
          | none => false) = true
        if sp = 0 ∨ chk then
          .ok ((List.range nw).foldl (fun st i => st.setLanes (d + BitVec.ofNat 7 i) (val i)) y)
        else
          .ok (y.produce ⟨(List.range nw).map (fun i =>
            Dest.v (d.toNat + i) x.g.r.exm ((List.range 16).map (val i))), some (spacePath sp), none⟩))

/-- A store of `nw` words per thread (R158 to R161); a release waits for the paths of its scope (13 R339). -/
def storeInstr (nw n : Nat) (k : LKind) (ws : State → List LWord) (d : BitVec 7) (a : Sel) (b : BitVec 4) (sc : Scope)
    (o : Order) (s : State) : Host.Outcome State Fault Refusal :=
  run 4 s ([a] ++ (List.range nw).map (fun i => ⟨.v (d + BitVec.ofNat 7 i), false⟩)) [] (fun x =>
    let rc := x.g.r.getB b.toNat
    let sp := rSpace rc
    match x.checkAll k rc (x.laneVal a.src) (ws x) with
    | .error t => .trap t x
    | .ok cs =>
      if isRel o && !x.released sc then .block .stores x
      else if x.pathRoom (spacePath sp) = false then .block .counter x
      else .ok ((x.stores sp n (decide (o ≠ .plain)) (teamRel o sc) (fun t i => x.g.r.getV (d.toNat + i) t) cs).count1 sp))

/-- The bytes of an element of LDL and STL. -/
def elemBytes (rc : BitVec 256) : Nat := ((fmtBits (rFmt rc)).getD 32) / 8

/-- LDL (07 R158, R159). -/
def execLdl (d : BitVec 7) (a : Sel) (k : BitVec 4) (sc : Scope) (o : Order) (s : State) :
    Host.Outcome State Fault Refusal :=
  let n := elemBytes (s.g.r.getB k.toNat)
  loadInstr 1 n ⟨ldFmts, n, false, false, decide (o = .plain)⟩ State.words1 d a k sc o extend8 s

/-- STL (07 R158, R159). -/
def execStl (d : BitVec 7) (a : Sel) (k : BitVec 4) (sc : Scope) (o : Order) (s : State) :
    Host.Outcome State Fault Refusal :=
  let n := elemBytes (s.g.r.getB k.toNat)
  storeInstr 1 n ⟨ldFmts, n, true, false, decide (o = .plain)⟩ State.words1 d a k sc o s

/-- LDV (07 R158, R159): four words per thread, each checked. -/
def execLdv (d : BitVec 7) (a : Sel) (k : BitVec 4) (sc : Scope) (o : Order) (s : State) :
    Host.Outcome State Fault Refusal :=
  let n := elemBytes (s.g.r.getB k.toNat)
  loadInstr 4 4 ⟨lvFmts, 4, false, false, decide (o = .plain)⟩ (fun x => x.words4 n) d a k sc o (fun _ v => v) s

/-- STV (07 R158, R159). -/
def execStv (d : BitVec 7) (a : Sel) (k : BitVec 4) (sc : Scope) (o : Order) (s : State) :
    Host.Outcome State Fault Refusal :=
  let n := elemBytes (s.g.r.getB k.toNat)
  storeInstr 4 4 ⟨lvFmts, 4, true, false, decide (o = .plain)⟩ (fun x => x.words4 n) d a k sc o s

/-! ATOM and RED (07 R162 to R165). -/

/-- The atomics of an instruction in ascending thread order (R164): the old value of each thread, 0 where dropped. -/
def State.atoms (s : State) (sp : Nat) (op : AOp) (rel : Bool) (v c : Nat → W32) : List LAcc → List (Nat × Nat × W32) × State
  | [] => ([], s)
  | x :: cs =>
    match x.at? with
    | none =>
      let q := State.atoms s sp op rel v c cs
      ((x.t, 0, 0) :: q.1, q.2)
    | some a =>
      let r := s.lrmw sp a (fun old => aop op old (v x.t) (c x.t))
      let q := State.atoms (r.2.noteRel sp a rel true) sp op rel v c cs
      ((x.t, 0, r.1) :: q.1, q.2)

/-- The reductions of an instruction: in a coherent scratchpad segment into the core's partial (04 R93). -/
def State.reds (s : State) (sp : Nat) (op : AOp) (rel : Bool) (v : Nat → W32) : List LAcc → State
  | [] => s
  | x :: cs =>
    match x.at? with
    | none => State.reds s sp op rel v cs
    | some a =>
      let s1 := if sp = 2 ∧ (s.die (dieOf s.cn)).soft (a / 4096) = false then s.dirRed s.cn a op (v x.t)
        else (s.lrmw sp a (fun old => aop op old (v x.t) 0)).2
      State.reds (s1.noteRel sp a rel true) sp op rel v cs

/-- ATOM (07 R162 to R165): its destination is written at once; the group issues nothing before every return, and a return is
the acknowledgement that ends the access's count on its path. -/
def execAtom (op : AOp) (d : BitVec 7) (a b c : Sel) (k : BitVec 4) (sc : Scope) (o : Order) (s : State) :
    Host.Outcome State Fault Refusal :=
  run 8 s ([a, b] ++ (if op = .cas then [c] else [])) [dv d] (fun x =>
    let rc := x.g.r.getB k.toNat
    let sp := rSpace rc
    match x.checkAll ⟨atFmts, 4, true, true, decide (o = .plain)⟩ rc (x.laneVal a.src) x.words1 with
    | .error t => .trap t x
    | .ok cs =>
      if isRel o && !x.released sc then .block .stores x
      else if x.pathRoom (spacePath sp) = false then .block .counter x
      else
        let r := (x.promotes sp o sc cs).atoms sp op (teamRel o sc) (x.laneVal b.src) (x.laneVal c.src) cs
        .ok (r.2.setLanes d (loaded r.1 0)))

/-- RED (07 R162 to R165). -/
def execRed (op : AOp) (a b : Sel) (k : BitVec 4) (sc : Scope) (o : Order) (s : State) :
    Host.Outcome State Fault Refusal :=
  run 8 s [a, b] [] (fun x =>
    let rc := x.g.r.getB k.toNat
    let sp := rSpace rc
    match x.checkAll ⟨atFmts, 4, true, true, decide (o = .plain)⟩ rc (x.laneVal a.src) x.words1 with
    | .error t => .trap t x
    | .ok cs =>
      if isRel o && !x.released sc then .block .stores x
      else if x.pathRoom (spacePath sp) = false then .block .counter x
      else .ok ((x.reds sp op (teamRel o sc) (x.laneVal b.src) cs).count1 sp))

/-! Spill stack (07 R166 to R168). -/

/-- The physical offset of a byte of the current group's spill region (04 R98). -/
def State.spillAt (s : State) (x : Nat) : Nat :=
  s.t.base * 4096 + (s.l.tileBytes - (idxOf s.cur + 1) * s.l.ss) + x

/-- The spill-range trap of SPST and SPLD (R167). -/
def State.spillErr (s : State) (n : Nat) (off : BitVec 16) : Option Trap :=
  let b := s.g.r.spp.toNat + off.toNat
  if s.l.ss < b + 64 * n then some (Trap.mk2 0xC (BitVec.ofNat 64 b)) else none

/-- One register of the active threads stored at a spill offset. -/
def State.spill1 (s : State) (b r : Nat) (ts : List Nat) (lane : Nat → W32) : State :=
  ts.foldl (fun st t => st.tstore (.data s.cn (s.spillAt (b + 64 * r + 4 * t))) (leBytes 4 (lane t).toNat)) s

/-- SPST (07 R166, R167). -/
def execSpst (d : BitVec 7) (nm1 : BitVec 4) (off : BitVec 16) (s : State) : Host.Outcome State Fault Refusal :=
  let n := nm1.toNat + 1
  run 8 s ((List.range n).map (fun i => ⟨.v (d + BitVec.ofNat 7 i), false⟩)) [] (fun x =>
    match x.spillErr n off with
    | some t => .trap t x
    | none =>
      if x.pathRoom 0 = false then .block .counter x
      else
        let b := x.g.r.spp.toNat + off.toNat
        .ok ((List.range n).foldl (fun st i => st.spill1 b i x.actThreads (x.g.r.getV (d.toNat + i))) x))

/-- SPLD (07 R166, R167): its registers are marked empty and land later. -/
def execSpld (d : BitVec 7) (nm1 : BitVec 4) (off : BitVec 16) (s : State) : Host.Outcome State Fault Refusal :=
  let n := nm1.toNat + 1
  run 8 s [] ((List.range n).map (fun i => DReg.v (d.toNat + i))) (fun x =>
    match x.spillErr n off with
    | some t => .trap t x
    | none =>
      let b := x.g.r.spp.toNat + off.toNat
      let lane := fun i t => BitVec.ofNat 32 (leNat (x.tread (.data x.cn (x.spillAt (b + 64 * i + 4 * t))) 4))
      .ok (x.produce ⟨(List.range n).map (fun i =>
        Dest.v (d.toNat + i) x.g.r.exm ((List.range 16).map (lane i))), none, none⟩))

/-- SPADJ (07 R168). -/
def execSpadj (b : UOpd) (s : State) : Host.Outcome State Fault Refusal :=
  run (uLen b) s b.sels [] (fun x =>
    let sum : Int := (x.g.r.spp.toNat : Int) + (x.uval b).toInt
    if sum < 0 ∨ (x.l.ss : Int) < sum ∨ sum % 4 ≠ 0 then .trap (Trap.mk2 0xC (BitVec.ofInt 64 sum)) x
    else .ok (x.modR (fun r => { r with spp := BitVec.ofInt 32 sum })))

end Sys2Proof.Machine
end

