-- ==== Sys2Proof/Machine/Park.lean ====
section
/-! DEFINITION. Events to the host (spec/21 R457), parked faults (16 R415, R416), and translation through a buffer
record's BT (02 R35, R36). -/

namespace Sys2Proof.Machine

/-- An event of 16 words written to the host's ring, or held while the ring is full (21 R457). -/
def State.putEvent (s : State) (ws : List W32) : State :=
  if (BitVec.ofNat 32 s.hif.evtail - s.hif.evhead).toNat < s.hif.ringSize then
    let a := s.hif.ring.toNat + 64 * (s.hif.evtail % s.hif.ringSize)
    { s with
      host := mwrite s.host (a % 2 ^ 52) (wordBytes ws)
      hif := { s.hif with evtail := s.hif.evtail + 1 } }
  else { s with hif := { s.hif with held := s.hif.held ++ [ws] } }

/-- Held events written while there is room. -/
def State.flushEvents : Nat → State → State
  | 0, s => s
  | n + 1, s =>
    match s.hif.held with
    | [] => s
    | ws :: rest =>
      if (BitVec.ofNat 32 s.hif.evtail - s.hif.evhead).toNat < s.hif.ringSize then
        State.flushEvents n ({ s with hif := { s.hif with held := rest } }.putEvent ws)
      else s

/-- An event of a KIND and a context with its payload from word 1 (21 R457): behind those already held. -/
def State.event1 (s : State) (kind ctx : Nat) (payload : List W32) : State :=
  let ws := (BitVec.ofNat 32 (kind + 65536 * ctx) :: payload ++ List.replicate 15 0).take 16
  if s.hif.held.isEmpty then s.putEvent ws else { s with hif := { s.hif with held := s.hif.held ++ [ws] } }

/-- The number of a group's slot on its core as fault records give it (R415). -/
def State.slotNo (s : State) (gk : Nat) : Nat := (s.grp gk).y.gslot

/-- The 64-bit word as two 32-bit words. -/
def words64 (v : W64) : List W32 := [v.truncate 32, v.extractLsb' 32 32]

/-- The fault record of a parking (16 R415): SPACE of the record and ACC. -/
def State.faultRecord (s : State) (gk cause : Nat) (va : W64) (mask : BitVec 16) (space acc : Nat) : List W32 :=
  [BitVec.ofNat 32 (s.ctxNoG gk * 65536 + s.coreNoG gk * 256 + s.slotNo gk),
   BitVec.ofNat 32 (mask.toNat * 65536 + space * 8192 + acc * 2048 + cause),
   s.codeOff gk (s.grp gk).r.pc, 0] ++ words64 va ++ [0, 0]

/-- A group parks on a fault of a translated access (16 R415): its unfinished threads stay recorded, it leaves the
active set, and one fault record goes to the host. -/
def State.park (s : State) (gk cause : Nat) (va : W64) (mask : BitVec 16) (space acc : Nat) : State :=
  let s1 := s.event1 2 (s.ctxNoG gk) (List.replicate 7 0 ++ s.faultRecord gk cause va mask space acc)
  (s1.modGrp gk (fun g =>
    { g with y := { g.y with status := .parked, parked := some ⟨cause, va, mask, none⟩ } })).leaveActive gk

/-- The cause of a parked fault. -/
def XFault.cause : XFault → Nat
  | .miss => 0x0B
  | .perm _ => 0x09
  | .space => 0x05

/-- The BT of record `k` of the current group filled at its first translated use (02 R36); a failed translation leaves
it invalid. -/
def State.fillBT (s : State) (k : Nat) (tgt : Nat) : State :=
  if (s.g.r.getBT k).valid then s
  else
    let base := rBase (s.g.r.getB k)
    let r := s.xlate (.core s.cn) s.x.asid base tgt true .read
    match r.1 with
    | .error _ => r.2
    | .ok a =>
      r.2.modR (fun x => x.setBT k
        { valid := true
          tgt := BitVec.ofNat 2 (fieldOf a.leaf 8 2)
          w := decide (fieldOf a.leaf 2 1 = 1)
          sup := decide (fieldOf a.leaf 4 1 = 1)
          psz := BitVec.ofNat 2 a.psz
          limit := BitVec.ofNat 38 (pageBytes a.psz - base.toNat % pageBytes a.psz)
          pa := BitVec.ofNat 52 a.pa })

/-- The leaf bits that a BT keeps, for the checks of rights. -/
def BT.leaf (b : BT) : Nat := (if b.w then 4 else 0) + (if b.sup then 16 else 0)

/-- A translated access through record `k` (02 R36): below the limit through BT, beyond it through the core TLB. -/
def State.btXlate (s : State) (k : Nat) (va : W64) (tgt : Nat) (need : Need) : Except XFault XAddr × State :=
  let s1 := s.fillBT k tgt
  let b := s1.g.r.getBT k
  let off := (va - rBase (s1.g.r.getB k)).toNat
  if b.valid ∧ off < b.limit.toNat then
    if b.tgt.toNat ≠ tgt then (.error .space, s1)
    else if isSupHalf va && !s1.priv then (.error (.perm true), s1)
    else match leafRights va b.leaf s1.priv need with
      | some f => (.error f, s1)
      | none =>
        if tgt = 0 ∧ s1.inHbm (b.pa.toNat + off) = false then (.error .miss, s1)
        else (.ok ⟨tgt, b.pa.toNat + off, b.psz.toNat, b.leaf⟩, s1)
  else s1.xlate (.core s1.cn) s1.x.asid va tgt s1.priv need

end Sys2Proof.Machine
end

