-- ==== Sys2Proof/Machine/Views.lean ====
section
/-! DEFINITION. PUBLISH, and the view requests that open and close snapshots (spec/03 R78 to R80; 07 R173). -/

namespace Sys2Proof.Machine

/-- Does a command write a shadow of a handle? -/
def CopyCmd.shadows (c : CopyCmd) (h : Nat) : Bool :=
  (if c.pstw then [c.d, c.t] else [c.d]).any (fun r => decide (rSpace r = 7) && decide (rView r = h) && rShadow r)

/-- PUBLISH (07 R173; 03 R78). -/
def execPublish (sc : Scope) (a : Sel) (s : State) : Host.Outcome State Fault Refusal :=
  run 4 s [a] [] (fun x =>
    let h := (x.uniVal a.src).toNat
    let fault := Res.trap (Trap.mk2 0xE (BitVec.ofNat 64 h)) x
    if h = 0 ∨ 65536 ≤ h then fault
    else if (x.cores.flatMap (fun k => k.2.copies) ++ x.link.copies ++ x.t.saveCopies.map (fun p => p.1)).any (fun c => decide (c.gk = some x.cur) && c.shadows h) then
      .block .view x
    else if !x.released sc then .block .stores x
    else match x.publish x.t.ctx h with
      | none => fault
      | some y => .ok y)

/-- The slot that a snapshot of a version can pin (R80). -/
def snapSlot (e ver : Nat) : Option Nat :=
  (List.range 3).find? (fun f => decide (vLv e f = ver) &&
    (decide (f = vCur e) || decide (0 < vSpin e f) || (decide (f = vShd e) && decide (fieldOf e 296 1 = 0))))

/-- The handle that a snapshot request names; 0 stands for a join engine's, which takes the lowest free one (R80). -/
def State.snapHandle (s : State) (cx handle : Nat) : Nat :=
  if handle ≠ 0 then handle
  else ((List.range 65536).find? (fun h => match (s.viewEntry cx h).1 with
    | some e => decide (vKind e = 0)
    | none => false)).getD 0

/-- A snapshot opened at a view home (R80): a request that cannot succeed changes nothing. -/
def State.openSnap (s : State) (ctx handle live ver : Nat) : State :=
  let h := s.snapHandle ctx handle
  let r := s.viewEntry ctx live
  let q := r.2.viewEntry ctx h
  match r.1, q.1 with
  | some e, some old =>
    match snapSlot e ver with
    | some sl =>
      if vKind e ≠ 1 ∨ vKind old ≠ 0 ∨ vSpin e sl = 255 then s
      else
        let e1 := nput e (272 + 8 * sl) 8 (vSpin e sl + 1)
        let e2 := if sl = vShd e then nput e1 252 2 ((s.freeSlot ctx live e1 (vCur e) sl).getD 3) else e1
        let snap := nput (nput (nput (nput (nput 0 248 2 2) 256 16 live) 297 2 sl) 192 32 ver) 224 24 (vPages e)
        (q.2.setView ctx live e2).setView ctx h snap
    | none => s
  | _, _ => s

/-- A snapshot closed at a view home (R80). -/
def State.closeSnap (s : State) (ctx handle : Nat) : State :=
  let r := s.viewEntry ctx handle
  match r.1 with
  | some e =>
    if vKind e ≠ 2 then s
    else
      let p := fieldOf e 256 16
      let sl := fieldOf e 297 2
      let s1 := r.2.setView ctx handle (nput e 248 2 0)
      let q := s1.viewEntry ctx p
      match q.1 with
      | some pe => (q.2.setView ctx p (nput pe (272 + 8 * sl) 8 (vSpin pe sl - 1))).slotIdle ctx p sl
      | none => q.2
  | none => s

end Sys2Proof.Machine
end

