-- ==== Sys2Proof/Machine/EngMem.lean ====
section
/-! DEFINITION. How the engines reach memory: places in the spaces, elements of records, and the scales of block
formats (spec/03 R50 to R56, R67; 04 R89 to R105; 05 R120, R121). An error is a class and a DETAIL of 03 R67. -/

namespace Sys2Proof.Machine

/-- An error class and DETAIL (03 R67). -/
abbrev EErr := Nat × Nat

/-- On whose behalf an engine moves bytes: its translations, context, privilege, team for spaces 0 and 1, core whose
segment cache it goes through (none: home slices), the die of space 2, and, for an engine outside the cores, the core of
the group that it works for, whose unwritten stores it finds (13 R347). -/
structure EngAg where
  h : Holder
  cx : Nat
  priv : Bool
  team : Option Nat
  core : Option Nat
  die : Nat
  issuer : Option Nat

/-- One side of a command: its record, the base in use, the bound view slot, and 0 source or 1 destination. -/
structure ESide where
  rc : BitVec 256
  base : W64
  pin : Option ViewPin
  side : Nat

/-- Where a byte stands. -/
inductive Place where
  | tile (p : TLoc)
  | spad (d a : Nat)
  | phys (tgt pa : Nat)

/-- The error of a failed translation (03 R67; 02 R27). -/
def XFault.eerr (side : Nat) (wr : Bool) : XFault → EErr
  | .miss => (3, side)
  | .perm true => (4, side + 8)
  | .perm false => (4, side + if wr then 4 else 0)
  | .space => (6, 0)

/-- The place of `n` bytes at an address of a side. -/
def State.ePlace (s : State) (ag : EngAg) (sd : ESide) (va : W64) (n : Nat) (wr : Bool) : Except EErr Place × State :=
  let a := va.toNat
  match rSpace sd.rc with
  | 0 | 1 =>
    match ag.team with
    | none => (.error (6, 0), s)
    | some tk =>
      match s.localLoc tk (rSpace sd.rc) a n with
      | none => (.error (3, 4 + sd.side), s)
      | some p => (.ok (.tile p), s)
  | 2 =>
    if spadBytes < a + n then (.error (3, 4 + sd.side), s)
    else if s.spadOk ag.die (s.ctx ag.cx).asid a then (.ok (.spad ag.die a), s)
    else (.error (4, sd.side), s)
  | 5 => (.ok (.phys 3 a), s)
  | 7 =>
    match sd.pin with
    | none => (.error (6, 1), s)
    | some p =>
      if p.pages * 65536 ≤ a then (.error (3, 2 + sd.side), s)
      else
        let la := p.list + 8 * (a / 65536)
        let e := s.pnum 0 la 8
        let s1 := s.l2range 0 la 8 0 false
        let pa := entryAddr e + a % 65536
        if fieldOf e 0 1 = 0 ∨ fieldOf e 12 4 ≠ 0 ∨ fieldOf e 8 2 = 3 ∨ (fieldOf e 8 2 = 0 ∧ s.inHbm pa = false) then (.error (3, sd.side), s1)
        else (.ok (.phys (fieldOf e 8 2) pa), s1)
  | sp =>
    let r := s.xlate ag.h (s.ctx ag.cx).asid va (spaceTgt sp) ag.priv (if wr then .write else .read)
    match r.1 with
    | .error f => (.error (f.eerr sd.side wr), r.2)
    | .ok x => (.ok (.phys x.tgt x.pa), r.2)

/-- The byte `i` above a place of tile memory. -/
def TLoc.add : TLoc → Nat → TLoc
  | .data c a, i => .data c (a + i)
  | .side c a, i => .side c (a + i)

/-- The physical byte of a logical one: through a swizzle mode, or through the segment's stamp (04 R105). -/
def State.tphys (s : State) (swz : Option Nat) (p : TLoc) : TLoc :=
  match swz, p with
  | some m, .data c a => .data c (a / 4096 * 4096 + swizzle m (a % 4096))
  | _, _ => s.stamped p

/-- Does a read of tile memory meet an uncorrectable error (09 R237)? -/
def State.tileBad (s : State) (p : TLoc) (n : Nat) : Bool :=
  match p with
  | .data c a => (s.core c).badSegs.any (fun g => decide (a / 4096 ≤ g) && decide (g ≤ (a + n - 1) / 4096))
  | .side c a => (s.core c).badSegs.any (fun g => decide (a / 256 ≤ g) && decide (g ≤ (a + n - 1) / 256))

/-! Bytes of physical memory, cut where the frame that serves a line changes (02 R41) and at the largest payload (11 R272). -/

/-- A run of bytes cut at its lines: first address and length. -/
def lineCut (pa n : Nat) : List (Nat × Nat) :=
  if n = 0 then []
  else (List.range ((pa + n - 1) / 256 - pa / 256 + 1)).map (fun i =>
    (max pa ((pa / 256 + i) * 256), min (pa + n) ((pa / 256 + i + 1) * 256) - max pa ((pa / 256 + i) * 256)))

/-- A piece of a run: its address, its length, and the target and frame address that serve it. -/
abbrev Piece := Nat × Nat × Nat × Nat

/-- Pieces in order, `x` joined to the last one, the list's head, where one packet can carry both. -/
def joinPiece (l : List Piece) (x : Piece) : List Piece :=
  match l with
  | y :: ys =>
    if y.2.2.1 = x.2.2.1 ∧ y.2.2.2 + y.2.1 = x.2.2.2 ∧ y.2.1 + x.2.1 ≤ payloadCap
    then (y.1, y.2.1 + x.2.1, y.2.2) :: ys else x :: y :: ys
  | [] => [x]

/-- The pieces of a run of bytes. -/
def State.pieces (s : State) (tgt pa n : Nat) : List Piece :=
  (((lineCut pa n).map (fun x => (x.1, x.2, s.served tgt x.1))).foldl joinPiece []).reverse

/-- The pieces of a run read, in order: pool memory answers a packet (11 R279), and HBM is read under the L2 class `cls`. -/
def State.physRead (s : State) (job : BitVec 16) (side cls tgt : Nat) : List Piece → Except EErr (List Byte) × State
  | [] => (.ok [], s)
  | x :: xs =>
    let r : Except EErr (List Byte) × State :=
      if x.2.2.1 = 1 then
        let r := s.poolAsk job (.read (BitVec.ofNat 64 x.2.2.2) x.2.1)
        match r.1 with
        | none => (.ok (mread r.2.pool x.2.2.2 x.2.1), r.2)
        | some code => let e := r.2.poolErr side code; (.error e.1, e.2)
      else if s.pbad tgt x.1 x.2.1 then (.error (5, side), s)
      else (.ok (s.pread tgt x.1 x.2.1), s.l2range tgt x.1 x.2.1 cls false)
    match r.1 with
    | .error e => (.error e, r.2)
    | .ok bs =>
      let q := State.physRead r.2 job side cls tgt xs
      match q.1 with
      | .error e => (.error e, q.2)
      | .ok cs => (.ok (bs ++ cs), q.2)

/-- Bytes written to the pieces of a run, in order. -/
def State.physWrite (s : State) (job : BitVec 16) (side cls tgt : Nat) : List Piece → List Byte → Except EErr Unit × State
  | [], _ => (.ok (), s)
  | x :: xs, bs =>
    let b := bs.take x.2.1
    let r : Except EErr Unit × State :=
      if x.2.2.1 = 1 then
        let r := s.poolAsk job (.write (BitVec.ofNat 64 x.2.2.2) b)
        match r.1 with
        | none => (.ok (), { r.2 with pool := mwrite r.2.pool x.2.2.2 b })
        | some code => let e := r.2.poolErr side code; (.error e.1, e.2)
      else (.ok (), (s.pwrite tgt x.1 b).l2range tgt x.1 b.length cls true)
    match r.1 with
    | .error e => (.error e, r.2)
    | .ok _ => State.physWrite r.2 job side cls tgt xs (bs.drop x.2.1)

/-- `n` bytes read at a place, HBM under the record's L2 class (04 R83). -/
def State.placeRead (s : State) (ag : EngAg) (sd : ESide) (swz : Option Nat) (p : Place) (n : Nat) :
    Except EErr (List Byte) × State :=
  match p with
  | .tile q =>
    if s.tileBad q n then (.error (5, sd.side), s)
    else (.ok ((List.range n).flatMap (fun i => s.tread (s.tphys swz (q.add i)) 1)), s)
  | .spad d a =>
    match ag.core with
    | some c => let r := s.spadRead c a n; (.ok r.1, r.2)
    | none => let s1 := s.homeRecall d (a / 4096); (.ok (s1.softGet d ag.issuer a n), s1)
  | .phys tgt pa => s.physRead (s.ctx ag.cx).fjob sd.side (rCache sd.rc) tgt (s.pieces tgt pa n)

/-- Bytes of an engine outside the cores written at a home slice: into the issuing group's copy too, where its core holds
one (13 R347). -/
def State.homePut (s : State) (d : Nat) (issuer : Option Nat) (a : Nat) (bs : List Byte) : State :=
  let s1 := s.homeRecall d (a / 4096)
  match issuer with
  | some c =>
    if dieOf c = d ∧ (s1.die d).soft (a / 4096) = true then s1.softPut c a bs
    else s1.modDie d (fun x => { x with spad := mwrite x.spad a bs })
  | none => s1.modDie d (fun x => { x with spad := mwrite x.spad a bs })

/-- Bytes written at a place. -/
def State.placeWrite (s : State) (ag : EngAg) (sd : ESide) (swz : Nat) (p : Place) (bs : List Byte) :
    Except EErr Unit × State :=
  match p with
  | .tile q => (.ok (), (bs.zipIdx).foldl (fun st b => st.twrite (st.tphys (some swz) (q.add b.2)) [b.1]) s)
  | .spad d a =>
    match ag.core with
    | some c => (.ok (), s.spadEngine c a bs)
    | none => (.ok (), s.homePut d ag.issuer a bs)
  | .phys tgt pa => s.physWrite (s.ctx ag.cx).fjob sd.side (rCache sd.rc) tgt (s.pieces tgt pa bs.length) bs

/-! Elements. -/

/-- The width of a record's elements in bits. -/
def eWidth (rc : BitVec 256) : Nat := (fmtBits (rFmt rc)).getD 8

/-- The spans of bytes that hold element `j` of row `i`, and the element's first bit in them (05 R121; 03 R51). -/
def ESide.spans (sd : ESide) (i j : Nat) : List (W64 × Nat) × Nat :=
  let w := eWidth sd.rc
  let sp := rSpace sd.rc
  if 8 ≤ w then ([(elemAddr sp sd.base (rStr1 sd.rc) (rStr0 sd.rc) i j, w / 8)], 0)
  else
    let b := j * w
    ((List.range ((b % 8 + w + 7) / 8)).map (fun k => (elemAddr sp sd.base (rStr1 sd.rc) 1 i (b / 8 + k), 1)), b % 8)

/-- The swizzle through which a side's bytes are found: the record's for a destination, the stamp's for a source. The old
value of a REDUCE in tile memory is read through the record's too, whatever the segment's stamp holds (DESIGN CHOICE,
log 98): the sum is written through it. -/
def ESide.swz (sd : ESide) : Option Nat := if sd.side = 1 then some (rSwz sd.rc) else none

/-- Bytes of several spans. -/
def State.eSpans (s : State) (ag : EngAg) (sd : ESide) (wr : Bool) : List (W64 × Nat) → Except EErr (List Byte) × State
  | [] => (.ok [], s)
  | x :: xs =>
    let r := s.ePlace ag sd x.1 x.2 wr
    match r.1 with
    | .error e => (.error e, r.2)
    | .ok p =>
      let q := r.2.placeRead ag sd sd.swz p x.2
      match q.1 with
      | .error e => (.error e, q.2)
      | .ok bs =>
        let t := State.eSpans q.2 ag sd wr xs
        match t.1 with
        | .error e => (.error e, t.2)
        | .ok cs => (.ok (bs ++ cs), t.2)

/-- Bytes written into several spans. -/
def State.eStore (s : State) (ag : EngAg) (sd : ESide) : List (W64 × Nat) → List Byte → Except EErr Unit × State
  | [], _ => (.ok (), s)
  | x :: xs, bs =>
    let r := s.ePlace ag sd x.1 x.2 true
    match r.1 with
    | .error e => (.error e, r.2)
    | .ok p =>
      let q := r.2.placeWrite ag sd (rSwz sd.rc) p (bs.take x.2)
      match q.1 with
      | .error e => (.error e, q.2)
      | .ok _ => State.eStore q.2 ag sd xs (bs.drop x.2)

/-- The bits of element `j` of row `i`. -/
def State.eGet (s : State) (ag : EngAg) (sd : ESide) (i j : Nat) : Except EErr Nat × State :=
  let sp := sd.spans i j
  let r := s.eSpans ag sd false sp.1
  match r.1 with
  | .error e => (.error e, r.2)
  | .ok bs => (.ok (fieldOf (leNat bs) sp.2 (eWidth sd.rc)), r.2)

/-- Element `j` of row `i` written; a record with RO stops the write (03 R67). -/
def State.ePut (s : State) (ag : EngAg) (sd : ESide) (i j code : Nat) : Except EErr Unit × State :=
  let sp := sd.spans i j
  let w := eWidth sd.rc
  if rRo sd.rc then (.error (4, 2 + sd.side), s)
  else if 8 ≤ w then s.eStore ag sd sp.1 (leBytes (w / 8) code)
  else
    let r := s.eSpans ag sd true sp.1
    match r.1 with
    | .error e => (.error e, r.2)
    | .ok bs => r.2.eStore ag sd sp.1 (leBytes bs.length (nput (leNat bs) sp.2 w code))

/-! Scales of block formats (03 R56; 04 R101, R102). -/

/-- The side-band use of a block format (04 R101). -/
def sbwOf (fmt : Nat) : Nat := match fmt with | 0x19 => 2 | 0x14 => 2 | 0x1A => 3 | _ => 1

/-- The partner of a physical segment: team segments 2k and 2k + 1 (04 R102). The partner of a last, even segment is the next
physical one, whatever holds it (DESIGN CHOICE, log 132). -/
def State.partner (s : State) (c seg : Nat) : Nat :=
  let base := (s.team (tget 0 (s.core c).segTeam seg - 1)).base
  base + ((seg - base) ^^^ 1)

/-- The index of a physical segment in its team. -/
def State.teamSeg (s : State) (c seg : Nat) : Nat := seg - (s.team (tget 0 (s.core c).segTeam seg - 1)).base

/-- Scale `i` of a segment's side band under a format. -/
def State.sbGet (s : State) (c seg fmt i : Nat) : Nat :=
  let m := (s.core c).side
  if fmt = 0x1A then
    4 * (mget m (seg * 256 + i)).toNat + fieldOf (mget m (s.partner c seg * 256 + 192 + i / 4)).toNat (2 * (i % 4)) 2
  else if isKX fmt then fieldOf (mnum m (seg * 256 + 4 * (i / 3)) 4) (10 * (i % 3)) 10
  else (mget m (seg * 256 + i)).toNat

/-- Scale `i` of a segment's side band written, with SBW set (04 R99). No other write changes SBW: it keeps the use of the last
scale written (DESIGN CHOICE, log 132). -/
def State.sbPut (s : State) (c seg fmt i code : Nat) : State :=
  let p := s.partner c seg * 256 + 192 + i / 4
  let f := seg * 256 + 4 * (i / 3)
  let s1 := s.modCore c (fun co =>
    { co with
      side :=
        if fmt = 0x1A then
          mset (mset co.side (seg * 256 + i) (BitVec.ofNat 8 (code / 4))) p
            (BitVec.ofNat 8 (nput (mget co.side p).toNat (2 * (i % 4)) 2 code))
        else if isKX fmt then
          mput co.side f 4 (nput (mnum co.side f 4) (10 * (i % 3)) 10 code)
        else mset co.side (seg * 256 + i) (BitVec.ofNat 8 code) })
  s1.setMeta c seg (BitVec.ofNat 32 (nput ((s1.core c).meta1 seg).toNat 10 2 (sbwOf fmt)))

/-- May a segment take scales of a format (04 R102)? -/
def State.sbFits (s : State) (c seg fmt : Nat) : Bool :=
  let odd := decide (s.teamSeg c seg % 2 = 1)
  let w := mSbw ((s.core c).meta1 (s.partner c seg))
  match sbwOf fmt with
  | 3 => !odd && decide (w ≠ 2)
  | 2 => !odd || decide (w ≠ 3)
  | _ => true

/-- The scale's number in the segment of its block's first element (04 R101): `shift` is the element's bit in its byte. -/
def sbIndex (fmt a shift : Nat) : Nat := (a % 4096 * 8 + shift) / (32 * (fmtBits fmt).getD 8)

/-- The bytes of a row of a scale plane (03 R56). -/
def planeRow (rc : BitVec 256) : Nat :=
  let nb := (rExt0 rc + 31) / 32
  if isKX (rFmt rc) then 4 * ((nb + 2) / 3) else 4 * ((nb + 3) / 4)

/-- The address in a scale plane that holds the scale of block `b` of row `i` (03 R56). -/
def ESide.planeAddr (sd : ESide) (i b : Nat) : W64 :=
  let o := rExt1 sd.rc * rStr1 sd.rc + i * planeRow sd.rc + if isKX (rFmt sd.rc) then 4 * (b / 3) else b
  elemAddr (rSpace sd.rc) sd.base 0 1 0 o

/-- The tile-memory byte of the first element of a block, if the side lies there. -/
def State.blockLoc (s : State) (ag : EngAg) (sd : ESide) (i j : Nat) (wr : Bool) : Except EErr (Option TLoc) × State :=
  if rSpace sd.rc < 2 then
    let r := s.ePlace ag sd ((sd.spans i j).1.headD (0, 1)).1 1 wr
    match r.1 with
    | .error e => (.error e, r.2)
    | .ok (.tile p) => (.ok (some p), r.2)
    | .ok _ => (.ok none, r.2)
  else (.ok none, s)

/-- The scale of the block that starts at element `j` of row `i`. Elements that lie in the side-band window have no side band
of their own, and the manual names no scale for them: it is read as 0 (DESIGN CHOICE, log 98). -/
def State.scaleGet (s : State) (ag : EngAg) (sd : ESide) (i j : Nat) : Except EErr Nat × State :=
  let fmt := rFmt sd.rc
  let l := s.blockLoc ag sd i j false
  match l.1 with
  | .error e => (.error e, l.2)
  | .ok (some (.data c a)) => (.ok (l.2.sbGet c (a / 4096) fmt (sbIndex fmt a (sd.spans i j).2)), l.2)
  | .ok (some (.side _ _)) => (.ok 0, l.2)
  | .ok none =>
    let n := if isKX fmt then 4 else 1
    let r := l.2.eSpans ag sd false [(sd.planeAddr i (j / 32), n)]
    match r.1 with
    | .error e => (.error e, r.2)
    | .ok bs => (.ok (if isKX fmt then fieldOf (leNat bs) (10 * (j / 32 % 3)) 10 else leNat bs), r.2)

/-- The scale of a block written as one step (03 R55); that of a block in the side-band window is dropped (DESIGN CHOICE,
log 98). -/
def State.scalePut (s : State) (ag : EngAg) (sd : ESide) (i j code : Nat) : Except EErr Unit × State :=
  let fmt := rFmt sd.rc
  let l := s.blockLoc ag sd i j true
  match l.1 with
  | .error e => (.error e, l.2)
  | .ok (some (.data c a)) => (.ok (), l.2.sbPut c (a / 4096) fmt (sbIndex fmt a (sd.spans i j).2) code)
  | .ok (some (.side _ _)) => (.ok (), l.2)
  | .ok none =>
    let va := sd.planeAddr i (j / 32)
    if isKX fmt then
      let r := l.2.eSpans ag sd true [(va, 4)]
      match r.1 with
      | .error e => (.error e, r.2)
      | .ok bs => r.2.eStore ag sd [(va, 4)] (leBytes 4 (nput (leNat bs) (10 * (j / 32 % 3)) 10 code))
    else l.2.eStore ag sd [(va, 1)] (leBytes 1 code)

/-! Segments and their tags (03 R62; 04 R99). -/

/-- A metadata word with VALID, SBV, and keep for TAGW 1; under TAGW 2 the tag stays (R62). -/
def doneTags (m : W32) (rc : BitVec 256) (tagw : Nat) : W32 :=
  let m2 := BitVec.ofNat 32 (nput m.toNat 9 1 (if isBlock (rFmt rc) then 1 else 0))
  let m3 := if tagw = 1 then m2 ||| 0x100 else m2
  if tagw < 2 then mSetTag m3 2 else m3

/-- The same with the stamp of the record's SWZ (R62, 04 R105). -/
def doneMeta (m : W32) (rc : BitVec 256) (tagw : Nat) : W32 := doneTags (mSetStamp m (rSwz rc)) rc tagw

/-- The physical segments, as 512·core + segment, whose data bytes element `j` of row `i` of a side in tile memory
touches. -/
def State.eSegs (s : State) (ag : EngAg) (sd : ESide) (i j : Nat) : List Nat :=
  if 2 ≤ rSpace sd.rc then []
  else (sd.spans i j).1.filterMap (fun x =>
    match ag.team with
    | none => none
    | some tk =>
      match s.localLoc tk (rSpace sd.rc) x.1.toNat x.2 with
      | some (.data c a) => some (512 * c + a / 4096)
      | _ => none)

/-- The metadata word of a segment key. -/
def State.segMeta (s : State) (k : Nat) : W32 := (s.core (k / 512)).meta1 (k % 512)
/-- The metadata word of a segment key replaced. -/
def State.setSegMeta (s : State) (k : Nat) (m : W32) : State := s.setMeta (k / 512) (k % 512) m

/-- A source segment that an engine has read to the end under "consume": CONSUMED unless KEEP is set (R62). -/
def State.consume (s : State) (k : Nat) : State :=
  if mKeep (s.segMeta k) then s else s.setSegMeta k (mSetTag (s.segMeta k) 3)

end Sys2Proof.Machine
end

