-- ==== Sys2Proof/Machine/Copy.lean ====
section
/-! DEFINITION. Copy commands: their checks, geometry, conversion and pieces (spec/03 R45 to R72; 07 R174 to R176). -/

namespace Sys2Proof.Machine

/-! The fields of a command (R48). -/

/-- RM. -/
def CopyCmd.rm (c : CopyCmd) : RMode := rmOf (fieldOf (c.word 0) 20 3)
/-- TAGR; ignored in a COPY node (15 R387). -/
def CopyCmd.tagr (c : CopyCmd) : Nat := if c.gk.isNone then 2 else fieldOf (c.word 0) 18 2
/-- TAGW. -/
def CopyCmd.tagw (c : CopyCmd) : Nat := if c.gk.isNone || c.pstw then 2 else fieldOf (c.word 0) 16 2
/-- QEN. -/
def CopyCmd.qen (c : CopyCmd) : Bool := decide (fieldOf (c.word 0) 24 1 = 1)
/-- CTAG (R48, 07 R175). -/
def CopyCmd.ctag (c : CopyCmd) : Nat := if c.pstw then fieldOf (c.word 3) 0 8 else fieldOf (c.word 7) 24 8
/-- N0. -/
def CopyCmd.n0 (c : CopyCmd) : Nat := if c.pstw then 128 else c.word 5
/-- N1. -/
def CopyCmd.n1 (c : CopyCmd) : Nat := if c.pstw then 128 else fieldOf (c.word 6) 0 20
/-- The outer count. -/
def CopyCmd.nout (c : CopyCmd) : Nat := if c.kind = 3 then fieldOf (c.word 6) 20 12 else 1
/-- Runs per row. -/
def CopyCmd.nj (c : CopyCmd) : Nat := (c.n0 + 31) / 32
/-- Runs in all. -/
def CopyCmd.total (c : CopyCmd) : Nat := c.nout * c.n1 * c.nj
/-- Bits of a destination element. -/
def CopyCmd.dbits (c : CopyCmd) : Nat := if c.pstw then 32 else eWidth c.d
/-- The records that a command uses: source, destination, table or transposed copy. -/
def CopyCmd.usesS (c : CopyCmd) : Bool := c.kind ≠ 1

/-! Checks (R48, R49, R51, R54, R55, R61, R64). -/

/-- The lowest of the failing bits. -/
def lowest (l : List (Nat × Bool)) : Option Nat :=
  (l.filter (fun p => p.2)).foldl (fun m p => match m with
    | none => some p.1
    | some x => some (min x p.1)) none

/-- R48: the lowest bit of an offending field. TAGR and TAGW are ignored for a side outside spaces 0 and 1 (R48), and in a
COPY node (15 R387). -/
def CopyCmd.fieldErr (c : CopyCmd) (node : Bool) : Option Nat :=
  let w0 := c.word 0
  let k := fieldOf w0 0 4
  let w7 := c.word 7
  lowest [(25, fieldOf w0 25 7 ≠ 0), (0, decide (4 < k)), (20, decide (4 < fieldOf w0 20 3)), (18, !node && k ≠ 1 && decide (rSpace c.s < 2) && fieldOf w0 18 2 == 3),
    (16, !node && decide (rSpace c.d < 2) && fieldOf w0 16 2 == 3), (12, k ≠ 3 && fieldOf w0 12 4 ≠ 0), (4, k == 1 && fieldOf w0 4 4 ≠ 0),
    (64, k == 1 && c.word 2 ≠ 0), (160, c.word 5 == 0), (192, fieldOf (c.word 6) 0 20 == 0),
    (212, (fieldOf (c.word 6) 20 12 == 0) == (k == 3)),
    (224, if c.follow then fieldOf w7 0 6 ≠ 0 else fieldOf w7 0 20 ≠ 0), (244, !c.follow && fieldOf w7 20 4 ≠ 0),
    (24, node && fieldOf w0 24 1 ≠ 0), (4, node && decide (3 < fieldOf w0 4 4)), (8, node && decide (3 < fieldOf w0 8 4)),
    (12, node && decide (3 < fieldOf w0 12 4))]

/-- R51: BASE and the strides of a record. -/
def alignedRec (rc : BitVec 256) : Bool :=
  let w := eWidth rc
  let b := (rBase rc).toNat
  if w < 8 then rStr0 rc == 1 && b % 4 == 0 && rStr1 rc % 4 == 0
  else b % (w / 8) == 0 && rStr1 rc % (w / 8) == 0 && (rStr0 rc == w / 8 || rStr0 rc == 0)

/-- R51: offsets and counts of a block format. -/
def blockGeom (rc : BitVec 256) (off n0 : Nat) : Bool :=
  !isBlock (rFmt rc) || (off % 32 == 0 && (n0 % 32 == 0 || off + n0 == rExt0 rc))

/-- The destinations of CONVERT by source (R54). -/
def convOk (sf df : Nat) : Bool :=
  if sf = 8 then [0x0A, 0x09, 0x0B, 0x0C].contains df || isBlock df
  else if sf = 0x0A then [8, 0x0B, 0x0C].contains df || isBlock df
  else ([9, 0x0B, 0x0C].contains sf || isBlock sf) && (df == 8 || df == 0x0A)

/-- The format pairs of R54, R55 and R61. -/
def CopyCmd.fmtOk (c : CopyCmd) : Bool :=
  let sf := rFmt c.s
  let df := rFmt c.d
  (fmtBits df).isSome && (c.kind == 1 || (fmtBits sf).isSome) &&
    (match c.kind with
     | 1 => !isBlock df
     | 2 => convOk sf df
     | 4 => sf == df && [8, 0x0A, 5].contains sf
     | _ => eWidth c.s == eWidth c.d && (sf == df || (!isBlock sf && !isBlock df)))

/-- A group's index lies in a complete quartet (09 R210). -/
def State.inQuartet (s : State) (gk : Nat) : Bool := decide (idxOf gk / 4 * 4 + 3 < (s.launchG gk).groups)

/-- R175 and R176: the checks of PSTW. -/
def CopyCmd.pstwErr (c : CopyCmd) : Option EErr :=
  let w0 := c.word 0
  match lowest [(25, fieldOf w0 25 7 ≠ 0), (20, decide (4 < fieldOf w0 20 3)), (18, decide (rSpace c.s < 2) && fieldOf w0 18 2 == 3),
      (16, fieldOf w0 16 2 ≠ 0), (0, fieldOf w0 0 4 ≠ 0), (104, fieldOf (c.word 3) 8 24 ≠ 0)] with
  | some b => some (1, b)
  | none =>
    if 2 ≤ rSpace c.s then some (6, 0)
    else if rFmt c.s ≠ 8 ∧ rFmt c.s ≠ 0x0A then some (1, 0x0100)
    else if rSpace c.d ≠ 7 ∨ rSpace c.t ≠ 7 then some (6, 0)
    else if rFmt c.d ≠ 0x0A ∨ rFmt c.t ≠ 0x0A then some (1, 0x0100)
    else if !rShadow c.d || !rShadow c.t then some (6, 2)
    else if rView c.d ≠ rView c.t then some (1, 12)
    else if !alignedRec c.s || !alignedRec c.d || !alignedRec c.t then some (1, 0x0101)
    else if rShadow c.s then some (6, 4)
    else none

/-- The command error or space error that ends a command before any byte moves (R49, R54, R61, R64, R77). A command that
breaks several rules reports the first in this order, which the manual does not give (DESIGN CHOICE, log 98): fields,
format pair, a node's spaces, alignment, geometry, the follow-on, SHADOW, spaces. -/
def State.copyErr (s : State) (c : CopyCmd) : Option EErr :=
  let node := c.gk.isNone
  let used := (if c.usesS then [c.s] else []) ++ [c.d]
  if c.pstw then c.pstwErr
  else match c.fieldErr node with
    | some b => some (1, b)
    | none =>
      if !c.fmtOk then some (1, 0x0100)
      else if node && used.any (fun r => decide (rSpace r < 2)) then some (6, 0)
      else if used.any (fun r => !alignedRec r) then some (1, 0x0101)
      else if (c.usesS && !blockGeom c.s (c.word 1) c.n0) || !blockGeom c.d (c.word 3) c.n0 then some (1, 0x0102)
      else if rSpace c.d < 2 ∧ 4 < rSwz c.d then some (1, 0x0102)
      else if c.follow && (rSpace c.d != 0 || !(c.gk.map s.inQuartet).getD false) then some (1, 0x0104)
      else if used.any (fun r => rShadow r && rSpace r != 7) then some (6, 4)
      else if (c.kind = 4 ∧ 3 < rSpace c.d) ∨ (c.kind = 3 ∧ rSpace c.t ≠ 2 ∧ rSpace c.t ≠ 3) then some (6, 0)
      else none

/-! Geometry (R50, R52). -/

/-- The agent of an engine's command. -/
def copyAg (e : Eng) (c : CopyCmd) : EngAg :=
  match e with
  | .core n => ⟨engHolder e, c.ctx, c.priv, c.gk.map teamOf, some n, dieOf n, none⟩
  | .link => ⟨engHolder e, c.ctx, c.priv, c.gk.map teamOf, none, match c.gk with
      | some _ => dieOf c.home
      | none => c.home, c.gk.map (fun _ => c.home)⟩

/-- The bound slot of a record. -/
def CopyCmd.pin (c : CopyCmd) (rc : BitVec 256) : Option ViewPin :=
  if rSpace rc = 7 then c.bound.find? (fun p => decide (p.handle = rView rc) && p.shadow == rShadow rc) else none

/-- A side of a command. -/
def CopyCmd.src (c : CopyCmd) : ESide :=
  ⟨c.s, if c.kind = 3 then (match c.gather with | some g => g.2 | none => rBase c.s) else rBase c.s, c.pin c.s, 0⟩
/-- The destination. -/
def CopyCmd.dst (c : CopyCmd) : ESide := ⟨c.d, rBase c.d, c.pin c.d, 1⟩
/-- The transposed copy of PSTW. -/
def CopyCmd.trn (c : CopyCmd) : ESide := ⟨c.t, rBase c.t, c.pin c.t, 1⟩

/-- The outer, row and first-element numbers of a run. -/
def CopyCmd.coord (c : CopyCmd) (k : Nat) : Nat × Nat × Nat :=
  (k / (c.n1 * c.nj), k % (c.n1 * c.nj) / c.nj, k % c.nj * 32)

/-- The elements of a run. -/
def CopyCmd.runLen (c : CopyCmd) (k : Nat) : Nat := min 32 (c.n0 - k % c.nj * 32)

/-- An index pair checked (R50): the row and element, none where dropped, or the bounds error. -/
def pairOf (rc : BitVec 256) (side row j : Nat) : Except EErr (Option (Nat × Nat)) :=
  match check j (rExt0 rc) (rBchk rc), check row (rExt1 rc) (rBchk rc) with
  | .bad, _ => .error (2, side)
  | _, .bad => .error (2, side + 2)
  | .idx a, .idx b => .ok (some (b, a))
  | _, _ => .ok none

/-- The source index of element `j` of a row. -/
def CopyCmd.srcIx (c : CopyCmd) (i j : Nat) : Except EErr (Option (Nat × Nat)) :=
  if c.pstw then pairOf c.s 0 i j else pairOf c.s 0 (c.word 2 + i) (c.word 1 + j)
/-- The destination index. -/
def CopyCmd.dstIx (c : CopyCmd) (o i j : Nat) : Except EErr (Option (Nat × Nat)) :=
  if c.pstw then pairOf c.d 1 (c.word 1 + i) (c.word 2 + j) else pairOf c.d 1 (c.word 4 + o * c.n1 + i) (c.word 3 + j)
/-- The index of the transposed copy. -/
def CopyCmd.trnIx (c : CopyCmd) (i j : Nat) : Except EErr (Option (Nat × Nat)) :=
  pairOf c.t 1 (c.word 2 + j) (c.word 1 + i)

/-- The segments that a run touches on one side. -/
def State.runSegs (s : State) (ag : EngAg) (c : CopyCmd) (dst : Bool) (k : Nat) : List Nat :=
  let p := c.coord k
  ((List.range (c.runLen k)).flatMap (fun j =>
    match (if dst then c.dstIx p.1 p.2.1 (p.2.2 + j) else c.srcIx p.2.1 (p.2.2 + j)) with
    | .ok (some x) => s.eSegs ag (if dst then c.dst else c.src) x.1 x.2
    | _ => [])).eraseDups

/-- The sides in tile memory: the segments of a run's source and destination. -/
def State.runSrc (s : State) (ag : EngAg) (c : CopyCmd) (k : Nat) : List Nat :=
  if c.usesS then s.runSegs ag c false k else []

/-! Values (R54 to R61). -/

/-- The value of an element under its format and scale. -/
def eVal (fmt scale code : Nat) : FVal :=
  if isBlock fmt then widenIn fmt scale code
  else match fltOf fmt with
    | some f => unpack f code
    | none => .fin false code 1

/-- The FP32 pattern of a value. -/
def f32Of (v : FVal) : Nat := (narrow fp32 .rne 0 v).bits

/-- Random bits of an element by its destination linear index (R59, 05 R132). -/
def CopyCmd.rnd (c : CopyCmd) (seed : W32) (lin : Nat) : Nat :=
  rnd16 false (philox (BitVec.ofNat 32 lin) (BitVec.ofNat 32 (lin / 2 ^ 32)) 2 0 c.seed seed)

/-- The linear index of a destination element (R59). -/
def linOf (rc : BitVec 256) (x : Nat × Nat) : Nat := x.1 * rExt0 rc + x.2

/-- A value narrowed to a plain format under RULE and SCALE (05 R122; 03 R58). -/
def narrowRule (fmt : Nat) (t : Tcb) (mode : RMode) (rnd : Nat) (v : FVal) : FRes :=
  match fltOf fmt with
  | none => ⟨0, 0⟩
  | some f =>
    if f.sat && decide (t.rule = 1) then narrow f mode rnd (exDiv v (unpack fp32 t.scale.toNat)) else narrow f mode rnd v

/-- A run's destination segments turn FILLING on their first byte (R62): those of one element, or of its block's scale. -/
def State.cFirst (s : State) (ag : EngAg) (c : CopyCmd) (x : Nat × Nat) : State × CopyCmd :=
  let ds := (if c.pstw then [] else s.eSegs ag c.dst x.1 x.2).filter (fun g => !c.filling.any (fun f => decide (f.1 = g)))
  (if c.tagw = 2 then s else ds.foldl (fun st g => st.setSegMeta g (mSetTag (st.segMeta g) 1)) s,
   { c with filling := c.filling ++ ds.map (fun g => (g, s.segMeta g)) })

/-- How far a part of a command has come: the error that stops it, the state, and the command. -/
abbrev CRes := Option EErr × State × CopyCmd

/-- A part that follows another, unless that one stopped. -/
def cThen (r : CRes) (f : State → CopyCmd → CRes) : CRes :=
  match r.1 with
  | some e => (some e, r.2.1, r.2.2)
  | none => f r.2.1 r.2.2

/-- A view whose shadow has been written through a bound slot is DIRTY (R77). -/
def State.pinDirty (s : State) (cx : Nat) (p : Option ViewPin) : State :=
  match p with
  | some v => s.setDirty cx v.live v.slot
  | none => s

/-- An element written, with the count of destination bits: UNITS counts element bytes alone, not those of scales, which
the manual does not mention there (DESIGN CHOICE, log 98). A view whose shadow is written is DIRTY (R77). -/
def State.cPut (s : State) (ag : EngAg) (c : CopyCmd) (sd : ESide) (x : Option (Nat × Nat)) (code : Nat) : CRes :=
  match x with
  | none => (none, s, c)
  | some p =>
    let r := s.ePut ag sd p.1 p.2 code
    match r.1 with
    | .error e => (some e, r.2, c)
    | .ok _ =>
      let m := (r.2.pinDirty c.ctx sd.pin).cFirst ag { c with bytes := c.bytes + eWidth sd.rc } p
      (none, m.1, m.2)

/-- An element read; zero where BCHK drops it. -/
def State.cGet (s : State) (ag : EngAg) (sd : ESide) (x : Option (Nat × Nat)) : Except EErr Nat × State :=
  match x with
  | none => (.ok 0, s)
  | some p => s.eGet ag sd p.1 p.2

/-- The scale of a source block; zero where dropped. -/
def State.cScale (s : State) (ag : EngAg) (sd : ESide) (x : Option (Nat × Nat)) : Except EErr Nat × State :=
  match x with
  | none => (.ok 0, s)
  | some p => s.scaleGet ag sd p.1 p.2

/-- The scale of a destination block written. -/
def State.cScalePut (s : State) (ag : EngAg) (c : CopyCmd) (x : Option (Nat × Nat)) (code : Nat) : CRes :=
  match x with
  | none => (none, s, c)
  | some y =>
    if rRo c.d then (some (4, 3), s, c)
    else
      let r := s.scalePut ag c.dst y.1 y.2 code
      match r.1 with
      | .error e => (some e, r.2, c)
      | .ok _ => let m := (r.2.pinDirty c.ctx c.dst.pin).cFirst ag c y; (none, m.1, m.2)

/-- The sum of REDUCE (R61). -/
def reduceVal (fmt : Nat) (mode : RMode) (rnd old v : Nat) : Nat :=
  if fmt = 5 then (old + v) % 2 ^ 32
  else if fmt = 8 then (fAdd fp32 mode rnd old v).bits
  else (fAdd bf16 mode rnd old v).bits

/-- The destination of a REDUCE in a software-managed segment is at the home slice (R61; 13 R334, R345): the core's copy
of its line is written back and dropped first. -/
def State.cHome (s : State) (ag : EngAg) (sd : ESide) (x : Option (Nat × Nat)) : State :=
  match ag.core, x with
  | some n, some p =>
    if rSpace sd.rc = 2 then (sd.spans p.1 p.2).1.foldl (fun st a => st.dropLine n a.1.toNat) s else s
  | _, _ => s

/-- AMAX raised by a source value (R60). -/
def CopyCmd.seen (c : CopyCmd) (v : FVal) : CopyCmd := { c with amax := BitVec.ofNat 32 (amaxOf c.amax.toNat (f32Of v)) }

/-- The source element of a run's element: what it reads, and the command with the element counted as read. -/
def State.cRead (s : State) (ag : EngAg) (c : CopyCmd) (i j : Nat) : Except EErr Nat × State × CopyCmd :=
  if !c.usesS then (.ok (c.word 1 % 2 ^ eWidth c.d), s, c)
  else match c.srcIx i j with
    | .error e => (.error e, s, c)
    | .ok x =>
      let g := s.cGet ag c.src x
      match g.1 with
      | .error e => (.error e, g.2, c)
      | .ok code => (.ok code, g.2, { c with rd := c.rd + 1 })

/-- The random bits of an element (R59, 07 R176): PSTW counts by the plain position, before any check. -/
def CopyCmd.elemRnd (c : CopyCmd) (seed : W32) (i j : Nat) (x : Option (Nat × Nat)) : Nat :=
  if c.pstw then c.rnd seed ((c.word 1 + i) * rExt0 c.d + (c.word 2 + j))
  else match x with
    | some y => c.rnd seed (linOf c.d y)
    | none => 0

/-- What an element's value becomes in the destination (R54 to R61), with the command's AMAX and saturation count. -/
def CopyCmd.convert (c : CopyCmd) (t : Tcb) (scale rnd code : Nat) (dx : Option (Nat × Nat)) : Nat × CopyCmd :=
  match c.kind with
  | 2 =>
    let v := eVal (rFmt c.s) scale code
    let n := narrowRule (rFmt c.d) t c.rm rnd v
    let c1 := if c.tracks then c.seen v else c
    let sat := (rFmt c.d = 0x0B ∨ rFmt c.d = 0x0C) ∧ n.fl &&& fOF ≠ 0 ∧ dx.isSome = true
    (n.bits, if sat then { c1 with sat := c1.sat + 1 } else c1)
  | 5 => (if rFmt c.s = 0x0A then code else (narrow bf16 c.rm rnd (eVal (rFmt c.s) 0 code)).bits, c)
  | _ => (code, c)

/-- One element of a command that narrows to no block. -/
def State.cElem (s : State) (ag : EngAg) (c : CopyCmd) (t : Tcb) (scale : Nat) (o i j : Nat) : CRes :=
  let g := s.cRead ag c i j
  match (if c.usesS then c.srcIx i j else .ok none), c.dstIx o i j, g.1 with
  | .error e, _, _ => (some e, s, c)
  | _, .error e, _ => (some e, s, c)
  | _, _, .error e => (some e, g.2.1, g.2.2)
  | _, .ok dx, .ok code =>
    let rnd := c.elemRnd t.seed i j dx
    let v := g.2.2.convert t scale rnd code dx
    let done := fun (r : CRes) => cThen r (fun st d => (none, st, { d with wr := d.wr + 1 }))
    match c.kind with
    | 4 => if rRo c.d ∧ dx.isSome = true then (some (4, 3), g.2.1, v.2) else
      let old := (g.2.1.cHome ag c.dst dx).cGet ag c.dst dx
      match old.1 with
      | .error e => (some e, old.2, v.2)
      | .ok w => done (old.2.cPut ag v.2 c.dst dx (reduceVal (rFmt c.d) c.rm rnd w code))
    | 5 =>
      done (cThen (g.2.1.cPut ag v.2 c.dst dx v.1) (fun st d =>
        match c.trnIx i j with
        | .error e => (some e, st, d)
        | .ok tx => st.cPut ag d c.trn tx v.1))
    | _ => done (g.2.1.cPut ag v.2 c.dst dx v.1)

/-- Elements in order, until one fails. -/
def State.cElems (s : State) (ag : EngAg) (c : CopyCmd) (t : Tcb) (scale : Nat) (o i : Nat) (js : List Nat) : CRes :=
  js.foldl (fun r j => cThen r (fun st d => st.cElem ag d t scale o i j)) (none, s, c)

/-- The source values of a block that is narrowed, in order; those read before an element fails count for AMAX (R60). -/
def State.cVals (s : State) (ag : EngAg) (c : CopyCmd) (i : Nat) : List Nat → Except EErr (List FVal) × State × CopyCmd
  | [] => (.ok [], s, c)
  | j :: js =>
    let g := s.cRead ag c i j
    match g.1 with
    | .error e => (.error e, g.2.1, g.2.2)
    | .ok code =>
      let v := eVal (rFmt c.s) 0 code
      let q := State.cVals g.2.1 ag (g.2.2.seen v) i js
      match q.1 with
      | .error e => (.error e, q.2.1, q.2.2)
      | .ok vs => (.ok (v :: vs), q.2.1, q.2.2)

/-- The elements of a narrowed block written in order. -/
def State.cPuts (s : State) (ag : EngAg) (c : CopyCmd) (seed : W32) (scale o i : Nat) (l : List (Nat × FVal)) : CRes :=
  l.foldl (fun r jv => cThen r (fun st d =>
    match d.dstIx o i jv.1 with
    | .error e => (some e, st, d)
    | .ok x =>
      let n := narrowIn (rFmt d.d) scale d.rm (d.elemRnd seed i jv.1 x) jv.2
      let d1 := if n.fl &&& fOF ≠ 0 ∧ x.isSome = true then { d with sat := d.sat + 1 } else d
      cThen (st.cPut ag d1 d1.dst x n.bits) (fun u e => (none, u, { e with wr := e.wr + 1 })))) (none, s, c)

/-- One run (R50, R55, R57): the error that stops the command, the state, and the command as it stands. -/
def State.cRun (s : State) (ag : EngAg) (c : CopyCmd) (t : Tcb) (k : Nat) : CRes :=
  let p := c.coord k
  let js := (List.range (c.runLen k)).map (fun j => p.2.2 + j)
  if c.kind = 2 ∧ isBlock (rFmt c.d) = true then
    let r := s.cVals ag c p.2.1 js
    match c.dstIx p.1 p.2.1 p.2.2, r.1 with
    | .error e, _ => (some e, s, c)
    | _, .error e => (some e, r.2.1, r.2.2)
    | .ok x, .ok vs =>
      let code := blockScale (rFmt c.d) vs
      cThen (r.2.1.cScalePut ag r.2.2 x code) (fun st d => st.cPuts ag d t.seed code p.1 p.2.1 (js.zip vs))
  else if c.usesS && isBlock (rFmt c.s) then
    match c.srcIx p.2.1 p.2.2 with
    | .error e => (some e, s, c)
    | .ok x =>
      let g := s.cScale ag c.src x
      match g.1 with
      | .error e => (some e, g.2, c)
      | .ok code =>
        if c.kind = 2 then g.2.cElems ag c t code p.1 p.2.1 js
        else
          match c.dstIx p.1 p.2.1 p.2.2 with
          | .error e => (some e, g.2, c)
          | .ok y => cThen (g.2.cScalePut ag c y code) (fun st d => st.cElems ag d t 0 p.1 p.2.1 js)
  else s.cElems ag c t 0 p.1 p.2.1 js

/-! Pieces (R45, R62). -/

/-- Views bound before a command's first access (R76): destinations first, since a write asks more. -/
def State.cBind (s : State) (hd : Holder) (c : CopyCmd) : List (BitVec 256 × Bool) → (Option EErr ⊕ Bool) × State × CopyCmd
  | [] => (.inr true, s, c)
  | (rc, wr) :: l =>
    if rSpace rc ≠ 7 ∨ (c.pin rc).isSome = true then State.cBind s hd c l
    else
      let r := s.viewBind hd c.ctx (rView rc) (rShadow rc) wr
      match r.1 with
      | .err a b => (.inl (some (a, b)), r.2, c)
      | .wait => (.inr false, r.2, c)
      | .ok p => State.cBind r.2 hd { c with bound := c.bound ++ [p] } l

/-- The records whose views a command binds. -/
def CopyCmd.viewRecs (c : CopyCmd) : List (BitVec 256 × Bool) :=
  [(c.d, true)] ++ (if c.pstw then [(c.t, true)] else []) ++ (if c.usesS then [(c.s, false)] else [])

/-- A table record with its fields that R52 ignores at 0: CACHE, RO, SWZ, SHADOW. -/
def tableRec (t : BitVec 256) : BitVec 256 := BitVec.ofNat 256 (nput t.toNat 205 11 0)

/-- The table entry of outer index `o` (R52), read when the engine first reaches it. -/
def State.cTable (s : State) (ag : EngAg) (c : CopyCmd) (o : Nat) : Option EErr × State × CopyCmd :=
  if c.kind ≠ 3 then (none, s, c)
  else if (c.gather.map (fun g => g.1)) = some o then (none, s, c)
  else match check o (rExt0 c.t) (rBchk c.t) with
    | .bad => (some (2, 4), s, c)
    | .drop => (none, s, { c with gather := some (o, 0) })
    | .idx x =>
      let r := s.eSpans ag ⟨tableRec c.t, rBase c.t, none, 0⟩ false [(elemAddr (rSpace c.t) (rBase c.t) 0 8 0 x, 8)]
      match r.1 with
      | .error e => (some e, r.2, c)
      | .ok bs =>
        let b := BitVec.ofNat 64 (leNat bs)
        let a := if eWidth c.s < 8 then 4 else eWidth c.s / 8
        if leNat bs % a ≠ 0 then (some (1, 0x0101), r.2, c) else (none, r.2, { c with gather := some (o, b) })

/-- Are the tags of a run ready (R62)? -/
def State.cReady (s : State) (ag : EngAg) (c : CopyCmd) (k : Nat) : Bool :=
  (c.tagw == 2 || (s.runSegs ag c true k).all (fun g =>
    c.filling.any (fun f => decide (f.1 = g)) || mTag (s.segMeta g) == 0 || mTag (s.segMeta g) == 3)) &&
  (2 ≤ c.tagr || (s.runSrc ag c k).all (fun g => c.reading.contains g || mTag (s.segMeta g) == 2))

/-- A run's source segments noted, where tags are honoured (R62). -/
def State.cMark (s : State) (ag : EngAg) (c : CopyCmd) (k : Nat) : CopyCmd :=
  { c with
    rd := 0
    wr := 0
    reading := c.reading ++ (if 2 ≤ c.tagr then [] else s.runSrc ag c k).filter (fun g => !c.reading.contains g) }

/-- The base that outer index `o` of a GATHER takes from its table as it stands (R52); none where no source is read. -/
def State.tableBase (s : State) (ag : EngAg) (c : CopyCmd) (o : Nat) : Option W64 :=
  match check o (rExt0 c.t) (rBchk c.t) with
  | .idx x =>
    match (s.eSpans ag ⟨tableRec c.t, rBase c.t, none, 0⟩ false [(elemAddr (rSpace c.t) (rBase c.t) 0 8 0 x, 8)]).1 with
    | .ok bs => some (BitVec.ofNat 64 (leNat bs))
    | .error _ => none
  | _ => none

/-- A command as it will stand at outer index `o`: a GATHER's later source bases are those that its table holds now. -/
def State.atOuter (s : State) (ag : EngAg) (c : CopyCmd) (o : Nat) : CopyCmd :=
  if c.kind ≠ 3 ∨ (c.gather.map (fun g => g.1)) = some o then c
  else match s.tableBase ag c o with
    | some b => { c with gather := some (o, b) }
    | none => c

/-- The segments that elements of a run touch on one side, from its `n`th element on. -/
def State.runSegsFrom (s : State) (ag : EngAg) (c0 : CopyCmd) (dst : Bool) (k n : Nat) : List Nat :=
  let p := c0.coord k
  let c := if dst then c0 else s.atOuter ag c0 p.1
  if dst || c.usesS then
    (List.range (c.runLen k - n)).flatMap (fun j =>
      match (if dst then c.dstIx p.1 p.2.1 (p.2.2 + n + j) else c.srcIx p.2.1 (p.2.2 + n + j)) with
      | .ok (some x) => s.eSegs ag (if dst then c.dst else c.src) x.1 x.2
      | _ => [])
  else []

/-- Does what is left of a command touch a segment: the rest of the run at hand, or a later run? -/
def State.touchesStill (s : State) (ag : EngAg) (c : CopyCmd) (dst : Bool) (g : Nat) : Bool :=
  (List.range (c.total - c.pos)).any (fun i =>
    (s.runSegsFrom ag c dst (c.pos + i) (if i = 0 then (if dst then c.wr else c.rd) else 0)).contains g)

/-- Segments whose last byte is done turn VALID, or are consumed (R62). -/
def State.cSettle (s : State) (ag : EngAg) (c : CopyCmd) : State × CopyCmd :=
  let dn := c.filling.filter (fun f => !s.touchesStill ag c true f.1)
  let rn := c.reading.filter (fun g => !s.touchesStill ag c false g)
  let s1 := dn.foldl (fun st f => st.setSegMeta f.1 (doneMeta (st.segMeta f.1) c.d c.tagw)) s
  let s2 := if c.tagr = 0 then rn.foldl State.consume s1 else s1
  (s2, { c with filling := c.filling.filter (fun f => !dn.contains f), reading := c.reading.filter (fun g => !rn.contains g) })

/-- A command stopped by an error (R67): segments that it has done are settled, and those still FILLING return to EMPTY. -/
def State.cStop (s : State) (ag : EngAg) (c : CopyCmd) (e : EErr) : State × CopyCmd :=
  let q := s.cSettle ag c
  (if c.tagw = 2 then q.1 else q.2.filling.foldl (fun st f => st.setSegMeta f.1 (mSetTag (st.segMeta f.1) 0)) q.1,
   { q.2 with st := .done, cls := e.1, detail := e.2, filling := [], reading := [] })

/-- The ranks of a command's peer sides (R47). -/
def CopyCmd.peers (c : CopyCmd) : List Nat :=
  (if c.usesS && rSpace c.s == 5 then [c.src.base.toNat / 2 ^ 48] else []) ++
    (if rSpace c.d = 5 then [(rBase c.d).toNat / 2 ^ 48] else [])

/-- The answer of a peer to a run of a command with a side there, the next of those to come (log 2): none is no error. A
peer of another generation answers code 1 (17 R427), which ends the command as a generation fence does (R67; DEDUCED,
log 65). -/
def State.cAnswer (s : State) (c : CopyCmd) : Option EErr × State :=
  if c.peers.isEmpty then (none, s)
  else match s.answers with
    | [] => (none, s)
    | a :: l =>
      let s1 := { s with answers := l }
      if a.1 = 0 then (none, s1)
      else if a.1 = 1 then (some (7, 1), s1)
      else let f := s1.poolErr (if rSpace c.d = 5 then 1 else 0) a.1; (some f.1, f.2)

/-- What keeps a command with a peer side from moving (R47): none when nothing does. An unreachable peer gives a class
that the manual does not name: a free value (log 22), save for a generation fence, class 7 with DETAIL 1. -/
def State.cPeer (s : State) (c : CopyCmd) : Option PeerSt :=
  (c.peers.map s.peerSt).find? (fun p => match p with | .go _ => false | _ => true)

/-- The runs of a piece: at most 4 KiB of destination bytes (R45). -/
def CopyCmd.perPiece (c : CopyCmd) : Nat := 1024 / c.dbits

/-- The views of a run's accesses bound and the run done (R50, R76), once its tags are ready. -/
def State.cStep (s : State) (ag : EngAg) (c : CopyCmd) (t : Tcb) : Option EErr × Bool × State × CopyCmd :=
  let b := s.cBind ag.h c c.viewRecs
  match b.1 with
  | .inl (some e) => (some e, false, b.2.1, b.2.2)
  | .inr true =>
    let r := b.2.1.cRun ag (b.2.1.cMark ag b.2.2 c.pos) t c.pos
    (r.1, true, r.2.1, r.2.2)
  | _ => (none, false, b.2.1, b.2.2)

/-- The runs of a piece in order: it stops early at tags that are not ready, and at a view that makes it wait. -/
def State.cRuns (s : State) (ag : EngAg) (c : CopyCmd) (t : Tcb) : Nat → State × CopyCmd
  | 0 => (s, c)
  | n + 1 =>
    if c.total ≤ c.pos then (s, c)
    else
      let tb := s.cTable ag c (c.coord c.pos).1
      match tb.1 with
      | some e => tb.2.1.cStop ag tb.2.2 e
      | none =>
        let s1 := tb.2.1
        let c1 := tb.2.2
        match s1.cPeer c1 with
        | some .held => (s1, c1)
        | some (.fail code) =>
          if code = 1 then s1.cStop ag c1 (7, 1) else let f := s1.freeErr; f.2.cStop ag c1 f.1
        | _ =>
          if !s1.cReady ag c1 c1.pos then (s1, c1)
          else
            let a := s1.cAnswer c1
            match a.1 with
            | some e => a.2.cStop ag c1 e
            | none =>
              let r := a.2.cStep ag c1 t
              match r.1, r.2.1 with
              | some e, _ => r.2.2.1.cStop ag r.2.2.2 e
              | none, false => (r.2.2.1, r.2.2.2)
              | none, true =>
                let q := r.2.2.1.cSettle ag { r.2.2.2 with pos := c1.pos + 1, rd := 0, wr := 0 }
                State.cRuns q.1 ag q.2 t n

/-- R102: may every segment that takes scales take them, judged before the first byte? -/
def State.cScalesFit (s : State) (ag : EngAg) (c : CopyCmd) : Bool :=
  !isBlock (rFmt c.d) || 2 ≤ rSpace c.d || c.pstw ||
    (List.range c.total).all (fun k =>
      let p := c.coord k
      match c.dstIx p.1 p.2.1 p.2.2 with
      | .ok (some y) => match (s.blockLoc ag c.dst y.1 y.2 true).1 with
        | .ok (some (.data co a)) => s.sbFits co (a / 4096) (rFmt c.d)
        | _ => true
      | _ => true)

/-- The follow-on word (R64), at FTAB + 4·FIDX of the team's tile memory: none where that is not data of the visible tile
memory, which is then a bad word (DEDUCED, log 98). The engine reads it through the segment's stamp (04 R105). -/
def State.followWord (s : State) (c : CopyCmd) : Option W32 :=
  let w7 := c.word 7
  match c.gk.bind (fun gk => s.tileLoc (teamOf gk) (fieldOf w7 0 20 + 4 * fieldOf w7 20 4) 4) with
  | some (.data co a) => some (BitVec.ofNat 32 (leNat (s.treadL (.data co a) 4)))
  | _ => none

/-- A command whose last byte has landed: its follow-on word is read at that moment (R64). -/
def State.cLast (s : State) (c : CopyCmd) : CopyCmd :=
  { c with st := .done, cls := 0, detail := min c.sat 0xFFFF, fword := if c.follow then s.followWord c else none }

/-- One piece of a command. The TCB whose seed enters the stochastic rounding is that of the destination record, for PSTW that
of DB (03 R59 speaks of one destination record; DESIGN CHOICE, log 145). -/
def State.cPiece (s : State) (ag : EngAg) (c : CopyCmd) : State × CopyCmd :=
  let tr := if c.kind = 2 ∨ c.rm = .sr then s.tcb ag.h c.ctx (rTcb c.d) else (Tcb.null, s)
  if c.pos = 0 ∧ c.kind = 2 ∧ tr.1.rule = 2 ∧ (rFmt c.d = 0x0B ∨ rFmt c.d = 0x0C) then tr.2.cStop ag c (1, 0x0100)
  else if c.pos = 0 ∧ tr.2.cScalesFit ag c = false then tr.2.cStop ag c (1, 0x0102)
  else
    let r := tr.2.cRuns ag c tr.1 c.perPiece
    if r.2.st = .done then r
    else if r.2.total ≤ r.2.pos then (r.1, r.1.cLast r.2) else r

end Sys2Proof.Machine
end

