-- ==== Sys2Proof/Machine/Array.lean ====
section
/-! DEFINITION. What the matrix array computes: operands, products, N-sums and promotion (spec/09 R214 to R229). -/

namespace Sys2Proof.Machine

/-- K of the class of an accepted FMT code (R214). -/
def tileK (fmt : Nat) : Option Nat :=
  match fmt with
  | 0x0A | 0x09 => some 16
  | 0x04 | 0x0B | 0x0C | 0x0D | 0x0E | 0x10 | 0x11 | 0x12 | 0x13 | 0x15 | 0x18 | 0x19 => some 32
  | 0x0F | 0x14 | 0x1A => some 64
  | _ => none

/-- The bits of an element of an accepted format. -/
def tileW (fmt : Nat) : Nat := (fmtBits fmt).getD 8

/-- An element's value times its scale (R221). -/
def tileVal (fmt scale code : Nat) : FVal :=
  if isBlock fmt then widenIn fmt scale code
  else match fltOf fmt with
    | some f => unpack f code
    | none => if code < 128 then .fin false code 1 else .fin true (256 - code) 1

/-- A block of an operand's row: the ZERO-block code, the non-finite flag (R222), and the scaled values. -/
structure TBlk where
  zero : Bool
  nonfin : Bool
  vals : List FVal

/-- A block from its scale and codes. -/
def mkBlk (fmt scale : Nat) (codes : List Nat) : TBlk :=
  let vs := codes.map (tileVal fmt scale)
  ⟨isBlock fmt && scaleZero fmt scale, vs.any (fun v => !v.isFin), vs⟩

/-- The blocks of a row: one, or two for the 4-bit class; `sc h` is the scale of block h. -/
def mkRow (fmt : Nat) (sc : Nat → Nat) (codes : List Nat) : List TBlk :=
  if codes.length ≤ 32 then [mkBlk fmt (sc 0) codes]
  else [mkBlk fmt (sc 0) (codes.take 32), mkBlk fmt (sc 1) (codes.drop 32)]

/-- The codes of a row of a segment (R215). -/
def rowCodes (fmt : Nat) (bytes : List Byte) (m : Nat) : List Nat :=
  let rb := if tileW fmt = 6 then 24 else 32
  let n := leNat ((bytes.drop (rb * m)).take rb)
  (List.range ((tileK fmt).getD 16)).map (fun k => fieldOf n (tileW fmt * k) (tileW fmt))

/-- A segment's 128 rows, read through its stamp, with the scales of its side band (R215, R217). -/
def State.segRows (s : State) (c seg fmt : Nat) : List (List TBlk) :=
  let bytes := s.treadL (.data c (seg * 4096)) 4096
  let k := (tileK fmt).getD 16
  (List.range 128).map (fun m =>
    mkRow fmt (fun h => if isBlock fmt then s.sbGet c seg fmt (m * k / 32 + h) else 0) (rowCodes fmt bytes m))

/-- The 128 columns held in registers from `vb` up by the members of quartet `q` of a team (R216). -/
def State.regCols (s : State) (tk q vb fmt : Nat) : List (List TBlk) :=
  let w := tileW fmt
  let per := if w = 6 then 4 else 32 / w
  (List.range 128).map (fun n =>
    let r := (s.grp (64 * tk + 4 * q + n / 32)).r
    let t := n % 32 / 2
    let odd := n % 2
    let scw := (r.getV (vb + 16 + odd) t).toNat
    let sc := fun h =>
      let f := if (tileK fmt).getD 16 = 64 ∧ h = 0 then fieldOf scw 0 10 else fieldOf scw 16 10
      if isKX fmt then f else f % 256
    mkRow fmt sc ((List.range ((tileK fmt).getD 16)).map (fun k =>
      fieldOf (r.getV (vb + 8 * odd + k / per) t).toNat (w * (k % per)) w)))

/-- The value of an N-sum. -/
def NSum.val (n : NSum) : FVal :=
  match n.kind with
  | .zero => .fin false 0 1
  | .val =>
    let q := pow2Q ((n.exp.toNat : Int) - 140)
    .fin n.neg ((2 ^ 13 + n.frac.toNat) * q.1) q.2
  | .inf => .inf n.neg
  | .nan => .nan

/-- floor(log2 |x|) of a finite value. -/
def FVal.lg : FVal → Int
  | .fin _ n d => floorLog2 n d
  | _ => 0

/-- Is the value a zero? -/
def FVal.isZero : FVal → Bool
  | .fin _ n _ => n == 0
  | _ => false

/-- One step of an N-sum (R223). The manual names no sticky bit for a NaN or infinite result: a free one. -/
def nsumStep (N : NSum) (terms : List FVal) : NSum :=
  let xs := N.val :: terms
  let sp := Config.specialSticky N.sticky
  if xs.contains .nan || (xs.contains (.inf true) && xs.contains (.inf false)) then ⟨.nan, false, 0, 0, sp⟩
  else if xs.contains (.inf true) then ⟨.inf, true, 0, 0, sp⟩
  else if xs.contains (.inf false) then ⟨.inf, false, 0, 0, sp⟩
  else
    match xs.filter (fun v => !v.isZero) with
    | [] => N
    | x :: rest =>
      let e := rest.foldl (fun m v => max m v.lg) x.lg
      let q := pow2Q (16 - e)
      -- each term in units of 2^(e − 16): numerator and denominator
      let us := (x :: rest).map (fun v => match v with
        | .fin neg n d => (neg, n * q.1, d * q.2)
        | _ => (false, 0, 1))
      let sum : Int := us.foldl (fun a u => if u.1 then a - (u.2.1 / u.2.2 : Nat) else a + (u.2.1 / u.2.2 : Nat)) 0
      let st := N.sticky || us.any (fun u => u.2.1 % u.2.2 != 0)
      let a := sum.natAbs
      if a = 0 then ⟨.zero, false, 0, 0, st⟩
      else
        let l := Nat.log2 a
        let f := e + (l : Int) - 16
        let m := if l ≤ 13 then a * 2 ^ (13 - l) else a / 2 ^ (l - 13)
        let st2 := st || (decide (13 < l) && decide (a % 2 ^ (l - 13) ≠ 0))
        if 128 ≤ f then ⟨.inf, decide (sum < 0), 0, 0, sp⟩
        else if f < -126 then ⟨.zero, false, 0, 0, true⟩
        else ⟨.val, decide (sum < 0), BitVec.ofInt 8 (f + 127), BitVec.ofNat 13 (m - 2 ^ 13), st2⟩

/-- Promotion of an N-sum into its accumulator element (R224): the infinitesimal decides ties only. -/
def promote1 (acc : W32) (N : NSum) : W32 :=
  match unpack fp32 acc.toNat, N.val with
  | .nan, _ => 0x7FC00000
  | _, .nan => 0x7FC00000
  | .inf a, .inf b => if a = b then acc else 0x7FC00000
  | _, .inf b => if b then 0xFF800000 else 0x7F800000
  | .inf _, .fin _ _ _ => acc
  | a, .fin nb n d =>
    if n = 0 then acc
    else match (exAdd .rne a (.fin nb n d)).1 with
      | .fin neg x y =>
        let z := if N.sticky ∧ x ≠ 0 then
            FVal.fin neg (if neg = nb then x * 2 ^ 300 + y else x * 2 ^ 300 - y) (y * 2 ^ 300)
          else .fin neg x y
        BitVec.ofNat 32 (narrow fp32 .rne 0 z).bits
      | _ => acc

/-- A table from the values of keys `k` up. -/
def tof {α : Type} [DecidableEq α] (d : α) : Nat → List α → Tbl α
  | _, [] => []
  | k, v :: l => if v = d then tof d (k + 1) l else (k, v) :: tof d (k + 1) l

/-- The 16,384 elements of a tile. -/
def Acc.elems (a : Acc) : List W32 := (List.range 16384).map (tget 0 a.vals)
/-- Its N-sums. -/
def Acc.sums (a : Acc) : List NSum := (List.range 16384).map (tget NSum.reset a.ns)

/-- TPROM (R229): every element promoted, c cleared. -/
def Acc.promote (a : Acc) : Acc :=
  { a with vals := tof 0 0 ((a.elems.zip a.sums).map (fun p => promote1 p.1 p.2)), ns := [], c := 0 }

/-- TZERO (R229). -/
def Acc.zero (a : Acc) : Acc := { a with vals := [], ns := [], c := 0, bad := false }

/-- The products of two blocks; none where the pair is skipped (R221, R222). -/
def blkTerms (strict : Bool) (a b : TBlk) : List FVal :=
  if (a.zero && !(strict && b.nonfin)) || (b.zero && !(strict && a.nonfin)) then []
  else ((a.vals.zip b.vals).map (fun p => (exMul p.1 p.2).1)).filter (fun v => !v.isZero)

/-- One TMMA on a tile (R225). -/
def Acc.mma (a : Acc) (rows cols : List (List TBlk)) (strict : Bool) (p : Nat) : Acc :=
  let ts := rows.flatMap (fun r => cols.map (fun cl => (r.zip cl).flatMap (fun q => blkTerms strict q.1 q.2)))
  let b := { a with
    ns := tof NSum.reset 0 ((a.sums.zip ts).map (fun q => nsumStep q.1 q.2))
    c := (a.c + 1) % 16 }
  if p ≤ a.c + 1 then b.promote else b

/-- The B columns of TDUAL's second step (R228): G[16s + k][n] from the eight segments from `seg` up. -/
def State.gradCols (s : State) (c seg sl fmt : Nat) : List (List TBlk) :=
  let bytes := (List.range 8).map (fun j => s.treadL (.data c ((seg + j) * 4096)) 4096)
  (List.range 128).map (fun n =>
    mkRow fmt (fun _ => 0) ((List.range 16).map (fun k =>
      leNat (((bytes.getD (n / 16) []).drop (32 * (16 * sl + k) + 2 * (n % 16))).take 2))))

end Sys2Proof.Machine
end

