-- ==== Sys2Proof/Machine/Tile.lean ====
section
/-! DEFINITION. The tile instructions: their checks, the array queue, starts and ends, TMAXR, owner tags and accumulator
images (spec/09 R210 to R237; 14 R376; 16 R412, R413). -/

namespace Sys2Proof.Machine

/-! Checks at issue (R220, R230). -/

/-- The accumulator names that a tile instruction uses. -/
def TileOp.names : TileOp → List Nat
  | .tmma a _ _ _ => [a]
  | .tdual x w _ _ _ => [x, w]
  | .tprom a => [a]
  | .tzero a => [a]
  | .tsta a _ _ _ _ => [a]
  | .tlda a _ _ _ => [a]

/-- AFMT and BFMT of a control word (R219). -/
def ctlA (c : W32) : Nat := fieldOf c.toNat 0 8
def ctlB (c : W32) : Nat := fieldOf c.toNat 8 8
/-- VB. -/
def ctlVb (c : W32) : Nat := fieldOf c.toNat 16 7
/-- P. -/
def ctlP (c : W32) : Nat := fieldOf c.toNat 23 4 + 1
/-- S. -/
def ctlS (c : W32) : Bool := c.getLsbD 27
/-- STRICT. -/
def ctlStrict (c : W32) : Bool := c.getLsbD 28

/-- Code 4 (R214, R22). -/
def fmtsBad (reduced : Bool) (a b : Nat) : Bool :=
  tileK a == none || tileK a != tileK b || (reduced && (a != 0x0A || b != 0x0A))

/-- Reduced service (01 R22, 21 R459). -/
def State.reduced (s : State) : Bool := decide (s.hif.service = 1)

/-- Code 6 for a segment of `n` segments' alignment. -/
def State.segBad (s : State) (tk off n : Nat) : Bool :=
  off % (n * 4096) != 0 || decide ((s.launch (s.team tk).launch).visible < off + n * 4096)

/-- The agent of the array on a team's behalf. -/
def State.tileAg (s : State) (tk : Nat) : EngAg :=
  let t := s.team tk
  ⟨.core t.core, t.ctx, true, some tk, some t.core, dieOf t.core, none⟩

/-- The position of element `i` of an accumulator in a record (R230). -/
def tilePos (rc : BitVec 256) (origin : W32) (i : Nat) : Except EErr (Option (Nat × Nat)) :=
  pairOf rc 0 (fieldOf origin.toNat 16 16 + i / 128) (fieldOf origin.toNat 0 16 + i % 128)

/-- The position, none where it is dropped. -/
def tilePos1 (rc : BitVec 256) (origin : W32) (i : Nat) : Option (Nat × Nat) :=
  match tilePos rc origin i with
  | .ok x => x
  | .error _ => none

/-- Does every byte of an element lie in data bytes below the visible size? -/
def State.tileHas (s : State) (tk : Nat) (rc : BitVec 256) (x : Nat × Nat) : Bool :=
  ((⟨rc, rBase rc, none, 0⟩ : ESide).spans x.1 x.2).1.all (fun p =>
    match s.localLoc tk (rSpace rc) p.1.toNat p.2 with
    | some (.data _ _) => true
    | _ => false)

/-- FMT codes of TSTA and TLDA records (R230). -/
def staFmts : List Nat := [8, 0x0A, 9, 0x0B, 0x0C, 0x0D, 0x0E, 0x0F, 0x10, 0x11, 0x12, 0x13, 0x14, 0x15, 0x18, 0x19, 0x1A]
/-- TLDA's. -/
def ldaFmts : List Nat := [8, 0x0A, 9]

/-- Code 8 (R230): a TSTA (`st`) or TLDA record that breaks a condition; a reserved SWZ is one (DEDUCED, log 23). -/
def State.recBad (s : State) (tk : Nat) (st : Bool) (rc : BitVec 256) (origin : W32) : Bool :=
  let ag := s.tileAg tk
  decide (1 < rSpace rc) || !(if st then staFmts else ldaFmts).contains (rFmt rc) || !alignedRec rc ||
    !blockGeom rc (fieldOf origin.toNat 0 16) 128 || (st && decide (4 < rSwz rc)) ||
    (List.range 16384).any (fun i => match tilePos rc origin i with
      | .error _ => true
      | .ok none => false
      | .ok (some x) => !s.tileHas tk rc x) ||
    (st && isBlock (rFmt rc) && (List.range 512).any (fun b => match tilePos1 rc origin (32 * b) with
      | none => false
      | some x => match (s.blockLoc ag ⟨rc, rBase rc, none, 1⟩ x.1 x.2 true).1 with
        | .ok (some (.data c a)) => !s.sbFits c (a / 4096) (rFmt rc)
        | _ => false))

/-- The lowest code of R220 that applies. -/
def State.tileCode (s : State) (gk : Nat) (op : TileOp) : Option Nat :=
  let tk := teamOf gk
  let base : List (Nat × Bool) :=
    [(1, !s.inQuartet gk), (2, op.names.any (fun n => decide ((s.team tk).accMap.length ≤ n)))]
  let rest : List (Nat × Bool) := match op with
    | .tmma _ ctl a b =>
      let offs := [(a, ctlA ctl)] ++ (if ctlS ctl then [(b, ctlB ctl)] else [])
      [(3, fieldOf ctl.toNat 29 3 ≠ 0), (4, fmtsBad s.reduced (ctlA ctl) (ctlB ctl)),
        (5, !ctlS ctl && decide (128 < ctlVb ctl + if isBlock (ctlB ctl) then 18 else 16)),
        (6, offs.any (fun o => s.segBad tk o.1.toNat 1)),
        (7, offs.any (fun o => o.2 == 0x1A && decide (o.1.toNat / 4096 % 2 = 1)))]
    | .tdual _ _ ctl g x =>
      [(3, ctlStrict ctl || ctlS ctl),
        (4, fmtsBad s.reduced (ctlA ctl) (ctlB ctl) || tileK (ctlA ctl) != some 16),
        (5, decide (112 < ctlVb ctl)), (6, s.segBad tk g.toNat 8 || s.segBad tk x.toNat 1)]
    | .tsta _ ctl o rc _ =>
      let rm := fieldOf ctl.toNat 8 3
      [(3, fieldOf ctl.toNat 12 20 != 0 || fieldOf ctl.toNat 4 2 != 0 || fieldOf ctl.toNat 6 2 == 3 || rm == 5 || rm == 6),
        (8, s.recBad tk true rc o)]
    | .tlda _ ctl o rc =>
      [(3, fieldOf ctl.toNat 8 24 != 0 || fieldOf ctl.toNat 4 2 != 0 || fieldOf ctl.toNat 6 2 == 3),
        (8, s.recBad tk false rc o)]
    | _ => []
  lowest (base ++ rest)

/-- The physical tile of a name. -/
def Team.phys (t : Team) (n : Nat) : Nat := t.accMap.getD n 0
/-- A tile of a core. -/
def Core.tile1 (c : Core) (p : Nat) : Acc := tget Acc.reset c.acc p
/-- A tile replaced. -/
def State.setAcc (s : State) (c p : Nat) (a : Acc) : State :=
  s.modCore c (fun co => { co with acc := tset Acc.reset co.acc p a })
/-- A team's owner tag: its context's number and its slot (R235). -/
def Team.tag (t : Team) : Nat × Nat := (t.ctx, t.slot)
/-- Does a tile carry a team's tag (R235)? -/
def State.owns (s : State) (tk p : Nat) : Bool :=
  decide (((s.core (s.team tk).core).tile1 p).owner = some (s.team tk).tag)

/-- The owner trap of a name (R412); a tile tagged NONE gives zero fields for its owner. -/
def State.ownerTrap (s : State) (tk n : Nat) : Trap :=
  let p := (s.team tk).phys n
  let o := ((s.core (s.team tk).core).tile1 p).owner.getD (0, 0)
  Trap.mk2 0x10 (BitVec.ofNat 64 (o.1 % 65536 * 65536 + o.2 % 4 * 256 + p % 4 * 16 + n % 4))

/-- The lowest name whose tile another owner holds. -/
def State.foreign (s : State) (tk : Nat) (op : TileOp) : Option Nat :=
  lowest (op.names.map (fun n => (n, !s.owns tk ((s.team tk).phys n))))

/-- A quartet of a team: its report of an uncorrectable error taken (R237). -/
def State.tileErrTaken (s : State) (tk q : Nat) : State :=
  s.modTeam tk (fun t => { t with tileErr := t.tileErr.filter (fun x => decide (x ≠ q)) })

/-- The data-error trap of R237. -/
def tileDataErr : Trap := ⟨0x18, 2, 0, 0⟩

/-- A tile instruction enters the queue (R211). -/
def State.enqueue (s : State) (gk : Nat) (op : TileOp) : State :=
  (s.modCore (s.coreNoG gk) (fun co => { co with queue := co.queue ++ [⟨teamOf gk, idxOf gk, op, (s.teamG gk).tileNo, false⟩] })).modTeam
    (teamOf gk) (fun t => { t with tileNo := t.tileNo + 1 })

/-- Is the queue closed to a team's tile instructions: full, or the team's saved ones go first (R211, R236)? -/
def State.queueFull (s : State) (tk : Nat) : Bool :=
  decide (8 ≤ (s.core (s.team tk).core).queue.length) || !(s.team tk).savedTiles.isEmpty

/-- Saved tile instructions of the teams on a core enter its queue again as far as it has room (R211, R236); the others
follow as entries come free (DEDUCED, log 100). -/
def State.requeue (s : State) (core : Nat) : State :=
  (s.core core).teams.foldl (fun st tk =>
    let l := (st.team tk).savedTiles
    let n := 8 - (st.core core).queue.length
    (st.modCore core (fun co => { co with queue := co.queue ++ l.take n })).modTeam tk (fun t =>
      { t with savedTiles := l.drop n })) s

/-- The record of a TSTA. -/
def TileOp.rcd : TileOp → BitVec 256
  | .tsta _ _ _ r _ => r
  | _ => 0

/-- Does a TSTA write through a record with RO = 1? The permission fault of 05 R120 is taken at issue, after the other
checks, with TADDR the record's BASE (DESIGN CHOICE, log 101). -/
def TileOp.readOnly (op : TileOp) : Bool := rRo op.rcd

/-- A tile instruction of the current group, its operands captured. -/
def tileIssue (s : State) (op : TileOp) : Res :=
  let tk := teamOf s.cur
  let q := idxOf s.cur / 4
  if s.inQuartet s.cur && s.t.tileErr.contains q then .trap tileDataErr (s.tileErrTaken tk q)
  else match s.tileCode s.cur op with
    | some c => .trap (Trap.mk2 0xF (BitVec.ofNat 64 c)) s
    | none =>
      match s.foreign tk op with
      | some n => .trap (s.ownerTrap tk n) s
      | none =>
        if op.readOnly then .trap (Trap.mk2 9 (rBase op.rcd)) s
        else if s.queueFull tk then .block .array s
        else .ok (s.enqueue s.cur op)

/-- `run`, except that a trap keeps the state it comes with: a reported error is not reported again. -/
def runTile (len : Nat) (s : State) (sels : List Sel) (dests : List DReg) (body : State → Res) :
    Host.Outcome State Fault Refusal :=
  finish len (match s.ready sels dests with
    | .error r => r.unadopt s.g.r.exm
    | .ok s1 => match body s1 with
      | .trap t s2 => .trap t (if t.cause = 0x18 then s2 else s)
      | r => r.settle s s1 (sels.map (fun x => x.src)))

/-- The selectors of a GE word: its command block, then its B operand (R112 order). -/
def geSels (g : BitVec 6) (n : Nat) (b : UOpd) : List Sel := blockSels g n ++ b.sels

/-- TMMA (R218): Gc + 1 is read in the segment form only. -/
def execTmma (acc : BitVec 2) (g : BitVec 6) (ctl : UOpd) (s : State) : Host.Outcome State Fault Refusal :=
  let seg := ctlS (s.uval ctl) && !(ctl.sels.any (fun x => s.srcEmpty x.src))
  runTile (uLen ctl) s (geSels g (if seg then 2 else 1) ctl) [] (fun x =>
    tileIssue x (.tmma acc.toNat (x.uval ctl) (x.cmd g 0) (if seg then x.cmd g 1 else 0)))

/-- TDUAL (R227). -/
def execTdual (x w : BitVec 2) (g : BitVec 6) (ctl : UOpd) (s : State) : Host.Outcome State Fault Refusal :=
  runTile (uLen ctl) s (geSels g 2 ctl) [] (fun y =>
    tileIssue y (.tdual x.toNat w.toNat (y.uval ctl) (y.cmd g 0) (y.cmd g 1)))

/-- TPROM (R229). -/
def execTprom (acc : BitVec 2) (_g : BitVec 6) (s : State) : Host.Outcome State Fault Refusal :=
  runTile 4 s [] [] (fun x => tileIssue x (.tprom acc.toNat))
/-- TZERO (R229). -/
def execTzero (acc : BitVec 2) (_g : BitVec 6) (s : State) : Host.Outcome State Fault Refusal :=
  runTile 4 s [] [] (fun x => tileIssue x (.tzero acc.toNat))

/-- TSTA (R230, R231). -/
def execTsta (acc : BitVec 2) (g : BitVec 6) (ctl : UOpd) (s : State) : Host.Outcome State Fault Refusal :=
  runTile (uLen ctl) s (geSels g 1 ctl) [] (fun x =>
    let c := x.uval ctl
    let rm := fieldOf c.toNat 8 3
    tileIssue x (.tsta acc.toNat c (x.cmd g 0) (x.g.r.getB (fieldOf c.toNat 0 4))
      (BitVec.ofNat 3 (if rm = 7 then x.g.sys.rmode.toNat else rm))))

/-- TLDA (R230, R232). -/
def execTlda (acc : BitVec 2) (g : BitVec 6) (ctl : UOpd) (s : State) : Host.Outcome State Fault Refusal :=
  runTile (uLen ctl) s (geSels g 1 ctl) [] (fun x =>
    let c := x.uval ctl
    tileIssue x (.tlda acc.toNat c (x.cmd g 0) (x.g.r.getB (fieldOf c.toNat 0 4))))

/-! TMAXR (R234). -/

/-- AMAX of a tensor control block read, and set to +0.0 under CLR, in one step. -/
def State.takeAmax (s : State) (c cx i : Nat) (clr : Bool) : W32 × State :=
  let t := s.tcb (.core c) cx i
  (t.1.amax, if clr && decide (i ≠ 0) then
    (t.2.vwrite (.core c) (t.2.ctx cx).asid ((t.2.ctx cx).tcbAddr i) 0 true (leBytes 4 0)).2 else t.2)

/-- A TMAXR with nothing before it is performed: its value is on its way. -/
def State.doMaxr (s : State) (tk : Nat) (m : MaxrCmd) : State :=
  let t := s.team tk
  let r := s.takeAmax t.core t.ctx m.tcb m.clr
  r.2.modGrp (64 * tk + m.g) (fun g =>
    { g with y := { g.y with pend := g.y.pend ++ [⟨[.g m.d r.1], none, none⟩] } })

/-- The tile instructions of a team that have not completed. -/
def State.tileCmds (s : State) (tk : Nat) : List TileCmd :=
  let co := s.core (s.team tk).core
  (co.queue ++ co.running).filter (fun q => decide (q.team = tk)) ++ (s.team tk).savedTiles

/-- How many they are. -/
def State.tileOpen (s : State) (tk : Nat) : Nat := (s.tileCmds tk).length

/-- TMAXR. -/
def execTmaxr (d : BitVec 6) (_g : BitVec 6) (b : UOpd) (s : State) : Host.Outcome State Fault Refusal :=
  runTile (uLen b) s b.sels [s.dg d] (fun x =>
    let tk := teamOf x.cur
    let v := (x.uval b).toNat
    match x.t.tileErr with
    | q :: _ => .trap tileDataErr (x.tileErrTaken tk q)
    | [] =>
      if fieldOf v 9 23 ≠ 0 then .trap (Trap.mk2 0xF 3) x
      else
        let m : MaxrCmd := ⟨idxOf x.cur, x.gn d, fieldOf v 0 8, decide (fieldOf v 8 1 = 1), x.t.tileNo⟩
        let y := x.modG (fun g => { g with r := g.r.markG (x.gn d) true, y := g.y.unflag (.g (x.gn d)) })
        .ok (if y.tileOpen tk = 0 then y.doMaxr tk m else y.modTeam tk (fun t => { t with maxr := t.maxr ++ [m] })))

/-! Starts and ends (R212, R213, R225, R231, R232). -/

/-- The segments, as 512·core + segment, of a window of a record. -/
def State.winSegs (s : State) (tk : Nat) (rc : BitVec 256) (origin : W32) : List Nat :=
  ((List.range 16384).flatMap (fun i => match tilePos1 rc origin i with
    | some x => s.eSegs (s.tileAg tk) ⟨rc, rBase rc, none, 0⟩ x.1 x.2
    | none => [])).eraseDups

/-- The key of a team's segment at an offset. -/
def State.segKey (s : State) (tk : Nat) (off : W32) : Nat :=
  512 * (s.team tk).core + (s.team tk).base + off.toNat / 4096

/-- The source segments of a tile instruction that wait for VALID, and whether reading consumes them. -/
def State.tileSrc (s : State) (tk : Nat) (op : TileOp) : List Nat × Bool :=
  match op with
  | .tmma _ ctl a b => ([s.segKey tk a] ++ (if ctlS ctl then [s.segKey tk b] else []), true)
  | .tdual _ _ _ g x => ((List.range 8).map (fun j => s.segKey tk g + j) ++ [s.segKey tk x], true)
  | .tlda _ ctl o rc =>
    let m := fieldOf ctl.toNat 6 2
    (if m < 2 then s.winSegs tk rc o else [], m == 0)
  | _ => ([], false)

/-- Are the tags that a tile instruction waits for ready (R62)? -/
def State.tagsReady (s : State) (tk : Nat) (op : TileOp) : Bool :=
  (s.tileSrc tk op).1.all (fun k => mTag (s.segMeta k) == 2) &&
  match op with
  | .tsta _ ctl o rc _ =>
    decide (2 ≤ fieldOf ctl.toNat 6 2) ||
      (s.winSegs tk rc o).all (fun k => mTag (s.segMeta k) == 0 || mTag (s.segMeta k) == 3)
  | _ => true

/-- Are the B registers full in all four members (R213)? -/
def State.bregsReady (s : State) (c : TileCmd) : Bool :=
  (List.range 4).all (fun i => (List.range c.op.bregs.2).all (fun j =>
    !(s.grp (64 * c.team + c.g / 4 * 4 + i)).r.emptyV (c.op.bregs.1 + j)))

/-- Do two tile instructions have to start in queue order (R212)? -/
def State.clash (s : State) (a b : TileCmd) : Bool :=
  (decide (a.team = b.team) && decide (a.g / 4 = b.g / 4)) ||
    (a.op.names.map (s.team a.team).phys).any (fun p => (b.op.names.map (s.team b.team).phys).contains p)

/-- Is the instruction a TSTA, whose drain leaves the array free (R238)? -/
def TileOp.isSta : TileOp → Bool
  | .tsta .. => true
  | _ => false

/-- Accumulators read by an instruction. -/
def TileOp.reads : TileOp → List Nat
  | .tzero _ => []
  | .tlda .. => []
  | op => op.names

/-- The segments that a tile instruction reads, whatever it makes of their tags. -/
def State.tileReads (s : State) (tk : Nat) (op : TileOp) : List Nat :=
  match op with
  | .tlda _ _ o rc => s.winSegs tk rc o
  | _ => (s.tileSrc tk op).1

/-- Does an instruction meet an uncorrectable error (R237)? -/
def State.tileBroken (s : State) (c : TileCmd) : Bool :=
  let t := s.team c.team
  (s.tileReads c.team c.op).any (fun k => (s.core (k / 512)).badSegs.contains (k % 512)) ||
    c.op.reads.any (fun n => ((s.core t.core).tile1 (t.phys n)).bad)

/-- A tile whose contents are unspecified: free values (R237, log 3). -/
def Acc.free (a : Acc) (d : Nat) : Acc :=
  { a with
    vals := tof 0 0 ((List.range 16384).map (fun i => Config.freeW32 (d + i)))
    ns := tof NSum.reset 0 ((List.range 16384).map (fun i =>
      let w := (Config.freeW32 (d + 16384 + i)).toNat
      match w % 4 with
      | 0 => ⟨.zero, false, 0, 0, w.testBit 2⟩
      | 1 => ⟨.val, w.testBit 3, BitVec.ofNat 8 (1 + w / 16 % 254), BitVec.ofNat 13 (w / 4096), w.testBit 2⟩
      | 2 => ⟨.inf, w.testBit 3, 0, 0, w.testBit 2⟩
      | _ => ⟨.nan, false, 0, 0, w.testBit 2⟩))
    c := (Config.freeW32 (d + 32768)).toNat % 16
    bad := false }

/-- The magnitude 2^⌈log₂ q⌉'s exponent of a positive rational. -/
def clog2 (n d : Nat) : Int :=
  let k := floorLog2 n d
  let q := pow2Q k
  if n * q.2 = q.1 * d then k else k + 1

/-- The largest finite value of a saturating format. -/
def maxFin (f : FFmt) : Nat × Nat := (unpack f (narrow f .rtz 0 (.fin false (2 ^ 200) 1)).bits).mag

/-- The exponent of the scale under RULE CURRENT (R231): `a` is the largest finite magnitude. -/
def currentExp (f : FFmt) (a : Nat × Nat) : Int :=
  let m := maxFin f
  if a.1 = 0 then 0 else clog2 (a.1 * m.2) (a.2 * m.1)

/-- 2^k as an FP32 pattern, a free value where FP32 has none. -/
def scaleBits (k : Int) : W32 :=
  if k < -149 ∨ 127 < k then Config.scaleOut k
  else let q := pow2Q k; BitVec.ofNat 32 (narrow fp32 .rne 0 (.fin false q.1 q.2)).bits

/-- The values that a TSTA writes: index in the accumulator, position and code, and for a block format the scales. -/
structure Drain where
  elems : List ((Nat × Nat) × Nat)
  scales : List ((Nat × Nat) × Nat)
  amax : W32
  scale : Option W32

/-- What a TSTA drains (R231). Dropped elements count as zeros in the scale of their block (DEDUCED, log 24). -/
def State.staVals (s : State) (tk : Nat) (rc : BitVec 256) (o : W32) (rm : RMode) (t : Tcb) (xs : List W32) : Drain :=
  let fmt := rFmt rc
  let seed := (s.launch (s.team tk).launch).seed
  let rnd := fun (i : Nat) => rnd16 false (philox (BitVec.ofNat 32 i) 0 1 0 seed t.seed)
  let all := (xs.zipIdx).map (fun x => (x.2, x.1.toNat, tilePos1 rc o x.2))
  let live := all.filterMap (fun x => x.2.2.map (fun p => (x.1, x.2.1, p)))
  let amax := live.foldl (fun a x => amaxOf a x.2.1) 0
  if isBlock fmt then
    let blocks := (List.range 512).map (fun b =>
      let es := (all.drop (32 * b)).take 32
      let vs := es.map (fun e => if e.2.2.isSome then unpack fp32 e.2.1 else .fin false 0 1)
      (es, blockScale fmt vs))
    ⟨blocks.flatMap (fun b => b.1.filterMap (fun e => e.2.2.map (fun p =>
        (p, (narrowIn fmt b.2 rm (rnd e.1) (unpack fp32 e.2.1)).bits)))),
      blocks.filterMap (fun b => (b.1.head?.bind (fun e => e.2.2)).map (fun p => (p, b.2))),
      BitVec.ofNat 32 amax, none⟩
  else match fltOf fmt with
    | none => ⟨[], [], 0, none⟩
    | some f =>
      let cur := f.sat && decide (t.rule = 2)
      let k := currentExp f (unpack fp32 amax).mag
      let code := fun (x : Nat × Nat × (Nat × Nat)) =>
        if fmt = 8 then x.2.1
        else if cur then (narrow f rm (rnd x.1) ((unpack fp32 x.2.1).divQ (pow2Q k))).bits
        else (narrowRule fmt t rm (rnd x.1) (unpack fp32 x.2.1)).bits
      ⟨live.map (fun x => (x.2.2, code x)), [], BitVec.ofNat 32 amax, if cur then some (scaleBits k) else none⟩

/-- A TSTA starts (R231): it promotes, reads, clears under CLR, and drains; its segments stay FILLING to its end. The last
of its writes sets the stamp, which a later thread store sets to 0 (04 R100). A drain of elements that are all NaN or
infinite raises AMAX to +0.0 (DESIGN CHOICE, log 130). -/
def State.runSta (s : State) (tk acc : Nat) (ctl o : W32) (rc : BitVec 256) (rm : BitVec 3) : State :=
  let t := s.team tk
  let ag := s.tileAg tk
  let p := t.phys acc
  let a := ((s.core t.core).tile1 p).promote
  let tr := s.tcb ag.h t.ctx (rTcb rc)
  let d := tr.2.staVals tk rc o (rmOf rm.toNat) tr.1 a.elems
  let s1 := tr.2.setAcc t.core p (if ctl.getLsbD 11 then a.zero else a)
  let segs := s1.winSegs tk rc o
  let s2 := if 2 ≤ fieldOf ctl.toNat 6 2 then s1
    else segs.foldl (fun st k => st.setSegMeta k (mSetTag (st.segMeta k) 1)) s1
  let sd : ESide := ⟨rc, rBase rc, none, 1⟩
  let ag1 := { ag with priv := true }
  let s3 := d.elems.foldl (fun st x => (st.ePut ag1 sd x.1.1 x.1.2 x.2).2) s2
  let s4 := segs.foldl (fun st k => st.setSegMeta k (mSetStamp (st.segMeta k) (rSwz rc)))
    (d.scales.foldl (fun st x => (st.scalePut ag1 sd x.1.1 x.1.2 x.2).2) s3)
  let s5 := match d.scale with
    | some v => s4.setScale ag.h t.ctx (rTcb rc) v
    | none => s4
  if d.elems.isEmpty then s5 else s5.raiseAmax ag.h t.ctx (rTcb rc) d.amax

/-- A TLDA (R232). -/
def State.runLda (s : State) (tk acc : Nat) (o : W32) (rc : BitVec 256) : State :=
  let t := s.team tk
  let ag := s.tileAg tk
  let vals := (List.range 16384).map (fun i => match tilePos1 rc o i with
    | none => (0 : W32)
    | some x => match (s.eGet ag ⟨rc, rBase rc, none, 0⟩ x.1 x.2).1 with
      | .ok code =>
        if rFmt rc = 8 then (if isNaN fp32 code then 0x7FC00000 else BitVec.ofNat 32 code)
        else BitVec.ofNat 32 (f32Of (eVal (rFmt rc) 0 code))
      | .error _ => 0)
  let a := (s.core t.core).tile1 (t.phys acc)
  s.setAcc t.core (t.phys acc) { a with vals := tof 0 0 vals, ns := [], c := 0, bad := false }

/-- What a tile instruction does to its accumulators when it starts. -/
def State.tileRun (s : State) (c : TileCmd) : State :=
  let t := s.team c.team
  let co := t.core
  let acc := fun (st : State) (n : Nat) => (st.core co).tile1 (t.phys n)
  match c.op with
  | .tmma n ctl a b =>
    let rows := s.segRows co (s.segKey c.team a % 512) (ctlA ctl)
    let cols := if ctlS ctl then s.segRows co (s.segKey c.team b % 512) (ctlB ctl)
      else s.regCols c.team (c.g / 4) (ctlVb ctl) (ctlB ctl)
    s.setAcc co (t.phys n) ((acc s n).mma rows cols (ctlStrict ctl) (ctlP ctl))
  | .tdual x w ctl g x0 =>
    let sl := fieldOf ctl.toNat 29 3
    let seg := s.segKey c.team g % 512
    let s1 := s.setAcc co (t.phys x) ((acc s x).mma (s.segRows co (seg + sl) (ctlA ctl))
      (s.regCols c.team (c.g / 4) (ctlVb ctl) (ctlB ctl)) false (ctlP ctl))
    s1.setAcc co (t.phys w) ((acc s1 w).mma (s1.segRows co (s1.segKey c.team x0 % 512) (ctlA ctl))
      (s1.gradCols co seg sl (ctlA ctl)) false (ctlP ctl))
  | .tprom n => s.setAcc co (t.phys n) (acc s n).promote
  | .tzero n => s.setAcc co (t.phys n) (acc s n).zero
  | .tsta n ctl o rc rm => s.runSta c.team n ctl o rc rm
  | .tlda n _ o rc => s.runLda c.team n o rc

/-- An instruction that meets an uncorrectable error (R237): its accumulators become unspecified, and its quartet has
an error to report. -/
def State.tileFail (s : State) (c : TileCmd) : State :=
  let t := s.team c.team
  let s1 := c.op.names.foldl (fun st n =>
    let d := st.free
    ({ st with free := d + 32769 }).setAcc t.core (t.phys n)
      (((st.core t.core).tile1 (t.phys n)).free d)) s
  s1.modTeam c.team (fun t => { t with tileErr := if t.tileErr.contains (c.g / 4) then t.tileErr else t.tileErr ++ [c.g / 4] })

/-- May the instruction at a place of the queue start (R212)? A later one only while the head waits for tags. -/
def State.canStart (s : State) (core pos : Nat) : Bool :=
  let co := s.core core
  match co.queue[pos]? with
  | none => false
  | some c =>
    co.running.all (fun r => r.op.isSta) && !(co.queue.take pos).any (fun x => s.clash x c) &&
      (decide (pos = 0) || (match co.queue with
        | h :: _ => !s.tagsReady h.team h.op
        | [] => false)) &&
      s.tagsReady c.team c.op

/-- A started instruction reads its operands and acts on its accumulators, or meets an uncorrectable error (R213, R237). -/
def State.tileAct (s : State) (c : TileCmd) : State :=
  let s1 := if s.tileBroken c then s.tileFail c else s
  if !s.tileBroken c || c.op.isSta then s1.tileRun c else s1

/-- TILE_START (R212). One that still waits for B registers to become full reads them later (R213). -/
def execTileStart (core pos : Nat) (s : State) : Host.Outcome State Fault Refusal :=
  .next (
    if s.canStart core pos then
      match (s.core core).queue[pos]? with
      | none => s
      | some c =>
        let wait := !s.bregsReady c
        let s1 := (s.modCore core (fun co =>
          { co with queue := co.queue.eraseIdx pos, running := co.running ++ [{ c with unread := wait }] })).requeue core
        (if wait then s1 else s1.tileAct c).pokeCore core
    else s)

/-- The team's TMAXRs after one of its tile instructions has completed: those before which none is open (R234). -/
def State.maxrStep (s : State) (tk : Nat) : State :=
  let due := fun (m : MaxrCmd) => (s.tileCmds tk).all (fun c => decide (m.before ≤ c.no))
  let ms := (s.team tk).maxr
  let s1 := s.modTeam tk (fun t => { t with maxr := ms.filter (fun m => !due m) })
  (ms.filter due).foldl (fun st m => st.doMaxr tk m) s1

/-- The segments of a completed instruction (R62, R225, R231). -/
def State.tileSettle (s : State) (c : TileCmd) : State :=
  let src := s.tileSrc c.team c.op
  let s1 := if src.2 then src.1.foldl State.consume s else s
  match c.op with
  | .tsta _ ctl o rc _ =>
    (s1.winSegs c.team rc o).foldl (fun st k =>
      st.setSegMeta k (doneTags (st.segMeta k) rc (fieldOf ctl.toNat 6 2))) s1
  | _ => s1

/-- May a started instruction complete? Its operands are read or can be (R213), and drains end in the order in which they
began: a TSTA leaves the array free while it drains, so that one started behind it may complete first (R238). -/
def State.mayEnd (s : State) (core i : Nat) (c : TileCmd) : Bool :=
  (!c.unread || s.bregsReady c) && (!c.op.isSta || !((s.core core).running.take i).any (fun r => r.op.isSta))

/-- The `i`th started instruction of a core completes. -/
def State.tileDone (s : State) (core i : Nat) : State :=
  match (s.core core).running[i]? with
  | none => s
  | some c =>
    if s.mayEnd core i c then
      let s1 := if c.unread then s.tileAct c else s
      let s2 := (s1.modCore core (fun co => { co with running := co.running.eraseIdx i })).tileSettle c
      (s2.maxrStep c.team).pokeCore core
    else s

/-- TILE_COMPLETE. -/
def execTileComplete (core i : Nat) (s : State) : Host.Outcome State Fault Refusal := .next (s.tileDone core i)

/-! TACQ and accumulator images (14 R376, 16 R413). -/

/-- Does a started instruction name a physical tile? -/
def State.tileBusy (s : State) (core p : Nat) : Bool :=
  (s.core core).running.any (fun c => (c.op.names.map (s.team c.team).phys).contains p)

/-- TACQ (14 R376); the word is privileged (R368). -/
def execTacq (a : Sel) (s : State) : Host.Outcome State Fault Refusal :=
  if !s.priv then finish 4 (.trap (Trap.mk2 2 0) s)
  else run 4 s [a] [] (fun x =>
    let v := (x.uniVal a.src).toNat
    let n := v % 4
    if x.t.accMap.length ≤ n then .trap (Trap.mk2 0xF 2) x
    else if v / 4 ≠ 0 then .trap (Trap.mk2 0xF 3) x
    else
      let p := x.t.phys n
      if x.tileBusy x.cn p then .block .accum x
      else .ok (x.setAcc x.cn p { (x.core x.cn).tile1 p with owner := some x.t.tag, team := teamOf x.cur }))

/-- An N-sum as a word of an image (16 R413). -/
def NSum.word (n : NSum) : W32 :=
  let k := match n.kind with | .zero => 0 | .val => 1 | .inf => 2 | .nan => 3
  BitVec.ofNat 32 (n.neg.toNat * 2 ^ 31 + n.exp.toNat * 2 ^ 23 + n.frac.toNat * 2 ^ 10 + n.sticky.toNat * 2 ^ 9 + k * 2 ^ 7)

/-- An N-sum from a word of an image. -/
def wordNSum (w : W32) : NSum :=
  let v := w.toNat
  match fieldOf v 7 2 with
  | 0 => ⟨.zero, false, 0, 0, w.getLsbD 9⟩
  | 1 => ⟨.val, w.getLsbD 31, BitVec.ofNat 8 (fieldOf v 23 8), BitVec.ofNat 13 (fieldOf v 10 13), w.getLsbD 9⟩
  | 2 => ⟨.inf, w.getLsbD 31, 0, 0, w.getLsbD 9⟩
  | _ => ⟨.nan, false, 0, 0, w.getLsbD 9⟩

/-- The bytes of a tile's image (16 R413). -/
def Acc.image (a : Acc) : List Byte :=
  wordBytes a.elems ++ wordBytes (a.sums.map NSum.word) ++ [BitVec.ofNat 8 a.c] ++ List.replicate 255 0

/-- A tile loaded from an image in HBM: values, N-sums and c. -/
def State.loadImage (s : State) (a : Acc) (pa : Nat) : Acc :=
  { a with
    vals := tof 0 0 ((List.range 16384).map (fun i => BitVec.ofNat 32 (s.pnum 0 (pa + 4 * i) 4)))
    ns := tof NSum.reset 0 ((List.range 16384).map (fun i => wordNSum (BitVec.ofNat 32 (s.pnum 0 (pa + 65536 + 4 * i) 4))))
    c := (s.pbyte 0 (pa + 131072)).toNat % 16
    bad := false }

/-- The lines of a tile's image are read through L2 (04 R82). -/
def State.imageRead (s : State) (pa : Nat) : State := s.l2range 0 pa 131328 0 false

/-- A tile's image stored; the record is kept with the team whose tag it carries (16 R413). -/
def State.saveImage (s : State) (core p : Nat) (img : BitVec 52) : State :=
  let a := (s.core core).tile1 p
  let s1 := (s.pwrite 0 img.toNat a.image).l2range 0 img.toNat 131328 0 true
  match a.owner with
  | none => s1
  | some _ =>
    if (s.team a.team).st = .none ∨ (s.team a.team).st = .exited then s1
    else match (s.team a.team).accMap.idxOf? p with
      | none => s1
      | some n => s1.modTeam a.team (fun t => { t with images := tset none t.images n (some img) })

/-- The physical tile that the transfer of a group's ACCXFER value concerns. -/
def State.xferTile (s : State) (gk : Nat) : Nat :=
  let v := (s.grp gk).sys.accxfer.toNat
  if fieldOf v 3 1 = 1 then (s.teamG gk).phys (v % 4) else v % 4

/-- The transfer of a waiting group ends. -/
def State.xferDone (s : State) (gk : Nat) : State :=
  (s.modGrp gk (fun g => { g with y := { g.y with accx := some true } })).poke gk

/-- ACCXFER_SAVE (16 R413). -/
def execAccxferSave (gk : Nat) (s : State) : Host.Outcome State Fault Refusal :=
  .next (if (s.grp gk).y.accx = some false ∧ (s.grp gk).sys.accxfer.getLsbD 3 = false then
      (s.saveImage (s.coreNoG gk) (s.xferTile gk) (s.grp gk).sys.accimg).xferDone gk
    else s)

/-- ACCXFER_LOAD (16 R413). -/
def execAccxferLoad (gk : Nat) (s : State) : Host.Outcome State Fault Refusal :=
  .next (if (s.grp gk).y.accx = some false ∧ (s.grp gk).sys.accxfer.getLsbD 3 = true then
      let c := s.coreNoG gk
      let p := s.xferTile gk
      let s1 := s.imageRead (s.grp gk).sys.accimg.toNat
      (s1.setAcc c p (s.loadImage ((s.core c).tile1 p) (s.grp gk).sys.accimg.toNat)).xferDone gk
    else s)

end Sys2Proof.Machine
end

