-- ==== Sys2Proof/Machine/CopyEng.lean ====
section
/-! DEFINITION. BCOPY, BCOPYM and PSTW, and the steps of the copy engines (spec/03 R45 to R72; 07 R174 to R176). -/

namespace Sys2Proof.Machine

/-- A command captured at issue by the current group (R46). -/
def State.capture (s : State) (pstw follow : Bool) (g : BitVec 6) (gd : Nat) : CopyCmd :=
  let w := s.cmds g (if pstw then 4 else 8)
  let w0 := (w.headD 0).toNat
  { id := s.nextCopy, gk := some s.cur, node := none, ctx := s.t.ctx, priv := s.priv, pstw := pstw, follow := follow,
    w := w, s := s.g.r.getB (fieldOf w0 4 4), d := s.g.r.getB (fieldOf w0 8 4), t := s.g.r.getB (fieldOf w0 12 4),
    seed := s.l.seed, gd := gd, st := .queued, pos := 0, rd := 0, wr := 0, bytes := 0, sat := 0, amax := 0, cls := 0, detail := 0,
    bound := [], filling := [], reading := [], gather := none, home := s.cn, fword := none }

/-- The engine of a command (R47): a side in space 5 goes to the link die. -/
def CopyCmd.engine (c : CopyCmd) (core : Nat) : Eng :=
  if (c.usesS && rSpace c.s == 5) || rSpace c.d == 5 then .link else .core core

/-- A command accepted; one that breaks a check has nothing left to do but complete (R49). -/
def State.accept (s : State) (e : Eng) (c : CopyCmd) : State :=
  let c1 := match s.copyErr c with
    | some x => { c with st := .done, cls := x.1, detail := x.2 }
    | none => c
  ({ s with nextCopy := s.nextCopy + 1 }).setCmds e (s.cmdsOf e ++ [c1])

/-- BCOPY, BCOPYM and PSTW (07 R174). Commands of the group that have come back from a pre-emption and still wait for places
go first, since the commands of one group start in issue order (R45). -/
def copyInstr (pstw follow : Bool) (d g : BitVec 6) (s : State) : Host.Outcome State Fault Refusal :=
  run 4 s (blockSels g (if pstw then 4 else 8)) [s.dg d] (fun x =>
    let c := x.capture pstw follow g (x.gn d)
    let e := c.engine x.cn
    if engCap e ≤ (x.cmdsOf e).length ∨ x.t.saveCopies.any (fun p => p.1.gk = some x.cur) = true then .block .engine x
    else if !x.pathRoom 4 then .block .counter x
    else
      let y := x.modG (fun g => { g with r := g.r.markG (x.gn d) true, y := g.y.unflag (.g (x.gn d)) })
      .ok ((y.accept e c).incPath x.cur 4 1))

/-- BCOPY. -/
def execBcopy (d g : BitVec 6) (s : State) : Host.Outcome State Fault Refusal := copyInstr false false d g s
/-- BCOPYM. -/
def execBcopym (d g : BitVec 6) (s : State) : Host.Outcome State Fault Refusal := copyInstr false true d g s
/-- PSTW. -/
def execPstw (d g : BitVec 6) (s : State) : Host.Outcome State Fault Refusal := copyInstr true false d g s

/-- Active commands of an engine. -/
def State.activeCmds (s : State) (e : Eng) : Nat := ((s.cmdsOf e).filter (fun c => c.st == .active)).length

/-- May a command move bytes now: active, or the first in the queue with an active place free (R45)? -/
def State.cmdActive (s : State) (e : Eng) (c : CopyCmd) : Bool :=
  c.st == .active || (c.st == .queued &&
    ((s.cmdsOf e).find? (fun x => x.st == .queued)).map (fun x => x.id) == some c.id &&
    (e == .link || decide (s.activeCmds e < 4)))

/-- One piece of a command of an engine. -/
def State.piece (s : State) (e : Eng) (id : Nat) : State :=
  match s.cmdOf e id with
  | none => s
  | some c =>
    if s.cmdActive e c then
      let r := s.cPiece (copyAg e c) { c with st := .active }
      r.1.putCmd e r.2
    else s

/-- COPY_PIECE (R45). -/
def execCopyPiece (e : Eng) (id : Nat) (s : State) : Host.Outcome State Fault Refusal := .next (s.piece e id)

/-- COPY_TAG_REQUEUE (R45): an active command that waits on a tag goes to the tail of the queue. -/
def execCopyTagRequeue (e : Eng) (id : Nat) (s : State) : Host.Outcome State Fault Refusal :=
  .next (match s.cmdOf e id with
    | none => s
    | some c =>
      if c.st = .active ∧ c.pos < c.total ∧ s.cReady (copyAg e c) c c.pos = false then
        s.setCmds e ((s.cmdsOf e).filter (fun x => decide (x.id ≠ id)) ++ [{ c with st := .queued }])
      else s)

/-! Completion (R64 to R71). -/

/-- The status word (R66). -/
def CopyCmd.status (c : CopyCmd) : W32 :=
  let units := min ((c.bytes + 32767) / 32768) 4095
  BitVec.ofNat 32 (c.detail % 65536 * 65536 + units * 16 + c.cls % 8 * 2 + 1)

/-- The Q3 entry (R68). -/
def CopyCmd.q3 (c : CopyCmd) : W32 := BitVec.ofNat 32 (c.ctag % 256 + c.cls % 8 * 256 + 2048)

/-- A follow-on word with its operands, checked as R220 and R235 ask (09 R226): none where it is not issued. -/
def State.followOp (s : State) (gk : Nat) (w : W32) : Option (TileOp × State) :=
  match decodeWords w.toNat 0 with
  | .ok (.tmma acc g (.sel x)) =>
    let s1 := { s with cur := gk }
    let op := TileOp.tmma acc.toNat (s1.uniVal x.src) (s1.cmd g 0)
      (if ctlS (s1.uniVal x.src) then s1.cmd g 1 else 0)
    if (s.tileCode gk op).isNone && (s.foreign (teamOf gk) op).isNone && !s1.srcEmpty x.src then
      some (op, { s1.popSrc x.src with cur := s.cur })
    else none
  | _ => none

/-- A command without its follow-on, ended with class 1, DETAIL 0x0103. -/
def CopyCmd.badFollow (c : CopyCmd) : CopyCmd := { c with follow := false, cls := 1, detail := 0x0103 }

/-- The last act of a command: pins, status, Q3 and path 4, or the end of its node. -/
def State.cWrite (s : State) (e : Eng) (c : CopyCmd) : State :=
  let s1 := (s.setCmds e ((s.cmdsOf e).filter (fun x => decide (x.id ≠ c.id)))).refill.unpin c.ctx c.bound
  let s2 := match c.gk with
    | some gk =>
      let s3 := s1.writeStatus gk c.gd c.status (if c.cls = 5 then some (.data 1 (c.status.zeroExtend 64)) else none)
      let s4 := if c.qen then s3.modGrp gk (fun g => { g with y := { g.y with q3 := g.y.q3 ++ [c.q3] } }) else s3
      s4.decPath gk 4
    | none => match c.node with
      | some n => s1.modCtx c.ctx (fun x =>
          { x with ended := x.ended ++ [(n, if c.cls = 0 then 0 else 3, c.cls, some c.status)] })
      | none => s1
  match e with
  | .core n => s2.pokeCore n
  | .link => s2

/-- The end of a command as far as Q3 allows (R68). -/
def State.cEnd (s : State) (e : Eng) (c : CopyCmd) : State :=
  let full := match c.gk with
    | some gk => c.qen && decide (16 ≤ (s.grp gk).y.q3.length)
    | none => false
  if full then s.putCmd e { c with st := .held } else s.cWrite e c

/-- The follow-on of a command that has moved its bytes, then its end (R64). -/
def State.cFollow (s : State) (e : Eng) (c : CopyCmd) : State :=
  match c.follow && c.cls == 0, c.gk with
  | true, some gk =>
    match c.fword with
    | none => s.cEnd e c.badFollow
    | some w =>
      if s.queueFull (teamOf gk) = true ∧ (s.followOp gk w).isSome = true then
        s.putCmd e { c with st := .held }
      else match s.followOp gk w with
        | none => s.cEnd e c.badFollow
        | some r => (r.2.enqueue gk r.1).cEnd e { c with follow := false }
  | _, _ => s.cEnd e { c with follow := false }

/-- COPY_COMPLETION (R65 to R71). -/
def execCopyCompletion (e : Eng) (id : Nat) (s : State) : Host.Outcome State Fault Refusal :=
  .next (match s.cmdOf e id with
    | none => s
    | some c => if c.st = .done then (s.cAmax e c).cFollow e c else s)

/-- FOLLOW_ON_FIRE (R64): the word that a command holds, in a core's engine or in the link die's, enters the array queue once
a place is free. -/
def execFollowOnFire (e : Eng) (id : Nat) (s : State) : Host.Outcome State Fault Refusal :=
  .next (match s.cmdOf e id with
    | none => s
    | some c => if c.st = .held ∧ c.follow = true ∧ (c.gk.map (fun gk => s.queueFull (teamOf gk))) = some false then s.cFollow e c else s)

/-- A held command of a group in an engine. -/
def State.q3Held (s : State) (e : Eng) (gk : Nat) : Option CopyCmd :=
  (s.cmdsOf e).find? (fun c => decide (c.st = .held) && !c.follow && decide (c.gk = some gk))

/-- Q3_HELD_RELEASE (R68): a completion held for a place in a group's Q3, in whatever engine it stands: a command with
SUSP = 0 stays on the core that its team left (R72). -/
def execQ3HeldRelease (gk : Nat) (s : State) : Host.Outcome State Fault Refusal :=
  .next (match s.engines.findSome? (fun e => (s.q3Held e gk).map (fun c => (e, c))) with
    | some h => s.cEnd h.1 h.2
    | none => s)

end Sys2Proof.Machine
end

