-- ==== Sys2Proof/Machine/Sync.lean ====
section
/-! DEFINITION. Barriers, asynchronous barrier objects, condition monitors, counter waits and fences (spec/14 R361 to
R367; 07 R170 to R172; 11 R288). -/

namespace Sys2Proof.Machine

/-! Team and cluster barriers (R361 to R363). -/

/-- The indexes of a team's groups that have not exited. -/
def State.liveIdx (s : State) (tk : Nat) : List Nat :=
  ((s.teamKeys tk).filter (fun k => decide ((s.grp k).y.status ≠ .exited))).map idxOf

/-- The waits of groups are satisfied: waiting ones can issue, sleeping ones wake at their next turn (15 R404). -/
def State.letGo (s : State) (keys : List Nat) : State :=
  keys.foldl (fun st k => (st.modGrp k (fun g => { g with y := { g.y with woken := true } })).poke k) s

/-- Is a phase complete (R362)? -/
def Barrier.done (b : Barrier) (live : List Nat) : Bool :=
  b.opened && (if b.count = 0 then live.all b.arrived.contains else decide (b.count ≤ b.arrived.length))

/-- A team barrier. -/
def Team.bar (t : Team) (n : Nat) : Barrier := tget Barrier.reset t.bars n

/-- A team barrier's phase ended if it is complete: its groups go on (R362). -/
def State.barCheck (s : State) (tk n : Nat) : State :=
  let b := (s.team tk).bar n
  if b.done (s.liveIdx tk) then
    (s.modTeam tk (fun t => { t with bars := tset Barrier.reset t.bars n Barrier.reset })).letGo
      (b.arrived.map (fun i => 64 * tk + i))
  else s

/-- The teams of a team's cluster that have not exited. -/
def State.clusterTeams (s : State) (tk : Nat) : List Nat :=
  let t := s.team tk
  (s.teams.filter (fun p => decide (p.2.launch = t.launch) && decide (p.2.cluster = t.cluster) &&
    p.2.st != .none && p.2.st != .exited)).map (fun p => p.1)

/-- A cluster barrier's phase ended if every group of the cluster's teams that has not exited has arrived (R363). -/
def State.cbarCheck (s : State) (tk : Nat) : State :=
  let ts := s.clusterTeams tk
  if ts.any (fun k => !(s.team k).cbar.isEmpty) && ts.all (fun k => (s.liveIdx k).all (s.team k).cbar.contains) then
    ts.foldl (fun st k => (st.modTeam k (fun t => { t with cbar := [] })).letGo
      ((s.team k).cbar.map (fun i => 64 * k + i))) s
  else s

/-- The current group has arrived: it goes on if that ended the phase. -/
def State.afterArrival (s : State) (w : Wait) : Res := if s.g.y.woken then .ok s else .block w s

/-- BAR (14 R361, R362). -/
def execBar (n : BitVec 3) (a : Sel) (s : State) : Host.Outcome State Fault Refusal :=
  run 4 s [a] [] (fun x =>
    let tk := teamOf x.cur
    let v := (x.uniVal a.src).toNat
    let b := x.t.bar n.toNat
    if x.g.y.arrived then x.afterArrival .barrier
    else if x.l.groups < v then .trap (Trap.mk2 0x16 2) x
    else if !x.released .team then .block .stores x
    else if b.opened && decide (b.count ≠ v) then .trap (Trap.mk2 0x16 1) x
    else
      let y := (x.modTeam tk (fun t =>
        { t with bars := tset Barrier.reset t.bars n.toNat ⟨true, v, b.arrived ++ [idxOf x.cur]⟩ })).modY
          (fun y => { y with arrived := true })
      (y.barCheck tk n.toNat).afterArrival .barrier)

/-- CBAR (14 R363). -/
def execCbar (s : State) : Host.Outcome State Fault Refusal :=
  run 4 s [] [] (fun x =>
    let tk := teamOf x.cur
    if x.g.y.arrived then x.afterArrival .cluster
    else if !x.released .cluster then .block .stores x
    else
      let y := (x.modTeam tk (fun t => { t with cbar := t.cbar ++ [idxOf x.cur] })).modY
        (fun y => { y with arrived := true })
      (y.cbarCheck tk).afterArrival .cluster)

/-! Asynchronous barrier objects (R364, R365). -/

/-- The count of an object. -/
def Team.obj (t : Team) (k : Nat) : W32 := tget 0 t.abar k

/-- The place that a group waiting in ABWAIT names in its monitor field. -/
def objSpace : Nat := 8

/-- The groups of a team whose ABWAIT on an object is satisfied. -/
def State.objWaiters (s : State) (tk k : Nat) : List Nat :=
  (s.teamKeys tk).filter (fun gk => match (s.grp gk).y.monitor with
    | some m => decide (m.space = objSpace) && decide (m.addr = k) && ((s.team tk).obj k).sle m.val
    | none => false)

/-- An object's count replaced (R364); groups whose wait that satisfies go on. -/
def State.setObj (s : State) (tk k : Nat) (v : W32) : State :=
  let s1 := s.modTeam tk (fun t => { t with abar := tset 0 t.abar k v })
  s1.letGo (s1.objWaiters tk k)

/-- ABAR.ADD (14 R364). -/
def execAbarAdd (k : BitVec 3) (b : UOpd) (s : State) : Host.Outcome State Fault Refusal :=
  run (uLen b) s b.sels [] (fun x => .ok (x.setObj (teamOf x.cur) k.toNat (x.t.obj k.toNat + x.uval b)))
/-- ABAR.SUB: a release at TEAM scope. -/
def execAbarSub (k : BitVec 3) (b : UOpd) (s : State) : Host.Outcome State Fault Refusal :=
  run (uLen b) s b.sels [] (fun x =>
    if x.released .team then .ok (x.setObj (teamOf x.cur) k.toNat (x.t.obj k.toNat - x.uval b)) else .block .stores x)
/-- ABAR.SET. -/
def execAbarSet (k : BitVec 3) (b : UOpd) (s : State) : Host.Outcome State Fault Refusal :=
  run (uLen b) s b.sels [] (fun x => .ok (x.setObj (teamOf x.cur) k.toNat (x.uval b)))

/-- The current group waits with its monitor on a word or an object. -/
def State.armed (s : State) (w : Wait) (m : Monitor) : Res :=
  .block w (s.modY (fun y => { y with monitor := some m, woken := false }))

/-- ABWAIT (14 R365): signed C at or below b. -/
def execAbwait (k : BitVec 3) (b : UOpd) (s : State) : Host.Outcome State Fault Refusal :=
  run (uLen b) s b.sels [] (fun x =>
    if x.g.y.woken || (x.t.obj k.toNat).sle (x.uval b) then .ok x
    else x.armed .object ⟨objSpace, k.toNat, 0, .eq, x.uval b, 0⟩)

/-! Condition monitors (R366, R367). -/

/-- A WAITC condition on the word read and the value. -/
def wcond (c : WCond) (w v : W32) : Bool :=
  match c with
  | .eq => w == v
  | .ne => w != v
  | .geu => v.ule w
  | .ltu => w.ult v

/-- The word at a home (R367): space 0 tile memory, 1 the side band, 2 the home slice, 3 HBM through the L2 of its
controller. -/
def State.homeWord (s : State) (m : Monitor) : W32 × State :=
  match m.space with
  | 0 => (BitVec.ofNat 32 (mnum (s.core m.home).tile m.addr 4), s)
  | 1 => (BitVec.ofNat 32 (mnum (s.core m.home).side m.addr 4), s)
  | 2 =>
    let s1 := s.combineSeg m.home (m.addr / 4096)
    (BitVec.ofNat 32 (mnum (s1.die m.home).spad m.addr 4), s1)
  | _ => (BitVec.ofNat 32 (s.pnum 0 m.addr 4), s.l2range 0 m.addr 4 m.cls false)

/-- Where a WAITC's word stands: a trap, a parked fault, a dropped access, or the home. -/
inductive Watched where
  | trap (t : Trap)
  | park (f : XFault) (va : W64)
  | drop
  | at (space home addr : Nat)
deriving DecidableEq, Repr

/-- The checks of WAITC (R366), and the translation of a space 3 word (R367). -/
def State.watched (s : State) (k : Nat) (x : W32) : Watched × State :=
  let rc := s.g.r.getB k
  let sp := rSpace rc
  if 4 ≤ sp then (.trap (Trap.mk2 5 (rBase rc)), s)
  else if !atFmts.contains (rFmt rc) then (.trap (Trap.mk2 6 (BitVec.ofNat 64 (rFmt rc))), s)
  else match check (x.toNat % 2 ^ 20) (rExt0 rc) (rBchk rc), check (x.toNat / 2 ^ 20) (rExt1 rc) (rBchk rc) with
    | .bad, _ => (.trap (Trap.mk2 7 (x.zeroExtend 64)), s)
    | _, .bad => (.trap (Trap.mk2 7 (x.zeroExtend 64)), s)
    | .idx j, .idx i =>
      let va := elemAddr sp (rBase rc) (rStr1 rc) (rStr0 rc) i j
      let a := va.toNat
      let p := s.localLoc (teamOf s.cur) sp a 4
      if (sp = 2 ∧ spadBytes ≤ a) ∨ (sp < 2 ∧ s.localLoc (teamOf s.cur) sp a 1 = none) then (.trap (Trap.mk2 8 va), s)
      else if a % 4 ≠ 0 then (.trap (Trap.mk2 0xA va), s)
      else if sp = 2 then (.at 2 (dieOf s.cn) a, s)
      else if sp = 3 then
        let r := s.btXlate k va 0 .read
        match r.1 with
        | .error f => (.park f va, r.2)
        | .ok t => (.at 3 0 t.pa, r.2)
      else match p with
        | some (.data c o) => (.at 0 c o, s)
        | some (.side c o) => (.at 1 c o, s)
        | none => (.trap (Trap.mk2 8 va), s)
    | _, _ => (.drop, s)

/-- WAITC (14 R366, R367). -/
def execWaitc (c : WCond) (k : BitVec 4) (a : Sel) (b : UOpd) (s : State) : Host.Outcome State Fault Refusal :=
  run (uLen b) s (a :: b.sels) [] (fun x =>
    if x.g.y.woken then .ok x
    else
      let v := x.uval b
      let r := x.watched k.toNat (x.uniVal a.src)
      match r.1 with
      | .trap t => .trap t r.2
      | .park f va => .gone (r.2.park x.cur f.cause va x.g.r.exm 3 0)
      | .drop => if wcond c 0 v then .ok r.2 else .block .monitor r.2
      | .at sp home addr =>
        let m : Monitor := ⟨sp, addr, home, c, v, rCache (x.g.r.getB k.toNat)⟩
        let q := r.2.homeWord m
        if wcond c q.1 v then .ok q.2 else q.2.armed .monitor m)

/-- The monitor of a group re-reads its word and wakes the group if the condition holds (R367). -/
def State.reread (s : State) (gk : Nat) : State :=
  match (s.grp gk).y.monitor with
  | none => s
  | some m =>
    if 4 ≤ m.space then s
    else
      let q := s.homeWord m
      if wcond m.cond q.1 m.val then q.2.letGo [gk] else q.2

/-- MONITOR_REREAD (R367). -/
def execMonitorReread (gk : Nat) (s : State) : Host.Outcome State Fault Refusal := .next (s.reread gk)

/-! WAITN and FENCE (07 R170 to R172). -/

/-- The fabric-error entry that a wait on paths takes (11 R288): the earlier of the two failures. -/
def GSync.fabErr (y : GSync) (paths : List Nat) : Option (Bool × FabErr) :=
  let a := if paths.contains 3 then y.fab3 else none
  let b := if paths.contains 7 then y.fab7 else none
  match a, b with
  | some e, some f => if e.order ≤ f.order then some (false, e) else some (true, f)
  | some e, none => some (false, e)
  | none, some f => some (true, f)
  | none, none => none

/-- A fabric-error entry cleared. -/
def State.clearFab (s : State) (seven : Bool) : State :=
  s.modY (fun y => if seven then y.clear7 else { y with fab3 := none })

/-- WAITN and FENCE meet the fabric-error trap of a path they wait on (R288); taking the trap clears the entry. -/
def waitPaths (s : State) (paths : List Nat) (sels : List Sel) (body : State → Res) :
    Host.Outcome State Fault Refusal :=
  match s.ready sels [], s.g.y.fabErr paths with
  | .ok _, some (seven, e) => finish 4 (.trap ⟨0x14, e.code, e.addr, 0⟩ (s.clearFab seven))
  | _, _ => run 4 s sels [] body

/-- WAITN (07 R170). -/
def execWaitn (p : BitVec 3) (a : Sel) (s : State) : Host.Outcome State Fault Refusal :=
  waitPaths s [p.toNat] [a] (fun x =>
    if x.g.y.path p.toNat ≤ (x.uniVal a.src).toNat then .ok x else .block .counter x)

/-- A FENCE done: one with release order at TEAM scope makes each later write of the group such a release (13 R338). -/
def State.fenceDone (s : State) (o : Order) (sc : Scope) : State :=
  if teamRel o sc then s.modY (fun y => { y with relFence := true }) else s

/-- FENCE (07 R172). -/
def execFence (o : Order) (sc : Scope) (s : State) : Host.Outcome State Fault Refusal :=
  waitPaths s (fencePaths sc) [] (fun x => if x.released sc then .ok (x.fenceDone o sc) else .block .counter x)

/-- FENCE.FLUSH (R172): the release part writes this core's dirty bytes back, the acquire part drops its copies. -/
def execFenceFlush (o : Order) (sc : Scope) (s : State) : Host.Outcome State Fault Refusal :=
  waitPaths s (fencePaths sc) [] (fun x =>
    let y := if isRel o then x.flushSpad x.cn x.x.asid false else x
    if y.released sc then .ok ((if isAcq o then y.flushSpad y.cn y.x.asid true else y).fenceDone o sc) else .block .counter y)

end Sys2Proof.Machine
end

