-- ==== Sys2Proof/Machine/Fabric.lean ====
section
/-! DEFINITION. PUT, RATOM and RACC, the transfers they send and how a transfer ends (spec/11 R276 to R289; 16 R415). -/

namespace Sys2Proof.Machine

/-! Checks (R281). -/

/-- One element of a transfer: its address, its bytes and its value. -/
structure FElem where
  addr : W64
  n : Nat
  v : Nat
deriving DecidableEq, Repr

/-- What one thread sends. -/
structure FThread where
  t : Nat
  elems : List FElem
  flag : Option W64
deriving DecidableEq, Repr

/-- What a fabric instruction asks of its records. -/
structure FKind where
  kind : XKind
  spaces : List Nat
  /-- registers of the data -/
  nw : Nat
  /-- path of its transfers -/
  path : Nat

/-- Is the FMT accepted (R281, rank 2)? -/
def FKind.fmtOk (k : FKind) (f : Nat) : Bool :=
  match k.kind with
  | .racc => f == 8 || f == 0x0A
  | .put => if k.nw = 1 then [some 8, some 16, some 32].contains (fmtBits f) else fmtBits f == some 32
  | _ => fmtBits f == some 32

/-- One element checked: none where BCHK drops it. -/
def felem (rc : BitVec 256) (x : W32) (dj n al : Nat) (odd : Bool) : Except (Nat × W64) (Option W64) :=
  match check (x.toNat % 2 ^ 20 + dj) (rExt0 rc) (rBchk rc), check (x.toNat / 2 ^ 20) (rExt1 rc) (rBchk rc) with
  | .bad, _ => .error (3, x.zeroExtend 64)
  | _, .bad => .error (3, x.zeroExtend 64)
  | .idx j, .idx i =>
    let a := elemAddr (rSpace rc) (rBase rc) (rStr1 rc) (rStr0 rc) i j
    if rRo rc then .error (5, a)
    else if a.toNat % al ≠ 0 ∨ (odd = true ∧ x.toNat % 2 = 1) ∨ n = 0 then .error (6, a)
    else .ok (some a)
  | _, _ => .ok none

/-- The elements of thread `t`, each with its value or the rank that fails. -/
def fthread (k : FKind) (rc : BitVec 256) (x : W32) (val : Nat → W32) :
    List (Except (Nat × W64) (Option FElem)) :=
  let one := fun (dj n al : Nat) (odd : Bool) (v : Nat) =>
    match felem rc x dj n al odd with
    | .error e => (.error e : Except (Nat × W64) (Option FElem))
    | .ok a => .ok (a.map (fun b => ⟨b, n, v⟩))
  if !k.spaces.contains (rSpace rc) then [.error (1, rBase rc)]
  else if !k.fmtOk (rFmt rc) then [.error (2, BitVec.ofNat 64 (rFmt rc))]
  else if k.kind = .racc ∧ rFmt rc = 0x0A then
    (List.range k.nw).flatMap (fun w =>
      [one (2 * w) 2 4 true ((val w).toNat % 65536), one (2 * w + 1) 2 2 false ((val w).toNat / 65536)])
  else
    let n := (fmtBits (rFmt rc)).getD 32 / 8
    (List.range k.nw).map (fun w => one w n n false ((val w).toNat % 2 ^ (8 * n)))

/-- The flag word of a thread (R283), checked against its data record. -/
def fflag (rc fb : BitVec 256) (x : W32) : Except (Nat × W64) (Option W64) :=
  if rSpace fb ≠ rSpace rc ∨ (rSpace rc = 5 ∧ (rBase fb).toNat / 2 ^ 48 ≠ (rBase rc).toNat / 2 ^ 48) then
    .error (1, rBase fb)
  else felem fb x 0 4 4 false

/-- The failing ranks of a list of results. -/
def fbad {α : Type} (l : List (Except (Nat × W64) α)) : List (Nat × W64) :=
  l.filterMap (fun r => match r with | .error e => some e | .ok _ => none)

/-- Every thread's accesses checked before any is sent (R281, 07 R156). -/
def fcheck (k : FKind) (rc : BitVec 256) (idx : Nat → W32) (val : Nat → Nat → W32)
    (flag : Option (BitVec 256 × (Nat → W32))) (ts : List Nat) : Except Trap (List FThread) :=
  let rs := ts.map (fun t => (t, fthread k rc (idx t) (val t),
    match flag with
    | some f => fflag rc f.1 (f.2 t)
    | none => .ok none))
  let bad := rs.flatMap (fun r => (fbad r.2.1 ++ fbad [r.2.2]).map (fun e => (r.1, e)))
  match bad with
  | [] => .ok (rs.map (fun r =>
      ⟨r.1, r.2.1.filterMap (fun e => match e with | .ok x => x | .error _ => none),
        match r.2.2 with | .ok a => a | .error _ => none⟩))
  | b :: bs =>
    let m := bs.foldl (fun m x => min m x.2.1) b.2.1
    let fs := bad.filter (fun x => decide (x.2.1 = m))
    let v := ((fs.head?).map (fun x => x.2.2)).getD 0
    .error ⟨rankCause m, 0, v, maskOf (fun t => fs.any (fun x => decide (x.1 = t)))⟩

/-! Failures and ends (R287, R288). -/

/-- A group's fabric-error entry of a path: it keeps the earliest failure (R288). -/
def State.fabFail (s : State) (gk path code : Nat) (addr : W64) : State :=
  let e : FabErr := ⟨code, addr, s.link.fab.fails⟩
  (s.modFab (fun f => { f with fails := f.fails + 1 })).modGrp gk (fun g =>
    { g with y := if path = 3 then { g.y with fab3 := g.y.fab3.or (some e) } else { g.y with fab7 := g.y.fab7.or (some e) } })

/-- A return of a RATOM lands: the register is full once no transfer of the group still owes it a lane. -/
def State.retLane (s : State) (gk r t : Nat) (v : W32) (e : Option RegErr) : State :=
  let more := s.link.fab.xfers.any (fun x => decide (x.gk = gk) && (match x.kind, x.ret with
    | .ratom, some q => decide (q.1 = r)
    | _, _ => false))
  (s.modGrp gk (fun g =>
    { g with
      r := (g.r.setV r t v).markV r more
      y := g.y.flag [.v r 0 []] e })).poke gk

/-- The path of a transfer (R287). -/
def XKind.path : XKind → Nat
  | .put => 3
  | _ => 7

/-- A barrier object charged or discharged (14 R364). -/
def State.chargeObj (s : State) (tk : Nat) (a : Abo) (up : Bool) : State :=
  match a with
  | .none => s
  | .obj k => s.setObj tk k.toNat (if up then (s.team tk).obj k.toNat + 1 else (s.team tk).obj k.toNat - 1)

/-- One add of a RACC, at the target's adders (R285). -/
def accAdd (bf : Bool) (old v : Nat) : Nat :=
  if bf then (fAdd bf16 .rne 0 old (v % 65536)).bits else (fAdd fp32 .rne 0 old v).bits

/-- The atomic operation of a RATOM, with the old value that its reply brings, or else the one found. -/
def State.ackAtom (s : State) (tgt base : Nat) (t : AtomThread) (v : Option W32) : W32 × State :=
  let a := base + t.addr.toNat
  let old := v.getD (BitVec.ofNat 32 (s.pnum tgt a 4))
  (old, s.pwrite tgt a (leBytes 4 (aop t.op old t.val t.cmp).toNat))

/-- What an acknowledged transfer has done at its target outside this module, as this module's own accesses find it
afterwards (R283 to R285; log 8), with the value for a RATOM. In local HBM it was done when it was sent. -/
def State.ackEffect (s : State) (x : Xfer) (v : Option W32) : W32 × State :=
  let tgt := if toPool x.dst then 1 else 3
  let base := if toPool x.dst then 0 else x.addr.toNat / 2 ^ 48 * 2 ^ 48
  if x.dst = dstLocal then (v.getD 0, s)
  else match x.item with
    | .put t =>
      let s1 := t.words.foldl (fun (st : State) (w : PutWord) => st.pwrite tgt (base + w.addr.toNat) w.bytes) s
      (0, if x.dst = dstWords then s else match t.flag with
        | some f => (s1.ackAtom tgt base ⟨f, .add, 1, 0⟩ none).2
        | none => s1)
    | .write a bs => (0, s.pwrite tgt (base + a.toNat) bs)
    | .atom t => s.ackAtom tgt base t v
    | .racc es => (0, es.foldl (fun (st : State) (e : AccElem) =>
        let a := base + e.addr.toNat
        let n := if e.bf16 then 2 else 4
        st.pwrite tgt a (leBytes n (accAdd e.bf16 (st.pnum tgt a n) e.val.toNat))) s)
    | _ => (0, s)

/-- A transfer that ends without its reply is remembered by its destination (R278). -/
def State.noteLate (s : State) (x : Xfer) : State := s.modFab (fun f => { f with late := tset 0 f.late x.id (x.dst + 1) })

/-- Transfers under way that end with no reply awaited. -/
def State.noteAll (s : State) (p : Xfer → Bool) : State :=
  (s.link.fab.xfers.filter (fun (x : Xfer) => p x && !x.backoff)).foldl State.noteLate s

/-- A transfer retired. -/
def State.dropX (s : State) (id : Nat) : State :=
  s.modFab (fun f => { f with xfers := f.xfers.filter (fun (y : Xfer) => decide (y.id ≠ id)) })

/-- A PUT, RATOM or RACC transfer is acknowledged (`code` none), with the value that its reply brings, or fails. -/
def State.xferEnd (s : State) (x : Xfer) (code : Option Nat) (v : Option W32) : State :=
  let s1 := s.dropX x.id
  let r := match code with
    | some c => (0, s1.fabFail x.gk x.kind.path c x.addr)
    | none => s1.ackEffect x v
  let s2 := match x.ret with
    | some q => r.2.retLane x.gk q.1 q.2.1 (if code.isSome then 0 else q.2.2.getD r.1) (if code.isSome then some .fabric else none)
    | none => r.2
  (s2.decPath x.gk x.kind.path).chargeObj (teamOf x.gk) x.abo false

/-! Packets leave (R276, R286). -/

/-- The waiting transfers of one packet leave in it, with the next SEQ of its destination. -/
def State.sendGrp (s : State) (dst grp : Nat) : State :=
  let l := s.link.fab.xfers.filter (fun (y : Xfer) => decide (y.grp = grp) && y.backoff)
  match l with
  | [] => s
  | x :: _ =>
    s.modFab (fun f =>
      let q := f.takeSeq dst
      ({ q.2 with xfers := q.2.xfers.map (fun (y : Xfer) =>
          if y.grp = grp ∧ y.backoff = true then { y with seq := q.1, backoff := false } else y) }).send
        (s.request x.job dst q.1 (l.map (fun (y : Xfer) => y.id)) (l.map (fun (y : Xfer) => y.item))))

/-- A transfer recorded; it waits until its packet is sent. -/
def State.addXfer (s : State) (x : Xfer) : State :=
  s.modFab (fun f => { f with next := f.next + 1, xfers := f.xfers ++ [x] })

/-! Sending (R282 to R287). -/

/-- One thread's transfer applied to this module's HBM (R283 to R285), with the old value for RATOM: data under the class
of the data record, the flag under that of its own record (04 R83). -/
def State.fapply (s : State) (k : XKind) (bf : Bool) (op : AOp) (c : W32) (cls fcls : Nat)
    (elems : List (Nat × Nat × FElem)) (flag : Option (Nat × Nat)) : W32 × State :=
  match k with
  | .ratom =>
    match elems with
    | [] => (0, s)
    | x :: _ =>
      let old := BitVec.ofNat 32 (s.pnum x.1 x.2.1 4)
      (old, (s.pwrite x.1 x.2.1 (leBytes 4 (aop op old (BitVec.ofNat 32 x.2.2.v) c).toNat)).l2range x.1 x.2.1 4 cls true)
  | .racc =>
    (0, elems.foldl (fun st x =>
      (st.pwrite x.1 x.2.1 (leBytes x.2.2.n (accAdd bf (st.pnum x.1 x.2.1 x.2.2.n) x.2.2.v))).l2range x.1 x.2.1 x.2.2.n cls true) s)
  | _ =>
    let s1 := elems.foldl (fun st x =>
      (st.pwrite x.1 x.2.1 (leBytes x.2.2.n x.2.2.v)).l2range x.1 x.2.1 x.2.2.n cls true) s
    (0, match flag with
      | some f => (s1.pwrite f.1 f.2 (leBytes 4 (s1.pnum f.1 f.2 4 + 1))).l2range f.1 f.2 4 fcls true
      | none => s1)

/-- A fabric instruction as it executes. -/
structure FInstr where
  k : FKind
  /-- data record index and flag record index -/
  b : Nat
  fb : Nat
  abo : Abo
  op : AOp
  cmp : Nat → W32
  ret : Option Nat

/-- The elements of a thread translated through the record's BT (R282). -/
def State.fxlate (s : State) (b tgt : Nat) : List FElem → Except (XFault × W64) (List (Nat × Nat × FElem)) × State
  | [] => (.ok [], s)
  | e :: es =>
    let r := s.btXlate b e.addr tgt .write
    match r.1 with
    | .error f => (.error (f, e.addr), r.2)
    | .ok a =>
      let q := State.fxlate r.2 b tgt es
      match q.1 with
      | .error f => (.error f, q.2)
      | .ok l => (.ok ((a.tgt, a.pa, e) :: l), q.2)

/-- What a thread's transfer carries to addresses `at` of its elements (R283 to R285). -/
def FInstr.item (i : FInstr) (bf : Bool) (t : Nat) (es : List (W64 × FElem)) (flag : Option W64) : Item :=
  match i.k.kind with
  | .ratom => .atom ((es.head?.map (fun e => (⟨e.1, i.op, BitVec.ofNat 32 e.2.v, i.cmp t⟩ : AtomThread))).getD ⟨0, i.op, 0, 0⟩)
  | .racc => .racc (es.map (fun e => ⟨e.1, bf, BitVec.ofNat 32 e.2.v⟩))
  | _ => .put ⟨es.map (fun e => ⟨e.1, leBytes e.2.n e.2.v⟩), flag⟩

/-- A transfer of the current group recorded and charged (R287). -/
def State.newXfer (s : State) (i : FInstr) (t dst : Nat) (addr : W64) (item : Item) (old : Option W32) : State :=
  let id := s.link.fab.next
  ((s.addXfer ⟨id, i.k.kind, s.cur, 0, i.abo, (s.ctx s.t.ctx).fjob, dst, 0, id, addr, item,
    i.ret.map (fun r => (r, t, old)), 0, !(dst = dstLocal || dst = dstWords)⟩).incPath s.cur i.k.path 1).chargeObj
    (teamOf s.cur) i.abo true

/-- A transfer that fails before a packet is sent (R276, R288): path and object are raised and lowered at once. -/
def State.failXfer (s : State) (i : FInstr) (t code : Nat) (addr : W64) : State :=
  let s1 := s.fabFail s.cur i.k.path code addr
  match i.ret with
  | some r => s1.modG (fun g => { g with r := g.r.setV r t 0, y := g.y.flag [.v r 0 []] (some .fabric) })
  | none => s1

/-- A packet to be sent: its destination, its 256-byte line, the transfers in it, and whether it is held back. -/
structure FPack where
  dst : Nat
  line : Nat
  ids : List Nat
  held : Bool

/-- A transfer added to the packets of its instruction: one packet for each 256-byte line of a device (R286). -/
def addPack (dst line id : Nat) (held : Bool) : List FPack → List FPack
  | [] => [⟨dst, line, [id], held⟩]
  | p :: l =>
    if p.dst = dst ∧ p.line = line then { p with ids := p.ids ++ [id] } :: l else p :: addPack dst line id held l

/-- A word, or the flag, of a PUT to the pool recorded as a transfer to the node that its address names (R283). -/
def State.newWord (s : State) (gk parent : Nat) (job : BitVec 16) (addr pa : W64) (item : Item) : State :=
  let id := s.link.fab.next
  s.addXfer ⟨id, .word, gk, parent, .none, job, dstPool (pa.toNat / 2 ^ 40), 0, id, addr, item, none, 0, true⟩

/-- The words of one thread's PUT to the pool, and the packets so far. -/
def State.newWords (s : State) (parent : Nat) (es : List (W64 × FElem)) (ps : List FPack) : List FPack × State :=
  es.foldl (fun (q : List FPack × State) e =>
    (addPack (dstPool (e.1.toNat / 2 ^ 40)) (e.1.toNat / 256) q.2.link.fab.next false q.1,
      q.2.newWord s.cur parent (s.ctx s.t.ctx).fjob e.2.addr e.1 (.write e.1 (leBytes e.2.n e.2.v)))) (ps, s)

/-- One thread's transfer to pool nodes, at its elements' pool addresses: a PUT goes word by word to the nodes that its own
addresses name, its flag later (R283). A node that no live port reaches fails it at once (R276, R277). -/
def State.fsendPool (s : State) (i : FInstr) (bf : Bool) (th : FThread) (es : List (W64 × FElem)) (flag : Option W64)
    (ps : List FPack) : List FPack × State :=
  let va := (th.elems.head?.map (fun e => e.addr)).getD 0
  let nodes := (es.map (fun (e : W64 × FElem) => e.1) ++ flag.toList).map (fun a => dstPool (a.toNat / 2 ^ 40))
  let dst := nodes.headD 0
  if nodes.any (fun (n : Nat) => (s.link.fab.route n).isEmpty) then (ps, s.failXfer i th.t 6 va)
  else
    let id := s.link.fab.next
    if i.k.kind = .put then (s.newXfer i th.t dstWords va (i.item bf th.t es flag) none).newWords id es ps
    else (addPack dst (((es.head?.map (fun (e : W64 × FElem) => e.1)).getD 0).toNat / 256) id false ps,
      s.newXfer i th.t dst va (i.item bf th.t es flag) none)

/-- One thread's transfer to a peer: its addresses there are the low 48 bits (R281). -/
def State.fsendPeer (s : State) (i : FInstr) (bf : Bool) (th : FThread) (va : W64) (ps : List FPack) : List FPack × State :=
  let rank := va.toNat / 2 ^ 48
  let low := fun (a : W64) => BitVec.ofNat 64 (a.toNat % 2 ^ 48)
  let item := i.item bf th.t (th.elems.map (fun e => (low e.addr, e))) (th.flag.map low)
  let line := va.toNat % 2 ^ 48 / 256
  match s.peerSt rank with
  | .fail c => (ps, s.failXfer i th.t c va)
  | .held =>
    let sl := ((s.link.mem.cur.bind (fun t => t.slots[rank]?))).getD 0
    (addPack sl line s.link.fab.next true ps, s.newXfer i th.t sl va item none)
  | .go sl => (addPack sl line s.link.fab.next false ps, s.newXfer i th.t sl va item none)

/-- One thread's transfer sent: the error that parks the group, or the state and the packets so far. -/
def State.fsend (s : State) (i : FInstr) (rc : BitVec 256) (fcls : Nat) (th : FThread) (ps : List FPack) :
    Except (XFault × W64) (List FPack) × State :=
  let bf := rFmt rc == 0x0A
  match th.elems with
  | [] =>
    match i.ret with
    | some r => (.ok ps, s.modR (fun g => g.setV r th.t 0))
    | none => (.ok ps, s)
  | e :: _ =>
    if rSpace rc = 5 then let q := s.fsendPeer i bf th e.addr ps; (.ok q.1, q.2)
    else
      let tgt := spaceTgt (rSpace rc)
      let r := s.fxlate i.b tgt th.elems
      match r.1 with
      | .error f => (.error f, r.2)
      | .ok es =>
        let fl := match th.flag with
          | none => ((.ok [] : Except (XFault × W64) (List (Nat × Nat × FElem))), r.2)
          | some a => r.2.fxlate i.fb tgt [⟨a, 4, 0⟩]
        match fl.1 with
        | .error f => (.error f, fl.2)
        | .ok f =>
          let x := fl.2
          let els := es.map (fun q => (BitVec.ofNat 64 q.2.1, q.2.2))
          let flag := f.head?.map (fun q => (q.1, q.2.1))
          if tgt ≠ 0 then
            let q := x.fsendPool i bf th els (flag.map (fun q => BitVec.ofNat 64 q.2)) ps
            (.ok q.1, q.2)
          else if i.k.kind ≠ .put ∧ (es.any (fun q => x.pbad 0 q.2.1 q.2.2.n)) = true then
            (.ok ps, x.failXfer i th.t 5 e.addr)
          else
            let q := x.fapply i.k.kind bf i.op (i.cmp th.t) (rCache rc) fcls es flag
            (.ok ps, q.2.newXfer i th.t dstLocal e.addr (i.item bf th.t els (flag.map (fun q => BitVec.ofNat 64 q.2))) (some q.1))

/-- The threads of an instruction in order; where one faults, the mask of those not sent, the fault and its address. -/
def State.fsends (s : State) (i : FInstr) (rc : BitVec 256) (fcls : Nat) (ps : List FPack) :
    List FThread → Option (List Nat × XFault × W64) × List FPack × State
  | [] => (none, ps, s)
  | th :: ths =>
    let r := s.fsend i rc fcls th ps
    match r.1 with
    | .error f => (some ((th :: ths).map (fun x => x.t), f.1, f.2), ps, r.2)
    | .ok q => State.fsends r.2 i rc fcls q ths

/-- The packets of an instruction: the transfers of each bear one number, and it leaves unless it is held back. -/
def State.fpackets (s : State) (ps : List FPack) : State :=
  ps.foldl (fun (st : State) (p : FPack) =>
    let g := p.ids.headD 0
    let s1 := st.modFab (fun f => { f with xfers := f.xfers.map (fun (x : Xfer) => if p.ids.contains x.id then { x with grp := g } else x) })
    if p.held then s1 else s1.sendGrp p.dst g) s

/-- The threads that an execution sends for: the active ones (R283), of an instruction that has sent for some, those not yet
sent (R282). -/
def State.sendSet (s : State) : List Nat :=
  match (if s.g.sys.hm then s.g.y.unsentH else s.g.y.unsent) with
  | some (a, m) => if a = s.g.r.pc then s.actThreads.filter (fun t => m.getLsbD t) else s.actThreads
  | none => s.actThreads

/-- Transfers of a group without their final reply. -/
def State.outstanding (s : State) (gk : Nat) : Nat :=
  (s.link.fab.xfers.filter (fun x => decide (x.gk = gk) && (x.kind == .put || x.kind == .ratom || x.kind == .racc))).length

/-- The threads whose transfers were not sent, kept with the instruction that parks (R282). -/
def Group.keepUnsent (g : Group) (m : BitVec 16) : Group :=
  if g.sys.hm then { g with y := { g.y with unsentH := some (g.r.pc, m) } } else { g with y := { g.y with unsent := some (g.r.pc, m) } }

/-- A fabric instruction of the current group (R281 to R287). -/
def fabricInstr (x : State) (i : FInstr) (idx : Nat → W32) (val : Nat → Nat → W32) (flag : Option (Nat → W32)) : Res :=
  let rc := x.g.r.getB i.b
  let ts := x.sendSet
  match fcheck i.k rc idx val (flag.map (fun f => (x.g.r.getB i.fb, f))) ts with
  | .error t => .trap t x
  | .ok ths =>
    let n := (ths.filter (fun t => !t.elems.isEmpty)).length
    if 256 < x.outstanding x.cur + n then .block .counter x
    else
      let x0 := match i.ret with
        | some r => x.modY (fun y => y.unflag (.v r))
        | none => x
      let q := x0.fsends i rc (rCache (x.g.r.getB i.fb)) [] ths
      let y := q.2.2.fpackets q.2.1
      let z := match i.ret with
        | some r => y.modR (fun g => g.markV r (y.link.fab.xfers.any (fun w => decide (w.gk = y.cur) && (match w.ret with
            | some u => decide (u.1 = r)
            | none => false))))
        | none => y
      match q.1 with
      | none => .ok z
      | some (left, f, va) =>
        let m := maskOf (fun t => left.contains t)
        .gone ((z.modG (fun g => g.keepUnsent m)).park z.cur f.cause va m (rSpace rc) (if i.k.kind = .put then 1 else 2))

/-- The flag of a PUT to the pool sent, once its words are acknowledged (R283). -/
def State.sendFlag (s : State) (p : Xfer) (f : W64) : State :=
  let dst := dstPool (f.toNat / 2 ^ 40)
  if (s.link.fab.route dst).isEmpty then s.xferEnd p (some 6) none
  else (s.newWord p.gk p.id p.job p.addr f (.atom ⟨f, .add, 1, 0⟩)).sendGrp dst s.link.fab.next

/-- A word, or the flag, of a PUT to the pool is acknowledged or fails (R283, R287): the first failure ends the PUT, and the
acknowledgement of its last word releases the flag. -/
def State.wordEnd (s : State) (x : Xfer) (code : Option Nat) : State :=
  let s1 := s.dropX x.id
  let s2 := if code.isSome then s1 else (s1.ackEffect x none).2
  match s2.link.fab.xfers.find? (fun (p : Xfer) => decide (p.kind = .put) && decide (p.id = x.ref)) with
  | none => s2
  | some p =>
    if code.isSome then s2.xferEnd p code none
    else if s2.link.fab.xfers.any (fun (w : Xfer) => decide (w.kind = .word) && decide (w.ref = p.id)) then s2
    else match x.item, p.item with
      | .write _ _, .put t =>
        match t.flag with
        | some f => s2.sendFlag p f
        | none => s2.xferEnd p none none
      | _, _ => s2.xferEnd p none none

/-- PUT (11 R280, R283). -/
def execPut (d : BitVec 7) (a : Sel) (nm1 : BitVec 2) (k : BitVec 4) (flag : Option (BitVec 4 × Sel)) (abo : Abo)
    (s : State) : Host.Outcome State Fault Refusal :=
  let n := nm1.toNat + 1
  run 8 s ([a] ++ (flag.map (fun f => f.2)).toList ++ (List.range n).map (fun i => blk (.v (d + BitVec.ofNat 7 i)))) []
    (fun x => fabricInstr x
      { k := ⟨.put, [3, 4, 5], n, 3⟩, b := k.toNat, fb := (flag.map (fun f => f.1.toNat)).getD 0, abo := abo, op := .add,
        cmp := fun _ => 0, ret := none }
      (x.laneVal a.src) (fun t i => x.g.r.getV (d.toNat + i) t) (flag.map (fun f => x.laneVal f.2.src)))

/-- RATOM (11 R280, R284). -/
def execRatom (op : AOp) (ret : Option (BitVec 7)) (a b c : Sel) (k : BitVec 4) (abo : Abo) (s : State) :
    Host.Outcome State Fault Refusal :=
  run 8 s ([a, b] ++ (if op = .cas then [c] else [])) ((ret.map dv).toList)
    (fun x => fabricInstr x
      { k := ⟨.ratom, [3, 4, 5], 1, 7⟩, b := k.toNat, fb := 0, abo := abo, op := op, cmp := x.laneVal c.src,
        ret := ret.map (fun r => r.toNat) }
      (x.laneVal a.src) (fun t _ => x.laneVal b.src t) none)

/-- RACC (11 R280, R285). -/
def execRacc (d : BitVec 7) (a : Sel) (nm1 : BitVec 2) (k : BitVec 4) (abo : Abo) (s : State) :
    Host.Outcome State Fault Refusal :=
  let n := nm1.toNat + 1
  run 8 s ([a] ++ (List.range n).map (fun i => blk (.v (d + BitVec.ofNat 7 i)))) []
    (fun x => fabricInstr x
      { k := ⟨.racc, [3, 5], n, 7⟩, b := k.toNat, fb := 0, abo := abo, op := .add, cmp := fun _ => 0, ret := none }
      (x.laneVal a.src) (fun t i => x.g.r.getV (d.toNat + i) t) none)

end Sys2Proof.Machine
end

