-- ==== Sys2Proof/Machine/Arrive.lean ====
section
/-! DEFINITION. Packets that arrive and the replies to them, packets of the link die's own engines, and the payloads of
two-sided messages (spec/11 R273 to R277; 12 R315, R322; 17 R432, R433). -/

namespace Sys2Proof.Machine

/-! Arrival. -/

/-- A reply to a request: ACK, NACK or RDATA (R273), with the responder's generation (R275), the SEQ of the request, its
congestion mark echoed (R278), and the place `k` of the transfer that it answers in the request. -/
def State.replyPk (s : State) (h : Hdr) (k : Nat) (it : Item) : Packet :=
  ⟨s.link.mem.gen, h.job, h.src.toNat, s.link.mem.slot, h.ce, h.seq.toNat, [k], [it]⟩

/-- A reply put on a port. -/
def State.reply (s : State) (h : Hdr) (it : Item) : State := s.modFab (fun f => f.send (s.replyPk h 0 it))

/-- A NACK (R279). -/
def State.nack (s : State) (h : Hdr) (code : Nat) : State := s.reply h (.nack code)

/-- A packet's `k`th transfer served: its reply is kept, so that a second copy is answered alike (R277), and sent. -/
def State.answer (s : State) (h : Hdr) (k : Nat) (it : Item) : State :=
  s.modFab (fun f =>
    { f with served := f.served ++ [(h.src.toNat, h.seq.toNat, s.replyPk h k it)] }.send (s.replyPk h k it))

/-- The context that a JOB selects (R274). -/
def State.ctxOfJob (s : State) (job : BitVec 16) : Option Nat :=
  (s.ctxs.find? (fun p => p.2.live && decide (p.2.fjob = job))).map (fun p => p.1)

/-- The replies given to a packet that has been served before (R277). -/
def Fabric.servedFor (f : Fabric) (h : Hdr) : List Packet :=
  (f.served.filter (fun e => decide (e.1 = h.src.toNat) && decide (e.2.1 = h.seq.toNat))).map (fun e => e.2.2)

/-- A packet that comes in, with what it carries: one whose SRC is this module's own slot is a packet that has left here and
not come back; there is none otherwise (R273, R276). -/
def State.carriedBy (s : State) (h : Hdr) (p : List Item → Bool) : Option State :=
  if h.src.toNat ≠ s.link.mem.slot then some s
  else (s.link.fab.loop.find? (fun k => decide (k.gen = h.gen) && decide (k.job = h.job) && decide (k.seq = h.seq.toNat) &&
    p k.items)).map (fun k => s.modFab (fun f => { f with loop := f.loop.erase k }))

/-- The same for a packet that carries just the given items. -/
def State.carried (s : State) (h : Hdr) (it : List Item) : Option State := s.carriedBy h (fun l => decide (l = it))

/-- A packet dropped and counted, and answered with NACK code 7 (R273). -/
def State.badPacket (s : State) (h : Hdr) : State := (s.modFab (fun f => { f with malformed := f.malformed + 1 })).nack h 7

/-- A module packet as it arrives: dropped with SRC[15:8] not zero (R273), answered at once (stale, fenced, held, served
before, or no context; R274, R275, R277, R432, R433), or to be served in a context. -/
def State.gate (s : State) (h : Hdr) : Option Nat × State :=
  let old := s.link.fab.servedFor h
  if 256 ≤ h.src.toNat then (none, s.badPacket h)
  else if h.gen ≠ s.link.mem.gen then (none, (s.modFab (fun f => { f with stale := f.stale + 1 })).nack h 1)
  else if s.link.mem.fenced then (none, s.nack h 1)
  else if s.holding then (none, s.nack h 6)
  else if !old.isEmpty then
    (none, old.foldl (fun (st : State) (p : Packet) => st.modFab (fun f => f.send { p with ece := h.ce })) s)
  else match s.ctxOfJob h.job with
    | none => (none, s.nack h 2)
    | some c => (some c, s)

/-! Departure. -/

/-- The way to a pod slot (R276, R432, R433). -/
def State.slotSt (s : State) (sl : Nat) : PeerSt :=
  if s.link.mem.rank.isNone || s.link.mem.fenced then .fail 1
  else if (s.link.fab.route sl).isEmpty then .fail 6
  else if s.holding then .held
  else .go sl

/-- A transfer of the receive engine or of a collective recorded for a destination, under a context's JOB; its packet
leaves unless module traffic is held. -/
def State.post (s : State) (kind : XKind) (cx gk ref dst : Nat) (item : Item) (held : Bool) : State :=
  let id := s.link.fab.next
  let s1 := s.addXfer ⟨id, kind, gk, ref, .none, (s.ctx cx).fjob, dst, 0, id, 0, item, none, 0, true⟩
  if held then s1 else s1.sendGrp dst id

/-! Payloads (12 R315, R322). -/

/-- The element size of a payload record in bytes; none where the FMT does not serve. -/
def payEsz (rc : BitVec 256) : Option Nat :=
  if isBlock (rFmt rc) then none
  else match fmtBits (rFmt rc) with
    | some 8 => some 1
    | some 16 => some 2
    | some 32 => some 4
    | some 64 => some 8
    | _ => none

/-- Elements 0 to n − 1 pass the bounds check (R322, R325). -/
def payOk (rc : BitVec 256) (n : Nat) : Bool :=
  decide (n = 0) || (
    check (if rExt0 rc = 0 then 0 else min n (rExt0 rc) - 1) (rExt0 rc) (rBchk rc) != .bad &&
    check ((n - 1) / rExt0 rc) (rExt1 rc) (rBchk rc) != .bad)

/-- The address `k` bytes above one: in space 5 the rank stays (02 R478). -/
def addrAdd (space : Nat) (a : W64) (k : Nat) : W64 := elemAddr space a 0 1 0 k

/-- The address of byte `b` of a payload in its record; none where BCHK drops it, an error where a check fails. -/
def payAddr (rc : BitVec 256) (b : Nat) : Except Unit (Option W64) :=
  let z := (payEsz rc).getD 1
  let e := b / z
  let w := rExt0 rc
  match check (if w = 0 then e else e % w) w (rBchk rc), check (e / w) (rExt1 rc) (rBchk rc) with
  | .bad, _ => .error ()
  | _, .bad => .error ()
  | .idx j, .idx i =>
    .ok (some (addrAdd (rSpace rc) (elemAddr (rSpace rc) (rBase rc) (rStr1 rc) (rStr0 rc) i j) (b % z)))
  | _, _ => .ok none

/-- The agent that moves a message's bytes: the link die's copy engines. Space 2 is that of the die on which the group
issued its SEND or RPOST, `home` its core then (R331, 04 R89, 16 R423). -/
def State.msgAg (gk cx : Nat) (priv : Bool) (home : Nat) : EngAg :=
  ⟨.link, cx, priv, some (teamOf gk), none, dieOf home, some home⟩

/-- A payload's record as a side. -/
def paySide (rc : BitVec 256) (side : Nat) : ESide := ⟨rc, rBase rc, none, side⟩

/-- A byte of a saved team's tile memory, through the stamp that its segment was saved with, or of its side bands (R331; 04
R105). -/
def State.savedByte (s : State) (tk a : Nat) : Option Byte :=
  let t := s.team tk
  let vis := (s.launch t.launch).visible
  if a < vis then some (mget t.saveTile (a / 4096 * 4096 + swizzle (mStamp (tget 0 t.saveMeta (a / 4096))) (a % 4096)))
  else if 0x40000000 ≤ a ∧ a - 0x40000000 < vis / 4096 * 256 then some (mget t.saveSide (a - 0x40000000))
  else none

/-- A byte of a source record; a saved team's tile memory is read in its save area (R331). -/
def State.payByte (s : State) (ag : EngAg) (rc : BitVec 256) (a : W64) : Except EErr Byte × State :=
  match ag.team with
  | none => (.error (6, 0), s)
  | some tk =>
    if rSpace rc = 0 ∧ (s.team tk).st = .saved then
      (match s.savedByte tk a.toNat with
      | some b => .ok b
      | none => .error (3, 4), s)
    else
      let r := s.eSpans ag (paySide rc 0) false [(a, 1)]
      match r.1 with
      | .error e => (.error e, r.2)
      | .ok l => (.ok (l.headD 0), r.2)

/-- The bytes `[b, b + n)` of a payload read from its source record. -/
def State.payRead (s : State) (ag : EngAg) (rc : BitVec 256) (b : Nat) : Nat → Except EErr (List Byte) × State
  | 0 => (.ok [], s)
  | n + 1 =>
    match payAddr rc b with
    | .error _ => (.error (3, 2), s)
    | .ok a =>
      let r := match a with
        | none => ((.ok 0 : Except EErr Byte), s)
        | some x => s.payByte ag rc x
      match r.1 with
      | .error e => (.error e, r.2)
      | .ok v =>
        let q := State.payRead r.2 ag rc (b + 1) n
        match q.1 with
        | .error e => (.error e, q.2)
        | .ok l => (.ok (v :: l), q.2)

/-- The completion class of a landing error (R315): translation 3, permission 4, data 5. -/
def landCls (e : EErr) : Nat := if e.1 = 4 ∨ e.1 = 5 then e.1 else 3

/-- Bytes of a payload landed from byte `b` up in the destination record; it stops at the first failing byte. -/
def State.payLand (s : State) (ag : EngAg) (rc : BitVec 256) (b : Nat) : List Byte → Option Nat × State
  | [] => (none, s)
  | v :: vs =>
    match payAddr rc b with
    | .error _ => (some 3, s)
    | .ok none => State.payLand s ag rc (b + 1) vs
    | .ok (some a) =>
      if rRo rc then (some 4, s)
      else
        let r := s.eStore ag (paySide rc 1) [(a, 1)] [v]
        match r.1 with
        | .error e => (some (landCls e), r.2)
        | .ok _ => State.payLand r.2 ag rc (b + 1) vs

end Sys2Proof.Machine
end

