-- ==== Sys2Proof/Machine/Messages.lean ====
section
/-! DEFINITION. SEND, RPOST, RPROBE, RCANCEL and the receive engine (spec/12 R307 to R331). -/

namespace Sys2Proof.Machine

/-! Limits (R307, R313). -/

/-- Entries of a context's posted-receive list. -/
def postedCap : Nat := 16384
/-- Headers of a context's unexpected queue. -/
def unexpCap : Nat := 8192
/-- Bytes of the reserve for eager payloads. -/
def eagerCap : Nat := 33554432
/-- Bytes of one MSG, PULL or PDATA. -/
def pieceCap : Nat := 8192

/-! The sender (R312, R313, R321 to R323). -/

/-- The status word of a SEND (R323, in the layout of 03 R66). -/
def sendStatus (cls detail len : Nat) : W32 :=
  BitVec.ofNat 32 (detail % 65536 * 65536 + (if cls = 0 then min ((len + 4095) / 4096) 4095 else 0) * 16 + cls * 2 + 1)

/-- The class and DETAIL of a SEND that a final NACK ends; `none` is no final reply (R323). -/
def sendFail : Option Nat → Nat × Nat
  | none => (3, 6)
  | some 1 => (2, 0)
  | some 3 => (4, 1)
  | some 4 => (4, 1)
  | some 5 => (5, 1)
  | some c => (3, c)

/-- A SEND writes its status and lowers path 6 (R323). -/
def State.sendEnd (s : State) (c : SendCmd) (e : Nat × Nat) : State :=
  let s1 := s.modCtx c.ctx (fun x => { x with sends := x.sends.filter (fun (y : SendCmd) => decide (y.id ≠ c.id)) })
  if (s1.grp c.gk).live then
    ((s1.writeStatus c.gk c.gd (sendStatus e.1 e.2 c.len) none).modGrp c.gk (fun g =>
      { g with y := { g.y with sends := g.y.sends - 1 } })).decPath c.gk 6
  else s1

/-- The SEND of a number, with its context's list. -/
def State.sendOf (s : State) (cx id : Nat) : Option SendCmd := (s.ctx cx).sends.find? (fun c => decide (c.id = id))

/-- What ends a SEND at issue with class 1 (R322, R323), if anything: the DETAIL. -/
def State.sendBad (s : State) (w : List W32) (rc : BitVec 256) : Option Nat :=
  let n := (w.getD 3 0).toNat
  let len := n * (payEsz rc).getD 0
  if (w.getD 0 0).toNat / 2 ^ 21 ≠ 0 then some 21
  else if (w.getD 1 0).toNat / 2 ^ 16 ≠ 0 then some 48
  else if 0x80000000 < len ∨ payOk rc n = false then some 96
  else if (payEsz rc).isNone ∨ [0, 2, 3, 4, 6].contains (rSpace rc) = false then some 0x0100
  else if s.link.mem.rank.isNone then some 0x0200
  else none

/-- A status of the current group that is known at issue: Gd is marked empty, and its write is on its way (05 R111); where
path 6 is named it is raised now and lowered with the write. -/
def State.sayLater (s : State) (gd : Nat) (v : W32) (path : Option Nat) : State := s.produce ⟨[.g gd v], path, none⟩

/-- A SEND of the current group that ends at issue. -/
def State.sendNow (s : State) (gd : Nat) (e : Nat × Nat) : State := s.sayLater gd (sendStatus e.1 e.2 0) (some 6)

/-- A SEND accepted (R312, R313): it takes a message number, and its MSG with the payload, or its RTS, leaves. -/
def State.sendGo (s : State) (gd : Nat) (w : List W32) (rc : BitVec 256) (bytes : List Byte) (len dst : Nat)
    (rdv held : Bool) : State :=
  let id := s.link.fab.next
  let cx := s.ctxNoG s.cur
  let key := 65536 * ((w.getD 1 0).toNat % 65536) + (w.getD 0 0).toNat % 65536
  let num := tget 0 (s.ctx cx).sendNo key
  let args : MsgArgs := ⟨BitVec.ofNat 16 cx, (w.getD 0 0).truncate 16, w.getD 2 0, len, num⟩
  let c : SendCmd := ⟨id, s.cur, gd, cx, rc, s.priv, len, rdv, s.cn, 0, dst, args⟩
  let s1 := s.modCtx cx (fun x => { x with sendNo := tset 0 x.sendNo key (num + 1), sends := x.sends ++ [c] })
  let s2 := s1.modG (fun g =>
    { g with r := g.r.markG gd true, y := { g.y.unflag (.g gd) with sends := g.y.sends + 1 } })
  (s2.incPath s2.cur 6 1).post (if rdv then .rts else .msg) cx s.cur id dst (if rdv then .rts args else .msg args bytes) held

/-- SEND. -/
def execSend (d g : BitVec 6) (s : State) : Host.Outcome State Fault Refusal :=
  run 4 s (blockSels g 4) [s.dg d] (fun x =>
    let w := x.cmds g 4
    let rc := x.g.r.getB (fieldOf (w.getD 0 0).toNat 16 4)
    let gd := x.gn d
    if !x.pathRoom 6 then .block .counter x
    else match x.sendBad w rc with
      | some b => .ok (x.sendNow gd (1, b))
      | none =>
        let n := (w.getD 3 0).toNat
        let len := n * (payEsz rc).getD 0
        let rdv := decide (pieceCap < len) || (w.getD 0 0).getLsbD 20
        match x.peerSt ((w.getD 1 0).toNat % 65536) with
        | .fail c => .ok (x.sendNow gd (if c = 1 then (2, 0) else (3, 0)))
        | p =>
          let slot := ((x.link.mem.cur.bind (fun t => t.slots[(w.getD 1 0).toNat % 65536]?))).getD 0
          let r := if rdv then ((.ok [] : Except EErr (List Byte)), x)
            else x.payRead (State.msgAg x.cur (x.ctxNoG x.cur) x.priv x.cn) rc 0 len
          match r.1 with
          | .error e => .ok (r.2.sendNow gd (if e.1 = 5 then 5 else 4, 0))
          | .ok bs => .ok (r.2.sendGo gd w rc bs len slot rdv (p == .held)))

/-! The receiver (R308, R310, R311, R313, R315). -/

/-- Does a message match a receive (R310)? -/
def Recv.takes (r : Recv) (m : MsgHdr) : Bool :=
  r.comm == m.comm && (r.src.isNone || r.src == some m.srank) && ((m.tag ^^^ r.tag) &&& r.mask) == 0 && r.gen == m.gen

/-- The capacity of a receive in bytes (R315). -/
def Recv.cap (r : Recv) : Nat := r.n * (payEsz r.rcd).getD 1
/-- The bytes of its message that land. -/
def Recv.want (r : Recv) : Nat := match r.msg with | some m => min m.len r.cap | none => 0
/-- The class of a receive that has landed all it can (R315). -/
def Recv.fullCls (r : Recv) : Nat := match r.msg with | some m => if r.cap < m.len then 2 else 0 | none => 0
/-- A receive that has ended and waits only for its delivery. -/
def Recv.ended (r : Recv) : Bool := r.cls.isSome && r.pulls.isEmpty

/-- The receives that have taken a message or ended, changed by handle. -/
def State.modTaken (s : State) (cx h : Nat) (f : Recv → Recv) : State :=
  s.modCtx cx (fun x => { x with taken := x.taken.map (fun (r : Recv) => if r.handle = h then f r else r) })
/-- A receive that has taken a message or ended. -/
def State.takenOf (s : State) (cx h : Nat) : Option Recv := (s.ctx cx).taken.find? (fun r => decide (r.handle = h))

/-- Bytes landed for a receive; an unreachable peer behind a record in space 5 gives a free error class (log 22). -/
def State.land (s : State) (cx : Nat) (r : Recv) (b : Nat) (bs : List Byte) : Option Nat × State :=
  let dead := decide (rSpace r.rcd = 5) && (match s.peerSt ((rBase r.rcd).toNat / 2 ^ 48) with
    | .fail _ => true
    | _ => false)
  if dead && !bs.isEmpty then
    let d := s.draw
    (some (3 + (Config.freeW32 d.1).toNat % 3), d.2)
  else s.payLand (State.msgAg r.gk cx r.priv r.home) r.rcd b bs

/-- A PULL refused, or without a final reply (R313): the receive ends without a closing PULL. -/
def State.recvRefused (s : State) (cx h : Nat) (code : Option Nat) : State :=
  s.modTaken cx h (fun r =>
    if r.cls.isSome then { r with pulls := [] }
    else { r with pulls := [], cls := some (if code = some 1 then 7 else 1), code := if code = some 1 then 0 else code.getD 6 })

/-- A PULL of a receive sent, or failed at once (R276, R313): its offset and length, 0 for the closing PULL, which nothing
here waits for. -/
def State.pullGo (s : State) (cx h off n : Nat) (m : MsgHdr) : State :=
  match s.slotSt m.src.toNat with
  | .fail c => if n = 0 then s else s.recvRefused cx h (some c)
  | p =>
    let s1 := if n = 0 then s else s.modTaken cx h (fun r => { r with pulls := r.pulls ++ [s.link.fab.next] })
    s1.post .pull cx cx h m.src.toNat (.pull m.args off n) (p == .held)

/-- PULLs for consecutive pieces, up to 16 outstanding (R313). -/
def State.pump (s : State) (cx h : Nat) : Nat → State
  | 0 => s
  | k + 1 =>
    match s.takenOf cx h with
    | none => s
    | some r =>
      match r.msg with
      | none => s
      | some m =>
        if r.cls.isSome ∨ 16 ≤ r.pulls.length ∨ r.want ≤ r.next then s
        else State.pump ((s.modTaken cx h (fun q => { q with next := r.next + pieceCap })).pullGo cx h r.next
            (min pieceCap (r.want - r.next)) m) cx h k

/-- What follows a landed piece (R313): the next PULLs, or the end, with a closing PULL where not all was pulled. -/
def State.recvNext (s : State) (cx h : Nat) : State :=
  match s.takenOf cx h with
  | none => s
  | some r =>
    match r.msg with
    | none => s
    | some m =>
      if r.cls.isNone then
        if r.want ≤ r.got then
          let s1 := s.modTaken cx h (fun q => { q with cls := some r.fullCls })
          if r.want = m.len ∧ m.len ≠ 0 then s1 else s1.pullGo cx h 0 0 m
        else s.pump cx h 16
      else if r.pulls.isEmpty then s.pullGo cx h 0 0 m
      else s

/-- A receive takes a message (R311, R313, R315): an eager payload lands, a rendezvous one is pulled. -/
def State.take (s : State) (cx : Nat) (r : Recv) (u : Unexp) : State :=
  let q := { r with msg := some u.hdr, eager := !u.rdv }
  if u.rdv then (s.modCtx cx (fun x => { x with taken := x.taken ++ [q] })).recvNext cx r.handle
  else
    let l := s.land cx q 0 (u.bytes.take q.want)
    l.2.modCtx cx (fun x => { x with taken := x.taken ++ [{ q with got := q.want, cls := some (l.1.getD q.fullCls) }] })

/-- The reserve that a queued message holds (R307, R313). -/
def Unexp.held (u : Unexp) : Nat := if u.rdv then 0 else u.bytes.length

/-- The reserve used or freed. -/
def State.modEager (s : State) (f : Nat → Nat) : State := { s with link := { s.link with eager := f s.link.eager } }

/-- The sequence that a message belongs to (R312). -/
def msgKey (m : MsgHdr) : Nat := (m.src.toNat * 65536 + m.sctx.toNat) * 65536 + m.comm.toNat

/-- Is there room in the unexpected queue (R314)? -/
def State.unexpRoom (s : State) (cx : Nat) (u : Unexp) : Bool :=
  decide ((s.ctx cx).unexp.length < unexpCap) && decide (s.link.eager + u.held ≤ eagerCap)

/-- The match operation of an arriving header (R311); a message that was held already has its place. -/
def State.arrive (s : State) (cx : Nat) (u : Unexp) : State :=
  match (s.ctx cx).posted.find? (fun r => r.takes u.hdr) with
  | some r =>
    (s.modCtx cx (fun x => { x with posted := x.posted.filter (fun (p : Recv) => decide (p.handle ≠ r.handle)) })).take cx r u
  | none =>
    (s.modCtx cx (fun x => { x with unexp := x.unexp ++ [{ u with ahead := false }] })).modEager (fun n => n + u.held)

/-- Held messages whose turn has come, in number order (R312): each is acknowledged once its match operation is done (20
R450). -/
def State.releaseHeld (s : State) (cx key : Nat) : Nat → State
  | 0 => s
  | k + 1 =>
    match (s.ctx cx).unexp.find? (fun u => u.ahead && decide (msgKey u.hdr = key) &&
        decide (u.hdr.num = tget 0 (s.ctx cx).recvNo key)) with
    | none => s
    | some u =>
      let s1 := (s.modCtx cx (fun x =>
        { x with unexp := x.unexp.erase u, recvNo := tset 0 x.recvNo key (u.hdr.num + 1) })).modEager (fun n => n - u.held)
      State.releaseHeld ((s1.arrive cx u).answer u.hdr.head 0 .ack) cx key k

/-- A message header served (R311, R312, R314). One that is held for an earlier number has not been matched: no
acknowledgement leaves yet (20 R450), and a second copy of it changes nothing. -/
def State.message (s : State) (m : MsgHdr) (bytes : List Byte) (rdv : Bool) : State :=
  let g := s.gate m.head
  match g.1 with
  | none => g.2
  | some cx =>
    let x := g.2
    let c := x.ctx cx
    let u : Unexp := ⟨m, bytes, rdv, false⟩
    let next := tget 0 c.recvNo (msgKey m)
    let ack := fun (st : State) => st.answer m.head 0 .ack
    let busy := (x.modCtx cx (fun y =>
      { y with busyMsgs := y.busyMsgs.erase ((msgKey m), m.num) ++ [((msgKey m), m.num)] })).nack m.head 6
    let free := fun (st : State) => st.modCtx cx (fun y => { y with busyMsgs := y.busyMsgs.erase ((msgKey m), m.num) })
    if m.num < next then ack x
    else if c.unexp.any (fun v => v.ahead && decide (msgKey v.hdr = msgKey m) && decide (v.hdr.num = m.num)) then x
    else if m.num = next then
      if c.posted.any (fun r => r.takes m) || x.unexpRoom cx u then
        let y := ((free x).modCtx cx (fun z => { z with recvNo := tset 0 z.recvNo (msgKey m) (m.num + 1) })).arrive cx u
        ack (y.releaseHeld cx (msgKey m) c.unexp.length)
      else busy
    else if c.busyMsgs.any (fun b => decide (b.1 = (msgKey m)) && decide (b.2 < m.num)) || !x.unexpRoom cx u then busy
    else
      ((free x).modCtx cx (fun z => { z with unexp := z.unexp ++ [{ u with ahead := true }] })).modEager
        (fun n => n + u.held)

/-- A message header that comes in; one of this module's own bears its own rank (R276, R309). -/
def State.msgIn (s : State) (m : MsgHdr) (it : Item) : Option State :=
  if m.src.toNat = s.link.mem.slot ∧ s.link.mem.rank ≠ some m.srank.toNat then none else s.carried m.head [it]

/-- MSG_PACKET (R311). -/
def execMsgPacket (m : MsgHdr) (bytes : List Byte) (s : State) : Host.Outcome State Fault Refusal :=
  .next (match s.msgIn m (.msg m.args bytes) with
    | some x => x.message m bytes false
    | none => s)

/-- RTS_PACKET (R313). -/
def execRtsPacket (m : MsgHdr) (s : State) : Host.Outcome State Fault Refusal :=
  .next (match s.msgIn m (.rts m.args) with
    | some x => x.message m [] true
    | none => s)

/-- A PULL served (R313, R323): PDATA with the bytes asked for, the acknowledgement of a closing PULL, or a NACK. A SEND whose
PDATA has no way to the receiver ends as any transfer without one does (R276, R277). -/
def State.pullServe (s : State) (h : Hdr) (id off len : Nat) : State :=
  let g := s.gate h
  match g.1 with
  | none => g.2
  | some cx =>
    match (g.2.sendOf cx id).filter (fun c => c.rdv) with
    | none => g.2.nack h 1
    | some c =>
      if len = 0 then (g.2.sendEnd c (0, 0)).answer h 0 .ack
      else if pieceCap < len ∨ c.len < off + len then g.2.nack h 7
      else
        let r := g.2.payRead (State.msgAg c.gk cx c.priv c.home) c.rcd off len
        match r.1, r.2.slotSt h.src.toNat with
        | .error e, _ =>
          let code := landCls e
          (r.2.sendEnd c (if code = 5 then 5 else 4, 0)).answer h 0 (.nack code)
        | .ok _, .fail code => r.2.sendEnd c (if code = 1 then (2, 0) else (3, 0))
        | .ok bs, _ =>
          let it := Item.pdata c.args off bs
          let x := r.2.link.fab.next
          let seq := (r.2.link.fab.takeSeq h.src.toNat).1
          let pk := { r.2.request (r.2.ctx cx).fjob h.src.toNat seq [x] [it] with ece := h.ce }
          (r.2.modFab (fun f => { f with served := f.served ++ [(h.src.toNat, h.seq.toNat, pk)] })).post
            .pdata cx cx id h.src.toNat it false

/-- Is this what a PULL that asks for `len` bytes at `off` of a message of a SEND carries? -/
def pullItem (c : Option SendCmd) (off len : Nat) (l : List Item) : Bool :=
  match l with
  | [.pull a o n] => decide (o = off) && decide (n = len) && c.all (fun x => decide (x.args = a))
  | _ => false

/-- PULL_PACKET. -/
def execPullPacket (h : Hdr) (id off len : Nat) (s : State) : Host.Outcome State Fault Refusal :=
  .next (match s.carriedBy h (pullItem ((s.ctxOfJob h.job).bind (fun cx => s.sendOf cx id)) off len) with
    | some x => x.pullServe h id off len
    | none => s)

/-- The PULL that asked for the bytes at an offset of a message. -/
def Recv.pullAt (r : Recv) (f : Fabric) (off : Nat) : Option Xfer :=
  f.xfers.find? (fun (x : Xfer) => r.pulls.contains x.id && (match x.item with
    | .pull _ o _ => decide (o = off)
    | _ => false))

/-- A PDATA served (R313, R315): pulled bytes land; bytes that no receive waits for are acknowledged and dropped. -/
def State.pdataServe (s : State) (h : Hdr) (ctx handle off : Nat) (bytes : List Byte) : State :=
  let g := s.gate h
  match g.1 with
  | none => g.2
  | some cx =>
    let done := fun (st : State) => st.answer h 0 .ack
    match g.2.takenOf ctx handle with
    | none => done g.2
    | some r =>
      match r.pullAt g.2.link.fab off with
      | none => done g.2
      | some x =>
        let s1 := g.2.dropX x.id
        let left := r.pulls.erase x.id
        if cx ≠ ctx ∨ r.cls.isSome then done ((s1.modTaken ctx handle (fun q => { q with pulls := left })).recvNext ctx handle)
        else
          let bs := bytes.take (min pieceCap (r.want - off))
          let l := s1.land ctx r off bs
          done ((l.2.modTaken ctx handle (fun q =>
            { q with pulls := left, got := q.got + bs.length, cls := l.1 })).recvNext ctx handle)

/-- Is this what the PDATA of a receive's message carries at an offset? -/
def pdataItem (r : Option Recv) (off : Nat) (bytes : List Byte) (l : List Item) : Bool :=
  match l with
  | [.pdata a o bs] => decide (o = off) && decide (bs = bytes) && r.all (fun x => decide (x.msg.map MsgHdr.args = some a))
  | _ => false

/-- PDATA_PACKET. -/
def execPdataPacket (h : Hdr) (ctx handle off : Nat) (bytes : List Byte) (s : State) :
    Host.Outcome State Fault Refusal :=
  .next (match s.carriedBy h (pdataItem (s.takenOf ctx handle) off bytes) with
    | some x => x.pdataServe h ctx handle off bytes
    | none => s)

/-- The reply to a transfer of the receive engine: none an acknowledgement, or how it failed (a code, or no reply). -/
def State.msgReply (s : State) (x : Xfer) (fail : Option (Option Nat)) : State :=
  let s1 := s.dropX x.id
  let cx := if x.kind = .msg ∨ x.kind = .rts then s.ctxNoG x.gk else x.gk
  match x.kind, fail with
  | .pull, none => s1
  | .pull, some c =>
    match (s1.takenOf cx x.ref).filter (fun r => r.pulls.contains x.id) with
    | none => s1
    | some _ => s1.recvRefused cx x.ref c
  | k, f =>
    match s1.sendOf cx x.ref with
    | none => s1
    | some c =>
      match f with
      | some e => s1.sendEnd c (sendFail e)
      | none =>
        if k = .msg then s1.sendEnd c (0, 0)
        else if k = .pdata then
          if c.len ≤ c.acked + x.item.len then s1.sendEnd c (0, 0)
          else s1.modCtx cx (fun y =>
            { y with sends := y.sends.map (fun (q : SendCmd) => if q.id = c.id then { q with acked := q.acked + x.item.len } else q) })
        else s1

/-! Completion (R316 to R320). -/

/-- The completion record's words (R317). -/
def Recv.words (r : Recv) : List W32 :=
  let c := r.cls.getD 0
  let m := if c = 6 then none else r.msg
  let rank := match m with | some x => x.srank.toNat | none => 0
  [BitVec.ofNat 32 (rank * 65536 + (if c = 1 then r.code else 0) * 16 + c * 2 + 1),
   match m with | some x => x.tag | none => 0,
   BitVec.ofNat 32 (match m with | some x => x.len | none => 0),
   BitVec.ofNat 32 (r.gen.toNat * 65536 + r.handle)]

/-- The Q2 entry (R317). -/
def Recv.entry (r : Recv) : W32 :=
  let c := r.cls.getD 0
  let rank := if c = 6 then 0 else match r.msg with | some x => x.srank.toNat | none => 0
  BitVec.ofNat 32 (r.handle * 2 ^ 18 + c * 2 ^ 15 + rank % 2 ^ 15)

/-- Words of a completion record written in order until one fails (R316). -/
def State.complWords (s : State) (ag : EngAg) (rc : BitVec 256) : List (Nat × W32) → State
  | [] => s
  | w :: ws =>
    if rRo rc then s
    else
      let r := s.eStore ag (paySide rc 1) [(addrAdd (rSpace rc) (rBase rc) w.1, 4)] (leBytes 4 w.2.toNat)
      match r.1 with
      | .error _ => r.2
      | .ok _ => State.complWords r.2 ag rc ws

/-- Step 2 of a completion (R316): words 1 to 3, then word 0. -/
def State.recvRecord (s : State) (cx : Nat) (r : Recv) : State :=
  match r.cb with
  | none => s
  | some b =>
    let o := b.2.toNat
    let w := r.words
    s.complWords (State.msgAg r.gk cx r.priv r.home) b.1
      [(o + 4, w.getD 1 0), (o + 8, w.getD 2 0), (o + 12, w.getD 3 0), (o, w.getD 0 0)]

/-- Does the completion push an entry: not with NOQ, and not for a team that has gone (R330)? -/
def State.recvPushes (s : State) (r : Recv) : Bool :=
  !r.noq && ((s.teamG r.gk).st == .resident || (s.teamG r.gk).st == .boundary || (s.teamG r.gk).st == .saved)

/-- Steps 3 and 4 of a completion (R316, R318, R320): held while Q2 is full. -/
def State.recvDeliver (s : State) (cx : Nat) (r : Recv) : State :=
  let tk := teamOf r.gk
  let push := s.recvPushes r
  if push && decide (256 ≤ (s.team tk).q2.length) then s.modTaken cx r.handle (fun q => { q with recorded := true })
  else
    let s1 := s.modCtx cx (fun x => { x with taken := x.taken.filter (fun (q : Recv) => decide (q.handle ≠ r.handle)) })
    let s2 := if push then (s1.modTeam tk (fun t => { t with q2 := t.q2 ++ [r.entry] })).pokeTeam tk else s1
    if (s2.grp r.gk).live then s2.decPath r.gk 6 else s2

/-- May a receive be delivered now: it has ended, and no eager receive that matched earlier is still to be delivered
(R318)? -/
def Ctx.recvTurn (c : Ctx) (r : Recv) : Bool :=
  r.ended && (!r.eager || (c.taken.find? (fun q => q.eager)).map (fun q => q.handle) == some r.handle)

/-- RECEIVE_COMPLETION (R316). -/
def execReceiveCompletion (ctx handle : Nat) (s : State) : Host.Outcome State Fault Refusal :=
  .next (match s.takenOf ctx handle with
    | none => s
    | some r =>
      if (s.ctx ctx).recvTurn r && !r.recorded then (s.recvRecord ctx r).recvDeliver ctx r else s)

/-- Q2_HELD_RELEASE (R318): the oldest held completion of a team, once its Q2 has a place. -/
def execQ2HeldRelease (team : Nat) (s : State) : Host.Outcome State Fault Refusal :=
  let cx := (s.team team).ctx
  .next (match (s.ctx cx).taken.find? (fun r => r.recorded && decide (teamOf r.gk = team)) with
    | none => s
    | some r => if (s.team team).q2.length < 256 then s.recvDeliver cx r else s)

/-! RPOST, RPROBE, RCANCEL (R324 to R328). -/

/-- The DETAIL of the lowest field at fault, or the format code, of an RPOST (R325). -/
def rpostBad (w : List W32) (db cb : BitVec 256) : Option Nat :=
  let n := fun i => (w.getD i 0).toNat
  let rec1 := (w.getD 0 0).getLsbD 20
  if n 0 / 2 ^ 22 ≠ 0 then some 22
  else if rSpace db < 2 ∨ 6 < rSpace db then some 16
  else if (w.getD 1 0).getLsbD 16 = true ∧ n 1 % 65536 ≠ 0 then some 32
  else if n 1 / 2 ^ 17 ≠ 0 then some 49
  else if payOk db (n 4) = false then some 128
  else if (rec1 = false ∧ n 5 % 16 ≠ 0) ∨ (rec1 = true ∧ rSpace cb ≠ 2 ∧ rSpace cb ≠ 3) then some 160
  else if n 5 / 16 ≠ 0 then some 164
  else if (rec1 = false ∧ n 6 ≠ 0) ∨ (rec1 = true ∧ (n 6 % 16 ≠ 0 ∨ rExt0 cb < n 6 + 16)) then some 192
  else if (payEsz db).isNone ∨ (rec1 = true ∧ rFmt cb ≠ 0) then some 0x0100
  else none

/-- The live handles of a context (R308). -/
def Ctx.handles (c : Ctx) : List Nat := c.posted.map (fun (r : Recv) => r.handle) ++ c.taken.map (fun (r : Recv) => r.handle)

/-- The first handle from `h` up that is not live (R308). -/
def nextHandle (live : List Nat) (h : Nat) : Nat → Nat
  | 0 => h
  | k + 1 => if live.contains h then nextHandle live ((h + 1) % 16384) k else h

/-- A receive as posted (R326). -/
def State.newRecv (s : State) (w : List W32) (db cb : BitVec 256) (h : Nat) : Recv :=
  { handle := h, gk := s.cur, home := s.cn, comm := (w.getD 0 0).truncate 16
    src := if (w.getD 1 0).getLsbD 16 then none else some ((w.getD 1 0).truncate 16)
    tag := w.getD 2 0, mask := w.getD 3 0, n := (w.getD 4 0).toNat, rcd := db
    cb := if (w.getD 0 0).getLsbD 20 then some (cb, w.getD 6 0) else none
    noq := (w.getD 0 0).getLsbD 21, priv := s.priv, gen := s.link.mem.gen, msg := none, eager := false, got := 0,
    pulls := [], next := 0, cls := none, code := 0, recorded := false }

/-- The unexpected message that a receive would take (R311). -/
def Ctx.unexpFor (c : Ctx) (r : Recv) : Option Unexp := c.unexp.find? (fun u => !u.ahead && r.takes u.hdr)

/-- RPOST. -/
def execRpost (d g : BitVec 6) (s : State) : Host.Outcome State Fault Refusal :=
  run 4 s (blockSels g 7) [s.dg d] (fun x =>
    let w := x.cmds g 7
    let db := x.g.r.getB (fieldOf (w.getD 0 0).toNat 16 4)
    let cb := x.g.r.getB (fieldOf (w.getD 5 0).toNat 0 4)
    let gd := x.gn d
    let cx := x.ctxNoG x.cur
    let c := x.ctx cx
    let say := fun (st : State) (v : Nat) => st.sayLater gd (BitVec.ofNat 32 v) none
    let fail := fun (v : Nat) => x.sayLater gd (BitVec.ofNat 32 v) (some 6)
    if !x.pathRoom 6 then .block .counter x
    else match rpostBad w db cb with
      | some b => .ok (fail (b % 65536 * 65536 + 3))
      | none =>
        if postedCap ≤ c.posted.length ∨ 16384 ≤ c.handles.length then .ok (fail 7)
        else
          let h := nextHandle c.handles c.handle c.handles.length
          let r := x.newRecv w db cb h
          let live := h :: c.handles
          let x2 := (x.modCtx cx (fun y => { y with handle := nextHandle live ((h + 1) % 16384) live.length })).incPath x.cur 6 1
          match c.unexpFor r with
          | none => .ok (say (x2.modCtx cx (fun y => { y with posted := y.posted ++ [r] })) (h * 2 ^ 18 + 1))
          | some u =>
            let x3 := ((x2.modCtx cx (fun y => { y with unexp := y.unexp.erase u })).modEager (fun n => n - u.held)).take cx r u
            .ok (say x3 (h * 2 ^ 18 + 16 + 1)))

/-- RPROBE (R327). -/
def execRprobe (d g : BitVec 6) (s : State) : Host.Outcome State Fault Refusal :=
  run 4 s (blockSels g 4) [s.dg d, s.dg (d + 1), s.dg (d + 2)] (fun x =>
    let w := x.cmds g 4
    let n0 := (w.getD 0 0).toNat
    let n1 := (w.getD 1 0).toNat
    let put := fun (a b c : W32) => ((x.setU (x.gn d) a).setU (x.gn (d + 1)) b).setU (x.gn (d + 2)) c
    if n0 / 2 ^ 16 ≠ 0 ∨ n1 / 2 ^ 17 ≠ 0 ∨ (n1 / 2 ^ 16 = 1 ∧ n1 % 65536 ≠ 0) then .ok (put 2 0 0)
    else match (x.ctx (x.ctxNoG x.cur)).unexpFor (x.newRecv w 0 0 0) with
      | none => .ok (put 0 0 0)
      | some u =>
        .ok (put (BitVec.ofNat 32 (u.hdr.srank.toNat * 65536 + (if u.rdv then 16 else 0) + 1)) u.hdr.tag
          (BitVec.ofNat 32 u.hdr.len)))

/-- A receive ends unmatched with a class (R328 to R330). -/
def State.recvDrop (s : State) (cx : Nat) (r : Recv) (cls : Nat) : State :=
  s.modCtx cx (fun x =>
    { x with posted := x.posted.filter (fun (p : Recv) => decide (p.handle ≠ r.handle)), taken := x.taken ++ [{ r with cls := some cls }] })

/-- RCANCEL (R328). -/
def execRcancel (d g : BitVec 6) (s : State) : Host.Outcome State Fault Refusal :=
  run 4 s (blockSels g 1) [s.dg d] (fun x =>
    let v := (x.cmd g 0).toNat
    let cx := x.ctxNoG x.cur
    let gd := x.gn d
    if v / 2 ^ 14 ≠ 0 then .ok (x.setU gd 3)
    else match (x.ctx cx).posted.find? (fun r => decide (r.handle = v)) with
      | some r => .ok ((x.setU gd 1).recvDrop cx r 6)
      | none =>
        if (x.ctx cx).taken.any (fun (r : Recv) => decide (r.handle = v)) then .ok (x.setU gd 0) else .ok (x.setU gd 2))

/-! Generation change and team exit (R329, R330). -/

/-- A context's receives and SENDs at a GENFENCE (R312, R329): unmatched receives and pulls in progress end with class 7,
queued headers go, rendezvous SENDs end with class 2, and the numbers restart. -/
def State.msgFence (s : State) (cx : Nat) : State :=
  let c := s.ctx cx
  let tell := fun (st : State) (m : MsgHdr) => st.nack m.head 1
  let s1 := (c.sends.filter (fun (x : SendCmd) => x.rdv)).foldl (fun st x => st.sendEnd x (2, 0)) s
  let s2 := (c.unexp.filter (fun (u : Unexp) => u.rdv || u.ahead)).foldl (fun st u => tell st u.hdr) s1
  let open1 := c.taken.filter (fun (r : Recv) => !r.ended && !r.eager)
  let s3 := open1.foldl (fun st r => match r.msg with | some m => tell st m | none => st) s2
  let freed := (c.unexp.map Unexp.held).sum
  (s3.modEager (fun n => n - freed)).modCtx cx (fun x =>
    { x with
      taken := x.taken.map (fun (r : Recv) => if r.ended || r.eager then r else { r with pulls := [], cls := some 7, code := 0 }) ++
        x.posted.map (fun (r : Recv) => { r with cls := some 7 })
      posted := []
      unexp := []
      sendNo := []
      recvNo := []
      busyMsgs := [] })

/-- Every context's receives and SENDs at a GENFENCE. -/
def State.msgFences (s : State) : State := (s.ctxs.map (fun p => p.1)).foldl State.msgFence s

/-- The unmatched receives of a team whose last group has exited end with class 6 (R330). -/
def State.msgTeamGone (s : State) (tk : Nat) : State :=
  let cx := (s.team tk).ctx
  ((s.ctx cx).posted.filter (fun (r : Recv) => decide (teamOf r.gk = tk))).foldl (fun st r => st.recvDrop cx r 6) s

end Sys2Proof.Machine
end

