-- ==== Sys2Proof/Machine/Collective.lean ====
section
/-! DEFINITION. Collectives: CFIRE, the activation of a descriptor, the packets of the ring and a collective's end
(spec/11 R290 to R306; 17 R427, R437). -/

namespace Sys2Proof.Machine

/-! The descriptor (R291). -/

/-- Word `i` of a descriptor. -/
def dWord (w : List W32) (i : Nat) : Nat := (w.getD i 0).toNat
/-- The words `i` to `i + n − 1` as one number. -/
def dNum (w : List W32) (i n : Nat) : Nat := leNat (wordBytes ((w.drop i).take n))
/-- KIND. -/
def dKind (w : List W32) : Nat := fieldOf (dWord w 0) 0 4
/-- ROP. -/
def dRop (w : List W32) : Nat := fieldOf (dWord w 0) 4 4
/-- EFMT. -/
def dEfmt (w : List W32) : Nat := fieldOf (dWord w 0) 8 8
/-- PBF. -/
def dPbf (w : List W32) : Bool := decide (fieldOf (dWord w 0) 16 1 = 1)
/-- QFMT. -/
def dQfmt (w : List W32) : Nat := fieldOf (dWord w 0) 17 3
/-- QRM. -/
def dQrm (w : List W32) : RMode := if fieldOf (dWord w 0) 20 1 = 1 then .sr else .rne
/-- COMM. -/
def dComm (w : List W32) : Nat := fieldOf (dWord w 1) 0 16
/-- ROOT. -/
def dRoot (w : List W32) : Nat := fieldOf (dWord w 1) 16 16
/-- NRANK. -/
def dRanks (w : List W32) : Nat := fieldOf (dWord w 2) 0 16
/-- STEPS. -/
def dSteps (w : List W32) : Nat := fieldOf (dWord w 2) 16 16
/-- COUNT. -/
def dCount (w : List W32) : Nat := dWord w 3
/-- CHUNK. -/
def dChunk (w : List W32) : Nat := dWord w 4
/-- SREC and DREC. -/
def dRec (w : List W32) (dst : Bool) : BitVec 256 := BitVec.ofNat 256 (dNum w (if dst then 16 else 8) 8)
/-- STATUS. -/
def dStatus (w : List W32) : W64 := BitVec.ofNat 64 (dNum w 26 2)
/-- SEG. -/
def dSeg (w : List W32) : Nat := (dCount w + dRanks w - 1) / dRanks w
/-- CPS. -/
def dCps (w : List W32) : Nat := (dSeg w + dChunk w - 1) / dChunk w
/-- Is the kind a reduction? -/
def dReduces (w : List W32) : Bool := decide (dKind w < 2)
/-- Length of segment `s`. -/
def dSegLen (w : List W32) (s : Nat) : Nat := min (dCount w) ((s + 1) * dSeg w) - min (dCount w) (s * dSeg w)
/-- First element and number of elements of chunk `c`. -/
def dRange (w : List W32) (c : Nat) : Nat × Nat :=
  let s := c / dCps w
  let lo := s * dSeg w + c % dCps w * dChunk w
  (lo, min (min (dCount w) ((s + 1) * dSeg w)) (lo + dChunk w) - lo)
/-- Bytes of an element. -/
def dEsz (w : List W32) : Nat := (fmtBits (dEfmt w)).getD 8 / 8

/-- The elements that SREC and DREC must hold at index `p` (R292). -/
def dNeeds (w : List W32) (p : Nat) : Nat × Nat :=
  match dKind w with
  | 0 => (dCount w, dCount w)
  | 1 => (dCount w, dSegLen w p)
  | 2 => (dSegLen w p, dCount w)
  | 3 => (if p = dRoot w then dCount w else 0, dCount w)
  | 4 => (dCount w, dCount w)
  | 5 => (dCount w, dCount w)
  | _ => (0, 0)

/-- Elements 0 to n − 1 of a record pass their bounds check (R293). -/
def dHolds (rc : BitVec 256) (n : Nat) : Bool :=
  decide (n = 0) || (
    check (if rExt0 rc = 0 then 0 else min n (rExt0 rc) - 1) (rExt0 rc) (rBchk rc) != .bad &&
    check ((n - 1) / rExt0 rc) (rExt1 rc) (rBchk rc) != .bad)

/-- The lowest bit position of a field at fault (R293); `p` is this module's logical index, if known. -/
def dFieldBad (w : List W32) (p : Option Nat) : Option Nat :=
  let k := dKind w
  let n := dRanks w
  let need := (p.map (dNeeds w)).getD (0, 0)
  let fields : List (Nat × Bool) :=
    [(0, decide (6 < k)), (4, decide (2 < dRop w)), (17, decide (3 < dQfmt w)), (21, decide (dWord w 0 / 2 ^ 21 ≠ 0)),
     (48, decide (k = 3 ∧ n ≤ dRoot w)), (64, decide (n < 2 ∨ 256 < n)),
     (80, decide (if k = 5 then dSteps w = 0 ∨ n ≤ dSteps w else dSteps w ≠ 0)), (96, decide (dCount w = 0)),
     (128, decide (dChunk w = 0 ∨ (dQfmt w ≠ 0 ∧ dChunk w % 32 ≠ 0))), (168, decide (dWord w 5 / 2 ^ 8 ≠ 0)),
     (192, decide (k ≠ 5 ∧ dWord w 6 ≠ 0)), (224, decide (dWord w 7 ≠ 0)),
     (320, decide (k ≠ 6) && !dHolds (dRec w false) need.1),
     (456, decide (rSpace (dRec w false) ≠ 3 ∧ rSpace (dRec w false) ≠ 7)),
     (576, decide (k ≠ 6) && !dHolds (dRec w true) need.2),
     (712, decide (rSpace (dRec w true) ≠ 3 ∧ rSpace (dRec w true) ≠ 7)),
     (832, decide (dWord w 26 % 16 ≠ 0)), (896, decide (dNum w 28 4 ≠ 0))]
  lowest fields

/-- The formats that a kind accepts (R293): block formats are none of them (DEDUCED, log 33). -/
def dFmtOk (w : List W32) : Bool :=
  let e := dEfmt w
  if dReduces w then dQfmt w == 0 && [0x08, 0x0A, 0x05].contains e
  else if dQfmt w ≠ 0 then dKind w == 2 && (e == 0x08 || e == 0x0A)
  else !isBlock e && [some 8, some 16, some 32].contains (fmtBits e)

/-! The sequencer's accesses. -/

/-- On whose behalf the sequencer reads and writes: the context, with its own rights. -/
def State.collAg (s : State) (cx : Nat) : EngAg := ⟨.link, cx, (s.ctx cx).sup, none, none, 0, none⟩

/-- A record in HBM by virtual address. -/
def hbmSide (side : Nat) : ESide := ⟨BitVec.ofNat 256 (3 * 2 ^ 200), 0, none, side⟩

/-- `n` items of `z` bytes read from a virtual address with the hardware's own rights. -/
def State.seqRead (s : State) (cx : Nat) (va : W64) (z : Nat) : Nat → Except EErr (List Nat) × State
  | 0 => (.ok [], s)
  | n + 1 =>
    let r := s.eSpans { s.collAg cx with priv := true } (hbmSide 0) false [(va, z)]
    match r.1 with
    | .error e => (.error e, r.2)
    | .ok bs =>
      let q := State.seqRead r.2 cx (va + BitVec.ofNat 64 z) z n
      match q.1 with
      | .error e => (.error e, q.2)
      | .ok l => (.ok (leNat bs :: l), q.2)

/-- The side of a collective's record, moved up by `off` bytes. -/
def Coll.side (c : Coll) (dst : Bool) (off : Nat) : ESide :=
  let rc := dRec c.w dst
  ⟨rc, rBase rc + BitVec.ofNat 64 off,
    if rSpace rc = 7 then c.bound.find? (fun p => decide (p.handle = rView rc) && p.shadow == rShadow rc) else none,
    if dst then 1 else 0⟩

/-- Row and element of a vector's element in a record (R291). -/
def vecIx (rc : BitVec 256) (e : Nat) : Except Unit (Option (Nat × Nat)) :=
  let w := rExt0 rc
  match check (if w = 0 then e else e % w) w (rBchk rc), check (e / w) (rExt1 rc) (rBchk rc) with
  | .bad, _ => .error ()
  | _, .bad => .error ()
  | .idx j, .idx i => .ok (some (i, j))
  | _, _ => .ok none

/-- The bytes of element (i, j) of a side in EFMT. -/
def Coll.span (c : Coll) (sd : ESide) (x : Nat × Nat) : W64 × Nat :=
  (elemAddr (rSpace sd.rc) sd.base (rStr1 sd.rc) (rStr0 sd.rc) x.1 x.2, dEsz c.w)

/-- Elements `e` to `e + n − 1` of the source. -/
def State.collRead (s : State) (c : Coll) (e : Nat) : Nat → Except EErr (List Nat) × State
  | 0 => (.ok [], s)
  | n + 1 =>
    let sd := c.side false 0
    match vecIx sd.rc e with
    | .error _ => (.error (3, 0), s)
    | .ok x =>
      let r := match x with
        | none => ((.ok [0] : Except EErr (List Byte)), s)
        | some ij => s.eSpans (s.collAg c.ctx) sd false [c.span sd ij]
      match r.1 with
      | .error f => (.error f, r.2)
      | .ok bs =>
        let q := State.collRead r.2 c (e + 1) n
        match q.1 with
        | .error f => (.error f, q.2)
        | .ok l => (.ok (leNat bs :: l), q.2)

/-- An active collective. -/
def State.collOf (s : State) (cx desc : Nat) : Option Coll :=
  s.link.colls.find? (fun c => decide (c.ctx = cx) && decide (c.desc = desc))
/-- An active collective changed. -/
def State.putColl (s : State) (c : Coll) : State :=
  { s with link := { s.link with colls := s.link.colls.map (fun (x : Coll) => if x.ctx = c.ctx ∧ x.desc = c.desc then c else x) } }
/-- A change of an active collective. -/
def State.modColl (s : State) (cx desc : Nat) (f : Coll → Coll) : State :=
  match s.collOf cx desc with
  | none => s
  | some c => s.putColl (f c)

/-- SAT, NAN and NANRANK of one element written here (R299, R301; 19 R448): whether it saturated at its owner, and its rank
entry. -/
def Coll.note (c : Coll) (sat : Bool) (nan : Nat) : Coll :=
  { c with
    satf := c.satf || sat
    nan := c.nan || decide (nan ≠ 0)
    nanrank := if nan = 0 then c.nanrank else min c.nanrank (nan - 1) }

/-- Elements from `e` up, each with its mark of saturation and its rank entry, written to the destination moved up by `off`
bytes: an element that its record drops leaves no mark (19 R448). -/
def State.collWrite (s : State) (c : Coll) (off e : Nat) : List (Nat × Bool × Nat) → Option EErr × State
  | [] => (none, s)
  | v :: vs =>
    let sd := c.side true off
    match vecIx sd.rc e with
    | .error _ => (some (3, 1), s)
    | .ok none => State.collWrite s c off (e + 1) vs
    | .ok (some ij) =>
      if rRo sd.rc then (some (4, 3), s)
      else
        let r := s.eStore (s.collAg c.ctx) sd [c.span sd ij] (leBytes (dEsz c.w) v.1)
        match r.1 with
        | .error f => (some f, r.2)
        | .ok _ => State.collWrite (r.2.modColl c.ctx c.desc (fun x => x.note v.2.1 v.2.2)) c off (e + 1) vs

/-! Reductions (R297 to R299). -/

/-- The value of an element code in a reduction format. -/
def redVal (f : FFmt) (v : Nat) : FVal := unpack f v

/-- The format of an element: FP32 or BF16. -/
def efF (w : List W32) : FFmt := if dEfmt w = 0x0A then bf16 else fp32

/-- combine of two integers. -/
def redInt (rop : Nat) (a b : Nat) : Nat :=
  let x := BitVec.ofNat 32 a
  let y := BitVec.ofNat 32 b
  match rop with
  | 0 => (x + y).toNat
  | 1 => (if x.sle y then y else x).toNat
  | _ => (if x.sle y then x else y).toNat

/-- combine of a partial (format `pf`) and an element (format `xf`) into the format `of` (R297, R130): the code and
whether finite operands gave an infinity. -/
def redCombine (rop : Nat) (of pf xf : FFmt) (p x : Nat) : Nat × Bool :=
  let a := unpack pf p
  let b := unpack xf x
  let v :=
    if rop = 0 then (exAdd .rne a b).1
    else
      let m := if rop = 1 then fMax fp32 (f32Of a) (f32Of b) else fMin fp32 (f32Of a) (f32Of b)
      unpack fp32 m
  let r := (narrow of .rne 0 v).bits
  (r, a.isFin && b.isFin && !(unpack of r).isFin)

/-- A partial's new rank entry (R299): the lowest rank that contributed a NaN, or produced one from operands that were
none, + 1. -/
def redNan (old rank : Nat) (xNan produced : Bool) : Nat :=
  if xNan || (produced && old == 0) then (if old = 0 then rank + 1 else min old (rank + 1)) else old

/-- One hop of a chunk (R297 to R299): data, rank entries, and whether the partials are FP32 now. `first` tells that the
data are the owner's elements. -/
def redHop (w : List W32) (rank : Nat) (first esc : Bool) (ps xs nans : List Nat) : List Nat × List Nat × Bool :=
  if dEfmt w = 5 then (ps.zipWith (redInt (dRop w)) xs, nans, false)
  else
    let xf := efF w
    let pf := if first then xf else if dPbf w && !esc then bf16 else fp32
    let go := fun (of : FFmt) => ps.zipWith (redCombine (dRop w) of pf xf) xs
    let small := dPbf w && !esc
    let low := go bf16
    let esc1 := esc || (small && low.any (fun r => r.2))
    let of := if dPbf w && !esc1 then bf16 else fp32
    let rs := if dPbf w && !esc1 then low else go fp32
    let ns := ((ps.zip xs).zip (rs.zip nans)).map (fun q =>
      redNan q.2.2 rank (isNaN xf q.1.2) (isNaN of q.2.1.1 && !isNaN pf q.1.1))
    (rs.map (fun r => r.1), ns, esc1)

/-- The final element (R297, R299). -/
def redFinal (w : List W32) (esc : Bool) (v nan : Nat) : Nat :=
  if dEfmt w = 5 then v
  else if nan ≠ 0 then (if dEfmt w = 0x0A then 0x7FC0 + (nan - 1) % 64 else 0x7FC00000 + (nan - 1))
  else (narrow (efF w) .rne 0 (unpack (if dPbf w && !esc then bf16 else fp32) v)).bits

/-! Quantising (R301). -/

/-- The block format of QFMT. -/
def dQblock (w : List W32) : Nat := match dQfmt w with | 1 => 0x10 | 2 => 0x14 | _ => 0x18

/-- A block of up to 32 elements quantised: codes, scale, and which elements saturated; `i` is the first element's index
in the shard. -/
def quantBlock (w : List W32) (seed tcb : W32) (i : Nat) (xs : List Nat) : List Nat × Nat × List Bool :=
  let q := dQblock w
  let vs := xs.map (unpack (efF w))
  let sc := blockScale q vs
  let rs := (vs.zipIdx).map (fun v =>
    let e := i + v.2
    narrowIn q sc (dQrm w) (rnd16 false (philox (BitVec.ofNat 32 e) (BitVec.ofNat 32 (e / 2 ^ 32)) 4 0 seed tcb)) v.1)
  (rs.map (fun r => r.bits), sc, rs.map (fun r => r.fl &&& fOF ≠ 0))

/-- Elements quantised in blocks of 32 from the segment's first element: codes, scales, which saturated. -/
def quantise (w : List W32) (seed tcb : W32) (i : Nat) (xs : List Nat) : Nat → List Nat × List Nat × List Bool
  | 0 => ([], [], [])
  | n + 1 =>
    if xs.isEmpty then ([], [], [])
    else
      let b := quantBlock w seed tcb i (xs.take 32)
      let r := quantise w seed tcb (i + 32) (xs.drop 32) n
      (b.1 ++ r.1, b.2.1 :: r.2.1, b.2.2 ++ r.2.2)

/-- The elements that every index writes: element × scale, rounded RNE into EFMT. -/
def expand (w : List W32) (codes scales : List Nat) : List Nat :=
  (codes.zipIdx).map (fun v => (narrow (efF w) .rne 0 (widenIn (dQblock w) (scales.getD (v.2 / 32) 0) v.1)).bits)

/-! Packets of a chunk (R272, R297 to R301). -/

/-- A chunk as one message: what it holds beside the fields of R300 that the activation gives. -/
def chunkMsg (chunk hop : Nat) (data : List Nat) : CollMsg :=
  { comm := 0, act := 0, chunk := chunk, hop := hop, sender := 0, off := 0, len := 0, fp32 := false, sat := [],
    data := data.map (BitVec.ofNat 32), scales := [], nan := [], err := none }

/-- Is a message a partial of a reduction, past its owner's elements, up to the final one that a REDSCAT takes one hop
further (R297)? -/
def isPartial (w : List W32) (m : CollMsg) : Bool :=
  dReduces w && decide (1 < m.hop) && decide (m.hop < dRanks w + (if dKind w = 1 then 1 else 0))

/-- Payload bytes of `n` elements of a message. A partial takes its format's width, an owner's elements and results that of
EFMT, and quantised elements their codes and one scale a block, three KX scales in a word (DESIGN CHOICE, log 94). -/
def pieceBytes (w : List W32) (m : CollMsg) (n : Nat) : Nat :=
  if !m.scales.isEmpty then
    let nb := (n + 31) / 32
    (n * (blockElem (dQblock w)).width + 7) / 8 + if isKX (dQblock w) then 4 * ((nb + 2) / 3) else nb
  else if isPartial w m then n * (if dEfmt w = 5 ∨ m.fp32 = true then 4 else 2)
  else n * dEsz w

/-- The most elements that one packet takes: what fills 8,192 bytes, or 224 blocks where the chunk is quantised (log 94). -/
def pieceMost (w : List W32) (m : CollMsg) : Nat :=
  if !m.scales.isEmpty then 7168 else payloadCap / max 1 (pieceBytes w m 1)

/-- The packets of a chunk, of `k` elements each but for the last. -/
def pieceSplit (w : List W32) (m : CollMsg) (k : Nat) : Nat → List CollMsg
  | 0 => []
  | f + 1 =>
    let n := min k m.data.length
    { m with len := pieceBytes w m n, data := m.data.take k, scales := m.scales.take ((k + 31) / 32), sat := m.sat.take k, nan := m.nan.take k } ::
      (if m.data.length ≤ k then []
      else pieceSplit w { m with off := m.off + k, data := m.data.drop k, scales := m.scales.drop (k / 32), sat := m.sat.drop k, nan := m.nan.drop k } k f)

/-- A packet put among others by its place in the chunk. -/
def insertPiece (m : CollMsg) : List CollMsg → List CollMsg
  | [] => [m]
  | x :: l => if m.off ≤ x.off then m :: x :: l else x :: insertPiece m l

/-- The rank entries of a message, one per element (R299). -/
def nansOf (m : CollMsg) : List Nat := (List.range m.data.length).map (fun i => m.nan.getD i 0)

/-- Which elements of a message saturated, one mark per element (R301). -/
def satsOf (m : CollMsg) : List Bool := (List.range m.data.length).map (fun i => m.sat.getD i false)

/-- Elements of a message as they are written, each with its mark of saturation and its rank entry. -/
def markedOf (m : CollMsg) (vs : List Nat) : List (Nat × Bool × Nat) :=
  (vs.zipIdx).map (fun v => (v.1, m.sat.getD v.2 false, m.nan.getD v.2 0))

/-- Elements written with no mark. -/
def unmarked (vs : List Nat) : List (Nat × Bool × Nat) := vs.map (fun v => (v, false, 0))

/-- The chunk that its packets make up. -/
def joinPieces (m : CollMsg) (l : List CollMsg) : CollMsg :=
  let s := l.foldr insertPiece []
  { m with
    off := 0
    len := (s.map (fun x => x.len)).sum
    fp32 := s.any (fun x => x.fp32)
    sat := s.flatMap satsOf
    data := s.flatMap (fun x => x.data)
    scales := s.flatMap (fun x => x.scales)
    nan := s.flatMap nansOf }

/-! Activations in force. -/

/-- The key of a context's communicator. -/
def commKey (cx comm : Nat) : Nat := 65536 * cx + comm

/-- Packets of an activation not yet acknowledged. -/
def State.collOut (s : State) (c : Coll) : Bool :=
  s.link.fab.xfers.any (fun (x : Xfer) => x.kind == .coll && decide (x.gk = c.ctx) && decide (x.ref = 64 * c.act + c.desc))

/-- The end of an activation that had no status address: its node, or its launch (R290). -/
def State.collNoStatus (s : State) (cx : Nat) (node : Option W64) (lk : Option Nat) (detail : Nat) : State :=
  let s1 := match node with
    | some n => s.modCtx cx (fun x => { x with ended := x.ended ++ [(n, 3, detail, none)] })
    | none => s
  match lk with
  | some l => s1.modLaunch l (fun y => { y with bindErr := y.bindErr.or (some (detail, false)) })
  | none => s1

/-- `n` bytes of a status from an address up: as one span where it is aligned, byte by byte where it is not. -/
def statusSpans (a : W64) (n : Nat) : List (W64 × Nat) :=
  if a.toNat % 4 = 0 then [(a, n)] else (List.range n).map (fun i => (a + BitVec.ofNat 64 i, 1))

/-- The status of a collective written, word 0 last (R303); a write that cannot be made is dropped. -/
def State.collStatus (s : State) (c : Coll) (cls detail : Nat) : State :=
  let bit := fun (b : Bool) (n : Nat) => if b then n else 0
  let w0 := c.nanrank * 65536 + bit c.xf 128 + bit c.esc 64 + bit c.satf 32 + bit c.nan 16 + cls * 2 + 1
  let w1 := detail % 65536 * 65536 + c.gen.toNat
  let a := dStatus c.w
  let ag := s.collAg c.ctx
  let r := s.eStore ag (hbmSide 1) (statusSpans (a + 4) 12) (leBytes 4 w1 ++ leBytes 4 c.step ++ leBytes 4 0)
  (r.2.eStore ag (hbmSide 1) (statusSpans a 4) (leBytes 4 w0)).2

/-- A collective leaves its place: pins, status, and its node or launch (R303 to R306). -/
def State.collOver (s : State) (c : Coll) (cls detail : Nat) : State :=
  let s1 := { s with link := { s.link with
    colls := s.link.colls.filter (fun (x : Coll) => !(decide (x.ctx = c.ctx) && decide (x.desc = c.desc)))
    deadColls := if cls = 0 then s.link.deadColls else s.link.deadColls ++ [(commKey c.ctx (dComm c.w), c.act, cls)] } }
  let s2 := (s1.unpin c.ctx c.bound).collStatus c cls detail
  let s3 := match c.node with
    | some n => s2.modCtx c.ctx (fun x => { x with ended := x.ended ++ [(n, if cls = 0 then 0 else 3, cls, none)] })
    | none => s2
  match c.lk, cls with
  | some l, 4 => s3.modLaunch l (fun y => { y with bindErr := y.bindErr.or (some (5, true)) })
  | _, _ => s3

/-- A COLL packet of an activation to logical index `i`, with the fields of R300 filled in. -/
def State.collPost (s : State) (c : Coll) (dst : Nat) (m : CollMsg) (held : Bool) : State :=
  s.post .coll c.ctx c.ctx (64 * c.act + c.desc) dst
    (.coll { m with comm := BitVec.ofNat 16 (dComm c.w), act := c.act, sender := c.p }) held

/-- The slot of a rank in the table in force. -/
def State.rankSlot (s : State) (rank : Nat) : Nat := ((s.link.mem.cur.bind (fun t => t.slots[rank]?))).getD 0

/-- The other indices told, over the hold of module traffic where there is one (17 R433), that an activation has ended here with an error, so that those that only wait for this one end as
well (R304, R306; DEDUCED, log 94). -/
def State.collTell (s : State) (c : Coll) (cls detail : Nat) : State :=
  ((List.range c.ranks.length).filter (fun i => decide (i ≠ c.p))).foldl (fun st i =>
    match st.peerSt (c.ranks.getD i 0) with
    | .go sl => st.collPost c sl { chunkMsg 0 0 [] with err := some (cls, detail) } false
    | .held => st.collPost c (st.rankSlot (c.ranks.getD i 0)) { chunkMsg 0 0 [] with err := some (cls, detail) } true
    | .fail _ => st) s

/-- A collective ends on this module with a class and DETAIL (R303 to R306). -/
def State.collEnd (s : State) (c : Coll) (cls detail : Nat) : State :=
  let s1 := s.collOver c cls detail
  if cls = 1 ∨ (3 ≤ cls ∧ cls ≤ 5) then s1.collTell c cls detail else s1

/-- The end by an access that failed: class 4 for uncorrectable data, else 5, with this module's index (R303, R306). -/
def State.collErr (s : State) (c : Coll) (e : EErr) : State := s.collEnd c (if e.1 = 5 then 4 else 5) c.p

/-- Is every part of this module done: its destination written, its duties towards others done, and every packet
acknowledged? -/
def Coll.complete (c : Coll) : Bool :=
  let n := dRanks c.w
  let cps := dCps c.w
  let live := (List.range (n * cps)).filter (fun k => decide (0 < (dRange c.w k).2))
  match dKind c.w with
  | 1 => live.all (fun k => if k / cps = c.p then c.written.contains k && c.sent.contains k else c.sent.contains k)
  | 4 => live.all (fun k => c.sent.contains k && (decide (k / cps ≠ c.p) ||
      (List.range n).all (fun r => c.written.contains (r * cps + k % cps))))
  | 5 => decide (c.step = dSteps c.w)
  | 6 => c.sent.contains 0 && (List.range n).all (fun r => decide (r = c.p) || c.written.contains r)
  | _ => live.all (fun k => c.written.contains k)

/-- A collective ends with class 0 once all is done. -/
def State.collCheck (s : State) (cx desc : Nat) : State :=
  match s.collOf cx desc with
  | none => s
  | some c => if c.complete && !s.collOut c then s.collEnd c 0 0 else s

/-- A chunk sent to logical index `i` in packets of at most 8,192 bytes (R272, R300): an index out of reach ends the
collective with class 3 (R304), save through a generation fence, which waits for this module's own GENFENCE (17 R427); in the
fenced state it ends with class 2 (17 R432; DEDUCED, log 120). -/
def State.collSend (s : State) (cx desc i : Nat) (m : CollMsg) : State :=
  match s.collOf cx desc with
  | none => s
  | some c =>
    let rank := c.ranks.getD i 0
    match s.peerSt rank with
    | .fail code => if s.link.mem.fenced then s.collEnd c 2 0 else if code = 1 then s else s.collEnd c 3 0
    | p =>
      let sl := s.rankSlot rank
      (pieceSplit c.w m (pieceMost c.w m) (m.data.length + 1)).foldl (fun st k => st.collPost c sl k (p == .held)) s

/-- Final elements of chunk `k` written from element `e` up, or the collective ended. -/
def State.collPut (s : State) (cx desc off e : Nat) (vs : List (Nat × Bool × Nat)) (key : Nat) : State :=
  match s.collOf cx desc with
  | none => s
  | some c =>
    let r := s.collWrite c off e vs
    match r.1 with
    | some f => r.2.collErr ((r.2.collOf cx desc).getD c) f
    | none =>
      let d := r.2.modColl cx desc (fun x => { x with written := x.written ++ [key] })
      if rSpace (dRec c.w true) = 7 ∧ !vs.isEmpty then
        match c.bound.find? (fun p => decide (p.handle = rView (dRec c.w true)) && p.shadow == rShadow (dRec c.w true)) with
        | some p => d.setDirty cx p.handle p.slot
        | none => d
      else d

/-- The final elements of a reduction's chunk, narrowed from its partials (R297, R299), with their rank entries. -/
def finals (w : List W32) (esc : Bool) (ps nans : List Nat) : List (Nat × Bool × Nat) :=
  (ps.zip nans).map (fun q => (redFinal w esc q.1 q.2, false, q.2))

/-! Steps of the ring. -/

/-- The chunk of a reduction at its combining index (R297): the last one narrows the result of an ALLREDUCE, and sends the
final partial of a REDSCAT on to its owner. -/
def State.collReduce (s : State) (c : Coll) (m : CollMsg) : State :=
  let n := dRanks c.w
  let rg := dRange c.w m.chunk
  let own := m.chunk / dCps c.w
  let r := s.collRead c rg.1 rg.2
  match r.1 with
  | .error e => r.2.collErr c e
  | .ok xs =>
    let h := redHop c.w (c.ranks.getD c.p 0) (decide (m.hop = 1)) (m.fp32 && dPbf c.w && decide (m.hop ≠ 1))
      (m.data.map (fun x => x.toNat)) xs (nansOf m)
    let big := (!dPbf c.w || h.2.2) && decide (dEfmt c.w ≠ 5)
    let s1 := r.2.modColl c.ctx c.desc (fun x => { x with sent := x.sent ++ [m.chunk], esc := x.esc || h.2.2 })
    if m.hop < n - 1 then
      s1.collSend c.ctx c.desc ((c.p + 1) % n) { chunkMsg m.chunk (m.hop + 1) h.1 with fp32 := big, nan := h.2.1 }
    else
      let vs := finals c.w h.2.2 h.1 h.2.1
      if dKind c.w = 0 then
        (s1.collPut c.ctx c.desc 0 rg.1 vs m.chunk).collSend c.ctx c.desc own
          { chunkMsg m.chunk n (vs.map (fun v => v.1)) with fp32 := big, nan := h.2.1 }
      else s1.collSend c.ctx c.desc own { chunkMsg m.chunk n h.1 with fp32 := big, nan := h.2.1 }

/-- May the block of step `k` of a ROTATE land: step k − 1 has landed, and the block of step k − 2 is released (R302)? -/
def Coll.rotReady (c : Coll) (k : Nat) : Bool := decide (k = c.step + 1) && (decide (k ≤ 2) || c.fired.contains (k - 2))

/-- The block of step `k` lands, the progress word is set, and the block goes on (R302). -/
def State.collRotate (s : State) (c : Coll) (m : CollMsg) : State :=
  let k := m.chunk
  let off := if k % 2 = 1 then 0 else dWord c.w 6
  let s1 := s.collPut c.ctx c.desc off 0 (unmarked (m.data.map (fun x => x.toNat))) k
  match s1.collOf c.ctx c.desc with
  | none => s1
  | some _ =>
    let s2 := (s1.modColl c.ctx c.desc (fun x => { x with step := k }))
    let s3 := (s2.eStore (s2.collAg c.ctx) (hbmSide 1) [(dStatus c.w + 8, 4)] (leBytes 4 k)).2
    if k < dSteps c.w then s3.collSend c.ctx c.desc ((c.p + 1) % dRanks c.w) { m with chunk := k + 1, hop := k + 1 } else s3

/-- Must a chunk that has reached an active collective wait for a local fire (17 R437)? -/
def Coll.mustHold (c : Coll) (m : CollMsg) : Bool :=
  match dKind c.w with
  | 5 => !c.rotReady m.chunk
  | 0 => decide (m.hop < dRanks c.w) && !c.fired.contains m.chunk
  | 1 => decide (m.hop < dRanks c.w) && !c.fired.contains m.chunk
  | _ => false

/-- A chunk that has reached an active collective (R297, R300, R302), held where it must wait for a local fire (17 R437). -/
def State.collTake (s : State) (c : Coll) (m : CollMsg) : State :=
  let n := dRanks c.w
  let cps := dCps c.w
  let rg := dRange c.w m.chunk
  let vs := m.data.map (fun x => x.toNat)
  let esc := m.fp32 && dPbf c.w
  let on := fun (st : State) => st.collSend c.ctx c.desc ((c.p + 1) % n) { m with hop := m.hop + 1 }
  if c.mustHold m then s.putColl { c with heldPk := c.heldPk ++ [m] } else
  match dKind c.w with
  | 5 => s.collRotate c m
  | 6 => s.putColl { c with written := c.written ++ [m.sender] }
  | 4 => s.collPut c.ctx c.desc 0 (m.sender * dSeg c.w + m.chunk % cps * dChunk c.w)
      (unmarked (vs.take (dRange c.w (m.sender * cps + m.chunk % cps)).2)) (m.sender * cps + m.chunk % cps)
  | 0 =>
    if m.hop < n then s.collReduce c m
    else
      let s1 := (s.modColl c.ctx c.desc (fun x => { x with esc := x.esc || esc })).collPut c.ctx c.desc 0 rg.1
        (markedOf { m with sat := [] } vs) m.chunk
      if m.hop < 2 * n - 2 then on s1 else s1
  | 1 =>
    if m.hop < n then s.collReduce c m
    else (s.modColl c.ctx c.desc (fun x => { x with esc := x.esc || esc })).collPut c.ctx c.desc 0 (rg.1 - c.p * dSeg c.w)
      (finals c.w esc vs (nansOf m)) m.chunk
  | _ =>
    let ws := if dQfmt c.w = 0 then vs else expand c.w vs m.scales
    let s1 := s.collPut c.ctx c.desc 0 rg.1 (markedOf { m with nan := [] } ws) m.chunk
    if m.hop < n - 1 then on s1 else s1

/-- Elements that a chunk's packets bring together: none for the arrival of a BARRIER. -/
def Coll.awaits (c : Coll) (m : CollMsg) : Nat :=
  match dKind c.w with
  | 5 => dCount c.w
  | 6 => 0
  | _ => (dRange c.w m.chunk).2

/-- The class with which the report of an activation's end elsewhere ends it here (R304, R306). -/
def tellCls (c : Nat) : Nat := if c = 4 ∨ c = 5 then c else 3

/-- A packet of an active collective: the report of an end, or a part of a chunk, which is taken once all its packets are
here (R272, R300, R304). -/
def State.collPacketIn (s : State) (c : Coll) (m : CollMsg) : State :=
  match m.err with
  | some e => s.collOver c (tellCls e.1) (if tellCls e.1 = 3 then 0 else e.2)
  | none =>
    let same := fun (x : CollMsg) => decide (x.chunk = m.chunk) && decide (x.hop = m.hop) && decide (x.sender = m.sender)
    let l := c.pieces.filter same ++ [m]
    if (l.map (fun x => x.data.length)).sum < c.awaits m then s.putColl { c with pieces := c.pieces ++ [m] }
    else
      let c1 := { c with pieces := c.pieces.filter (fun x => !same x) }
      (s.putColl c1).collTake c1 (joinPieces m l)

/-- Held packets of a collective that a fire or a landing sets free. -/
def State.collDrain (s : State) (cx desc : Nat) : Nat → State
  | 0 => s
  | k + 1 =>
    match s.collOf cx desc with
    | none => s
    | some c =>
      match c.heldPk.find? (fun p => !c.mustHold p) with
      | none => s
      | some p =>
        let c1 := { c with heldPk := c.heldPk.erase p }
        State.collDrain ((s.putColl c1).collTake c1 p) cx desc k

/-- What a chunk's fire does here (R296, R297, R300). -/
def State.collGo (s : State) (c : Coll) (k : Nat) : State :=
  let n := dRanks c.w
  let rg := dRange c.w k
  let own := k / dCps c.w
  let mark := fun (st : State) => st.modColl c.ctx c.desc (fun x => { x with sent := x.sent ++ [k] })
  let kind := dKind c.w
  if kind = 6 then
    if k = 0 then
      ((List.range n).filter (fun i => decide (i ≠ c.p))).foldl (fun st i => st.collSend c.ctx c.desc i (chunkMsg 0 1 [])) (mark s)
    else s
  else if kind = 5 ∨ rg.2 = 0 then s
  else if kind < 2 then
    if own ≠ c.p then s
    else
      let r := s.collRead c rg.1 rg.2
      match r.1 with
      | .error e => r.2.collErr c e
      | .ok xs =>
        let nan := xs.map (fun x => if dEfmt c.w ≠ 5 ∧ isNaN (efF c.w) x = true then c.ranks.getD c.p 0 + 1 else 0)
        (mark r.2).collSend c.ctx c.desc ((c.p + 1) % n) { chunkMsg k 1 xs with nan := nan }
  else if (kind = 2 ∧ own = c.p) ∨ (kind = 3 ∧ c.p = dRoot c.w) ∨ kind = 4 then
    let base := if kind = 2 then rg.1 - c.p * dSeg c.w else rg.1
    let r := s.collRead c base rg.2
    match r.1 with
    | .error e => r.2.collErr c e
    | .ok xs =>
      let t := r.2.tcb .link c.ctx (fieldOf (dWord c.w 5) 0 8)
      if dQfmt c.w ≠ 0 then
        let q := quantise c.w c.seed t.1.seed base xs (rg.2 / 32 + 1)
        let m := { chunkMsg k 1 q.1 with scales := q.2.1, sat := q.2.2 }
        ((mark t.2).collPut c.ctx c.desc 0 rg.1 (markedOf m (expand c.w q.1 q.2.1)) k).collSend c.ctx c.desc ((c.p + 1) % n) m
      else if kind = 4 then
        if own = c.p then (mark r.2).collPut c.ctx c.desc 0 rg.1 (unmarked xs) k
        else (mark r.2).collSend c.ctx c.desc own (chunkMsg k 1 xs)
      else ((mark r.2).collPut c.ctx c.desc 0 rg.1 (unmarked xs) k).collSend c.ctx c.desc ((c.p + 1) % n) (chunkMsg k 1 xs)
  else s

/-- A chunk fired (R296). -/
def State.collFire (s : State) (cx desc k : Nat) : State :=
  match s.collOf cx desc with
  | none => s
  | some c =>
    if dRanks c.w * dCps c.w ≤ k then s.putColl { c with xf := true }
    else if c.fired.contains k then s
    else
      let c1 := { c with fired := c.fired ++ [k] }
      (((s.putColl c1).collGo c1 k).collDrain cx desc c1.heldPk.length).collCheck cx desc

/-- CFIRE (R295). -/
def execCfire (a : Sel) (b : UOpd) (s : State) : Host.Outcome State Fault Refusal :=
  run (uLen b) s (a :: b.sels) [] (fun x =>
    let v := (x.uniVal a.src).toNat
    if v < 64 ∧ (x.collOf (x.ctxNoG x.cur) v).isSome = true then
      if [0, 1, 2, 3, 4, 7].any (fun p => decide (x.g.y.path p ≠ 0)) then .block .counter x
      else .ok (x.collFire (x.ctxNoG x.cur) v (x.uval b).toNat)
    else .trap (Trap.mk2 0x15 (BitVec.ofNat 64 v)) x)

/-! Activation (R290, R293). -/

/-- The slots of the records in space 7, bound for the whole run (03 R76, R77); where that fails, the lowest bit of the VIEW
field (R293). -/
def State.collBind (s : State) (c : Coll) : List (BitVec 256 × Bool) → Option (Option Nat) × State × Coll
  | [] => (none, s, c)
  | r :: rs =>
    if rSpace r.1 ≠ 7 then State.collBind s c rs
    else
      let b := s.viewBind .link c.ctx (rView r.1) (rShadow r.1) r.2
      match b.1 with
      | .err _ _ => (some (some (if r.2 then 728 else 472)), b.2, c)
      | .wait => (some none, b.2, c)
      | .ok p => State.collBind b.2 { c with bound := c.bound ++ [p] } rs

/-- Does this module wait on logical index `j`? On those whose packets reach it on their way, and on the next one, which
acknowledges; in a reduction, ALLGATHER, ALLTOALL or BARRIER that is every other index (R297, R300, R302). -/
def Coll.waitsOn (c : Coll) (j : Nat) : Bool :=
  let n := dRanks c.w
  let next := decide (j = (c.p + 1) % n)
  let up := (c.p + n - dRoot c.w) % n
  decide (j ≠ c.p) &&
  match dKind c.w with
  | 3 => decide ((j + n - dRoot c.w) % n < up) || (next && decide (up + 1 < n))
  | 5 => next || decide ((c.p + n - j) % n ≤ dSteps c.w)
  | _ => true

/-- A rank that a collective waits on and no live port reaches (R304). -/
def State.collLost (s : State) (c : Coll) : Bool :=
  (c.ranks.zipIdx).any (fun r => c.waitsOn r.2 && s.peerSt r.1 == .fail 6)

/-- The first packets of an activation: a ROTATE sends its source (R302), and packets that came early are taken. -/
def State.collBegin (s : State) (c : Coll) (fires : List Nat) : State :=
  let mine := s.link.early.filter (fun (p : CollPk) =>
    decide (p.ctx = c.ctx) && decide (p.m.comm.toNat = dComm c.w) && decide (p.m.act = c.act))
  let s1 := { s with link := { s.link with
    colls := s.link.colls ++ [c]
    early := s.link.early.filter (fun (p : CollPk) =>
      !(decide (p.ctx = c.ctx) && decide (p.m.comm.toNat = dComm c.w) && decide (p.m.act = c.act))) } }
  let s2 := if dKind c.w = 5 then
      let r := s1.collRead c 0 (dCount c.w)
      match r.1 with
      | .error e => r.2.collErr c e
      | .ok xs => r.2.collSend c.ctx c.desc ((c.p + 1) % dRanks c.w) (chunkMsg 1 1 xs)
    else s1
  let s3 := mine.foldl (fun st p => match st.collOf c.ctx c.desc with
    | some x => (st.collPacketIn x p.m).collDrain c.ctx c.desc (x.heldPk.length + 1)
    | none => st) s2
  let s4 := (fires.foldl (fun st k => st.collFire c.ctx c.desc k) s3).collCheck c.ctx c.desc
  match s4.collOf c.ctx c.desc with
  | some x => if s4.collLost x then s4.collEnd x 3 0 else s4
  | none => s4

/-- An activation begins (R290, R293): none while a pin keeps it waiting. -/
def State.collStart (s : State) (q : CollWait) : Option State :=
  let d := s.seqRead q.ctx ((s.ctx q.ctx).ctbase + BitVec.ofNat 64 (128 * q.desc)) 4 32
  match d.1 with
  | .error e => some (d.2.collNoStatus q.ctx q.node q.lk (if e.1 = 5 then 4 else 5))
  | .ok ws =>
    let w := ws.map (BitVec.ofNat 32)
    let key := commKey q.ctx (dComm w)
    let act := tget 0 s.link.acts key
    let s1 := { d.2 with link := { d.2.link with acts := tset 0 d.2.link.acts key (act + 1) } }
    let c : Coll :=
      { ctx := q.ctx, desc := q.desc, w := w, ranks := [], p := 0, seed := q.seed, act := act, gen := s.link.mem.gen,
        fired := [], pieces := [], heldPk := [], written := [], sent := [], xf := false, esc := false, satf := false, nan := false,
        nanrank := 0xFFFF, step := 0, bound := [], node := q.node, lk := q.lk }
    let n := dRanks w
    if n < 2 ∨ 256 < n then some (s1.collEnd c 1 ((dFieldBad w none).getD 64))
    else
      let l := s1.seqRead q.ctx (BitVec.ofNat 64 (dNum w 24 2)) 2 n
      match l.1 with
      | .error e => some (l.2.collEnd c (if e.1 = 5 then 4 else 5) 0xFFFF)
      | .ok ranks =>
        let me := s.link.mem.rank
        let p := if ranks.eraseDups.length = n then me.bind (fun r => ranks.idxOf? r) else none
        let c1 := { c with ranks := ranks, p := p.getD 0 }
        match dFieldBad w p with
        | some b => some (l.2.collEnd c1 1 b)
        | none =>
          if dFmtOk w = false then some (l.2.collEnd c1 1 0x0100)
          else match p with
            | none => some (l.2.collEnd c1 1 0x0200)
            | some _ =>
              let b := l.2.collBind c1 [(dRec w false, false), (dRec w true, true)]
              match b.1 with
              | some none => none
              | some (some e) =>
                some (b.2.1.collEnd { c1 with bound := b.2.2.bound } 1 e)
              | none => some (if s.link.mem.fenced then b.2.1.collEnd b.2.2 2 0 else b.2.1.collBegin b.2.2 q.fired)

/-- COLLECTIVE_ACTIVATE (R290): the oldest waiting activation of a descriptor with a seed, once fewer than 64 are active
and the descriptor is not. -/
def execCollectiveActivate (ctx desc : Nat) (seed : W32) (s : State) : Host.Outcome State Fault Refusal :=
  .next (match s.link.collWait.find? (fun (q : CollWait) => decide (q.ctx = ctx) && decide (q.desc = desc)) with
    | none => s
    | some q =>
      if q.seed ≠ seed ∨ 64 ≤ s.link.colls.length ∨ (s.collOf ctx desc).isSome = true then s
      else ({ s with link := { s.link with collWait := s.link.collWait.erase q } }.collStart q).getD s)

/-! Packets (R300, R304; 17 R437). -/

/-- Bytes of chunk buffers in use by packets that wait. -/
def State.heldBytes (s : State) : Nat :=
  ((s.link.early.map (fun (p : CollPk) => p.m) ++ s.link.colls.flatMap (fun (c : Coll) => c.heldPk ++ c.pieces)).map
    (fun (m : CollMsg) => m.len)).sum

/-- Would this packet have to wait in the chunk buffers for a local fire, or its chunk with it (17 R437)? -/
def Coll.keeps (c : Coll) (m : CollMsg) : Bool := m.err.isNone && c.mustHold m

/-- COLL_PACKET (R297): taken by its activation, held for one that is still to come, or refused. -/
def execCollPacket (h : Hdr) (m : CollMsg) (s : State) : Host.Outcome State Fault Refusal :=
  .next (match s.carried h [.coll m] with
  | none => s
  | some k =>
    let g := k.gate h
    match g.1 with
    | none => g.2
    | some cx =>
      let x := g.2
      let ack := fun (st : State) => st.answer h 0 .ack
      match x.link.colls.find? (fun (c : Coll) => decide (c.ctx = cx) && decide (dComm c.w = m.comm.toNat) && decide (c.act = m.act)) with
      | some c =>
        if c.keeps m = false ∨ x.heldBytes + m.len ≤ 67108864 then
          ack (((x.collPacketIn c m).collDrain cx c.desc (c.heldPk.length + 1)).collCheck cx c.desc)
        else x.nack h 6
      | none =>
        match x.link.deadColls.find? (fun d => decide (d.1 = commKey cx m.comm.toNat) && decide (d.2.1 = m.act)) with
        | some d => if m.err.isSome then ack x else x.answer h 0 (.nack (match d.2.2 with | 4 => 5 | 5 => 3 | _ => 2))
        | none =>
          if m.act < tget 0 x.link.acts (commKey cx m.comm.toNat) then ack x
          else if x.heldBytes + m.len ≤ 67108864 then
            ack { x with link := { x.link with early := x.link.early ++ [⟨cx, m⟩] } }
          else x.nack h 6)

/-- A rank that a collective waits on and no live port reaches any more ends it with class 3 (R304). -/
def State.collReach (s : State) : State :=
  s.link.colls.foldl (fun (st : State) (c : Coll) =>
    if st.collLost c then st.collEnd c 3 0 else st) s

/-- The reply to a COLL packet (R304): class 4 or 5 where the cause is reported, else class 3; a stale generation waits. -/
def State.collReply (s : State) (x : Xfer) (fail : Option (Option Nat)) : State :=
  let s1 := s.dropX x.id
  let desc := x.ref % 64
  match (s1.collOf x.gk desc).filter (fun c => decide (c.act = x.ref / 64)), fail with
  | none, _ => s1
  | some _, none => s1.collCheck x.gk desc
  | some c, some (some 1) => if s1.link.mem.fenced then s1.collEnd c 2 0 else s1
  | some c, some e =>
    let i := c.ranks.idxOf (((s1.link.mem.cur.bind (fun t => t.rankOf x.dst))).getD 0)
    match e with
    | some 5 => s1.collEnd c 4 i
    | some 3 => s1.collEnd c 5 i
    | some 4 => s1.collEnd c 5 i
    | _ => s1.collEnd c 3 0

/-- Nothing is left of an old generation's activations: their numbers, their failures, and packets that came early (R305;
17 R443). -/
def State.collForget (s : State) : State := { s with link := { s.link with early := [], acts := [], deadColls := [] } }

/-- Every collective in flight ends with class 2 at a GENFENCE, and what waited for the old generation goes (R305): packets
that arrived, and transfers of the old activations. -/
def State.collFence (s : State) : State :=
  let s1 := (s.link.colls.foldl (fun st c => st.collEnd c 2 0) s).noteAll (fun x => x.kind == .coll)
  s1.collForget.modFab (fun f => { f with xfers := f.xfers.filter (fun (x : Xfer) => x.kind != .coll) })

/-- Every collective in flight ends as the module enters the fenced state (17 R432; class 2 is DEDUCED, log 120). -/
def State.collFenced (s : State) : State := s.link.colls.foldl (fun st c => st.collEnd c 2 0) s

/-- The collectives of a context that is destroyed end with class 6 (R303), and its activations that wait are gone. -/
def State.collCancel (s : State) (cx : Nat) : State :=
  let s1 := (s.link.colls.filter (fun (c : Coll) => decide (c.ctx = cx))).foldl (fun st c => st.collEnd c 6 0) s
  { s1 with link := { s1.link with
    collWait := s1.link.collWait.filter (fun (q : CollWait) => decide (q.ctx ≠ cx))
    early := s1.link.early.filter (fun (p : CollPk) => decide (p.ctx ≠ cx)) } }

/-! Bindings of launches (R294). -/

/-- The four bindings of a launch record. -/
def Launch.binds (l : Launch) : List Nat := (List.range 4).map (fun i => l.word (8 + 2 * i) + 2 ^ 32 * l.word (9 + 2 * i))

/-- A chunk fired by a launch's team: in its active collective, or in the activation that still waits. -/
def State.bindFire (s : State) (lk cx desc k : Nat) : State :=
  match (s.collOf cx desc).filter (fun c => c.lk == some lk) with
  | some _ => s.collFire cx desc k
  | none =>
    { s with link := { s.link with collWait := s.link.collWait.map (fun (q : CollWait) =>
      if q.ctx = cx ∧ q.desc = desc ∧ q.lk = some lk then { q with fired := q.fired ++ [k] } else q) } }

end Sys2Proof.Machine
end

