-- ==== Sys2Proof/Machine/Fetch.lean ====
section
/-! DEFINITION. Which group issues next (spec/15 R397, R403 to R405), the fetch of its instruction (06 R134), and how a
word comes to stand where the next step fetches it (log 3). -/

namespace Sys2Proof.Machine

/-- Can the group issue its instruction: live, resident, in the active set, and in no stop of its own? A waiting group
issues its instruction again and waits on if nothing has changed (15 R398, log 4). -/
def State.canIssue (s : State) (gk : Nat) : Bool :=
  let g := s.grp gk
  g.live && decide ((s.teamG gk).st = .resident) &&
    (match g.y.status with | .ready => true | .waiting _ => true | .asleep => g.y.woken | _ => false) &&
    (((s.core (s.coreNoG gk)).quad (quadOf gk)).posOf gk).isSome

/-- One Invar exchange of a quadrant (15 R405). -/
def Quad.swap (q : Quad) : Quad :=
  let p := q.swaps % 8
  let r := match q.fifo with
    | h :: _ => q.take p h
    | [] => q
  { r with issued := 0, swaps := q.swaps + 1 }

/-- The exchange of a quadrant if 256 instructions have issued since the last (15 R405). -/
def State.swapDue (s : State) (c q : Nat) : State :=
  if 256 ≤ ((s.core c).quad q).issued then s.modQuad c q Quad.swap else s

/-- The turn that an Invar core takes: the first from the counter on whose position holds a group that does not sleep
(15 R403). -/
def State.pick (s : State) (c : Nat) : Option (Nat × Nat) :=
  (List.range 32).findSome? (fun i =>
    let n := (s.core c).turn + i
    match tget none ((s.core c).quad (n % 4)).active (n / 4 % 8) with
    | none => none
    | some gk =>
      let g := s.grp gk
      if g.y.status = .asleep ∧ g.y.woken = false then none else some (n, gk))

/-- The sleepers of an Invar core re-read their words before a turn, so that a write by a turn of the same core wakes
them at a place that the program fixes (15 R404). -/
def State.rereads (s : State) (c : Nat) : State :=
  ((s.groups.filter (fun p => p.2.y.status == .asleep && !p.2.y.woken && decide (s.coreNoG p.1 = c))).map (fun p => p.1)).foldl
    State.reread s

/-- The groups of a quadrant that can issue, in round-robin order from the one after the last that issued (15 R397), each
with its position. -/
def State.inTurn (s : State) (c q : Nat) : List (Nat × Nat) :=
  (List.range 8).filterMap (fun i =>
    let p := (((s.core c).quad q).last + 1 + i) % 8
    match tget none ((s.core c).quad q).active p with
    | some h => if s.canIssue h then some (p, h) else none
    | none => none)

/-- The group that issues in a quadrant outside Invar mode (15 R397): the first in round-robin order whose strand is free,
which timing decides (DEDUCED, log 139). -/
def State.nextUp (s : State) (c q : Nat) : Option (Nat × Nat) :=
  match s.inTurn c q with
  | [] => none
  | [x] => some x
  | x :: y :: l => some (((x :: y :: l).find? (fun h => !Config.strandBusy s.clock h.2)).getD x)

/-- The state with the group chosen that issues at a turn of group `gk`'s quadrant, as groups that wait have left the active
set for groups that can issue (15 R397, R398); in Invar mode the core's own cycle chooses (15 R403). -/
def State.turnTo (s : State) (gk : Nat) : State :=
  let c := s.coreNoG gk
  if s.coreInvar c then
    let s1 := ((((s.rereads c).swapDue c 0).swapDue c 1).swapDue c 2).swapDue c 3
    match s1.pick c with
    | none => { s1 with cur := gk }
    | some (n, h) =>
      { s1.modCore c (fun co => { co with turn := n }) with cur := h }
  else
    let s1 := s.leaveAll c (quadOf gk)
    match s1.nextUp c (quadOf gk) with
    | none => { s1 with cur := gk }
    | some (p, h) => { s1.modQuad c (quadOf gk) (fun q => { q with last := p }) with cur := h }

/-- One word of the current group's code (06 R134): none where its page cannot be fetched. It is read through the L2, under
class NORMAL, since no record gives it another (DESIGN CHOICE, log 28). -/
def State.fetchWord (s : State) (va : W64) : Option Nat × State :=
  let r := s.xlate (.core s.cn) s.x.asid va 0 s.priv .fetch
  match r.1 with
  | .error _ => (none, r.2)
  | .ok a => (some (r.2.pnum 0 a.pa 4), r.2.l2range 0 a.pa 4 0 false)

/-- The current group's next instruction, or the trap that stands in its place (06 R134, R147, R148). -/
def State.fetch (s : State) : Except Trap Instr × State :=
  let pc := s.g.r.pc
  let miss : Except Trap Instr := .error (Trap.mk2 3 pc)
  let dec := fun (w x : Nat) => match decodeWords w x with
    | .ok i => (.ok i : Except Trap Instr)
    | .error _ => .error (Trap.mk2 1 0)
  if pc.toNat % 4 ≠ 0 then (miss, s)
  else
    let r := s.fetchWord pc
    match r.1 with
    | none => (miss, r.2)
    | some w =>
      if twoWords w then
        let q := r.2.fetchWord (pc + 4)
        match q.1 with
        | none => (miss, q.2)
        | some x => (dec w x, q.2)
      else (dec w 0, r.2)

/-- The clock moves on by a free number of clocks (log 1). -/
def State.tick (s : State) : State := { s with clock := s.clock + 1 + Config.clockGap s.clock }

/-! A program placed from outside (log 3). -/

/-- The launch record of a placed program: CB 0x1_0000, one group, one team. -/
def bootRecord : List W32 := [0x10000, 0, 0, 0x1100, 0, 0x00010001, 1]

/-- The code page of a placed program: virtual page 0x1_0000 at physical 0x1_0000, valid leaf with X. -/
def bootTlb : TlbEntry := ⟨1, 0x10000, 0, 0x1000B⟩

/-- A module in which one group of one team stands ready at code address 0x1_0000. -/
def State.boot (s : State) : State :=
  { s with
    cur := 64
    ctxs := tset Ctx.reset s.ctxs 1 { Ctx.reset with live := true, asid := 1 }
    launches := tset Launch.reset s.launches 1 { Launch.reset with live := true, ctx := 1, rcd := bootRecord, placed := 1 }
    teams := tset Team.reset s.teams 1 { Team.reset with st := .resident, launch := 1, ctx := 1 }
    nextTeam := max 2 s.nextTeam
    nextLaunch := max 2 s.nextLaunch
    groups := tset Group.reset s.groups 64
      { Group.reset with
        live := true
        r := { Regs.reset with pc := 0x10000 }
        y := { GSync.reset with status := .ready } }
    cores := tset Core.reset s.cores 0
      { s.core 0 with
        slots := [(0, 2)]
        tlb := [bootTlb]
        quads := tset Quad.reset (s.core 0).quads 0 { Quad.reset with active := [(0, some 64)], held := [0] } } }

/-- `s` with a group that can issue: as it stands, or booted. -/
def State.ensure (s : State) : State :=
  let s1 := { s with agenda := [], phys := { s.phys with powered := true } }
  if s1.canIssue (s1.turnTo s1.cur).cur && (s1.fetchWord s1.g.r.pc).1.isSome then s1 else s1.boot

/-- Bytes placed where the current group fetches its next instruction, each through its own translation. -/
def State.placeCode (s : State) : W64 → List Byte → State
  | _, [] => s
  | va, b :: bs =>
    let r := s.xlate (.core s.cn) s.x.asid va 0 s.priv .fetch
    match r.1 with
    | .error _ => State.placeCode s (va + 1) bs
    | .ok a => State.placeCode (s.pset 0 a.pa b) (va + 1) bs

end Sys2Proof.Machine
end

