-- ==== Sys2Proof/Machine/Cap.lean ====
section
/-! DEFINITION. The capability record (spec/21 R459) and what its counts follow. -/

namespace Sys2Proof.Machine

/-- The host interface changed. -/
def State.modHif (s : State) (f : HostIf → HostIf) : State := { s with hif := f s.hif }

/-- Word `i` of the capability record (R459). -/
def HostIf.cap (h : HostIf) (i : Nat) : W32 :=
  match i with
  | 0 => BitVec.ofNat 32 (h.cores1 % 256 * 65536 + h.cores0 % 256 * 256 + h.service % 4)
  | 1 => BitVec.ofNat 32 (h.chan1 % 256 * 256 + h.chan0 % 256)
  | 2 => h.live.zeroExtend 32
  | 3 => h.full8.zeroExtend 32
  | 4 => h.fwver
  | 5 => BitVec.ofNat 32 (h.pinrate % 256)
  | _ => 0

/-- The 64 bytes of the capability record. -/
def HostIf.capBytes (h : HostIf) : List Byte := wordBytes ((List.range 16).map h.cap)

/-- The capability record changed: a SERVICE event follows every change (21 R459). -/
def State.setCap (s : State) (f : HostIf → HostIf) : State :=
  let h := f s.hif
  if h.capBytes = s.hif.capBytes then s.modHif f
  else (s.modHif f).event1 5 0 [BitVec.ofNat 32 h.service]

/-- A port is out of service (01 R21; 11 R277): its bits of LIVE and FULL8 fall. -/
def State.portOut (s : State) (p : Nat) : State :=
  let m : BitVec 18 := ~~~(1#18 <<< p)
  s.setCap (fun h => { h with live := h.live &&& m, full8 := h.full8 &&& m })

/-- The completion of a mailbox request (R458): word 15 of its slot, and the MBOX event. A detail stands in [31:16] (log 46). -/
def State.mbox (s : State) (slot cx code detail : Nat) : State :=
  let v := BitVec.ofNat 32 (detail * 65536 + code)
  (s.modHif (fun h => { h with mail := mput h.mail (64 * slot + 60) 4 v.toNat })).event1 6 cx [BitVec.ofNat 32 slot, v]

end Sys2Proof.Machine
end

