-- ==== Sys2Proof/Machine/Transport.lean ====
section
/-! DEFINITION. The steps of the transport: packets of other modules' PUT, RATOM and RACC served here, replies to this
module's transfers, and what becomes of ports and rates (spec/11 R273 to R288). -/

namespace Sys2Proof.Machine

/-! Served packets. The target addresses are virtual addresses of the target context (R273), reached without privilege
and in HBM (log 26). -/

/-- A place in this module's HBM for a served access, or the NACK code that answers it (R279). -/
def State.target (s : State) (cx : Nat) (va : W64) (n al : Nat) (rd : Bool) : Except Nat Nat × State :=
  let r := s.xlate .link (s.ctx cx).asid va 0 false .write
  match r.1 with
  | .error .miss => (.error 3, r.2)
  | .error (.perm _) => (.error 4, r.2)
  | .error .space =>
    let d := r.2.draw
    (.error (if Config.freeBool d.1 then 3 else 4), d.2)
  | .ok a =>
    if a.pa % al ≠ 0 then (.error 7, r.2)
    else if rd && r.2.pbad 0 a.pa n then (.error 5, r.2)
    else (.ok a.pa, r.2)

/-- A write of a served PUT (R283). -/
def State.putWords (s : State) (cx : Nat) : List PutWord → Except Nat Unit × State
  | [] => (.ok (), s)
  | w :: ws =>
    let r := s.target cx w.addr w.bytes.length 1 false
    match r.1 with
    | .error e => (.error e, r.2)
    | .ok pa => State.putWords ((r.2.pwrite 0 pa w.bytes).l2range 0 pa w.bytes.length 0 true) cx ws

/-- The read-modify-write of a served RATOM: the old value (R284). -/
def State.atomAt (s : State) (cx : Nat) (va : W64) (op : AOp) (v c : W32) : Except Nat W32 × State :=
  let r := s.target cx va 4 4 true
  match r.1 with
  | .error e => (.error e, r.2)
  | .ok pa =>
    let old := BitVec.ofNat 32 (r.2.pnum 0 pa 4)
    (.ok old, (r.2.pwrite 0 pa (leBytes 4 (aop op old v c).toNat)).l2range 0 pa 4 0 true)

/-- A served PUT of one thread: its words in order, then its flag (R283, R286). -/
def State.servePut (s : State) (cx : Nat) (t : PutThread) : Except Nat (List W32) × State :=
  let r := s.putWords cx t.words
  match r.1, t.flag with
  | .error e, _ => (.error e, r.2)
  | .ok _, none => (.ok [], r.2)
  | .ok _, some f =>
    let q := r.2.atomAt cx f .add 1 0
    match q.1 with
    | .error e => (.error e, q.2)
    | .ok _ => (.ok [], q.2)

/-- A served RATOM of one thread. -/
def State.serveAtom (s : State) (cx : Nat) (t : AtomThread) : Except Nat (List W32) × State :=
  let r := s.atomAt cx t.addr t.op t.val t.cmp
  match r.1 with
  | .error e => (.error e, r.2)
  | .ok v => (.ok [v], r.2)

/-- The adds of a served RACC of one thread (R285). -/
def State.serveAcc (s : State) (cx : Nat) : List AccElem → Except Nat (List W32) × State
  | [] => (.ok [], s)
  | e :: es =>
    let n := if e.bf16 then 2 else 4
    let r := s.target cx e.addr n n true
    match r.1 with
    | .error c => (.error c, r.2)
    | .ok pa =>
      State.serveAcc ((r.2.pwrite 0 pa (leBytes n (accAdd e.bf16 (r.2.pnum 0 pa n) e.val.toNat))).l2range 0 pa n 0 true) cx es

/-- A packet served thread by thread, each transfer answered singly (R286, R287). -/
def State.serve {α : Type} (s : State) (h : Hdr) (it : List W32 → Item) (f : State → Nat → α → Except Nat (List W32) × State)
    (ts : List α) : State :=
  let g := s.gate h
  match g.1 with
  | none => g.2
  | some cx => (ts.zipIdx).foldl (fun st t =>
      let r := f st cx t.1
      match r.1 with
      | .error c => r.2.answer h t.2 (.nack c)
      | .ok v => r.2.answer h t.2 (it v)) g.2

/-- PUT_PACKET (R283). -/
def execPutPacket (h : Hdr) (ts : List PutThread) (s : State) : Host.Outcome State Fault Refusal :=
  .next (match s.carried h (ts.map .put) with
    | some x => x.serve h (fun _ => .ack) State.servePut ts
    | none => s)
/-- RATOM_PACKET (R284). -/
def execRatomPacket (h : Hdr) (ts : List AtomThread) (s : State) : Host.Outcome State Fault Refusal :=
  .next (match s.carried h (ts.map .atom) with
    | some x => x.serve h .rdata State.serveAtom ts
    | none => s)
/-- RACC_PACKET (R285). -/
def execRaccPacket (h : Hdr) (ts : List (List AccElem)) (s : State) : Host.Outcome State Fault Refusal :=
  .next (match s.carried h (ts.map .racc) with
    | some x => x.serve h (fun _ => .ack) State.serveAcc ts
    | none => s)

/-- MALFORMED_PACKET (R273). -/
def execMalformedPacket (h : Hdr) (s : State) : Host.Outcome State Fault Refusal := .next (s.badPacket h)

/-! Rates (R278). -/

/-- RATE_RECOVER: every limiter rises by port rate / 64, not above the port rate. -/
def execRateRecover (s : State) : Host.Outcome State Fault Refusal :=
  .next (s.modFab (fun f =>
    { f with rates := f.rates.foldl (fun t p => tset portRate t p.1 (min portRate (p.2 + portRate / 64))) [] }))

/-! Replies (R279, R284, R287, R288). -/

/-- The transfer of a number. -/
def Fabric.xfer (f : Fabric) (id : Nat) : Option Xfer := f.xfers.find? (fun x => decide (x.id = id))

/-- The end of a transfer: acknowledged, with the value that the reply brings, or failed with a code, or without a reply. -/
def State.endX (s : State) (x : Xfer) (fail : Option (Option Nat)) (v : Option W32) : State :=
  let code := fail.map (fun c => c.getD 6)
  match x.kind with
  | .put => s.xferEnd x code v
  | .ratom => s.xferEnd x code v
  | .racc => s.xferEnd x code v
  | .word => s.wordEnd x code
  | .coll => s.collReply x fail
  | _ => s.msgReply x fail

/-- A transfer whose destination no live port reaches any more: code 6 (R277), for a SEND class 3 with DETAIL 0 (12 R323). -/
def State.noRoute (s : State) (x : Xfer) : State :=
  s.endX x (some (some (if x.kind = .msg ∨ x.kind = .rts ∨ x.kind = .pdata then 0 else 6))) none

/-- A late reply to a transfer that has ended without one: its congestion echo alone counts (R278). -/
def Fabric.lateReply (f : Fabric) (id : Nat) (ece : Bool) : Fabric :=
  match tget 0 f.late id with
  | 0 => f
  | d + 1 => { f.slow d ece with late := tset 0 f.late id 0 }

/-- Is a transfer the first of its packet without a reply? The transfers of a packet are performed in thread order (R286), and
their replies are taken in that order (DESIGN CHOICE, log 136). -/
def Fabric.firstOf (f : Fabric) (x : Xfer) : Bool :=
  !f.xfers.any (fun (y : Xfer) => decide (y.grp = x.grp) && !y.backoff && decide (y.id < x.id))

/-- A reply to a transfer that is under way; a PUT to the pool has its replies word by word, and a transfer to this module's
own slot has the reply that has left here (R276). -/
def State.onReply (s : State) (id : Nat) (ece : Bool) (it : Item) (f : State → Xfer → State) : State :=
  match s.link.fab.xfer id with
  | none => s.modFab (fun b => b.lateReply id ece)
  | some x =>
    if x.backoff ∨ x.dst = dstWords ∨ s.link.fab.firstOf x = false then s
    else if x.dst ≠ s.link.mem.slot then f (s.modFab (fun b => b.slow x.dst ece)) x
    else match s.link.fab.loop.find? (fun k => decide (k.seq = x.seq) && decide (k.items = [it])) with
      | none => s
      | some k => f (s.modFab (fun b => { b.slow x.dst k.ece with loop := b.loop.erase k })) x

/-- ACK_RECEIVE (R287). -/
def execAckReceive (id : Nat) (ece : Bool) (s : State) : Host.Outcome State Fault Refusal :=
  .next (s.onReply id ece .ack (fun st x => st.endX x none none))

/-- RDATA_RECEIVE (R284). -/
def execRdataReceive (id : Nat) (v : W32) (ece : Bool) (s : State) : Host.Outcome State Fault Refusal :=
  .next (s.onReply id ece (.rdata [v]) (fun st x => st.endX x none (some v)))

/-- A rendezvous SEND whose RTS was acknowledged, told that its message is gone (12 R329). -/
def State.sendGone (s : State) (id : Nat) : State :=
  match s.ctxs.findSome? (fun p => (p.2.sends.find? (fun (c : SendCmd) => decide (c.id = id) && c.rdv))) with
  | none => s
  | some c => s.sendEnd c (2, 0)

/-- NACK_RECEIVE (R279): code 6 schedules a resend, any other code from 1 to 7 fails the transfer. -/
def execNackReceive (id : Nat) (code : Nat) (ece : Bool) (s : State) : Host.Outcome State Fault Refusal :=
  .next (
    if code = 0 ∨ 7 < code then s
    else if (s.link.fab.xfer id).isNone then
      let s1 := s.modFab (fun b => b.lateReply id ece)
      if code = 1 then s1.sendGone id else s1
    else s.onReply id ece (.nack code) (fun st x =>
      if code = 6 then st.modFab (fun f =>
        { f with xfers := f.xfers.map (fun (y : Xfer) => if y.id = id then { y with busy := y.busy + 1, backoff := true } else y) })
      else st.endX x (some (some code)) none))

/-- Has a waiting transfer lost the group, SEND or receive that it serves, so that it is not sent again (17 R435)? -/
def State.orphan (s : State) (x : Xfer) : Bool :=
  match x.kind with
  | .msg => (s.sendOf (s.ctxNoG x.gk) x.ref).isNone
  | .rts => (s.sendOf (s.ctxNoG x.gk) x.ref).isNone
  | .pdata => (s.sendOf x.gk x.ref).isNone
  | .pull => match x.item with
    | .pull _ _ 0 => false
    | _ => !((s.takenOf x.gk x.ref).any (fun r => r.pulls.contains x.id))
  | .coll => false
  | _ => !(s.grp x.gk).live

/-- BUSY_RESEND (R279): a transfer's packet leaves again, with the others of it that wait, unless its destination is out of
reach or traffic is held; one that serves nobody any more is forgotten (17 R435). -/
def execBusyResend (id : Nat) (s : State) : Host.Outcome State Fault Refusal :=
  .next (match s.link.fab.xfer id with
    | none => s
    | some x =>
      if !x.backoff then s
      else if s.orphan x then s.dropX x.id
      else if toPool x.dst then
        if (s.link.fab.route x.dst).isEmpty then s.noRoute x else s.sendGrp x.dst x.grp
      else match s.slotSt x.dst with
        | .fail c => if c = 6 then s.noRoute x else s.endX x (some (some c)) none
        | .held => s
        | .go _ => s.sendGrp x.dst x.grp)

/-- TRANSFER_TIMEOUT (R279): no final reply within 10 ms. -/
def execTransferTimeout (id : Nat) (s : State) : Host.Outcome State Fault Refusal :=
  .next (match s.link.fab.xfer id with
    | none => s
    | some x => (s.noteLate x).endX x (some none) none)

/-! Ports (R277). -/

/-- A packet of a dead port sent again, whole, or its transfers failed with code 6. A module packet stays here while module
traffic is held, and is gone once the module is fenced (17 R432, R433). -/
def State.reroute (s : State) (k : Packet) : State :=
  if (s.link.fab.route k.dst).isEmpty then
    (s.link.fab.xfers.filter (fun (y : Xfer) => k.ids.contains y.id && k.items.contains y.item && decide (y.dst = k.dst) && decide (y.seq = k.seq) &&
      !y.backoff)).foldl State.noRoute s
  else if toPool k.dst then s.modFab (fun f => f.send k)
  else if s.link.mem.fenced then s
  else if s.holding then s.modFab (fun f => { f with parked := f.parked ++ [k] })
  else s.modFab (fun f => { f with loop := f.loop.erase k }.send k)

/-- A port is declared dead: its routes go, its packets leave by others, and collectives with a rank out of reach end
(R304). -/
def State.killPort (s : State) (p : Nat) : State :=
  let q := s.link.fab.port p
  (((q.buf.map (fun x => x.pk)).foldl State.reroute (s.modFab (fun f => f.modPort p (fun _ => ⟨true, [], q.next, 0⟩)))).collReach).portOut p

/-- Flits released from the oldest packets of a buffer. -/
def release : Nat → List Sent → List Sent
  | _, [] => []
  | n, q :: l => if q.flits ≤ n then release (n - q.flits) l else { q with acked := q.acked + n } :: l

/-- LINK_ACKNOWLEDGEMENT: `n` flits leave the buffer and the count of failures starts again. -/
def execLinkAcknowledgement (port n : Nat) (s : State) : Host.Outcome State Fault Refusal :=
  .next (if (s.link.fab.port port).dead then s
    else s.modFab (fun f => f.modPort port (fun x => { x with buf := release n x.buf, fails := 0 })))

end Sys2Proof.Machine
end

