-- ==== Sys2Proof/Machine/Membership.lean ====
section
/-! DEFINITION. Generations and rank tables, the tin-cry protocol, and the join engine (spec/14 R374; 17 R424 to R443). -/

namespace Sys2Proof.Machine

/-- Membership changed. -/
def State.modMem (s : State) (f : Member → Member) : State := { s with link := { s.link with mem := f s.link.mem } }

/-! Rank tables (R425). -/

/-- A rank-table image at a device physical address of HBM, if every row of R425 holds. -/
def State.rankImage (s : State) (a : Nat) : Option RankTab :=
  let w0 := s.pnum 0 a 4
  let n := w0 % 65536
  let es := (List.range 256).map (fun r => s.pnum 0 (a + 16 + 2 * r) 2)
  let slots := (es.take n).map (fun e => e % 256)
  if a % 16 = 0 ∧ 1 ≤ n ∧ n ≤ 256 ∧ s.pnum 0 (a + 4) 12 = 0 ∧
      (es.take n).all (fun e => decide (e / 256 = 128)) = true ∧ (es.drop n).all (fun e => decide (e / 256 = 0)) = true ∧
      slots.eraseDups.length = n then
    some ⟨BitVec.ofNat 16 (w0 / 65536), slots⟩
  else none

/-! The join engine's status and end (R439, R441). -/

/-- Device physical address of the join status. -/
def Join.status (j : Join) : Nat := dNum j.w 8 2 % 2 ^ 52

/-- The join status written, word 0 last. -/
def State.joinStatus (s : State) (cls detail : Nat) (opened done : Bool) : State :=
  let j := s.link.join
  let w0 := detail % 65536 * 65536 + (if opened then 16 else 0) + cls * 2 + (if done then 1 else 0)
  let bs := leBytes 4 j.landed.length ++ leBytes 4 (j.retry * 65536 + j.rot.length) ++ leBytes 4 0
  (((s.pwrite 0 (j.status + 4) bs).pwrite 0 j.status (leBytes 4 w0)).l2range 0 j.status 16 0 true)

/-- The join engine changed. -/
def State.modJoin (s : State) (f : Join → Join) : State := { s with link := { s.link with join := f s.link.join } }

/-- A join that has ended reaches DONE or FAILED once every snapshot that it opened is closed (R439). -/
def State.joinFinish (s : State) : State :=
  match s.link.join.fin, s.link.join.snaps with
  | some f, [] => (s.joinStatus f.1 f.2.1 f.2.2 true).modJoin (fun j => { j with st := if f.1 = 0 then .done else .failed, fin := none })
  | _, _ => s

/-- The join ends with a class; what it has opened at its peers is closed first (R439). -/
def State.joinEnd (s : State) (cls detail : Nat) (opened : Bool) : State :=
  (s.modJoin (fun j => { j with st := .closing, fin := some (cls, detail, opened), out := [], again := [] })).joinFinish

/-- A join under way ends with a class (R439). -/
def State.joinStop (s : State) (cls : Nat) : State :=
  match s.link.join.st with
  | .opening => s.joinEnd cls 0 false
  | .pull => s.joinEnd cls 0 true
  | _ => s

/-! GENFENCE and RTSWAP (14 R374; 17 R426). -/

/-- The same of the forwarded commands that wait for a place since their team came back; those of a saved team are forwarded
only after its restore. -/
def State.savedFence (s : State) (tk : Nat) : State :=
  (s.team tk).saveCopies.foldl (fun st p =>
    if p.2 && (p.1.st == .queued || p.1.st == .active) && !p.1.peers.isEmpty then
      let r := st.cStop (copyAg .link p.1) (p.1.reseg st.segIn) (7, 1)
      r.1.modTeam tk (fun t => { t with saveCopies := t.saveCopies ++ [(r.2, true)] })
    else st.modTeam tk (fun t => { t with saveCopies := t.saveCopies ++ [p] })) (s.modTeam tk (fun t => { t with saveCopies := [] }))

/-- Copies with a side at a peer, which the link die forwards, end cancelled at a generation fence: class 7, DETAIL 1 (03
R67). -/
def State.copyFence (s : State) : State :=
  (s.link.copies.filter (fun (c : CopyCmd) => (c.st == .queued || c.st == .active) &&
      !c.peers.isEmpty)).foldl (fun st c =>
    let r := st.cStop (copyAg .link c) c (7, 1)
    r.1.putCmd .link r.2) ((s.teams.filter (fun t => t.2.st == .resident)).foldl (fun st t => st.savedFence t.1) s)

/-- Eager SENDs and PULLs of the old generation that wait to be sent, through a busy answer or held traffic, end as if refused:
nothing of a generation is sent under the next one (17 R427, R435; DEDUCED, log 121). -/
def State.waitFence (s : State) : State :=
  (s.link.fab.xfers.filter (fun (x : Xfer) => x.backoff && (x.kind == .msg || x.kind == .pull))).foldl
    (fun st x => st.msgReply x (some (some 1))) s

/-- The pending table becomes current and its generation is installed: collectives, receives, SENDs and forwarded copies of
the old one end. -/
def State.genfence (s : State) (t : RankTab) : State :=
  let s1 := (((((s.collFence.waitFence).noteAll (fun x => x.kind == .msg || x.kind == .rts || x.kind == .pull || x.kind == .pdata)).msgFences).copyFence).modMem (fun m => { m with cur := some t, pend := none, gen := t.gen }))
  s1.joinStop 2

/-- Receives of an old generation whose completion is still to be delivered (R374, 12 R329). -/
def State.oldReceives (s : State) : Bool :=
  s.ctxs.any (fun p => p.2.taken.any (fun (r : Recv) => decide (r.gen ≠ s.link.mem.gen) && r.cls == some 7))

/-- GENFENCE: the swap is made once, and the instruction retires when the old generation's receives have been delivered. -/
def execGenfence (d : BitVec 6) (s : State) : Host.Outcome State Fault Refusal :=
  if !s.priv then finish 4 (.trap (Trap.mk2 2 0) s)
  else run 4 s [] [s.dg d] (fun x =>
    match x.g.y.fence with
    | some f => if x.oldReceives then .block .messages x else .ok (x.setU f.1 f.2)
    | none =>
      match x.link.mem.pend.filter (fun t => t.gen ≠ x.link.mem.gen) with
      | none => .ok (x.setU (x.gn d) 0x80000000)
      | some t =>
        let y := x.genfence t
        if y.oldReceives then .block .messages (y.modY (fun z => { z with fence := some (y.gn d, t.gen.zeroExtend 32) }))
        else .ok (y.setU (y.gn d) (t.gen.zeroExtend 32)))

/-- Is a collective active or a receive posted (R374)? -/
def State.swapBusy (s : State) : Bool := !s.link.colls.isEmpty || s.ctxs.any (fun p => !p.2.posted.isEmpty)

/-- RTSWAP; where both 1 and 2 apply the manual names neither, and the answer is a free choice (log 37). -/
def execRtswap (d : BitVec 6) (s : State) : Host.Outcome State Fault Refusal :=
  if !s.priv then finish 4 (.trap (Trap.mk2 2 0) s)
  else run 4 s [] [s.dg d] (fun x =>
    match x.link.mem.pend, x.swapBusy with
    | some t, false => .ok ((x.modMem (fun m => { m with cur := some t, pend := none })).setU (x.gn d) 0)
    | some _, true => .ok (x.setU (x.gn d) 1)
    | none, false => .ok (x.setU (x.gn d) 2)
    | none, true =>
      let r := x.draw
      .ok (r.2.setU (r.2.gn d) (if Config.freeBool r.1 then 1 else 2)))

/-! The tin-cry protocol (R428 to R433). -/

/-- Word `i` of the fabric engine configuration. -/
def Member.cw (m : Member) (i : Nat) : Nat := (((m.cfg.getD []).getD i 0)).toNat
/-- AREA. -/
def Member.area (m : Member) : Nat := (m.cw 0 + 2 ^ 32 * m.cw 1) % 2 ^ 40
/-- This module's vote node. -/
def Member.vnode (m : Member) : Nat := fieldOf (m.cw 2) 16 12
/-- The nodes of this module's beats, each once (R430). -/
def Member.beatNodes (m : Member) : List Nat :=
  ((List.range 8).map (fun i => fieldOf (m.cw (4 + i)) 16 12) ++ [m.vnode]).eraseDups
/-- The pool address of a slot's record on a node (R429). -/
def Member.recAddr (m : Member) (node slot : Nat) : Nat := node * 2 ^ 40 + (m.area + 64 * slot) % 2 ^ 40
/-- Is watched entry `j` in use? -/
def Member.watches (m : Member) (j : Nat) : Bool :=
  m.cfg.isSome && decide (j < fieldOf (m.cw 3) 0 5) && decide (j < 16) && decide (fieldOf (m.cw (12 + 2 * j)) 31 1 = 1)
/-- The watched slot, its vote node and this module's bit in its ACC. -/
def Member.watched (m : Member) (j : Nat) : Nat × Nat × Nat :=
  (fieldOf (m.cw (12 + 2 * j)) 0 8, fieldOf (m.cw (13 + 2 * j)) 0 12, fieldOf (m.cw (12 + 2 * j)) 28 3)

/-- The bits set in a byte. -/
def bits8 (n : Nat) : Nat := ((List.range 8).filter (fun i => n.testBit i)).length

/-- A pool packet of the fabric engine leaves by a live port, under JOB 0 (R276; log 38); its answer's congestion echo is taken at
once (R278). -/
def State.poolPacket (s : State) (node : Nat) (it : Item) : State :=
  let dst := dstPool node
  if (s.link.fab.route dst).isEmpty then s
  else
    let q := s.link.fab.takeSeq dst
    (s.modFab (fun _ => q.2.send (s.request 0 dst q.1 [] [it]))).echo dst

/-- A beat to one node: words 0 to 3 of the record in one packet (R430). On the vote node word 1 keeps the accusations, which
nothing but the runtime withdraws (R431; DEDUCED, log 38); elsewhere it is written 0 with the others. -/
def State.beatTo (s : State) (node : Nat) : State :=
  if (s.link.fab.route (dstPool node)).isEmpty then s
  else
    let m := s.link.mem
    let a := m.recAddr node m.slot
    let hi := leBytes 4 (if m.leaving then 1 else 0) ++ leBytes 4 m.gen.toNat
    let s0 := if node = m.vnode then s else s.pwrite 1 (a + 4) (leBytes 4 0)
    let s1 := (s0.pwrite 1 a (leBytes 4 m.beat.toNat)).pwrite 1 (a + 8) hi
    s1.poolPacket node (.write (BitVec.ofNat 64 a) (leBytes 4 m.beat.toNat ++ leBytes 4 0 ++ hi))

/-- The reads of a watcher (R431): BEAT to LEAVING of a watched record, from its BNODE. -/
def State.watchRead (s : State) (j : Nat) : State :=
  let m := s.link.mem
  if m.watches j then
    let node := fieldOf (m.cw (12 + 2 * j)) 16 12
    s.poolPacket node (.read (BitVec.ofNat 64 (m.recAddr node (m.watched j).1)) 12)
  else s

/-- HEARTBEAT (R430 to R432): a fenced module does not beat; the self-check's read and the watcher's reads leave. -/
def execHeartbeat (s : State) : Host.Outcome State Fault Refusal :=
  .next (if s.link.mem.cfg.isNone then s
    else
      let s1 := if s.link.mem.fenced then s
        else
          let s2 := s.modMem (fun m => { m with beat := m.beat + 1 })
          s2.link.mem.beatNodes.foldl State.beatTo s2
      let m := s1.link.mem
      (List.range 16).foldl State.watchRead
        (s1.poolPacket m.vnode (.read (BitVec.ofNat 64 (m.recAddr m.vnode m.slot + 4)) 4)))

/-- The fenced state entered (R432): whatever this module has under way towards a module fails with code 1, which ends a SEND
with class 2 (12 R323), a join has no peer left (R439; DEDUCED, log 120), and the control processor is told. Already fenced,
nothing changes. -/
def State.enterFence (s : State) : State :=
  if s.link.mem.fenced then s
  else
    let s1 := ((((s.modMem (fun m => { m with fenced := true })).collFenced).noteAll (fun x => decide (x.dst < 256))).modFab (fun f =>
      { f with parked := [] })).joinStop 4
    let s1 := { s1 with hif := { s1.hif with fenceTold := true } }
    let s2 := (s1.link.fab.xfers.filter (fun (x : Xfer) => decide (x.dst < 256))).foldl (fun st x => st.endX x (some (some 1)) none) s1
    (s2.ctxs.flatMap (fun p => p.2.sends)).foldl (fun st c => st.sendEnd c (2, 0)) s2

/-- TRAFFIC_HOLD (R433): more than 440,000 clocks have passed since a self-check found fewer than 5 accusations. -/
def execTrafficHold (s : State) : Host.Outcome State Fault Refusal :=
  .next (if s.holding then s.modMem (fun m => { m with held := true }) else s)

/-- WATCHER_CHECK (R431): BEAT and LEAVING of watched entry `j`, or none for a read that failed. An accusation, once made,
is repeated at each later check. -/
def execWatcherCheck (j : Nat) (r : Option (W32 × Bool)) (s : State) : Host.Outcome State Fault Refusal :=
  .next (
    let m := s.link.mem
    if !m.watches j then s
    else
      let old := tget (none, 0) m.seen j
      let new : Option W32 × Nat := match r with
        | none => (old.1, old.2 + 1)
        | some b => (some b.1, if old.1 = some b.1 then old.2 + 1 else 0)
      let s1 := s.modMem (fun m => { m with seen := tset (none, 0) m.seen j new })
      let leaving := match r with | some b => b.2 | none => false
      if 4 ≤ new.2 ∨ leaving = true ∨ j ∈ m.accused then
        (s1.modMem (fun m => { m with accusing := m.accusing.erase j ++ [j], accused := m.accused.erase j ++ [j] })).poolPacket (m.watched j).2.1
          (.atom ⟨BitVec.ofNat 64 (m.recAddr (m.watched j).2.1 (m.watched j).1 + 4), .or, BitVec.ofNat 32 (2 ^ (m.watched j).2.2), 0⟩)
      else s1)

/-- ACCUSATION_RESULT (R431): the old word of ACC, or none for an accusation that failed to reach the vote node. -/
def execAccusationResult (j : Nat) (old : Option (BitVec 8)) (s : State) : Host.Outcome State Fault Refusal :=
  .next (
    let m := s.link.mem
    if !(m.watches j && m.accusing.contains j) then s
    else
      let w := m.watched j
      let s1 := s.modMem (fun m => { m with accusing := m.accusing.erase j })
      match old with
      | none =>
        let n := tget 0 m.lost j + 1
        let s2 := s1.modMem (fun m => { m with lost := tset 0 m.lost j n })
        if n = 4 then s2.event1 4 0 [BitVec.ofNat 32 w.1] else s2
      | some a =>
        let new := a.toNat ||| 2 ^ w.2.2
        let s2 := (s1.modMem (fun m => { m with lost := tset 0 m.lost j 0 })).pwrite 1 (m.recAddr w.2.1 w.1 + 4) (leBytes 4 new)
        if bits8 a.toNat < 5 ∧ 5 ≤ bits8 new then s2.event1 3 0 [BitVec.ofNat 32 w.1, BitVec.ofNat 32 new] else s2)

/-- Must-be-zero fields of a fabric engine configuration (R428). -/
def fabcfgOk (w : List W32) : Bool :=
  let n := fun (i : Nat) => (w.getD i 0).toNat
  decide (w.length = 44) && decide ((n 0 + 2 ^ 32 * n 1) % 16384 = 0) && decide (n 1 / 2 ^ 8 = 0) &&
    decide (n 2 / 2 ^ 28 = 0) && decide (fieldOf (n 2) 8 8 = 0) && decide (n 3 ≤ 16) &&
    (List.range 8).all (fun i => decide (fieldOf (n (4 + i)) 8 8 = 0) && decide (n (4 + i) / 2 ^ 28 = 0)) &&
    (List.range 16).all (fun j => decide (n (13 + 2 * j) / 2 ^ 12 = 0) && decide (fieldOf (n (12 + 2 * j)) 8 8 = 0))

/-- A configuration put in force (R428); without one before, the wait of R433 begins now (log 122). -/
def State.setFabcfg (s : State) (w : List W32) : State :=
  s.modMem (fun m =>
    { m with cfg := some w, good := if m.cfg.isSome then m.good else s.clock, slot := fieldOf (w.getD 2 0).toNat 0 8, seen := [], accusing := [], accused := [], lost := [] })

/-- The fabric engine reset (R432, R444): generation 0, no rank, not fenced. A collective in flight ends as at any change of the
generation (DEDUCED, log 120). -/
def State.resetFab (s : State) : State :=
  let s1 := s.collFenced.collForget.modMem (fun m => { Member.reset with slot := m.slot })
  { s1 with hif := { s1.hif with fenceTold := false } }

/-! The join engine (R438 to R441). -/

/-- The bytes of a stripe. -/
def stripeBytes : Nat := 2097152

/-- CRC-32C over bytes (R440): reflected polynomial 0x82F6_3B78. -/
def crc32c (l : List Byte) : Nat :=
  let bit := fun (c : Nat) => if c % 2 = 1 then (c / 2) ^^^ 0x82F63B78 else c / 2
  (l.foldl (fun c b => (List.range 8).foldl (fun x _ => bit x) (c ^^^ b.toNat)) 0xFFFFFFFF) ^^^ 0xFFFFFFFF

/-- Destination address and length of stripe `k`, counted across the regions in order (R440). -/
def stripeAt (k : Nat) : List (Nat × Nat × Nat × Nat × Nat) → Option (Nat × Nat)
  | [] => none
  | r :: rs =>
    let n := (r.2.2.2.2 + stripeBytes - 1) / stripeBytes
    if k < n then some (r.2.2.1 + k * stripeBytes, min stripeBytes (r.2.2.2.2 - k * stripeBytes)) else stripeAt (k - n) rs

/-- The number of stripes. -/
def Join.total (j : Join) : Nat := (j.regions.map (fun r => (r.2.2.2.2 + stripeBytes - 1) / stripeBytes)).sum

/-- `n` words of HBM at a device physical address. -/
def State.hbmWords (s : State) (a n : Nat) : List W32 := (List.range n).map (fun i => BitVec.ofNat 32 (s.pnum 0 (a + 4 * i) 4))

/-- The lowest bit position at fault of a join descriptor (R438, R439). -/
def State.joinBad (s : State) (w : List W32) : Option Nat :=
  let n := dWord w
  let np := fieldOf (n 1) 16 8
  let nr := fieldOf (n 1) 0 16
  let peers := s.hbmWords (dNum w 2 2 % 2 ^ 52) np
  let regs := (List.range nr).map (fun i => s.hbmWords (dNum w 4 2 % 2 ^ 52 + 32 * i) 8)
  let tab := s.rankImage (dNum w 6 2)
  let cx := s.ctx (n 10 % 65536)
  let regOk := fun (r : List W32) => decide (dWord r 0 / 65536 = 0) && decide (dNum r 2 2 % 65536 = 0) &&
    decide (dNum r 4 2 % 65536 = 0) && decide (dNum r 6 2 % 256 = 0)
  let fields : List (Nat × Bool) :=
    [(0, match tab with | some t => decide (t.slots[n 0 % 65536]? ≠ some s.link.mem.slot) | none => false),
     (16, match tab with | some t => decide (t.gen.toNat ≠ n 0 / 65536) | none => false),
     (32, decide (nr = 0 ∨ 4096 < nr)), (48, decide (np = 0 ∨ 64 < np)), (56, decide (n 1 / 2 ^ 24 ≠ 0)),
     (64, peers.any (fun p => decide (fieldOf p.toNat 8 8 ≠ 0))), (128, regs.any (fun r => !regOk r)), (192, tab.isNone),
     (256, decide (n 8 % 16 ≠ 0)), (320, !cx.live), (336, decide (n 10 / 65536 ≠ 0)), (352, decide (dNum w 11 5 ≠ 0))]
  lowest fields

/-- The peer that a stripe is asked of (R440): at first live peer `k` mod their number, in list order; again, the live peer that
follows the one that failed (log 39). -/
def Join.peerFor (j : Join) (k : Nat) (failed : Option Nat) : Nat :=
  match failed with
  | none => j.rot.getD (k % j.rot.length) 0
  | some p => ((j.rot.find? (fun q => decide (p < q))).or j.rot.head?).getD 0

/-- May a peer be asked for a stripe more (R440): 4 outstanding each, 128 in all? -/
def Join.room (j : Join) (p : Nat) : Bool :=
  decide (j.out.length < 128) && decide ((j.out.filter (fun q => decide (q.2 = p))).length < 4)

/-- One more stripe asked for: one that failed where its next peer has room, else the next of all. -/
def Join.ask1 (j : Join) (total : Nat) : Join :=
  match j.again.find? (fun q => j.room (j.peerFor q.1 (some q.2))) with
  | some q => { j with again := j.again.erase q, out := j.out ++ [(q.1, j.peerFor q.1 (some q.2))] }
  | none =>
    if j.next < total ∧ j.room (j.peerFor j.next none) = true then
      { j with out := j.out ++ [(j.next, j.peerFor j.next none)], next := j.next + 1 }
    else j

/-- Stripes asked for as long as there is room; none while module traffic is held (R440, R433). -/
def State.joinAsk (s : State) : State :=
  if s.link.mem.fenced || s.holding then s
  else s.modJoin (fun j => (List.range 128).foldl (fun x _ => x.ask1 j.total) j)

/-- The region, by its index, for which the join engine asks peer `i` for a snapshot of a version of a view: the first of them
that has none yet (R439). -/
def Join.wanted (j : Join) (i live ver : Nat) : Option Nat :=
  (List.range j.regions.length).find? (fun r => (match j.regions[r]? with
    | some x => decide (x.1 = live) && decide (x.2.1 = ver)
    | none => false) && !j.snaps.any (fun q => decide (q.1 = i) && decide (q.2.1 = r)))

/-- Is every snapshot open at every peer in rotation? -/
def Join.opened (j : Join) : Bool :=
  j.rot.all (fun i => (List.range j.regions.length).all (fun r => j.snaps.any (fun q => decide (q.1 = i) && decide (q.2.1 = r))))

/-- OPEN ends once every snapshot is open: OPENED is written, and PULL begins (R439). -/
def State.joinOpened (s : State) : State :=
  if !s.link.join.opened then s
  else
    let s1 := (s.joinStatus 0 0 true false).modJoin (fun j => { j with st := .pull })
    if s1.link.join.total = 0 then s1.joinEnd 0 0 true else s1.joinAsk

/-- Peers leave the rotation (R439, R440): their stripes are asked for again, and with no peer left the join ends with
class 4. -/
def State.joinDrop (s : State) (p : Nat → Bool) : State :=
  let s1 := s.modJoin (fun j => { j with
    rot := j.rot.filter (fun i => !p i), out := j.out.filter (fun q => !p q.2), again := j.again ++ j.out.filter (fun q => p q.2) })
  match s1.link.join.st with
  | .opening => if s1.link.join.rot.isEmpty then s1.joinEnd 4 0 false else s1.joinOpened
  | .pull => if s1.link.join.rot.isEmpty then s1.joinEnd 4 0 true else s1.joinAsk
  | _ => s

/-- The slot of peer `i` of a join. -/
def Join.slot (j : Join) (i : Nat) : Nat := (j.peers.getD i (0, 0)).2

/-- Peers that no live port reaches any more leave the rotation. -/
def State.joinReach (s : State) : State := s.joinDrop (fun i => (s.link.fab.route (s.link.join.slot i)).isEmpty)

/-- Do `len` bytes from an offset of a view lie within its PAGES of 64 KiB (R438)? -/
def inPages (x : Nat × Nat × Nat × Nat × Nat) (pages : Nat) : Bool := decide (x.2.2.2.1 + x.2.2.2.2 ≤ 65536 * pages)

/-- The answer of peer `i` to the opening of a snapshot (R439). A region beyond the view's PAGES, which the peer alone knows, is
a fault of the descriptor found here: class 1 with the bit of REGIONS (DEDUCED, log 141). -/
def State.openAt (s : State) (i : Nat) (answer : Option (Option (Nat × Nat))) (live ver : Nat) : State :=
  let j := s.link.join
  if j.st ≠ .opening ∨ j.rot.contains i = false ∨ s.link.mem.fenced = true ∨ s.holding = true then s
  else match j.wanted i live ver with
    | none => s
    | some r =>
      match answer with
      | none => s.joinDrop (fun k => decide (k = i))
      | some none => s.joinEnd 3 i false
      | some (some a) =>
        let s1 := s.modJoin (fun x => { x with snaps := x.snaps ++ [(i, r, a.1)] })
        if inPages (j.regions.getD r (0, 0, 0, 0, 0)) a.2 then s1.joinOpened else s1.joinEnd 1 128 false

/-- Peer `i` has closed a snapshot of the join engine, or does not answer (R439). -/
def State.closeAt (s : State) (i handle : Nat) : State :=
  let j := s.link.join
  if j.st ≠ .closing then s
  else (s.modJoin (fun x => { x with snaps := x.snaps.filter (fun q => !(decide (q.1 = i) && decide (q.2.2 = handle))) })).joinFinish

/-- SNAPSHOT_OPEN (03 R80): a request at a view home here, or the answer to one of the join engine's at a peer's (R439). -/
def execSnapshotOpen (at1 : SnapAt) (handle live ver : Nat) (s : State) : Host.Outcome State Fault Refusal :=
  .next (match at1 with
    | .here ctx => s.openSnap ctx handle live ver
    | .peer i answer => s.openAt i answer live ver)

/-- SNAPSHOT_CLOSE (03 R80; 17 R439). -/
def execSnapshotClose (at1 : SnapAt) (handle : Nat) (s : State) : Host.Outcome State Fault Refusal :=
  .next (match at1 with
    | .here ctx => s.closeSnap ctx handle
    | .peer i _ => s.closeAt i handle)

/-- May a spare join: it holds no rank, and has no collective active and no receive posted (R439)? -/
def State.mayJoin (s : State) : Bool := s.link.mem.rank.isNone && !s.swapBusy

/-- The reads of what a join descriptor names go through L2 (04 R82). -/
def State.joinReads (s : State) (w : List W32) : State :=
  let n := dWord w 1
  (((s.l2range 0 (dNum w 2 2 % 2 ^ 52) (4 * fieldOf n 16 8) 0 false).l2range 0 (dNum w 4 2 % 2 ^ 52) (32 * fieldOf n 0 16) 0 false).l2range
    0 (dNum w 6 2 % 2 ^ 52) 528 0 false)

/-- A join begins (R439): LOAD, then OPEN, which asks each peer for its snapshots. A module that may not join has no field at fault, and its DETAIL is a free value
(log 93). -/
def State.joinStart (s : State) (addr : Nat) : State :=
  let w := s.hbmWords addr 16
  let s1 := ((s.l2range 0 addr 64 0 false).joinReads w).modJoin (fun _ => { Join.reset with st := .opening, w := w })
  match s1.joinBad w with
  | some b => s1.joinEnd 1 b false
  | none => if s1.mayJoin = false then s1.draw.2.joinEnd 1 ((Config.freeW32 s1.free).toNat % 65536) false else
    let np := fieldOf (dWord w 1) 16 8
    let nr := fieldOf (dWord w 1) 0 16
    let peers := (s1.hbmWords (dNum w 2 2 % 2 ^ 52) np).map (fun p => (p.toNat / 65536, p.toNat % 256))
    let regs := (List.range nr).map (fun i =>
      let r := s1.hbmWords (dNum w 4 2 % 2 ^ 52 + 32 * i) 8
      (dWord r 0, dWord r 1, dNum r 2 2, dNum r 4 2, dNum r 6 2))
    let s2 := s1.collForget.modMem (fun m => { m with cur := s.rankImage (dNum w 6 2), gen := BitVec.ofNat 16 (dWord w 0 / 65536) })
    let s3 := s2.modJoin (fun j => { j with regions := regs, peers := peers, rot := List.range np })
    if s3.link.mem.fenced then s3.joinEnd 4 0 false else s3.joinReach

/-- The bytes of a stripe landed through the context's translation, in pieces of at most 64 KiB pages; the class of a
destination fault (R440). -/
def State.stripeLand (s : State) (cx va : Nat) : Nat → List Byte → Option Unit × State
  | 0, _ => (some (), s)
  | n + 1, bs =>
    match bs with
    | [] => (some (), s)
    | _ =>
      let r := s.eStore (s.collAg cx) (hbmSide 1) [(BitVec.ofNat 64 va, min 65536 bs.length)] (bs.take 65536)
      match r.1 with
      | .error _ => (none, r.2)
      | .ok _ => State.stripeLand r.2 cx (va + 65536) n (bs.drop 65536)

/-- STRIPE_LANDED (R440, R441); while module traffic is held or the module is fenced no packet of a stripe is served (R432,
R433). -/
def execStripeLanded (k : Nat) (peerCrc : W32) (err : Bool) (bytes : List Byte) (s : State) :
    Host.Outcome State Fault Refusal :=
  .next (
    let j := s.link.join
    match stripeAt k j.regions, j.out.find? (fun q => decide (q.1 = k)) with
    | some p, some q =>
      if j.st ≠ .pull ∨ bytes.length ≠ p.2 ∨ s.link.mem.fenced = true ∨ s.holding = true then s
      else
        let l := (s.modJoin (fun x => { x with out := x.out.erase q })).stripeLand (dWord j.w 10 % 65536) p.1 32 bytes
        match l.1 with
        | none => l.2.joinEnd 6 0 true
        | some _ =>
          if err || decide (crc32c bytes ≠ peerCrc.toNat) then
            let n := tget 0 j.fails k + 1
            if 3 ≤ n then l.2.joinEnd 5 k true
            else (l.2.modJoin (fun x =>
              { x with fails := tset 0 x.fails k n, retry := min 65535 (x.retry + 1), again := x.again ++ [q] })).joinAsk
          else
            let s1 := l.2.modJoin (fun x => { x with landed := x.landed ++ [k] })
            if s1.link.join.landed.length = j.total then s1.joinEnd 0 0 true else s1.joinAsk
    | _, _ => s)

/-! Traffic that goes on (R433). -/

/-- Module traffic goes on (R433): packets of dead ports that were held back leave, and stripes are asked for again. -/
def State.unpark (s : State) : State :=
  let s1 := s.link.fab.parked.foldl State.reroute (s.modFab (fun f => { f with parked := [] }))
  if s1.link.join.st = .pull then s1.joinAsk else s1

/-- SELF_CHECK_RESULT (R432, R433): ACC of this module's record, or none for a read that failed. -/
def execSelfCheckResult (acc : Option (BitVec 8)) (s : State) : Host.Outcome State Fault Refusal :=
  .next (match acc with
    | none => s
    | some a =>
      if s.link.mem.cfg.isNone then s
      else if 5 ≤ bits8 a.toNat then s.enterFence
      else (s.modMem (fun m => { m with held := false, good := s.clock })).unpark)

/-! Ports that die (11 R277). -/

/-- PORT_DEAD. -/
def execPortDead (port : Nat) (s : State) : Host.Outcome State Fault Refusal :=
  .next (if port < 18 ∧ (s.link.fab.port port).dead = false then (s.killPort port).joinReach else s)

/-- FLIT_RETRANSMIT: the sixteenth failure of one flit ends the port. -/
def execFlitRetransmit (port : Nat) (s : State) : Host.Outcome State Fault Refusal :=
  .next (
    let q := s.link.fab.port port
    if q.dead ∨ q.buf = [] then s
    else if 16 ≤ q.fails + 1 then (s.killPort port).joinReach
    else s.modFab (fun f => f.modPort port (fun x => { x with fails := x.fails + 1 })))

end Sys2Proof.Machine
end

