-- ==== Sys2Proof/Machine/Sys.lean ====
section
/-! DEFINITION. The SYS members that act on the group, its registers and the translations (spec/14 R368 to R375;
05 R116 to R119; 16 R408 to R411; 02 R37). -/

namespace Sys2Proof.Machine

/-- NOP. -/
def execNop (s : State) : Host.Outcome State Fault Refusal := run 4 s [] [] (fun x => .ok x)

/-- May the group exit (R369): its open streams have nothing left to drain and its SENDs have written status? -/
def Group.mayExit (g : Group) : Bool :=
  g.s0.stage.isEmpty && g.s1.stage.isEmpty && decide (g.y.sends = 0) && !g.y.pend.any (fun p => p.path == some 6)

/-- Every barrier of a team looked at again after one of its groups has exited (R362, R363). -/
def State.recheck (s : State) (tk : Nat) : State := ((List.range 8).foldl (fun st n => st.barCheck tk n) s).cbarCheck tk

/-- The current group exits: its streams close, and it leaves its quadrant and the team's barriers. -/
def State.exitG (s : State) : State :=
  let s1 := s.modG (fun g => { g with s0 := Stream.reset, s1 := Stream.reset, y := { g.y with status := .exited } })
  (s1.modQuad s.cn (quadOf s.cur) (fun q => q.drop s.cur)).recheck (teamOf s.cur)

/-- EXIT (R369). -/
def execExit (s : State) : Host.Outcome State Fault Refusal :=
  run 4 s [] [] (fun x => if x.g.mayExit then .gone x.exitG else .block .exit ((x.modStream false Stream.ask).modStream true Stream.ask))

/-- TRAP (R370). -/
def execTrap (a : Sel) (s : State) : Host.Outcome State Fault Refusal :=
  run 4 s [a] [] (fun x => .trapNext (Trap.mk2 0x19 ((x.uniVal a.src).zeroExtend 64)) x)

/-- BRKPT (R370). -/
def execBrkpt (s : State) : Host.Outcome State Fault Refusal := run 4 s [] [] (fun x => .trap ⟨0x1A, 0, 0, 0⟩ x)

/-- The current group gives its position up (R371): to the FIFO's head in Invar mode, otherwise to the first group
there that can issue. With no such group it takes its own position again. -/
def State.yieldG (s : State) : State :=
  let q := (s.core s.cn).quad (quadOf s.cur)
  match q.posOf s.cur, (if s.coreInvar s.cn then q.fifo.head? else q.fifo.find? s.isReady) with
  | some p, some h => s.modQuad s.cn (quadOf s.cur) (fun q => q.take p h)
  | _, _ => s

/-- YIELD. -/
def execYield (s : State) : Host.Outcome State Fault Refusal := run 4 s [] [] (fun x => .ok x.yieldG)

/-! System registers (05 R116; 16 R409, R411). -/

/-- A half of a 64-bit register. -/
def wordHalf (v : W64) (hi : Bool) : W32 := if hi then v.extractLsb' 32 32 else v.truncate 32

/-- A half of a 64-bit register replaced. -/
def setWordHalf (v : W64) (hi : Bool) (x : W32) : W64 :=
  if hi then x ++ (v.truncate 32 : W32) else (v.extractLsb' 32 32 : W32) ++ x

/-- The value of a system register of the current group; none for a number that names none. -/
def State.sysRead (s : State) (n : Nat) : Option W32 :=
  let y := s.g.sys
  let c := s.x
  match n with
  | 0x000 => some y.fpflags
  | 0x001 => some y.rmode
  | 0x002 => some y.srkey
  | 0x003 => some y.srcnt
  | 0x100 => some (wordHalf c.tvec false)
  | 0x101 => some (wordHalf c.tvec true)
  | 0x102 => some y.tcause
  | 0x103 => some y.tepc
  | 0x104 => some (wordHalf y.taddr false)
  | 0x105 => some (wordHalf y.taddr true)
  | 0x106 => some (y.tmask.zeroExtend 32)
  | 0x107 => some (y.texm.zeroExtend 32)
  | 0x10C => some (BitVec.ofNat 32 (2 * y.ss.toNat + y.hm.toNat))
  | 0x110 => some (BitVec.ofNat 32 (c.sup.toNat * 65536 + s.t.ctx % 65536))
  | 0x111 => some (c.asid.zeroExtend 32)
  | 0x112 => some (wordHalf c.vtbase false)
  | 0x113 => some (wordHalf c.vtbase true)
  | 0x114 => some (wordHalf c.tcbbase false)
  | 0x115 => some (wordHalf c.tcbbase true)
  | 0x116 => some (wordHalf c.ctbase false)
  | 0x117 => some (wordHalf c.ctbase true)
  | 0x118 => some (wordHalf c.qtbase false)
  | 0x119 => some (wordHalf c.qtbase true)
  | 0x11A => some (c.fjob.zeroExtend 32)
  | 0x11B => some (c.dbg.zeroExtend 32)
  | 0x120 => some y.accxfer
  | 0x121 => some (y.accimg.truncate 32)
  | 0x122 => some ((y.accimg.extractLsb' 32 20).zeroExtend 32)
  | _ => none

/-- The context of the current group changed. -/
def State.modX (s : State) (f : Ctx → Ctx) : State := s.modCtx s.t.ctx f

/-- A system register written; reserved bits and read-only registers keep their values (R409). -/
def State.sysWrite (s : State) (n : Nat) (v : W32) : State :=
  match n with
  | 0x000 => s.modSys (fun y => { y with fpflags := v &&& 0xF })
  | 0x001 => s.modSys (fun y => { y with rmode := if fieldOf v.toNat 0 3 < 5 then v &&& 7 else 0 })
  | 0x002 => s.modSys (fun y => { y with srkey := v })
  | 0x003 => s.modSys (fun y => { y with srcnt := v })
  | 0x100 => s.modX (fun c => { c with tvec := setWordHalf c.tvec false v })
  | 0x101 => s.modX (fun c => { c with tvec := setWordHalf c.tvec true (v &&& 0x1FFFFFF) })
  | 0x102 => s.modSys (fun y => { y with tcause := v &&& 0xFFFF })
  | 0x103 => s.modSys (fun y => { y with tepc := v })
  | 0x104 => s.modSys (fun y => { y with taddr := setWordHalf y.taddr false v })
  | 0x105 => s.modSys (fun y => { y with taddr := setWordHalf y.taddr true v })
  | 0x106 => s.modSys (fun y => { y with tmask := v.truncate 16 })
  | 0x107 => s.modSys (fun y => { y with texm := v.truncate 16 })
  | 0x10C => s.modSys (fun y => { y with ss := v.getLsbD 1 })
  | 0x112 => s.modX (fun c => { c with vtbase := setWordHalf c.vtbase false v })
  | 0x113 => s.modX (fun c => { c with vtbase := setWordHalf c.vtbase true v })
  | 0x114 => s.modX (fun c => { c with tcbbase := setWordHalf c.tcbbase false v })
  | 0x115 => s.modX (fun c => { c with tcbbase := setWordHalf c.tcbbase true v })
  | 0x116 => s.modX (fun c => { c with ctbase := setWordHalf c.ctbase false v })
  | 0x117 => s.modX (fun c => { c with ctbase := setWordHalf c.ctbase true v })
  | 0x118 => s.modX (fun c => { c with qtbase := setWordHalf c.qtbase false v })
  | 0x119 => s.modX (fun c => { c with qtbase := setWordHalf c.qtbase true v })
  | 0x11A => s.modX (fun c => { c with fjob := v.truncate 16 })
  | 0x11B => s.modX (fun c => { c with dbg := v.truncate 2 })
  | 0x120 => s.modSys (fun y => { y with accxfer := v })
  | 0x121 => s.modSys (fun y => { y with accimg := (y.accimg.extractLsb' 32 20 : BitVec 20) ++ v })
  | 0x122 => s.modSys (fun y => { y with accimg := (v.truncate 20 : BitVec 20) ++ (y.accimg.truncate 32 : W32) })
  | _ => s

/-- The checks of a register number (R372, R116): an unassigned one, then a privileged one. -/
def State.sysCheck (s : State) (n : Nat) : Option Trap :=
  if (s.sysRead n).isNone then some (Trap.mk2 1 0)
  else if 0x100 ≤ n ∧ s.priv = false then some (Trap.mk2 2 0)
  else none

/-- SRD. -/
def execSrd (d : BitVec 6) (a : Sel) (s : State) : Host.Outcome State Fault Refusal :=
  run 4 s [a] [s.dg d] (fun x =>
    let n := (x.uniVal a.src).toNat
    match x.sysCheck n with
    | some t => .trap t x
    | none => .ok (x.setU (x.gn d) ((x.sysRead n).getD 0)))

/-- A write of ACCXFER (16 R413): it waits as TACQ waits, then until the image has been stored or loaded. -/
def State.accXfer (s : State) (v : W32) : Res :=
  let n := v.toNat % 4
  match s.g.y.accx with
  | some true => .ok s
  | some false => .block .accum s
  | none =>
    if v.toNat / 16 ≠ 0 then .trap (Trap.mk2 0xF 3) s
    else if v.getLsbD 3 ∧ s.t.accMap.length ≤ n then .trap (Trap.mk2 0xF 2) s
    else if v.getLsbD 3 ∧ s.owns (teamOf s.cur) (s.t.phys n) = false then .trap (s.ownerTrap (teamOf s.cur) n) s
    else if s.tileBusy s.cn (if v.getLsbD 3 then s.t.phys n else n) then .block .accum s
    else .block .accum ((s.sysWrite 0x120 v).modY (fun y => { y with accx := some false }))

/-- SWR. -/
def execSwr (n : BitVec 6) (a : Sel) (s : State) : Host.Outcome State Fault Refusal :=
  run 4 s [a, blk (.g n)] [] (fun x =>
    let k := (x.uniVal (.g n)).toNat
    let v := x.uniVal a.src
    match x.sysCheck k with
    | some t => .trap t x
    | none => if k = 0x120 then x.accXfer v else .ok (x.sysWrite k v))

/-! ERET (R373; 16 R411, R416, R419). -/

/-- The group of an ERET: threads that had not sent are remembered only if it returns to their instruction. -/
def Group.doEret (g : Group) (cb : W64) : Group :=
  let pc := cb + g.sys.tepc.zeroExtend 64
  let h := (g.retire pc).eret cb
  { h with y := { h.y with unsent := match h.y.unsent with
      | some u => if u.1 = pc then some u else none
      | none => none } }

/-- ERET. A TEPC that is no multiple of 4 raises the instruction-fetch fault at the ERET (06 R134), a double trap there. -/
def execEret (s : State) : Host.Outcome State Fault Refusal :=
  run 4 s [] [] (fun x =>
    if !x.g.sys.hm then .trap (Trap.mk2 1 0) x
    else if (x.l.cb + x.g.sys.tepc.zeroExtend 64).toNat % 4 ≠ 0 then .trap (Trap.mk2 3 (x.l.cb + x.g.sys.tepc.zeroExtend 64)) x
    else .gone (x.modG (fun g => g.doEret x.l.cb)))

/-! TLBI (R375; 02 R37). -/

/-- What a TLBI names: the ASID, none for all, and its range of virtual addresses. -/
structure Shoot where
  asid : Option (BitVec 13)
  lo : Nat
  hi : Nat

/-- The range of a TLBI's registers. -/
def shootOf (w : List W32) : Shoot :=
  let g := fun (i : Nat) => (w.getD i 0).toNat
  let lo := g 1 * 65536 + fieldOf (g 2) 0 9 * 2 ^ 48
  ⟨if fieldOf (g 0) 31 1 = 1 then none else some (BitVec.ofNat 13 (g 0)),
   if g 3 = 0 then 0 else lo, if g 3 = 0 then 2 ^ 57 else lo + g 3 * 65536⟩

/-- Does a page of an address space lie in the range? -/
def Shoot.hits (x : Shoot) (asid : BitVec 13) (va size : Nat) : Bool :=
  (x.asid == none || x.asid == some asid) && decide (va < x.hi) && decide (x.lo < va + size)

/-- Entries of a holder that stay. -/
def Shoot.keep (x : Shoot) (l : List TlbEntry) : List TlbEntry := l.filter (fun t => !x.hits t.asid t.va (pageBytes t.psz))

/-- The BT registers of a group that stay. -/
def Shoot.bts (x : Shoot) (asid : BitVec 13) (r : Regs) : Regs :=
  { r with bt := r.bt.filter (fun p =>
      let size := pageBytes p.2.psz.toNat
      !x.hits asid ((rBase (r.getB p.1)).toNat % 2 ^ 57 / size * size) size) }

/-- The HBM frames of translations that a TLBI covers, held in a cache still or not, whose pages are no longer mapped to them
(02 R39): base and size. -/
def State.oldFrames (s : State) (x : Shoot) : List (Nat × Nat) :=
  (s.maps.filter (fun t =>
    x.hits t.asid t.va (pageBytes t.psz) && decide (fieldOf t.leaf.toNat 8 2 = 0) && !s.leads t)).map (fun t =>
      (entryAddr t.leaf.toNat, pageBytes t.psz))

/-- The lines that a controller keeps when frames are unmapped (02 R39): their dirty lines are written back and dropped,
and their pin no longer applies. -/
def Stack.unmap (k : Stack) (fs : List (Nat × Nat)) : Stack :=
  let old := fun (l : L2Line) => fs.any (fun f => decide (f.1 ≤ l.addr * 256) && decide (l.addr * 256 < f.1 + f.2))
  { k with sets := k.sets.map (fun p => (p.1,
      (p.2.filter (fun l => !(l.dirty && old l))).map (fun l => { l with pinned := l.pinned && !old l }))) }

/-- The frames of a die to which no pin applies any more (02 R39). -/
def Die.unmap (d : Die) (i : Nat) (fs : List (Nat × Nat)) : Die :=
  { d with nopin := d.nopin ++ fs.filter (fun f => decide (dieOfPa f.1 = i) && !d.nopin.contains f) }

/-- Every holder on the three dies gives up the entries of the range (02 R37), view entries of its contexts among them (03
R81), and L2 what it holds of pages that are no longer mapped (02 R39). -/
def State.shoot (s : State) (x : Shoot) : State :=
  let fs := s.oldFrames x
  State.dropViews { s with
    cores := s.cores.map (fun c => (c.1, { c.2 with tlb := x.keep c.2.tlb, ctlb := x.keep c.2.ctlb }))
    link := { s.link with tlb := x.keep s.link.tlb }
    maps := s.maps.filter (fun t => !x.hits t.asid t.va (pageBytes t.psz) || s.leads t)
    stks := s.stks.map (fun k => (k.1, k.2.unmap fs))
    dies := if fs.isEmpty then s.dies else
      (List.range 2).foldl (fun t i => tset Die.reset t i ((tget Die.reset t i).unmap i fs)) s.dies
    groups := s.groups.map (fun g => (g.1, { g.2 with r := x.bts (s.ctxG g.1).asid g.2.r })) }
    (fun c _ => x.asid == none || x.asid == some (s.ctx c).asid)

/-! Migrations that wait for a TLBI (02 R42). -/

/-- Does a leaf of a page of some size lead into one of two frames of a migrated page: target, base? -/
def Mig.leafIn (e : Mig) (tgt base leaf psz : Nat) : Bool :=
  decide (fieldOf leaf 8 2 = tgt) && decide (entryAddr leaf < base + e.size) && decide (base < entryAddr leaf + pageBytes psz)

/-- Does a translation that is still in use lead to a move's old frame? -/
def Mig.oldUsed (e : Mig) (l : List TlbEntry) : Bool :=
  l.any (fun t => e.leafIn e.otgt e.old t.leaf.toNat t.psz)

/-- The leaves below a table of some level (02 R31): virtual address, page size, leaf. -/
def State.leavesAt (s : State) : Nat → Nat → Nat → List (Nat × Nat × Nat)
  | 0, va, tab => (List.range 32).filterMap (fun i =>
      let e := s.pnum 0 (tab + 8 * i) 8
      if s.inHbm (tab + 8 * i) && entryOk e && decide (fieldOf e 1 1 = 1) then some (va + i * 2 ^ 16, 0, e) else none)
  | lvl + 1, va, tab => (List.range 512).flatMap (fun i =>
      let e := s.pnum 0 (tab + 8 * i) 8
      let v := va + i * 2 ^ (21 + 9 * lvl)
      if s.inHbm (tab + 8 * i) && entryOk e then
        if fieldOf e 1 1 = 1 then (if lvl ≤ 1 then [(v, lvl + 1, e)] else [])
        else if fieldOf e 8 2 = 0 then State.leavesAt s lvl v (entryAddr e) else []
      else [])

/-- The leaves of an address space (02 R30, R31). -/
def State.leavesOf (s : State) (asid : BitVec 13) : List (Nat × Nat × Nat) :=
  let e := s.pnum 0 (s.astbase.toNat + 8 * asid.toNat) 8
  if s.inHbm (s.astbase.toNat + 8 * asid.toNat) && decide (e % 4096 = 1) && decide (e < 2 ^ 52)
  then s.leavesAt 4 0 (entryAddr e) else []

/-- The address spaces of the contexts. -/
def State.asids (s : State) : List (BitVec 13) := ((s.ctxs.filter (fun p => p.2.live)).map (fun p => p.2.asid)).eraseDups

/-- Is a move's page table entry rewritten (02 R42): no page leads to the old frame, none in a table and none in a
translation still in use, and one for which `p` holds leads to the new one? -/
def State.rewritten (s : State) (e : Mig) (p : BitVec 13 → Nat → Nat → Bool) : Bool :=
  let l := s.asids.flatMap (fun a => (s.leavesOf a).map (fun x => (a, x)))
  !e.oldUsed s.maps && !l.any (fun x => e.leafIn e.otgt e.old x.2.2.2 x.2.2.1) &&
    l.any (fun x => e.leafIn e.ntgt e.new x.2.2.2 x.2.2.1 && p x.1 x.2.1 (pageBytes x.2.2.1))

/-- Does a move wait for its TLBI (02 R42): an inbound one before its first line, an outbound one after its last? -/
def Mig.waits (e : Mig) : Bool := e.st == .done || (e.st == .moving && decide (e.otgt ≠ 0) && !e.run)

/-- The moves whose own TLBI this is (02 R42): those whose page table entry has been rewritten, the TLBI's range covering
the page (DEDUCED, log 40). -/
def State.ownTlbi (s : State) (gk : Nat) (x : Shoot) : State :=
  { s with stks := s.stks.map (fun k => (k.1, { k.2 with mig := k.2.mig.map (fun p =>
      (p.1, if p.2.waits && s.rewritten p.2 (fun a va n => x.hits a va n) then { p.2 with tlb := some gk } else p.2)) })) }

/-- TLBI. -/
def execTlbi (g : BitVec 6) (s : State) : Host.Outcome State Fault Refusal :=
  if !s.priv then finish 4 (.trap (Trap.mk2 2 0) s)
  else run 4 s (blockSels g 4) [] (fun x =>
    let w := x.cmds g 4
    match x.g.y.tlbi with
    | some true => .ok x
    | some false => .block .shootdown x
    | none =>
      if fieldOf (w.getD 0 0).toNat 13 18 ≠ 0 ∨ fieldOf (w.getD 2 0).toNat 9 23 ≠ 0 then .trap (Trap.mk2 1 0) x
      else .block .shootdown (((x.shoot (shootOf w)).ownTlbi x.cur (shootOf w)).modY (fun y => { y with tlbi := some false })))

/-- Are all the transfers to translated memory of this module's own translations acknowledged? -/
def State.drainedAll (s : State) : Bool := s.link.fab.xfers.all (fun x => decide (x.dst < 0x8000))

end Sys2Proof.Machine
end

