-- ==== Sys2Proof/Machine/Memsys.lean ====
section
/-! DEFINITION. Steps of the memory system: L2 range registers and pin sweeps, requests at a scratchpad home, long-latency
writes, and page migration (spec/02 R40 to R43; 04 R86 to R93; 05 R111). -/

namespace Sys2Proof.Machine

/-! L2 (04 R86 to R88). -/

/-- The writable bits of a range register. -/
def l2rngMask : BitVec 128 := BitVec.ofNat 128 ((2 ^ 36 - 1) * 2 ^ 64 + 2 ^ 60 * 15 + (2 ^ 36 - 1))

/-- L2_RANGE_WRITE: L2RNG0 to L2RNG7 of a die, and L2PQ as number 8. -/
def execL2RangeWrite (die idx : Nat) (v : BitVec 128) (s : State) : Host.Outcome State Fault Refusal :=
  .next (if 2 ≤ die then s
    else if idx < 8 then s.modDie die (fun d => { d with l2rng := tset 0 d.l2rng idx (v &&& l2rngMask) })
    else if idx = 8 then s.modDie die (fun d => { d with l2pq := v.truncate 4 })
    else s)

/-- L2_PIN_SWEEP (R88): every resident line of a controller takes its pin status anew, also beyond its set's quota (DESIGN
CHOICE, log 131). -/
def execL2PinSweep (stack : Nat) (s : State) : Host.Outcome State Fault Refusal :=
  .next (if 8 ≤ stack then s
    else s.modStk stack (fun k =>
      { k with sets := k.sets.map (fun p => (p.1, p.2.map (fun (l : L2Line) => { l with pinned := s.pinned (l.addr * 256) }))) }))

/-! Scratchpad homes (04 R92). -/

/-- DIRECTORY_REQUEST: a read, write or eviction of a coherent segment by a core of its die. -/
def execDirectoryRequest (die core seg : Nat) (r : DirReq) (s : State) : Host.Outcome State Fault Refusal :=
  .next (if dieOf core ≠ die ∨ 2 ≤ die ∨ ((s.die die).region seg).isNone = true ∨ (s.die die).soft seg = true then s
    else match r with
      | .read => s.dirRead core seg
      | .write => s.dirWrite core seg
      | .evict =>
        match (s.core core).segs.find? (fun x => decide (x.seg = seg)) with
        | some c => s.evictSeg core c
        | none => s)

/-! Returns (05 R111). -/

/-- LONG_LATENCY_WRITE: the `i`th write on its way to a group lands. -/
def execLongLatencyWrite (gk i : Nat) (s : State) : Host.Outcome State Fault Refusal := .next (s.deliver gk i)

/-! Migration (02 R40 to R43). -/

/-- A migration entry of a controller. -/
def Stack.entry (k : Stack) (i : Nat) : Mig := tget Mig.reset k.mig i
/-- A migration entry changed. -/
def State.setMig (s : State) (stack i : Nat) (e : Mig) : State :=
  s.modStk stack (fun k => { k with mig := tset Mig.reset k.mig i e })

/-- An HBM line out of its controller's L2; its entry, if it was resident. -/
def State.l2drop (s : State) (pa : Nat) : Option L2Line × State :=
  let pl := s.place pa
  let set := pl.2 / 256 % 4096 % 3072
  let ls := tget [] (s.stk (pl.1 / 32)).sets set
  match ls.find? (fun l => decide (l.addr = pa / 256)) with
  | none => (none, s)
  | some l => (some l, s.modStk (pl.1 / 32) (fun k => { k with sets := tset [] k.sets set (ls.erase l) }))

/-- A line fetched into the L2 of its controller as a pinned one, of a given class (R41). -/
def State.l2refetch (s : State) (pa cls : Nat) : State :=
  let pl := s.place pa
  let set := pl.2 / 256 % 4096 % 3072
  s.modStk (pl.1 / 32) (fun k =>
    match k.evict (s.die (dieOfPa pa)).l2pq.toNat true (tget [] k.sets set) with
    | none => k
    | some rest =>
      let l : L2Line := ⟨pa / 256, cls, if 4 ≤ cls then tget 0 k.epochs (cls - 4) else 0, false, true⟩
      { k with sets := tset [] k.sets set (l :: rest) })

/-- A move from one frame to another as it is entered (R40, R42). -/
def moveOf (old otgt new ntgt : Nat) (big : Bool) : Mig := ⟨.moving, old, otgt, new, ntgt, big, 0, false, none, none⟩

/-- Is a move inbound: its old frame lies in pool or host memory (R42)? -/
def Mig.inbound (e : Mig) : Bool := decide (e.otgt ≠ 0)

/-- A line read at its own frame: by a packet where that lies in pool memory (11 R279); none where that fails. -/
def State.lineRead (s : State) (tgt pa : Nat) : Option (List Byte) × State :=
  if tgt = 1 then
    let r := s.poolAsk 0 (.read (BitVec.ofNat 64 pa) 256)
    (if r.1 = none then some (mread r.2.pool pa 256) else none, r.2)
  else (some (mread (s.image tgt) pa 256), s)

/-- A line written at its own frame, by a packet where that lies in pool memory (11 R279); and whether it was. -/
def State.lineWrite (s : State) (tgt pa : Nat) (bs : List Byte) : Bool × State :=
  if tgt = 1 then
    let r := s.poolAsk 0 (.write (BitVec.ofNat 64 pa) bs)
    if r.1 = none then (true, { r.2 with pool := mwrite r.2.pool pa bs }) else (false, r.2)
  else (true, s.setImage tgt (mwrite (s.image tgt) pa bs))

/-- PROG moved on past a line that has been copied (R41): a dirty pinned line of L2 follows under its pin and class. At the
end of the page the entry is DONE, and RETIRED where its TLBI has retired before (R42). -/
def State.migOn (s : State) (stack i : Nat) (e : Mig) : State :=
  let o := e.prog * 256
  let d := if e.otgt = 0 then s.l2drop (e.old + o) else (none, s)
  let s1 := match d.1 with
    | some l => if l.pinned && l.dirty && e.ntgt == 0 then d.2.l2refetch (e.new + o) l.cls else d.2
    | none => d.2
  s1.setMig stack i { e with
    prog := e.prog + 1
    asked := none
    st := if o + 256 < e.size then .moving else if e.inbound then .retired else .done }

/-- The host's fault request of an entry answered 0 as its first line moves: none can win against it any more (R43; DEDUCED,
log 137). -/
def State.migTold (s : State) (e : Mig) : State :=
  match e.asked with
  | some (_, some slot) => s.mbox slot 0 0 0
  | _ => s

/-- One line of a moving page copied, and PROG moved on (R41). A line whose packet fails stays where it is, and a later step
copies it (DESIGN CHOICE, log 137). -/
def State.migLine (s : State) (stack i : Nat) (e : Mig) : State :=
  let o := e.prog * 256
  let r := s.lineRead e.otgt (e.old + o)
  match r.1 with
  | none => r.2
  | some bs =>
    let w := r.2.lineWrite e.ntgt (e.new + o) bs
    if w.1 then (w.2.migTold e).migOn stack i e else w.2

/-- MIGRATION_STEP: an inbound move fetches lines only once its TLBI has retired (R42). -/
def execMigrationStep (stack i : Nat) (s : State) : Host.Outcome State Fault Refusal :=
  .next (
    let e := (s.stk stack).entry i
    if e.st = .moving ∧ (e.inbound = false ∨ e.run = true) then s.migLine stack i e else s)

/-- Does an entry in force concern a page's frame? -/
def Mig.covers (e : Mig) (tgt pa size : Nat) : Bool :=
  (e.st == .moving || e.st == .done) &&
    ((decide (e.otgt = tgt) && decide (e.old < pa + size) && decide (pa < e.old + e.size)) ||
     (decide (e.ntgt = tgt) && decide (e.new < pa + size) && decide (pa < e.new + e.size)))

/-- Is a frame already concerned by an entry? -/
def State.migrating (s : State) (tgt pa size : Nat) : Bool :=
  s.stks.any (fun k => k.2.mig.any (fun p => p.2.covers tgt pa size))

/-- The controller of a move: that of its HBM frame's first byte, of the old frame where both lie on HBM (R40, R41). The
manual says only that the entry sits at the HBM end; a page's granules are spread over the stacks (DESIGN CHOICE, log 102). -/
def Mig.home (s : State) (e : Mig) : Option Nat :=
  if e.otgt = 0 then some (s.stackOf e.old) else if e.ntgt = 0 then some (s.stackOf e.new) else none

/-- May an entry begin: aligned frames, one of them on HBM, neither concerned by another entry? -/
def State.migOk (s : State) (e : Mig) : Bool :=
  decide (e.old % e.size = 0) && decide (e.new % e.size = 0) && (Mig.home s e).isSome && decide (e.otgt < 3) && decide (e.ntgt < 3) &&
    (decide (e.otgt ≠ 0) || s.inHbm e.old) && (decide (e.ntgt ≠ 0) || s.inHbm e.new)

/-- Clocks in which a side that lost does not repeat its fault request (R43). -/
def repeatWait : Nat := 70400

/-- The answer "served remotely" to a fault request (R43): in the mailbox slot of the host's, else to the device. -/
def State.faultTold (s : State) (host : Option Nat) : State :=
  match host with
  | some slot => s.mbox slot 0 2 0
  | none => { s with hif := { s.hif with fault := some true } }

/-- A fault request that loses (R43): its access goes to wherever the page stands, and its side may ask again after 64 µs. -/
def State.faultLost (s : State) (k tgt page : Nat) (host : Option Nat) : State :=
  (s.modStk k (fun q =>
    { q with lost := (tgt, page, host.isSome, s.clock) ::
        q.lost.filter (fun x => !(decide (x.1 = tgt) && decide (x.2.1 = page) && x.2.2.1 == host.isSome)) })).faultTold host

/-- Is a fault request an early repeat (R43)? -/
def Stack.early (k : Stack) (tgt page : Nat) (host : Bool) (now : Nat) : Bool :=
  k.lost.any (fun x => decide (x.1 = tgt) && decide (x.2.1 = page) && x.2.2.1 == host && decide (now < x.2.2.2 + repeatWait))

/-- The HBM end of a move. -/
def Mig.hbmEnd (e : Mig) : Nat := if e.otgt = 0 then e.old else e.new

/-- Do `n` bytes lie in a range that a range register pins (04 R87)? -/
def Die.pinsAll (d : Die) (pa n : Nat) : Bool :=
  (List.range 8).any (fun i =>
    let r := (tget 0 d.l2rng i).toNat
    decide (fieldOf r 63 1 = 1) && decide (fieldOf r 0 36 * 65536 ≤ pa) && decide (pa + n ≤ fieldOf r 64 36 * 65536))

/-- Does a fault request of a side win against an entry of the other side's in the same clock (R43): the device where the page
lies in a pinned range, else the host? -/
def State.tieWon (s : State) (e : Mig) (host : Bool) : Bool :=
  (match e.asked with
    | some (c, o) => decide (c = s.clock) && o.isSome == !host
    | none => false) &&
  e.st == .moving && decide (e.prog = 0) && (s.die (dieOfPa e.hbmEnd)).pinsAll e.hbmEnd e.size == !host

/-- The entry, by its stack and index, that concerns a page and that a fault request of a side wins against (R43). -/
def State.tieAt (s : State) (tgt pa size : Nat) (host : Bool) : Option (Nat × Nat × Mig) :=
  s.stks.findSome? (fun k => (k.2.mig.find? (fun p => p.2.covers tgt pa size && s.tieWon p.2 host)).map (fun p => (k.1, p.1, p.2)))

/-- A fault request entered at the lowest free entry of a stack, and answered so: the device at once, the host as its first
line moves (log 137). -/
def State.faultWon (s : State) (k : Nat) (e : Mig) (host : Option Nat) : State :=
  match (List.range 64).find? (fun i => ((s.stk k).entry i).st == .idle || ((s.stk k).entry i).st == .retired) with
  | none => s.faultLost k e.otgt e.old host
  | some i =>
    let s1 := s.setMig k i { e with asked := some (s.clock, host) }
    if host.isSome then s1 else { s1 with hif := { s1.hif with fault := some false } }

/-- A fault request (R43): a page on the far side is moved towards the side that asks. The first request for a page wins, in one
clock the one that R43 names; the other, an early repeat, one whose frames cannot move, and one that finds no entry free (log
40) are answered "served remotely". -/
def State.faultReq (s : State) (pa tgt dst : Nat) (big : Bool) (host : Option Nat) : State :=
  let e := moveOf pa tgt dst (if host.isSome then 2 else 0) big
  let far := if host.isSome then decide (tgt = 0) else decide (tgt = 1 ∨ tgt = 2)
  match Mig.home s e with
  | none => s
  | some k =>
    if !far then s
    else if (s.stk k).early tgt pa host.isSome s.clock then s.faultTold host
    else if !s.migOk e then s.faultLost k tgt pa host
    else
      let s1 := match s.tieAt tgt pa e.size host.isSome with
        | some (k1, i, o) =>
          (s.setMig k1 i { o with st := .idle, asked := none }).faultLost k1 o.otgt o.old (o.asked.bind (fun a => a.2))
        | none => s
      if s1.migrating tgt pa e.size || s1.migrating e.ntgt dst e.size then s.faultLost k tgt pa host else s1.faultWon k e host

/-- What the retirement of a TLBI does to the moves whose own it was (R42): an inbound move may fetch, an outbound one that
is DONE retires. -/
def State.migRetire (s : State) (gk : Nat) : State :=
  { s with stks := s.stks.map (fun k => (k.1, { k.2 with mig := k.2.mig.map (fun p =>
      (p.1, if p.2.tlb = some gk ∧ p.2.waits = true then
          (if p.2.st = .done then { p.2 with st := .retired, tlb := none } else { p.2 with run := true, tlb := none })
        else p.2)) })) }

/-- TLBI_DRAINED (R37): every access under an old translation has been performed; moves that waited for it go on (R42). -/
def execTlbiDrained (gk : Nat) (s : State) : Host.Outcome State Fault Refusal :=
  .next (if (s.grp gk).y.tlbi = some false ∧ s.drainedAll = true then
      ((s.modGrp gk (fun g => { g with y := { g.y with tlbi := some true } })).poke gk).migRetire gk
    else s)

end Sys2Proof.Machine
end

