-- ==== Sys2Proof/Machine/Queues.lean ====
section
/-! DEFINITION. What the launch walkers read and write in memory: queue entries (spec/15 R391), graph nodes (R386),
effective classes (R395), charges (R394) and the stop of a queue (R388; 16 R418; 21 R457). -/

namespace Sys2Proof.Machine

/-- Words of a context read through the link die's translations (R387); none where an access fails. -/
def State.gWords (s : State) (cx : Nat) (priv : Bool) (va : W64) (n : Nat) : Option (List W32) × State :=
  let r := s.vwords .link (s.ctx cx).asid 0 priv va n
  match r.1 with
  | .ok l => (some l, r.2)
  | .error _ => (none, r.2)

/-- A word of a context written through the link die's translations; an access that fails writes nothing. -/
def State.gPut (s : State) (cx : Nat) (priv : Bool) (va : W64) (v : Nat) : State :=
  (s.vwrite .link (s.ctx cx).asid va 0 priv (leBytes 4 v)).2

/-! Queues (R391). -/

/-- The address of a word of a queue's entry. -/
def Ctx.queueWord (c : Ctx) (q i : Nat) : W64 := c.qtbase + BitVec.ofNat 64 (32 * q + 4 * i)
/-- A queue's entry; one that cannot be read stands as zeros (log 41). -/
def State.queue (s : State) (cx q : Nat) : List W32 × State :=
  let r := s.gWords cx true ((s.ctx cx).queueWord q 0) 8
  (r.1.getD [], r.2)
/-- A word of a queue's entry written. -/
def State.putQueue (s : State) (cx q i v : Nat) : State := s.gPut cx true ((s.ctx cx).queueWord q i) v

/-- RING. -/
def qRing (w : List W32) : W64 := BitVec.ofNat 64 (dNum w 0 2)
/-- PRE. -/
def qPre (w : List W32) : Bool := decide (fieldOf (dWord w 2) 17 1 = 1)
/-- EN. -/
def qEn (w : List W32) : Bool := decide (fieldOf (dWord w 2) 16 1 = 1)
/-- The ring's entries. -/
def qSize (w : List W32) : Nat := 2 ^ fieldOf (dWord w 2) 0 4
/-- TAIL. -/
def qTail (w : List W32) : Nat := fieldOf (dWord w 3) 16 16
/-- HEAD. -/
def qHead (w : List W32) : Nat := fieldOf (dWord w 3) 0 16
/-- The quantum. -/
def qQuant (w : List W32) : Nat := if dWord w 4 = 0 then 1100000 else dWord w 4
/-- THRESH. -/
def qThresh (w : List W32) : Nat := dWord w 5
/-- DEF, signed. -/
def qDef (w : List W32) : Int := (BitVec.ofNat 64 (dNum w 6 2)).toInt

/-- HEAD and TAIL written. -/
def State.putHeadTail (s : State) (cx q head tail : Nat) : State := s.putQueue cx q 3 (head % 65536 + tail % 65536 * 65536)
/-- DEF written. -/
def State.putDef (s : State) (cx q : Nat) (d : Int) : State :=
  let v := (BitVec.ofInt 64 d).toNat
  (s.putQueue cx q 6 (v % 2 ^ 32)).putQueue cx q 7 (v / 2 ^ 32)

/-- The queue of a launch's teams charged for resident time (R394): clocks × max(groups / 128, segments / 512). -/
def State.charge (s : State) (lk clocks : Nat) : State :=
  let l := s.launch lk
  let r := s.queue l.ctx l.queue
  r.2.putDef l.ctx l.queue (qDef r.1 - Int.ofNat ((clocks * max (4 * l.groups) l.tseg + 511) / 512))

/-- A team's queue charged as it leaves its core. -/
def State.chargeTeam (s : State) (tk : Nat) : State := s.charge (s.team tk).launch (s.clock - (s.team tk).placedAt)

/-- A queue stopped, and the host told (R388; event words as in log 42). -/
def State.stopQueue (s : State) (cx q : Nat) (node : W64) (cls detail : Nat) : State :=
  (s.modCtx cx (fun c => { c with stopped := if c.stopped.contains q then c.stopped else c.stopped ++ [q] })).event1 1 cx
    ([BitVec.ofNat 32 q] ++ words64 node ++ [BitVec.ofNat 32 cls, BitVec.ofNat 32 detail])

/-- A queue restarted at the ring index of its step (16 R418); with none registered it stays stopped. -/
def State.rewind (s : State) (cx q : Nat) : State :=
  match tget 0 (s.ctx cx).step q with
  | 0 => s
  | i + 1 =>
    let r := s.queue cx q
    (r.2.putHeadTail cx q i (qTail r.1)).modCtx cx (fun c => { c with stopped := c.stopped.filter (fun x => decide (x ≠ q)) })

/-! Nodes (R386). -/

/-- The words of a node, read with the privilege of its context. -/
def State.node (s : State) (cx : Nat) (va : W64) : Option (List W32) × State := s.gWords cx (s.ctx cx).sup va 16
/-- A word of a node written. -/
def State.putNode (s : State) (cx : Nat) (va : W64) (i v : Nat) : State :=
  s.gPut cx (s.ctx cx).sup (va + BitVec.ofNat 64 (4 * i)) v

/-- KIND. -/
def nKind (w : List W32) : Nat := fieldOf (dWord w 0) 0 4
/-- PRIO. -/
def nPrio (w : List W32) : Nat := fieldOf (dWord w 0) 4 2
/-- QUEUE. -/
def nQueue (w : List W32) : Nat := fieldOf (dWord w 0) 6 6
/-- EXP. -/
def nExp (w : List W32) : Nat := fieldOf (dWord w 0) 12 4
/-- NDEP. -/
def nDep (w : List W32) : Nat := fieldOf (dWord w 0) 16 8
/-- ARG0 to ARG2. -/
def nArg (w : List W32) (i : Nat) : Nat := dNum w (2 + 2 * i) 2
/-- SUCC0 to SUCC3. -/
def nSucc (w : List W32) (i : Nat) : W64 := BitVec.ofNat 64 (dNum w (8 + 2 * i) 2)
/-- PEND of w1. -/
def nPend (w : List W32) : Nat := fieldOf (dWord w 1) 8 8
/-- DONE of w1. -/
def nDone (w : List W32) : Bool := decide (fieldOf (dWord w 1) 0 1 = 1)

/-- One breadth of the search of R395: the nodes found, all nodes seen, and the greatest PRIO so far. -/
def State.reach1 (s : State) (cx : Nat) (seen : List W64) (best : Nat) : List W64 → (List W64 × List W64 × Nat) × State
  | [] => (([], seen, best), s)
  | va :: l =>
    let r := s.node cx va
    let ss := ((List.range 4).map (nSucc (r.1.getD []))).filter (fun x => decide (x ≠ 0))
    let f := ss.foldl (fun (acc : (List W64 × List W64 × Nat) × State) x =>
      if acc.1.2.1.contains x then acc
      else
        let q := acc.2.node cx x
        match q.1 with
        | none => (acc.1, q.2)
        | some w => ((acc.1.1 ++ [x], acc.1.2.1 ++ [x], if nDone w then acc.1.2.2 else max acc.1.2.2 (nPrio w)), q.2))
      ((([] : List W64), seen, best), r.2)
    let t := State.reach1 f.2 cx f.1.2.1 f.1.2.2 l
    ((f.1.1 ++ t.1.1, t.1.2), t.2)

/-- The greatest PRIO within some number of steps of a breadth. -/
def State.reach (s : State) (cx : Nat) (seen : List W64) (best : Nat) (front : List W64) : Nat → Nat × State
  | 0 => (best, s)
  | n + 1 =>
    if front.isEmpty then (best, s)
    else
      let r := s.reach1 cx seen best front
      State.reach r.2 cx r.1.2.1 r.1.2.2 r.1.1 n

/-- The effective class of a launch (R395): its own PRIO, and those of uncompleted nodes within 16 steps. -/
def State.effClass (s : State) (lk : Nat) : Nat × State :=
  let l := s.launch lk
  s.reach l.ctx [l.node] l.prio [l.node] 16

/-- The effective class of a launch computed and kept. -/
def State.classify (s : State) (lk : Nat) : State :=
  let r := s.effClass lk
  r.2.modLaunch lk (fun l => { l with cls := r.1 })

/-- The launches of a context that have not completed. -/
def State.ctxLaunches (s : State) (cx : Nat) : List Nat :=
  (s.launches.filter (fun p => p.2.live && decide (p.2.ctx = cx))).map (fun p => p.1)

/-- The classes of a context's launches computed again, after a completion (R395). -/
def State.reclass (s : State) (cx : Nat) : State := (s.ctxLaunches cx).foldl State.classify s

/-- A node's end is known (R387); its w1 is written by NODE_COMPLETION. -/
def State.nodeEnd (s : State) (cx : Nat) (va : W64) (cls detail : Nat) (arg : Option W32) : State :=
  s.modCtx cx (fun c => { c with ended := c.ended ++ [(va, cls, detail, arg)] })

/-- The home die of a queue (R392). -/
def homeDie (q : Nat) : Nat := q % 2

/-- Step classes expired on the four controllers of a die (04 R85). -/
def State.expire (s : State) (die exp : Nat) : State :=
  (List.range 4).foldl (fun st k => st.modStk (4 * die + k) (fun c =>
    { c with epochs := (List.range 4).foldl (fun e i =>
        if exp.testBit i then tset 0 e i (tget 0 e i + 1) else e) c.epochs })) s

end Sys2Proof.Machine
end

