-- ==== Sys2Proof/Machine/Place.lean ====
section
/-! DEFINITION. Residency and dispatch: what fits on a core (spec/15 R380), clusters (R382), a team at its start (R385;
04 R97; 09 R235), a team restored (16 R423; 20 R452), and the walkers' choice (15 R393, R401, R402). -/

namespace Sys2Proof.Machine

/-! What fits (R380). -/

/-- Does a group still hold its slot (14 R369)? -/
def Group.holds (g : Group) : Bool :=
  g.live && (decide (g.y.status ≠ .exited) || [0, 1, 2, 3, 4, 7].any (fun p => decide (g.y.path p ≠ 0)))

/-- The group slots in use in a quadrant of a core. -/
def State.slotsUsed (s : State) (c q : Nat) : Nat :=
  (s.groups.filter (fun p => p.2.holds && decide (quadOf p.1 = q) && (s.core c).teams.contains (teamOf p.1))).length

/-- The first of `n` free segments in a row. -/
def Core.freeRun (co : Core) (n : Nat) : Option Nat :=
  ((List.range 512).foldl (fun (acc : Option Nat × Nat) i =>
    let run := if tget 0 co.segTeam i = 0 then acc.2 + 1 else 0
    (if acc.1.isNone ∧ run = n then some (i + 1 - n) else acc.1, run)) (none, 0)).1

/-- The accumulator tiles of a core that are free for a grant (R380, 09 R235), lowest first. -/
def State.freeTiles (s : State) (c : Nat) : List Nat :=
  (List.range 4).filter (fun p => match ((s.core c).tile1 p).owner with
    | none => true
    | some o => !((s.core c).teams.any (fun tk => decide ((s.team tk).tag = o))))

/-- The cores of a die in service: fenced ones that no spare can replace are out (01 R21). -/
def State.coreCount (s : State) (d : Nat) : Nat :=
  let n := ((List.range (s.die d).cores).filter (fun i => (s.core (96 * d + i)).lost)).length
  (s.die d).cores - (n - (s.die d).spares)

/-- Does a core take teams (01 R19 to R21)? Not one that is fenced off, that waits for the spare of a fenced unit, or whose
number the die's count no longer reaches: until the cores are numbered anew, when no context is resident, its teams run on
and no other comes (DESIGN CHOICE, log 103). -/
def State.coreUp (s : State) (c : Nat) : Bool :=
  decide (c % 96 < s.coreCount (dieOf c)) && !(s.core c).lost && !(s.core c).fenced

/-- Does a team of a launch fit on a core now (R380, R402)? -/
def State.fits (s : State) (lk c : Nat) : Bool :=
  let l := s.launch lk
  let ts := (s.core c).teams
  s.coreUp c && decide (ts.length < 4) &&
  (List.range 4).all (fun q => decide (s.slotsUsed c q + (l.groups + 3 - q) / 4 ≤ 32)) &&
  ((s.core c).freeRun l.tseg).isSome && decide (l.nacc ≤ (s.freeTiles c).length) &&
  ts.all (fun tk => decide ((s.team tk).launch = lk) || !(l.invar || (s.launch (s.team tk).launch).invar))

/-- Teams in a cluster. -/
def Launch.perCluster (l : Launch) : Nat := l.cw * l.ch
/-- Teams of a launch. -/
def Launch.total (l : Launch) : Nat := l.gx * l.gy * l.gz
/-- The dies of a launch, the home die of its queue first (R381). -/
def Launch.dies (l : Launch) : List Nat :=
  let h := homeDie l.queue
  [h, 1 - h].filter (fun d => l.diem = 0 || l.diem = 3 || decide (l.diem = d + 1))

/-- The core of rank `r` of a rectangle whose origin is position `o` of a die (R382). -/
def Launch.coreAt (l : Launch) (d o r : Nat) : Nat := 96 * d + 10 * (o / 10 + r / l.cw) + (o % 10 + r % l.cw)

/-- Do a rectangle's positions lie on the mesh of a die and satisfy `ok` (rank and core)? -/
def Launch.rect (l : Launch) (ok : Nat → Nat → Bool) (d o : Nat) : Bool :=
  decide (o % 10 + l.cw ≤ 10) && (List.range l.perCluster).all (fun r =>
    let c := l.coreAt d o r
    decide (c < 96 * d + 96) && ok r c)

/-- The place of a cluster: the first die and the lowest origin (R382). -/
def Launch.spot (l : Launch) (dies : List Nat) (ok : Nat → Nat → Bool) : Option (Nat × Nat) :=
  dies.findSome? (fun d => ((List.range 96).find? (l.rect ok d)).map (fun o => (d, o)))

/-- Could a core, or a rectangle, of the allowed dies hold a team with every other core empty (R384 class 2,
DETAIL 1)? A team within the ranges of R383 fits on any empty core. -/
def State.couldHold (s : State) (l : Launch) : Bool := (l.spot l.dies (fun _ c => s.coreUp c)).isSome

/-- Teams of a launch that an empty core holds. -/
def Launch.cap (l : Launch) : Nat :=
  min (min 4 (512 / l.tseg)) (min (32 / ((l.groups + 3) / 4)) (if l.nacc = 0 then 4 else 4 / l.nacc))

/-- Clusters placed one after the other on empty cores, which hold `used` teams so far. -/
def State.packs (s : State) (l : Launch) (used : Tbl Nat) : Nat → Bool
  | 0 => true
  | n + 1 =>
    match l.spot l.dies (fun _ c => s.coreUp c && decide (tget 0 used c < l.cap)) with
    | none => false
    | some p => State.packs s l ((List.range l.perCluster).foldl (fun u r => tmod 0 u (l.coreAt p.1 p.2 r) (· + 1)) used) n

/-- Could all teams of a launch be resident at once (R384 class 2, DETAIL 2)? -/
def State.couldAll (s : State) (l : Launch) : Bool := decide (l.total ≤ 768) && s.packs l [] (l.total / l.perCluster)

/-! A team takes its place. -/

/-- Segments `[b, b + n)` of a core given to a team of a context; a segment last used by another context is cleared
(04 R97). -/
def Core.claim (co : Core) (tk cx b : Nat) : Nat → Core
  | 0 => co
  | n + 1 =>
    let i := b + n
    let c1 := if tget 0 co.segOwner i = cx + 1 then co
      else { co with tile := mclear co.tile (4096 * i) 4096, side := mclear co.side (256 * i) 256 }
    Core.claim { c1 with
      segTeam := tset 0 c1.segTeam i (tk + 1)
      segOwner := tset 0 c1.segOwner i (cx + 1) } tk cx b n

/-- The lowest slot number of a quadrant of a core that no group holds (R380): the numbers of quadrant q are those that leave
q modulo 4 (DESIGN CHOICE, log 19). -/
def State.freeGslot (s : State) (c q : Nat) : Nat :=
  let used := (s.groups.filter (fun p => p.2.holds && (s.core c).teams.contains (teamOf p.1))).map (fun p => p.2.y.gslot)
  4 * (((List.range 32).find? (fun k => !used.contains (4 * k + q))).getD 0) + q

/-- A team takes a slot and segments of a core (R380). -/
def State.seat (s : State) (tk c : Nat) : State :=
  let t := s.team tk
  let l := s.launch t.launch
  let co := s.core c
  let slot := ((List.range 4).find? (fun i => decide (tget 0 co.slots i = 0))).getD 0
  let b := (co.freeRun l.tseg).getD 0
  let s1 := s.modCore c (fun co =>
    let c1 := if co.teams.isEmpty then { co with quads := [], turn := 0 } else co
    { c1.claim tk t.ctx b l.tseg with slots := tset 0 co.slots slot (tk + 1) })
  s1.modTeam tk (fun t => { t with st := .resident, core := c, slot := slot, base := b, placedAt := s.clock })

/-- Names granted on a core: the team's own map if its tiles are free there, else the lowest free tiles (09 R235). -/
def State.grantMap (s : State) (tk c : Nat) : List Nat :=
  let m := (s.team tk).accMap
  let f := s.freeTiles c
  let n := (s.launch (s.team tk).launch).nacc
  if m.length = n ∧ m.all f.contains = true then m else f.take n

/-- One granted name (09 R235; 16 R423): the team's own tag drops the image record; NONE tags the tile and loads the
image, or clears; another tag stays. -/
def State.grant1 (s : State) (tk n : Nat) : State :=
  let t := s.team tk
  let p := t.phys n
  let a := (s.core t.core).tile1 p
  let drop := fun (st : State) => st.modTeam tk (fun x => { x with images := tset none x.images n none })
  match a.owner with
  | some o => if o = t.tag then drop s else s
  | none =>
    let b : Acc := { a with owner := some t.tag, team := tk }
    match tget none t.images n with
    | some img => drop ((s.imageRead img.toNat).setAcc t.core p (s.loadImage b img.toNat))
    | none => s.setAcc t.core p b.zero

/-- A team's names granted. -/
def State.grant (s : State) (tk : Nat) (m : List Nat) : State :=
  (List.range m.length).foldl (fun st n => st.grant1 tk n) (s.modTeam tk (fun t => { t with accMap := m }))

/-- Argument record `k` of a launch (R383). -/
def Launch.arg (l : Launch) (k : Nat) : BitVec 256 := BitVec.ofNat 256 (dNum l.rcd (32 + 8 * k) 8)

/-- A group at its start (R385; 05 R108). -/
def Launch.group (l : Launch) (clock : Nat) : Group :=
  { Group.reset with
    live := true
    r := { Regs.reset with
      pc := l.cb + BitVec.ofNat 64 l.entry
      b := (List.range l.narg).foldl (fun b k => tset 0 b k (l.arg k)) [] }
    y := { GSync.reset with status := .ready, issuedAt := clock } }

/-- The groups of a team that have not exited enter their quadrants, in order. -/
def State.enterQuads (s : State) (tk c : Nat) (n : Nat) : State :=
  (List.range n).foldl (fun st i =>
    let gk := 64 * tk + i
    if (st.grp gk).y.status = .exited then st else st.modQuad c (quadOf gk) (fun q => q.enter gk)) s

/-- The groups of a team that still hold a slot take one on its core, in order (R380). -/
def State.takeSlots (s : State) (tk c : Nat) (n : Nat) : State :=
  (List.range n).foldl (fun st i =>
    let gk := 64 * tk + i
    if (st.grp gk).holds then
      let k := (st.modGrp gk (fun g => { g with live := false })).freeGslot c (quadOf gk)
      st.modGrp gk (fun g => { g with y := { g.y with gslot := k } })
    else st) s

/-- A new team of a launch placed on a core (R385): its place in the grid, its cluster and rank. -/
def State.newTeam (s : State) (lk k r c : Nat) : State :=
  let l := s.launch lk
  let nx := l.gx / l.cw
  let x := k % nx * l.cw + r % l.cw
  let y := k / nx % (l.gy / l.ch) * l.ch + r / l.cw
  let z := k / (nx * (l.gy / l.ch))
  let tk := s.nextTeam
  let s1 := { s with nextTeam := tk + 1 }.modTeam tk (fun _ =>
    { Team.reset with launch := lk, ctx := l.ctx, index := x + l.gx * (y + l.gy * z), gx := x, gy := y, gz := z, rank := r, cluster := k })
  let m := s1.grantMap tk c
  let s2 := s1.seat tk c
  let b := (s2.team tk).base
  let s3 := s2.modCore c (fun co => { co with mdw := co.mdw.filter (fun p => !(decide (b ≤ p.1) && decide (p.1 < b + l.tseg))) })
  let s4 := (List.range l.groups).foldl (fun st i => st.setGrp (64 * tk + i) (l.group s.clock)) (s3.grant tk m)
  (s4.takeSlots tk c l.groups).enterQuads tk c l.groups

/-- Where a launch's next cluster goes. -/
def State.spotNew (s : State) (lk : Nat) (ok : Nat → Bool) : Option (Nat × Nat) :=
  (s.launch lk).spot (s.launch lk).dies (fun _ c => ok c && s.fits lk c)

/-- The next cluster of a launch placed whole (R382). -/
def State.placeNew (s : State) (lk : Nat) (ok : Nat → Bool) : Option State :=
  (s.spotNew lk ok).map (fun p =>
    let l := s.launch lk
    let k := l.placed / l.perCluster
    ((List.range l.perCluster).foldl (fun st r => st.newTeam lk k r (l.coreAt p.1 p.2 r)) s).modLaunch lk (fun l =>
      { l with placed := l.placed + l.perCluster, since := s.clock }))

/-- `n` clusters of a launch placed, or none (R401). -/
def State.placeAll (s : State) (lk : Nat) (ok : Nat → Bool) : Nat → Option State
  | 0 => some s
  | n + 1 => match s.placeNew lk ok with
    | none => none
    | some s1 => State.placeAll s1 lk ok n

/-! Restores (16 R423). -/

/-- Does STOPTEAM hold a group of this team because another one is in debug stop (16 R420)? -/
def State.teamHeld (s : State) (gk : Nat) : Bool :=
  (s.ctxG gk).dbg.getLsbD 1 && s.hif.dbg.any (fun k => teamOf k == teamOf gk)

/-- A parked group answered (16 R416): RETRY lets it issue again for its parked threads; FAIL takes the trap. A team in
debug stop keeps the group stopped at that boundary (R420). -/
def State.answerNow (s : State) (gk : Nat) (p : Parked) (retry : Bool) : State :=
  let s1 := s.modGrp gk (fun g => { g with y := { g.y with status := .ready, parked := none } })
  let s2 := if retry then s1 else s1.trapGrp gk (s.grp gk).r.pc ⟨p.cause, 0, p.va, p.mask⟩
  if s.teamHeld gk && (s2.grp gk).y.status == .ready then s2.modGrp gk (fun g => { g with y := { g.y with status := .debug } })
  else s2

/-- A segment key in the form kept with a context: the team of the cluster that holds the segment, and its offset. -/
def State.segOut (s : State) (tk g : Nat) : Nat :=
  match (s.clusterTeams tk).find? (fun u => decide ((s.team u).core = g / 512) && decide ((s.team u).base ≤ g % 512) &&
      decide (g % 512 < (s.team u).base + (s.launch (s.team u).launch).tseg)) with
  | some u => 512 * u + (g % 512 - (s.team u).base)
  | none => g
/-- A sleeping group's WAITC or ABWAIT re-reads its condition during the restore (20 R452). Where the re-read meets a trap or
a fault, the group is awake, and its instruction executes again at its turn (14 R377) and meets it there. -/
def State.rewait (s : State) (gk : Nat) : State :=
  let f := ({ s with cur := gk }).fetch
  let back := fun (st : State) => { st with cur := s.cur }
  let now := fun (st : State) => back (st.modGrp gk (fun g => { g with y := { g.y with woken := true } }))
  let again := fun (st : State) => back (st.modGrp gk (fun g => { g with y := { g.y with status := .ready, woken := false } }))
  let set := fun (st : State) (m : Monitor) => back (st.modGrp gk (fun g => { g with y := { g.y with monitor := some m } }))
  match f.1 with
  | .ok (.waitc c k a b) =>
    let v := f.2.uval b
    let r := f.2.watched k.toNat (f.2.uniVal a.src)
    match r.1 with
    | .at sp home addr =>
      let m : Monitor := ⟨sp, addr, home, c, v, rCache (f.2.g.r.getB k.toNat)⟩
      let q := r.2.homeWord m
      if wcond c q.1 v then now q.2 else set q.2 m
    | .drop => if wcond c 0 v then now r.2 else back r.2
    | _ => again r.2
  | .ok (.abwait k b) =>
    let v := f.2.uval b
    if (f.2.t.obj k.toNat).sle v then now f.2 else set f.2 ⟨objSpace, k.toNat, 0, .eq, v, 0⟩
  | .ok _ => back f.2
  | .error _ => again f.2

/-- A saved team back on a core: its tile memory, metadata, names, positions and queued tile instructions. -/
def State.backTeam (s : State) (tk c : Nat) : State :=
  let l := s.launch (s.team tk).launch
  let m := s.grantMap tk c
  let s1 := s.seat tk c
  let t := s1.team tk
  let b := t.base
  let s2 := s1.modCore c (fun co =>
    { co with
      tile := mcopy co.tile t.saveTile 0 (4096 * l.tseg) (4096 * b)
      side := mcopy co.side t.saveSide 0 (256 * l.tseg) (256 * b)
      mdw := (List.range l.tseg).foldl (fun w i => tset 0 w (b + i) (tget 0 t.saveMeta i)) co.mdw })
  let s3 := (s2.grant tk m).modTeam tk (fun t => { t with saveTile := [], saveSide := [], saveMeta := [] })
  let s4 := (s3.requeue c).takeSlots tk c l.groups
  match t.inv with
  | some v => s4.modCore c (fun co => { co with turn := v.1, quads := v.2 })
  | none => s4.enterQuads tk c l.groups

/-- What follows once every team of a restore has its place: copies resume, answers act, sleepers look again. -/
def State.backDone (s : State) (tk : Nat) : State :=
  let s1 := (s.resumeCopies tk).modTeam tk (fun t => { t with mates := [], inv := none })
  (s1.teamKeys tk).foldl (fun st gk =>
    let y := (st.grp gk).y
    match y.parked with
    | some p => match p.answer with
      | some r => st.answerNow gk p r
      | none => st
    | none => if y.status = .asleep ∧ y.arrived = false then st.rewait gk else st) s1

/-- The teams of one cluster among saved ones placed on a rectangle; Invar teams of one core keep together (R402). -/
def State.backCluster (s : State) (ok : Nat → Bool) (moved : List (Nat × Nat)) (ts : List Nat) :
    Option (State × List (Nat × Nat)) :=
  let lk := (s.team (ts.headD 0)).launch
  let l := s.launch lk
  let ofRank := fun (r : Nat) => ts.find? (fun tk => decide ((s.team tk).rank = r))
  let may := fun (r c : Nat) => match ofRank r with
    | none => true
    | some tk => ok c && s.fits lk c && (!l.invar || (match moved.find? (fun p => decide (p.1 = (s.team tk).core)) with
        | some p => decide (p.2 = c)
        | none => (s.core c).teams.isEmpty))
  (l.spot l.dies may).map (fun p => (List.range l.perCluster).foldl (fun (acc : State × List (Nat × Nat)) r =>
    match ofRank r with
    | none => acc
    | some tk =>
      let c := l.coreAt p.1 p.2 r
      (acc.1.backTeam tk c, acc.2 ++ [((s.team tk).core, c)])) (s, moved))

/-- Clusters restored one after the other, or none. -/
def State.backAll (s : State) (ok : Nat → Bool) (moved : List (Nat × Nat)) : List (List Nat) → Option State
  | [] => some s
  | ts :: rest => match s.backCluster ok moved ts with
    | none => none
    | some r => State.backAll r.1 ok r.2 rest

/-- The clusters among saved teams. -/
def State.clustersOf (s : State) (ts : List Nat) : List (List Nat) :=
  ((ts.map (fun tk => (s.team tk).cluster)).eraseDups).map (fun k => ts.filter (fun tk => decide ((s.team tk).cluster = k)))

/-- Teams saved together restored together. -/
def State.placeBack (s : State) (ts : List Nat) (ok : Nat → Bool) : Option State :=
  (s.backAll ok [] (s.clustersOf ts)).map (fun st => ts.foldl State.backDone st)

/-! The choice of a walker (R393, R401). -/

/-- What can be dispatched: a launch's next teams, or teams saved together. -/
structure DUnit where
  lk : Nat
  back : List Nat
deriving DecidableEq, Repr

/-- Has a launch an activation to make that need not wait for a place or for its descriptor (11 R290)? Its start makes them
before a team of it can fire a chunk, so no team is placed meanwhile (DEDUCED, log 138). -/
def State.binding (s : State) (lk : Nat) : Bool :=
  decide (s.link.colls.length < 64) &&
  s.link.collWait.any (fun q => q.lk == some lk && (s.collOf q.ctx q.desc).isNone)

/-- The dispatchable teams: the saved ones first (R396), then launches in their order of start. -/
def State.units (s : State) : List DUnit :=
  (s.teams.filterMap (fun p =>
    if p.2.st = .saved ∧ p.2.mates.head? = some p.1 ∧ p.2.mates.all (fun k => (s.team k).st == .saved) then
      some ⟨p.2.launch, p.2.mates⟩ else none)) ++
  (s.launches.filterMap (fun p =>
    if p.2.live ∧ p.2.dead = false ∧ p.2.failed = none ∧ p.2.placed < p.2.total ∧ s.binding p.1 = false then some ⟨p.1, []⟩ else none))

/-- The queue of a unit, as 64·context + queue. -/
def State.unitQueue (s : State) (u : DUnit) : Nat := 64 * (s.launch u.lk).ctx + (s.launch u.lk).queue

/-- The dies that waiting cooperative launches of a walker shut to teams of a class (R401); to a waiting launch `own`, those of
a higher class, and among equals those that started before it (DEDUCED, log 140). -/
def State.shut (s : State) (die cls : Nat) (own : Option Nat) : List Nat :=
  (s.launches.filter (fun p => p.2.live && !p.2.dead && p.2.waiting && decide (homeDie p.2.queue = die) && decide (cls ≤ p.2.cls) &&
    (match own with
      | none => true
      | some k => decide (p.1 ≠ k) && (decide (cls < p.2.cls) || decide (p.1 < k))))).flatMap (fun p => p.2.dies)

/-- May teams be placed on the die of a core in the present service (R384, 21 R465)? That while one compute die is available
(01 R22) the other one's HBM and launch walker serve is the model's choice (DESIGN CHOICE, log 118): the manual restricts the
placement of teams and nothing else. -/
def State.dieOpen (s : State) (c : Nat) : Bool := !s.reduced || decide (dieOf c = 0)

/-- Could a unit take a core: does some rectangle that holds the core have room for its cluster? -/
def State.wants (s : State) (u : DUnit) (c : Nat) : Bool :=
  let l := s.launch u.lk
  l.dies.contains (dieOf c) && s.dieOpen c && (List.range 96).any (fun o =>
    l.rect (fun _ x => s.dieOpen x && s.fits u.lk x) (dieOf c) o &&
    (List.range l.perCluster).any (fun r => decide (l.coreAt (dieOf c) o r = c)))

/-- The cores open to a class of a walker: not shut, and wanted by no team of a higher class (R393). -/
def State.openTo (s : State) (die cls : Nat) (own : Option Nat) (c : Nat) : Bool :=
  s.dieOpen c && !(s.shut die cls own).contains (dieOf c) &&
  !s.units.any (fun u => decide (cls < (s.launch u.lk).cls) && !(s.launch u.lk).coop && s.wants u c)

/-- A unit placed: a cooperative launch whole (R401), saved teams together, else one cluster. -/
def State.placeUnit (s : State) (u : DUnit) (ok : Nat → Bool) : Option State :=
  let l := s.launch u.lk
  if !u.back.isEmpty then s.placeBack u.back ok
  else if l.coop then s.placeAll u.lk ok ((l.total - l.placed) / l.perCluster)
  else s.placeNew u.lk ok

/-- Does a unit fit, so that its queue is served? A cooperative launch is the choice as soon as one team fits. -/
def State.unitFits (s : State) (u : DUnit) (ok : Nat → Bool) : Bool :=
  if (s.launch u.lk).coop then !(s.launch u.lk).waiting && (s.spotNew u.lk ok).isSome
  else (s.placeUnit u ok).isSome

/-- DEF after the last dispatchable team of a queue has been placed (R393). -/
def State.noCredit (s : State) (k : Nat) : State :=
  if s.units.any (fun u => decide (s.unitQueue u = k)) then s
  else
    let r := s.queue (k / 64) (k % 64)
    if 0 < qDef r.1 then r.2.putDef (k / 64) (k % 64) 0 else r.2

/-- A number inserted in ascending order. -/
def insNat (x : Nat) : List Nat → List Nat
  | [] => [x]
  | y :: l => if x ≤ y then x :: y :: l else y :: insNat x l

/-- The rounds that a queue must wait before its DEF is above 0, each adding its quantum. -/
def rounds (d : Int) (quant : Nat) : Nat := if 0 < d then 0 else ((-d).toNat) / quant + 1

/-- DEF raised by a number of quanta. -/
def State.addDef (s : State) (k n : Nat) : State :=
  if n = 0 then s
  else
    let r := s.queue (k / 64) (k % 64)
    r.2.putDef (k / 64) (k % 64) (qDef r.1 + Int.ofNat (n * qQuant r.1))

/-- Deficit round-robin among queues in the order of their turns (R393): the queue whose turn first finds its DEF above
0, with the quanta that the queues before and after it have gathered by then. -/
def State.drr (s : State) (ks : List Nat) : Option (Nat × State) :=
  let ns := ks.map (fun k => (k, let r := s.queue (k / 64) (k % 64); rounds (qDef r.1) (qQuant r.1)))
  match ns.foldl (fun (acc : Option (Nat × Nat)) p => match acc with
      | none => some p
      | some b => if p.2 < b.2 then some p else some b) none with
  | none => none
  | some w =>
    let i := ks.idxOf w.1
    some (w.1, (List.range ks.length).foldl (fun st j => st.addDef (ks.getD j 0) (if j < i then w.2 + 1 else w.2)) s)

/-- The walker that dispatches a unit: that of its queue's home die (R392). -/
def State.unitDie (s : State) (u : DUnit) : Nat := homeDie (s.launch u.lk).queue

/-- One class of R393, with the walker that dispatches: a waiting cooperative launch first (R401), then the choice of the
round-robin among the queues of all contexts. -/
def State.dispatchCls (s : State) (cls : Nat) : Option (Nat × State) :=
  let us := s.units.filter (fun u => decide ((s.launch u.lk).cls = cls))
  let held := us.findSome? (fun u => if (s.launch u.lk).waiting then
      (s.placeUnit u (s.openTo (s.unitDie u) cls (some u.lk))).map (fun st =>
        (s.unitDie u, (st.modLaunch u.lk (fun l => { l with waiting := false })).noCredit (s.unitQueue u)))
    else none)
  match held with
  | some w => some w
  | none =>
    let fit := us.filter (fun u => !(s.launch u.lk).waiting && s.unitFits u (s.openTo (s.unitDie u) cls none))
    let ks := ((fit.map s.unitQueue).eraseDups).foldl (fun l k => insNat k l) []
    let p := tget 0 s.ptr cls
    match s.drr (ks.filter (fun k => decide (p < k)) ++ ks.filter (fun k => decide (k ≤ p))) with
    | none => none
    | some (k, s1) =>
      let s2 := { s1 with ptr := tset 0 s1.ptr cls k }
      match fit.find? (fun u => decide (s.unitQueue u = k)) with
      | none => none
      | some u => some (s.unitDie u, match s2.placeUnit u (s.openTo (s.unitDie u) cls none) with
        | some s3 => s3.noCredit k
        | none => s2.modLaunch u.lk (fun l => { l with waiting := true }))

/-- The units that can be placed now: should they stay unplaced, they wait from here on (R396). -/
def State.restWait (s : State) : State :=
  (s.units.filter (fun u => (s.placeUnit u s.dieOpen).isSome)).foldl (fun st u =>
    match u.back with
    | [] => st.modLaunch u.lk (fun l => { l with since := s.clock })
    | ks => ks.foldl (fun x tk => x.modTeam tk (fun t => { t with since := s.clock })) st) s

/-- TEAM_DISPATCH (R393): where the choice falls on a queue homed on its die, a walker places one team, cluster,
cooperative launch or saved set; none while a DRAIN is under way (01 R20; DEDUCED, log 142). -/
def execTeamDispatch (die : Nat) (s : State) : Host.Outcome State Fault Refusal :=
  .next (if !s.hif.drains.isEmpty then s
    else match ([3, 2, 1, 0] : List Nat).findSome? s.restWait.dispatchCls with
      | some (d, t) => if d = die then t else s
      | none => s)

end Sys2Proof.Machine
end

