-- ==== Sys2Proof/Machine/Leave.lean ====
section
/-! DEFINITION. Teams that leave their cores: exit (spec/13 R349; 11 R294), pre-emption (16 R421), the save (16 R422;
03 R72; 09 R236; 10 R269), swap-out (15 R399), the walkers' pre-emption (15 R396), and the quadrants' own exchanges
(15 R398, R404, R405; 20 R451). -/

namespace Sys2Proof.Machine

/-! Exit (13 R349). -/

/-- May a team exit: every group has exited, paths 0 to 5 and 7 are zero, its tile instructions and SENDs are done? -/
def State.mayLeave (s : State) (tk : Nat) : Bool :=
  let t := s.team tk
  t.st == .resident && decide (s.tileOpen tk = 0) && t.maxr.isEmpty &&
  (s.teamKeys tk).all (fun gk => let y := (s.grp gk).y
    y.status == .exited && decide (y.sends = 0) && [0, 1, 2, 3, 4, 5, 7].all (fun p => decide (y.path p = 0)))

/-- The tiles under a team's tag return to NONE (09 R235): those of its core that carry it, and any that it left elsewhere. -/
def State.untag (s : State) (tk : Nat) : State :=
  let t := s.team tk
  { s with cores := s.cores.map (fun c => (c.1, { c.2 with acc := c.2.acc.map (fun a => (a.1,
      if a.2.owner.isSome ∧ (a.2.team = tk ∨ (c.1 = t.core ∧ a.2.owner = some t.tag)) then { a.2 with owner := none, team := 0 }
      else a.2)) })) }

/-- The number of exited teams of a launch in a chunk of TPER teams. -/
def State.exitedIn (s : State) (lk tper k : Nat) : Nat :=
  (s.teams.filter (fun p => decide (p.2.launch = lk) && p.2.st == .exited && decide (p.2.index / tper = k))).length

/-- The chunks that a team's exit completes are fired (11 R294). -/
def State.exitFires (s : State) (lk index : Nat) : State :=
  let l := s.launch lk
  l.binds.foldl (fun st b =>
    let tper := fieldOf b 8 16
    let k := index / tper
    if fieldOf b 7 1 = 1 ∧ st.exitedIn lk tper k = min tper (l.total - k * tper) then
      st.bindFire lk l.ctx (fieldOf b 0 6) (fieldOf b 24 32 + k)
    else st) s

/-- A team exits (13 R349). -/
def State.leave (s : State) (tk : Nat) : State :=
  let t := s.team tk
  let s1 := ((s.chargeTeam tk).msgTeamGone tk).untag tk
  let s2 := (s1.freeTeam tk).modTeam tk (fun t => { t with st := .exited, q2 := [], images := [], bars := [], cbar := [] })
  (s2.modLaunch t.launch (fun l => { l with exited := l.exited + 1 })).exitFires t.launch t.index

/-- TEAM_EXIT. -/
def execTeamExit (team : Nat) (s : State) : Host.Outcome State Fault Refusal :=
  .next (if s.mayLeave team then s.leave team else s)

/-! Pre-emption (16 R421). -/

/-- The teams that must move with a team: those of its Invar core, its cluster, its cooperative launch. -/
def State.withTeam (s : State) (tk : Nat) : List Nat :=
  let t := s.team tk
  let l := s.launch t.launch
  (s.teams.filter (fun p => p.2.st == .resident && (decide (p.1 = tk) ||
    (s.coreInvar t.core && decide (p.2.core = t.core)) ||
    (decide (p.2.launch = t.launch) && (l.coop || decide (p.2.cluster = t.cluster)))))).map (fun p => p.1)

/-- The teams that a request covers, ascending: those reached in `n` rounds. -/
def State.movers (s : State) (ts : List Nat) : Nat → List Nat
  | 0 => ts
  | n + 1 => State.movers s ((ts.flatMap s.withTeam).foldl (fun l k => if l.contains k then l else insNat k l) ts) n

/-- A GENFENCE after its swap counts as retired at the boundary, its result written (14 R377); what it waits for follows. A
group that STOPTEAM has stopped stays stopped (16 R420). -/
def State.fenceRetired (s : State) (gk : Nat) : State :=
  match (s.grp gk).y.fence with
  | none => s
  | some f =>
    let pc := (s.grp gk).r.pc + 4
    let stopped := (s.grp gk).y.status == .debug
    let s1 := s.modGrp gk (fun g =>
      let h := g.retire pc
      { h with
        r := h.r.setG f.1 f.2
        y := if stopped then { h.y with status := .debug } else h.y })
    if (s.grp gk).y.stepArmed then s1.trapGrp gk pc ⟨0x1B, 0, 0, 0⟩ else s1

/-- Is a source a queue? -/
def isQueue : Src → Bool
  | .q _ => true
  | _ => false

/-- A group at its boundary (14 R377, 07 R182, 15 R404): an abandoned wait executes again; an arrival and TTAG's
progress stay. An instruction that executes again samples its specials again; queue entries that it has popped stay with it
(DESIGN CHOICE, log 107). -/
def GSync.abandon (y : GSync) : GSync :=
  { y with
    status := match y.status with | .waiting _ => .ready | x => x
    monitor := none
    woken := y.woken && y.arrived
    sampled := if y.arrived || y.status == .asleep then y.sampled else y.sampled.filter (fun p => isQueue p.1)
    tlbi := none
    accx := none }

/-- A team brought to its boundary with the others that move with it; the state of an Invar core is kept (15 R407). -/
def State.bound1 (s : State) (ms : List Nat) (tk : Nat) : State :=
  let t := s.team tk
  let co := s.core t.core
  (s.teamKeys tk).foldl (fun st gk => (st.fenceRetired gk).modGrp gk (fun g => { g with y := g.y.abandon }))
    (s.modTeam tk (fun t => { t with
      st := .boundary
      mates := ms
      inv := if s.coreInvar t.core then some (co.turn, co.quads) else none }))

/-- A pre-emption request performed. -/
def State.preempt (s : State) (tk : Nat) : State :=
  let ms := s.movers [tk] s.teams.length
  ms.foldl (fun st k => st.bound1 ms k) s

/-- PREEMPTION_REQUEST. -/
def execPreemptionRequest (team : Nat) (s : State) : Host.Outcome State Fault Refusal :=
  .next (if (s.team team).st = .resident then s.preempt team else s)

/-! The save (16 R422). -/

/-- Does a command of a pre-empted team stop (03 R72)? -/
def CopyCmd.stops (c : CopyCmd) : Bool :=
  (c.usesS && decide (rSpace c.s < 2)) || decide (rSpace c.d < 2) || decide (fieldOf (c.word 0) 23 1 = 1)

/-- The commands of a team that stop, out of an engine: their places go to commands that wait for one. -/
def State.stopCopies (s : State) (tk : Nat) (e : Eng) : State :=
  let mine := fun (c : CopyCmd) => c.ofTeam tk && c.stops
  let l := (s.cmdsOf e).filter mine
  ((s.setCmds e ((s.cmdsOf e).filter (fun c => !mine c))).modTeam tk (fun t =>
    { t with saveCopies := l.map (fun c =>
        ({ c with st := if c.st == CopySt.active then CopySt.queued else c.st }.reseg (s.segOut tk), e == .link)) ++ t.saveCopies })).refill

/-- Is the core ready for the save: started tile instructions have finished, and paths 1 and 2 are zero? -/
def State.maySave (s : State) (tk : Nat) : Bool :=
  let t := s.team tk
  t.st == .boundary && (s.core t.core).running.all (fun q => decide (q.team ≠ tk)) &&
  (s.teamKeys tk).all (fun gk => decide ((s.grp gk).y.path 1 = 0) && decide ((s.grp gk).y.path 2 = 0))

/-- What is not saved of a group: BT registers and the fetched heads of its tape streams (10 R269). -/
def Group.unheld (g : Group) : Group :=
  { g with
    r := { g.r with bt := [] }
    s0 := { g.s0 with head := none }
    s1 := { g.s1 with head := none }
    y := { g.y with undo := g.y.undo.map (fun u => (u.1, u.2.1, u.2.2.map (fun x => { x with head := none }))) } }

/-- The save of a team (16 R422): its core keeps nothing of it but accumulators under their tags. -/
def State.save (s : State) (tk : Nat) : State :=
  let t := s.team tk
  let l := s.launch t.launch
  let s1 := ((s.stopCopies tk (.core t.core)).stopCopies tk .link).flushSpad t.core (s.ctx t.ctx).asid false
  let s2 := (s1.teamKeys tk).foldl (fun st gk => (st.deliverAll gk).modGrp gk Group.unheld) s1
  let co := s2.core t.core
  let s3 := s2.modTeam tk (fun t => { t with
    st := .saved
    since := s.clock
    savedTiles := co.queue.filter (fun q => decide (q.team = tk)) ++ t.savedTiles
    saveTile := mslice co.tile (4096 * t.base) (4096 * l.tseg) 0
    saveSide := mslice co.side (256 * t.base) (256 * l.tseg) 0
    saveMeta := (co.mdw.filter (fun p => decide (t.base ≤ p.1) && decide (p.1 < t.base + l.tseg))).map (fun p => (p.1 - t.base, p.2)) })
  let s4 := s3.modCore t.core (fun co => { co with
    slots := co.slots.filter (fun p => decide (p.2 ≠ tk + 1))
    segTeam := co.segTeam.filter (fun p => decide (p.2 ≠ tk + 1))
    queue := co.queue.filter (fun q => decide (q.team ≠ tk)) })
  (s4.teamKeys tk).foldl (fun st gk => st.modQuad t.core (quadOf gk) (fun q => q.drop gk)) (s4.chargeTeam tk)

/-- DRAIN requests are answered once no team is resident or stands at its boundary (21 R458). -/
def State.drainDone (s : State) : State :=
  if s.teams.all (fun p => !(p.2.st == .resident || p.2.st == .boundary)) then
    s.hif.drains.foldl (fun st slot => st.mbox slot 0 0 0) { s with hif := { s.hif with drains := [] } }
  else s

/-- CONTEXT_SAVE. -/
def execContextSave (team : Nat) (s : State) : Host.Outcome State Fault Refusal :=
  .next (if s.maySave team then (s.save team).drainDone else s)

/-! Swap-out (15 R399) and the walkers' pre-emption (15 R396). -/

/-- Is a team idle as R399 asks? -/
def State.idle (s : State) (tk thresh : Nat) : Bool :=
  (s.team tk).st == .resident && (s.teamKeys tk).all (fun gk =>
    let g := s.grp gk
    decide (g.y.issuedAt + thresh ≤ s.clock) && (match g.y.status with
      | .exited => true | .waiting _ => !g.sys.hm | .asleep => !g.sys.hm | .parked => !g.sys.hm | _ => false))

/-- TEAM_SWAP_OUT (R399): the team, its cluster and its Invar core's teams together. -/
def execTeamSwapOut (team : Nat) (s : State) : Host.Outcome State Fault Refusal :=
  .next (
    let l := s.launch (s.team team).launch
    let r := s.queue l.ctx l.queue
    let ms := s.movers [team] s.teams.length
    if qThresh r.1 ≠ 0 ∧ l.coop = false ∧ ms.all (fun k => r.2.idle k (qThresh r.1)) = true then r.2.preempt team else r.2)

/-- The victim of R396: of the lowest class, then the most recently placed. -/
def State.victim (s : State) (cls d : Nat) : Option Nat :=
  ((s.teams.filter (fun p => p.2.st == .resident && decide (dieOf p.2.core = d) && !(s.launch p.2.launch).coop &&
      decide ((s.launch p.2.launch).cls < cls))).foldl (fun (acc : Option (Nat × Team)) p => match acc with
    | none => some p
    | some b =>
      let a := (s.launch p.2.launch).cls
      let v := (s.launch b.2.launch).cls
      if a < v ∨ (a = v ∧ b.2.placedAt ≤ p.2.placedAt) then some p else some b) none).map (fun p => p.1)

/-- The clock since which a unit waits: its start, the placement or the save before it, or the last dispatch at which it could
have been placed (R396). -/
def State.waitsSince (s : State) (u : DUnit) : Nat :=
  match u.back with
  | tk :: _ => (s.team tk).since
  | [] => (s.launch u.lk).since

/-- PREEMPT_TRIGGER (R396): a dispatchable team of a launch, unplaceable for 11,000 clocks at its walker's die, of a PRE
queue, makes the walker pre-empt one resident team of a lower class, on the home die first. -/
def execPreemptTrigger (die lk : Nat) (s : State) : Host.Outcome State Fault Refusal :=
  .next (
    let l := s.launch lk
    let r := s.queue l.ctx l.queue
    match s.units.find? (fun u => decide (u.lk = lk)) with
    | none => s
    | some u =>
      if homeDie l.queue = die ∧ qPre r.1 = true ∧ (r.2.placeUnit u r.2.dieOpen).isNone ∧ r.2.waitsSince u + 11000 ≤ s.clock then
        match l.dies.findSome? (r.2.victim l.cls) with
        | none => r.2
        | some v => r.2.preempt v
      else r.2)

/-! Quadrants. -/

/-- ACTIVE_SET_ROTATION (R398): the group that has held its position longest is exchanged with the first in the FIFO that
can issue. -/
def execActiveSetRotation (core quad : Nat) (s : State) : Host.Outcome State Fault Refusal :=
  .next (
    let q := (s.core core).quad quad
    if s.coreInvar core then s
    else match q.held.head?, q.fifo.find? s.isReady with
      | some p, some h => s.modQuad core quad (fun q => q.take p h)
      | _, _ => s)

/-- INVAR_POSITION_SWAP (R405). -/
def execInvarPositionSwap (core quad : Nat) (s : State) : Host.Outcome State Fault Refusal :=
  .next (if s.coreInvar core then s.swapDue core quad else s)

/-- The bytes of an instruction. -/
def instrLen (i : Instr) : Nat := 4 * (encode i).length

/-- INVAR_WAKE (R404; 20 R451): at the turn of its position a sleeper whose wait is satisfied wakes, and its waiting
instruction retires without taking a turn. -/
def execInvarWake (gk : Nat) (s : State) : Host.Outcome State Fault Refusal :=
  .next (
    let s1 := s.turnTo gk
    if s1.cur = gk ∧ (s1.grp gk).y.status = .asleep ∧ (s1.grp gk).y.woken = true ∧ s1.canIssue gk = true then
      match s1.fetch with
      | (.ok i, s2) => s2.retire (s2.g.r.pc + BitVec.ofNat 64 (instrLen i))
      | (.error _, _) => s
    else s)

end Sys2Proof.Machine
end

