-- ==== Sys2Proof/Machine/Graph.lean ====
section
/-! DEFINITION. Task graphs: the start of a node of each kind, the check of a launch record, WAIT nodes, and the
completion of a node (spec/15 R384 to R390). -/

namespace Sys2Proof.Machine

/-! Starts. -/

/-- The fields of a node that break R386, R387 or R389, by the lowest bit position of each in the 512-bit node. -/
def nodeBad (w : List W32) (ring : Bool) : List (Nat × Bool) :=
  let a1 : Nat × Bool := (128, nArg w 1 ≠ 0)
  let a2 : Nat × Bool := (192, nArg w 2 ≠ 0)
  let k := nKind w
  [(0, decide (7 ≤ k)), (16, ring && decide (nDep w ≠ 0)), (24, decide (fieldOf (dWord w 0) 24 8 ≠ 0))] ++
  (match k with
    | 0 => [a1, a2]
    | 1 => [(224, decide (nArg w 2 / 2 ^ 32 ≠ 0))]
    | 2 => [(70, decide (nArg w 0 / 64 ≠ 0)), (160, decide (nArg w 1 / 2 ^ 32 ≠ 0)), a2]
    | 3 | 4 => [a1, a2, (384, decide (nSucc w 2 ≠ 0)), (448, decide (nSucc w 3 ≠ 0))]
    | 5 => [(193, decide (nArg w 2 / 2 ≠ 0))]
    | 6 => [a2]
    | _ => [])

/-- A free choice among bit positions: a relation between fields names none of them as the offending one (log 43). -/
def pickBit (v i : Nat) (l : List Nat) : Nat := l.getD (v / 4 ^ i % l.length) 0

/-- The fields of a launch record that break R383 or R384, by the lowest bit position of each in the 2,048-bit
record; `v` is a free value. -/
def Launch.bad (l : Launch) (prio queue v : Nat) : List (Nat × Bool) :=
  [(0, decide (l.cb.toNat % 256 ≠ 0)), (64, decide (l.entry % 4 ≠ 0)), (102, decide (fieldOf (l.word 3) 6 2 ≠ 0)),
   (104, decide (l.cw = 0 ∨ 10 < l.cw)), (108, decide (l.ch = 0 ∨ 10 < l.ch)),
   (112, decide (l.tseg = 0 ∨ 512 < l.tseg)), (122, decide (fieldOf (l.word 3) 26 6 ≠ 0)),
   (128, decide (256 < fieldOf (l.word 4) 0 9)), (137, decide (4 < l.nacc)), (140, decide (2 < l.ntape)),
   (142, decide (l.prio ≠ prio)), (144, decide (l.queue ≠ queue)), (152, decide (4 < l.narg)),
   (157, decide (fieldOf (l.word 4) 29 3 ≠ 0)), (160, decide (l.gx = 0)), (176, decide (l.gy = 0)),
   (192, decide (l.gz = 0)), (208, decide (fieldOf (l.word 6) 16 16 ≠ 0)),
   (512, ((l.rcd.drop 16).take 16).any (fun x => x != 0)),
   (pickBit v 0 [104, 108], decide (12 < l.cw * l.ch)),
   (pickBit v 1 [104, 160], decide (l.cw ≠ 0 ∧ l.gx % l.cw ≠ 0)),
   (pickBit v 2 [108, 176], decide (l.ch ≠ 0 ∧ l.gy % l.ch ≠ 0)),
   (pickBit v 3 [96, 112, 128], decide (l.tileBytes < l.groups * l.ss))] ++
  ((List.range 4).flatMap (fun i =>
    let b := l.binds.getD i 0
    ([(256 + 64 * i + 6, decide (fieldOf b 6 1 ≠ 0)), (256 + 64 * i + 8, decide (fieldOf b 7 1 = 1 ∧ fieldOf b 8 16 = 0)),
      (256 + 64 * i + 56, decide (fieldOf b 56 8 ≠ 0))] : List (Nat × Bool))))

/-- A node one of whose words cannot be reached (log 44): its class, not 0, and DETAIL are free. -/
def State.freeEnd (s : State) (cx : Nat) (va : W64) : State :=
  let v := (Config.freeW32 s.free).toNat
  s.draw.2.nodeEnd cx va (1 + v % 3) (v / 4 % 65536) none

/-- A KERNEL node starts (R383 to R385): its launch is checked, and its teams become dispatchable. -/
def State.startKernel (s : State) (cx : Nat) (va : W64) (w : List W32) : State :=
  let r := s.gWords cx (s.ctx cx).sup (BitVec.ofNat 64 (nArg w 0)) 64
  match r.1 with
  | none => r.2.freeEnd cx va
  | some rcd =>
    let l : Launch := { Launch.reset with live := true, ctx := cx, node := va, rcd := rcd, cls := nPrio w, since := s.clock }
    let v := (Config.freeW32 r.2.free).toNat
    match lowest (l.bad (nPrio w) (nQueue w) v) with
    | some b => r.2.draw.2.nodeEnd cx va 1 b none
    | none =>
      if !r.2.couldHold l then r.2.nodeEnd cx va 2 1 none
      else if l.coop && !r.2.couldAll l then r.2.nodeEnd cx va 2 2 none
      else
        let lk := r.2.nextLaunch
        let s1 := { r.2 with nextLaunch := lk + 1 }.modLaunch lk (fun _ => l)
        let s2 := l.binds.foldl (fun st b =>
          if fieldOf b 7 1 = 1 then
            { st with link := { st.link with collWait := st.link.collWait ++
              [({ ctx := cx, desc := fieldOf b 0 6, seed := l.seed, node := none, lk := some lk, fired := [] } : CollWait)] } }
          else st) s1
        s2.classify lk

/-- A COPY node starts (R387): its command goes to a link-die copy engine in the node's context. -/
def State.startCopy (s : State) (cx : Nat) (va : W64) (w : List W32) : State :=
  let r := s.gWords cx (s.ctx cx).sup (BitVec.ofNat 64 (nArg w 0)) 40
  match r.1 with
  | none => r.2.freeEnd cx va
  | some b =>
    let w0 := dWord b 0
    let rc := fun (i : Nat) => BitVec.ofNat 256 (if i < 4 then dNum b (8 + 8 * i) 8 else 0)
    r.2.accept .link
      { id := r.2.nextCopy, gk := none, node := some va, ctx := cx, priv := (s.ctx cx).sup, pstw := false, follow := false,
        w := b.take 8, s := rc (fieldOf w0 4 4), d := rc (fieldOf w0 8 4), t := rc (fieldOf w0 12 4),
        seed := BitVec.ofNat 32 (nArg w 2), gd := 0, st := .queued, pos := 0, rd := 0, wr := 0, bytes := 0, sat := 0, amax := 0, cls := 0,
        detail := 0, bound := [], filling := [], reading := [], gather := none, home := homeDie (nQueue w), fword := none }

/-- A COND, WHILE or WAIT node reads its word (R389, R390), a WAIT whose word is too small being armed. -/
def State.startWord (s : State) (cx : Nat) (va : W64) (w : List W32) : State :=
  let r := s.xlate .link (s.ctx cx).asid (BitVec.ofNat 64 (nArg w 0)) 0 (s.ctx cx).sup .read
  match r.1 with
  | .error _ => r.2.freeEnd cx va
  | .ok a =>
    let x := r.2.pnum 0 a.pa 4
    let s1 := r.2.l2range 0 a.pa 4 0 false
    if nKind w ≠ 6 then s1.nodeEnd cx va 0 0 (some (BitVec.ofNat 32 x))
    else if nArg w 1 ≤ x then s1.nodeEnd cx va 0 0 none
    else s1.modCtx cx (fun c => { c with waits := c.waits ++ [(va, a.pa, BitVec.ofNat 64 (nArg w 1))] })

/-- A SIGNAL node writes its word (R390): a store, or an atomic add modulo 2^32. -/
def State.startSignal (s : State) (cx : Nat) (va : W64) (w : List W32) : State :=
  let c := s.ctx cx
  let t := BitVec.ofNat 64 (nArg w 0)
  let old := if nArg w 2 % 2 = 1 then s.vnum .link c.asid t 0 c.sup 4 else (.ok 0, s)
  match old.1 with
  | .error _ => old.2.freeEnd cx va
  | .ok o =>
    let q := old.2.vwrite .link c.asid t 0 c.sup (leBytes 4 ((o + nArg w 1) % 2 ^ 32))
    match q.1 with
    | .error _ => q.2.freeEnd cx va
    | .ok _ => q.2.nodeEnd cx va 0 0 none

/-- A node whose words have been read starts (R386, R387): RUN is set, and its kind acts. -/
def State.startNode (s : State) (cx : Nat) (va : W64) (w : List W32) (ring : Bool) : State :=
  let s1 := (s.putNode cx va 1 (fieldOf (dWord w 1) 8 8 * 256 + 16)).modCtx cx (fun c =>
    { c with nodes := c.nodes ++ [(va, nQueue w)] })
  match lowest (nodeBad w ring) with
  | some b => s1.nodeEnd cx va 1 b none
  | none => match nKind w with
    | 0 => s1.startKernel cx va w
    | 1 => s1.startCopy cx va w
    | 2 => { s1 with link := { s1.link with collWait := s1.link.collWait ++
        [({ ctx := cx, desc := nArg w 0 % 64, seed := BitVec.ofNat 32 (nArg w 1), node := some va, lk := none, fired := [] } : CollWait)] } }
    | 5 => s1.startSignal cx va w
    | _ => s1.startWord cx va w

/-- A node whose words cannot be read (log 44): a ring's entry stops its queue with a free class and DETAIL. -/
def State.lostNode (s : State) (cx q : Nat) (va : W64) : State :=
  let v := (Config.freeW32 s.free).toNat
  s.draw.2.stopQueue cx q va (1 + v % 3) (v / 4 % 65536)

/-- A COPY node waits for a place in the link die's engines. -/
def State.nodeRoom (s : State) (w : List W32) : Bool := nKind w != 1 || decide (s.link.copies.length < 256)

/-- The address in the next entry of a queue's ring, if one may be taken (R392), and the queue's entry. -/
def State.ringHead (s : State) (cx q : Nat) : Option W64 × List W32 × State :=
  let r := s.queue cx q
  let e := r.1
  if qEn e && !(r.2.ctx cx).stopped.contains q && decide (qHead e ≠ qTail e) then
    let g := r.2.gWords cx (r.2.ctx cx).sup (qRing e + BitVec.ofNat 64 (8 * (qHead e % qSize e))) 2
    (g.1.map (fun w => BitVec.ofNat 64 (dNum w 0 2)), e, g.2)
  else (none, e, r.2)

/-- NODE_START (R388, R392): a node made ready by its PEND, or the next entry of a queue's ring. -/
def execNodeStart (ctx queue : Nat) (node : W64) (s : State) : Host.Outcome State Fault Refusal :=
  .next (
    if (s.ctx ctx).live = false then s
    else if (s.ctx ctx).ready.contains node then
      let r := s.node ctx node
      let took := fun (st : State) => st.modCtx ctx (fun c => { c with ready := c.ready.erase node })
      match r.1 with
      | none => took r.2
      | some w => if r.2.nodeRoom w then (took r.2).startNode ctx node w false else s
    else
      let h := s.ringHead ctx queue
      if h.1 = some node then
        let r := h.2.2.node ctx node
        let took := fun (st : State) => st.putHeadTail ctx queue (qHead h.2.1 + 1) (qTail h.2.1)
        match r.1 with
        | none => (took r.2).lostNode ctx queue node
        | some w => if r.2.nodeRoom w then (took r.2).startNode ctx node w true else s
      else s)

/-- WAIT_SATISFIED (R390): the word of an armed WAIT has reached its value. -/
def execWaitSatisfied (ctx : Nat) (node : W64) (s : State) : Host.Outcome State Fault Refusal :=
  .next (match (s.ctx ctx).waits.find? (fun x => decide (x.1 = node)) with
    | none => s
    | some x =>
      if x.2.2.toNat ≤ s.pnum 0 x.2.1 4 then
        (s.modCtx ctx (fun c => { c with waits := c.waits.filter (fun y => decide (y.1 ≠ node)) })).nodeEnd ctx node 0 0 none
      else s)

/-! Completion (R388). -/

/-- A launch whose teams have all exited, or that is marked failed and has no team left. -/
def State.launchDone (s : State) (lk : Nat) : Bool :=
  let l := s.launch lk
  l.live && !l.dead && (decide (l.total ≤ l.exited) || (l.failed.isSome && (s.launchTeams lk).isEmpty))

/-- The launch of a KERNEL node. -/
def State.nodeLaunch (s : State) (cx : Nat) (va : W64) : Option Nat :=
  (s.ctxLaunches cx).find? (fun lk => decide ((s.launch lk).node = va))

/-- How a node ends, once that is known: class, DETAIL and a word. -/
def State.nodeResult (s : State) (cx : Nat) (va : W64) : Option (Nat × Nat × Option W32) :=
  match (s.ctx cx).ended.find? (fun e => decide (e.1 = va)) with
  | some e => some e.2
  | none => match s.nodeLaunch cx va with
    | none => none
    | some lk =>
      if s.launchDone lk then some (match (s.launch lk).failed, (s.launch lk).bindErr with
        | some d, _ => (3, d, none)
        | none, some e => (3, e.1, none)
        | none, none => (0, 0, none))
      else none

/-- A selected successor's PEND decremented by one atomic step; at 0 it is ready (R388). A PEND of 0 becomes a free
value (log 45). -/
def State.decSucc (s : State) (cx : Nat) (va : W64) : State :=
  let r := s.gWords cx (s.ctx cx).sup va 2
  match r.1 with
  | none => r.2
  | some w =>
    let p := nPend w
    let d := if p = 0 then ((Config.freeByte r.2.free).toNat, r.2.draw.2) else (p - 1, r.2)
    let w1 := dWord w 1
    let s1 := d.2.putNode cx va 1 (w1 - p * 256 + d.1 * 256)
    if d.1 = 0 then s1.modCtx cx (fun c => { c with ready := c.ready ++ [va] }) else s1

/-- The successors that a kind selects (R388, R389). -/
def nodeNext (w : List W32) (arg : Option W32) : List W64 :=
  ((if nKind w = 3 ∨ nKind w = 4 then [if arg.getD 0 ≠ 0 then 0 else 1] else [0, 1, 2, 3]).map (nSucc w)).filter
    (fun x => decide (x ≠ 0))

/-- A node written done (R388): ARG1, then w1 with PEND reloaded; EXP expires with any class (R390). -/
def State.nodeWrite (s : State) (cx : Nat) (va : W64) (w : List W32) (cls detail : Nat) (arg : Option W32) : State :=
  let s1 := match nKind w, arg with
    | 1, some v => (s.putNode cx va 4 v.toNat).putNode cx va 5 0
    | _, _ => s
  (s1.putNode cx va 1 (detail % 65536 * 65536 + nDep w * 256 + cls % 8 * 2 + 1)).expire (homeDie (nQueue w)) (nExp w)

/-- The bookkeeping of a completed node. -/
def State.nodeForget (s : State) (cx : Nat) (va : W64) : State :=
  let s1 := s.modCtx cx (fun c =>
    { c with
      nodes := c.nodes.filter (fun x => decide (x.1 ≠ va))
      ended := c.ended.filter (fun x => decide (x.1 ≠ va)) })
  match s.nodeLaunch cx va with
  | some lk => s1.modLaunch lk (fun l => { l with live := false })
  | none => s1

/-- Is a node's end a COLLECTIVE node's class 4, after which the step is repeated (11 R306)? -/
def nodeCollErr (w : List W32) (cls detail : Nat) : Bool := nKind w == 2 && cls == 3 && detail == 4

/-- Does a data error rewind the queue of a KERNEL node as it ends (16 R417, R418)? -/
def State.nodeRewinds (s : State) (cx : Nat) (va : W64) : Bool :=
  match s.nodeLaunch cx va with
  | none => false
  | some lk =>
    let l := s.launch lk
    !l.dead && (l.failed == some 5 || (l.failed.isNone && (match l.bindErr with
      | some e => e.2
      | none => false)))

/-- A node's completion (R388; 16 R418): successors after class 0, else the queue stops, a data error rewinding it. -/
def State.complete (s : State) (cx : Nat) (va : W64) (cls detail : Nat) (arg : Option W32) : State :=
  let q := (((s.ctx cx).nodes.find? (fun x => decide (x.1 = va))).map (fun x => x.2)).getD 0
  let r := s.node cx va
  let s1 := r.2.nodeForget cx va
  let s2 := match r.1 with
    | none => s1
    | some w => s1.nodeWrite cx va w cls detail arg
  let s3 := if cls = 0 then (nodeNext (r.1.getD []) arg).foldl (fun st x => st.decSucc cx x) s2
    else
      let s4 := s2.stopQueue cx q va cls detail
      if s.nodeRewinds cx va || nodeCollErr (r.1.getD []) cls detail then s4.rewind cx q else s4
  s3.reclass cx

/-- NODE_COMPLETION. -/
def execNodeCompletion (ctx : Nat) (node : W64) (s : State) : Host.Outcome State Fault Refusal :=
  .next (match s.nodeResult ctx node with
    | none => s
    | some r => s.complete ctx node r.1 r.2.1 r.2.2)

end Sys2Proof.Machine
end

