-- ==== Sys2Proof/Machine/LaneInt.lean ====
section
/-! DEFINITION. Lane integer arithmetic, compares, bit fields, moves and shuffles (spec/08 R183 to R195). -/

namespace Sys2Proof.Machine

/-- A lane instruction of 4 bytes whose result in thread `t` is `f` of the state that its sources are read from. -/
def laneOp (d : BitVec 7) (sels : List Sel) (s : State) (f : State → Nat → W32) : Host.Outcome State Fault Refusal :=
  run 4 s sels [dv d] (fun x => .ok (x.setLanes d (f x)))

/-- A lane instruction of one source. -/
def lane1 (d : BitVec 7) (a : Sel) (s : State) (f : W32 → W32) : Host.Outcome State Fault Refusal :=
  laneOp d [a] s (fun x t => f (x.laneVal a.src t))

/-- A lane instruction of two sources. -/
def lane2 (d : BitVec 7) (a b : Sel) (s : State) (f : W32 → W32 → W32) : Host.Outcome State Fault Refusal :=
  laneOp d [a, b] s (fun x t => f (x.laneVal a.src t) (x.laneVal b.src t))

/-- A lane instruction of two sources that also reads its destination. -/
def lane3 (d : BitVec 7) (a b : Sel) (s : State) (f : W32 → W32 → W32 → W32) : Host.Outcome State Fault Refusal :=
  laneOp d [a, b, blk (.v d)] s (fun x t => f (x.laneVal a.src t) (x.laneVal b.src t) (x.g.r.getV d.toNat t))

/-! The functions of R187 to R191. -/

/-- The high half of the signed product. -/
def mulh (a b : W32) : W32 := (a.signExtend 64 * b.signExtend 64).extractLsb' 32 32
/-- The high half of the unsigned product. -/
def mulhu (a b : W32) : W32 := (a.zeroExtend 64 * b.zeroExtend 64).extractLsb' 32 32
/-- The shift amount b[4:0]. -/
def shAmt (b : W32) : Nat := b.toNat % 32
/-- Signed minimum. -/
def smin (a b : W32) : W32 := if a.sle b then a else b
/-- Signed maximum. -/
def smax (a b : W32) : W32 := if a.sle b then b else a
/-- Unsigned minimum. -/
def umin (a b : W32) : W32 := if a.ule b then a else b
/-- Unsigned maximum. -/
def umax (a b : W32) : W32 := if a.ule b then b else a

/-- The number of 1 bits. -/
def popcount (a : W32) : W32 := BitVec.ofNat 32 ((List.range 32).countP (fun i => a.getLsbD i))
/-- Leading zeros. -/
def clz (a : W32) : W32 := if a = 0 then 32 else BitVec.ofNat 32 (31 - Nat.log2 a.toNat)
/-- Trailing zeros. -/
def ctz (a : W32) : W32 := BitVec.ofNat 32 (((List.range 32).find? (fun i => a.getLsbD i)).getD 32)
/-- The bits in reverse order. -/
def brev (a : W32) : W32 := a.reverse
/-- The bytes in reverse order. -/
def bswap (a : W32) : W32 :=
  a.extractLsb' 0 8 ++ a.extractLsb' 8 8 ++ a.extractLsb' 16 8 ++ a.extractLsb' 24 8
/-- |a| modulo 2^32. -/
def absW (a : W32) : W32 := if a.msb then 0 - a else a

/-- The mask of the `n` lowest bits. -/
def lowMask (n : Nat) : W32 := BitVec.ofNat 32 (2 ^ n - 1)
/-- POS of a field descriptor (R190). -/
def fPos (b : W32) : Nat := fieldOf b.toNat 0 5
/-- The length of a field, cut at bit 31 (R190). -/
def fLen (b : W32) : Nat := min (fieldOf b.toNat 8 6) (32 - fPos b)

/-- Bit-field extract (R190). -/
def bfe (a b : W32) : W32 :=
  let n := fLen b
  let x := (a >>> fPos b) &&& lowMask n
  if n ≠ 0 ∧ b.getLsbD 16 = true ∧ x.getLsbD (n - 1) = true then x ||| ~~~(lowMask n) else x

/-- Bit-field insert (R190). -/
def bfi (a b d : W32) : W32 :=
  let m := lowMask (fLen b) <<< fPos b
  (d &&& ~~~m) ||| ((a <<< fPos b) &&& m)

/-- The carry-less product (R191). -/
def clmul (a b : W32) : W64 :=
  (List.range 32).foldl (fun p i => if b.getLsbD i then p ^^^ (a.zeroExtend 64 <<< i) else p) 0

/-! Integer ALU (R187). -/

/-- IADD (08 R187). -/
def execIadd (d : BitVec 7) (a b : Sel) (s : State) : Host.Outcome State Fault Refusal := lane2 d a b s (· + ·)
/-- ISUB (R187). -/
def execIsub (d : BitVec 7) (a b : Sel) (s : State) : Host.Outcome State Fault Refusal := lane2 d a b s (· - ·)
/-- IMUL (R187). -/
def execImul (d : BitVec 7) (a b : Sel) (s : State) : Host.Outcome State Fault Refusal := lane2 d a b s (· * ·)
/-- IMULH (R187). -/
def execImulh (d : BitVec 7) (a b : Sel) (s : State) : Host.Outcome State Fault Refusal := lane2 d a b s mulh
/-- IMULHU (R187). -/
def execImulhu (d : BitVec 7) (a b : Sel) (s : State) : Host.Outcome State Fault Refusal := lane2 d a b s mulhu
/-- IMAD (R187). -/
def execImad (d : BitVec 7) (a b : Sel) (s : State) : Host.Outcome State Fault Refusal :=
  lane3 d a b s (fun x y z => x * y + z)
/-- IMIN (R187). -/
def execImin (d : BitVec 7) (a b : Sel) (s : State) : Host.Outcome State Fault Refusal := lane2 d a b s smin
/-- IMAX (R187). -/
def execImax (d : BitVec 7) (a b : Sel) (s : State) : Host.Outcome State Fault Refusal := lane2 d a b s smax
/-- UMIN (R187). -/
def execUmin (d : BitVec 7) (a b : Sel) (s : State) : Host.Outcome State Fault Refusal := lane2 d a b s umin
/-- UMAX (R187). -/
def execUmax (d : BitVec 7) (a b : Sel) (s : State) : Host.Outcome State Fault Refusal := lane2 d a b s umax
/-- AND (R187). -/
def execAnd (d : BitVec 7) (a b : Sel) (s : State) : Host.Outcome State Fault Refusal := lane2 d a b s (· &&& ·)
/-- OR (R187). -/
def execOr (d : BitVec 7) (a b : Sel) (s : State) : Host.Outcome State Fault Refusal := lane2 d a b s (· ||| ·)
/-- XOR (R187). -/
def execXor (d : BitVec 7) (a b : Sel) (s : State) : Host.Outcome State Fault Refusal := lane2 d a b s (· ^^^ ·)
/-- ANDN (R187). -/
def execAndn (d : BitVec 7) (a b : Sel) (s : State) : Host.Outcome State Fault Refusal :=
  lane2 d a b s (fun x y => x &&& ~~~y)
/-- SHL (R187). -/
def execShl (d : BitVec 7) (a b : Sel) (s : State) : Host.Outcome State Fault Refusal :=
  lane2 d a b s (fun x y => x <<< shAmt y)
/-- SHR (R187). -/
def execShr (d : BitVec 7) (a b : Sel) (s : State) : Host.Outcome State Fault Refusal :=
  lane2 d a b s (fun x y => x >>> shAmt y)
/-- SAR (R187). -/
def execSar (d : BitVec 7) (a b : Sel) (s : State) : Host.Outcome State Fault Refusal :=
  lane2 d a b s (fun x y => x.sshiftRight (shAmt y))
/-- ROT (R187). -/
def execRot (d : BitVec 7) (a b : Sel) (s : State) : Host.Outcome State Fault Refusal :=
  lane2 d a b s (fun x y => x.rotateLeft (shAmt y))

/-! Compares (R188). -/

/-- A compare: a mask of the active threads that meet a condition, into a G register; sources always block. -/
def compare (g : BitVec 5) (a b : Src) (s : State) (p : W32 → W32 → Bool) : Host.Outcome State Fault Refusal :=
  run 4 s [blk a, blk b] [.g g.toNat] (fun x =>
    .ok (x.setU g.toNat
      ((maskOf (fun t => x.g.act t && p (x.laneVal a t) (x.laneVal b t))).zeroExtend 32)))

/-- ICMP (08 R188, 06 R143). -/
def execIcmp (c : Cond) (g : BitVec 5) (a b : Src) (s : State) : Host.Outcome State Fault Refusal :=
  compare g a b s (icond true c)
/-- UCMP. -/
def execUcmp (c : Cond) (g : BitVec 5) (a b : Src) (s : State) : Host.Outcome State Fault Refusal :=
  compare g a b s (icond false c)
/-- FCMP: no flags, not even for a NaN. -/
def execFcmp (c : Cond) (g : BitVec 5) (a b : Src) (s : State) : Host.Outcome State Fault Refusal :=
  compare g a b s (fun x y => fcond c x.toNat y.toNat)

/-! Unary integer functions (R189). -/

/-- POPC (08 R189). -/
def execPopc (d : BitVec 7) (a : Sel) (s : State) : Host.Outcome State Fault Refusal := lane1 d a s popcount
/-- CLZ. -/
def execClz (d : BitVec 7) (a : Sel) (s : State) : Host.Outcome State Fault Refusal := lane1 d a s clz
/-- CTZ. -/
def execCtz (d : BitVec 7) (a : Sel) (s : State) : Host.Outcome State Fault Refusal := lane1 d a s ctz
/-- BREV. -/
def execBrev (d : BitVec 7) (a : Sel) (s : State) : Host.Outcome State Fault Refusal := lane1 d a s brev
/-- BSWAP. -/
def execBswap (d : BitVec 7) (a : Sel) (s : State) : Host.Outcome State Fault Refusal := lane1 d a s bswap
/-- SEXT8. -/
def execSext8 (d : BitVec 7) (a : Sel) (s : State) : Host.Outcome State Fault Refusal :=
  lane1 d a s (fun x => (x.truncate 8).signExtend 32)
/-- SEXT16. -/
def execSext16 (d : BitVec 7) (a : Sel) (s : State) : Host.Outcome State Fault Refusal :=
  lane1 d a s (fun x => (x.truncate 16).signExtend 32)
/-- ZEXT8. -/
def execZext8 (d : BitVec 7) (a : Sel) (s : State) : Host.Outcome State Fault Refusal :=
  lane1 d a s (fun x => x &&& 0xFF)
/-- ZEXT16. -/
def execZext16 (d : BitVec 7) (a : Sel) (s : State) : Host.Outcome State Fault Refusal :=
  lane1 d a s (fun x => x &&& 0xFFFF)
/-- NOT. -/
def execNot (d : BitVec 7) (a : Sel) (s : State) : Host.Outcome State Fault Refusal := lane1 d a s (fun x => ~~~x)
/-- NEG. -/
def execNeg (d : BitVec 7) (a : Sel) (s : State) : Host.Outcome State Fault Refusal := lane1 d a s (fun x => 0 - x)
/-- ABS. -/
def execAbs (d : BitVec 7) (a : Sel) (s : State) : Host.Outcome State Fault Refusal := lane1 d a s absW

/-! Bit fields, carry-less multiply, moves (R190 to R193). -/

/-- BFE (08 R190). -/
def execBfe (d : BitVec 7) (a b : Sel) (s : State) : Host.Outcome State Fault Refusal := lane2 d a b s bfe
/-- BFI (R190). -/
def execBfi (d : BitVec 7) (a b : Sel) (s : State) : Host.Outcome State Fault Refusal := lane3 d a b s bfi
/-- CLMUL (R191). -/
def execClmul (d : BitVec 7) (a b : Sel) (s : State) : Host.Outcome State Fault Refusal :=
  lane2 d a b s (fun x y => (clmul x y).extractLsb' 0 32)
/-- CLMULH (R191). -/
def execClmulh (d : BitVec 7) (a b : Sel) (s : State) : Host.Outcome State Fault Refusal :=
  lane2 d a b s (fun x y => (clmul x y).extractLsb' 32 32)
/-- MOV (R192). -/
def execMov (d : BitVec 7) (a : Sel) (s : State) : Host.Outcome State Fault Refusal := lane1 d a s id

/-- Does a condition source of SEL hold for thread `t` (R193)? -/
def State.selCond (s : State) (c : Src) (t : Nat) : Bool :=
  match c with
  | .v _ => s.laneVal c t != 0
  | _ => (s.laneVal c t).getLsbD t

/-- SEL (R193). -/
def execSel (d : BitVec 7) (a b c : Sel) (inv : Bool) (s : State) : Host.Outcome State Fault Refusal :=
  run 8 s [a, b, c] [dv d] (fun x =>
    .ok (x.setLanes d (fun t => if x.selCond c.src t != inv then x.laneVal a.src t else x.laneVal b.src t)))

/-! Shuffles (R194, R195): lanes of inactive threads are read as they stand. -/

/-- A shuffle: thread `t` reads the lane of A that `f` gives for it and its own B. Of an A that is no V register but differs
by thread, TIDX or a value read through Q0, it reads that thread's value too (DESIGN CHOICE, log 133). -/
def shuffle (d : BitVec 7) (a b : Sel) (s : State) (f : Nat → Nat → Nat) : Host.Outcome State Fault Refusal :=
  laneOp d [a, b] s (fun x t => x.laneVal a.src (f t (x.laneVal b.src t).toNat))

/-- SHFL (08 R194). -/
def execShfl (d : BitVec 7) (a b : Sel) (s : State) : Host.Outcome State Fault Refusal :=
  shuffle d a b s (fun _ b => b % 16)
/-- SHFLX. -/
def execShflx (d : BitVec 7) (a b : Sel) (s : State) : Host.Outcome State Fault Refusal :=
  shuffle d a b s (fun t b => t ^^^ (b % 16))
/-- SHFLU. -/
def execShflu (d : BitVec 7) (a b : Sel) (s : State) : Host.Outcome State Fault Refusal :=
  shuffle d a b s (fun t b => if b % 32 ≤ t then t - b % 32 else t)
/-- SHFLD. -/
def execShfld (d : BitVec 7) (a b : Sel) (s : State) : Host.Outcome State Fault Refusal :=
  shuffle d a b s (fun t b => if t + b % 32 < 16 then t + b % 32 else t)

end Sys2Proof.Machine
end

