-- ==== Sys2Proof/Machine/LaneFloat.lean ====
section
/-! DEFINITION. Lane floating point: FP32 and packed BF16 arithmetic, FUN, CVT, block scales, RND and XRED
(spec/08 R186, R196 to R209; 05 R133). -/

namespace Sys2Proof.Machine

/-- An FP32 pattern of a result. -/
def FRes.w (r : FRes) : W32 := BitVec.ofNat 32 r.bits

/-- A lane instruction that rounds by `mode`: `f` gives thread `t`'s result under a mode and a random word; its flags
are raised for the active threads, and SRCNT advances under SR (R186). -/
def laneF (d : BitVec 7) (sels : List Sel) (s : State) (mode : State → RMode) (f : State → RMode → Nat → Nat → FRes) :
    Host.Outcome State Fault Refusal :=
  run 4 s sels [dv d] (fun x =>
    let r := fun t => f x (mode x) (x.laneRnd t) t
    .ok (((x.setLanes d (fun t => (r t).w)).orFlags (x.actFlags (fun t => (r t).fl))).countSr (mode x)))

/-- An FP32 instruction of two sources under RMODE. -/
def fp2 (d : BitVec 7) (a b : Sel) (s : State) (f : RMode → Nat → Nat → Nat → FRes) : Host.Outcome State Fault Refusal :=
  laneF d [a, b] s State.rmode (fun x m w t =>
    f m (rnd16 false w) (x.laneVal a.src t).toNat (x.laneVal b.src t).toNat)

/-- A unary function without rounding of its own. -/
def fun1 (d : BitVec 7) (a : Sel) (s : State) (f : W32 → FRes) : Host.Outcome State Fault Refusal :=
  laneF d [a] s (fun _ => .rne) (fun x _ _ t => f (x.laneVal a.src t))

/-! FP32 arithmetic (R199). -/

/-- FADD (08 R199). -/
def execFadd (d : BitVec 7) (a b : Sel) (s : State) : Host.Outcome State Fault Refusal := fp2 d a b s (fAdd fp32)
/-- FSUB. -/
def execFsub (d : BitVec 7) (a b : Sel) (s : State) : Host.Outcome State Fault Refusal := fp2 d a b s (fSub fp32)
/-- FMUL. -/
def execFmul (d : BitVec 7) (a b : Sel) (s : State) : Host.Outcome State Fault Refusal := fp2 d a b s (fMul fp32)
/-- FFMA: one rounding of the exact a × b + d. -/
def execFfma (d : BitVec 7) (a b : Sel) (s : State) : Host.Outcome State Fault Refusal :=
  laneF d [a, b, blk (.v d)] s State.rmode (fun x m w t =>
    fFma fp32 m (rnd16 false w) (x.laneVal a.src t).toNat (x.laneVal b.src t).toNat (x.g.r.getV d.toNat t).toNat)
/-- FMIN. -/
def execFmin (d : BitVec 7) (a b : Sel) (s : State) : Host.Outcome State Fault Refusal :=
  lane2 d a b s (fun x y => BitVec.ofNat 32 (fMin fp32 x.toNat y.toNat))
/-- FMAX. -/
def execFmax (d : BitVec 7) (a b : Sel) (s : State) : Host.Outcome State Fault Refusal :=
  lane2 d a b s (fun x y => BitVec.ofNat 32 (fMax fp32 x.toNat y.toNat))

/-! FUN (R200 to R202). -/

/-- FABS (08 R201): clears the sign bit. -/
def execFabs (d : BitVec 7) (a : Sel) (s : State) : Host.Outcome State Fault Refusal :=
  lane1 d a s (fun x => x &&& 0x7FFFFFFF)
/-- FNEG: inverts the sign bit. -/
def execFneg (d : BitVec 7) (a : Sel) (s : State) : Host.Outcome State Fault Refusal :=
  lane1 d a s (fun x => x ^^^ 0x80000000)
/-- FRCP. -/
def execFrcp (d : BitVec 7) (a : Sel) (s : State) : Host.Outcome State Fault Refusal := fun1 d a s fRcp
/-- FRSQ. -/
def execFrsq (d : BitVec 7) (a : Sel) (s : State) : Host.Outcome State Fault Refusal := fun1 d a s fRsq
/-- FSQRT: correctly rounded under RMODE. -/
def execFsqrt (d : BitVec 7) (a : Sel) (s : State) : Host.Outcome State Fault Refusal :=
  laneF d [a] s State.rmode (fun x m w t => fSqrt m (rnd16 false w) (x.laneVal a.src t).toNat)
/-- FEXP2. -/
def execFexp2 (d : BitVec 7) (a : Sel) (s : State) : Host.Outcome State Fault Refusal := fun1 d a s fExp2
/-- FLOG2. -/
def execFlog2 (d : BitVec 7) (a : Sel) (s : State) : Host.Outcome State Fault Refusal := fun1 d a s fLog2
/-- FSIN. -/
def execFsin (d : BitVec 7) (a : Sel) (s : State) : Host.Outcome State Fault Refusal := fun1 d a s (fTrig 7 0)
/-- FCOS. -/
def execFcos (d : BitVec 7) (a : Sel) (s : State) : Host.Outcome State Fault Refusal := fun1 d a s (fTrig 8 1)
/-- FTANH. -/
def execFtanh (d : BitVec 7) (a : Sel) (s : State) : Host.Outcome State Fault Refusal := fun1 d a s fTanh
/-- FFRAC. -/
def execFfrac (d : BitVec 7) (a : Sel) (s : State) : Host.Outcome State Fault Refusal :=
  fun1 d a s (fun x => fFrac x.toNat)
/-- FRNDE. -/
def execFrnde (d : BitVec 7) (a : Sel) (s : State) : Host.Outcome State Fault Refusal :=
  fun1 d a s (fun x => fInt .rne x.toNat)
/-- FTRUNC. -/
def execFtrunc (d : BitVec 7) (a : Sel) (s : State) : Host.Outcome State Fault Refusal :=
  fun1 d a s (fun x => fInt .rtz x.toNat)
/-- FFLOOR. -/
def execFfloor (d : BitVec 7) (a : Sel) (s : State) : Host.Outcome State Fault Refusal :=
  fun1 d a s (fun x => fInt .rdn x.toNat)
/-- FCEIL. -/
def execFceil (d : BitVec 7) (a : Sel) (s : State) : Host.Outcome State Fault Refusal :=
  fun1 d a s (fun x => fInt .rup x.toNat)

/-! Packed BF16 pairs (R203). -/

/-- The low (`false`) or high half of a pair. -/
def half (hi : Bool) (w : W32) : Nat := if hi then w.toNat / 65536 else w.toNat % 65536

/-- The two halves of a pair's result together. -/
def pairUp (lo hi : FRes) : FRes := ⟨lo.bits + 65536 * hi.bits, lo.fl ||| hi.fl⟩

/-- A packed instruction: `f` computes one half from the halves of A, B and D; `ds` names D where it is a source (06 R140). -/
def b2op (d : BitVec 7) (a b : Sel) (ds : List Sel) (s : State) (f : RMode → Nat → Nat → Nat → Nat → FRes) :
    Host.Outcome State Fault Refusal :=
  laneF d ([a, b] ++ ds) s State.rmode (fun x m w t =>
    let h := fun (k : Bool) =>
      f m (rnd16 k w) (half k (x.laneVal a.src t)) (half k (x.laneVal b.src t)) (half k (x.g.r.getV d.toNat t))
    pairUp (h false) (h true))

/-- B2ADD (08 R203). -/
def execB2add (d : BitVec 7) (a b : Sel) (s : State) : Host.Outcome State Fault Refusal :=
  b2op d a b [] s (fun m w x y _ => fAdd bf16 m w x y)
/-- B2MUL. -/
def execB2mul (d : BitVec 7) (a b : Sel) (s : State) : Host.Outcome State Fault Refusal :=
  b2op d a b [] s (fun m w x y _ => fMul bf16 m w x y)
/-- B2FMA. -/
def execB2fma (d : BitVec 7) (a b : Sel) (s : State) : Host.Outcome State Fault Refusal :=
  b2op d a b [blk (.v d)] s (fun m w x y z => fFma bf16 m w x y z)
/-- B2MAX: exact, so it rounds nothing and does not advance SRCNT (DEDUCED, log 18). -/
def execB2max (d : BitVec 7) (a b : Sel) (s : State) : Host.Outcome State Fault Refusal :=
  lane2 d a b s (fun x y => (pairUp ⟨fMax bf16 (half false x) (half false y), 0⟩
    ⟨fMax bf16 (half true x) (half true y), 0⟩).w)
/-- B2MIN: exact, as B2MAX. -/
def execB2min (d : BitVec 7) (a b : Sel) (s : State) : Host.Outcome State Fault Refusal :=
  lane2 d a b s (fun x y => (pairUp ⟨fMin bf16 (half false x) (half false y), 0⟩
    ⟨fMin bf16 (half true x) (half true y), 0⟩).w)

/-! CVT (05 R133, 08 R204). -/

/-- Byte `k` of a lane. -/
def byteAt (a : W32) (k : Nat) : Nat := fieldOf a.toNat (8 * k) 8
/-- An exact widening into FP32. -/
def widenTo32 (f : FFmt) (c : Nat) : FRes := ⟨(narrow fp32 .rne 0 (unpack f c)).bits, 0⟩
/-- An FP32 pattern narrowed. -/
def narrowTo (f : FFmt) (m : RMode) (w : Nat) (a : W32) : FRes := narrow f m w (unpack fp32 a.toNat)
/-- A conversion to an integer of `n` bits. -/
def toIntN (n : Nat) (m : RMode) (w : Nat) (lo hi : Int) (a : W32) : FRes :=
  let r := toInt m w lo hi (unpack fp32 a.toNat)
  ⟨(BitVec.ofInt n r.1).toNat, r.2⟩

/-- The conversions that R133 calls exact. -/
def cvtExact : CvtOp → Bool
  | .f32bf16 _ | .f32f16 _ | .f32e4m3 _ | .f32e5m2 _ | .f32e3m2 | .f32e2m3 | .f32e2m1 _ | .f32s8 _ => true
  | _ => false

/-- A conversion (R133). -/
def cvt (op : CvtOp) (m : RMode) (w : Nat) (a : W32) : FRes :=
  match op with
  | .f32s32 => ofInt m w a.toInt
  | .f32u32 => ofInt m w a.toNat
  | .s32f32 => toIntN 32 m w (-2147483648) 2147483647 a
  | .u32f32 => toIntN 32 m w 0 4294967295 a
  | .f32bf16 hi => widenTo32 bf16 (half hi a)
  | .bf16f32 => narrowTo bf16 m w a
  | .f32f16 hi => widenTo32 fp16 (half hi a)
  | .f16f32 => narrowTo fp16 m w a
  | .f32e4m3 k => widenTo32 e4m3 (byteAt a k.toNat)
  | .f32e5m2 k => widenTo32 e5m2 (byteAt a k.toNat)
  | .e4m3f32 => narrowTo e4m3 m w a
  | .e5m2f32 => narrowTo e5m2 m w a
  | .f32e3m2 => widenTo32 e3m2 (fieldOf a.toNat 0 6)
  | .f32e2m3 => widenTo32 e2m3 (fieldOf a.toNat 0 6)
  | .e3m2f32 => narrowTo e3m2 m w a
  | .e2m3f32 => narrowTo e2m3 m w a
  | .f32e2m1 n => widenTo32 e2m1 (fieldOf a.toNat (4 * n.toNat) 4)
  | .e2m1f32 => narrowTo e2m1 m w a
  | .f32s8 k => ⟨(ofInt .rne 0 (BitVec.ofNat 8 (byteAt a k.toNat)).toInt).bits, 0⟩
  | .s8f32 => toIntN 8 m w (-128) 127 a

/-- The mode that a conversion rounds by: none where it is exact. -/
def State.cvtMode (s : State) (op : CvtOp) (m : RMode) : RMode :=
  if cvtExact op then .rne else if m = RMode.cur then s.rmode else m

/-- CVT (05 R133, 08 R204). -/
def execCvt (op : CvtOp) (m : RMode) (d : BitVec 7) (a : Sel) (s : State) : Host.Outcome State Fault Refusal :=
  laneF d [a] s (fun x => x.cvtMode op m) (fun x md w t => cvt op md (rnd16 false w) (x.laneVal a.src t))

/-! Block scales (R205 to R208). -/

/-- An instruction whose A names the pair Va, Va + 1: of an empty pair the selector of Va stands in TADDR. -/
def runPair (s : State) (a : BitVec 7) (t : Bool) (sels : List Sel) (dests : List DReg) (body : State → Res) :
    Host.Outcome State Fault Refusal :=
  if s.g.r.emptyV a.toNat || s.g.r.emptyV (a.toNat + 1) then
    finish 4 (if t then .trap (Trap.mk2 4 (BitVec.ofNat 64 (Sel.mk (.v a) t).code)) s else .block .reg s)
  else run 4 s (⟨.v a, t⟩ :: ⟨.v (a + 1), t⟩ :: sels) dests body

/-- The 32 elements of the block in Va and Va + 1: those of inactive threads are zero (R206). -/
def State.block (s : State) (a : BitVec 7) : List FVal :=
  (List.range 32).map (fun j =>
    if s.g.act (j / 2) then unpack fp32 (s.g.r.getV (a.toNat + j % 2) (j / 2)).toNat else .fin false 0 1)

/-- FI of a descriptor. -/
def descFi (w : W32) : Nat := fieldOf w.toNat 0 4
/-- SCALE of a descriptor (R205). -/
def descScale (fmt : Nat) (w : W32) : Nat := fieldOf w.toNat 16 (if isKX fmt then 10 else 8)

/-- A result with NV. -/
def invalid (bits : Nat) : FRes := ⟨bits, fNV⟩

/-- QSCL (08 R206). -/
def execQscl (d a : BitVec 7) (t : Bool) (b : Sel) (s : State) : Host.Outcome State Fault Refusal :=
  runPair s a t [b] [dv d] (fun x =>
    let r := fun t =>
      let fi := descFi (x.laneVal b.src t)
      match fiFmt fi with
      | none => invalid 0
      | some fmt => ⟨blockScale fmt (x.block a) * 65536 + fi, 0⟩
    .ok ((x.setLanes d (fun t => (r t).w)).orFlags (x.actFlags (fun t => (r t).fl))))

/-- QCVT (R207). -/
def execQcvt (d a : BitVec 7) (t : Bool) (b : Sel) (s : State) : Host.Outcome State Fault Refusal :=
  runPair s a t [b] [dv d] (fun x =>
    let r := fun t =>
      let w := x.laneVal b.src t
      match fiFmt (descFi w) with
      | none => invalid 0
      | some fmt =>
        let c := descScale fmt w
        let e := fun (k : Bool) => narrowIn fmt c x.rmode (rnd16 k (x.laneRnd t))
          (unpack fp32 (x.g.r.getV (a.toNat + k.toNat) t).toNat)
        ⟨(e false).bits + 2 ^ (blockElem fmt).width * (e true).bits, (e false).fl ||| (e true).fl⟩
    .ok (((x.setLanes d (fun t => (r t).w)).orFlags (x.actFlags (fun t => (r t).fl))).countSr x.rmode))

/-- QEXP (R208). -/
def execQexp (d : BitVec 7) (a b : Sel) (s : State) : Host.Outcome State Fault Refusal :=
  run 4 s [a, b] [dv d, dv (d + 1)] (fun x =>
    let r := fun (k : Bool) (t : Nat) =>
      let w := x.laneVal b.src t
      match fiFmt (descFi w) with
      | none => invalid 0x7FC00000
      | some fmt =>
        let wd := (blockElem fmt).width
        narrow fp32 x.rmode (rnd16 k (x.laneRnd t))
          (widenIn fmt (descScale fmt w) (fieldOf (x.laneVal a.src t).toNat (wd * k.toNat) wd))
    .ok ((((x.setLanes d (fun t => (r false t).w)).setLanes (d + 1) (fun t => (r true t).w)).orFlags
      (x.actFlags (fun t => (r false t).fl ||| (r true t).fl))).countSr x.rmode))

/-- RND (R209). -/
def execRnd (d : BitVec 7) (a b : Sel) (s : State) : Host.Outcome State Fault Refusal :=
  laneOp d [a, b] s (fun x t => BitVec.ofNat 32
    (philox (x.laneVal a.src t) (x.laneVal b.src t) 5 (BitVec.ofNat 32 x.t.index) x.l.seed x.g.sys.srkey))

/-! XRED (R196 to R198). -/

/-- A reduction of XRED: an identity and a function, or the fixed FADD tree. -/
inductive RedFn where
  | fold (id : W32) (f : W32 → W32 → W32)
  | tree

/-- One level of the FADD tree: the nodes and the flags of the roundings. -/
def treeLevel : List (Option W32) → List (Option W32) × FFlags
  | l :: r :: rest =>
    let q := treeLevel rest
    match l, r with
    | none, r => (r :: q.1, q.2)
    | l, none => (l :: q.1, q.2)
    | some x, some y =>
      let n := fAdd fp32 .rne 0 x.toNat y.toNat
      (some n.w :: q.1, n.fl ||| q.2)
  | l => (l, 0)

/-- `k` levels of the tree. -/
def treeLevels : Nat → List (Option W32) → List (Option W32) × FFlags
  | 0, l => (l, 0)
  | k + 1, l =>
    let q := treeLevel l
    let r := treeLevels k q.1
    (r.1, q.2 ||| r.2)

/-- The FADD tree over sixteen leaves (R198): a NaN anywhere gives the canonical NaN. -/
def faddTree (l : List (Option W32)) : FRes :=
  let r := treeLevels 4 l
  let w := (r.1.headD none).getD 0x80000000
  ⟨if isNaN fp32 w.toNat then canonNaN fp32 else w.toNat, r.2⟩

/-- red(S) over the lanes present (R197, R198). -/
def RedFn.red (f : RedFn) (l : List (Option W32)) : FRes :=
  match f with
  | .fold id g => ⟨(l.foldl (fun a x => match x with | some w => g a w | none => a) id).toNat, 0⟩
  | .tree => faddTree l

/-- XRED: its destination is marked empty at issue and full when the value lands (R196, R197; 05 R111). G60 to
G63 in handler mode are never empty (16 R408), so that a read before the value lands gives the old one (DESIGN CHOICE,
log 146). -/
def xred (fn : RedFn) (m : XMode) (d : BitVec 7) (a : Sel) (s : State) : Host.Outcome State Fault Refusal :=
  let gd := s.g.gName d.toNat
  run 4 s [a] [if m = .totalG then .g gd else dv d] (fun x =>
    let lanes := fun (p : Nat → Bool) =>
      (List.range 16).map (fun u => if x.g.act u && p u then some (x.laneVal a.src u) else none)
    let r := fun t => match m with
      | .forerunner => fn.red (lanes (fun u => decide (u < t)))
      | .inclusive => fn.red (lanes (fun u => decide (u ≤ t)))
      | _ => fn.red (lanes (fun _ => true))
    match m with
    | .totalG => .ok ((x.orFlags (r 0).fl).produce ⟨[.g gd (r 0).w], none, none⟩)
    | _ => .ok ((x.orFlags (x.actFlags (fun t => (r t).fl))).produce
        ⟨[.v d.toNat x.g.r.exm ((List.range 16).map (fun t => (r t).w))], none, none⟩))

/-- XRED.ADD (08 R196). -/
def execXredAdd (m : XMode) (d : BitVec 7) (a : Sel) (s : State) : Host.Outcome State Fault Refusal :=
  xred (.fold 0 (· + ·)) m d a s
/-- XRED.MIN. -/
def execXredMin (m : XMode) (d : BitVec 7) (a : Sel) (s : State) : Host.Outcome State Fault Refusal :=
  xred (.fold 0x7FFFFFFF smin) m d a s
/-- XRED.MAX. -/
def execXredMax (m : XMode) (d : BitVec 7) (a : Sel) (s : State) : Host.Outcome State Fault Refusal :=
  xred (.fold 0x80000000 smax) m d a s
/-- XRED.UMIN. -/
def execXredUmin (m : XMode) (d : BitVec 7) (a : Sel) (s : State) : Host.Outcome State Fault Refusal :=
  xred (.fold 0xFFFFFFFF umin) m d a s
/-- XRED.UMAX. -/
def execXredUmax (m : XMode) (d : BitVec 7) (a : Sel) (s : State) : Host.Outcome State Fault Refusal :=
  xred (.fold 0 umax) m d a s
/-- XRED.AND. -/
def execXredAnd (m : XMode) (d : BitVec 7) (a : Sel) (s : State) : Host.Outcome State Fault Refusal :=
  xred (.fold 0xFFFFFFFF (· &&& ·)) m d a s
/-- XRED.OR. -/
def execXredOr (m : XMode) (d : BitVec 7) (a : Sel) (s : State) : Host.Outcome State Fault Refusal :=
  xred (.fold 0 (· ||| ·)) m d a s
/-- XRED.XOR. -/
def execXredXor (m : XMode) (d : BitVec 7) (a : Sel) (s : State) : Host.Outcome State Fault Refusal :=
  xred (.fold 0 (· ^^^ ·)) m d a s
/-- XRED.FADD: the fixed tree, RNE. -/
def execXredFadd (m : XMode) (d : BitVec 7) (a : Sel) (s : State) : Host.Outcome State Fault Refusal :=
  xred .tree m d a s
/-- XRED.FMIN. -/
def execXredFmin (m : XMode) (d : BitVec 7) (a : Sel) (s : State) : Host.Outcome State Fault Refusal :=
  xred (.fold 0x7F800000 (fun x y => BitVec.ofNat 32 (fMin fp32 x.toNat y.toNat))) m d a s
/-- XRED.FMAX. -/
def execXredFmax (m : XMode) (d : BitVec 7) (a : Sel) (s : State) : Host.Outcome State Fault Refusal :=
  xred (.fold 0xFF800000 (fun x y => BitVec.ofNat 32 (fMax fp32 x.toNat y.toNat))) m d a s

end Sys2Proof.Machine
end

