-- ==== Sys2Proof/Machine/Units.lean ====
section
/-! DEFINITION. Units that fail, spares that come in, and degraded operation (spec/01 R19 to R21; 02 R23, R44). -/

namespace Sys2Proof.Machine

/-- Is a context resident? -/
def State.occupied (s : State) : Bool := s.ctxs.any (fun p => p.2.live)

/-! Cores (R19 to R21). -/

/-- A core of which nothing but its damage is left (module reset). -/
def Core.onlyDamage (c : Core) : Core := { Core.reset with strands := c.strands, columns := c.columns }

/-- The cores of a die with `p` spares once spares have come in: a spare takes the number of a core that failed, the lowest
first; with none left the cores above move down (R19). A fenced strand or column has its spare too. -/
def mendList : Nat → List Core → List Core × Nat
  | p, [] => ([], p)
  | p, c :: l =>
    if c.lost then
      match p with
      | 0 => mendList 0 l
      | n + 1 => let r := mendList n l; (Core.reset :: r.1, r.2)
    else let r := mendList p l; ({ c with fenced := false } :: r.1, r.2)

/-- The cores of a die after spares have come in, and the spares left. -/
def State.mendCores (s : State) (d : Nat) : List Core × Nat :=
  mendList (s.die d).spares ((List.range (s.die d).cores).map (fun i => s.core (96 * d + i)))

/-- A die's cores by number. -/
def State.setCores (t : Tbl Core) (d : Nat) (l : List Core) : Tbl Core :=
  (List.range 96).foldl (fun x i => tset Core.reset x (96 * d + i) (l.getD i Core.reset)) t

/-- The channels of a die in service: those that have failed are out, retired or not yet (21 R459, R465). -/
def Die.inService (d : Die) : Nat := d.chans - d.failed.length

/-- The capability record follows the cores and channels in service (R21; 21 R459), once firmware runs. -/
def State.publishCounts (s : State) : State :=
  if s.hif.service = 0 then s
  else s.setCap (fun h => { h with
    cores0 := s.coreCount 0
    cores1 := s.coreCount 1
    chan0 := (s.die 0).inService
    chan1 := (s.die 1).inService })

/-! Channels (02 R44). -/

/-- Channels of a die have failed. -/
def State.failChans (s : State) (d : Nat) (ks : List Nat) : State :=
  s.modDie d (fun x => { x with failed := x.failed ++ ks.filter (fun k => !x.failed.contains k && !x.retired.contains k) })

/-- The failed channels of a die are retired (02 R44): the rest is re-placed, so that no line of the die is resident any more
and its contents are lost. That the range then reads as zeros until it is restored is the model's choice (DESIGN CHOICE,
log 105): the manual says only that the contents do not survive. -/
def State.retireDie (s : State) (d : Nat) : State :=
  let x := s.die d
  if x.failed.isEmpty then s
  else
    let s1 := (List.range 4).foldl (fun (st : State) i => st.modStk (4 * d + i) (fun k => { k with sets := [] }))
      (s.modDie d (fun x => { x with retired := x.retired ++ x.failed, failed := [] }))
    { s1 with
      hbm := mclear s1.hbm (d * die1Base) die1Base
      ecc := s1.ecc.filter (fun k => decide (dieOfPa (64 * k) ≠ d)) }

/-- The failed channels of both dies are retired. -/
def State.retireChans (s : State) : State := (s.retireDie 0).retireDie 1

/-- A die after module reset: spares used, cores given up and channels retired so far (R20, R21). -/
def State.freshDie (s : State) (d : Nat) : Die :=
  let o := s.die d
  let m := s.mendCores d
  { Die.reset with
    spares := m.2
    cores := m.1.length
    retired := o.retired ++ o.failed }

/-- While the module is drained, with no context resident, spares come in and failed channels are retired (R20; 02 R44). When
the control processor does so is the model's choice: as soon as it may (log 103). -/
def State.mend (s : State) : State :=
  if s.occupied ∨ s.hif.service = 0 then s
  else
    let fix := fun (st : State) (d : Nat) =>
      let m := st.mendCores d
      ({ st with cores := State.setCores st.cores d m.1 }).modDie d (fun x => { x with spares := m.2, cores := m.1.length })
    ((fix (fix s 0) 1).retireChans).publishCounts

/-! Failures (R20, R21). -/

/-- A core fenced off: its teams are gone, and their launches fail as by an uncorrectable error (16 R418). -/
def State.fenceCore (s : State) (c : Nat) : State :=
  ((s.core c).teams.foldl (fun st tk => (st.markFailed (st.team tk).launch).killTeam tk) s).modCore c (fun co =>
    { co with lost := true })

/-- Cooperative launches that wait for their place and no longer fit on the cores left are refused (R21; 15 R401, R384), and the
module asks to leave its pod (17 R444). -/
def State.refuseCoop (s : State) : State :=
  (s.launches.filter (fun p => p.2.live && !p.2.dead && p.2.coop && p.2.failed.isNone &&
    (s.launchTeams p.1).all (fun tk => !(s.team tk).here) && !s.couldAll p.2)).foldl (fun st p =>
      (st.endWith p.1 2 2).modMem (fun m => { m with leaving := true })) s

/-- A core fails: it is fenced off, and launches that it leaves without room are refused. -/
def State.loseCore (s : State) (c : Nat) : State := ((((s.restWait.fenceCore c).refuseCoop).publishCounts).mend).drainDone

/-- A strand or columns of a quadrant fail within their spares: they are fenced off, and the core takes no new team until the
spare comes in (log 104). The manual sends the work already on the unit down the path of uncorrectable errors; that this is
every launch with a group in the quadrant is the model's choice (DESIGN CHOICE, log 104). -/
def State.fenceUnit (s : State) (c q : Nat) : State :=
  ((((s.coreKeys c).foldl (fun st gk => if quadOf gk = q then st.markFailed (st.teamG gk).launch else st) s.restWait).modCore c (fun co =>
    { co with fenced := true })).refuseCoop).mend

/-- UNIT_FAILURE (R20, R21): a core; a strand, of which a second failure in its quadrant fails the core; columns, which fail the
core beyond their spares; a lane of a port, which falls back to 4 (21 R459); words of a segment or of an accumulator, which
can no longer be corrected (09 R237); a channel, retired at once only while no context is resident (02 R44); or symbols of a transfer, one
of which is corrected and counted (02 R23), an error that was there before no longer persisting (16 R417). -/
def execUnitFailure (u : FailUnit) (s : State) : Host.Outcome State Fault Refusal :=
  .next (match u with
    | .core n => s.loseCore n
    | .columns n q k =>
      let s1 := s.modCore n (fun co => { co with columns := tset 0 co.columns q (tget 0 co.columns q + k) })
      if k = 0 then s
      else if Config.spareColumns < tget 0 (s1.core n).columns q then s1.loseCore n
      else s1.fenceUnit n q
    | .strand n q =>
      let s1 := s.modCore n (fun co => { co with strands := tset 0 co.strands q (tget 0 co.strands q + 1) })
      if 2 ≤ tget 0 (s1.core n).strands q then s1.loseCore n else s1.fenceUnit n q
    | .lane p => s.setCap (fun h => { h with full8 := h.full8 &&& ~~~(BitVec.ofNat 18 (2 ^ p)) })
    | .segment n g =>
      if 512 ≤ g then s
      else s.modCore n (fun co => { co with badSegs := if co.badSegs.contains g then co.badSegs else co.badSegs ++ [g] })
    | .accum n p => if 4 ≤ p then s else s.setAcc n p { (s.core n).tile1 p with bad := true }
    | .channel d k => if 128 ≤ k ∨ 2 ≤ d then s else (s.failChans d [k]).mend
    | .symbols pa several =>
      if s.inHbm pa = false then s
      else if several then { s with ecc := if s.ecc.contains (pa / 64) then s.ecc else s.ecc ++ [pa / 64] }
      else { s with ecc := s.ecc.erase (pa / 64) }.modStk (s.stackOf pa) (fun k => { k with errors := k.errors + 1 }))

end Sys2Proof.Machine
end

