-- ==== Sys2Proof/Machine/Window.lean ====
section
/-! DEFINITION. The debug window: the image of a stopped group, in the order of the group rows of 16 R422, and the words of
BAR 4 (spec/21 R466; 16 R420). -/

namespace Sys2Proof.Machine

/-- Byte `i` of a number. -/
def byteOfWord (v i : Nat) : Byte := BitVec.ofNat 8 (v / 2 ^ (8 * i))

/-! The third row: Q3 with its count, the queue selection, the path counters, the fabric errors, the parked state with its
answer, and the debug stop; 36 words (log 49). -/

/-- Word `i` of three that hold a fabric error: the code with a valid bit, and the address. -/
def peekFab (f : Option FabErr) (i : Nat) : W32 :=
  match f with
  | none => 0
  | some e => match i with
    | 0 => BitVec.ofNat 32 (2 ^ 31 + e.code % 16)
    | 1 => e.addr.truncate 32
    | _ => e.addr.extractLsb' 32 32

/-- Such a word written: bit 31 of the first says whether there is an error. -/
def pokeFab (f : Option FabErr) (i : Nat) (v : W32) : Option FabErr :=
  let e := f.getD ⟨0, 0, 0⟩
  match i with
  | 0 => if v.getLsbD 31 then some { e with code := v.toNat % 16 } else none
  | 1 => f.map (fun x => { x with addr := setWordHalf x.addr false v })
  | _ => f.map (fun x => { x with addr := setWordHalf x.addr true v })

/-- Word `i` of three that hold the parked state: cause, stored answer (1 RETRY, 2 FAIL), a valid bit, and the threads; then
the address. -/
def peekPark (p : Option Parked) (i : Nat) : W32 :=
  match p with
  | none => 0
  | some x => match i with
    | 0 => BitVec.ofNat 32 (x.mask.toNat * 65536 + 4096 +
        256 * (match x.answer with | none => 0 | some true => 1 | some false => 2) + x.cause % 256)
    | 1 => x.va.truncate 32
    | _ => x.va.extractLsb' 32 32

/-- A word of the third row as it is read. -/
def Group.peekSync (g : Group) (k : Nat) : W32 :=
  if k = 0 then BitVec.ofNat 32 g.y.q3.length
  else if k < 17 then g.y.q3.getD (k - 1) 0
  else if k = 17 then (if g.y.qsel then 1 else 0)
  else if k < 26 then BitVec.ofNat 32 (g.y.path (k - 18))
  else if k < 29 then peekFab g.y.fab3 (k - 26)
  else if k < 32 then peekFab g.y.fab7 (k - 29)
  else if k < 35 then peekPark g.y.parked (k - 32)
  else if g.y.status = .debug then 1 else 0

/-- A word of the third row written: a group in debug stop is neither parked nor free to go on. -/
def Group.pokeSync (g : Group) (k : Nat) (v : W32) : Group :=
  let y := g.y
  if k = 0 then
    let n := min 16 v.toNat
    { g with y := { y with q3 := (y.q3 ++ List.replicate 16 0).take n } }
  else if k < 17 then { g with y := { y with q3 := y.q3.set (k - 1) v } }
  else if k = 17 then { g with y := { y with qsel := v.getLsbD 0 } }
  else if k < 26 then { g with y := { y with paths := tset 0 y.paths (k - 18) (v.toNat % 65536) } }
  else if k < 29 then { g with y := { y with fab3 := pokeFab y.fab3 (k - 26) v } }
  else if k < 32 then { g with y := { y with fab7 := pokeFab y.fab7 (k - 29) v } }
  else g

/-! The fourth row: the state of the two tape streams (10 R269), 32 words each. -/

/-- A bit of a word. -/
def bitAt (b : Bool) (n : Nat) : Nat := if b then 2 ^ n else 0

/-- The code of a stream's state, in the order of 10 R240. -/
def StreamSt.code (x : StreamSt) : Nat := match x with | .closed => 0 | .record => 1 | .dropping => 2 | .replay => 3 | .failed => 4
/-- The state of a code. -/
def streamOf (n : Nat) : StreamSt := match n with | 1 => .record | 2 => .dropping | 3 => .replay | 4 => .failed | _ => .closed

/-- A word of a stream's state as it is read. -/
def Stream.peek (x : Stream) (k : Nat) : W32 :=
  if k = 0 then
    BitVec.ofNat 32 (x.st.code + bitAt x.lrm 3 + bitAt x.divp 4 + 32 * x.ovf.toNat + bitAt x.inSpill 7 + bitAt x.marked 8 +
      bitAt x.markDrop 9 + bitAt x.posSpill 10 + bitAt x.spoiled 11 + 65536 * (x.q0 % 256))
  else if k < 9 then BitVec.ofNat 32 (x.region.toNat / 2 ^ (32 * (k - 1)))
  else if k < 17 then BitVec.ofNat 32 (x.spillRec.toNat / 2 ^ (32 * (k - 9)))
  else match k with
    | 17 => x.staging
    | 18 => BitVec.ofNat 32 x.len
    | 19 => BitVec.ofNat 32 x.pm
    | 20 => x.dropId ++ x.markId
    | 21 => BitVec.ofNat 32 x.seq
    | 22 => BitVec.ofNat 32 x.pos
    | 23 => BitVec.ofNat 32 x.popped
    | _ => 0

/-- A word of a 256-bit record replaced. -/
def setRecWord (rc : BitVec 256) (i : Nat) (v : W32) : BitVec 256 :=
  BitVec.ofNat 256 (rc.toNat - fieldOf rc.toNat (32 * i) 32 * 2 ^ (32 * i) + v.toNat * 2 ^ (32 * i))

/-- A word of a stream's state written. -/
def Stream.poke (x : Stream) (k : Nat) (v : W32) : Stream :=
  if k = 0 then
    { x with
      st := streamOf (fieldOf v.toNat 0 3)
      lrm := v.getLsbD 3
      divp := v.getLsbD 4
      ovf := v.extractLsb' 5 2
      inSpill := v.getLsbD 7
      marked := v.getLsbD 8
      markDrop := v.getLsbD 9
      posSpill := v.getLsbD 10
      spoiled := v.getLsbD 11
      q0 := fieldOf v.toNat 16 8 }
  else if k < 9 then { x with region := setRecWord x.region (k - 1) v }
  else if k < 17 then { x with spillRec := setRecWord x.spillRec (k - 9) v }
  else match k with
    | 17 => { x with staging := v }
    | 18 => { x with len := v.toNat % 2 ^ 31 }
    | 19 => { x with pm := v.toNat }
    | 20 => { x with markId := v.truncate 16, dropId := v.extractLsb' 16 16 }
    | 21 => { x with seq := v.toNat }
    | 22 => { x with pos := v.toNat }
    | 23 => { x with popped := v.toNat }
    | _ => x

/-! The image of a group. -/

/-- A word of a stopped group's state image as it is read (R466), laid out in the order of the group rows of 16 R422
(log 49). -/
def Group.peekImage (g : Group) (o : Nat) (cb : W64) : W32 :=
  let r := g.r
  if o < 2048 then tget 0 r.v o
  else if o < 2052 then BitVec.ofNat 32 (r.vEmpty.toNat / 2 ^ (32 * (o - 2048)))
  else if o < 2116 then tget 0 r.g (o - 2052)
  else if o < 2118 then BitVec.ofNat 32 (r.gEmpty.toNat / 2 ^ (32 * (o - 2116)))
  else if o < 2122 then tget 0 r.hg (o - 2118)
  else if o < 2250 then BitVec.ofNat 32 ((r.getB ((o - 2122) / 8)).toNat / 2 ^ (32 * ((o - 2122) % 8)))
  else match o - 2250 with
    | 0 => (r.pc - cb).truncate 32
    | 1 => r.exm.zeroExtend 32
    | 2 => r.spp
    | 3 => g.sys.fpflags
    | 4 => g.sys.rmode
    | 5 => g.sys.srkey
    | 6 => g.sys.srcnt
    | 7 => g.sys.tcause
    | 8 => g.sys.tepc
    | 9 => g.sys.taddr.truncate 32
    | 10 => g.sys.taddr.extractLsb' 32 32
    | 11 => g.sys.tmask.zeroExtend 32
    | 12 => g.sys.texm.zeroExtend 32
    | 13 => BitVec.ofNat 32 (g.sys.hm.toNat + 2 * g.sys.ss.toNat)
    | k => if k < 50 then g.peekSync (k - 14) else if k < 114 then (if k < 82 then g.s0 else g.s1).peek ((k - 50) % 32) else 0

/-- A word of a stopped group's state image written (R466), laid out in the order of the rows of 16 R422. -/
def Group.pokeImage (g : Group) (o : Nat) (v : W32) (cb : W64) : Group :=
  let r := g.r
  if o < 2048 then { g with r := { r with v := tset 0 r.v o v } }
  else if o < 2052 then
    let b := 32 * (o - 2048)
    let x := r.vEmpty.toNat
    { g with r := { r with vEmpty := BitVec.ofNat 128 (x - fieldOf x b 32 * 2 ^ b + v.toNat * 2 ^ b) } }
  else if o < 2116 then { g with r := { r with g := tset 0 r.g (o - 2052) v } }
  else if o < 2118 then { g with r := { r with gEmpty := setWordHalf r.gEmpty (o == 2117) v } }
  else if o < 2122 then { g with r := { r with hg := tset 0 r.hg (o - 2118) v } }
  else if o < 2250 then
    let k := (o - 2122) / 8
    let b := 32 * ((o - 2122) % 8)
    let x := (r.getB k).toNat
    { g with r := r.setB k (BitVec.ofNat 256 (x - fieldOf x b 32 * 2 ^ b + v.toNat * 2 ^ b)) }
  else match o - 2250 with
    | 0 => { g with r := { r with pc := cb + v.zeroExtend 64 } }
    | 1 => { g with r := { r with exm := v.truncate 16 } }
    | 2 => { g with r := { r with spp := v } }
    | 3 => { g with sys := { g.sys with fpflags := v &&& 0xF } }
    | 4 => { g with sys := { g.sys with rmode := if fieldOf v.toNat 0 3 < 5 then v &&& 7 else 0 } }
    | 5 => { g with sys := { g.sys with srkey := v } }
    | 6 => { g with sys := { g.sys with srcnt := v } }
    | 7 => { g with sys := { g.sys with tcause := v &&& 0xFFFF } }
    | 8 => { g with sys := { g.sys with tepc := v } }
    | 9 => { g with sys := { g.sys with taddr := setWordHalf g.sys.taddr false v } }
    | 10 => { g with sys := { g.sys with taddr := setWordHalf g.sys.taddr true v } }
    | 11 => { g with sys := { g.sys with tmask := v.truncate 16 } }
    | 12 => { g with sys := { g.sys with texm := v.truncate 16 } }
    | 13 => { g with sys := { g.sys with hm := v.getLsbD 0, ss := v.getLsbD 1 } }
    | k =>
      if k < 50 then g.pokeSync (k - 14) v
      else if k < 82 then { g with s0 := g.s0.poke (k - 50) v }
      else if k < 114 then { g with s1 := g.s1.poke (k - 82) v }
      else g

/-! BAR 4. -/

/-- The word that the host reads at an offset of BAR 4 (R466): entry `i` of the list of stopped groups is two words, CTX
with CORE in [31:16], and SLOT (log 49); their images follow from 0x4000. -/
def State.debugWord (s : State) (off : Nat) : W32 :=
  if off < 0x4000 then
    match s.hif.dbg[off / 8]? with
    | none => 0
    | some gk =>
      if 63 ≤ off / 8 then 0
      else if off / 4 % 2 = 0 then BitVec.ofNat 32 (s.coreNoG gk * 65536 + s.ctxNoG gk) else BitVec.ofNat 32 (s.slotNo gk)
  else
    match s.hif.dbg[off / 0x4000 - 1]? with
    | none => 0
    | some gk => if 63 ≤ off / 0x4000 - 1 then 0 else (s.grp gk).peekImage (off % 0x4000 / 4) (s.launchG gk).cb

/-- The byte that the host reads at an offset of BAR 4. -/
def State.debugByte (s : State) (off : Nat) : Byte := byteOfWord (s.debugWord (off / 4 * 4)).toNat (off % 4)

/-- The other groups of a team that a STOPTEAM stop holds go on; those with a stop of their own stay. -/
def State.resumeTeam (s : State) (tk : Nat) : State :=
  (s.teamKeys tk).foldl (fun st k =>
    if (st.grp k).y.status = .debug ∧ st.hif.dbg.contains k = false then
      st.modGrp k (fun g => { g with y := { g.y with status := .ready } }) else st) s

/-- Threads that an instruction still has to send for, kept only while its group stands at it (11 R282): a debugger may have
moved TEPC. -/
def keepAt (pc : W64) (u : Option (W64 × BitVec 16)) : Option (W64 × BitVec 16) := u.filter (fun x => decide (x.1 = pc))

/-- The group of an entry goes on with the effect of ERET, SS as written (16 R420). -/
def State.resumeAt (s : State) (entry : Nat) (ss : Bool) : State :=
  match s.hif.dbg[entry]? with
  | none => s
  | some gk =>
    if 63 ≤ entry then s
    else
      let s1 := s.modHif (fun h => { h with dbg := h.dbg.eraseIdx entry })
      let s2 := s1.modGrp gk (fun g =>
        let e := { g with sys := { g.sys with ss := ss } }.eret (s.launchG gk).cb
        { e with y := { e.y with
          status := .ready
          unsent := keepAt e.r.pc e.y.unsent
          unsentH := keepAt e.r.pc e.y.unsentH } })
      if (s.ctxG gk).dbg.getLsbD 1 then s2.resumeTeam (teamOf gk) else s2

/-- A word written by the host at an offset of BAR 4: the RESUME word of an entry, or a word of the image of a stopped group;
any other write is ignored (R466). -/
def State.debugPoke (s : State) (off : Nat) (v : W32) : State :=
  let entry := off / 0x4000 - 1
  if off < 0x4000 ∨ 63 ≤ entry ∨ off % 4 ≠ 0 then s
  else if off % 0x4000 = 0x3FFC then s.resumeAt entry (v.getLsbD 0)
  else match s.hif.dbg[entry]? with
    | some gk =>
      if (s.grp gk).y.status = .debug then s.modGrp gk (fun g => g.pokeImage (off % 0x4000 / 4) v (s.launchG gk).cb) else s
    | none => s

end Sys2Proof.Machine
end

