-- ==== Sys2Proof/Machine/Shake.lean ====
section
/-! DEFINITION. SHAKE256 with 256-bit output (spec/21 R460 to R462 name it; FIPS 202 defines it; PRESUMED, log 9). -/

namespace Sys2Proof.Machine

/-- Lane (x, y) of a permutation state, kept at number x + 5y. -/
def kLane (a : List W64) (x y : Nat) : W64 := a.getD (x % 5 + 5 * (y % 5)) 0

/-- The rotation of lane (x, y), at number x + 5y. -/
def kRot : List Nat :=
  [0, 1, 62, 28, 27, 36, 44, 6, 55, 20, 3, 10, 43, 25, 39, 41, 45, 15, 21, 8, 18, 2, 61, 56, 14]

/-- The constants of the 24 rounds. -/
def kRounds : List W64 :=
  [0x0000000000000001, 0x0000000000008082, 0x800000000000808A, 0x8000000080008000, 0x000000000000808B, 0x0000000080000001,
   0x8000000080008081, 0x8000000000008009, 0x000000000000008A, 0x0000000000000088, 0x0000000080008009, 0x000000008000000A] ++
  [0x000000008000808B, 0x800000000000008B, 0x8000000000008089, 0x8000000000008003, 0x8000000000008002, 0x8000000000000080,
   0x000000000000800A, 0x800000008000000A, 0x8000000080008081, 0x8000000000008080, 0x0000000080000001, 0x8000000080008008]

/-- Lanes 0 to 24 given by column and row. -/
def kLanes (f : Nat → Nat → W64) : List W64 := (List.range 25).map (fun i => f (i % 5) (i / 5))

/-- Column parities mixed into every lane. -/
def kTheta (a : List W64) : List W64 :=
  let c := (List.range 5).map (fun x => (List.range 5).foldl (fun v y => v ^^^ kLane a x y) 0)
  let d := (List.range 5).map (fun x => c.getD ((x + 4) % 5) 0 ^^^ (c.getD ((x + 1) % 5) 0).rotateLeft 1)
  kLanes (fun x y => kLane a x y ^^^ d.getD x 0)

/-- Lanes rotated and moved: lane (x, y) comes from lane (x + 3y, x). -/
def kMove (a : List W64) : List W64 :=
  kLanes (fun x y => (kLane a (x + 3 * y) x).rotateLeft (kRot.getD ((x + 3 * y) % 5 + 5 * x) 0))

/-- The one step that is not linear, and the round's constant. -/
def kChi (a : List W64) (rc : W64) : List W64 :=
  kLanes (fun x y => kLane a x y ^^^ (~~~kLane a (x + 1) y &&& kLane a (x + 2) y) ^^^ (if x = 0 ∧ y = 0 then rc else 0))

/-- The permutation. -/
def keccakF (a : List W64) : List W64 := kRounds.foldl (fun s rc => kChi (kMove (kTheta s)) rc) a

/-- The bytes of a block: 1088 bits. -/
def kRate : Nat := 136

/-- A message padded to whole blocks: 0x1F, zeros, and 0x80 in the last byte. -/
def kPad (m : List Byte) : List Byte :=
  let z := kRate - 1 - m.length % kRate
  m ++ (if z = 0 then [0x9F] else 0x1F :: List.replicate (z - 1) 0 ++ [0x80])

/-- The first `n` blocks of a padded message absorbed in order. -/
def kAbsorb : Nat → List Byte → List W64 → List W64
  | 0, _, a => a
  | n + 1, m, a =>
    let b := m.take kRate
    kAbsorb n (m.drop kRate) (keccakF ((List.range 25).map (fun i =>
      a.getD i 0 ^^^ (if i < 17 then BitVec.ofNat 64 (leNat ((b.drop (8 * i)).take 8)) else 0))))

/-- The digest as 32 bytes. -/
def shakeBytes (m : List Byte) : List Byte :=
  let a := kAbsorb (m.length / kRate + 1) (kPad m) (List.replicate 25 0)
  (List.range 4).flatMap (fun i => leBytes 8 (a.getD i 0).toNat)

/-- The digest as a number, its first byte lowest. -/
def shake256 (m : List Byte) : BitVec 256 := BitVec.ofNat 256 (leNat (shakeBytes m))

end Sys2Proof.Machine
end

