-- ==== Sys2Proof/Machine/Xmss.lean ====
section
/-! DEFINITION. XMSS and XMSS^MT signatures with SHAKE256, n = 32 and Winternitz parameter 16 (spec/21 R460 to R462 name
the parameter sets; RFC 8391 and SP 800-208 define them; PRESUMED, log 9). -/

namespace Sys2Proof.Machine

/-- The `n` bytes of a number, highest first. -/
def beBytes (n v : Nat) : List Byte := (leBytes n v).reverse
/-- The number of some bytes, highest first. -/
def beNat (l : List Byte) : Nat := leNat l.reverse
/-- Bytes added without carry. -/
def xorBytes (a b : List Byte) : List Byte := List.zipWith (fun x y => x ^^^ y) a b

/-- A keyed hash of kind `t`: 0 of a chain, 1 of a tree, 2 of a message, 3 for keys and masks. -/
def xHash (t : Nat) (key m : List Byte) : List Byte := shakeBytes (beBytes 32 t ++ key ++ m)

/-- A hash address: its eight words. -/
abbrev Adrs := List Nat

/-- Word `i` of an address replaced. -/
def Adrs.put (a : Adrs) (i v : Nat) : Adrs := a.set i v

/-- The pseudorandom value of a public seed at an address, for the use `k` of word 7. -/
def xPrf (seed : List Byte) (a : Adrs) (k : Nat) : List Byte := xHash 3 seed ((a.put 7 k).flatMap (beBytes 4))

/-- `n` steps of a hash chain from step `i` on. -/
def xChain (seed : List Byte) (a : Adrs) : Nat → Nat → List Byte → List Byte
  | _, 0, x => x
  | i, n + 1, x =>
    let b := a.put 6 i
    xChain seed a (i + 1) n (xHash 0 (xPrf seed b 0) (xorBytes x (xPrf seed b 1)))

/-- Two nodes hashed into the one above. -/
def xNode (seed : List Byte) (a : Adrs) (l r : List Byte) : List Byte :=
  xHash 1 (xPrf seed a 0) (xorBytes l (xPrf seed a 1) ++ xorBytes r (xPrf seed a 2))

/-- The base-16 digits of bytes, the high half first. -/
def digits16 (m : List Byte) : List Nat := m.flatMap (fun b => [b.toNat / 16, b.toNat % 16])

/-- The 67 chain lengths that sign a digest: its digits and those of their checksum. -/
def xDigits (m : List Byte) : List Nat :=
  let d := digits16 m
  d ++ (digits16 (beBytes 2 ((d.map (fun x => 15 - x)).sum * 16))).take 3

/-- Pieces of 32 bytes. -/
def pieces32 (n : Nat) (l : List Byte) : List (List Byte) := (List.range n).map (fun i => (l.drop (32 * i)).take 32)

/-- The address of the one-time key of a leaf. -/
def otsAdrs (layer tree leaf : Nat) : Adrs := [layer, tree / 2 ^ 32, tree % 2 ^ 32, 0, leaf, 0, 0, 0]

/-- The public parts of a one-time key, from a signature's. -/
def otsPublic (seed : List Byte) (a : Adrs) (m : List Byte) (sig : List (List Byte)) : List (List Byte) :=
  ((xDigits m).zip sig).zipIdx.map (fun p => xChain seed (a.put 5 p.2) p.1.1 (15 - p.1.1) p.1.2)

/-- One level of a list of nodes: pairs hashed, an odd one passed up. -/
def xLevel (seed : List Byte) (a : Adrs) : Nat → List (List Byte) → List (List Byte)
  | i, l :: r :: rest => xNode seed (a.put 6 i) l r :: xLevel seed a (i + 1) rest
  | _, l => l

/-- The root of a list of at most 2^n nodes. -/
def xRoot (seed : List Byte) (a : Adrs) : Nat → Nat → List (List Byte) → List Byte
  | 0, _, l => l.headD []
  | n + 1, h, l => xRoot seed a n (h + 1) (xLevel seed (a.put 5 h) 0 l)

/-- The leaf that a one-time public key gives. -/
def xLeaf (seed : List Byte) (layer tree leaf : Nat) (pk : List (List Byte)) : List Byte :=
  xRoot seed [layer, tree / 2 ^ 32, tree % 2 ^ 32, 1, leaf, 0, 0, 0] 7 0 pk

/-- The address of a tree's nodes. -/
def treeAdrs (layer tree : Nat) : Adrs := [layer, tree / 2 ^ 32, tree % 2 ^ 32, 2, 0, 0, 0, 0]

/-- From a node up a path: `k` is its height, `i` its number there. -/
def xClimb (seed : List Byte) (a : Adrs) : Nat → Nat → List Byte → List (List Byte) → List Byte
  | _, _, x, [] => x
  | k, i, x, y :: ys =>
    let b := (a.put 5 k).put 6 (i / 2)
    xClimb seed a (k + 1) (i / 2) (if i % 2 = 0 then xNode seed b x y else xNode seed b y x) ys

/-- The root that a signature over a digest leads to: 67 chain values, then the path. -/
def rootFromSig (seed : List Byte) (layer tree leaf : Nat) (m : List Byte) (sig : List Byte) : List Byte :=
  let pk := otsPublic seed (otsAdrs layer tree leaf) m (pieces32 67 sig)
  xClimb seed (treeAdrs layer tree) 0 leaf (xLeaf seed layer tree leaf pk) (pieces32 20 (sig.drop (67 * 32)))

/-- The OID of XMSS-SHAKE256_20_256. -/
def xmssOid : Nat := 0x12

/-- A 2,820-byte signature checked under a 68-byte public key, OID, root and SEED (21 R460, R461). -/
def xmssVerify (key m sig : List Byte) : Bool :=
  let root := (key.drop 4).take 32
  let seed := key.drop 36
  let i := beNat (sig.take 4)
  let d := xHash 2 ((sig.drop 4).take 32 ++ root ++ beBytes 32 i) m
  decide (key.length = 68) && decide (sig.length = 2820) && decide (beNat (key.take 4) = xmssOid) && decide (i < 2 ^ 20) &&
    rootFromSig seed 0 0 i d (sig.drop 36) == root

/-! The device's own key (21 R462): XMSS^MT-SHAKE256_40/2_256. Its secrets are free values. -/

/-- The public seed of the device key. -/
def devSeed : List Byte := leBytes 32 Config.deviceSeed.toNat

/-- The secret start of a chain of the device key. -/
def devSecret (layer tree leaf chain : Nat) : List Byte := leBytes 32 (Config.deviceSecret layer tree leaf chain).toNat

/-- A leaf of the device key. -/
def devLeaf (layer tree leaf : Nat) : List Byte :=
  xLeaf devSeed layer tree leaf ((List.range 67).map (fun c =>
    xChain devSeed ((otsAdrs layer tree leaf).put 5 c) 0 15 (devSecret layer tree leaf c)))

/-- Node `i` at a height of a tree of the device key. -/
def devNode (layer tree : Nat) : Nat → Nat → List Byte
  | 0, i => devLeaf layer tree i
  | h + 1, i => xNode devSeed (((treeAdrs layer tree).put 5 h).put 6 i) (devNode layer tree h (2 * i)) (devNode layer tree h (2 * i + 1))

/-- A digest signed by a leaf: chain values and path, 2,784 bytes. -/
def devSign1 (layer tree leaf : Nat) (m : List Byte) : List Byte :=
  ((xDigits m).zipIdx.flatMap (fun p =>
    xChain devSeed ((otsAdrs layer tree leaf).put 5 p.2) 0 p.1 (devSecret layer tree leaf p.2))) ++
  (List.range 20).flatMap (fun k => devNode layer tree k (leaf / 2 ^ k ^^^ 1))

/-- The 5,605-byte signature of a message with index `i`. -/
def devSign (i : Nat) (m : List Byte) : List Byte :=
  let r := xHash 3 (leBytes 32 Config.deviceRandom.toNat) (beBytes 32 i)
  let tree := i / 2 ^ 20
  let d := xHash 2 (r ++ devNode 1 0 20 0 ++ beBytes 32 i) m
  beBytes 5 i ++ r ++ devSign1 0 tree (i % 2 ^ 20) d ++ devSign1 1 0 tree (devNode 0 tree 20 0)

end Sys2Proof.Machine
end

