-- ==== Sys2Proof/Machine/Mailbox.lean ====
section
/-! DEFINITION. The host interface: NOTIFY, EVHEAD, the aperture, the debug window, the mailbox and its requests, the
loader engine, keys and quotes (spec/21 R454 to R466; 16 R416, R420; 17 R425, R428, R432, R435, R438). -/

namespace Sys2Proof.Machine

/-- Bytes as 32-bit words. -/
def cfgWords : List Byte → List W32
  | a :: b :: c :: d :: l => (d ++ c ++ b ++ a) :: cfgWords l
  | _ => []

/-! NOTIFY and the event ring (R455 to R457). -/

/-- NOTIFY (R455, R392): TAIL set, or the write dropped with a NOTIFYBAD event, whose CTX is the value's (log 42). -/
def execNotify (v : W64) (whole : Bool) (s : State) : Host.Outcome State Fault Refusal :=
  .next (
    let n := v.toNat
    let cx := fieldOf n 32 16
    let q := fieldOf n 16 6
    let tail := fieldOf n 0 16
    let drop := fun (st : State) => st.event1 7 cx (words64 v)
    if whole = false ∨ fieldOf n 48 16 ≠ 0 ∨ fieldOf n 22 10 ≠ 0 ∨ (s.ctx cx).live = false then drop s
    else
      let r := s.queue cx q
      if qEn r.1 = false ∨ qSize r.1 < (tail + 65536 - qHead r.1) % 65536 then drop r.2
      else r.2.putHeadTail cx q (qHead r.1) tail)

/-- EVHEAD_WRITE (R454, R457): held events follow while there is room. -/
def execEvheadWrite (v : W32) (s : State) : Host.Outcome State Fault Refusal :=
  .next (let s1 := s.modHif (fun h => { h with evhead := v })
    s1.flushEvents s1.hif.held.length)

/-! BAR 2 (R454). -/

/-- Is a physical address in a frame that the loader has locked (R461)? -/
def State.lockedPa (s : State) (pa : Nat) : Bool :=
  s.ctxs.any (fun c => c.2.locked.any (fun f => decide (f.1 ≤ pa) && decide (pa < f.1 + f.2)))

/-- The byte that the host reads at an offset of BAR 2; nothing else answers but with zero. -/
def State.apRead (s : State) (off : Nat) : Byte :=
  if off < 64 then s.hif.capBytes.getD off 0
  else if 0x1000 ≤ off ∧ off < 0x2000 then mget s.hif.mail (off - 0x1000)
  else if 0x10000000 ≤ off ∧ off < 0x20000000 then
    let pa := s.hif.apbase.toNat + (off - 0x10000000)
    if s.inHbm pa then s.pbyte 0 pa else 0
  else 0

/-- A byte written by the host through BAR 2. -/
def State.apWrite (s : State) (off : Nat) (b : Byte) : State :=
  if 0x1000 ≤ off ∧ off < 0x2000 then s.modHif (fun h => { h with mail := mset h.mail (off - 0x1000) b })
  else if 0x10000000 ≤ off ∧ off < 0x20000000 then
    let pa := s.hif.apbase.toNat + (off - 0x10000000)
    if s.inHbm pa && !s.lockedPa pa then s.pset 0 pa b else s
  else s

/-- Bytes written by the host from an offset up. -/
def State.apWrites (s : State) : Nat → List Byte → State
  | _, [] => s
  | o, b :: bs => State.apWrites (s.apWrite o b) (o + 1) bs

/-- The byte that the host reads in BAR 0 (R454): EVHEAD, the one register there that can be read (00 R8). -/
def HostIf.bar0 (h : HostIf) (off : Nat) : Byte :=
  if 0x10 ≤ off ∧ off < 0x14 then byteOfWord h.evhead.toNat (off - 0x10) else 0

/-- The byte of an I3C register (22 R476); OFF and FORCE read 0. -/
def State.i3cRead (s : State) (off : Nat) : Byte :=
  match off with
  | 0 => BitVec.ofNat 8 s.phys.state
  | 1 => s.nv.alarm &&& 0x7F
  | 2 => BitVec.ofNat 8 s.phys.tjmax
  | 3 => BitVec.ofNat 8 s.phys.tin
  | 4 => BitVec.ofNat 8 s.phys.pwr
  | 5 => BitVec.ofNat 8 (s.phys.pwr / 256)
  | 7 => BitVec.ofNat 8 (s.phys.offst % 4)
  | _ => 0

/-! Doorbells (R454, R458). The manual gives the codes of the requests and not their place in a slot: bits 7 to 0 of word 0 are
the model's choice (DESIGN CHOICE, log 142). -/

/-- The code of the request in a slot. -/
def HostIf.codeAt (h : HostIf) (slot : Nat) : Nat := (mget h.mail (64 * slot)).toNat

/-- Doorbells at the head that no request follows are answered: an unknown code is malformed, and in recovery all but FWPUSH is
refused (R464). `n` bounds them. -/
def State.settle : Nat → State → State
  | 0, s => s
  | n + 1, s =>
    match s.hif.bells with
    | [] => s
    | b :: l =>
      let c := s.hif.codeAt b
      let pop := s.modHif (fun h => { h with bells := l })
      if c = 0 ∨ 0x10 < c then State.settle n (pop.mbox b 0 1 0)
      else if s.hif.service = 0 ∧ c ≠ 0x10 then State.settle n (pop.mbox b 0 2 0)
      else s

/-- A write to DOORBELL: a slot's number; its other bits are zero. -/
def State.doorbell (s : State) (v : W32) : State :=
  if 64 ≤ v.toNat then s
  else
    let s1 := s.modHif (fun h => { h with bells := h.bells ++ [v.toNat] })
    s1.settle s1.hif.bells.length

/-- What the control processor waits for before it accepts a request: a LOAD joins the queue of loads, any other one is ordered
after the loads and drains accepted before it (R458). -/
def State.accepts (s : State) (code : Nat) : Bool :=
  decide (s.hif.service ≠ 0 ∨ code = 0x10) && s.hif.drains.isEmpty && (decide (code = 4) || s.hif.loads.isEmpty)

/-- A request accepted: that of the oldest doorbell (R458). -/
def request (slot code : Nat) (s : State) (f : State → State) : Host.Outcome State Fault Refusal :=
  .next (if s.hif.bells.head? = some slot ∧ s.hif.codeAt slot = code ∧ s.accepts code = true then
      let x := f (s.modHif (fun h => { h with bells := h.bells.tail }))
      x.settle x.hif.bells.length
    else s)

/-! Accesses from outside (R453, R454, R466; 22 R476). -/

/-- The part of an access to BAR 2 that lies in the window, served at the L2 home of each of its lines (R454). -/
def State.apTouch (s : State) (off n : Nat) (wr : Bool) : State :=
  let lo := max off 0x10000000
  let hi := min (off + n) 0x20000000
  (lineCut (s.hif.apbase.toNat + (lo - 0x10000000)) (hi - lo)).foldl (fun st x =>
    if st.inHbm x.1 then st.l2range 0 x.1 x.2 0 wr else st) s

/-- The static address of the I3C target (22 R476). -/
def i3cAddr : Nat := 0x3A + (if Config.slotBit then 1 else 0)

/-- ALERT# (22 R476): asserted while any ALARM bit is set. -/
def State.alert (s : State) : Bool := s.phys.v48 && decide (s.nv.alarm &&& 0x7F ≠ 0)

/-- Bytes read from outside. -/
def State.apGive (s : State) (n : Nat) (f : Nat → Byte) : State := s.modHif (fun h => { h with apdata := (List.range n).map f })

/-- An access to a BAR is served in D0 alone: in D3hot the function answers configuration accesses and nothing else (PRESUMED,
log 143). -/
def State.inD0 (s : State) (f : State → State) : State := if s.hif.d3hot then s.apGive 0 (fun _ => 0) else f s

/-- APERTURE_ACCESS (R454): BAR 2 is served at the L2 home of each address; BAR 0, BAR 4, the I3C registers and the FRU EEPROM
are reached by the same event (log 97). -/
def execApertureAccess (off : Nat) (op : ApOp) (s : State) : Host.Outcome State Fault Refusal :=
  .next (match op with
    | .read n => s.inD0 (fun x => (x.apGive n (fun i => x.apRead (off + i))).apTouch off n false)
    | .write bs => s.inD0 (fun x => (x.apWrites off bs).apTouch off bs.length true)
    | .bar0 n => s.inD0 (fun x => x.apGive n (fun i => x.hif.bar0 (off + i)))
    | .doorbell v => s.inD0 (fun x => x.doorbell v)
    | .bar4 n => s.inD0 (fun x => x.apGive n (fun i => x.debugByte (off + i)))
    | .poke v => s.inD0 (fun x => x.debugPoke off v)
    | .power d3 => s.modHif (fun h => { h with d3hot := d3 })
    | .i3c a n => if a = i3cAddr then s.apGive n (fun i => s.i3cRead (off + i)) else s.apGive 0 (fun _ => 0)
    | .fru n => s.apGive n (fun i => s.nv.fru.getD (off + i) 0))

/-! The debug window (R466; 16 R420). -/

/-- DEBUG_RESUME: a write to an entry's RESUME word. -/
def execDebugResume (entry : Nat) (ss : Bool) (s : State) : Host.Outcome State Fault Refusal := .next (s.resumeAt entry ss)

/-! The mailbox (R458). -/

/-- INIT: event ring and APBASE (R454). -/
def execInit (slot : Nat) (ring : W64) (size : Nat) (apbase : W64) (s : State) : Host.Outcome State Fault Refusal :=
  request slot 0x01 s (fun x =>
    if apbase.toNat % 0x10000000 ≠ 0 then x.mbox slot 0 1 0
    else
      let y := (x.modHif (fun h => { h with ring := ring, ringSize := size, apbase := apbase })).mbox slot 0 0 0
      y.flushEvents y.hif.held.length)

/-- CTXNEW: a context with its ASID, FJOB and table bases (R409); a number in use is refused. -/
def execCtxnew (slot ctx : Nat) (sup : Bool) (asid : BitVec 13) (fjob : BitVec 16) (vt tcb ct qt : W64) (s : State) :
    Host.Outcome State Fault Refusal :=
  request slot 0x02 s (fun x =>
    if 65536 ≤ ctx then x.mbox slot 0 1 0
    else if (x.ctx ctx).live then x.mbox slot ctx 2 0
    else (x.modCtx ctx (fun _ => { Ctx.reset with live := true, sup := sup, asid := asid, fjob := fjob, vtbase := vt, tcbbase := tcb, ctbase := ct, qtbase := qt })).mbox slot ctx 0 0)

/-- Units forget a context: its collectives end cancelled (11 R303), its commands give up what they hold, its own transfers,
its eager payloads (12 R307), its view entries (03 R81) and its marks on segments (04 R97) are gone. -/
def State.dropCtx (s : State) (cx : Nat) : State :=
  let s1 := (s.collCancel cx).cancelCmds (fun c => decide (c.ctx = cx))
  let held := ((s1.ctx cx).unexp.map Unexp.held).sum
  let views := fun (l : List (Nat × Nat × Nat)) => l.filter (fun v => decide (v.1 ≠ cx))
  let s2 : State := { s1 with
    cores := s1.cores.map (fun (k : Nat × Core) => (k.1, { k.2 with
      views := views k.2.views
      segOwner := k.2.segOwner.filter (fun p => decide (p.2 ≠ cx + 1)) }))
    link := { s1.link with
      views := views s1.link.views
      acts := s1.link.acts.filter (fun p => decide (p.1 / 65536 ≠ cx))
      deadColls := s1.link.deadColls.filter (fun p => decide (p.1 / 65536 ≠ cx)) } }
  let own := fun (x : Xfer) => decide (x.gk = cx) && (x.kind == .pull || x.kind == .pdata || x.kind == .coll)
  ((s2.modEager (fun n => n - held)).noteAll own).modFab (fun f => { f with xfers := f.xfers.filter (fun (x : Xfer) => !own x) })

/-- CTXDEL: the context's teams are brought to their boundary and removed, and nothing of it stays (R421, R458). With the
last context gone, the module is drained and spares come in (01 R20). -/
def execCtxdel (slot ctx : Nat) (s : State) : Host.Outcome State Fault Refusal :=
  request slot 0x03 s (fun x =>
    if (x.ctx ctx).live = false then x.mbox slot ctx 2 0
    else
      let x1 := if dWord x.link.join.w 10 % 65536 = ctx then x.joinStop 7 else x
      let x1 := (x1.teams.filter (fun p => p.2.ctx == ctx)).foldl (fun st p =>
        if (st.team p.1).st == TeamSt.resident then st.preempt p.1 else st) x1
      let x2 := (x1.ctxLaunches ctx).foldl (fun st lk => (st.endWith lk 6 0).modLaunch lk (fun l => { l with live := false })) x1
      (((x2.dropCtx ctx).modCtx ctx (fun _ => Ctx.reset)).mend).mbox slot ctx 0 0)

/-! The loader engine (R460, R461). -/

/-- LOAD: accepted in order, served by SEGMENT_LOAD; a context that does not exist is refused. -/
def execLoad (slot ctx seg : Nat) (container : W64) (s : State) : Host.Outcome State Fault Refusal :=
  request slot 0x04 s (fun x =>
    if (x.ctx ctx).live then x.modHif (fun h => { h with loads := h.loads ++ [(slot, ctx, seg, container)] })
    else x.mbox slot ctx 2 0)

/-- The address of the leaf entry of a virtual address, from a level down (02 R31). -/
def State.leafAt (s : State) (va : Nat) : Nat → Nat → Nat
  | 0, tab => tab + 8 * (va / 2 ^ 16 % 32)
  | lvl + 1, tab =>
    let a := tab + 8 * (va / 2 ^ (21 + 9 * lvl) % 512)
    let e := s.pnum 0 a 8
    if fieldOf e 1 1 = 1 then a else State.leafAt s va lvl (entryAddr e)

/-- The leaves of `[va, hi)`: entry address, target, frame and page size of each; none where one is missing, or has W or
X set. `n` bounds the pages. -/
def State.loadLeaves (s : State) (asid : BitVec 13) (va hi : Nat) : Nat → Option (List (Nat × Nat × Nat × Nat × Nat))
  | 0 => if hi ≤ va then some [] else none
  | n + 1 =>
    if hi ≤ va then some []
    else match s.walk asid va with
      | none => none
      | some (psz, e) =>
        if fieldOf e 2 2 ≠ 0 then none
        else
          let a := s.leafAt va 4 (entryAddr (s.pnum 0 (s.astbase.toNat + 8 * asid.toNat) 8))
          let base := va / pageBytes psz * pageBytes psz
          (State.loadLeaves s asid (base + pageBytes psz) hi n).map (fun l => (a, fieldOf e 8 2, entryAddr e + (va - base), base + pageBytes psz - va, e) :: l)

/-- A segment's bytes written into its frames through L2 (04 R82), each last page filled with zeros. -/
def State.loadBytes (s : State) (ls : List (Nat × Nat × Nat × Nat × Nat)) (bs : List Byte) : State :=
  (ls.foldl (fun (acc : State × List Byte) l =>
    let part := acc.2.take l.2.2.2.1
    let b := part ++ List.replicate (l.2.2.2.1 - part.length) 0
    ((acc.1.pwrite l.2.1 l.2.2.1 b).l2range l.2.1 l.2.2.1 b.length 0 true, acc.2.drop l.2.2.2.1)) (s, bs)).1

/-- A key slot's key (R461): slot 0 from fuses. -/
def HostIf.key (h : HostIf) (k : Nat) : Option (List Byte × Bool) :=
  if k = 0 then some (leBytes 68 Config.fuseKey.toNat, true) else if k < 8 then tget none h.keys k else none

/-- AR extended by a message (R461), and the extension count. -/
def State.extend (s : State) (msg : List Byte) : State :=
  s.modHif (fun h => { h with ar := shake256 (leBytes 32 h.ar.toNat ++ msg), ext := h.ext + 1 })

/-- The HBM frames of leaves, whole: base and size. -/
def framesOf (ls : List (Nat × Nat × Nat × Nat × Nat)) : List (Nat × Nat) :=
  (ls.filter (fun l => decide (l.2.1 = 0))).map (fun l => (entryAddr l.2.2.2.2, l.2.2.1 - entryAddr l.2.2.2.2 + l.2.2.2.1))

/-- A load served: its code and detail. A LOADVA that is no canonical address has no leaf (02 R29). The kernel entries of a
container are the runtime's to read (R460): no step here depends on them. -/
def State.serveLoad (s0 : State) (cx seg : Nat) (c : Nat) : (Nat × Nat) × State :=
  let hdr := s0.hbmWords c 16
  let ea := c + dWord hdr 4 + 64 * seg
  let s := (s0.l2range 0 c 64 0 false).l2range 0 ea 64 0 false
  let e := s.hbmWords ea 16
  let w0 := dWord e 0
  let size := dWord e 1
  let va := dNum e 4 2
  if isCanon (BitVec.ofNat 64 va) = false then ((2, 0), s)
  else if hdr.take 2 ≠ [0x4F56454B, 0x00010000] ∨ (hdr.drop 8).any (fun x => x != 0) = true ∨ dWord hdr 2 ≤ seg ∨
      fieldOf w0 0 2 = 3 ∨ va % 65536 ≠ 0 ∨ dNum e 6 2 ≠ 0 then ((1, 0), s)
  else if (s.ctx cx).live = false then ((2, 0), s)
  else match s.loadLeaves (s.ctx cx).asid (va % 2 ^ 57) (va % 2 ^ 57 + size) (size / 65536 + 1) with
    | none => ((2, 0), s)
    | some ls =>
      let bs := s.pread 0 (c + dWord e 2) size
      let s1 := (((s.l2range 0 (c + dWord e 2) size 0 false).l2range 0 (c + dWord e 3) 2820 0 false).loadBytes ls bs).modCtx cx (fun x => { x with locked := x.locked ++ framesOf ls })
      let meas := (wordBytes e).drop 32
      let head := (wordBytes e).take 32
      let slot := fieldOf w0 4 4
      if shake256 bs ≠ BitVec.ofNat 256 (leNat meas) then ((2, 1), s1)
      else match s1.hif.key slot with
        | none => ((2, 2), s1)
        | some k =>
          if xmssVerify k.1 (head ++ meas) (s.pread 0 (c + dWord e 3) 2820) = false then ((2, 2), s1)
          else
            let s2 := s1.extend (1 :: BitVec.ofNat 8 slot :: head ++ meas)
            if fieldOf w0 0 2 = 0 then
              let s3 := ls.foldl (fun st l => (st.pwrite 0 l.1 (leBytes 8 (l.2.2.2.2 + 8))).l2range 0 l.1 8 0 true) s2
              ((0, 0), s3.shoot ⟨some (s3.ctx cx).asid, 0, 2 ^ 57⟩)
            else ((0, 0), s2)

/-- SEGMENT_LOAD (R461): the oldest accepted LOAD is served. -/
def execSegmentLoad (s : State) : Host.Outcome State Fault Refusal :=
  .next (match s.hif.loads with
    | [] => s
    | l :: rest =>
      let r := (s.modHif (fun h => { h with loads := rest })).serveLoad l.2.1 l.2.2.1 (l.2.2.2.toNat % 2 ^ 52)
      r.2.mbox l.1 l.2.1 r.1.1 r.1.2)

/-- KEYADD (R461): a key signed by a slot that carries ADMIN, installed and extended into AR. -/
def execKeyadd (slot keySlot signer : Nat) (key sig : List Byte) (admin : Bool) (s : State) :
    Host.Outcome State Fault Refusal :=
  request slot 0x05 s (fun x =>
    let msg := BitVec.ofNat 8 keySlot :: key
    if keySlot = 0 ∨ 8 ≤ keySlot ∨ key.length ≠ 68 then x.mbox slot 0 1 0
    else match x.hif.key signer with
      | some (k, true) =>
        if xmssVerify k msg sig then
          ((x.extend (2 :: msg)).modHif (fun h => { h with keys := tset none h.keys keySlot (some (key, admin)) })).mbox slot 0 0 0
        else x.mbox slot 0 2 0
      | _ => x.mbox slot 0 2 0)

/-- QUOTE (R462, R463): the signature index is used up before the signature is released. AR, the count as 8 bytes and the
signature go to a buffer in HBM that the request names (DESIGN CHOICE, log 142). -/
def execQuote (slot : Nat) (q : List Byte × Nat) (s : State) : Host.Outcome State Fault Refusal :=
  request slot 0x06 s (fun x =>
    let i := x.nv.n
    let nonce := q.1
    let dst := q.2
    if nonce.length ≠ 32 ∨ (x.inHbm dst && x.inHbm (dst + 5644)) = false then x.mbox slot 0 1 0
    else if i % 1024 = 0 ∧ 16384 ≤ x.nv.f then x.mbox slot 0 2 3
    else
      let body := leBytes 32 x.hif.ar.toNat ++ leBytes 8 x.hif.ext
      let sig := devSign i (shakeBytes (nonce ++ body ++ x.hif.capBytes))
      let y := { x with nv := { x.nv with n := i + 1, f := if i % 1024 = 0 then max x.nv.f (i / 1024 + 1) else x.nv.f } }
      let z := y.modHif (fun h => { h with quote := some (h.ar, h.ext, sig) })
      ((z.pwrite 0 dst (body ++ sig)).l2range 0 dst (40 + sig.length) 0 true).mbox slot 0 0 0)

/-! Requests on contexts and moves. -/

/-- STEPSTART (16 R418; 17 R435): the step's first ring index is registered; a stopped queue restarts from it
(log 47). -/
def execStepstart (slot ctx queue : Nat) (index : BitVec 16) (s : State) : Host.Outcome State Fault Refusal :=
  request slot 0x07 s (fun x =>
    if 64 ≤ queue then x.mbox slot ctx 1 0
    else if (x.ctx ctx).live = false then x.mbox slot ctx 2 0
    else
      let y := x.modCtx ctx (fun c => { c with step := tset 0 c.step queue (index.toNat + 1) })
      (if (y.ctx ctx).stopped.contains queue then y.rewind ctx queue else y).mbox slot ctx 0 0)

/-- ANSWER (16 R416): acts at once on a resident group, at the restore on a saved one; a stale answer is ignored. -/
def execAnswer (slot gk : Nat) (retry : Bool) (s : State) : Host.Outcome State Fault Refusal :=
  request slot 0x08 s (fun x =>
    (match (x.grp gk).y.parked with
      | none => x
      | some p =>
        if (x.teamG gk).st == TeamSt.resident then x.answerNow gk p retry
        else x.modGrp gk (fun g => { g with y := { g.y with parked := some { p with answer := some retry } } })).mbox
      slot (x.ctxNoG gk) 0 0)

/-- MIGRATE (02 R40): a migration entry programmed, which begins to move, an inbound one at once where its page table entry has
been rewritten and no translation to the old frame is left (02 R42); "served remotely" is code 2. -/
def execMigrate (slot stack i : Nat) (entry : BitVec 128) (big : Bool) (s : State) : Host.Outcome State Fault Refusal :=
  request slot 0x09 s (fun x =>
    let n := entry.toNat
    let e := moveOf (fieldOf n 0 52) (fieldOf n 56 2) (fieldOf n 64 52) (fieldOf n 58 2) big
    let o := (x.stk stack).entry i
    if 8 ≤ stack ∨ 64 ≤ i ∨ x.migOk e = false ∨ Mig.home x e ≠ some stack then x.mbox slot 0 1 0
    else if o.st = .moving ∨ o.st = .done then x.mbox slot 0 3 0
    else if x.migrating e.otgt e.old e.size = true ∨ x.migrating e.ntgt e.new e.size = true then x.mbox slot 0 2 0
    else (x.setMig stack i { e with run := e.inbound && x.rewritten e (fun _ _ _ => true) }).mbox slot 0 0 0)

/-- FAULT_REQUEST (02 R43): the host's is a MIGRATE request of the mailbox (R458). -/
def execFaultRequest (pa : Nat) (tgt : Nat) (dst : Nat) (big : Bool) (host : Option Nat) (s : State) :
    Host.Outcome State Fault Refusal :=
  match host with
  | none => .next (s.faultReq pa tgt dst big none)
  | some slot => request slot 0x09 s (fun x => if tgt ≠ 0 then x.mbox slot 0 1 0 else x.faultReq pa tgt dst big (some slot))

/-- RTABLE (17 R425): a checked image becomes the pending table. -/
def execRtable (slot : Nat) (addr : Nat) (s : State) : Host.Outcome State Fault Refusal :=
  request slot 0x0A s (fun y => let x := y.l2range 0 addr 528 0 false
    match x.rankImage addr with
    | none => x.mbox slot 0 2 0
    | some t => (x.modMem (fun m => { m with pend := some t })).mbox slot 0 0 0)

/-- Every queue of a context stopped; the host is told of those in service without a registered step (17 R435). -/
def State.stopAll (s : State) (cx : Nat) : State :=
  (List.range 64).foldl (fun st q =>
    let r := st.queue cx q
    if qEn r.1 && decide (tget 0 (r.2.ctx cx).step q = 0) then r.2.stopQueue cx q 0 6 0
    else r.2.modCtx cx (fun c => { c with stopped := if c.stopped.contains q then c.stopped else c.stopped ++ [q] })) s

/-- The nodes of a context whose end is known complete. -/
def State.completeEnded (s : State) (cx : Nat) : State :=
  (s.ctx cx).ended.foldl (fun st e => st.complete cx e.1 e.2.1 e.2.2.1 e.2.2.2) s

/-- ABORT (17 R435 step 1): the queues of a job's contexts stop, and its launches' teams are removed without a save; their
nodes complete with class 6 and a DETAIL that the manual does not name (a free value, log 48). -/
def execAbort (slot job : Nat) (s : State) : Host.Outcome State Fault Refusal :=
  request slot 0x0B s (fun x =>
    ((x.ctxs.filter (fun p => p.2.live && decide (p.2.fjob.toNat = job))).foldl (fun st p =>
      ((st.ctxLaunches p.1).foldl (fun st lk => st.draw.2.abortWith lk 6 ((Config.freeW32 st.free).toNat % 65536))
        (st.stopAll p.1)).completeEnded p.1) x).mbox slot 0 0 0)

/-- JOIN (17 R438, R439): busy while a join is under way. -/
def execJoin (slot : Nat) (addr : Nat) (s : State) : Host.Outcome State Fault Refusal :=
  request slot 0x0C s (fun x =>
    if x.link.join.st = .opening ∨ x.link.join.st = .pull ∨ x.link.join.st = .closing then x.mbox slot 0 3 0 else (x.joinStart addr).mbox slot 0 0 0)

/-- FABCFG (17 R428). -/
def execFabcfg (slot : Nat) (cfg : List Byte) (s : State) : Host.Outcome State Fault Refusal :=
  request slot 0x0D s (fun x =>
    let w := cfgWords cfg
    if cfg.length = 176 ∧ fabcfgOk w = true then (x.setFabcfg w).mbox slot 0 0 0 else x.mbox slot 0 1 0)

/-- FABRESET (17 R432). -/
def execFabreset (slot : Nat) (s : State) : Host.Outcome State Fault Refusal :=
  request slot 0x0E s (fun x => x.resetFab.mbox slot 0 0 0)

/-- DRAIN (01 R20; 17 R432): every resident team is pre-empted, and LEAVING is set in the next beat; with no context spares come
in. The request is answered once every team is saved (R458). -/
def execDrain (slot : Nat) (s : State) : Host.Outcome State Fault Refusal :=
  request slot 0x0F s (fun x =>
    let y := (((x.teams.map (fun p => p.1)).foldl (fun st tk => if (st.team tk).st == TeamSt.resident then st.preempt tk else st) x).modMem
      (fun m => { m with leaving := true })).mend
    (y.modHif (fun h => { h with drains := h.drains ++ [slot] })).drainDone)

/-! Registers written from outside a program (16 R409, R420; 21 R466; numbering: log 49). -/

/-- REGISTER_WRITE (R409): a register with no behaviour of its own. Numbers below 0x1000 name the registers of R409;
0x8000 and 0x8001 ASTBASE; 0x9000 + 2i and one more SPRGN i of die `gk`, whose reserved bits stay 0 (04 R90); 0x10000 + i word i of the state image of a group
in debug stop. -/
def execRegisterWrite (gk n : Nat) (v : W32) (s : State) : Host.Outcome State Fault Refusal :=
  .next (
    if n = 0x8000 then { s with astbase := (s.astbase.extractLsb' 32 20 : BitVec 20) ++ v }
    else if n = 0x8001 then { s with astbase := (v.truncate 20 : BitVec 20) ++ (s.astbase.truncate 32 : W32) }
    else if 0x9000 ≤ n ∧ n < 0x9020 then
      s.modDie gk (fun d => { d with sprgn := tmod 0 d.sprgn ((n - 0x9000) / 2) (fun x => setWordHalf x (n % 2 == 1) v &&& 0x0000FFFFFFFFFFFF) })
    else if 0x10000 ≤ n then
      if (s.grp gk).y.status = .debug then s.modGrp gk (fun g => g.pokeImage (n - 0x10000) v (s.launchG gk).cb) else s
    else if (s.grp gk).live ∧ n ≠ 0x120 then { ({ s with cur := gk }).sysWrite n v with cur := s.cur }
    else s)

end Sys2Proof.Machine
end

