-- ==== Sys2Proof/Machine/Power.lean ====
section
/-! DEFINITION. Power, reset and boot (spec/22 R471 to R477; 21 R463 to R465) and sensors (22 R475). -/

namespace Sys2Proof.Machine

/-! Reset (01 R20, R21; 21 R463 to R465). -/

/-- The state after module reset: only what lies outside it, in flash and fuses, and the damage of its units is kept;
spares come in (R20). -/
def State.fresh (s : State) : State :=
  let m := fun (d : Nat) => s.mendCores d
  { State.reset with
    agenda := s.agenda
    answers := s.answers
    free := s.free
    dies := tset Die.reset (tset Die.reset [] 0 (s.freshDie 0)) 1 (s.freshDie 1)
    cores := State.setCores (State.setCores [] 0 ((m 0).1.map Core.onlyDamage)) 1 ((m 1).1.map Core.onlyDamage)
    pool := s.pool
    host := s.host
    peer := s.peer
    nv := { s.nv with n := max s.nv.n (1024 * s.nv.f), alarm := s.nv.alarm &&& 0x5A }
    phys := { Phys.reset with state := 1 } }

/-- The boot ROM's checks of an image (21 R464): signed under slot 0 over its measurement, and no older than the fused minimum. -/
def firmwareGood (image : List Byte) : Bool :=
  decide (Config.firmwareMin.toNat ≤ (Config.firmwareVersion image).toNat) &&
    xmssVerify (leBytes 68 Config.fuseKey.toNat) (Config.measure image) (Config.firmwareSig image)

/-- The boot ROM (21 R464): a good image is measured into AR and its firmware starts in reduced service; otherwise the
module stays in recovery, SERVICE 0. -/
def State.bootRom (s : State) : State :=
  if firmwareGood s.nv.image then
    let s1 := { s with phys := { s.phys with state := 2 } }
    (s1.extend (Config.measure s.nv.image)).setCap (fun h => { h with
      service := 1
      cores0 := (s.die 0).cores
      cores1 := (s.die 1).cores
      chan0 := (s.die 0).chans
      chan1 := (s.die 1).chans
      fwver := Config.firmwareVersion s.nv.image
      pinrate := 64 })
  else s

/-- MODULE_RESET: PERST#, held until all rails are in tolerance (22 R471), is released. -/
def execModuleReset (s : State) : Host.Outcome State Fault Refusal :=
  .next (if s.phys.powered ∨ (s.phys.v48 = true ∧ s.phys.rails = 6) then s.fresh.bootRom else s)

/-- POWER_ON (22 R471): 48 V is applied, and at each step more the next rail comes into tolerance: VPP, VDDC and VDDQ, VIO, VSRAM,
VCORE, VLINK. After a trip or an accepted OFF they stay down until 48 V has been removed (22 R475, R477). -/
def execPowerOn (s : State) : Host.Outcome State Fault Refusal :=
  .next (if !s.phys.v48 then { s with phys := { s.phys with v48 := true, rails := 0, state := 0, offst := 0 } }
    else if s.phys.powered ∨ s.phys.state ≠ 0 ∨ s.phys.offst = 1 ∨ 6 ≤ s.phys.rails then s
    else { s with phys := { s.phys with rails := s.phys.rails + 1 } })

/-- The rails have fallen, in the reverse order (22 R471): nothing runs, and only flash, fuses, the FRU EEPROM and the damage of
units last (22 R472). While 48 V is there STATE, OFFST and ALARM can be read. -/
def State.off (s : State) (state offst : Nat) : State :=
  { s.fresh with
    nv := s.nv
    phys := { Phys.reset with powered := false, rails := 0, state := state, offst := offst } }

/-- POWER_LOSS (22 R472): 48 V is gone. -/
def execPowerLoss (s : State) : Host.Outcome State Fault Refusal :=
  .next (let x := s.off 0 0
    { x with phys := { x.phys with v48 := false } })

/-- May an event of the table take place (22 R471, R472)? All of them while the module runs; while 48 V is there the release of
PERST#, the loss of 48 V and what I3C reads and writes; and always the rise of 48 V and a read of the FRU EEPROM. -/
def State.awake (s : State) (i : Instr) : Bool :=
  s.phys.powered || (match i with
    | .powerOn => true
    | .apertureAccess _ (.fru _) => true
    | .moduleReset => s.phys.v48
    | .powerLoss => s.phys.v48
    | .alarmClear _ => s.phys.v48
    | .apertureAccess _ (.i3c _ _) => s.phys.v48
    | _ => false)

/-- TRAINING_COMPLETE (21 R465): full service; channels and ports that failed stay out (log 50 says which channels). A
channel is retired at once only with no context resident (02 R44). -/
def execTrainingComplete (chan0 chan1 : Nat) (live full8 : BitVec 18) (s : State) : Host.Outcome State Fault Refusal :=
  .next (if s.hif.service ≠ 1 then s
    else
      let s1 := (((s.failChans 0 (((s.die 0).cmap).drop chan0)).failChans 1 (((s.die 1).cmap).drop chan1)))
      let s2 := s1.modFab (fun f => { f with ports := (List.range 18).foldl (fun t p =>
        tmod Port.reset t p (fun x => { x with dead := !live.getLsbD p })) f.ports })
      let s3 := if s2.occupied then s2 else s2.retireChans
      { s3 with phys := { s3.phys with state := 3 } }.setCap (fun h => { h with
        service := 2
        chan0 := (s3.die 0).inService
        chan1 := (s3.die 1).inService
        live := live
        full8 := full8
        pinrate := 125 }))

/-- FWPUSH (21 R464): the image that the host has written through the aperture, bytes from a device physical address up
(DESIGN CHOICE, log 142), replaces the old one if it passes the checks, and the module resets; it is accepted in recovery too. -/
def execFwpush (slot : Nat) (image : Nat × Nat) (s : State) : Host.Outcome State Fault Refusal :=
  request slot 0x10 s (fun x =>
    let bs := x.pread 0 image.1 image.2
    let y := x.l2range 0 image.1 image.2 0 false
    if firmwareGood bs then ({ y with nv := { y.nv with image := bs } }.mbox slot 0 0 0).fresh.bootRom
    else y.mbox slot 0 2 0)

/-! Sensors and power-off (22 R469, R474 to R477). -/

/-- The trips of a sample, as ALARM bits (R475): junction, overcurrent, undervoltage, overvoltage. -/
def Sample.trips (x : Sample) : Nat :=
  (if 220 ≤ x.tj then 2 else 0) + (if x.overcurrent then 8 else 0) + (if x.mv < 38000 then 16 else 0) +
  (if 63000 < x.mv then 64 else 0)

/-- The warnings of a sample (R469, R474, R475): junction, inlet, input voltage. -/
def Sample.warns (x : Sample) : Nat :=
  (if 200 ≤ x.tj then 1 else 0) + (if 80 < x.tin then 4 else 0) +
  (if (38000 ≤ x.mv ∧ x.mv < 40000) ∨ (60000 < x.mv ∧ x.mv ≤ 63000) then 32 else 0)

/-- SENSOR_SAMPLE (R475): readings and warnings kept; a trip stops the module, its cause latched in ALARM. -/
def execSensorSample (x : Sample) (s : State) : Host.Outcome State Fault Refusal :=
  .next (
    let s1 := { s with
      phys := { s.phys with tjmax := x.tj % 256, tin := x.tin % 256, pwr := x.watt % 65536 }
      nv := { s.nv with alarm := s.nv.alarm ||| BitVec.ofNat 8 (Sample.warns x + Sample.trips x) } }
    if Sample.trips x = 0 then s1 else s1.off 4 0)

/-- ALARM_CLEAR (R476): bits written as 1 clear. -/
def execAlarmClear (m : BitVec 8) (s : State) : Host.Outcome State Fault Refusal :=
  .next { s with nv := { s.nv with alarm := s.nv.alarm &&& ~~~m } }

/-- OFF_REQUEST (R477): accepted with no context, refused otherwise. -/
def execOffRequest (s : State) : Host.Outcome State Fault Refusal :=
  .next (if s.ctxs.any (fun p => p.2.live) then { s with phys := { s.phys with offst := 2 } } else s.off 0 1)

/-- FORCE_OFF (R477): a trip without a cause bit. -/
def execForceOff (s : State) : Host.Outcome State Fault Refusal := .next (s.off 4 0)

end Sys2Proof.Machine
end

