-- ==== Sys2Proof/Machine/Records.lean ====
section
/-! DEFINITION. Segment tags and buffer records (spec/07 R177 to R182; 02 R36). -/

namespace Sys2Proof.Machine

/-! TTAG (R177, R178). -/

/-- Segments of a TTAG operand. -/
def ttagN (b : W32) : Nat := fieldOf b.toNat 16 9 + 1

/-- The bits of a metadata word that a TTAG operand replaces (R177). -/
def ttagMask (b : W32) : W32 :=
  (if b.getLsbD 15 then 0xE00 else 0) ||| (if b.getLsbD 14 then 0x100 else 0) |||
    (if b.getLsbD 13 then 0xFC else 0) ||| (if b.getLsbD 12 then 0x3 else 0)

/-- A metadata word with the selected fields replaced. -/
def ttagNew (b m : W32) : W32 := (m &&& ~~~ttagMask b) ||| (b &&& ttagMask b)

/-- May team segment `i` take the side-band values of an operand (R177)? -/
def State.ttagSb (s : State) (tk : Nat) (b : W32) (i : Nat) : Bool :=
  let t := s.team tk
  let w := mSbw b
  !(b.getLsbD 15 && decide (i % 2 = 1) &&
    (w == 3 || (w == 2 && mSbw ((s.core t.core).meta1 (s.partner t.core (t.base + i))) == 3)))

/-- The checks of TTAG, made before any segment changes. A range that starts inside the visible size and runs beyond it gives
the A operand in TADDR (DESIGN CHOICE, log 135). -/
def State.ttagErr (s : State) (tk : Nat) (a b : W32) : Option Trap :=
  let seg := a.toNat / 4096
  if a.toNat % 4096 ≠ 0 then some (Trap.mk2 0xA (a.zeroExtend 64))
  else if (s.launch (s.team tk).launch).visible < (seg + ttagN b) * 4096 then some (Trap.mk2 8 (a.zeroExtend 64))
  else if b.getLsbD 13 ∧ 4 < mStamp b then some (Trap.mk2 0xD (a.zeroExtend 64))
  else ((List.range (ttagN b)).find? (fun i => !s.ttagSb tk b (seg + i))).map
    (fun i => Trap.mk2 0xD (BitVec.ofNat 64 ((seg + i) * 4096)))

/-- Segments from the `i`th of `n` on, up to one that is FILLING: those done, and the first segment's word (R178). -/
def State.ttagRun (s : State) (c base : Nat) (b : W32) (i : Nat) (w : W32) : Nat → Nat × W32 × State
  | 0 => (i, w, s)
  | n + 1 =>
    let m := (s.core c).meta1 (base + i)
    if mTag m = 1 then (i, w, s)
    else State.ttagRun (s.setMeta c (base + i) (ttagNew b m)) c base b (i + 1) (if i = 0 then m else w) n

/-- TTAG. -/
def execTtag (d : BitVec 6) (a : Sel) (b : UOpd) (s : State) : Host.Outcome State Fault Refusal :=
  run (uLen b) s (a :: b.sels) [s.dg d] (fun x =>
    let av := x.uniVal a.src
    let bv := x.uval b
    let p := x.g.y.ttag.getD (0, 0)
    match (if p.1 = 0 then x.ttagErr (teamOf x.cur) av bv else none) with
    | some t => .trap t x
    | none =>
      if bv.getLsbD 12 && !x.released .team then .block .stores x
      else
        let r := x.ttagRun x.cn (x.t.base + av.toNat / 4096) bv p.1 p.2 (ttagN bv - p.1)
        if r.1 < ttagN bv then .block .engine (r.2.2.modY (fun y => { y with ttag := some (r.1, r.2.1) }))
        else .ok (r.2.2.setU (x.gn d) r.2.1))

/-! Buffer records (R179, R180). -/

/-- BLD. -/
def execBld (k : BitVec 4) (a : Sel) (b : UOpd) (s : State) : Host.Outcome State Fault Refusal :=
  run (uLen b) s (a :: b.sels) [] (fun x =>
    let o := (x.uniVal a.src + x.uval b).toNat
    if o % 32 ≠ 0 then .trap (Trap.mk2 0xA (BitVec.ofNat 64 o)) x
    else if x.l.visible < o + 32 then .trap (Trap.mk2 8 (BitVec.ofNat 64 o)) x
    else
      let r := x.lread 0 o 32 false
      .ok (r.2.modR (fun g => g.setB k.toNat (BitVec.ofNat 256 (leNat r.1)))))

/-- The lowest bit and width of a BSET field. -/
def BField.lo : BField → Nat
  | .baseLo => 0 | .baseHi => 32 | .ext0 => 64 | .ext1 => 96 | .stride0 => 128 | .stride1 => 160 | .w6 => 192 | .w7 => 224

/-- BSET of a field. -/
def execBset (k : BitVec 4) (f : BField) (b : UOpd) (s : State) : Host.Outcome State Fault Refusal :=
  run (uLen b) s b.sels [] (fun x => .ok (x.modR (fun g =>
    g.setB k.toNat (BitVec.ofNat 256 (nput (g.getB k.toNat).toNat (BField.lo f) 32 (x.uval b).toNat)))))

/-- BSET.ADD: BASE plus the operand sign-extended. -/
def execBsetAdd (k : BitVec 4) (b : UOpd) (s : State) : Host.Outcome State Fault Refusal :=
  run (uLen b) s b.sels [] (fun x => .ok (x.modR (fun g =>
    let base := rBase (g.getB k.toNat) + (x.uval b).signExtend 64
    g.setB k.toNat (BitVec.ofNat 256 (nput (g.getB k.toNat).toNat 0 64 base.toNat)))))

/-! BXLATE (R181). -/

/-- The result word of BXLATE. -/
def bxWord (psz tgt w x cls : Nat) : W32 :=
  BitVec.ofNat 32 (psz % 4 * 256 + tgt % 4 * 64 + w % 2 * 32 + x % 2 * 16 + cls * 2 + 1)

/-- CLASS of a failed translation. -/
def XFault.bxClass : XFault → Nat
  | .miss => 3
  | .perm _ => 4
  | .space => 6

/-- The translation of BXLATE and its result: the leaf's fields wherever the walk found one, in a hole of HBM too (02 R24);
the fields of a leaf that was not found are free values (log 3). -/
def State.bxlate (s : State) (k : Nat) : W32 × State :=
  let rc := s.g.r.getB k
  let sp := rSpace rc
  if sp ≠ 3 ∧ sp ≠ 4 ∧ sp ≠ 6 then (bxWord 3 3 0 0 0, s)
  else
    let s0 := s.modR (fun r => r.setBT k BT.reset)
    let r := s0.xlate (.core s.cn) s.x.asid (rBase rc) (spaceTgt sp) s.priv .read
    let leaf := fun (psz e cls : Nat) => bxWord psz (fieldOf e 8 2) (fieldOf e 2 1) (fieldOf e 3 1) cls
    match r.1 with
    | .ok a => (leaf a.psz a.leaf 0, r.2.fillBT k (spaceTgt sp))
    | .error f =>
      let l := r.2.leafOf (.core s.cn) s.x.asid ((rBase rc).toNat % 2 ^ 57)
      if (isSupHalf (rBase rc) && !s.priv) || !isCanon (rBase rc) || l.1.isNone then
        let d := r.2.draw
        ((Config.freeW32 d.1 &&& 0x3F0) ||| BitVec.ofNat 32 (XFault.bxClass f * 2 + 1), d.2)
      else
        let p := l.1.getD (0, 0)
        (leaf p.1 p.2 (XFault.bxClass f), l.2)

/-- BXLATE. -/
def execBxlate (d : BitVec 6) (k : BitVec 4) (s : State) : Host.Outcome State Fault Refusal :=
  run 4 s [] [s.dg d] (fun x =>
    let r := x.bxlate k.toNat
    .ok (r.2.setU (x.gn d) r.1))

end Sys2Proof.Machine
end

