-- ==== Sys2Proof/Machine/Tape.lean ====
section
/-! DEFINITION. The tape engine (spec/10 R239 to R271). -/

namespace Sys2Proof.Machine

/-- A stream slot as a Bool. -/
def slotOf (s : BitVec 1) : Bool := s = 1

/-- A tape-state fault (R266). -/
def tapeFault (code : Nat) : Trap := Trap.mk2 0x11 (BitVec.ofNat 64 code)

/-- Is a slot bound (R239)? -/
def State.slotBound (s : State) (sl : Bool) : Bool := decide ((if sl then 1 else 0) < s.l.ntape)

/-- The fault of an instruction on a stream (R240): `rec` and `rep` say where it is allowed. -/
def State.tapeErr (s : State) (sl : Bool) (rc rp : Bool) : Option Trap :=
  if !s.slotBound sl then some (tapeFault 1)
  else match (s.g.stream sl).st with
    | .closed => some (tapeFault 1)
    | .failed => some (tapeFault 5)
    | .record => if rc then none else some (tapeFault 1)
    | .dropping => if rc then none else some (tapeFault 1)
    | .replay => if rp then none else some (tapeFault 1)

/-- The region in use, and its capacity (R249). -/
def Stream.useRec (x : Stream) : BitVec 256 := if x.inSpill then x.spillRec else x.region
/-- The capacity. -/
def Stream.cap (x : Stream) : Nat := rExt0 x.useRec

/-- The length word (R265). -/
def Stream.lenWord (x : Stream) : W32 := BitVec.ofNat 32 ((if x.inSpill then 2 ^ 31 else 0) + x.len)

/-! TOPEN (R248, R249). -/

/-- A region record (R249). -/
def regionOk (r : BitVec 256) : Bool :=
  (rSpace r == 2 || rSpace r == 3 || rSpace r == 4) && rFmt r == 0 && rExt1 r == 1 && !rRo r && !rShadow r &&
    (rBase r).toNat % 256 == 0 && rExt0 r % 256 == 0 && decide (4096 ≤ rExt0 r) && decide (rExt0 r ≤ 0x7FFFFF00)

/-- Does a staging area overlap that of an open stream of a team? -/
def State.stagingTaken (s : State) (tk off : Nat) : Bool :=
  (s.teamKeys tk).any (fun k => [(s.grp k).s0, (s.grp k).s1].any (fun x =>
    x.st != .closed && decide (off < x.staging.toNat + 8192) && decide (x.staging.toNat < off + 8192)))

/-- The checks of TOPEN beside its slot's (R249). -/
def State.topenBad (s : State) (c st len : W32) : Bool :=
  let w := c.toNat
  let ovf := fieldOf w 20 2
  let rb := s.g.r.getB (fieldOf w 8 4)
  let sp := s.g.r.getB (fieldOf w 16 4)
  let spill := len.getLsbD 31
  let n := fieldOf len.toNat 0 31
  fieldOf w 25 7 != 0 || fieldOf w 12 4 != 0 || fieldOf w 1 7 != 0 || ovf == 3 ||
    (ovf != 1 && fieldOf w 16 4 != 0) || (ovf == 1 && (fieldOf w 16 4 == fieldOf w 8 4 || !regionOk sp)) ||
    !regionOk rb || st.toNat % 8192 != 0 || decide (s.l.visible < st.toNat + 8192) ||
    s.stagingTaken (teamOf s.cur) st.toNat ||
    (fieldOf w 24 1 == 1 && (n % 4 != 0 || (spill && ovf != 1) || decide (rExt0 (if spill then sp else rb) < n)))

/-- The stream that TOPEN opens. -/
def State.opened (s : State) (c st len : W32) : Stream :=
  let w := c.toNat
  let rp := decide (fieldOf w 24 1 = 1)
  let n := if rp then fieldOf len.toNat 0 31 else 0
  { Stream.reset with
    st := if rp then .replay else .record
    lrm := c.getLsbD 23
    divp := c.getLsbD 22
    ovf := BitVec.ofNat 2 (fieldOf w 20 2)
    region := s.g.r.getB (fieldOf w 8 4)
    spillRec := if fieldOf w 20 2 = 1 then s.g.r.getB (fieldOf w 16 4) else 0
    staging := st
    len := n
    inSpill := rp && len.getLsbD 31
    pos := n
    posSpill := rp && len.getLsbD 31 }

/-- TOPEN. -/
def execTopen (g : BitVec 6) (s : State) : Host.Outcome State Fault Refusal :=
  run 4 s (blockSels g 3) [] (fun x =>
    let c := x.cmd g 0
    let sl := c.getLsbD 0
    if !x.slotBound sl then .trap (tapeFault 1) x
    else if (x.g.stream sl).st = .failed then .trap (tapeFault 5) x
    else if (x.g.stream sl).st ≠ .closed then .trap (tapeFault 3) x
    else if x.topenBad c (x.cmd g 1) (x.cmd g 2) then .trap (tapeFault 2) x
    else .ok (x.modStream sl (fun _ => x.opened c (x.cmd g 1) (x.cmd g 2))))

/-! Recording (R250 to R257). -/

/-- Bytes of the half that takes new records (R241). -/
def Stream.half (x : Stream) : Nat := ((x.stage.drop x.full).map (fun r => r.bytes.length)).sum

/-- Room for `n` bytes of records that are encoded next: in the half in hand or, where that is full, in the other one,
none while that one is being drained (R241). A half is full when the record that comes next could pass its end (DESIGN
CHOICE, log 119). -/
def Stream.room (x : Stream) (n : Nat) : Option Stream :=
  if x.half + n ≤ 4096 then some x else if x.full = 0 then some x.ask else none

/-- What recording answers. -/
inductive Recorded where
  | trap (t : Trap)
  | wait
  | ok (x : Stream) (counted : Bool)

/-- A record's bytes at the end of the region in use. -/
def Stream.append (x : Stream) (bytes : List Byte) (counted : Bool) : Stream :=
  { x with stage := x.stage ++ [⟨x.inSpill, x.len, bytes, counted⟩], len := x.len + bytes.length }

/-- The move to the spill region (R256): a LINK holding L is its first record. -/
def Stream.toSpill (x : Stream) : Stream :=
  Stream.append { x with inSpill := true, len := 0 } (wordBytes (recWords .link 0 0 0 [BitVec.ofNat 32 x.len])) false

/-- The end of a range of marked records under DROP (R257). -/
def Stream.drop (x : Stream) : Stream :=
  { x with
    st := .dropping
    len := if x.marked then x.pm else 0
    dropId := if x.marked then x.markId else 0xFFFF }

/-- A record of maximum size `mx` offered to a stream (R251, R253, R255 to R257); `mk` gives its words. -/
def Stream.offer (x : Stream) (mark : Bool) (mx : Nat) (mk : Stream → List W32) : Recorded :=
  let num := fun (y : Stream) => { y with seq := y.seq + 1 }
  let put := fun (y : Stream) =>
    let z := y.append (wordBytes (mk y)) true
    let dropped := decide (y.st = .dropping)
    num (if mark then
        { z with
          st := .record
          marked := true
          pm := y.len
          markDrop := dropped
          markId := if dropped then y.dropId else hdrTag ((mk y).headD 0) }
      else z)
  let fill := fun (n : Nat) (f : Stream → Recorded) => match x.room n with
    | some y => f y
    | none => .wait
  if x.st = .dropping ∧ mark = false then .ok (num x) false
  else if x.len + mx ≤ x.cap then fill mx (fun y => .ok (put y) true)
  else if x.ovf = 1 ∧ x.inSpill = false then
    fill (mx + 12) (fun y =>
      let z := y.toSpill
      if z.len + mx ≤ z.cap then .ok (put z) true else .trap (Trap.mk2 0x12 (BitVec.ofNat 64 x.len)))
  else if x.ovf = 2 ∧ mark = false then .ok (num x.drop) false
  else .trap (Trap.mk2 0x12 (BitVec.ofNat 64 x.len))

/-- A record of the current group (R251, R243), and what follows once the engine has accepted it. -/
def State.record (s : State) (sl mark : Bool) (mx : Nat) (mk : Stream → List W32) (k : State → State) : Res :=
  if !s.pathRoom 5 then .block .counter s
  else match (s.g.stream sl).offer mark mx mk with
    | .trap t => .trap t s
    | .wait => .block .tape s
    | .ok x counted =>
      let s1 := s.modStream sl (fun _ => x)
      .ok (k (if counted then s1.incPath s1.cur 5 1 else s1))

/-- The lanes of a register in the active threads. -/
def State.actLanes (s : State) (r : Nat) : List W32 := s.actThreads.map (s.g.r.getV r)

/-- The words of a TREC's record. -/
def State.trecWords (s : State) (d : Nat) (kind : TrecKind) (x : Stream) : List W32 :=
  match kind with
  | .value nm1 =>
    recWords .value nm1.toNat 0 s.g.r.exm (packLanes false ((List.range (nm1.toNat + 1)).map (fun i => s.actLanes (d + i))))
  | .index => recWords .index 0 0 s.g.r.exm (packLanes true [s.actLanes d])
  | .lvalue fmt =>
    let els := (List.range 32).map (fun e => if s.g.act (e / 2) then s.g.r.getV (d + e % 2) (e / 2) else 0)
    let rnd := fun (e : Nat) => rnd16 false (philox (BitVec.ofNat 32 x.seq) (BitVec.ofNat 32 e) 3 0 s.l.seed (s.streamTcb x).seed)
    recWords .lvalue 1 fmt.toNat s.g.r.exm (packBlock fmt.toNat (if x.lrm then .rne else .sr) rnd els)

/-- The registers of a TREC. -/
def TrecKind.regs : TrecKind → Nat
  | .value nm1 => nm1.toNat + 1
  | .lvalue _ => 2
  | .index => 1

/-- The largest size of a TREC's record (R255). -/
def TrecKind.maxSize : TrecKind → Nat
  | .value nm1 => maxRec .value (nm1.toNat + 1) 0
  | .lvalue f => maxRec .lvalue 2 f.toNat
  | .index => maxRec .index 1 0

/-- TREC (R250, R251). -/
def execTrec (d : BitVec 7) (kind : TrecKind) (sl : BitVec 1) (s : State) : Host.Outcome State Fault Refusal :=
  run 8 s ((List.range (TrecKind.regs kind)).map (fun i => blk (.v (BitVec.ofNat 7 (d.toNat + i))))) [] (fun x =>
    match x.tapeErr (slotOf sl) true false with
    | some t => .trap t x
    | none => x.record (slotOf sl) false (TrecKind.maxSize kind) (x.trecWords d.toNat kind) id)

/-- TBRK (R252). -/
def execTbrk (sl : BitVec 1) (a : Sel) (s : State) : Host.Outcome State Fault Refusal :=
  run 4 s [a] [] (fun x =>
    match x.tapeErr (slotOf sl) true false with
    | some t => .trap t x
    | none => x.record (slotOf sl) false (maxRec .decision 0 0)
        (fun _ => recWords .decision 0 0 x.g.r.exm [(((x.uniVal a.src).truncate 16 : BitVec 16) &&& x.g.r.exm).zeroExtend 32]) id)

/-- The words of a MARK (R247, R254, R257). -/
def markWords (id : BitVec 16) (x : Stream) : List W32 :=
  if x.st = .dropping then recWords .mark 0 1 id [x.dropId.zeroExtend 32] else recWords .mark 0 0 id [0]

/-- TMARK's status word. -/
def markStatus (drop : Bool) (dropId : BitVec 16) : W32 :=
  if drop then (dropId.zeroExtend 32 <<< 16) ||| 3 else 1

/-- TMARK (R254). -/
def execTmark (sl : BitVec 1) (d : BitVec 6) (b : UOpd) (s : State) : Host.Outcome State Fault Refusal :=
  runTile (uLen b) s b.sels [s.dg d] (fun x =>
    let id : BitVec 16 := (x.uval b).truncate 16
    let st := x.g.stream (slotOf sl)
    match x.tapeErr (slotOf sl) true true with
    | some t => .trap t x
    | none =>
      if st.st = .replay then
        match x.headCheck (slotOf sl) (.mark id) with
        | .error r => r
        | .ok y =>
          match st.head with
          | none => .block .tape y
          | some h =>
            let drop := decide (hdrSub h.hdr % 2 = 1)
            .ok ((y.modStream (slotOf sl) Stream.pop).setU (x.gn d) (markStatus drop ((h.body.headD 0).truncate 16)))
      else
        x.record (slotOf sl) true 12 (markWords id)
          (fun y => y.setU (x.gn d) (markStatus (decide (st.st = .dropping)) st.dropId)))

/-! Replay (R258 to R263). -/

/-- The read position at the end of the tape (R258). -/
def Stream.rewind (x : Stream) : Stream :=
  { x with st := .replay, pos := x.len, posSpill := x.inSpill, popped := 0, head := none, q0 := 0 }

/-- TREV (R258). -/
def execTrev (sl : BitVec 1) (d : BitVec 6) (s : State) : Host.Outcome State Fault Refusal :=
  run 4 s [] [s.dg d] (fun x =>
    match x.tapeErr (slotOf sl) true true with
    | some t => .trap t x
    | none =>
      let st := x.g.stream (slotOf sl)
      if !st.stage.isEmpty then .block .tape (x.modStream (slotOf sl) Stream.ask)
      else .ok (((x.modStream (slotOf sl) Stream.rewind).modY (fun y => { y with qsel := slotOf sl })).setU (x.gn d) st.lenWord))

/-- A popped record whose fetch met an uncorrectable error (R267): its registers' readers meet it. -/
def State.popBad (s : State) (sl : Bool) (h : TapeHead) (dests : List Dest) : State :=
  (s.modStream sl Stream.pop).produce ⟨dests, none, some (.data 3 (BitVec.ofNat 64 h.off))⟩

/-- TPOP (R261, R262). -/
def execTpop (d : BitVec 7) (kind : TpopKind) (sl : BitVec 1) (s : State) : Host.Outcome State Fault Refusal :=
  let n := match kind with | .value nm1 => nm1.toNat + 1 | .index => 1
  runTile 8 s [] ((List.range n).map (fun i => DReg.v (d.toNat + i))) (fun x =>
    match x.tapeErr (slotOf sl) false true with
    | some t => .trap t x
    | none =>
      let st := x.g.stream (slotOf sl)
      match st.head.filter (fun h => h.bad) with
      | some h => .ok (x.popBad (slotOf sl) h ((List.range n).map (fun i => .v (d.toNat + i) 0 [])))
      | none =>
        match x.headCheck (slotOf sl) (match kind with | .value _ => .value n | .index => .index), st.head with
        | .error r, _ => r
        | .ok y, none => .block .tape y
        | .ok y, some h =>
          let ls := y.headLanes st h
          .ok ((y.modStream (slotOf sl) Stream.pop).produce
            ⟨(List.range n).map (fun i => .v (d.toNat + i) y.g.r.exm (ls.getD i [])), none, none⟩))

/-- TBPOP (R263). -/
def execTbpop (sl : BitVec 1) (d : BitVec 6) (s : State) : Host.Outcome State Fault Refusal :=
  runTile 4 s [] [s.dg d] (fun x =>
    match x.tapeErr (slotOf sl) false true with
    | some t => .trap t x
    | none =>
      let st := x.g.stream (slotOf sl)
      match st.head.filter (fun h => h.bad) with
      | some h => .ok (x.popBad (slotOf sl) h [.g (x.gn d) 0])
      | none =>
        match x.headCheck (slotOf sl) .decision, st.head with
        | .error r, _ => r
        | .ok y, none => .block .tape y
        | .ok y, some h =>
          .ok ((y.modStream (slotOf sl) Stream.pop).produce ⟨[.g (x.gn d) h.decision], none, none⟩))

/-- TCLOSE (R265). -/
def execTclose (sl : BitVec 1) (d : BitVec 6) (s : State) : Host.Outcome State Fault Refusal :=
  run 4 s [] [s.dg d] (fun x =>
    let st := x.g.stream (slotOf sl)
    if !x.slotBound (slotOf sl) || st.st == .closed then .trap (tapeFault 1) x
    else if !st.stage.isEmpty then .block .tape (x.modStream (slotOf sl) Stream.ask)
    else .ok ((x.modStream (slotOf sl) (fun _ => Stream.reset)).setU (x.gn d)
      (if st.st = .failed then 0xFFFFFFFF else st.lenWord)))

/-! The engine's own steps (R241, R243, R258, R267, R268). -/

/-- The engine's agent for a group. -/
def State.tapeAg (s : State) (gk : Nat) : EngAg :=
  let c := s.coreNoG gk
  ⟨.copy c, s.ctxNoG gk, s.privG gk, some (teamOf gk), some c, dieOf c, none⟩

/-- A side over a region record. -/
def regionSide (rc : BitVec 256) (side : Nat) : ESide := ⟨rc, rBase rc, none, side⟩

/-- The spans of `n` words at an offset of a region. -/
def regionSpans (rc : BitVec 256) (off n : Nat) : List (W64 × Nat) :=
  (List.range n).map (fun i => (rBase rc + BitVec.ofNat 64 (off + 4 * i), 4))

/-- A stream of any group changed. -/
def State.modStreamG (s : State) (gk : Nat) (sl : Bool) (f : Stream → Stream) : State :=
  s.modGrp gk (fun g => g.setStream sl (f (g.stream sl)))

/-- A stream fails (R268): records not drained are lost, and path 5 no longer counts them (log 25). -/
def State.tapeFail (s : State) (gk : Nat) (sl : Bool) : State :=
  let lost := ((s.grp gk).stream sl).stage.filter (fun r => r.counted)
  (lost.foldl (fun st _ => st.decPath gk 5)
    (s.modStreamG gk sl (fun x => { x with st := .failed, stage := [], full := 0, head := none }))).poke gk

/-- Staged records written to their places in the regions, in order; a stream whose staging a thread has stored into has
unspecified contents (R241). -/
def State.drainRecs (s : State) (gk : Nat) (sl : Bool) : List StageRec → Except EErr Unit × State
  | [] => (.ok (), s)
  | r :: rest =>
    let x := (s.grp gk).stream sl
    let b := if x.spoiled then s.freeBytes r.bytes.length else (r.bytes, s)
    let q := b.2.eStore (b.2.tapeAg gk) (regionSide (if r.spill then x.spillRec else x.region) 1)
      (regionSpans (if r.spill then x.spillRec else x.region) r.off (r.bytes.length / 4)) b.1
    match q.1 with
    | .error e => (.error e, q.2)
    | .ok _ =>
      let s1 := q.2.modStreamG gk sl (fun y => { y with stage := y.stage.tail, full := y.full - 1 })
      State.drainRecs (if r.counted then s1.decPath gk 5 else s1) gk sl rest

/-- TAPE_DRAIN: the half of a stream that was given to the copy engine is written to its region, as one piece that takes
a place among the engine's active commands (R241). -/
def execTapeDrain (gk : Nat) (sl : Bool) (s : State) : Host.Outcome State Fault Refusal :=
  .next (
    let x := (s.grp gk).stream sl
    if x.full = 0 ∨ (s.teamG gk).st ≠ .resident ∨ 4 ≤ s.activeCmds (.core (s.coreNoG gk)) then s
    else
      let r := s.drainRecs gk sl (x.stage.take x.full)
      match r.1 with
      | .error _ => r.2.tapeFail gk sl
      | .ok _ => r.2.poke gk)

/-- `n` words of a region read by the engine, with the mark of an uncorrectable error: such words are free values. -/
def State.regionRead (s : State) (ag : EngAg) (rc : BitVec 256) (off n : Nat) (spoiled : Bool) :
    Except EErr (List W32 × Bool) × State :=
  let r := s.eSpans ag (regionSide rc 0) false (regionSpans rc off n)
  match r.1 with
  | .ok bs => if spoiled then let f := r.2.freeBytes (4 * n); (.ok (bytesWords n f.1, false), f.2) else (.ok (bytesWords n bs, false), r.2)
  | .error e => if e.1 = 5 then let f := r.2.freeBytes (4 * n); (.ok (bytesWords n f.1, true), f.2) else (.error e, r.2)

/-- A record fetched back from the end `pos` of a region. -/
def State.fetchRec (s : State) (ag : EngAg) (rc : BitVec 256) (pos : Nat) (spoiled : Bool) : Except EErr TapeHead × State :=
  let t := s.regionRead ag rc (pos - 4) 1 spoiled
  match t.1 with
  | .error e => (.error e, t.2)
  | .ok tr =>
    let hdr := tr.1.headD 0
    let size := 8 + 4 * hdrLen hdr
    if pos < size then (.ok ⟨0, hdr, [], false, tr.2⟩, t.2)
    else
      let q := t.2.regionRead ag rc (pos - size) (1 + hdrLen hdr) spoiled
      match q.1 with
      | .error e => (.error e, q.2)
      | .ok ws =>
        (.ok ⟨pos - size, hdr, ws.1.tail, ws.1.headD 0 == hdr && hdrKind hdr != .reserved, tr.2 || ws.2⟩, q.2)

/-- TAPE_FETCH: the record before the read position is fetched; a LINK is followed to the main region (R258). -/
def execTapeFetch (gk : Nat) (sl : Bool) (s : State) : Host.Outcome State Fault Refusal :=
  .next (
    let x := (s.grp gk).stream sl
    if x.st ≠ .replay ∨ x.head.isSome = true ∨ x.pos = 0 ∨ (s.teamG gk).st ≠ .resident then s
    else
      let r := s.fetchRec (s.tapeAg gk) (if x.posSpill then x.spillRec else x.region) x.pos x.spoiled
      match r.1 with
      | .error _ => r.2.tapeFail gk sl
      | .ok h =>
        if x.posSpill && hdrKind h.hdr == .link && h.good && !h.bad then
          (r.2.modStreamG gk sl (fun y => { y with pos := (h.body.headD 0).toNat, posSpill := false })).poke gk
        else (r.2.modStreamG gk sl (fun y => { y with head := some h })).poke gk)

end Sys2Proof.Machine
end

