-- ==== Sys2Proof/Machine/Uniform.lean ====
section
/-! DEFINITION. Uniform arithmetic, exec masks and branches (spec/14 R350 to R360). -/

namespace Sys2Proof.Machine

/-! Uniform arithmetic (R351 to R354). -/

/-- A GA instruction: `f` of its two sources into its destination. -/
def uni2 (d : BitVec 6) (a : Sel) (b : UOpd) (s : State) (f : W32 → W32 → W32) : Host.Outcome State Fault Refusal :=
  run (uLen b) s (a :: b.sels) [s.dg d] (fun x => .ok (x.setU (x.gn d) (f (x.uniVal a.src) (x.uval b))))

/-- A GUN member: `f` of its source into its destination (R353). -/
def uni1 (d : BitVec 6) (a : Sel) (s : State) (f : W32 → W32) : Host.Outcome State Fault Refusal :=
  run 4 s [a] [s.dg d] (fun x => .ok (x.setU (x.gn d) (f (x.uniVal a.src))))

/-- GADD (14 R351). -/
def execGadd (d : BitVec 6) (a : Sel) (b : UOpd) (s : State) : Host.Outcome State Fault Refusal := uni2 d a b s (· + ·)
/-- GSUB. -/
def execGsub (d : BitVec 6) (a : Sel) (b : UOpd) (s : State) : Host.Outcome State Fault Refusal := uni2 d a b s (· - ·)
/-- GMUL. -/
def execGmul (d : BitVec 6) (a : Sel) (b : UOpd) (s : State) : Host.Outcome State Fault Refusal := uni2 d a b s (· * ·)
/-- GMULH. -/
def execGmulh (d : BitVec 6) (a : Sel) (b : UOpd) (s : State) : Host.Outcome State Fault Refusal := uni2 d a b s mulh
/-- GAND. -/
def execGand (d : BitVec 6) (a : Sel) (b : UOpd) (s : State) : Host.Outcome State Fault Refusal :=
  uni2 d a b s (· &&& ·)
/-- GOR. -/
def execGor (d : BitVec 6) (a : Sel) (b : UOpd) (s : State) : Host.Outcome State Fault Refusal :=
  uni2 d a b s (· ||| ·)
/-- GXOR. -/
def execGxor (d : BitVec 6) (a : Sel) (b : UOpd) (s : State) : Host.Outcome State Fault Refusal :=
  uni2 d a b s (· ^^^ ·)
/-- GANDN. -/
def execGandn (d : BitVec 6) (a : Sel) (b : UOpd) (s : State) : Host.Outcome State Fault Refusal :=
  uni2 d a b s (fun x y => x &&& ~~~y)
/-- GSHL. -/
def execGshl (d : BitVec 6) (a : Sel) (b : UOpd) (s : State) : Host.Outcome State Fault Refusal :=
  uni2 d a b s (fun x y => x <<< shAmt y)
/-- GSHR. -/
def execGshr (d : BitVec 6) (a : Sel) (b : UOpd) (s : State) : Host.Outcome State Fault Refusal :=
  uni2 d a b s (fun x y => x >>> shAmt y)
/-- GSAR. -/
def execGsar (d : BitVec 6) (a : Sel) (b : UOpd) (s : State) : Host.Outcome State Fault Refusal :=
  uni2 d a b s (fun x y => x.sshiftRight (shAmt y))
/-- GMIN. -/
def execGmin (d : BitVec 6) (a : Sel) (b : UOpd) (s : State) : Host.Outcome State Fault Refusal := uni2 d a b s smin
/-- GMAX. -/
def execGmax (d : BitVec 6) (a : Sel) (b : UOpd) (s : State) : Host.Outcome State Fault Refusal := uni2 d a b s smax
/-- GMOV (R351): reads only B. -/
def execGmov (d : BitVec 6) (b : UOpd) (s : State) : Host.Outcome State Fault Refusal :=
  run (uLen b) s b.sels [s.dg d] (fun x => .ok (x.setU (x.gn d) (x.uval b)))

/-- GCMP (R352): 1 or 0 into G0 to G31; its sources always block. -/
def execGcmp (c : Cond) (d : BitVec 5) (a b : Src) (s : State) : Host.Outcome State Fault Refusal :=
  run 4 s [blk a, blk b] [.g d.toNat] (fun x =>
    .ok (x.setU d.toNat (if icond true c (x.uniVal a) (x.uniVal b) then 1 else 0)))

/-- GPOPC (R353). -/
def execGpopc (d : BitVec 6) (a : Sel) (s : State) : Host.Outcome State Fault Refusal := uni1 d a s popcount
/-- GCLZ. -/
def execGclz (d : BitVec 6) (a : Sel) (s : State) : Host.Outcome State Fault Refusal := uni1 d a s clz
/-- GCTZ. -/
def execGctz (d : BitVec 6) (a : Sel) (s : State) : Host.Outcome State Fault Refusal := uni1 d a s ctz
/-- GNOT. -/
def execGnot (d : BitVec 6) (a : Sel) (s : State) : Host.Outcome State Fault Refusal := uni1 d a s (fun x => ~~~x)
/-- GNEG. -/
def execGneg (d : BitVec 6) (a : Sel) (s : State) : Host.Outcome State Fault Refusal := uni1 d a s (fun x => 0 - x)
/-- GBREV. -/
def execGbrev (d : BitVec 6) (a : Sel) (s : State) : Host.Outcome State Fault Refusal := uni1 d a s brev

/-- RDLANE (R354): lane b[3:0] of a V register, whatever EXM holds. -/
def execRdlane (d : BitVec 6) (a : BitVec 7) (t : Bool) (b : UOpd) (s : State) : Host.Outcome State Fault Refusal :=
  run (uLen b) s (⟨.v a, t⟩ :: b.sels) [s.dg d] (fun x =>
    .ok (x.setU (x.gn d) (x.g.r.getV a.toNat ((x.uval b).toNat % 16))))

/-! Exec masks (R355). -/

/-- A mask instruction: the old EXM into its destination, and a new EXM. -/
def maskOp (d : BitVec 6) (len : Nat) (sels : List Sel) (s : State) (f : State → W32) :
    Host.Outcome State Fault Refusal :=
  run len s sels [s.dg d] (fun x =>
    .ok ((x.setU (x.gn d) (x.g.r.exm.zeroExtend 32)).modR (fun r => { r with exm := (f x).truncate 16 })))

/-- MSET (14 R355). -/
def execMset (d : BitVec 6) (b : UOpd) (s : State) : Host.Outcome State Fault Refusal :=
  maskOp d (uLen b) b.sels s (fun x => x.uval b)
/-- MAND. -/
def execMand (d : BitVec 6) (a : Sel) (b : UOpd) (s : State) : Host.Outcome State Fault Refusal :=
  maskOp d (uLen b) (a :: b.sels) s (fun x => x.uniVal a.src &&& x.uval b)
/-- MANDN. -/
def execMandn (d : BitVec 6) (a : Sel) (b : UOpd) (s : State) : Host.Outcome State Fault Refusal :=
  maskOp d (uLen b) (a :: b.sels) s (fun x => x.uniVal a.src &&& ~~~(x.uval b))
/-- MOR. -/
def execMor (d : BitVec 6) (a : Sel) (b : UOpd) (s : State) : Host.Outcome State Fault Refusal :=
  maskOp d (uLen b) (a :: b.sels) s (fun x => x.uniVal a.src ||| x.uval b)

/-! Branches (R357 to R359). -/

/-- The instruction-fetch fault of a transfer to an address (06 R134, 14 R357). -/
def fetchTrap (target : W64) : Trap := Trap.mk2 3 target

/-- A control transfer (R357): the fault stands at the transferring instruction when the target is not a multiple of 4
or its page cannot be fetched. -/
def State.transfer (s : State) (target : W64) : Res :=
  if target.toNat % 4 ≠ 0 then .trap (fetchTrap target) s
  else
    let r := s.fetchWord target
    match r.1 with
    | none => .trap (fetchTrap target) r.2
    | some _ => .jump r.2 target

/-- A displacement in bytes (06 R142). -/
def dispBytes (disp : BitVec 17) : W64 := disp.signExtend 64 <<< 2
/-- The target of a PC-relative member (R357). -/
def State.relTarget (s : State) (disp : BitVec 17) : W64 := s.g.r.pc + 4 + dispBytes disp

/-- A conditional branch on G[c] (R358). -/
def branchIf (c : BitVec 6) (disp : BitVec 17) (s : State) (p : State → W32 → Bool) :
    Host.Outcome State Fault Refusal :=
  run 4 s [blk (.g c)] [] (fun x => if p x (x.g.r.getG (x.gn c)) then x.transfer (x.relTarget disp) else .ok x)

/-- The active threads that a mask names (R358). -/
def State.activeIn (s : State) (w : W32) : BitVec 16 := w.truncate 16 &&& s.g.r.exm

/-- BRA (14 R358); HINT is timing only (R357). -/
def execBra (disp : BitVec 17) (_h : Hint) (s : State) : Host.Outcome State Fault Refusal :=
  run 4 s [] [] (fun x => x.transfer (x.relTarget disp))
/-- BEZ. -/
def execBez (c : BitVec 6) (disp : BitVec 17) (_h : Hint) (s : State) : Host.Outcome State Fault Refusal :=
  branchIf c disp s (fun _ v => v == 0)
/-- BNZ. -/
def execBnz (c : BitVec 6) (disp : BitVec 17) (_h : Hint) (s : State) : Host.Outcome State Fault Refusal :=
  branchIf c disp s (fun _ v => v != 0)
/-- BMZ. -/
def execBmz (c : BitVec 6) (disp : BitVec 17) (_h : Hint) (s : State) : Host.Outcome State Fault Refusal :=
  branchIf c disp s (fun x v => x.activeIn v == 0)
/-- BMNZ. -/
def execBmnz (c : BitVec 6) (disp : BitVec 17) (_h : Hint) (s : State) : Host.Outcome State Fault Refusal :=
  branchIf c disp s (fun x v => x.activeIn v != 0)

/-- CALL (R358, R359): a return offset beyond 32 bits raises the fault at the CALL. -/
def execCall (c : BitVec 6) (disp : BitVec 17) (_h : Hint) (s : State) : Host.Outcome State Fault Refusal :=
  run 4 s [] [s.dg c] (fun x =>
    let ret := x.g.r.pc + 4 - x.l.cb
    if 2 ^ 32 ≤ ret.toNat then .trap (fetchTrap (x.relTarget disp)) x
    else (x.setU (x.gn c) (ret.truncate 32)).transfer (x.relTarget disp))

/-- JMPR (R358). -/
def execJmpr (c : BitVec 6) (disp : BitVec 17) (_h : Hint) (s : State) : Host.Outcome State Fault Refusal :=
  run 4 s [blk (.g c)] [] (fun x =>
    x.transfer (x.l.cb + (x.g.r.getG (x.gn c)).zeroExtend 64 + dispBytes disp))

/-- LOOP (R358): the decremented register decides. -/
def execLoop (c : BitVec 6) (disp : BitVec 17) (_h : Hint) (s : State) : Host.Outcome State Fault Refusal :=
  run 4 s [blk (.g c)] [s.dg c] (fun x =>
    let v := x.g.r.getG (x.gn c) - 1
    let y := x.setU (x.gn c) v
    if v = 0 then .ok y else y.transfer (y.relTarget disp))

end Sys2Proof.Machine
end

