-- ==== Sys2Proof/Machine/Dispatch.lean ====
section
/-! DEFINITION. One arm per instruction: a direct call of its meaning. -/

namespace Sys2Proof.Machine

/-- What an instruction, or another indivisible step of the module, does. -/
def exec (i : Instr) (s : State) : Host.Outcome State Fault Refusal :=
  match i with
  | .iadd d a b => Sys2Proof.Machine.execIadd d a b s
  | .isub d a b => Sys2Proof.Machine.execIsub d a b s
  | .imul d a b => Sys2Proof.Machine.execImul d a b s
  | .imulh d a b => Sys2Proof.Machine.execImulh d a b s
  | .imulhu d a b => Sys2Proof.Machine.execImulhu d a b s
  | .imad d a b => Sys2Proof.Machine.execImad d a b s
  | .imin d a b => Sys2Proof.Machine.execImin d a b s
  | .imax d a b => Sys2Proof.Machine.execImax d a b s
  | .umin d a b => Sys2Proof.Machine.execUmin d a b s
  | .umax d a b => Sys2Proof.Machine.execUmax d a b s
  | .and d a b => Sys2Proof.Machine.execAnd d a b s
  | .or d a b => Sys2Proof.Machine.execOr d a b s
  | .xor d a b => Sys2Proof.Machine.execXor d a b s
  | .andn d a b => Sys2Proof.Machine.execAndn d a b s
  | .shl d a b => Sys2Proof.Machine.execShl d a b s
  | .shr d a b => Sys2Proof.Machine.execShr d a b s
  | .sar d a b => Sys2Proof.Machine.execSar d a b s
  | .rot d a b => Sys2Proof.Machine.execRot d a b s
  | .icmp c g a b => Sys2Proof.Machine.execIcmp c g a b s
  | .ucmp c g a b => Sys2Proof.Machine.execUcmp c g a b s
  | .fcmp c g a b => Sys2Proof.Machine.execFcmp c g a b s
  | .popc d a => Sys2Proof.Machine.execPopc d a s
  | .clz d a => Sys2Proof.Machine.execClz d a s
  | .ctz d a => Sys2Proof.Machine.execCtz d a s
  | .brev d a => Sys2Proof.Machine.execBrev d a s
  | .bswap d a => Sys2Proof.Machine.execBswap d a s
  | .sext8 d a => Sys2Proof.Machine.execSext8 d a s
  | .sext16 d a => Sys2Proof.Machine.execSext16 d a s
  | .zext8 d a => Sys2Proof.Machine.execZext8 d a s
  | .zext16 d a => Sys2Proof.Machine.execZext16 d a s
  | .not d a => Sys2Proof.Machine.execNot d a s
  | .neg d a => Sys2Proof.Machine.execNeg d a s
  | .abs d a => Sys2Proof.Machine.execAbs d a s
  | .bfe d a b => Sys2Proof.Machine.execBfe d a b s
  | .bfi d a b => Sys2Proof.Machine.execBfi d a b s
  | .clmul d a b => Sys2Proof.Machine.execClmul d a b s
  | .clmulh d a b => Sys2Proof.Machine.execClmulh d a b s
  | .shfl d a b => Sys2Proof.Machine.execShfl d a b s
  | .shflx d a b => Sys2Proof.Machine.execShflx d a b s
  | .shflu d a b => Sys2Proof.Machine.execShflu d a b s
  | .shfld d a b => Sys2Proof.Machine.execShfld d a b s
  | .xredAdd m d a => Sys2Proof.Machine.execXredAdd m d a s
  | .xredMin m d a => Sys2Proof.Machine.execXredMin m d a s
  | .xredMax m d a => Sys2Proof.Machine.execXredMax m d a s
  | .xredUmin m d a => Sys2Proof.Machine.execXredUmin m d a s
  | .xredUmax m d a => Sys2Proof.Machine.execXredUmax m d a s
  | .xredAnd m d a => Sys2Proof.Machine.execXredAnd m d a s
  | .xredOr m d a => Sys2Proof.Machine.execXredOr m d a s
  | .xredXor m d a => Sys2Proof.Machine.execXredXor m d a s
  | .xredFadd m d a => Sys2Proof.Machine.execXredFadd m d a s
  | .xredFmin m d a => Sys2Proof.Machine.execXredFmin m d a s
  | .xredFmax m d a => Sys2Proof.Machine.execXredFmax m d a s
  | .mov d a => Sys2Proof.Machine.execMov d a s
  | .fadd d a b => Sys2Proof.Machine.execFadd d a b s
  | .fsub d a b => Sys2Proof.Machine.execFsub d a b s
  | .fmul d a b => Sys2Proof.Machine.execFmul d a b s
  | .ffma d a b => Sys2Proof.Machine.execFfma d a b s
  | .fmin d a b => Sys2Proof.Machine.execFmin d a b s
  | .fmax d a b => Sys2Proof.Machine.execFmax d a b s
  | .fabs d a => Sys2Proof.Machine.execFabs d a s
  | .fneg d a => Sys2Proof.Machine.execFneg d a s
  | .frcp d a => Sys2Proof.Machine.execFrcp d a s
  | .frsq d a => Sys2Proof.Machine.execFrsq d a s
  | .fsqrt d a => Sys2Proof.Machine.execFsqrt d a s
  | .fexp2 d a => Sys2Proof.Machine.execFexp2 d a s
  | .flog2 d a => Sys2Proof.Machine.execFlog2 d a s
  | .fsin d a => Sys2Proof.Machine.execFsin d a s
  | .fcos d a => Sys2Proof.Machine.execFcos d a s
  | .ftanh d a => Sys2Proof.Machine.execFtanh d a s
  | .ffrac d a => Sys2Proof.Machine.execFfrac d a s
  | .frnde d a => Sys2Proof.Machine.execFrnde d a s
  | .ftrunc d a => Sys2Proof.Machine.execFtrunc d a s
  | .ffloor d a => Sys2Proof.Machine.execFfloor d a s
  | .fceil d a => Sys2Proof.Machine.execFceil d a s
  | .b2add d a b => Sys2Proof.Machine.execB2add d a b s
  | .b2mul d a b => Sys2Proof.Machine.execB2mul d a b s
  | .b2fma d a b => Sys2Proof.Machine.execB2fma d a b s
  | .b2max d a b => Sys2Proof.Machine.execB2max d a b s
  | .b2min d a b => Sys2Proof.Machine.execB2min d a b s
  | .cvt op m d a => Sys2Proof.Machine.execCvt op m d a s
  | .qscl d a t b => Sys2Proof.Machine.execQscl d a t b s
  | .qcvt d a t b => Sys2Proof.Machine.execQcvt d a t b s
  | .qexp d a b => Sys2Proof.Machine.execQexp d a b s
  | .rnd d a b => Sys2Proof.Machine.execRnd d a b s
  | .ldl d a k sc o => Sys2Proof.Machine.execLdl d a k sc o s
  | .stl d a k sc o => Sys2Proof.Machine.execStl d a k sc o s
  | .ldv d a k sc o => Sys2Proof.Machine.execLdv d a k sc o s
  | .stv d a k sc o => Sys2Proof.Machine.execStv d a k sc o s
  | .atom op d a b c k sc o => Sys2Proof.Machine.execAtom op d a b c k sc o s
  | .red op a b k sc o => Sys2Proof.Machine.execRed op a b k sc o s
  | .put d a nm1 k flag abo => Sys2Proof.Machine.execPut d a nm1 k flag abo s
  | .ratom op ret a b c k abo => Sys2Proof.Machine.execRatom op ret a b c k abo s
  | .racc d a nm1 k abo => Sys2Proof.Machine.execRacc d a nm1 k abo s
  | .sel d a b c inv => Sys2Proof.Machine.execSel d a b c inv s
  | .spst d nm1 off => Sys2Proof.Machine.execSpst d nm1 off s
  | .spld d nm1 off => Sys2Proof.Machine.execSpld d nm1 off s
  | .trec d kind sl => Sys2Proof.Machine.execTrec d kind sl s
  | .tpop d kind sl => Sys2Proof.Machine.execTpop d kind sl s
  | .gadd d a b => Sys2Proof.Machine.execGadd d a b s
  | .gsub d a b => Sys2Proof.Machine.execGsub d a b s
  | .gmul d a b => Sys2Proof.Machine.execGmul d a b s
  | .gmulh d a b => Sys2Proof.Machine.execGmulh d a b s
  | .gand d a b => Sys2Proof.Machine.execGand d a b s
  | .gor d a b => Sys2Proof.Machine.execGor d a b s
  | .gxor d a b => Sys2Proof.Machine.execGxor d a b s
  | .gandn d a b => Sys2Proof.Machine.execGandn d a b s
  | .gshl d a b => Sys2Proof.Machine.execGshl d a b s
  | .gshr d a b => Sys2Proof.Machine.execGshr d a b s
  | .gsar d a b => Sys2Proof.Machine.execGsar d a b s
  | .gmin d a b => Sys2Proof.Machine.execGmin d a b s
  | .gmax d a b => Sys2Proof.Machine.execGmax d a b s
  | .gmov d b => Sys2Proof.Machine.execGmov d b s
  | .gcmp c d a b => Sys2Proof.Machine.execGcmp c d a b s
  | .gpopc d a => Sys2Proof.Machine.execGpopc d a s
  | .gclz d a => Sys2Proof.Machine.execGclz d a s
  | .gctz d a => Sys2Proof.Machine.execGctz d a s
  | .gnot d a => Sys2Proof.Machine.execGnot d a s
  | .gneg d a => Sys2Proof.Machine.execGneg d a s
  | .gbrev d a => Sys2Proof.Machine.execGbrev d a s
  | .rdlane d a t b => Sys2Proof.Machine.execRdlane d a t b s
  | .mset d b => Sys2Proof.Machine.execMset d b s
  | .mand d a b => Sys2Proof.Machine.execMand d a b s
  | .mandn d a b => Sys2Proof.Machine.execMandn d a b s
  | .mor d a b => Sys2Proof.Machine.execMor d a b s
  | .spadj b => Sys2Proof.Machine.execSpadj b s
  | .fence o sc => Sys2Proof.Machine.execFence o sc s
  | .fenceFlush o sc => Sys2Proof.Machine.execFenceFlush o sc s
  | .publish sc a => Sys2Proof.Machine.execPublish sc a s
  | .bra disp h => Sys2Proof.Machine.execBra disp h s
  | .bez c disp h => Sys2Proof.Machine.execBez c disp h s
  | .bnz c disp h => Sys2Proof.Machine.execBnz c disp h s
  | .bmz c disp h => Sys2Proof.Machine.execBmz c disp h s
  | .bmnz c disp h => Sys2Proof.Machine.execBmnz c disp h s
  | .call c disp h => Sys2Proof.Machine.execCall c disp h s
  | .jmpr c disp h => Sys2Proof.Machine.execJmpr c disp h s
  | .loop c disp h => Sys2Proof.Machine.execLoop c disp h s
  | .bar n a => Sys2Proof.Machine.execBar n a s
  | .cbar => Sys2Proof.Machine.execCbar s
  | .abarAdd k b => Sys2Proof.Machine.execAbarAdd k b s
  | .abarSub k b => Sys2Proof.Machine.execAbarSub k b s
  | .abarSet k b => Sys2Proof.Machine.execAbarSet k b s
  | .abwait k b => Sys2Proof.Machine.execAbwait k b s
  | .waitc c k a b => Sys2Proof.Machine.execWaitc c k a b s
  | .waitn p a => Sys2Proof.Machine.execWaitn p a s
  | .topen g => Sys2Proof.Machine.execTopen g s
  | .nop => Sys2Proof.Machine.execNop s
  | .exit => Sys2Proof.Machine.execExit s
  | .trap a => Sys2Proof.Machine.execTrap a s
  | .brkpt => Sys2Proof.Machine.execBrkpt s
  | .yield => Sys2Proof.Machine.execYield s
  | .srd d a => Sys2Proof.Machine.execSrd d a s
  | .swr n a => Sys2Proof.Machine.execSwr n a s
  | .eret => Sys2Proof.Machine.execEret s
  | .genfence d => Sys2Proof.Machine.execGenfence d s
  | .rtswap d => Sys2Proof.Machine.execRtswap d s
  | .tlbi g => Sys2Proof.Machine.execTlbi g s
  | .tacq a => Sys2Proof.Machine.execTacq a s
  | .tbrk sl a => Sys2Proof.Machine.execTbrk sl a s
  | .tbpop sl d => Sys2Proof.Machine.execTbpop sl d s
  | .tmark sl d b => Sys2Proof.Machine.execTmark sl d b s
  | .trev sl d => Sys2Proof.Machine.execTrev sl d s
  | .tclose sl d => Sys2Proof.Machine.execTclose sl d s
  | .bcopy d g => Sys2Proof.Machine.execBcopy d g s
  | .bcopym d g => Sys2Proof.Machine.execBcopym d g s
  | .pstw d g => Sys2Proof.Machine.execPstw d g s
  | .tmma acc g ctl => Sys2Proof.Machine.execTmma acc g ctl s
  | .tdual x w g ctl => Sys2Proof.Machine.execTdual x w g ctl s
  | .tprom acc g => Sys2Proof.Machine.execTprom acc g s
  | .tsta acc g ctl => Sys2Proof.Machine.execTsta acc g ctl s
  | .tlda acc g ctl => Sys2Proof.Machine.execTlda acc g ctl s
  | .tzero acc g => Sys2Proof.Machine.execTzero acc g s
  | .tmaxr d g b => Sys2Proof.Machine.execTmaxr d g b s
  | .ttag d a b => Sys2Proof.Machine.execTtag d a b s
  | .bld k a b => Sys2Proof.Machine.execBld k a b s
  | .bset k f b => Sys2Proof.Machine.execBset k f b s
  | .bsetAdd k b => Sys2Proof.Machine.execBsetAdd k b s
  | .bxlate d k => Sys2Proof.Machine.execBxlate d k s
  | .send d g => Sys2Proof.Machine.execSend d g s
  | .rpost d g => Sys2Proof.Machine.execRpost d g s
  | .rprobe d g => Sys2Proof.Machine.execRprobe d g s
  | .rcancel d g => Sys2Proof.Machine.execRcancel d g s
  | .cfire a b => Sys2Proof.Machine.execCfire a b s
  | .copyPiece e id => Sys2Proof.Machine.execCopyPiece e id s
  | .copyTagRequeue e id => Sys2Proof.Machine.execCopyTagRequeue e id s
  | .copyCompletion e id => Sys2Proof.Machine.execCopyCompletion e id s
  | .followOnFire e id => Sys2Proof.Machine.execFollowOnFire e id s
  | .q3HeldRelease gk => Sys2Proof.Machine.execQ3HeldRelease gk s
  | .snapshotOpen at1 handle live ver => Sys2Proof.Machine.execSnapshotOpen at1 handle live ver s
  | .snapshotClose at1 handle => Sys2Proof.Machine.execSnapshotClose at1 handle s
  | .l2RangeWrite die idx v => Sys2Proof.Machine.execL2RangeWrite die idx v s
  | .l2PinSweep stack => Sys2Proof.Machine.execL2PinSweep stack s
  | .directoryRequest die core seg r => Sys2Proof.Machine.execDirectoryRequest die core seg r s
  | .longLatencyWrite gk idx => Sys2Proof.Machine.execLongLatencyWrite gk idx s
  | .monitorReread gk => Sys2Proof.Machine.execMonitorReread gk s
  | .tileStart core pos => Sys2Proof.Machine.execTileStart core pos s
  | .tileComplete core idx => Sys2Proof.Machine.execTileComplete core idx s
  | .tapeDrain gk sl => Sys2Proof.Machine.execTapeDrain gk sl s
  | .tapeFetch gk sl => Sys2Proof.Machine.execTapeFetch gk sl s
  | .putPacket h ts => Sys2Proof.Machine.execPutPacket h ts s
  | .ratomPacket h ts => Sys2Proof.Machine.execRatomPacket h ts s
  | .raccPacket h ts => Sys2Proof.Machine.execRaccPacket h ts s
  | .ackReceive id ece => Sys2Proof.Machine.execAckReceive id ece s
  | .rdataReceive id v ece => Sys2Proof.Machine.execRdataReceive id v ece s
  | .nackReceive id code ece => Sys2Proof.Machine.execNackReceive id code ece s
  | .busyResend id => Sys2Proof.Machine.execBusyResend id s
  | .transferTimeout id => Sys2Proof.Machine.execTransferTimeout id s
  | .flitRetransmit port => Sys2Proof.Machine.execFlitRetransmit port s
  | .portDead port => Sys2Proof.Machine.execPortDead port s
  | .rateRecover => Sys2Proof.Machine.execRateRecover s
  | .collectiveActivate ctx desc seed => Sys2Proof.Machine.execCollectiveActivate ctx desc seed s
  | .collPacket h m => Sys2Proof.Machine.execCollPacket h m s
  | .msgPacket m bytes => Sys2Proof.Machine.execMsgPacket m bytes s
  | .rtsPacket m => Sys2Proof.Machine.execRtsPacket m s
  | .pullPacket h id off len => Sys2Proof.Machine.execPullPacket h id off len s
  | .pdataPacket h ctx handle off bytes => Sys2Proof.Machine.execPdataPacket h ctx handle off bytes s
  | .receiveCompletion ctx handle => Sys2Proof.Machine.execReceiveCompletion ctx handle s
  | .q2HeldRelease team => Sys2Proof.Machine.execQ2HeldRelease team s
  | .migrationStep stack idx => Sys2Proof.Machine.execMigrationStep stack idx s
  | .faultRequest pa tgt dst big host => Sys2Proof.Machine.execFaultRequest pa tgt dst big host s
  | .nodeStart ctx queue node => Sys2Proof.Machine.execNodeStart ctx queue node s
  | .waitSatisfied ctx node => Sys2Proof.Machine.execWaitSatisfied ctx node s
  | .nodeCompletion ctx node => Sys2Proof.Machine.execNodeCompletion ctx node s
  | .teamDispatch die => Sys2Proof.Machine.execTeamDispatch die s
  | .teamExit team => Sys2Proof.Machine.execTeamExit team s
  | .teamSwapOut team => Sys2Proof.Machine.execTeamSwapOut team s
  | .activeSetRotation core quad => Sys2Proof.Machine.execActiveSetRotation core quad s
  | .preemptTrigger die launch => Sys2Proof.Machine.execPreemptTrigger die launch s
  | .invarPositionSwap core quad => Sys2Proof.Machine.execInvarPositionSwap core quad s
  | .invarWake gk => Sys2Proof.Machine.execInvarWake gk s
  | .preemptionRequest team => Sys2Proof.Machine.execPreemptionRequest team s
  | .contextSave team => Sys2Proof.Machine.execContextSave team s
  | .tlbiDrained gk => Sys2Proof.Machine.execTlbiDrained gk s
  | .accxferSave gk => Sys2Proof.Machine.execAccxferSave gk s
  | .accxferLoad gk => Sys2Proof.Machine.execAccxferLoad gk s
  | .registerWrite gk n v => Sys2Proof.Machine.execRegisterWrite gk n v s
  | .notify v whole => Sys2Proof.Machine.execNotify v whole s
  | .evheadWrite v => Sys2Proof.Machine.execEvheadWrite v s
  | .apertureAccess off op => Sys2Proof.Machine.execApertureAccess off op s
  | .debugResume entry ss => Sys2Proof.Machine.execDebugResume entry ss s
  | .init slot ring size apbase => Sys2Proof.Machine.execInit slot ring size apbase s
  | .ctxnew slot ctx sup asid fjob vt tcb ct qt => Sys2Proof.Machine.execCtxnew slot ctx sup asid fjob vt tcb ct qt s
  | .ctxdel slot ctx => Sys2Proof.Machine.execCtxdel slot ctx s
  | .load slot ctx seg container => Sys2Proof.Machine.execLoad slot ctx seg container s
  | .segmentLoad => Sys2Proof.Machine.execSegmentLoad s
  | .keyadd slot keySlot signer key sig admin => Sys2Proof.Machine.execKeyadd slot keySlot signer key sig admin s
  | .quote slot q => Sys2Proof.Machine.execQuote slot q s
  | .stepstart slot ctx queue index => Sys2Proof.Machine.execStepstart slot ctx queue index s
  | .answer slot gk retry => Sys2Proof.Machine.execAnswer slot gk retry s
  | .migrate slot stack idx entry big => Sys2Proof.Machine.execMigrate slot stack idx entry big s
  | .rtable slot addr => Sys2Proof.Machine.execRtable slot addr s
  | .abort slot job => Sys2Proof.Machine.execAbort slot job s
  | .join slot addr => Sys2Proof.Machine.execJoin slot addr s
  | .fabcfg slot cfg => Sys2Proof.Machine.execFabcfg slot cfg s
  | .fabreset slot => Sys2Proof.Machine.execFabreset slot s
  | .drain slot => Sys2Proof.Machine.execDrain slot s
  | .fwpush slot image => Sys2Proof.Machine.execFwpush slot image s
  | .heartbeat => Sys2Proof.Machine.execHeartbeat s
  | .selfCheckResult acc => Sys2Proof.Machine.execSelfCheckResult acc s
  | .watcherCheck j r => Sys2Proof.Machine.execWatcherCheck j r s
  | .accusationResult j old => Sys2Proof.Machine.execAccusationResult j old s
  | .trafficHold => Sys2Proof.Machine.execTrafficHold s
  | .stripeLanded k peerCrc err bytes => Sys2Proof.Machine.execStripeLanded k peerCrc err bytes s
  | .powerOn => Sys2Proof.Machine.execPowerOn s
  | .moduleReset => Sys2Proof.Machine.execModuleReset s
  | .trainingComplete chan0 chan1 live full8 => Sys2Proof.Machine.execTrainingComplete chan0 chan1 live full8 s
  | .powerLoss => Sys2Proof.Machine.execPowerLoss s
  | .sensorSample x => Sys2Proof.Machine.execSensorSample x s
  | .alarmClear m => Sys2Proof.Machine.execAlarmClear m s
  | .offRequest => Sys2Proof.Machine.execOffRequest s
  | .forceOff => Sys2Proof.Machine.execForceOff s
  | .unitFailure u => Sys2Proof.Machine.execUnitFailure u s
  | .linkAcknowledgement port n => Sys2Proof.Machine.execLinkAcknowledgement port n s
  | .malformedPacket h => Sys2Proof.Machine.execMalformedPacket h s

end Sys2Proof.Machine
end

