-- ==== Sys2Proof/Machine/Step.lean ====
section
/-! DEFINITION. One step of the module: the head of the agenda takes place, or the current group issues (log 2). -/

namespace Sys2Proof.Machine

/-- A group's turn: it fetches and executes its instruction; a group that cannot issue lets the turn pass. -/
def State.issue (s : State) (gk : Nat) : Host.Outcome State Fault Refusal :=
  let s1 := s.turnTo gk
  if s1.canIssue s1.cur then
    match s1.fetch with
    | (.error t, s2) => finish 0 (.trap t s2)
    | (.ok i, s2) => exec i s2
  else .next s1

/-- An event of the agenda; an encoded instruction is no event, and without power few things happen (22 R472). -/
def State.event (s : State) (i : Instr) : Host.Outcome State Fault Refusal :=
  if (encode i).isEmpty && s.awake i then exec i s else .next s

/-- One step of the module. -/
def step (s : State) : Host.Outcome State Fault Refusal :=
  let s1 := s.tick
  match s1.agenda with
  | .event i :: rest => State.event { s1 with agenda := rest } i
  | .issue gk :: rest =>
    if s1.phys.powered then State.issue { s1 with agenda := rest } gk else .next { s1 with agenda := rest }
  | [] => if s1.phys.powered then s1.issue s1.cur else .next s1

/-- `s` with the instruction whose bits are `w` stored where the next step fetches it; the bits above `nbits` are
zero up to the longest instruction. -/
def State.withFetchWord (s : State) (nbits w : Nat) : State :=
  let s1 := s.ensure
  s1.placeCode s1.g.r.pc (leBytes 8 (w % 2 ^ nbits))

end Sys2Proof.Machine
end

