-- ==== Sys2Proof/Safety.lean ====
section
/-! DEFINITION. What counts as a safe run, and the frames that statements speak of: what an instruction of a group
leaves alone. -/

namespace Sys2Proof.Safety

open Sys2Proof.Machine

/-- The state can take a step that neither faults nor is refused. -/
def Goes (s : State) : Prop := ∃ t, step s = .next t

/-- The state after `n` steps, as long as each answers a next state. -/
def after : Nat → State → Option State
  | 0, s => some s
  | n + 1, s =>
    match step s with
    | .next t => after n t
    | _ => none

/-- Every run from the state goes on for ever. -/
def Safe (s : State) : Prop := ∀ n, (after n s).isSome = true

/-! Frames. `srcs` are the sources that the instruction reads: a queue among them pops (spec/05 R115). -/

/-- Between `s` and `t` nothing but the groups, the scheduling positions of cores (15 R398, R403) and, where Q2 is read,
the teams' Q2 has changed: every memory, engine, table, context, launch and special register outside the groups is as
it was. -/
def Outside (srcs : List Src) (s t : State) : Prop :=
  { t with groups := [], teams := [], cores := [] } = { s with groups := [], teams := [], cores := [] } ∧
  (∀ c, { t.core c with turn := 0, quads := [] } = { s.core c with turn := 0, quads := [] }) ∧
  (∀ k, { t.team k with q2 := [] } = { s.team k with q2 := [] }) ∧
  (.q 2 ∉ srcs → ∀ k, t.team k = s.team k)

/-- No other group has changed. -/
def OthersKept (s t : State) : Prop := ∀ k, k ≠ s.cur → t.grp k = s.grp k

/-- What an instruction of the current group leaves alone in the group besides its registers: whether the slot is live,
the streams unless Q0 or Q1 is read, Q3 unless it is read, the fabric-error entries, the parked state, the queue
selection, and the count of unfinished SENDs. -/
def GroupKept (srcs : List Src) (s t : State) : Prop :=
  t.g.live = s.g.live ∧
  (.q 0 ∉ srcs → .q 1 ∉ srcs → t.g.s0 = s.g.s0 ∧ t.g.s1 = s.g.s1) ∧
  (.q 3 ∉ srcs → t.g.y.q3 = s.g.y.q3) ∧
  t.g.y.fab3 = s.g.y.fab3 ∧ t.g.y.fab7 = s.g.y.fab7 ∧
  t.g.y.parked = s.g.y.parked ∧ t.g.y.qsel = s.g.y.qsel ∧ t.g.y.sends = s.g.y.sends

/-- No long-latency write has begun or ended, and no access is counted or uncounted: the pending writes and the path
counters are as before. -/
def NothingSent (s t : State) : Prop := t.g.y.paths = s.g.y.paths ∧ t.g.y.pend = s.g.y.pend

/-- The frame of an instruction that acts on the registers of its group only. -/
def RegistersOnly (srcs : List Src) (s t : State) : Prop :=
  Outside srcs s t ∧ OthersKept s t ∧ GroupKept srcs s t ∧ NothingSent s t

/-- The system registers are as before, but for FPFLAGS and SRCNT, and for the half of the clock that a CLK read latches
(06 R138). -/
def SysKept (srcs : List Src) (s t : State) : Prop :=
  { t.g.sys with fpflags := 0, srcnt := 0, clkh := 0 } = { s.g.sys with fpflags := 0, srcnt := 0, clkh := 0 } ∧
  (.special 7 ∉ srcs → t.g.sys.clkh = s.g.sys.clkh)

end Sys2Proof.Safety
end

