-- ==== Sys2Proof/Certificates/Slice0/Obligations.lean ====
section
/-! DEFINITION. The statements for the provers. Claims holds the words they share. -/

open Sys2Proof Sys2Proof.Machine Sys2Proof.Safety

namespace Sys2Proof.Claims

/-- The word of the current group's code at `va` is fetched from `a`, leaving `v`: the page translates for fetch (06 R134),
and the line is read through the L2 (04 R82). -/
def Fetched (x : State) (va : W64) (a : XAddr) (v : State) : Prop :=
  ∃ y, x.xlate (.core x.cn) x.x.asid va 0 x.priv .fetch = (.ok a, y) ∧ v = y.l2range 0 a.pa 4 0 false

end Sys2Proof.Claims

/-- A step runs the decoded instruction. With power, an empty agenda, and a group that can issue at a pc that is a
multiple of 4, let the word at the pc translate for fetch and, where a second word follows, that word too; if the
words decode to an instruction i, the step is exec of i in the state after the clock has moved on, the issuing group
has been chosen and the words have been fetched. (spec/06 R134; spec/15 R397.) -/
def Obligations.StepRunsDecoded : Prop :=
  ∀ (s u v : State) (i : Instr) (w x : Nat) (a : XAddr),
    s.phys.powered = true → s.agenda = [] →
    u = s.tick.turnTo s.tick.cur → u.canIssue u.cur = true →
    u.g.r.pc.toNat % 4 = 0 →
    Claims.Fetched u u.g.r.pc a v →
    w = leNat (v.pread 0 a.pa 4) →
    (∀ v2 : State,
      (if twoWords w then
        ∃ b : XAddr, Claims.Fetched v (u.g.r.pc + 4) b v2 ∧
          x = leNat (v2.pread 0 b.pa 4)
      else x = 0 ∧ v2 = v) →
      decodeWords w x = .ok i → step s = exec i v2)

/-- Steps take turns and always go. With power, the step that finds an event of the table at the agenda's head runs
exec of it with the agenda moved on and the clock advanced; the step that finds a group's turn there is that group's
issue. Without power POWER_ON and a read of the FRU EEPROM act, while 48 V is there also MODULE_RESET (the release of
PERST#), POWER_LOSS, an I3C read or write of a register and ALARM_CLEAR, and nothing else does. The agenda is the
model's own (log 2), and so is the reading of what needs which supply (log 128). Every state takes a step to a next
state: whatever a group's word or data is, it retires, waits, traps, parks or exits, and no step of the table faults
or is refused. (spec/95; spec/15 R397; spec/22 R471; spec/22 R472; spec/16 R410; spec/06 R147.) -/
def Obligations.EveryStepGoes : Prop :=
  (let always := fun (i : Instr) => i = .powerOn ∨ ∃ off n, i = .apertureAccess off (.fru n)
  let under48 := fun (i : Instr) => i = .moduleReset ∨ i = .powerLoss ∨ (∃ b, i = .alarmClear b) ∨
    ∃ off a n, i = .apertureAccess off (.i3c a n)
  ∀ (s : State) (rest : List Turn),
    (∀ i : Instr, encode i = [] → s.phys.powered = true ∨ always i ∨ (s.phys.v48 = true ∧ under48 i) →
      s.agenda = .event i :: rest → step s = exec i { s.tick with agenda := rest }) ∧
    (∀ i : Instr, s.phys.powered = false → ¬ always i → ¬ (s.phys.v48 = true ∧ under48 i) → s.agenda = .event i :: rest →
      step s = .next { s.tick with agenda := rest }) ∧
    (∀ gk : Nat, s.phys.powered = true → s.agenda = .issue gk :: rest →
      step s = State.issue { s.tick with agenda := rest } gk) ∧
    s.clock < s.tick.clock) ∧
  (∀ s : State, Goes s)

/-- Words written out in the manual decode to their instructions. FFMA V3, V4, G2 is 0x460C0882; FCMP.LT G3, V4, V5 is
0x28430405; LDL.ACQ.TEAM V5, B2, V6 is 0x62140C45; GAND G41, G40, #1 is 0x894AA001 and 0x00000001; GAND G41, G40, =1
is 0x894AA182; BRA +60 bytes is 0xB000003C; BNZ.LIKELY G5 with displacement -17 words is 0xB42FFFBD; ERET is
0xCE00000E. (spec/06 R140; spec/06 R141; spec/06 R142; spec/07 R162; spec/14 R368.) -/
def Obligations.WordsDecode : Prop :=
  decodeWords 0x460C0882 0 = .ok (.ffma 3 ⟨.v 4, false⟩ ⟨.g 2, false⟩) ∧
  decodeWords 0x28430405 0 = .ok (.fcmp .lt 3 (.v 4) (.v 5)) ∧
  decodeWords 0x62140C45 0 = .ok (.ldl 5 ⟨.v 6, false⟩ 2 .team .acq) ∧
  decodeWords 0x894AA001 0x00000001 = .ok (.gand 41 ⟨.g 40, false⟩ (.imm 1)) ∧
  decodeWords 0x894AA182 0 = .ok (.gand 41 ⟨.g 40, false⟩ (.sel ⟨.const 1, false⟩)) ∧
  decodeWords 0xB000003C 0 = .ok (.bra 15 .none) ∧
  decodeWords 0xB42FFFBD 0 = .ok (.bnz 5 0x1FFEF .likely) ∧
  decodeWords 0xCE00000E 0 = .ok .eret

/-- Decoding undoes encoding. For every well-formed encoded instruction, with every operand at every value, its words
are below 2^32, there are two of them exactly where the first word says so, and they decode to the instruction; in
memory, followed by any bytes, its bytes decode to it and to its length. (spec/06 R134; spec/06 R140; spec/06 R141;
spec/06 R142; spec/06 R146.) -/
def Obligations.DecodeEncode : Prop :=
  ∀ i : Instr, i.wf = true → encode i ≠ [] →
    (∀ w ∈ encode i, w < 2 ^ 32) ∧
    (encode i).length = (if twoWords ((encode i).headD 0) then 2 else 1) ∧
    decodeWords ((encode i).headD 0) ((encode i).getD 1 0) = .ok i ∧
    ∀ rest : List Byte, decode (encodeBytes i ++ rest) = some (.ok (i, 4 * (encode i).length))

/-- Encoding undoes decoding. A word, with its extension word where one follows, that decodes to an instruction is
that instruction's only encoding, and the instruction is well-formed: no bit of a legal word is ignored. (spec/06
R134; spec/06 R140; spec/06 R141; spec/06 R142; spec/06 R147.) -/
def Obligations.EncodeDecode : Prop :=
  ∀ (w x : Nat) (i : Instr), w < 2 ^ 32 → x < 2 ^ 32 → (twoWords w = false → x = 0) → decodeWords w x = .ok i →
    i.wf = true ∧ encode i = if twoWords w then [w, x] else [w]

namespace Sys2Proof.Claims

/-- The group at issue takes its trap into the handler: it runs no handler, no debugger is attached (16 R411, R420), and it
has no wait behind it in which it took a queue entry that a trap would give back (06 R135). -/
def Enters (s : State) : Prop :=
  s.g.sys.hm = false ∧ (s.ctxG s.cur).dbg.getLsbD 0 = false ∧ s.g.y.undo = none

/-- Trap entry (16 R411) of the current group between `s` and `t`: cause, SUB, value and mask are saved, TEPC names the
code offset of `epc`, EXM (as it was, `exm`) goes to TEXM and becomes all ones, SS is cleared, HM set, and the pc goes to
TVEC. All else in the group's registers and everything outside the group keeps its value, but for what the sources
`srcs` pop. -/
def Entered (srcs : List Src) (s t : State) (cause sub : Nat) (val : W64) (mask exm : BitVec 16) (epc : W64) : Prop :=
  RegistersOnly srcs s t ∧
  { t.g.sys with clkh := 0 } =
    { s.g.sys with
      clkh := 0
      tcause := BitVec.ofNat 32 (sub * 256 + cause)
      tepc := (epc - s.l.cb).truncate 32
      taddr := val
      tmask := mask
      texm := exm
      ss := false
      hm := true } ∧
  (.special 7 ∉ srcs → t.g.sys.clkh = s.g.sys.clkh) ∧
  t.g.r = { s.g.r with exm := 0xFFFF, pc := (s.x.tvec.truncate 57 : BitVec 57).signExtend 64 } ∧
  t.g.y.status = .ready

/-- What the body of an instruction starts from: its sources and destinations let it run, `x` is the state with EXM as a
replay read may have adopted it (10 R260), and no single step is armed. -/
def Runs (s : State) (sels : List Sel) (dests : List DReg) (x : State) : Prop :=
  s.ready sels dests = .ok x ∧ s.g.y.stepArmed = false

end Sys2Proof.Claims

open Sys2Proof.Claims

/-- A word that cannot be fetched or decoded traps. A group whose pc is no multiple of 4, or whose page cannot be
fetched, takes the instruction-fetch fault (cause 3, TADDR the pc); one whose one-word instruction does not decode
takes the illegal-instruction trap (cause 1, TADDR 0). Both enter the handler with TEPC naming the word, everything
else in the group's registers kept. (spec/06 R134; spec/06 R147; spec/06 R148; spec/16 R410; spec/16 R411.) -/
def Obligations.FetchTraps : Prop :=
  ∀ (s u : State),
    s.phys.powered = true → s.agenda = [] → u = s.tick.turnTo s.tick.cur → u.canIssue u.cur = true → Enters u →
    (u.g.r.pc.toNat % 4 ≠ 0 →
      ∃ t, step s = .next t ∧ Entered [] u t 3 0 u.g.r.pc 0 u.g.r.exm u.g.r.pc) ∧
    (∀ (f : XFault) (v : State), u.g.r.pc.toNat % 4 = 0 →
      u.xlate (.core u.cn) u.x.asid u.g.r.pc 0 u.priv .fetch = (.error f, v) →
      ∃ t, step s = .next t ∧ Entered [] v t 3 0 u.g.r.pc 0 v.g.r.exm u.g.r.pc) ∧
    (∀ (a : XAddr) (v : State) (e : Illegal), u.g.r.pc.toNat % 4 = 0 →
      Fetched u u.g.r.pc a v →
      twoWords (leNat (v.pread 0 a.pa 4)) = false → decodeWords (leNat (v.pread 0 a.pa 4)) 0 = .error e →
      ∃ t, step s = .next t ∧ Entered [] v t 1 0 0 0 v.g.r.exm v.g.r.pc)

/-- BRKPT and TRAP enter the handler. BRKPT takes cause 0x1A with TEPC naming itself, also with a single step armed;
TRAP takes cause 0x19 with its operand in TADDR and TEPC naming the next word; EXM goes to TEXM and becomes all ones,
HM is set, SS cleared, the pc goes to TVEC, and no other register, byte of memory or unit changes. (R370.) -/
def Obligations.SoftwareTraps : Prop :=
  (∀ s : State, Enters s → ∃ t, exec .brkpt s = .next t ∧ Entered [] s t 0x1A 0 0 0 s.g.r.exm s.g.r.pc) ∧
  (∀ (s x : State) (a : Sel), Enters s → s.ready [a] [] = .ok x →
    ∃ t, exec (.trap a) s = .next t ∧
      Entered [a.src] s t 0x19 0 ((x.uniVal a.src).zeroExtend 64) 0 x.g.r.exm (s.g.r.pc + 4))

/-- A debugger's stop, and a trap in a handler. With CTXDBG.ATTACH = 1 and STOPTEAM = 0, BRKPT leaves the group in
debug stop with cause and TEPC saved, the stop is reported in the debug window, HM and the pc keep their values, and
no other group stops. That the cause 0x1A and TEPC are saved (log 129) and where in the window's list the stop stands
(log 49) are the model's reading. BRKPT in a handler (no debugger attached) does not enter the handler again: the
launch takes no further team, is marked failed with DETAIL 0x0100 plus the cause, every team of it that held or waited
for a place has exited, every other team is as it was (but that copy commands of its own that waited for a place may
take one that came free), and its node, if the launch was still going, ends with CLASS 3 and that DETAIL. (spec/16
R420; spec/16 R414.) -/
def Obligations.TrapsThatStop : Prop :=
  (∀ s : State, (s.ctxG s.cur).dbg.getLsbD 0 = true → (s.ctxG s.cur).dbg.getLsbD 1 = false → s.g.y.undo = none →
    ∃ t, exec .brkpt s = .next t ∧ t.g.y.status = .debug ∧ t.hif.dbg = s.hif.dbg ++ [s.cur] ∧
      t.g.sys.tcause = 0x1A ∧ t.g.sys.tepc = (s.g.r.pc - s.l.cb).truncate 32 ∧
      t.g.sys.hm = s.g.sys.hm ∧ t.g.r = s.g.r ∧ OthersKept s t) ∧
  (∀ s : State, s.g.sys.hm = true → (s.ctxG s.cur).dbg.getLsbD 0 = false → s.g.y.undo = none →
    ∃ t, exec .brkpt s = .next t ∧
      (t.launch s.t.launch).dead = true ∧ (t.launch s.t.launch).failed = some 0x11A ∧
      (∀ tk ∈ s.launchTeams s.t.launch, (t.team tk).st = .exited) ∧
      (∀ tk, tk ∉ s.launchTeams s.t.launch →
        { t.team tk with saveCopies := [] } = { s.team tk with saveCopies := [] }) ∧
      (s.l.live = true → s.l.dead = false →
        (s.l.node, 3, 0x11A, none) ∈ (t.ctx s.l.ctx).ended))

/-- ERET leaves the handler. In handler mode ERET restores EXM from TEXM, sends the pc to CB plus TEPC zero-extended,
clears HM, and arms a single step exactly when SS is set; nothing else in the registers or outside the group changes.
Where that pc is no multiple of 4 the fetch fault of R134 is raised at the ERET, so, with no debugger attached, the
launch ends with DETAIL 0x0103. Outside a handler ERET takes the illegal-instruction trap. (spec/14 R373; spec/16
R411; spec/16 R414; spec/16 R419; spec/06 R134.) -/
def Obligations.EretReturns : Prop :=
  (∀ s : State, s.g.sys.hm = true → (s.l.cb + s.g.sys.tepc.zeroExtend 64).toNat % 4 = 0 →
    ∃ t, exec .eret s = .next t ∧ RegistersOnly [] s t ∧
      t.g.r = { s.g.r with exm := s.g.sys.texm, pc := s.l.cb + s.g.sys.tepc.zeroExtend 64 } ∧
      t.g.sys = { s.g.sys with hm := false } ∧ t.g.y.stepArmed = s.g.sys.ss ∧ t.g.y.status = .ready) ∧
  (∀ s : State, s.g.sys.hm = true → (s.l.cb + s.g.sys.tepc.zeroExtend 64).toNat % 4 ≠ 0 →
    ∃ t, exec .eret s = .next t ∧ (t.launch s.t.launch).dead = true ∧ (t.launch s.t.launch).failed = some 0x103) ∧
  (∀ s : State, Enters s → ∃ t, exec .eret s = .next t ∧ Entered [] s t 1 0 0 0 s.g.r.exm s.g.r.pc)

namespace Sys2Proof.Claims

/-- The system registers by number with what SRD reads (05 R116; 16 R409), of the group at issue. -/
def sysRegs (x : State) : List (Nat × W32) :=
  let y := x.g.sys
  let c := x.x
  let lo := fun (v : W64) => (v.truncate 32 : W32)
  let hi := fun (v : W64) => ((v >>> 32).truncate 32 : W32)
  [(0x000, y.fpflags), (0x001, y.rmode), (0x002, y.srkey), (0x003, y.srcnt),
   (0x100, lo c.tvec), (0x101, hi c.tvec), (0x102, y.tcause), (0x103, y.tepc), (0x104, lo y.taddr), (0x105, hi y.taddr),
   (0x106, y.tmask.zeroExtend 32), (0x107, y.texm.zeroExtend 32),
   (0x10C, (if y.hm then 1 else 0) + (if y.ss then 2 else 0)),
   (0x110, BitVec.ofNat 32 ((if c.sup then 65536 else 0) + x.t.ctx % 65536)), (0x111, c.asid.zeroExtend 32),
   (0x112, lo c.vtbase), (0x113, hi c.vtbase), (0x114, lo c.tcbbase), (0x115, hi c.tcbbase), (0x116, lo c.ctbase),
   (0x117, hi c.ctbase), (0x118, lo c.qtbase), (0x119, hi c.qtbase), (0x11A, c.fjob.zeroExtend 32),
   (0x11B, c.dbg.zeroExtend 32), (0x120, y.accxfer), (0x121, y.accimg.truncate 32), (0x122, (y.accimg >>> 32).truncate 32)]

/-- What a write of `v` leaves in a system register that held `old` (05 R117 to R119; 16 R409, R411): reserved bits
read 0, read-only registers and HM keep their values, and RMODE takes 0 for the unassigned modes 5 to 7. -/
def sysStored (n : Nat) (old v : W32) : W32 :=
  if n = 0x000 then v &&& 0xF
  else if n = 0x001 then (if (v &&& 7).toNat < 5 then v &&& 7 else 0)
  else if n = 0x101 then v &&& 0x1FFFFFF
  else if n = 0x102 ∨ n = 0x106 ∨ n = 0x107 ∨ n = 0x11A then v &&& 0xFFFF
  else if n = 0x10C then (old &&& 1) ||| (v &&& 2)
  else if n = 0x110 ∨ n = 0x111 then old
  else if n = 0x11B then v &&& 3
  else if n = 0x122 then v &&& 0xFFFFF
  else v

/-- A register number that an SRD or SWR may name: assigned, and unprivileged or the group is privileged (05 R116;
14 R372; 16 R408). -/
def sysMay (x : State) (n : Nat) : Prop :=
  n ∈ (sysRegs x).map (fun p => p.1) ∧ (n < 0x100 ∨ x.g.sys.hm = true ∨ x.x.sup = true)

/-- A uniform register number: in handler mode G60 to G63 stand for HG0 to HG3, numbered 64 to 67 here (16 R408). -/
def uniReg (s : State) (d : BitVec 6) : Nat := if s.g.sys.hm = true ∧ 60 ≤ d.toNat then d.toNat + 4 else d.toNat

/-- A uniform instruction of `len` bytes that writes `v` to its destination `d` and nothing else: every other uniform
register, every V, B and BT register, EXM and SPP keep their values, the pc moves on. -/
def UniDone (srcs : List Src) (s x t : State) (len : Nat) (d : BitVec 6) (v : W32) : Prop :=
  RegistersOnly srcs s t ∧ SysKept srcs s t ∧ t.g.sys.fpflags = s.g.sys.fpflags ∧ t.g.sys.srcnt = s.g.sys.srcnt ∧
  (.q 0 ∉ srcs → .q 1 ∉ srcs → x.g.r.exm = s.g.r.exm) ∧
  (∀ n, t.g.r.getG n = if n = uniReg s d then v else s.g.r.getG n) ∧
  { t.g.r with g := [], hg := [] } = { s.g.r with g := [], hg := [], exm := x.g.r.exm, pc := s.g.r.pc + BitVec.ofNat 64 len }

end Sys2Proof.Claims

/-- SRD reads and SWR writes the register that its operand names. SRD of an assigned number writes that register's
value to its destination and nothing else; of an unassigned number it takes the illegal-instruction trap, and of a
privileged number from unprivileged code the privileged-instruction trap, with no effect. SWR of an assigned,
permitted number other than ACCXFER leaves in that register what its field map lets a write store, keeps every other
system register of the group and its context, every other context, the general registers, memory and all else; an
unassigned number takes the illegal-instruction trap, a privileged one from unprivileged code the privileged-
instruction trap. (spec/05 R116; spec/14 R372; spec/16 R408; spec/16 R409; spec/05 R117; spec/05 R118; spec/05 R119;
spec/16 R411.) -/
def Obligations.SystemRegisters : Prop :=
  (∀ (s x : State) (d : BitVec 6) (a : Sel), Runs s [a] [.g (uniReg s d)] x →
    (∀ n v, n = (x.uniVal a.src).toNat → (n, v) ∈ sysRegs x → sysMay x n →
      ∃ t, exec (.srd d a) s = .next t ∧ UniDone [a.src] s x t 4 d v) ∧
    ((x.uniVal a.src).toNat ∉ (sysRegs x).map (fun p => p.1) → Enters s →
      ∃ t, exec (.srd d a) s = .next t ∧ Entered [] s t 1 0 0 0 s.g.r.exm s.g.r.pc) ∧
    ((x.uniVal a.src).toNat ∈ (sysRegs x).map (fun p => p.1) → ¬ sysMay x (x.uniVal a.src).toNat → Enters s →
      ∃ t, exec (.srd d a) s = .next t ∧ Entered [] s t 2 0 0 0 s.g.r.exm s.g.r.pc)) ∧
  (∀ (s x : State) (n : BitVec 6) (a : Sel), Runs s [a, ⟨.g n, false⟩] [] x →
    (∀ k, k = (x.g.r.getG (uniReg s n)).toNat → sysMay x k → k ≠ 0x120 →
      ∃ t, exec (.swr n a) s = .next t ∧
        (∀ m v, (m, v) ∈ sysRegs s →
          (m, if m = k then sysStored m v (x.uniVal a.src) else v) ∈ sysRegs t) ∧
        t.g.r = { s.g.r with exm := x.g.r.exm, pc := s.g.r.pc + 4 } ∧
        (∀ c, c ≠ s.t.ctx → t.ctx c = s.ctx c) ∧
        RegistersOnly [a.src] s { t with ctxs := s.ctxs }) ∧
    ((x.g.r.getG (uniReg s n)).toNat ∉ (sysRegs x).map (fun p => p.1) → Enters s →
      ∃ t, exec (.swr n a) s = .next t ∧ Entered [] s t 1 0 0 0 s.g.r.exm s.g.r.pc) ∧
    ((x.g.r.getG (uniReg s n)).toNat ∈ (sysRegs x).map (fun p => p.1) →
      ¬ sysMay x (x.g.r.getG (uniReg s n)).toNat → Enters s →
      ∃ t, exec (.swr n a) s = .next t ∧ Entered [] s t 2 0 0 0 s.g.r.exm s.g.r.pc))

namespace Sys2Proof.Claims

/-- A lane instruction of `len` bytes that writes `val` to the active lanes of `d` and nothing else but the given FPFLAGS
and SRCNT: every other lane and register keeps its value, the pc moves on. -/
def LaneDone (srcs : List Src) (s x t : State) (len : Nat) (d : BitVec 7) (val : Nat → W32) (fl cnt : W32) : Prop :=
  RegistersOnly srcs s t ∧ SysKept srcs s t ∧ t.g.sys.fpflags = fl ∧ t.g.sys.srcnt = cnt ∧
  (.q 0 ∉ srcs → .q 1 ∉ srcs → x.g.r.exm = s.g.r.exm) ∧
  (∀ r k, k < 16 → t.g.r.getV r k = if r = d.toNat ∧ x.g.r.exm.getLsbD k = true then val k else s.g.r.getV r k) ∧
  { t.g.r with v := [] } = { s.g.r with v := [], exm := x.g.r.exm, pc := s.g.r.pc + BitVec.ofNat 64 len }

/-- The integer lane instructions of 4 bytes (08 R187, R189 to R192, R194): destination, sources, and the value of a
thread, from the sources' lanes and the destination's old lane. -/
def intLane (i : Instr) : Option (BitVec 7 × List Sel × (State → Nat → W32)) :=
  let two := fun (d : BitVec 7) (a b : Sel) (f : W32 → W32 → W32) =>
    some (d, [a, b], fun (x : State) t => f (x.laneVal a.src t) (x.laneVal b.src t))
  let one := fun (d : BitVec 7) (a : Sel) (f : W32 → W32) => some (d, [a], fun (x : State) t => f (x.laneVal a.src t))
  let bits := fun (f : Nat → Bool) => BitVec.ofFnLE (fun k : Fin 32 => f k.val)
  match i with
  | .iadd d a b => two d a b (fun x y => x + y)
  | .isub d a b => two d a b (fun x y => x - y)
  | .imul d a b => two d a b (fun x y => BitVec.ofNat 32 (x.toNat * y.toNat))
  | .imulh d a b => two d a b (fun x y => BitVec.ofInt 32 (x.toInt * y.toInt / 2 ^ 32))
  | .imulhu d a b => two d a b (fun x y => BitVec.ofNat 32 (x.toNat * y.toNat / 2 ^ 32))
  | .imad d a b => some (d, [a, b, ⟨.v d, false⟩], fun x t => x.laneVal a.src t * x.laneVal b.src t + x.g.r.getV d.toNat t)
  | .imin d a b => two d a b (fun x y => if x.toInt ≤ y.toInt then x else y)
  | .imax d a b => two d a b (fun x y => if x.toInt ≤ y.toInt then y else x)
  | .umin d a b => two d a b (fun x y => if x.toNat ≤ y.toNat then x else y)
  | .umax d a b => two d a b (fun x y => if x.toNat ≤ y.toNat then y else x)
  | .and d a b => two d a b (fun x y => bits (fun k => x.getLsbD k && y.getLsbD k))
  | .or d a b => two d a b (fun x y => bits (fun k => x.getLsbD k || y.getLsbD k))
  | .xor d a b => two d a b (fun x y => bits (fun k => x.getLsbD k != y.getLsbD k))
  | .andn d a b => two d a b (fun x y => bits (fun k => x.getLsbD k && !y.getLsbD k))
  | .shl d a b => two d a b (fun x y => BitVec.ofNat 32 (x.toNat * 2 ^ (y.toNat % 32)))
  | .shr d a b => two d a b (fun x y => BitVec.ofNat 32 (x.toNat / 2 ^ (y.toNat % 32)))
  | .sar d a b => two d a b (fun x y => BitVec.ofInt 32 (x.toInt / 2 ^ (y.toNat % 32)))
  | .rot d a b => two d a b (fun x y => bits (fun k => x.getLsbD ((k + 32 - y.toNat % 32) % 32)))
  | .popc d a => one d a (fun x => BitVec.ofNat 32 (((List.range 32).filter (fun k => x.getLsbD k)).length))
  | .clz d a => one d a (fun x =>
      BitVec.ofNat 32 (((List.range 32).find? (fun k => x.getLsbD (31 - k))).getD 32))
  | .ctz d a => one d a (fun x => BitVec.ofNat 32 (((List.range 32).find? (fun k => x.getLsbD k)).getD 32))
  | .brev d a => one d a (fun x => bits (fun k => x.getLsbD (31 - k)))
  | .bswap d a => one d a (fun x => bits (fun k => x.getLsbD (8 * (3 - k / 8) + k % 8)))
  | .sext8 d a => one d a (fun x => bits (fun k => x.getLsbD (min k 7)))
  | .sext16 d a => one d a (fun x => bits (fun k => x.getLsbD (min k 15)))
  | .zext8 d a => one d a (fun x => BitVec.ofNat 32 (x.toNat % 2 ^ 8))
  | .zext16 d a => one d a (fun x => BitVec.ofNat 32 (x.toNat % 2 ^ 16))
  | .not d a => one d a (fun x => bits (fun k => !x.getLsbD k))
  | .neg d a => one d a (fun x => BitVec.ofInt 32 (0 - x.toInt))
  | .abs d a => one d a (fun x => BitVec.ofNat 32 x.toInt.natAbs)
  | .bfe d a b => two d a b (fun x y =>
      let pos := y.toNat % 32
      let n := min (y.toNat / 256 % 64) (32 - pos)
      bits (fun k => if k < n then x.getLsbD (pos + k) else decide (n ≠ 0) && y.getLsbD 16 && x.getLsbD (pos + n - 1)))
  | .bfi d a b => some (d, [a, b, ⟨.v d, false⟩], fun s t =>
      let y := s.laneVal b.src t
      let pos := y.toNat % 32
      let n := min (y.toNat / 256 % 64) (32 - pos)
      bits (fun k => if pos ≤ k ∧ k < pos + n then (s.laneVal a.src t).getLsbD (k - pos)
        else (s.g.r.getV d.toNat t).getLsbD k))
  | .clmul d a b => two d a b (fun x y => bits (fun k =>
      ((List.range (k + 1)).filter (fun j => x.getLsbD j && y.getLsbD (k - j))).length % 2 == 1))
  | .clmulh d a b => two d a b (fun x y => bits (fun k =>
      ((List.range (k + 33)).filter (fun j => x.getLsbD j && y.getLsbD (k + 32 - j))).length % 2 == 1))
  | .mov d a => one d a (fun x => x)
  | .shfl d a b => some (d, [a, b], fun x t => x.laneVal a.src ((x.laneVal b.src t).toNat % 16))
  | .shflx d a b => some (d, [a, b], fun x t => x.laneVal a.src (t ^^^ ((x.laneVal b.src t).toNat % 16)))
  | .shflu d a b => some (d, [a, b], fun x t =>
      let n := (x.laneVal b.src t).toNat % 32
      x.laneVal a.src (if n ≤ t then t - n else t))
  | .shfld d a b => some (d, [a, b], fun x t =>
      let n := (x.laneVal b.src t).toNat % 32
      x.laneVal a.src (if t + n ≤ 15 then t + n else t))
  | _ => none

end Sys2Proof.Claims

/-- Integer lane instructions write their value to the active lanes and nothing else. Each of IADD to ROT, POPC to
ABS, BFE, BFI, CLMUL, CLMULH, MOV and the four shuffles, whenever its sources and destination let it run, retires with
the value the manual's tables give in every active lane of its destination; inactive lanes, all other registers,
FPFLAGS, SRCNT, every other group, memory and all else keep their values, and the pc moves on by 4. (spec/08 R183;
spec/08 R187; spec/08 R189; spec/08 R190; spec/08 R191; spec/08 R192; spec/08 R194; spec/08 R195; spec/05 R109;
spec/05 R115.) -/
def Obligations.LaneInteger : Prop :=
  ∀ (i : Instr) (d : BitVec 7) (sels : List Sel) (val : State → Nat → W32), intLane i = some (d, sels, val) →
    ∀ s x : State, Runs s sels [.v d.toNat] x →
      ∃ t, exec i s = .next t ∧
        LaneDone (sels.map (fun a => a.src)) s x t 4 d (val x) s.g.sys.fpflags s.g.sys.srcnt

/-- Lane selects and comparisons. SEL writes to each active lane A where the condition holds and B where it does not,
INV inverting it; a V condition holds where its lane is not zero, any other source gives thread t its bit t; nothing
else changes and the pc moves on by 8. ICMP and UCMP with an integer condition write to G0 to G31 the mask whose bit t
is set exactly for active threads t with the condition on A[t] and B[t], signed or unsigned, bits 31:16 zero; FCMP
writes the mask for the FP condition and sets no flag; nothing else changes. (spec/08 R193; spec/05 R109; spec/08
R188; spec/06 R143.) -/
def Obligations.LaneSelectCompare : Prop :=
  (∀ (s x : State) (d : BitVec 7) (a b c : Sel) (inv : Bool), Runs s [a, b, c] [.v d.toNat] x →
    ∃ t, exec (.sel d a b c inv) s = .next t ∧
      LaneDone [a.src, b.src, c.src] s x t 8 d
        (fun k =>
          let holds := match c.src with
            | .v r => decide (x.g.r.getV r.toNat k ≠ 0)
            | _ => (x.laneVal c.src k).getLsbD k
          if holds != inv then x.laneVal a.src k else x.laneVal b.src k)
        s.g.sys.fpflags s.g.sys.srcnt) ∧
  (∀ (s x : State) (g : BitVec 5) (a b : Src), Runs s [⟨a, false⟩, ⟨b, false⟩] [.g g.toNat] x →
    (∀ (c : Cond) (p : Int → Int → Bool), (c, p) ∈ [(Cond.eq, fun x y => x == y), (Cond.ne, fun x y => x != y),
        (Cond.lt, fun x y => decide (x < y)), (Cond.ge, fun x y => decide (y ≤ x)), (Cond.le, fun x y => decide (x ≤ y)),
        (Cond.gt, fun x y => decide (y < x))] →
      (∃ t, exec (.icmp c g a b) s = .next t ∧ UniDone [a, b] s x t 4 (g.setWidth 6)
        (BitVec.ofFnLE (fun k : Fin 32 => decide (k.val < 16) && x.g.r.exm.getLsbD k.val &&
          p (x.laneVal a k.val).toInt (x.laneVal b k.val).toInt))) ∧
      (∃ t, exec (.ucmp c g a b) s = .next t ∧ UniDone [a, b] s x t 4 (g.setWidth 6)
        (BitVec.ofFnLE (fun k : Fin 32 => decide (k.val < 16) && x.g.r.exm.getLsbD k.val &&
          p (x.laneVal a k.val).toNat (x.laneVal b k.val).toNat)))) ∧
    (∀ c : Cond, ∃ t, exec (.fcmp c g a b) s = .next t ∧ UniDone [a, b] s x t 4 (g.setWidth 6)
        (BitVec.ofFnLE (fun k : Fin 32 => decide (k.val < 16) && x.g.r.exm.getLsbD k.val &&
          fcond c (x.laneVal a k.val).toNat (x.laneVal b k.val).toNat))))

namespace Sys2Proof.Claims

/-- The flags that the active threads of `x` raise together (05 R117). -/
def raised (x : State) (f : Nat → FFlags) : W32 :=
  BitVec.ofFnLE (fun k : Fin 32 => decide (k.val < 4) &&
    (List.range 16).any (fun t => x.g.r.exm.getLsbD t && (f t).getLsbD k.val))

/-- The floating-point lane instructions of 4 bytes with one V destination (08 R199 to R204): destination, sources, the
mode they round by if any, and a thread's result under that mode and its random bits, with the flags it raises. The
arithmetic is that of Flags.lean and Formats.lean. -/
def fltLane (i : Instr) : Option (BitVec 7 × List Sel × (State → Option RMode) × (State → RMode → Nat → Nat → FRes)) :=
  let mode := fun (x : State) => some (rmOf x.g.sys.rmode.toNat)
  let two := fun (d : BitVec 7) (a b : Sel) (f : RMode → Nat → Nat → Nat → FRes) =>
    some (d, [a, b], mode, fun (x : State) m w t =>
      f m (w % 65536) (x.laneVal a.src t).toNat (x.laneVal b.src t).toNat)
  let exact2 := fun (d : BitVec 7) (a b : Sel) (f : Nat → Nat → Nat) =>
    some (d, [a, b], fun (_ : State) => (none : Option RMode), fun (x : State) (_ : RMode) (_ t : Nat) =>
      (⟨f (x.laneVal a.src t).toNat (x.laneVal b.src t).toNat, 0⟩ : FRes))
  let one := fun (d : BitVec 7) (a : Sel) (f : W32 → FRes) =>
    some (d, [a], fun (_ : State) => (none : Option RMode), fun (x : State) (_ : RMode) (_ t : Nat) => f (x.laneVal a.src t))
  let pair := fun (d : BitVec 7) (a b : Sel) (more : List Sel) (f : RMode → Nat → Nat → Nat → Nat → FRes) =>
    some (d, [a, b] ++ more, mode, fun (x : State) m w t =>
      let av := (x.laneVal a.src t).toNat
      let bv := (x.laneVal b.src t).toNat
      let dv := (x.g.r.getV d.toNat t).toNat
      let lo := f m (w % 65536) (av % 65536) (bv % 65536) (dv % 65536)
      let hi := f m (w / 65536 % 65536) (av / 65536) (bv / 65536) (dv / 65536)
      (⟨lo.bits + 65536 * hi.bits, lo.fl ||| hi.fl⟩ : FRes))
  match i with
  | .fadd d a b => two d a b (fAdd fp32)
  | .fsub d a b => two d a b (fSub fp32)
  | .fmul d a b => two d a b (fMul fp32)
  | .ffma d a b => some (d, [a, b, ⟨.v d, false⟩], mode, fun x m w t =>
      fFma fp32 m (w % 65536) (x.laneVal a.src t).toNat (x.laneVal b.src t).toNat (x.g.r.getV d.toNat t).toNat)
  | .fmin d a b => exact2 d a b (fMin fp32)
  | .fmax d a b => exact2 d a b (fMax fp32)
  | .fabs d a => one d a (fun w => ⟨w.toNat % 2 ^ 31, 0⟩)
  | .fneg d a => one d a (fun w => ⟨(w.toNat + 2 ^ 31) % 2 ^ 32, 0⟩)
  | .frcp d a => one d a fRcp
  | .frsq d a => one d a fRsq
  | .fsqrt d a => some (d, [a], mode, fun x m w t => fSqrt m (w % 65536) (x.laneVal a.src t).toNat)
  | .fexp2 d a => one d a fExp2
  | .flog2 d a => one d a fLog2
  | .fsin d a => one d a (fTrig 7 0)
  | .fcos d a => one d a (fTrig 8 1)
  | .ftanh d a => one d a fTanh
  | .ffrac d a => one d a (fun w => fFrac w.toNat)
  | .frnde d a => one d a (fun w => fInt .rne w.toNat)
  | .ftrunc d a => one d a (fun w => fInt .rtz w.toNat)
  | .ffloor d a => one d a (fun w => fInt .rdn w.toNat)
  | .fceil d a => one d a (fun w => fInt .rup w.toNat)
  | .b2add d a b => pair d a b [] (fun m w x y _ => fAdd bf16 m w x y)
  | .b2mul d a b => pair d a b [] (fun m w x y _ => fMul bf16 m w x y)
  | .b2fma d a b => pair d a b [⟨.v d, false⟩] (fun m w x y z => fFma bf16 m w x y z)
  | .b2max d a b => exact2 d a b (fun x y => fMax bf16 (x % 65536) (y % 65536) + 65536 * fMax bf16 (x / 65536) (y / 65536))
  | .b2min d a b => exact2 d a b (fun x y => fMin bf16 (x % 65536) (y % 65536) + 65536 * fMin bf16 (x / 65536) (y / 65536))
  | .cvt op m d a => some (d, [a], fun x =>
      if cvtExact op then none else if m = .cur then some (rmOf x.g.sys.rmode.toNat) else some m,
      fun x md w t => cvt op md (w % 65536) (x.laneVal a.src t))
  | _ => none

end Sys2Proof.Claims

/-- Lane floating-point instructions and their special cases. FADD to FMAX, the FUN members, the B2 family and CVT
write each active thread's result to its lane of the destination, OR into FPFLAGS the flags of the active threads and
no other, advance SRCNT by 1 exactly when the mode they round by is SR, whatever EXM, with the lane-row random bits of
R132 drawn from SRCNT before the instruction, and change nothing else. In an active lane FADD gives 0x7FC00000 for any
NaN operand; for infinities of opposite sign it gives 0x7FC00000 and sets NV; for opposite finite operands it gives
+0, and -0 under RDN. FMUL gives 0x7FC00000 for any NaN operand, and for zero times infinity 0x7FC00000 with NV.
(spec/08 R186; spec/08 R199; spec/08 R200; spec/08 R203; spec/08 R204; spec/05 R117; spec/05 R119; spec/05 R132;
spec/05 R133; spec/05 R130.) -/
def Obligations.LaneFloatingPoint : Prop :=
  (∀ (i : Instr) (d : BitVec 7) (sels : List Sel) (mode : State → Option RMode) (f : State → RMode → Nat → Nat → FRes),
    fltLane i = some (d, sels, mode, f) →
    ∀ s x : State, Runs s sels [.v d.toNat] x →
      let res := fun t => f x ((mode x).getD .rne)
        (philox (BitVec.ofNat 32 (s.cur % 64 * 16 + t)) s.g.sys.srcnt 0 (BitVec.ofNat 32 s.t.index) s.l.seed s.g.sys.srkey) t
      ∃ t, exec i s = .next t ∧
        LaneDone (sels.map (fun a => a.src)) s x t 4 d (fun k => BitVec.ofNat 32 (res k).bits)
          (s.g.sys.fpflags ||| raised x (fun k => (res k).fl))
          (if mode x = some .sr then s.g.sys.srcnt + 1 else s.g.sys.srcnt)) ∧
  (∀ (s x : State) (d : BitVec 7) (a b : Sel) (k : Nat), Runs s [a, b] [.v d.toNat] x → k < 16 →
    x.g.r.exm.getLsbD k = true →
    let av := x.laneVal a.src k
    let bv := x.laneVal b.src k
    let nan := fun (w : W32) => (w &&& 0x7FFFFFFF).toNat > 0x7F800000
    let inf := fun (w : W32) => (w &&& 0x7FFFFFFF) = 0x7F800000
    let zero := fun (w : W32) => (w &&& 0x7FFFFFFF) = 0
    ∃ t u, exec (.fadd d a b) s = .next t ∧ exec (.fmul d a b) s = .next u ∧
      (nan av ∨ nan bv → t.g.r.getV d.toNat k = 0x7FC00000 ∧ u.g.r.getV d.toNat k = 0x7FC00000) ∧
      (inf av → bv = av ^^^ 0x80000000 → t.g.r.getV d.toNat k = 0x7FC00000 ∧ t.g.sys.fpflags.getLsbD 0 = true) ∧
      (¬ nan av → ¬ inf av → bv = av ^^^ 0x80000000 →
        t.g.r.getV d.toNat k = if s.g.sys.rmode = 2 then 0x80000000 else 0) ∧
      ((zero av ∧ inf bv) ∨ (inf av ∧ zero bv) → u.g.r.getV d.toNat k = 0x7FC00000 ∧ u.g.sys.fpflags.getLsbD 0 = true))

/-- QSCL, QCVT, QEXP and RND write their destinations and nothing else. With a full pair and descriptor, QSCL writes
scale and format code of the 32-element block, QCVT a thread's two elements narrowed in the descriptor's format, QEXP
a thread's two elements widened to FP32 into D and D + 1; an unassigned format gives 0 (QEXP 0x7FC00000) with NV; QCVT
and QEXP advance SRCNT under SR. RND writes the Philox word of its two sources. Nothing else changes. (spec/08 R205;
spec/08 R206; spec/08 R207; spec/08 R208; spec/08 R209; spec/05 R117; spec/05 R119.) -/
def Obligations.BlockScales : Prop :=
  (∀ (s x : State) (d a : BitVec 7) (tb : Bool) (b : Sel),
    s.g.r.vEmpty.getLsbD a.toNat = false → s.g.r.vEmpty.getLsbD (a.toNat + 1) = false →
    Runs s [⟨.v a, tb⟩, ⟨.v (a + 1), tb⟩, b] [.v d.toNat] x →
    let fi := fun k => (x.laneVal b.src k).toNat % 16
    let q := fun k => match fiFmt (fi k) with
      | none => (⟨0, fNV⟩ : FRes)
      | some fmt => ⟨blockScale fmt (x.block a) * 65536 + fi k, 0⟩
    let c := fun k => match fiFmt (fi k) with
      | none => (⟨0, fNV⟩ : FRes)
      | some fmt =>
        let e := fun (h : Bool) => narrowIn fmt (descScale fmt (x.laneVal b.src k)) x.rmode (rnd16 h (x.laneRnd k))
          (unpack fp32 (x.g.r.getV (a.toNat + h.toNat) k).toNat)
        ⟨(e false).bits + 2 ^ (blockElem fmt).width * (e true).bits, (e false).fl ||| (e true).fl⟩
    (∃ t, exec (.qscl d a tb b) s = .next t ∧ LaneDone [b.src] s x t 4 d (fun k => BitVec.ofNat 32 (q k).bits)
      (s.g.sys.fpflags ||| raised x (fun k => (q k).fl)) s.g.sys.srcnt) ∧
    (∃ t, exec (.qcvt d a tb b) s = .next t ∧ LaneDone [b.src] s x t 4 d (fun k => BitVec.ofNat 32 (c k).bits)
      (s.g.sys.fpflags ||| raised x (fun k => (c k).fl))
      (if s.g.sys.rmode = 4 then s.g.sys.srcnt + 1 else s.g.sys.srcnt))) ∧
  (∀ (s x : State) (d : BitVec 7) (a b : Sel), Runs s [a, b] [.v d.toNat, .v (d + 1).toNat] x → d.toNat < 127 →
    let e := fun (h : Bool) (k : Nat) => match fiFmt ((x.laneVal b.src k).toNat % 16) with
      | none => (⟨0x7FC00000, fNV⟩ : FRes)
      | some fmt => narrow fp32 x.rmode (rnd16 h (x.laneRnd k)) (widenIn fmt (descScale fmt (x.laneVal b.src k))
          (fieldOf (x.laneVal a.src k).toNat ((blockElem fmt).width * h.toNat) (blockElem fmt).width))
    ∃ t, exec (.qexp d a b) s = .next t ∧ RegistersOnly [a.src, b.src] s t ∧ SysKept [a.src, b.src] s t ∧
      t.g.sys.fpflags = s.g.sys.fpflags ||| raised x (fun k => (e false k).fl ||| (e true k).fl) ∧
      t.g.sys.srcnt = (if s.g.sys.rmode = 4 then s.g.sys.srcnt + 1 else s.g.sys.srcnt) ∧
      (∀ r k, k < 16 → t.g.r.getV r k =
        if r = d.toNat ∧ x.g.r.exm.getLsbD k = true then BitVec.ofNat 32 (e false k).bits
        else if r = d.toNat + 1 ∧ x.g.r.exm.getLsbD k = true then BitVec.ofNat 32 (e true k).bits
        else s.g.r.getV r k) ∧
      { t.g.r with v := [] } = { s.g.r with v := [], exm := x.g.r.exm, pc := s.g.r.pc + 4 }) ∧
  (∀ (s x : State) (d : BitVec 7) (a b : Sel), Runs s [a, b] [.v d.toNat] x →
    ∃ t, exec (.rnd d a b) s = .next t ∧
      LaneDone [a.src, b.src] s x t 4 d
        (fun k => BitVec.ofNat 32 (philox (x.laneVal a.src k) (x.laneVal b.src k) 5 (BitVec.ofNat 32 s.t.index) s.l.seed
          s.g.sys.srkey)) s.g.sys.fpflags s.g.sys.srcnt)

namespace Sys2Proof.Claims

/-- The XRED members (08 R197): mode, destination, source and reduction: over the lanes present, in thread order. -/
def reduction (i : Instr) : Option (XMode × BitVec 7 × Sel × (List W32 → FRes)) :=
  let fold := fun (m : XMode) (d : BitVec 7) (a : Sel) (id : W32) (f : W32 → W32 → W32) =>
    some (m, d, a, fun (l : List W32) => (⟨(l.foldl f id).toNat, 0⟩ : FRes))
  let flt := fun (f : Nat → Nat → Nat) (x y : W32) => BitVec.ofNat 32 (f x.toNat y.toNat)
  match i with
  | .xredAdd m d a => fold m d a 0 (fun x y => x + y)
  | .xredMin m d a => fold m d a 0x7FFFFFFF (fun x y => if x.toInt ≤ y.toInt then x else y)
  | .xredMax m d a => fold m d a 0x80000000 (fun x y => if x.toInt ≤ y.toInt then y else x)
  | .xredUmin m d a => fold m d a 0xFFFFFFFF (fun x y => if x.toNat ≤ y.toNat then x else y)
  | .xredUmax m d a => fold m d a 0 (fun x y => if x.toNat ≤ y.toNat then y else x)
  | .xredAnd m d a => fold m d a 0xFFFFFFFF (fun x y => x &&& y)
  | .xredOr m d a => fold m d a 0 (fun x y => x ||| y)
  | .xredXor m d a => fold m d a 0 (fun x y => x ^^^ y)
  | .xredFmin m d a => fold m d a 0x7F800000 (flt (fMin fp32))
  | .xredFmax m d a => fold m d a 0xFF800000 (flt (fMax fp32))
  | _ => none

/-- An instruction that begins one long-latency write: the registers of `dests` turn empty, the write joins the group's
pending writes, path `path` counts it if there is one, and no register value, no memory and nothing else changes but the
pc and the given FPFLAGS. -/
def Producing (srcs : List Src) (s x t : State) (len : Nat) (dests : List Dest) (path : Option Nat) (fl : W32) : Prop :=
  Outside srcs s t ∧ OthersKept s t ∧ GroupKept srcs s t ∧ SysKept srcs s t ∧
  t.g.sys.fpflags = fl ∧ t.g.sys.srcnt = s.g.sys.srcnt ∧
  (.q 0 ∉ srcs → .q 1 ∉ srcs → x.g.r.exm = s.g.r.exm) ∧
  t.g.y.pend = s.g.y.pend ++ [⟨dests, path, none⟩] ∧
  (∀ p, t.g.y.path p = if path = some p then s.g.y.path p + 1 else s.g.y.path p) ∧
  t.g.r = { dests.foldl Regs.markDest s.g.r with exm := x.g.r.exm, pc := s.g.r.pc + BitVec.ofNat 64 len }

end Sys2Proof.Claims

/-- XRED begins the write of its reduction. For ADD to XOR, FMIN and FMAX, XRED marks its destination empty and begins
one write to it: in mode TOTAL-G the reduction of all active threads' lanes to Gd, even with EXM = 0; in the V modes,
for the active threads, the reduction of all active lanes, of the forerunners', or of the forerunners' and the
thread's own; over no lane the member's identity. XRED.FADD does the same with the fixed RNE tree and ORs the tree's
flags into FPFLAGS. No register's value changes yet and no other register turns empty. (spec/08 R196; spec/08 R197;
spec/08 R198; spec/05 R111.) -/
def Obligations.Reductions : Prop :=
  (∀ (i : Instr) (m : XMode) (d : BitVec 7) (a : Sel) (f : List W32 → FRes), reduction i = some (m, d, a, f) →
    ∀ s x : State,
      let lanes := fun (x : State) (p : Nat → Bool) =>
        ((List.range 16).filter (fun u => x.g.r.exm.getLsbD u && p u)).map (x.laneVal a.src)
      let v := fun (x : State) (p : Nat → Bool) => BitVec.ofNat 32 (f (lanes x p)).bits
      (m = .totalG → Runs s [a] [.g (uniReg s (d.setWidth 6))] x → d.toNat < 64 →
        ∃ t, exec i s = .next t ∧
          Producing [a.src] s x t 4 [.g (uniReg s (d.setWidth 6)) (v x (fun _ => true))] none s.g.sys.fpflags) ∧
      (∀ p : Nat → Nat → Bool, (m, p) ∈ [(XMode.totalV, fun _ _ => true), (XMode.forerunner, fun t u => decide (u < t)),
          (XMode.inclusive, fun t u => decide (u ≤ t))] → Runs s [a] [.v d.toNat] x →
        ∃ t, exec i s = .next t ∧
          Producing [a.src] s x t 4 [.v d.toNat x.g.r.exm ((List.range 16).map (fun t => v x (p t)))] none
            s.g.sys.fpflags)) ∧
  (∀ (s x : State) (d : BitVec 7) (a : Sel),
    let tree := fun (p : Nat → Bool) =>
      faddTree ((List.range 16).map (fun u => if x.g.r.exm.getLsbD u && p u then some (x.laneVal a.src u) else none))
    (Runs s [a] [.g (uniReg s (d.setWidth 6))] x → d.toNat < 64 →
      ∃ t, exec (.xredFadd .totalG d a) s = .next t ∧
        Producing [a.src] s x t 4 [.g (uniReg s (d.setWidth 6)) (BitVec.ofNat 32 (tree (fun _ => true)).bits)] none
          (s.g.sys.fpflags ||| ((tree (fun _ => true)).fl).setWidth 32)) ∧
    (∀ (m : XMode) (p : Nat → Nat → Bool), (m, p) ∈ [(XMode.totalV, fun _ _ => true),
        (XMode.forerunner, fun t u => decide (u < t)), (XMode.inclusive, fun t u => decide (u ≤ t))] →
      Runs s [a] [.v d.toNat] x →
      ∃ t, exec (.xredFadd m d a) s = .next t ∧
        Producing [a.src] s x t 4
          [.v d.toNat x.g.r.exm ((List.range 16).map (fun t => BitVec.ofNat 32 (tree (p t)).bits))] none
          (s.g.sys.fpflags ||| raised x (fun t => (tree (p t)).fl))))

/-- A long-latency write lands: its registers take their values and are full. LONG_LATENCY_WRITE of a pending write of
a group, wherever it stands in the list, writes each of its consecutive V registers under the write's mask, or its one
uniform register (HG0 to HG3 among them), and marks them full; the path that counts it is lowered by 1 and the write
is off the list; a write that carries an error leaves that error for the first reader of any of its registers. No
other lane, register, group or byte of memory changes; with nothing pending there nothing changes. (spec/05 R111;
spec/05 R114; spec/07 R169; spec/03 R71; spec/16 R408.) -/
def Obligations.LongLatencyLands : Prop :=
  let landed := fun (s t : State) (gk : Nat) (l rest : List Pending) (p : Pending) =>
    (t.grp gk).sys = (s.grp gk).sys ∧ (t.grp gk).y.pend = l ++ rest ∧
    (∀ k, (t.grp gk).y.path k = if p.path = some k then (s.grp gk).y.path k - 1 else (s.grp gk).y.path k) ∧
    (t.grp gk).y.errs = (s.grp gk).y.errs ++ (match p.err with
      | none => []
      | some e => [(p.dests.map Dest.reg, e)]) ∧
    { (t.grp gk).y with pend := [], paths := [], errs := [], status := .ready } =
      { (s.grp gk).y with pend := [], paths := [], errs := [], status := .ready } ∧
    (t.grp gk).s0 = (s.grp gk).s0 ∧ (t.grp gk).s1 = (s.grp gk).s1 ∧
    (∀ k, k ≠ gk → t.grp k = s.grp k) ∧ { t with groups := [] } = { s with groups := [] }
  (∀ (s : State) (gk d : Nat) (mask : BitVec 16) (vals : List (List W32)) (p : Pending) (l rest : List Pending),
    d + vals.length ≤ 128 → p.dests = vals.zipIdx.map (fun v => Dest.v (d + v.2) mask v.1) →
    (s.grp gk).y.pend = l ++ p :: rest →
    ∃ t, exec (.longLatencyWrite gk l.length) s = .next t ∧ landed s t gk l rest p ∧
      (∀ q k, k < 16 → (t.grp gk).r.getV q k =
        if d ≤ q ∧ q < d + vals.length ∧ mask.getLsbD k = true then (vals.getD (q - d) []).getD k 0
        else (s.grp gk).r.getV q k) ∧
      (∀ q, q < 128 → (t.grp gk).r.vEmpty.getLsbD q =
        if d ≤ q ∧ q < d + vals.length then false else (s.grp gk).r.vEmpty.getLsbD q) ∧
      { (t.grp gk).r with v := [], vEmpty := 0 } = { (s.grp gk).r with v := [], vEmpty := 0 }) ∧
  (∀ (s : State) (gk r : Nat) (v : W32) (p : Pending) (l rest : List Pending),
    r < 68 → p.dests = [.g r v] → (s.grp gk).y.pend = l ++ p :: rest →
    ∃ t, exec (.longLatencyWrite gk l.length) s = .next t ∧ landed s t gk l rest p ∧
      (∀ q, (t.grp gk).r.getG q = if q = r then v else (s.grp gk).r.getG q) ∧
      (∀ q, (t.grp gk).r.emptyG q = if q = r then false else (s.grp gk).r.emptyG q) ∧
      { (t.grp gk).r with g := [], hg := [], gEmpty := 0 } = { (s.grp gk).r with g := [], hg := [], gEmpty := 0 }) ∧
  (∀ (s : State) (gk i : Nat), (s.grp gk).y.pend.length ≤ i → exec (.longLatencyWrite gk i) s = .next s)

namespace Sys2Proof.Claims

/-- The bytes of a uniform instruction with a B operand (06 R142). -/
def uniBytes : UOpd → Nat
  | .sel _ => 4
  | .imm _ => 8

/-- The selectors that a B operand reads. -/
def uniSels : UOpd → List Sel
  | .sel a => [a]
  | .imm _ => []

/-- The value of a B operand. -/
def uniOpd (x : State) : UOpd → W32
  | .sel a => x.laneVal a.src 0
  | .imm w => w

/-- The uniform instructions that write one register (14 R351, R353): destination, sources, length and value. -/
def uniWrite (i : Instr) : Option (BitVec 6 × List Sel × Nat × (State → W32)) :=
  let two := fun (d : BitVec 6) (a : Sel) (b : UOpd) (f : W32 → W32 → W32) =>
    some (d, a :: uniSels b, uniBytes b, fun (x : State) => f (x.laneVal a.src 0) (uniOpd x b))
  let one := fun (d : BitVec 6) (a : Sel) (f : W32 → W32) => some (d, [a], 4, fun (x : State) => f (x.laneVal a.src 0))
  let bits := fun (f : Nat → Bool) => BitVec.ofFnLE (fun k : Fin 32 => f k.val)
  match i with
  | .gadd d a b => two d a b (fun x y => x + y)
  | .gsub d a b => two d a b (fun x y => x - y)
  | .gmul d a b => two d a b (fun x y => BitVec.ofNat 32 (x.toNat * y.toNat))
  | .gmulh d a b => two d a b (fun x y => BitVec.ofInt 32 (x.toInt * y.toInt / 2 ^ 32))
  | .gand d a b => two d a b (fun x y => bits (fun k => x.getLsbD k && y.getLsbD k))
  | .gor d a b => two d a b (fun x y => bits (fun k => x.getLsbD k || y.getLsbD k))
  | .gxor d a b => two d a b (fun x y => bits (fun k => x.getLsbD k != y.getLsbD k))
  | .gandn d a b => two d a b (fun x y => bits (fun k => x.getLsbD k && !y.getLsbD k))
  | .gshl d a b => two d a b (fun x y => BitVec.ofNat 32 (x.toNat * 2 ^ (y.toNat % 32)))
  | .gshr d a b => two d a b (fun x y => BitVec.ofNat 32 (x.toNat / 2 ^ (y.toNat % 32)))
  | .gsar d a b => two d a b (fun x y => BitVec.ofInt 32 (x.toInt / 2 ^ (y.toNat % 32)))
  | .gmin d a b => two d a b (fun x y => if x.toInt ≤ y.toInt then x else y)
  | .gmax d a b => two d a b (fun x y => if x.toInt ≤ y.toInt then y else x)
  | .gmov d b => some (d, uniSels b, uniBytes b, fun x => uniOpd x b)
  | .gpopc d a => one d a (fun x => BitVec.ofNat 32 (((List.range 32).filter (fun k => x.getLsbD k)).length))
  | .gclz d a => one d a (fun x =>
      BitVec.ofNat 32 (((List.range 32).find? (fun k => x.getLsbD (31 - k))).getD 32))
  | .gctz d a => one d a (fun x => BitVec.ofNat 32 (((List.range 32).find? (fun k => x.getLsbD k)).getD 32))
  | .gnot d a => one d a (fun x => bits (fun k => !x.getLsbD k))
  | .gneg d a => one d a (fun x => BitVec.ofInt 32 (0 - x.toInt))
  | .gbrev d a => one d a (fun x => bits (fun k => x.getLsbD (31 - k)))
  | .rdlane d a tb b => some (d, ⟨.v a, tb⟩ :: uniSels b, uniBytes b, fun x => x.g.r.getV a.toNat ((uniOpd x b).toNat % 16))
  | _ => none

end Sys2Proof.Claims

/-- Uniform instructions write their value to one register and nothing else. GADD to GMOV, the GUN members and RDLANE,
whenever sources and destination let them run, write the value of the manual's tables to Gd (in handler mode HG0 to
HG3 for G60 to G63); GCMP writes 1 or 0 to G0 to G31 by its condition. No other register, flag, memory or unit changes
and the pc moves past the instruction's one or two words. (spec/14 R350; spec/14 R351; spec/14 R352; spec/14 R353;
spec/14 R354; spec/16 R408.) -/
def Obligations.UniformArithmetic : Prop :=
  (∀ (i : Instr) (d : BitVec 6) (sels : List Sel) (len : Nat) (val : State → W32), uniWrite i = some (d, sels, len, val) →
    ∀ s x : State, Runs s sels [.g (uniReg s d)] x →
      ∃ t, exec i s = .next t ∧ UniDone (sels.map (fun a => a.src)) s x t len d (val x)) ∧
  (∀ (s x : State) (d : BitVec 5) (a b : Src) (c : Cond) (p : W32 → W32 → Bool),
    (c, p) ∈ [(Cond.eq, fun x y => x == y), (Cond.ne, fun x y => x != y),
      (Cond.lt, fun x y => decide (x.toInt < y.toInt)), (Cond.ge, fun x y => decide (y.toInt ≤ x.toInt)),
      (Cond.le, fun x y => decide (x.toInt ≤ y.toInt)), (Cond.gt, fun x y => decide (y.toInt < x.toInt)),
      (Cond.ltu, fun x y => decide (x.toNat < y.toNat)), (Cond.geu, fun x y => decide (y.toNat ≤ x.toNat)),
      (Cond.leu, fun x y => decide (x.toNat ≤ y.toNat)), (Cond.gtu, fun x y => decide (y.toNat < x.toNat))] →
    Runs s [⟨a, false⟩, ⟨b, false⟩] [.g d.toNat] x →
    ∃ t, exec (.gcmp c d a b) s = .next t ∧
      UniDone [a, b] s x t 4 (d.setWidth 6) (if p (x.laneVal a 0) (x.laneVal b 0) then 1 else 0))

namespace Sys2Proof.Claims

/-- A control transfer to `target` may be taken: it is a multiple of 4 in a page that can be fetched (14 R357). -/
def Reaches (x : State) (target : W64) (v : State) : Prop :=
  target.toNat % 4 = 0 ∧ ∃ a, Fetched x target a v

/-- What a branch leaves: the pc at `pc`, all else kept, between `v` (after the target's fetch) and `t`. -/
def Branched (v t : State) (pc : W64) : Prop :=
  RegistersOnly [] v t ∧ t.g.sys = v.g.sys ∧ t.g.r = { v.g.r with pc := pc }

/-- The conditional branches (14 R358) with the condition on the value of G[c]. -/
def branches (c : BitVec 6) (disp : BitVec 17) (h : Hint) (s : State) : List (Instr × (W32 → Bool)) :=
  [(.bez c disp h, fun v => v == 0), (.bnz c disp h, fun v => v != 0),
   (.bmz c disp h, fun v => (v.truncate 16 : BitVec 16) &&& s.g.r.exm == 0),
   (.bmnz c disp h, fun v => (v.truncate 16 : BitVec 16) &&& s.g.r.exm != 0)]

/-- The target of a PC-relative member: the address of the word + 4 + 4 × DISP17 (14 R357). -/
def relative (s : State) (disp : BitVec 17) : W64 := s.g.r.pc + 4 + BitVec.ofInt 64 (4 * disp.toInt)

end Sys2Proof.Claims

/-- Branches go to their target when their condition holds and to the next word otherwise. BRA always, BEZ, BNZ, BMZ
and BMNZ when their condition on G[c] holds, go to the word's address + 4 + 4 × DISP17; otherwise the pc moves on by
4. The fetch of the target's word apart, nothing but the pc changes: EXM in particular is kept. A target that is no
multiple of 4, or whose page cannot be fetched, takes the instruction-fetch fault at the branch with TADDR the target;
that a page with no translation at all faults at the branch too is the model's reading (log 31). (spec/14 R357;
spec/14 R358; spec/06 R134.) -/
def Obligations.Branches : Prop :=
  ∀ (s : State) (c : BitVec 6) (disp : BitVec 17) (h : Hint), s.g.y.stepArmed = false →
    (∀ v, Reaches s (relative s disp) v →
      (∃ t, exec (.bra disp h) s = .next t ∧ Branched v t (relative s disp)) ∧
      (∀ i p, (i, p) ∈ branches c disp h s → s.ready [⟨.g c, false⟩] [] = .ok s → p (s.g.r.getG (uniReg s c)) = true →
        ∃ t, exec i s = .next t ∧ Branched v t (relative s disp))) ∧
    (∀ i p, (i, p) ∈ branches c disp h s → s.ready [⟨.g c, false⟩] [] = .ok s → p (s.g.r.getG (uniReg s c)) = false →
      ∃ t, exec i s = .next t ∧ Branched s t (s.g.r.pc + 4)) ∧
    (Enters s → ((relative s disp).toNat % 4 ≠ 0 ∨
        ∃ f, (s.xlate (.core s.cn) s.x.asid (relative s disp) 0 s.priv .fetch).1 = .error f) →
      ∃ t, exec (.bra disp h) s = .next t ∧ Entered [] s t 3 0 (relative s disp) 0 s.g.r.exm s.g.r.pc)

/-- Masks, calls and loops. MSET, MAND, MANDN and MOR write the old EXM, zero-extended, into Gd and set EXM to the low
16 bits of b, of a and b, of a and not b, or of a or b, the sources read first; nothing else changes. CALL writes the
next word's offset from CB to G[c] and goes to its target, and an offset beyond 32 bits takes the instruction-fetch
fault at the CALL; JMPR goes to CB + zext(G[c]) + 4 × DISP17; LOOP writes G[c] - 1 and goes to its target when that is
not zero. Nothing else changes but what the fetch of the target's word leaves in the TLB and the L2. (spec/14 R355;
spec/14 R358; spec/14 R359.) -/
def Obligations.MasksCallsLoops : Prop :=
  (∀ (s x : State) (d : BitVec 6) (a : Sel) (b : UOpd) (i : Instr) (sels : List Sel) (f : W32 → W32 → W32),
    (i, sels, f) ∈ [(Instr.mset d b, uniSels b, fun _ y => y), (Instr.mand d a b, a :: uniSels b, fun x y => x &&& y),
      (Instr.mandn d a b, a :: uniSels b, fun x y => x &&& ~~~y), (Instr.mor d a b, a :: uniSels b, fun x y => x ||| y)] →
    Runs s sels [.g (uniReg s d)] x →
    let srcs := sels.map (fun a => a.src)
    ∃ t, exec i s = .next t ∧ RegistersOnly srcs s t ∧ SysKept srcs s t ∧
      t.g.sys.fpflags = s.g.sys.fpflags ∧ t.g.sys.srcnt = s.g.sys.srcnt ∧
      (∀ n, t.g.r.getG n = if n = uniReg s d then x.g.r.exm.zeroExtend 32 else s.g.r.getG n) ∧
      { t.g.r with g := [], hg := [] } =
        { s.g.r with
          g := []
          hg := []
          exm := (f (x.laneVal a.src 0) (uniOpd x b)).truncate 16
          pc := s.g.r.pc + BitVec.ofNat 64 (uniBytes b) }) ∧
  (∀ (s : State) (c : BitVec 6) (disp : BitVec 17) (h : Hint), s.g.y.stepArmed = false →
    (∀ v, s.ready [] [.g (uniReg s c)] = .ok s → (s.g.r.pc + 4 - s.l.cb).toNat < 2 ^ 32 →
      Reaches (s.setU (uniReg s c) ((s.g.r.pc + 4 - s.l.cb).truncate 32)) (relative s disp) v →
      v.g.r.getG (uniReg s c) = (s.g.r.pc + 4 - s.l.cb).truncate 32 ∧
      ∃ t, exec (.call c disp h) s = .next t ∧ Branched v t (relative s disp)) ∧
    (s.ready [] [.g (uniReg s c)] = .ok s → 2 ^ 32 ≤ (s.g.r.pc + 4 - s.l.cb).toNat → Enters s →
      ∃ t, exec (.call c disp h) s = .next t ∧ Entered [] s t 3 0 (relative s disp) 0 s.g.r.exm s.g.r.pc) ∧
    (∀ v target, target = s.l.cb + (s.g.r.getG (uniReg s c)).zeroExtend 64 + BitVec.ofInt 64 (4 * disp.toInt) →
      s.ready [⟨.g c, false⟩] [] = .ok s → Reaches s target v →
      ∃ t, exec (.jmpr c disp h) s = .next t ∧ Branched v t target) ∧
    (s.ready [⟨.g c, false⟩] [.g (uniReg s c)] = .ok s → s.g.r.getG (uniReg s c) = 1 →
      ∃ t, exec (.loop c disp h) s = .next t ∧ UniDone [] s s t 4 c 0) ∧
    (∀ v w, w = s.g.r.getG (uniReg s c) - 1 → w ≠ 0 → s.ready [⟨.g c, false⟩] [.g (uniReg s c)] = .ok s →
      Reaches (s.setU (uniReg s c) w) (relative s disp) v →
      v.g.r.getG (uniReg s c) = w ∧ ∃ t, exec (.loop c disp h) s = .next t ∧ Branched v t (relative s disp)))

/-- Empty registers stop an instruction. For every integer lane instruction, FP lane instruction and uniform register
instruction whose destination is not empty, let the first empty source in field order be x (that this one alone
decides between trap and wait is the model's choice, log 17). With T = 1 the empty-register trap (cause 4) is entered
with TADDR the source's 9-bit selector, TEPC the instruction, and no effect; with T = 0 the group waits: no register,
no flag, no memory and not the pc changes, and it can issue the instruction again. For every integer lane, FP lane and
uniform register instruction an empty destination makes the group wait first, whatever its sources hold and their T
bits say: no register, flag, memory nor the pc changes. (spec/05 R112; spec/16 R410; spec/05 R113.) -/
def Obligations.EmptyRegisters : Prop :=
  (∀ (i : Instr) (sels : List Sel) (s : State),
    ((∃ d val, intLane i = some (d, sels, val) ∧ s.g.r.vEmpty.getLsbD d.toNat = false) ∨
      (∃ d mode f, fltLane i = some (d, sels, mode, f) ∧ s.g.r.vEmpty.getLsbD d.toNat = false) ∨
      (∃ d len val, uniWrite i = some (d, sels, len, val) ∧
        (64 ≤ uniReg s d ∨ s.g.r.gEmpty.getLsbD (uniReg s d) = false))) →
    ∀ (x : Sel), sels.find? (fun a => s.srcEmpty a.src) = some x →
      (x.t = true → Enters s →
        ∃ t, exec i s = .next t ∧
          Entered [] s t 4 0 (BitVec.ofNat 64 (x.src.code + 256)) 0 s.g.r.exm s.g.r.pc) ∧
      (x.t = false →
        ∃ t, exec i s = .next t ∧ Outside [] s t ∧ OthersKept s t ∧ t.g.r = s.g.r ∧ t.g.sys = s.g.sys ∧
          t.g.s0 = s.g.s0 ∧ t.g.s1 = s.g.s1 ∧ t.g.y.paths = s.g.y.paths ∧ t.g.y.q3 = s.g.y.q3 ∧
          ∃ w, t.g.y.status = .waiting w)) ∧
  (∀ (i : Instr) (sels : List Sel) (s : State),
    ((∃ d val, intLane i = some (d, sels, val) ∧ s.g.r.vEmpty.getLsbD d.toNat = true) ∨
      (∃ d mode f, fltLane i = some (d, sels, mode, f) ∧ s.g.r.vEmpty.getLsbD d.toNat = true) ∨
      (∃ d len val, uniWrite i = some (d, sels, len, val) ∧ uniReg s d < 64 ∧ s.g.r.gEmpty.getLsbD (uniReg s d) = true)) →
    ∃ t, exec i s = .next t ∧ Outside [] s t ∧ OthersKept s t ∧ t.g.r = s.g.r ∧ t.g.sys = s.g.sys ∧
      t.g.s0 = s.g.s0 ∧ t.g.s1 = s.g.s1 ∧ t.g.y.paths = s.g.y.paths ∧ t.g.y.q3 = s.g.y.q3 ∧ t.g.y.status = .waiting .short)

namespace Sys2Proof.Claims

/-- The kinds of access (07 R155 to R158): accepted FMT codes, bytes of one access, store, atomic, plain order. -/
def loadKind (n : Nat) (o : Order) : LKind := ⟨ldFmts, n, false, false, decide (o = .plain)⟩
/-- A store's. -/
def storeKind (n : Nat) (o : Order) : LKind := ⟨ldFmts, n, true, false, decide (o = .plain)⟩
/-- LDV's. -/
def load4Kind (o : Order) : LKind := ⟨lvFmts, 4, false, false, decide (o = .plain)⟩
/-- STV's. -/
def store4Kind (o : Order) : LKind := ⟨lvFmts, 4, true, false, decide (o = .plain)⟩
/-- That of ATOM and RED. -/
def atomKind (o : Order) : LKind := ⟨atFmts, 4, true, true, decide (o = .plain)⟩

/-- Bytes of one element under a record (05 R121). -/
def recBytes (rc : BitVec 256) : Nat := ((fmtBits (rFmt rc)).getD 32) / 8

/-- The place of tile memory that a checked access of `n` bytes in space 0 or 1 reaches: none where BCHK drops it. -/
def placeOf (x : State) (rc : BitVec 256) (n : Nat) (c : LAcc) : Option TLoc :=
  c.at?.bind (fun a => x.localLoc (x.cur / 64) (rSpace rc) a n)

/-- The value of word `k` of thread `t` that the accesses `cs` read from tile memory (07 R159): 0 where dropped. -/
def wordRead (x : State) (rc : BitVec 256) (n : Nat) (cs : List LAcc) (k t : Nat) : W32 :=
  match cs.find? (fun c => decide (c.t = t) && decide (c.k = k)) with
  | none => 0
  | some c => match placeOf x rc n c with
    | none => 0
    | some p => BitVec.ofNat 32 (leNat (x.tread p n))

/-- No access of `cs` falls into a stream's staging area, whose contents the manual leaves open (10 R241). -/
def OutOfStaging (x : State) (rc : BitVec 256) (n : Nat) (cs : List LAcc) : Prop :=
  ∀ c ∈ cs, ∀ p, placeOf x rc n c = some p → x.inStaging p n = false

/-- Does an access to `n` bytes at `p` cover byte `b` of core `co`: of its data, or of its side band? -/
def covers (p : TLoc) (n : Nat) (side : Bool) (co b : Nat) : Prop :=
  match p with
  | .data c a => side = false ∧ c = co ∧ a ≤ b ∧ b < a + n
  | .side c a => side = true ∧ c = co ∧ a ≤ b ∧ b < a + n

/-- A byte of tile memory: data or side band of a core. -/
def tileByte (s : State) (side : Bool) (co b : Nat) : Byte := mget (if side then (s.core co).side else (s.core co).tile) b

/-- The accesses `cs` of space 2 meet coherent segments whose words stand at their home slice (04 R91 to R93): no segment
holds partials of a RED, and the core's cache has room for them all, so that nothing is evicted on the way. -/
def AtHome (x : State) (cs : List LAcc) : Prop :=
  (x.core x.cn).segs.length + cs.length ≤ 128 ∧
  ∀ c ∈ cs, ∀ a, c.at? = some a →
    (x.die (x.cn / 96)).soft (a / 4096) = false ∧
    (∀ o, tget DirSt.i (x.die (x.cn / 96)).dir (a / 4096) ≠ .u o) ∧
    ∀ v ∈ (x.core x.cn).segs, v.seg = a / 4096 → v.soft = false

/-- The value of word `k` of thread `t` that the accesses `cs` read from the home slices of space 2: 0 where dropped. -/
def homeRead (x : State) (n : Nat) (cs : List LAcc) (k t : Nat) : W32 :=
  match cs.find? (fun c => decide (c.t = t) && decide (c.k = k)) with
  | none => 0
  | some c => match c.at? with
    | none => 0
    | some a => BitVec.ofNat 32 (leNat (mread (x.die (x.cn / 96)).spad a n))

/-- A word of the die's scratchpad stands at its home as `w`, and every other byte of it reads as before. -/
def homeLeft (s t : State) (ad : Nat) (w : W32) : Prop :=
  mread (t.die (s.cn / 96)).spad ad 4 = leBytes 4 w.toNat ∧
  ∀ y, y < ad ∨ ad + 4 ≤ y → mget (t.die (s.cn / 96)).spad y = mget (s.die (s.cn / 96)).spad y

/-- What a store to tile memory leaves alone: all registers but the pc and EXM as adopted, the system registers, every
other group's registers, counters and queues, and everything outside groups, cores, teams' Q2 and the notes on release writes
(13 R344); and every byte of tile memory outside the accesses of `cs`. In space 1 the store counts on path 1 until it is
acknowledged (04 R107). -/
def StoreFrame (srcs : List Src) (s x t : State) (len : Nat) (rc : BitVec 256) (n : Nat) (cs : List LAcc) : Prop :=
  t.g.r = { s.g.r with exm := x.g.r.exm, pc := s.g.r.pc + BitVec.ofNat 64 len } ∧
  SysKept srcs s t ∧ t.g.sys.fpflags = s.g.sys.fpflags ∧ t.g.sys.srcnt = s.g.sys.srcnt ∧
  t.g.y.pend = s.g.y.pend ++ (if rSpace rc = 1 then [⟨[], some 1, none⟩] else []) ∧
  (∀ p, t.g.y.path p = if rSpace rc = 1 ∧ p = 1 then s.g.y.path 1 + 1 else s.g.y.path p) ∧
  (∀ k, k ≠ s.cur → (t.grp k).r = (s.grp k).r ∧ (t.grp k).sys = (s.grp k).sys ∧ (t.grp k).y = (s.grp k).y) ∧
  { t with groups := [], teams := [], cores := [], dies := [], rels := [] } =
    { s with groups := [], teams := [], cores := [], dies := [], rels := [] } ∧
  (rSpace rc < 2 → ∀ d, t.die d = s.die d) ∧
  (∀ k, { t.team k with q2 := [] } = { s.team k with q2 := [] }) ∧
  (∀ co, (t.core co).acc = (s.core co).acc ∧ (t.core co).queue = (s.core co).queue) ∧
  (∀ side co b, (rSpace rc < 2 → ∀ c ∈ cs, ∀ p, placeOf x rc n c = some p → ¬ covers p n side co b) →
    tileByte t side co b = tileByte s side co b)

end Sys2Proof.Claims

/-- Loads from tile memory and from afar. From space 0, with every access of the active threads passing its checks and
none in a staging area, LDL writes each active thread's element (0 where BCHK drops it; INT8 sign-extended) to its
lane of Vd, and LDV four words to D to D + 3; nothing else changes, memory least of all. From space 1, or space 2
outside checked regions, with the checks passed and room on the path, LDL and LDV mark their destinations empty, count
one access on path 1 or 2, begin one write with the loaded values under EXM, and leave every other register, all tile
memory and everything beyond the die as it was. From space 1, with no RTEAM acquire and no staging area touched, the
values are those the addressed bytes hold; from coherent segments of space 2 without partials, and with room in the
core's cache, they are those the home slices hold. (spec/07 R154; spec/07 R155; spec/07 R158; spec/07 R159; spec/07
R161; spec/07 R169; spec/05 R111; spec/04 R91.) -/
def Obligations.Loads : Prop :=
  (∀ (s x : State) (d : BitVec 7) (a : Sel) (k : BitVec 4) (sc : Scope) (o : Order) (cs : List LAcc) (rc : BitVec 256),
    rc = s.g.r.getB k.toNat → rSpace rc = 0 →
    (Runs s [a] [.v d.toNat] x → x.checkAll (loadKind (recBytes rc) o) rc (x.laneVal a.src) x.words1 = .ok cs →
      OutOfStaging x rc (recBytes rc) cs →
      ∃ t, exec (.ldl d a k sc o) s = .next t ∧
        LaneDone [a.src] s x t 4 d
          (fun th =>
            let v := wordRead x rc (recBytes rc) cs 0 th
            if rFmt rc = 4 then (v.truncate 8).signExtend 32 else v) s.g.sys.fpflags s.g.sys.srcnt) ∧
    (d.toNat ≤ 124 → Runs s [a] [.v d.toNat, .v (d.toNat + 1), .v (d.toNat + 2), .v (d.toNat + 3)] x →
      x.checkAll (load4Kind o) rc (x.laneVal a.src) (x.words4 (recBytes rc)) = .ok cs → OutOfStaging x rc 4 cs →
      ∃ t, exec (.ldv d a k sc o) s = .next t ∧ RegistersOnly [a.src] s t ∧ SysKept [a.src] s t ∧
        (∀ r th, th < 16 → t.g.r.getV r th =
          if d.toNat ≤ r ∧ r < d.toNat + 4 ∧ x.g.r.exm.getLsbD th = true then wordRead x rc 4 cs (r - d.toNat) th
          else s.g.r.getV r th) ∧
        { t.g.r with v := [] } = { s.g.r with v := [], exm := x.g.r.exm, pc := s.g.r.pc + 4 })) ∧
  (∀ (s x : State) (d : BitVec 7) (a : Sel) (k : BitVec 4) (sc : Scope) (o : Order) (cs : List LAcc) (rc : BitVec 256)
    (four : Bool),
    rc = s.g.r.getB k.toNat → rSpace rc = 1 ∨ rSpace rc = 2 → (four = true → d.toNat ≤ 124) →
    Runs s [a] ((List.range (if four then 4 else 1)).map (fun i => DReg.v (d.toNat + i))) x →
    x.checkAll (if four then load4Kind o else loadKind (recBytes rc) o) rc (x.laneVal a.src)
      (if four then x.words4 (recBytes rc) else x.words1) = .ok cs →
    s.g.y.path (rSpace rc) < 65535 →
    (∀ c ∈ cs, ∀ ad, c.at? = some ad → rSpace rc = 2 →
      (x.die (s.cn / 96)).chk (ad / 4096) = false) →
    ∃ (t : State) (vals : List (List W32)), exec (if four then .ldv d a k sc o else .ldl d a k sc o) s = .next t ∧
      vals.length = (if four then 4 else 1) ∧
      t.g.y.pend = s.g.y.pend ++ [⟨vals.zipIdx.map (fun v => .v (d.toNat + v.2) x.g.r.exm v.1), some (rSpace rc), none⟩] ∧
      (∀ p, t.g.y.path p = if p = rSpace rc then s.g.y.path p + 1 else s.g.y.path p) ∧
      { t.g.r with vEmpty := 0 } = { s.g.r with vEmpty := 0, exm := x.g.r.exm, pc := s.g.r.pc + 4 } ∧
      (∀ r, r < 128 → t.g.r.vEmpty.getLsbD r =
        (s.g.r.vEmpty.getLsbD r || (decide (d.toNat ≤ r) && decide (r < d.toNat + vals.length)))) ∧
      SysKept [a.src] s t ∧ OthersKept s t ∧
      (∀ co b side, tileByte t side co b = tileByte s side co b) ∧
      { t with groups := [], teams := [], cores := [], dies := [], free := 0 } =
        { s with groups := [], teams := [], cores := [], dies := [], free := 0 } ∧
      (rSpace rc = 1 → ¬(o = .acq ∧ sc = .rteam) → OutOfStaging x rc (if four then 4 else recBytes rc) cs →
        (∀ i th, i < vals.length → th < 16 → (vals.getD i []).getD th 0 =
          let v := wordRead x rc (if four then 4 else recBytes rc) cs i th
          if four = false ∧ rFmt rc = 4 then (v.truncate 8).signExtend 32 else v) ∧
        ∀ di, t.die di = s.die di) ∧
      (rSpace rc = 2 → AtHome x cs → ∀ i th, i < vals.length → th < 16 → (vals.getD i []).getD th 0 =
        let v := homeRead x (if four then 4 else recBytes rc) cs i th
        if four = false ∧ rFmt rc = 4 then (v.truncate 8).signExtend 32 else v))

/-- STL and STV store the active threads' words where their records say and nowhere else. With the checks passed, room
on the path and, for a release, the earlier accesses of its scope performed, STL and STV retire. In spaces 0 and 1 the
bytes of an access that no later access of the instruction covers hold its thread's word, and every byte of tile
memory outside the accesses reads as before; in space 2 no byte of tile memory changes, and in coherent segments
without partials the bytes of such an access stand at the home slice while every other byte of both scratchpads reads
as before. A store to space 1 counts on path 1 and its acknowledgement is to come. No register but the pc, no other
counter, and nothing beyond the die changes. That a store is performed at its issue, the counts of spaces 0 and 2 back
at once, is the model's choice (log 55). (spec/07 R154; spec/07 R158; spec/07 R159; spec/07 R160; spec/07 R161;
spec/13 R339.) -/
def Obligations.Stores : Prop :=
  ∀ (s x : State) (d : BitVec 7) (a : Sel) (k : BitVec 4) (sc : Scope) (o : Order) (cs : List LAcc) (rc : BitVec 256)
    (four : Bool) (n : Nat),
    rc = s.g.r.getB k.toNat → (four = true → d.toNat ≤ 124) → n = (if four then 4 else recBytes rc) →
    Runs s ([a] ++ (List.range (if four then 4 else 1)).map (fun i => ⟨.v (d + BitVec.ofNat 7 i), false⟩)) [] x →
    x.checkAll (if four then store4Kind o else storeKind n o) rc (x.laneVal a.src)
      (if four then x.words4 (recBytes rc) else x.words1) = .ok cs →
    (o = .rel ∨ o = .acqRel → x.released sc = true) → s.g.y.path (min (rSpace rc) 2) < 65535 →
    ∃ t, exec (if four then .stv d a k sc o else .stl d a k sc o) s = .next t ∧
      StoreFrame [a.src] s x t 4 rc n cs ∧
      (rSpace rc < 2 → ∀ (l r : List LAcc) (c : LAcc) (p : TLoc), cs = l ++ c :: r → placeOf x rc n c = some p →
        (∀ c2 ∈ r, ∀ p2, placeOf x rc n c2 = some p2 → ∀ side co b, covers p n side co b → ¬ covers p2 n side co b) →
        t.tread p n = leBytes n (s.g.r.getV (d.toNat + c.k) c.t).toNat) ∧
      (rSpace rc = 2 → AtHome x cs →
        (∀ (l r : List LAcc) (c : LAcc) (a : Nat), cs = l ++ c :: r → c.at? = some a →
          (∀ c2 ∈ r, ∀ a2, c2.at? = some a2 → a2 + n ≤ a ∨ a + n ≤ a2) →
          mread (t.die (s.cn / 96)).spad a n = leBytes n (s.g.r.getV (d.toNat + c.k) c.t).toNat) ∧
        ∀ di y, (di = s.cn / 96 → ∀ c ∈ cs, ∀ a, c.at? = some a → y < a ∨ a + n ≤ y) →
          mget (t.die di).spad y = mget (s.die di).spad y)

/-- ATOM and RED read, modify and write one word. In spaces 0 and 1, with the checks passed, room on the path and a
release performed, let one active thread's access reach a word outside any staging area. ATOM leaves in that word the
operation on its old value and the thread's operands, and the old value in the thread's lane of Vd; RED leaves the
same word and writes no register. No other byte of tile memory and no other register changes. The same holds of a word
of a coherent segment of space 2 at its home slice; only a RED to one that no core holds (state I) leaves the word and
opens a partial of its core, the operation on the identity and its operand. In every space, and for any number of
threads, both retire. (spec/07 R162; spec/07 R163; spec/07 R164; spec/07 R165; spec/13 R339; spec/04 R92; spec/04
R93.) -/
def Obligations.Atomics : Prop :=
  ∀ (s x : State) (op : AOp) (d : BitVec 7) (a b c : Sel) (k : BitVec 4) (sc : Scope) (o : Order) (cs : List LAcc)
    (rc : BitVec 256) (sels : List Sel),
    rc = s.g.r.getB k.toNat →
    x.checkAll (atomKind o) rc (x.laneVal a.src) x.words1 = .ok cs →
    (o = .rel ∨ o = .acqRel → x.released sc = true) → s.g.y.path (min (rSpace rc) 2) < 65535 →
    (∀ old v w : W32, (op, aop op old v w) ∈
      [(AOp.add, old + v), (AOp.and, old &&& v), (AOp.or, old ||| v), (AOp.xor, old ^^^ v), (AOp.xchg, v),
       (AOp.min, if old.toInt ≤ v.toInt then old else v), (AOp.max, if old.toInt ≤ v.toInt then v else old),
       (AOp.umin, if old.toNat ≤ v.toNat then old else v), (AOp.umax, if old.toNat ≤ v.toNat then v else old),
       (AOp.cas, if old = w then v else old), (AOp.fadd, aop .fadd old v w), (AOp.fmin, aop .fmin old v w),
       (AOp.fmax, aop .fmax old v w), (AOp.b2add, aop .b2add old v w)]) ∧
    (sels = [a, b] ++ (if op = .cas then [c] else []) → Runs s sels [.v d.toNat] x →
      ∃ t, exec (.atom op d a b c k sc o) s = .next t ∧ t.g.r.pc = s.g.r.pc + 8 ∧
        (∀ r th, th < 16 → r ≠ d.toNat ∨ x.g.r.exm.getLsbD th = false → t.g.r.getV r th = s.g.r.getV r th) ∧
        { t.g.r with v := [] } = { s.g.r with v := [], exm := x.g.r.exm, pc := s.g.r.pc + 8 } ∧
        (∀ th p, rSpace rc < 2 → ¬(o = .acq ∨ o = .acqRel) ∨ sc ≠ .rteam → cs.map (fun c => c.t) = [th] →
          (∀ c ∈ cs, placeOf x rc 4 c = some p) → x.inStaging p 4 = false →
          let old := BitVec.ofNat 32 (leNat (x.tread p 4))
          t.g.r.getV d.toNat th = old ∧
          t.tread p 4 = leBytes 4 (aop op old (x.laneVal b.src th) (x.laneVal c.src th)).toNat ∧
          (∀ side co y, ¬ covers p 4 side co y → tileByte t side co y = tileByte s side co y)) ∧
        (∀ th ad, rSpace rc = 2 → ¬(o = .acq ∨ o = .acqRel) ∨ sc ≠ .rteam → cs.map (fun c => c.t) = [th] →
          (∀ c ∈ cs, c.at? = some ad) → AtHome x cs →
          let old := BitVec.ofNat 32 (leNat (mread (x.die (s.cn / 96)).spad ad 4))
          t.g.r.getV d.toNat th = old ∧ homeLeft s t ad (aop op old (x.laneVal b.src th) (x.laneVal c.src th)))) ∧
    (op ≠ .cas → Runs s [a, b] [] x →
      ∃ t, exec (.red op a b k sc o) s = .next t ∧
        t.g.r = { s.g.r with exm := x.g.r.exm, pc := s.g.r.pc + 8 } ∧
        (∀ th p, rSpace rc < 2 → cs.map (fun c => c.t) = [th] →
          (∀ c ∈ cs, placeOf x rc 4 c = some p) → x.inStaging p 4 = false →
          t.tread p 4 = leBytes 4 (aop op (BitVec.ofNat 32 (leNat (x.tread p 4))) (x.laneVal b.src th) 0).toNat ∧
          (∀ side co y, ¬ covers p 4 side co y → tileByte t side co y = tileByte s side co y)) ∧
        (∀ th ad, rSpace rc = 2 → cs.map (fun c => c.t) = [th] → (∀ c ∈ cs, c.at? = some ad) → AtHome x cs →
          let die := fun (u : State) => u.die (s.cn / 96)
          (tget DirSt.i (die s).dir (ad / 4096) ≠ .i →
            homeLeft s t ad (aop op (BitVec.ofNat 32 (leNat (mread (die s).spad ad 4))) (x.laneVal b.src th) 0)) ∧
          (tget DirSt.i (die s).dir (ad / 4096) = .i → tget [] (die s).parts (ad / 4096) = [] →
            (die t).spad = (die s).spad ∧ tget DirSt.i (die t).dir (ad / 4096) = .u op ∧
            tget [] (die t).parts (ad / 4096) = [(s.cn, ad % 4096, aop op (aopId op) (x.laneVal b.src th) 0)])))

/-- A lane memory instruction that fails a check traps with no effect. Where an active thread's access fails a
condition of R156, LDL, STL, LDV, STV, ATOM and RED raise one precise trap and no byte of memory changes. Of each of
the six, with an active thread: a record of SPACE 3 or higher gives the space fault with TADDR the BASE and TMASK the
active threads; with a good space, a FMT that R155 does not accept for it gives the record-format fault with TADDR the
FMT; with both good and BCHK 0, the bounds fault's TMASK holds exactly the active threads one of whose accesses has
its row or element outside, and TADDR the index of the lowest. (spec/07 R155; spec/07 R156; spec/16 R410; spec/06
R135.) -/
def Obligations.AccessChecks : Prop :=
  ∀ (s x : State) (d : BitVec 7) (a b c : Sel) (op : AOp) (k : BitVec 4) (sc : Scope) (o : Order) (rc : BitVec 256)
    (i : Instr) (sels : List Sel) (dests : List DReg) (kind : LKind) (ws : List LWord) (len : Nat),
    rc = s.g.r.getB k.toNat → Enters s →
    (i, sels, dests, kind, ws, len) ∈
      [(Instr.ldl d a k sc o, [a], [DReg.v d.toNat], loadKind (recBytes rc) o, x.words1, 4),
       (Instr.stl d a k sc o, [a, ⟨.v d, false⟩], [], storeKind (recBytes rc) o, x.words1, 4),
       (Instr.ldv d a k sc o, [a], (List.range 4).map (fun i => DReg.v (d.toNat + i)), load4Kind o,
         x.words4 (recBytes rc), 4),
       (Instr.stv d a k sc o, [a] ++ (List.range 4).map (fun i => ⟨.v (d + BitVec.ofNat 7 i), false⟩), [],
         store4Kind o, x.words4 (recBytes rc), 4),
       (Instr.red op a b k sc o, [a, b], [], atomKind o, x.words1, 8),
       (Instr.atom op d a b c k sc o, [a, b] ++ (if op = .cas then [c] else []), [DReg.v d.toNat], atomKind o,
         x.words1, 8)] →
    Runs s sels dests x →
    let idx := fun (th : Nat) => (x.laneVal a.src th).toNat
    let out := fun (th : Nat) => ws.any (fun w => decide (w.t = th) &&
      (decide (rExt0 rc ≤ idx th % 2 ^ 20 + w.dj) || decide (rExt1 rc ≤ idx th / 2 ^ 20)))
    (∀ tr : Trap, x.checkAll kind rc (x.laneVal a.src) ws = .error tr →
      ∃ t, exec i s = .next t ∧ Entered [] s t tr.cause tr.sub tr.val tr.mask s.g.r.exm s.g.r.pc) ∧
    (x.g.r.exm ≠ 0 → 3 ≤ rSpace rc →
      ∃ t, exec i s = .next t ∧ Entered [] s t 5 0 (rBase rc) x.g.r.exm s.g.r.exm s.g.r.pc) ∧
    (x.g.r.exm ≠ 0 → rSpace rc < 3 → rFmt rc ∉ kind.fmts →
      ∃ t, exec i s = .next t ∧ Entered [] s t 6 0 (BitVec.ofNat 64 (rFmt rc)) x.g.r.exm s.g.r.exm s.g.r.pc) ∧
    (∀ th, rSpace rc < 3 → rFmt rc ∈ kind.fmts → rBchk rc = 0 → th < 16 → out th = true → (∀ u, u < th → out u = false) →
      ∃ t m, exec i s = .next t ∧
        Entered [] s t 7 0 ((x.laneVal a.src th).zeroExtend 64) m s.g.r.exm s.g.r.pc ∧
        ∀ u, u < 16 → m.getLsbD u = out u)

/-- SPST and SPLD spill registers of the active threads, within the spill size. Let b = SPP + OFF and n registers be
named. When b + 64n exceeds SS both instructions raise the spill-range trap with TADDR b and no effect. Otherwise SPST
stores lane t of register D + k, for the active threads, at region byte b + 64k + 4t and changes no other byte and no
register; SPLD marks the n registers empty and begins one write with the words that stand there. (R167.) -/
def Obligations.SpillStack : Prop :=
  ∀ (s : State) (d : BitVec 7) (nm1 : BitVec 4) (off : BitVec 16) (n b : Nat),
    n = nm1.toNat + 1 → d.toNat + n ≤ 128 → b = s.g.r.spp.toNat + off.toNat → s.g.y.stepArmed = false →
    let place := fun (k th : Nat) => s.spillAt (b + 64 * k + 4 * th)
    let full := s.ready ((List.range n).map (fun i => ⟨.v (d + BitVec.ofNat 7 i), false⟩)) [] = .ok s
    let free := s.ready [] ((List.range n).map (fun i => DReg.v (d.toNat + i))) = .ok s
    (s.l.ss < b + 64 * n → Enters s → full →
      ∃ t, exec (.spst d nm1 off) s = .next t ∧ Entered [] s t 0xC 0 (BitVec.ofNat 64 b) 0 s.g.r.exm s.g.r.pc) ∧
    (s.l.ss < b + 64 * n → Enters s → free →
      ∃ t, exec (.spld d nm1 off) s = .next t ∧ Entered [] s t 0xC 0 (BitVec.ofNat 64 b) 0 s.g.r.exm s.g.r.pc) ∧
    (b + 64 * n ≤ s.l.ss → full → s.g.y.path 0 < 65535 →
      ∃ t, exec (.spst d nm1 off) s = .next t ∧ t.g.r = { s.g.r with pc := s.g.r.pc + 8 } ∧ t.g.sys = s.g.sys ∧
        (∀ k th, k < n → th < 16 → s.g.r.exm.getLsbD th = true →
          t.tread (.data s.cn (place k th)) 4 = leBytes 4 (s.g.r.getV (d.toNat + k) th).toNat) ∧
        (∀ side co y, ¬ (side = false ∧ co = s.cn ∧ ∃ k th, k < n ∧ th < 16 ∧ s.g.r.exm.getLsbD th = true ∧
            place k th ≤ y ∧ y < place k th + 4) → tileByte t side co y = tileByte s side co y) ∧
        (∀ k, k ≠ s.cur → (t.grp k).r = (s.grp k).r) ∧
        { t with groups := [], cores := [] } = { s with groups := [], cores := [] }) ∧
    (b + 64 * n ≤ s.l.ss → free →
      ∃ t, exec (.spld d nm1 off) s = .next t ∧
        Producing [] s s t 8 ((List.range n).map (fun k => .v (d.toNat + k) s.g.r.exm ((List.range 16).map (fun th =>
          BitVec.ofNat 32 (leNat (s.tread (.data s.cn (place k th)) 4)))))) none s.g.sys.fpflags)

/-- SPADJ moves the spill pointer within the spill size. SPADJ b, encoded as uniform opcode 0x15 with D and A zero,
adds its signed operand to SPP and changes nothing else; when the exact sum is negative, exceeds SS or is no multiple
of 4, the spill-range trap is raised with TADDR the sum as a 64-bit two's complement value, and SPP is unchanged.
(R168.) -/
def Obligations.SpillPointer : Prop :=
  (∀ w : W32, encode (.spadj (.imm w)) = [2 ^ 31 + 0x15 * 2 ^ 25 + 1, w.toNat]) ∧
  (∀ a : Sel, a.ok = true → encode (.spadj (.sel a)) = [2 ^ 31 + 0x15 * 2 ^ 25 + 2 * a.code]) ∧
  ∀ (s x : State) (b : UOpd), Runs s (uniSels b) [] x →
    let srcs := (uniSels b).map (fun a => a.src)
    let sum : Int := s.g.r.spp.toNat + (uniOpd x b).toInt
    (0 ≤ sum → sum ≤ s.l.ss → sum % 4 = 0 →
      ∃ t, exec (.spadj b) s = .next t ∧ RegistersOnly srcs s t ∧ SysKept srcs s t ∧
        t.g.r = { s.g.r with
          exm := x.g.r.exm
          spp := BitVec.ofInt 32 sum
          pc := s.g.r.pc + BitVec.ofNat 64 (uniBytes b) }) ∧
    (sum < 0 ∨ s.l.ss < sum ∨ sum % 4 ≠ 0 → Enters s →
      ∃ t, exec (.spadj b) s = .next t ∧ Entered [] s t 0xC 0 (BitVec.ofInt 64 sum) 0 s.g.r.exm s.g.r.pc)

namespace Sys2Proof.Claims

/-- What an instruction of the group at issue that retires leaves in its group: no register but the pc (and EXM as a
replay read adopted it) changes, and no counter, queue or stream that it does not read. -/
def Moved (srcs : List Src) (s x t : State) (len : Nat) : Prop :=
  GroupKept srcs s t ∧ NothingSent s t ∧ SysKept srcs s t ∧
  t.g.sys.fpflags = s.g.sys.fpflags ∧ t.g.sys.srcnt = s.g.sys.srcnt ∧
  t.g.r = { s.g.r with exm := x.g.r.exm, pc := s.g.r.pc + BitVec.ofNat 64 len } ∧
  t.g.y.status = .ready ∧ t.g.y.arrived = false ∧ t.g.y.woken = false

/-- The group at issue waits at its instruction: in Invar mode the four waits of 15 R404 are a sleep. Its sources have been
read: queues among them have popped (05 R115), and CLK has latched its upper half (06 R138). -/
def Waits (srcs : List Src) (s t : State) (w : Wait) (sleeps : Bool) : Prop :=
  t.g.r = s.g.r ∧ { t.g.sys with clkh := 0 } = { s.g.sys with clkh := 0 } ∧
  (.special 7 ∉ srcs → t.g.sys.clkh = s.g.sys.clkh) ∧ (.q 0 ∉ srcs → .q 1 ∉ srcs → t.g.s0 = s.g.s0 ∧ t.g.s1 = s.g.s1) ∧
  NothingSent s t ∧ (.q 3 ∉ srcs → t.g.y.q3 = s.g.y.q3) ∧
  t.g.y.status = if sleeps && s.coreInvar s.cn then .asleep else .waiting w

/-- Every other group keeps its registers, its system registers, its streams, its counters and its queues: it may only
have been let go. -/
def OthersRun (s t : State) : Prop :=
  ∀ k, k ≠ s.cur →
    { t.grp k with y := GSync.reset } = { s.grp k with y := GSync.reset } ∧
    { (t.grp k).y with status := .ready, woken := false } = { (s.grp k).y with status := .ready, woken := false }

/-- Nothing outside groups, teams and the scheduling positions of cores has changed. -/
def Inside (s t : State) : Prop :=
  { t with groups := [], teams := [], cores := [] } = { s with groups := [], teams := [], cores := [] } ∧
  ∀ c, { t.core c with turn := 0, quads := [] } = { s.core c with turn := 0, quads := [] }

/-- A group has been let go: its wait is satisfied and it is not left waiting. -/
def LetGo (t : State) (k : Nat) : Prop := (t.grp k).y.woken = true ∧ ∀ w, (t.grp k).y.status ≠ .waiting w

end Sys2Proof.Claims

/-- Team and cluster barriers. A BAR whose A value is at most the team's groups and agrees with an open phase, with
the group's earlier team accesses performed, arrives once. When A is 0 and every group of the team that has not exited
has arrived, or A arrivals are reached, the phase ends, the groups that arrived are let go and the BAR retires;
otherwise the group waits with its arrival recorded. A BAR that has arrived and been let go retires. No register
changes, and no other barrier. With the group's earlier cluster accesses performed, a CBAR arrives once: when every
group of the cluster's teams that has not exited has arrived, every team's arrivals are cleared, the other groups are
let go and the CBAR retires; otherwise the group waits with its arrival recorded. No register changes. (spec/14 R361;
spec/14 R362; spec/14 R377; spec/13 R339; spec/14 R363.) -/
def Obligations.Barriers : Prop :=
  (∀ (s x : State) (n : BitVec 3) (a : Sel) (v : Nat) (b : Barrier) (arr : List Nat), Runs s [a] [] x →
    v = (x.laneVal a.src 0).toNat → b = s.t.bar n.toNat → arr = b.arrived ++ [s.cur % 64] →
    let ended := if v = 0 then ∀ i ∈ s.liveIdx (s.cur / 64), i ∈ arr else v ≤ arr.length
    (s.g.y.arrived = false → s.g.y.woken = false → v ≤ s.l.groups → (b.opened = true → b.count = v) →
      s.released .team = true →
      (ended → ∃ t, exec (.bar n a) s = .next t ∧ Moved [a.src] s x t 4 ∧ OthersRun s t ∧ Inside s t ∧
        t.t.bar n.toNat = Barrier.reset ∧ (∀ m, m ≠ n.toNat → t.t.bar m = s.t.bar m) ∧
        (∀ k, k ≠ s.cur / 64 → t.team k = s.team k) ∧
        ∀ i ∈ b.arrived, 64 * (s.cur / 64) + i ≠ s.cur → LetGo t (64 * (s.cur / 64) + i)) ∧
      (¬ ended → s.g.r.exm = x.g.r.exm →
        ∃ t, exec (.bar n a) s = .next t ∧ Waits [a.src] s t .barrier true ∧ OthersKept s t ∧ Inside s t ∧
          t.g.y.arrived = true ∧ t.t.bar n.toNat = ⟨true, v, arr⟩ ∧
          (∀ m, m ≠ n.toNat → t.t.bar m = s.t.bar m) ∧ ∀ k, k ≠ s.cur / 64 → t.team k = s.team k)) ∧
    (s.g.y.arrived = true → s.g.y.woken = true →
      ∃ t, exec (.bar n a) s = .next t ∧ RegistersOnly [a.src] s t ∧ Moved [a.src] s x t 4) ∧
    (s.g.y.arrived = false → Enters s → s.l.groups < v →
      ∃ t, exec (.bar n a) s = .next t ∧ Entered [] s t 0x16 0 2 0 s.g.r.exm s.g.r.pc) ∧
    (s.g.y.arrived = false → Enters s → v ≤ s.l.groups → s.released .team = true → b.opened = true → b.count ≠ v →
      ∃ t, exec (.bar n a) s = .next t ∧ Entered [] s t 0x16 0 1 0 s.g.r.exm s.g.r.pc)) ∧
  (∀ s : State, s.g.y.stepArmed = false → s.g.y.arrived = false → s.g.y.woken = false → s.released .cluster = true →
    s.t.st = .resident →
    let tk := s.cur / 64
    let arr := fun k => (s.team k).cbar ++ (if k = tk then [s.cur % 64] else [])
    let ended := ∀ k ∈ s.clusterTeams tk, ∀ i ∈ s.liveIdx k, i ∈ arr k
    (ended → ∃ t, exec .cbar s = .next t ∧ Moved [] s s t 4 ∧ OthersRun s t ∧ Inside s t ∧
      (∀ k ∈ s.clusterTeams tk, (t.team k).cbar = []) ∧ (∀ k, k ∉ s.clusterTeams tk → t.team k = s.team k) ∧
      (∀ k, { t.team k with cbar := [] } = { s.team k with cbar := [] }) ∧
      ∀ k ∈ s.clusterTeams tk, ∀ i ∈ (s.team k).cbar, 64 * k + i ≠ s.cur → LetGo t (64 * k + i)) ∧
    (¬ ended → ∃ t, exec .cbar s = .next t ∧ Waits [] s t .cluster true ∧ OthersKept s t ∧ Inside s t ∧
      t.g.y.arrived = true ∧ (∀ k, t.team k = { s.team k with cbar := arr k })))

namespace Sys2Proof.Claims

/-- A word at its home (14 R367) in state `s` and what reading it leaves, `z`: of tile memory, a side band, HBM (through the L2
under CACHE `l`), or the die scratchpad, whose segment's partials are combined first (04 R93). -/
def HomeWord (s : State) (sp home addr l : Nat) (w : W32) (z : State) : Prop :=
  (sp = 0 ∧ w = BitVec.ofNat 32 (leNat (mread (s.core home).tile addr 4)) ∧ z = s) ∨
  (sp = 1 ∧ w = BitVec.ofNat 32 (leNat (mread (s.core home).side addr 4)) ∧ z = s) ∨
  (sp = 2 ∧ w = BitVec.ofNat 32 (leNat (mread ((s.die home).combine (addr / 4096)).spad addr 4)) ∧
    z = s.combineSeg home (addr / 4096)) ∨
  (sp = 3 ∧ w = BitVec.ofNat 32 (leNat (s.pread 0 addr 4)) ∧ z = s.l2range 0 addr 4 l false)

end Sys2Proof.Claims

/-- Barrier objects and monitors. ABAR.ADD, ABAR.SUB (with earlier team accesses performed) and ABAR.SET replace count
K of the team's object modulo 2^32, keep every other object, and let go the groups of the team whose ABWAIT on object
K the new count satisfies; ABWAIT retires where the signed count is at most its operand, or once let go, and otherwise
waits with its monitor on the object. No register changes. WAITC whose checks pass and whose word of tile memory, side
band, die scratchpad (its segment's partials combined first) or HBM meets the condition, or that has been let go,
retires; one whose word does not waits with a monitor on the word's home. MONITOR_REREAD of that group reads the word
again: it lets the group go exactly where the condition holds, and changes nothing else but what the reading of the
word at its home leaves there. A dropped access reads 0. (spec/14 R364; spec/14 R365; spec/13 R339; spec/14 R366;
spec/14 R367.) -/
def Obligations.ObjectsAndMonitors : Prop :=
  (∀ (s x : State) (k : BitVec 3) (b : UOpd), Runs s (uniSels b) [] x →
    let srcs := (uniSels b).map (fun a => a.src)
    let old := s.t.obj k.toNat
    (∀ (i : Instr) (v : W32),
      (i, v) ∈ [(Instr.abarAdd k b, old + uniOpd x b), (Instr.abarSub k b, old - uniOpd x b), (Instr.abarSet k b, uniOpd x b)] →
      (i = .abarSub k b → s.released .team = true) →
      ∃ t, exec i s = .next t ∧ Moved srcs s x t (uniBytes b) ∧ OthersRun s t ∧ Inside s t ∧
        t.t.obj k.toNat = v ∧ (∀ m, m ≠ k.toNat → t.t.obj m = s.t.obj m) ∧ (∀ m, t.t.bar m = s.t.bar m) ∧
        (∀ u, u ≠ s.cur / 64 → t.team u = s.team u) ∧
        ∀ gk ∈ s.teamKeys (s.cur / 64), gk ≠ s.cur → ∀ h c w l, (s.grp gk).y.monitor = some ⟨8, k.toNat, h, c, w, l⟩ →
          v.toInt ≤ w.toInt → LetGo t gk) ∧
    (old.toInt ≤ (uniOpd x b).toInt ∨ s.g.y.woken = true →
      ∃ t, exec (.abwait k b) s = .next t ∧ RegistersOnly srcs s t ∧ Moved srcs s x t (uniBytes b)) ∧
    ((uniOpd x b).toInt < old.toInt → s.g.y.woken = false → s.g.r.exm = x.g.r.exm →
      ∃ t, exec (.abwait k b) s = .next t ∧ Waits srcs s t .object true ∧ OthersKept s t ∧ Outside srcs s t ∧
        t.g.y.monitor = some ⟨8, k.toNat, 0, .eq, uniOpd x b, 0⟩)) ∧
  ((∀ (c : WCond) (w v : W32), wcond c w v = match c with
    | .eq => decide (w = v)
    | .ne => decide (w ≠ v)
    | .geu => decide (v.toNat ≤ w.toNat)
    | .ltu => decide (w.toNat < v.toNat)) ∧
  (∀ (s x y z : State) (c : WCond) (k : BitVec 4) (a : Sel) (b : UOpd), Runs s (a :: uniSels b) [] x →
    let srcs := a.src :: (uniSels b).map (fun a => a.src)
    let v := uniOpd x b
    let cache := rCache (s.g.r.getB k.toNat)
    (s.g.y.woken = true → ∃ t, exec (.waitc c k a b) s = .next t ∧ RegistersOnly srcs s t ∧ Moved srcs s x t (uniBytes b)) ∧
    (s.g.y.woken = false → ∀ (sp home addr : Nat) (word : W32), x.watched k.toNat (x.laneVal a.src 0) = (.at sp home addr, y) →
      HomeWord y sp home addr cache word z →
      (wcond c word v = true → ∃ t, exec (.waitc c k a b) s = .next t ∧ RegistersOnly srcs z t ∧ Moved srcs z z t (uniBytes b)) ∧
      (wcond c word v = false → ∃ t, exec (.waitc c k a b) s = .next t ∧ Waits srcs z t .monitor true ∧ OthersKept z t ∧
        Outside srcs z t ∧ t.g.y.monitor = some ⟨sp, addr, home, c, v, cache⟩)) ∧
    (s.g.y.woken = false → x.watched k.toNat (x.laneVal a.src 0) = (.drop, y) → wcond c 0 v = true →
      ∃ t, exec (.waitc c k a b) s = .next t ∧ RegistersOnly srcs y t ∧ Moved srcs y y t (uniBytes b))) ∧
  (∀ (s z : State) (gk sp home addr l : Nat) (c : WCond) (v word : W32),
    (s.grp gk).y.monitor = some ⟨sp, addr, home, c, v, l⟩ → HomeWord s sp home addr l word z →
    ∃ t, exec (.monitorReread gk) s = .next t ∧ (∀ k, k ≠ gk → t.grp k = s.grp k) ∧
      { t with groups := [] } = { z with groups := [] } ∧ (t.grp gk).r = (s.grp gk).r ∧ (t.grp gk).sys = (s.grp gk).sys ∧
      (wcond c word v = true → LetGo t gk) ∧ (wcond c word v = false → t = z)) ∧
  (∀ (s : State) (home seg : Nat),
    (∀ d, (s.combineSeg home seg).die d = if d = home then (s.die home).combine seg else s.die d) ∧
    (∀ d, (∀ op, tget DirSt.i d.dir seg ≠ .u op) → Die.combine d seg = d) ∧
    { s.combineSeg home seg with cores := [], dies := [] } = { s with cores := [], dies := [] } ∧
    ∀ k, { (s.combineSeg home seg).core k with segs := [] } = { s.core k with segs := [] }))

/-- WAITN and FENCE wait for access counters, and a failed remote access traps there. WAITN p retires where counter p
is at most its operand, FENCE where every counter of its scope's paths is 0, and FENCE.FLUSH likewise after writing
the core's dirty software-managed scratchpad segments of regions open to the group back (release) and dropping them
(acquire); otherwise the group waits. A FENCE with release order at TEAM scope is noted for the group's later writes
(13 R338). With a fabric-error entry on a waited path 3 or 7, each takes the fabric-error trap with that entry's code
and address, and the entry is cleared. No register changes. (spec/07 R170; spec/07 R171; spec/07 R172; spec/11 R288;
spec/13 R340.) -/
def Obligations.CounterWaits : Prop :=
  (∀ sc : Scope, fencePaths sc = match sc with
    | .group => [0]
    | .team => [0]
    | .rteam => [0]
    | .cluster => [0, 1]
    | .die => [0, 1, 2]
    | .device => [0, 1, 2, 3, 7]
    | .system => [0, 1, 2, 3, 7]) ∧
  (∀ (s x : State) (p : BitVec 3) (a : Sel), Runs s [a] [] x → s.g.y.fabErr [p.toNat] = none →
    (s.g.y.path p.toNat ≤ (x.laneVal a.src 0).toNat →
      ∃ t, exec (.waitn p a) s = .next t ∧ RegistersOnly [a.src] s t ∧ Moved [a.src] s x t 4) ∧
    ((x.laneVal a.src 0).toNat < s.g.y.path p.toNat → s.g.r.exm = x.g.r.exm →
      ∃ t, exec (.waitn p a) s = .next t ∧ Waits [a.src] s t .counter false ∧ OthersKept s t ∧ Outside [a.src] s t)) ∧
  (∀ (s : State) (o : Order) (sc : Scope), s.g.y.stepArmed = false → s.g.y.fabErr (fencePaths sc) = none →
    let mine := fun (c : SegCopy) => c.soft && s.spadOk (s.cn / 96) s.x.asid (c.seg * 4096)
    ((∀ p ∈ fencePaths sc, s.g.y.path p = 0) →
      (∃ t, exec (.fence o sc) s = .next t ∧ RegistersOnly [] s t ∧ Moved [] s s t 4 ∧
        (t.g.y.relFence = (s.g.y.relFence || ((decide (sc = .team) || decide (sc = .rteam)) && (decide (o = .rel) || decide (o = .acqRel)))))) ∧
      (∃ t, exec (.fenceFlush o sc) s = .next t ∧ Moved [] s s t 4 ∧ OthersKept s t ∧
        { t with groups := [], cores := [], dies := [] } = { s with groups := [], cores := [], dies := [] } ∧
        (∀ side co b, tileByte t side co b = tileByte s side co b) ∧
        (∀ c ∈ (t.core s.cn).segs, mine c = true →
          (o = .rel ∨ o = .acqRel → c.dirty = []) ∧ ¬ (o = .acq ∨ o = .acqRel)))) ∧
    ((∃ p ∈ fencePaths sc, s.g.y.path p ≠ 0) →
      ∃ t, exec (.fence o sc) s = .next t ∧ Waits [] s t .counter false ∧ OthersKept s t ∧ Outside [] s t)) ∧
  (∀ (s : State) (i : Instr) (sels : List Sel) (paths : List Nat) (seven : Bool) (e : FabErr) (x : State),
    (∃ p a, i = .waitn p a ∧ sels = [a] ∧ paths = [p.toNat]) ∨
      (∃ o sc, (i = .fence o sc ∨ i = .fenceFlush o sc) ∧ sels = [] ∧ paths = fencePaths sc) →
    s.ready sels [] = .ok x → Enters s → s.g.y.fabErr paths = some (seven, e) →
    ∃ t, exec i s = .next t ∧ OthersKept s t ∧ Outside [] s t ∧
      t.g.sys.tcause = BitVec.ofNat 32 (e.code * 256 + 0x14) ∧ t.g.sys.taddr = e.addr ∧
      t.g.sys.tepc = (s.g.r.pc - s.l.cb).truncate 32 ∧ t.g.sys.hm = true ∧ t.g.sys.texm = s.g.r.exm ∧
      t.g.r.exm = 0xFFFF ∧ t.g.r.pc = (s.x.tvec.truncate 57 : BitVec 57).signExtend 64 ∧
      t.g.y.fab3 = (if seven then s.g.y.fab3 else none) ∧ t.g.y.fab7 = (if seven then none else s.g.y.fab7))

/-- NOP, the single step, EXIT and YIELD. NOP moves the pc on by 4 and changes no register; with a single step armed
it retires and the single-step trap 0x1B follows with TEPC naming the next instruction. EXIT, once nothing of the
group's streams is left to drain and its SENDs have written status, leaves the group exited with both streams closed
and its registers as they were, and its launch, memory and the other groups' registers untouched; until then it waits,
with the records in hand given to the copy engine to drain. That EXIT waits for this drain (log 36) and for the status
of its SENDs (log 59) is the model's choice. YIELD retires, and where the quadrant's FIFO has a group to take over
(its head in Invar mode, otherwise the first that can issue), that group takes the position and this one joins the
tail. (spec/16 R419; spec/14 R368; spec/14 R369; spec/14 R371; spec/15 R398.) -/
def Obligations.NopExitYield : Prop :=
  ((∀ s : State, s.g.y.stepArmed = false →
    ∃ t, exec .nop s = .next t ∧ RegistersOnly [] s t ∧ t.g.r = { s.g.r with pc := s.g.r.pc + 4 } ∧ t.g.sys = s.g.sys ∧
      t.g.y.retired = s.g.y.retired + 1) ∧
  (∀ s : State, s.g.y.stepArmed = true → Enters s →
    ∃ t, exec .nop s = .next t ∧ Entered [] s t 0x1B 0 0 0 s.g.r.exm (s.g.r.pc + 4) ∧ t.g.y.stepArmed = false)) ∧
  (∀ s : State, s.g.y.stepArmed = false →
    (s.g.s0.stage = [] → s.g.s1.stage = [] → s.g.y.sends = 0 → (∀ p ∈ s.g.y.pend, p.path ≠ some 6) →
      ∃ t, exec .exit s = .next t ∧ t.g.y.status = .exited ∧ t.g.s0 = Stream.reset ∧ t.g.s1 = Stream.reset ∧
        t.g.r = s.g.r ∧ t.g.sys = s.g.sys ∧ OthersRun s t ∧ Inside s t) ∧
    (s.g.s0.stage ≠ [] ∨ s.g.s1.stage ≠ [] ∨ s.g.y.sends ≠ 0 ∨ (∃ p ∈ s.g.y.pend, p.path = some 6) →
      ∃ t, exec .exit s = .next t ∧ t.g.r = s.g.r ∧ t.g.sys = s.g.sys ∧ t.g.y.status = .waiting .exit ∧
        t.g.s0 = { s.g.s0 with full := if s.g.s0.full = 0 then s.g.s0.stage.length else s.g.s0.full } ∧
        t.g.s1 = { s.g.s1 with full := if s.g.s1.full = 0 then s.g.s1.stage.length else s.g.s1.full } ∧
        NothingSent s t ∧ OthersKept s t ∧ Outside [] s t) ∧
    (∃ t, exec .yield s = .next t ∧ RegistersOnly [] s t ∧ Moved [] s s t 4 ∧
      ∀ (q : Quad) (p h : Nat), q = (s.core s.cn).quad (s.cur % 64 % 4) → q.posOf s.cur = some p →
        (if s.coreInvar s.cn then q.fifo.head? else q.fifo.find? s.isReady) = some h →
        let u := (t.core s.cn).quad (s.cur % 64 % 4)
        tget none u.active p = some h ∧ u.fifo = q.fifo.erase h ++ [s.cur] ∧
        ∀ p2, p2 ≠ p → tget none u.active p2 = tget none q.active p2))

/-- TLBI removes the translations of its range and waits until they have drained. A privileged TLBI removes from every
core's TLB, every copy engine's and the link die's translation cache exactly the entries of its address space (all,
where G[c] bit 31 is set) whose page meets its range (the whole space, where the size is 0), with the view entries
held for contexts of that space, and waits. TLBI_DRAINED satisfies that wait once no transfer to translated memory is
outstanding; the migration entries whose own TLBI this is then go on: DONE ones retire, inbound moving ones may fetch;
the TLBI then retires. A waiting move's own TLBI is one that covers its page when the page table entry has been
rewritten (log 40, the model's reading). Unprivileged, it takes the privileged-instruction trap. (spec/14 R375;
spec/02 R37; spec/02 R42; spec/16 R408.) -/
def Obligations.Shootdown : Prop :=
  (∀ (s : State) (g : BitVec 6), Runs s (blockSels g 4) [] s → s.priv = true →
    let w := fun (i : Nat) => ((s.cmds g 4).getD i 0).toNat
    let lo := w 1 * 2 ^ 16 + w 2 % 2 ^ 9 * 2 ^ 48
    let hit := fun (e : TlbEntry) =>
      (decide (w 0 / 2 ^ 31 = 1) || decide (e.asid.toNat = w 0 % 2 ^ 13)) &&
        (decide (w 3 = 0) && decide (e.va < 2 ^ 57) ||
          decide (e.va < lo + w 3 * 2 ^ 16) && decide (lo < e.va + pageBytes e.psz)) 
    let kept := fun (l : List TlbEntry) => l.filter (fun e => !hit e)
    let views := fun (l : List (Nat × Nat × Nat)) => l.filter (fun e =>
      !(decide (w 0 / 2 ^ 31 = 1) || decide ((s.ctx e.1).asid.toNat = w 0 % 2 ^ 13)))
    (∀ p, 0 < pageBytes p) ∧
    (s.g.y.tlbi = none → w 0 / 2 ^ 13 % 2 ^ 18 = 0 → w 2 / 2 ^ 9 = 0 →
      ∃ t, exec (.tlbi g) s = .next t ∧ t.g.y.status = .waiting .shootdown ∧ t.g.y.tlbi = some false ∧
        t.link.tlb = kept s.link.tlb ∧ t.link.views = views s.link.views ∧ t.maps = s.maps.filter (fun e => !hit e || s.leads e) ∧
        { t.link with tlb := [], views := [] } = { s.link with tlb := [], views := [] } ∧
        (∀ c, (t.core c).tlb = kept (s.core c).tlb ∧ (t.core c).ctlb = kept (s.core c).ctlb ∧
          (t.core c).views = views (s.core c).views ∧
          { t.core c with tlb := [], ctlb := [], views := [], quads := [] } =
            { s.core c with tlb := [], ctlb := [], views := [], quads := [] }) ∧
        (∀ k, { (t.grp k).r with bt := [] } = { (s.grp k).r with bt := [] } ∧ (t.grp k).sys = (s.grp k).sys) ∧
        (∀ k, { t.stk k with sets := [], mig := [] } = { s.stk k with sets := [], mig := [] } ∧
          ∀ i, let e := (s.stk k).entry i
            let own := e.waits && (s.shoot (shootOf (s.cmds g 4))).rewritten e (fun a va n =>
              (decide (w 0 / 2 ^ 31 = 1) || decide (a.toNat = w 0 % 2 ^ 13)) &&
                (decide (w 3 = 0) && decide (va < 2 ^ 57) || decide (va < lo + w 3 * 2 ^ 16) && decide (lo < va + n)))
            (t.stk k).entry i = if own then { e with tlb := some s.cur } else e) ∧
        (∀ d, { t.die d with nopin := [] } = { s.die d with nopin := [] }) ∧
        { t with groups := [], cores := [], stks := [], dies := [], maps := [], link := s.link } =
          { s with groups := [], cores := [], stks := [], dies := [], maps := [] }) ∧
    (s.g.y.tlbi = some true → ∃ t, exec (.tlbi g) s = .next t ∧ RegistersOnly [] s t ∧ Moved [] s s t 4) ∧
    (Enters s → s.g.y.tlbi = none → w 0 / 2 ^ 13 % 2 ^ 18 ≠ 0 ∨ w 2 / 2 ^ 9 ≠ 0 →
      ∃ t, exec (.tlbi g) s = .next t ∧ Entered [] s t 1 0 0 0 s.g.r.exm s.g.r.pc)) ∧
  (∀ (s : State) (g : BitVec 6), Enters s → s.priv = false →
    ∃ t, exec (.tlbi g) s = .next t ∧ Entered [] s t 2 0 0 0 s.g.r.exm s.g.r.pc) ∧
  (∀ (s : State) (gk : Nat), (s.grp gk).y.tlbi = some false → (∀ x ∈ s.link.fab.xfers, x.dst < 0x8000) →
    ∃ t, exec (.tlbiDrained gk) s = .next t ∧ (t.grp gk).y.tlbi = some true ∧ (∀ w, (t.grp gk).y.status ≠ .waiting w) ∧
      (t.grp gk).r = (s.grp gk).r ∧ (∀ k, k ≠ gk → t.grp k = s.grp k) ∧
      (∀ k i, let e := (s.stk k).entry i
        (t.stk k).entry i =
          if e.tlb = some gk ∧ e.st = .done then { e with st := .retired, tlb := none }
          else if e.tlb = some gk ∧ e.st = .moving ∧ e.otgt ≠ 0 ∧ e.run = false then { e with run := true, tlb := none }
          else e) ∧
      { t with groups := [], stks := [] } = { s with groups := [], stks := [] })

/-- GENFENCE installs the pending rank table and ends what the old generation had in flight; RTSWAP swaps tables. A
privileged GENFENCE with a pending table of another generation makes it current, installs its generation, leaves no
collective active, and ends every posted receive with class 7; it writes the generation to Gd and retires once the
receives that it ended have been delivered, and waits until then (the model's choice, log 67); with no such table it
writes 0x80000000 and changes nothing. RTSWAP makes the pending table current and writes 0 when nothing is busy,
writes 1 when a collective or receive is, and 2 when no table is pending. Unprivileged, both take the privileged-
instruction trap. (spec/14 R374; spec/17 R426; spec/12 R329; spec/11 R305; spec/16 R408.) -/
def Obligations.Generations : Prop :=
  (∀ (s : State) (d : BitVec 6), Runs s [] [.g (uniReg s d)] s → s.priv = true →
    (∀ p, s.g.y.fence = none → s.link.mem.pend = some p → p.gen ≠ s.link.mem.gen →
      ∃ t, exec (.genfence d) s = .next t ∧
        t.link.mem = { s.link.mem with cur := some p, pend := none, gen := p.gen } ∧
        (t.oldReceives = false → t.g.r.getG (uniReg s d) = p.gen.zeroExtend 32 ∧ t.g.r.pc = s.g.r.pc + 4) ∧
        (t.oldReceives = true → t.g.y.fence = some (uniReg s d, p.gen.zeroExtend 32) ∧
          t.g.y.status = .waiting .messages ∧ t.g.r.pc = s.g.r.pc) ∧
        t.g.r.v = s.g.r.v ∧ t.g.r.b = s.g.r.b ∧ t.g.r.exm = s.g.r.exm ∧ t.g.r.spp = s.g.r.spp ∧
        t.link.colls = [] ∧
        ∀ c, (t.ctx c).posted = [] ∧ (t.ctx c).unexp = [] ∧
          ∀ r ∈ (s.ctx c).posted, ∃ r2 ∈ (t.ctx c).taken, r2.handle = r.handle ∧ r2.gk = r.gk ∧ r2.cls = some 7) ∧
    (∀ f, s.g.y.fence = some f →
      (s.oldReceives = false →
        ∃ t, exec (.genfence d) s = .next t ∧ RegistersOnly [] s t ∧ t.g.y.status = .ready ∧
          (∀ n, t.g.r.getG n = if n = f.1 then f.2 else s.g.r.getG n) ∧ t.g.r.pc = s.g.r.pc + 4) ∧
      (s.oldReceives = true →
        ∃ t, exec (.genfence d) s = .next t ∧ Waits [] s t .messages false ∧ OthersKept s t ∧ Outside [] s t)) ∧
    (s.g.y.fence = none → s.link.mem.pend = none ∨ (∃ p, s.link.mem.pend = some p ∧ p.gen = s.link.mem.gen) →
      ∃ t, exec (.genfence d) s = .next t ∧ UniDone [] s s t 4 d 0x80000000) ∧
    (∀ p, s.link.mem.pend = some p → s.swapBusy = false →
      ∃ t, exec (.rtswap d) s = .next t ∧ t.link.mem = { s.link.mem with cur := some p, pend := none } ∧
        (∀ n, t.g.r.getG n = if n = uniReg s d then 0 else s.g.r.getG n) ∧
        { t.g.r with g := [], hg := [] } = { s.g.r with g := [], hg := [], pc := s.g.r.pc + 4 } ∧ OthersKept s t ∧
        { t with groups := [], cores := [], link := s.link } = { s with groups := [], cores := [] } ∧
        { t.link with mem := s.link.mem } = s.link) ∧
    (∀ p, s.link.mem.pend = some p → s.swapBusy = true → ∃ t, exec (.rtswap d) s = .next t ∧ UniDone [] s s t 4 d 1) ∧
    (s.link.mem.pend = none → s.swapBusy = false → ∃ t, exec (.rtswap d) s = .next t ∧ UniDone [] s s t 4 d 2)) ∧
  (∀ (s : State) (d : BitVec 6), Enters s → s.priv = false →
    (∃ t, exec (.genfence d) s = .next t ∧ Entered [] s t 2 0 0 0 s.g.r.exm s.g.r.pc) ∧
    (∃ t, exec (.rtswap d) s = .next t ∧ Entered [] s t 2 0 0 0 s.g.r.exm s.g.r.pc))

namespace Sys2Proof.Claims

/-- No page is on the move, so that every address is served at its own place (02 R41). -/
def NotMigrating (s : State) : Prop := ∀ p ∈ s.stks, ∀ q ∈ p.2.mig, q.2.st ≠ .moving ∧ q.2.st ≠ .done

end Sys2Proof.Claims

/-- TACQ takes an accumulator, and ACCXFER stores and loads its image. A privileged TACQ of an allocated name whose
tile no started instruction uses puts the team's tag on that tile and changes nothing else. A write of a legal value
to ACCXFER waits with the transfer asked for. ACCXFER_SAVE then stores elements, N-sums and promotion count of the
tile at ACCIMG and satisfies the wait; ACCXFER_LOAD reads them back into the team's tile, whose tag stays. The
transfer's moment (a wait that a later event ends, log 54) and the parts of the image (log 53) are the model's choice.
Unprivileged, TACQ takes the privileged-instruction trap. (spec/14 R376; spec/16 R412; spec/16 R413; spec/09 R235.) -/
def Obligations.AccumulatorImages : Prop :=
  (∀ (s x : State) (a : Sel) (v p : Nat), Runs s [a] [] x → s.priv = true → v = (x.laneVal a.src 0).toNat →
    v < 4 → s.t.accMap[v]? = some p → s.tileBusy s.cn p = false →
    ∃ t, exec (.tacq a) s = .next t ∧ Moved [a.src] s x t 4 ∧ OthersKept s t ∧
      (t.core s.cn).tile1 p = { (s.core s.cn).tile1 p with owner := some (s.t.ctx, s.t.slot), team := s.cur / 64 } ∧
      (∀ c q, c ≠ s.cn ∨ q ≠ p → (t.core c).tile1 q = (s.core c).tile1 q) ∧
      (∀ c, { t.core c with acc := [], turn := 0, quads := [] } = { s.core c with acc := [], turn := 0, quads := [] }) ∧
      { t with groups := [], teams := [], cores := [] } = { s with groups := [], teams := [], cores := [] }) ∧
  (∀ (s : State) (a : Sel), Enters s → s.priv = false →
    ∃ t, exec (.tacq a) s = .next t ∧ Entered [] s t 2 0 0 0 s.g.r.exm s.g.r.pc) ∧
  (∀ (s x : State) (n : BitVec 6) (a : Sel) (v : W32), Runs s [a, ⟨.g n, false⟩] [] x → s.priv = true →
    x.laneVal (.g n) 0 = 0x120 → v = x.laneVal a.src 0 → s.g.y.accx = none → s.g.r.exm = x.g.r.exm → v.toNat < 16 →
    (v.getLsbD 3 = true → v.toNat % 4 < s.t.accMap.length ∧ s.owns (s.cur / 64) (s.t.phys (v.toNat % 4)) = true) →
    s.tileBusy s.cn (if v.getLsbD 3 then s.t.phys (v.toNat % 4) else v.toNat % 4) = false →
    ∃ t, exec (.swr n a) s = .next t ∧ t.g.y.status = .waiting .accum ∧ t.g.y.accx = some false ∧
      { t.g.sys with clkh := 0 } = { s.g.sys with accxfer := v, clkh := 0 } ∧
      (a.src ≠ .special 7 → t.g.sys.clkh = s.g.sys.clkh) ∧ t.g.r = s.g.r ∧ OthersKept s t ∧ Outside [a.src] s t) ∧
  (∀ (s : State) (gk : Nat) (a : Acc) (b : Nat), (s.grp gk).y.accx = some false →
    NotMigrating s → b = (s.grp gk).sys.accimg.toNat → a = (s.core (s.coreNoG gk)).tile1 (s.xferTile gk) →
    ((s.grp gk).sys.accxfer.getLsbD 3 = false →
      ∃ t, exec (.accxferSave gk) s = .next t ∧ (t.grp gk).y.accx = some true ∧
        (∀ w, (t.grp gk).y.status ≠ .waiting w) ∧ t.cores = s.cores ∧
        (∀ i, i < 16384 → leNat (mread t.hbm (b + 4 * i) 4) = (tget 0 a.vals i).toNat) ∧
        (∀ i, i < 16384 → leNat (mread t.hbm (b + 65536 + 4 * i) 4) = (tget NSum.reset a.ns i).word.toNat) ∧
        mget t.hbm (b + 131072) = BitVec.ofNat 8 a.c ∧
        (∀ y, y < b ∨ b + 131328 ≤ y → mget t.hbm y = mget s.hbm y)) ∧
    ((s.grp gk).sys.accxfer.getLsbD 3 = true →
      ∃ t u, exec (.accxferLoad gk) s = .next t ∧ (t.grp gk).y.accx = some true ∧
        (∀ w, (t.grp gk).y.status ≠ .waiting w) ∧ t.hbm = s.hbm ∧
        u = (t.core (s.coreNoG gk)).tile1 (s.xferTile gk) ∧ u.owner = a.owner ∧ u.bad = false ∧
        (∀ i, i < 16384 → tget 0 u.vals i = BitVec.ofNat 32 (leNat (mread s.hbm (b + 4 * i) 4))) ∧
        (∀ i, i < 16384 → tget NSum.reset u.ns i = wordNSum (BitVec.ofNat 32 (leNat (mread s.hbm (b + 65536 + 4 * i) 4)))) ∧
        u.c = (mget s.hbm (b + 131072)).toNat % 16))

namespace Sys2Proof.Claims

/-- The lowest bit of a BSET field in a buffer record (07 R179; 05 R120). -/
def fieldLow : BField → Nat
  | .baseLo => 0
  | .baseHi => 32
  | .ext0 => 64
  | .ext1 => 96
  | .stride0 => 128
  | .stride1 => 160
  | .w6 => 192
  | .w7 => 224

/-- An instruction that writes buffer record `k` to `v` and nothing else: its BT becomes invalid, the others keep
theirs. -/
def RecordSet (srcs : List Src) (s x t : State) (len k : Nat) (v : BitVec 256) : Prop :=
  RegistersOnly srcs s t ∧ SysKept srcs s t ∧ t.g.sys.fpflags = s.g.sys.fpflags ∧ t.g.sys.srcnt = s.g.sys.srcnt ∧
  (∀ j, t.g.r.getB j = if j = k then v else s.g.r.getB j) ∧
  (∀ j, t.g.r.getBT j = if j = k then BT.reset else s.g.r.getBT j) ∧
  { t.g.r with b := [], bt := [] } =
    { s.g.r with b := [], bt := [], exm := x.g.r.exm, pc := s.g.r.pc + BitVec.ofNat 64 len }

end Sys2Proof.Claims

/-- Buffer records are set, and translated explicitly. BLD loads Bk with the 32 bytes of the team's tile memory at a +
b, a 32-bit sum; an offset that is no multiple of 32 takes the alignment trap, one whose 32 bytes pass the visible
size the tile-bounds trap, with the sum in TADDR and no effect. BSET replaces the 32-bit field F of Bk by b; BSET.ADD
adds the sign-extended b to its 64-bit BASE. No other bit, register or byte of memory changes. For a record in a space
that is not translated here BXLATE writes 0x3C1. For space 3, 4 or 6 whose base translates with the record's target it
writes DONE, CLASS 0, PSZ, TGT, W and X of the leaf, and the BT becomes valid with the physical address; where the
translation fails, the BT is invalid and CLASS is 3 for a translation fault, 4 for a supervisor rule, 6 for a target
that disagrees. No other register and no memory changes. (spec/07 R179; spec/07 R180; spec/05 R120; spec/02 R36;
spec/04 R98; spec/07 R181.) -/
def Obligations.RecordsAndTranslation : Prop :=
  ((∀ (s x : State) (k : BitVec 4) (a : Sel) (b : UOpd) (o : Nat), Runs s (a :: uniSels b) [] x →
    o = (x.laneVal a.src 0 + uniOpd x b).toNat →
    let srcs := a.src :: (uniSels b).map (fun a => a.src)
    (∀ p, o % 32 = 0 → o + 32 ≤ s.l.visible → p = TLoc.data s.cn (s.t.base * 4096 + o) → x.inStaging p 32 = false →
      ∃ t, exec (.bld k a b) s = .next t ∧
        RecordSet srcs s x t (uniBytes b) k.toNat (BitVec.ofNat 256 (leNat (s.tread p 32)))) ∧
    (o % 32 ≠ 0 → Enters s →
      ∃ t, exec (.bld k a b) s = .next t ∧ Entered [] s t 0xA 0 (BitVec.ofNat 64 o) 0 s.g.r.exm s.g.r.pc) ∧
    (o % 32 = 0 → s.l.visible < o + 32 → Enters s →
      ∃ t, exec (.bld k a b) s = .next t ∧ Entered [] s t 8 0 (BitVec.ofNat 64 o) 0 s.g.r.exm s.g.r.pc)) ∧
  (∀ (s x : State) (k : BitVec 4) (f : BField) (b : UOpd), Runs s (uniSels b) [] x →
    let srcs := (uniSels b).map (fun a => a.src)
    let v := uniOpd x b
    (∃ t r, exec (.bset k f b) s = .next t ∧ RecordSet srcs s x t (uniBytes b) k.toNat r ∧
      ∀ i, r.getLsbD i = if fieldLow f ≤ i ∧ i < fieldLow f + 32 then v.getLsbD (i - fieldLow f)
        else (s.g.r.getB k.toNat).getLsbD i) ∧
    (∃ t r, exec (.bsetAdd k b) s = .next t ∧ RecordSet srcs s x t (uniBytes b) k.toNat r ∧
      rBase r = rBase (s.g.r.getB k.toNat) + v.signExtend 64 ∧
      ∀ i, 64 ≤ i → r.getLsbD i = (s.g.r.getB k.toNat).getLsbD i))) ∧
  (∀ (s : State) (d : BitVec 6) (k : BitVec 4) (rc : BitVec 256), Runs s [] [.g (uniReg s d)] s → rc = s.g.r.getB k.toNat →
    (rSpace rc ≠ 3 → rSpace rc ≠ 4 → rSpace rc ≠ 6 →
      ∃ t, exec (.bxlate d k) s = .next t ∧ UniDone [] s s t 4 d 0x3C1) ∧
    (∀ tgt, (rSpace rc, tgt) ∈ [(3, 0), (4, 1), (6, 2)] →
      let r := s.xlate (.core s.cn) s.x.asid (rBase rc) tgt s.priv .read
      let frame := fun (t : State) =>
        (∀ n, n ≠ uniReg s d → t.g.r.getG n = s.g.r.getG n) ∧ (∀ j, j ≠ k.toNat → t.g.r.getBT j = s.g.r.getBT j) ∧
        { t.g.r with g := [], hg := [], bt := [] } = { s.g.r with g := [], hg := [], bt := [], pc := s.g.r.pc + 4 } ∧
        OthersKept s t ∧ (∀ c, { t.die c with nopin := [] } = { s.die c with nopin := [] }) ∧
        { t with groups := [], cores := [], dies := [], stks := [], maps := [], free := 0 } =
          { s with groups := [], cores := [], dies := [], stks := [], maps := [], free := 0 } ∧
        ∀ c, { t.core c with tlb := [], turn := 0, quads := [] } = { s.core c with tlb := [], turn := 0, quads := [] }
      (∀ a, r.1 = .ok a → ∃ t, exec (.bxlate d k) s = .next t ∧ frame t ∧
        t.g.r.getG (uniReg s d) = BitVec.ofNat 32 (1 + a.leaf / 2 ^ 3 % 2 * 2 ^ 4 + a.leaf / 2 ^ 2 % 2 * 2 ^ 5 +
          a.leaf / 2 ^ 8 % 4 * 2 ^ 6 + a.psz % 4 * 2 ^ 8) ∧
        (t.g.r.getBT k.toNat).valid = true ∧ (t.g.r.getBT k.toNat).pa = BitVec.ofNat 52 a.pa) ∧
      (∀ f, r.1 = .error f → ∃ t, exec (.bxlate d k) s = .next t ∧ frame t ∧ (t.g.r.getBT k.toNat).valid = false ∧
        (t.g.r.getG (uniReg s d)).toNat % 16 =
          1 + 2 * (match f with
            | .miss => 3
            | .perm _ => 4
            | .space => 6))))

/-- TTAG replaces the selected metadata fields of a run of segments. A TTAG that passes its checks, with earlier team
accesses performed where it writes TAG, replaces in each of its COUNT segments the fields that b selects (bits 11 to 9
by SBE, 8 by KE, 7 to 2 by SE, 1 to 0 by TE) by those of b, writes the first segment's old word to Gd and changes no
other metadata word, no byte and no other register; a segment that is FILLING makes it wait with the segments before
it done. A misaligned address takes the alignment trap, a run past the visible size the tile-bounds trap. (spec/07
R177; spec/07 R178; spec/07 R182; spec/04 R99.) -/
def Obligations.SegmentTags : Prop :=
  ∀ (s x : State) (d : BitVec 6) (a : Sel) (b : UOpd) (v : W32) (o n : Nat), Runs s (a :: uniSels b) [.g (uniReg s d)] x →
    o = (x.laneVal a.src 0).toNat → v = uniOpd x b → n = v.toNat / 2 ^ 16 % 2 ^ 9 + 1 → s.g.y.ttag = none →
    let srcs := a.src :: (uniSels b).map (fun a => a.src)
    let seg := s.t.base + o / 4096
    let word := fun (u : State) (i : Nat) => (u.core s.cn).meta1 (seg + i)
    let picks := fun (j : Nat) =>
      if 9 ≤ j ∧ j ≤ 11 then v.getLsbD 15 else if j = 8 then v.getLsbD 14
      else if 2 ≤ j ∧ j ≤ 7 then v.getLsbD 13 else if j ≤ 1 then v.getLsbD 12 else false
    let new := fun (i j : Nat) => if picks j then v.getLsbD j else (word s i).getLsbD j
    let others := fun (t : State) (m : Nat) => OthersKept s t ∧
      (∀ k, k < seg ∨ seg + m ≤ k → (t.core s.cn).meta1 k = (s.core s.cn).meta1 k) ∧ (∀ c, c ≠ s.cn → t.core c = s.core c) ∧
      (∀ c, { t.core c with mdw := [], turn := 0, quads := [] } = { s.core c with mdw := [], turn := 0, quads := [] }) ∧
      { t with groups := [], teams := [], cores := [] } = { s with groups := [], teams := [], cores := [] }
    (s.ttagErr (s.cur / 64) (x.laneVal a.src 0) v = none → (v.getLsbD 12 = true → s.released .team = true) →
      ((∀ i, i < n → (word s i).toNat % 4 ≠ 1) →
        ∃ t, exec (.ttag d a b) s = .next t ∧ others t n ∧
          (∀ i j, i < n → j < 32 → (word t i).getLsbD j = new i j) ∧
          GroupKept srcs s t ∧ NothingSent s t ∧ SysKept srcs s t ∧
          (∀ k, t.g.r.getG k = if k = uniReg s d then word s 0 else s.g.r.getG k) ∧
          { t.g.r with g := [], hg := [] } =
            { s.g.r with g := [], hg := [], exm := x.g.r.exm, pc := s.g.r.pc + BitVec.ofNat 64 (uniBytes b) }) ∧
      (∀ m, m < n → (∀ i, i < m → (word s i).toNat % 4 ≠ 1) → (word s m).toNat % 4 = 1 → s.g.r.exm = x.g.r.exm →
        ∃ t, exec (.ttag d a b) s = .next t ∧ others t m ∧ (∀ i j, i < m → j < 32 → (word t i).getLsbD j = new i j) ∧
          t.g.r = s.g.r ∧ (.special 7 ∉ srcs → t.g.sys = s.g.sys) ∧ t.g.y.status = .waiting .engine ∧
          t.g.y.ttag = some (m, if m = 0 then 0 else word s 0))) ∧
    (o % 4096 ≠ 0 → Enters s →
      ∃ t, exec (.ttag d a b) s = .next t ∧ Entered [] s t 0xA 0 (BitVec.ofNat 64 o) 0 s.g.r.exm s.g.r.pc) ∧
    (o % 4096 = 0 → s.l.visible < o + 4096 * n → Enters s →
      ∃ t, exec (.ttag d a b) s = .next t ∧ Entered [] s t 8 0 (BitVec.ofNat 64 o) 0 s.g.r.exm s.g.r.pc)

namespace Sys2Proof.Claims

/-- A copy command of group `gk` on engine `e` has ended between `s` and `t`: it is off the engine, its status register
holds its status word and is full, path 4 is lowered by 1, Q3 takes its entry where QEN asks (03 R65, R66, R68); no other
register of any group changes, and no byte of memory. -/
def CopyEnds (s t : State) (e : Eng) (c : CopyCmd) (gk : Nat) : Prop :=
  t.cmdsOf e = (s.cmdsOf e).filter (fun x => decide (x.id ≠ c.id)) ∧
  (∀ n, (t.grp gk).r.getG n = if n = c.gd then BitVec.ofNat 32 (c.detail % 65536 * 65536 +
    min ((c.bytes + 32767) / 32768) 4095 * 16 + c.cls % 8 * 2 + 1) else (s.grp gk).r.getG n) ∧
  (t.grp gk).r.emptyG c.gd = false ∧ (t.grp gk).y.path 4 = (s.grp gk).y.path 4 - 1 ∧
  (t.grp gk).y.q3 = (s.grp gk).y.q3 ++
    (if c.qen then [BitVec.ofNat 32 (2048 + c.cls % 8 * 256 + c.ctag % 256)] else []) ∧
  { (t.grp gk).r with g := [], hg := [], gEmpty := 0 } = { (s.grp gk).r with g := [], hg := [], gEmpty := 0 } ∧
  (∀ k, k ≠ gk → (t.grp k).r = (s.grp k).r ∧ (t.grp k).y.q3 = (s.grp k).y.q3 ∧ (t.grp k).y.paths = (s.grp k).y.paths) ∧
  t.hbm = s.hbm ∧ t.pool = s.pool ∧ t.host = s.host ∧ t.peer = s.peer ∧
  (∀ side co b, tileByte t side co b = tileByte s side co b)

end Sys2Proof.Claims

/-- BCOPY, BCOPYM and PSTW give a command to the copy engine. With the command block full, a place on the engine (the
link die's for a side in space 5, otherwise the core's), no command of the group still to come back from a pre-
emption, and room on path 4, each captures its words, the records its w0 names, seed and privilege as one command at
the tail of the engine's queue, marks Gd empty and counts 1 on path 4; a command that breaks a check has its class and
DETAIL from the start. No other register and no memory changes. With the engine full the group waits. (spec/03 R45;
spec/03 R46; spec/03 R47; spec/03 R49; spec/07 R169; spec/07 R174; spec/07 R175.) -/
def Obligations.CopyIssue : Prop :=
  ∀ (s : State) (d g : BitVec 6) (i : Instr) (pstw follow : Bool) (e : Eng) (w0 : W32),
    (i, pstw, follow) ∈ [(Instr.bcopy d g, false, false), (.bcopym d g, false, true), (.pstw d g, true, false)] →
    Runs s (blockSels g (if pstw then 4 else 8)) [.g (uniReg s d)] s → w0 = s.cmd g 0 →
    let rc := fun (lo : Nat) => s.g.r.getB (w0.toNat / 2 ^ lo % 16)
    e = (if ((pstw || w0.toNat % 16 != 1) && rSpace (rc 4) == 5) || rSpace (rc 8) == 5 then .link else .core s.cn) →
    ((s.cmdsOf e).length < (if e = .link then 256 else 32) → s.g.y.path 4 < 65535 →
      (∀ p ∈ s.t.saveCopies, p.1.gk ≠ some s.cur) →
      ∃ (t : State) (c : CopyCmd), exec i s = .next t ∧ t.cmdsOf e = s.cmdsOf e ++ [c] ∧
        c.gk = some s.cur ∧ c.gd = uniReg s d ∧ c.w = s.cmds g (if pstw then 4 else 8) ∧ c.pstw = pstw ∧ c.follow = follow ∧
        c.s = rc 4 ∧ c.d = rc 8 ∧ c.t = rc 12 ∧ c.seed = s.l.seed ∧ c.priv = s.priv ∧ c.ctx = s.t.ctx ∧ c.id = s.nextCopy ∧
        c.pos = 0 ∧ c.bytes = 0 ∧
        (s.copyErr { c with st := .queued, cls := 0, detail := 0 } = none → c.st = .queued ∧ c.cls = 0) ∧
        (∀ x, s.copyErr { c with st := .queued, cls := 0, detail := 0 } = some x →
          c.st = .done ∧ c.cls = x.1 ∧ c.detail = x.2) ∧
        (∀ p, t.g.y.path p = if p = 4 then s.g.y.path 4 + 1 else s.g.y.path p) ∧
        (∀ n, t.g.r.emptyG n = (s.g.r.emptyG n || (decide (n = uniReg s d) && decide (n < 64)))) ∧
        { t.g.r with gEmpty := 0 } = { s.g.r with gEmpty := 0, pc := s.g.r.pc + 4 } ∧ t.g.sys = s.g.sys ∧ OthersKept s t ∧
        (∀ k, { t.core k with copies := [], turn := 0, quads := [] } = { s.core k with copies := [], turn := 0, quads := [] }) ∧
        { t with groups := [], cores := [], nextCopy := 0, link := { t.link with copies := s.link.copies } } =
          { s with groups := [], cores := [], nextCopy := 0 }) ∧
    ((if e = .link then 256 else 32) ≤ (s.cmdsOf e).length →
      ∃ t, exec i s = .next t ∧ Waits [] s t .engine false ∧ OthersKept s t ∧ Outside [] s t)

namespace Sys2Proof.Claims

/-- A command of group `gk` that core `n`'s engine may move: not begun, TAGW 2 and TAGR 2 or 3, RM 0, one row of `m` elements
at destination row 0. -/
def OneRow (s : State) (n id gk : Nat) (c : CopyCmd) (kind m : Nat) : Prop :=
  s.cmdOf (.core n) id = some c ∧ s.cmdActive (.core n) c = true ∧ c.gk = some gk ∧ c.pstw = false ∧ c.pos = 0 ∧ c.sat = 0 ∧
  c.filling = [] ∧ c.reading = [] ∧ c.gather = none ∧ c.word 0 % 16 = kind ∧ c.word 0 / 2 ^ 16 % 4 = 2 ∧
  2 ≤ c.word 0 / 2 ^ 18 % 4 ∧ c.word 0 / 2 ^ 20 % 8 = 0 ∧ c.word 4 = 0 ∧ c.word 5 = m ∧ 0 < m ∧ m ≤ 32 ∧
  c.word 6 % 2 ^ 20 = 1 ∧ (kind = 3 → c.word 6 / 2 ^ 20 % 2 ^ 12 = 1) ∧ rRo c.d = false ∧ 0 < rExt1 c.d ∧
  c.word 3 + m ≤ rExt0 c.d

/-- `m` elements of `w` bytes and format `fmt`, from element `o` of row 0 of a record based at `base`, stand in team `tk`'s
tile memory from byte `a` of its core on, in segments without a swizzle. -/
def RowAt (s : State) (tk : Nat) (rc : BitVec 256) (base : W64) (fmt w o m a : Nat) : Prop :=
  rSpace rc = 0 ∧ rFmt rc = fmt ∧ rSwz rc = 0 ∧ rStr0 rc = w ∧ a = (s.team tk).base * 4096 + base.toNat + w * o ∧
  base.toNat + w * (o + m) ≤ (s.launch (s.team tk).launch).visible ∧ (s.launch (s.team tk).launch).visible ≤ 2 ^ 24 ∧
  (s.core (s.team tk).core).badSegs = [] ∧
  ∀ b, a ≤ b → b < a + w * m → s.stamped (.data (s.team tk).core b) = .data (s.team tk).core b

/-- A copy command is done without error, having moved `bits` destination bits. -/
def PieceDone (t : State) (n id : Nat) (c : CopyCmd) (bits : Nat) : Prop :=
  ∃ c2, t.cmdOf (.core n) id = some c2 ∧ c2.st = .done ∧ c2.cls = 0 ∧ c2.detail = 0 ∧ c2.bytes = c.bytes + bits ∧
    c2.gd = c.gd ∧ c2.gk = c.gk

/-- Bytes `[a, a + n)` of core `co`'s tile memory apart, every byte of tile memory and of the side bands is as before. -/
def TileElse (s t : State) (co a n : Nat) : Prop :=
  ∀ side k b, ¬ (side = false ∧ k = co ∧ a ≤ b ∧ b < a + n) → tileByte t side k b = tileByte s side k b

/-- What an element becomes by the command's KIND (03 R54, R61): the format and bytes of the destination's element, and the
bytes written, from the source's word `v` and the destination's old word `old`. -/
def elementOf (kind : Nat) : Option (Nat × Nat × (Nat → Nat → List Byte)) :=
  match kind with
  | 0 => some (8, 4, fun v _ => leBytes 4 v)
  | 2 => some (0x0A, 2, fun v _ => leBytes 2 (narrow bf16 .rne 0 (unpack fp32 v)).bits)
  | 3 => some (8, 4, fun v _ => leBytes 4 v)
  | 4 => some (8, 4, fun v old => leBytes 4 (fAdd fp32 .rne 0 old v).bits)
  | _ => none

/-- A coherent segment of core `n`'s die, at its home, which the core's cache has room for (04 R91 to R93). -/
def HomeSeg (s : State) (n a : Nat) : Prop :=
  (s.core n).segs.length < 128 ∧ (s.die (n / 96)).soft (a / 4096) = false ∧
  (∀ o, tget DirSt.i (s.die (n / 96)).dir (a / 4096) ≠ .u o) ∧ ∀ v ∈ (s.core n).segs, v.seg = a / 4096 → v.soft = false

end Sys2Proof.Claims

/-- A copy engine moves, requeues and completes its commands. COPY_PIECE of a row of up to 32 words of a team's tile
memory, tags off, leaves in each destination element what KIND makes of the source: COPY and GATHER (one outer index,
its base read from the table) the word, CONVERT to BF16 its RNE narrowing, REDUCE the FP32 sum with the old word, FILL
the fill word; no other byte of tile memory changes and the command is done with class 0. One-element FILLs reach a
coherent segment of the scratchpad and HBM, one-element COPYs come from there. COPY_TAG_REQUEUE moves an active
command whose tags are not ready to the tail. COPY_COMPLETION of a done command, and Q3_HELD_RELEASE of a held one,
end it where Q3 has room: status word written, path 4 lowered, Q3 entry appended; a CONVERT to a format that keeps
AMAX raises its block's AMAX first. FOLLOW_ON_FIRE puts a held command's tile instruction into the array queue once
there is a place, and ends the command. (spec/03 R45; spec/03 R50; spec/03 R52; spec/03 R54; spec/03 R60; spec/03 R61;
spec/03 R62; spec/03 R64; spec/03 R66; spec/03 R68; spec/05 R124; spec/09 R226.) -/
def Obligations.CopyEngine : Prop :=
  (∀ (s : State) (n id gk m at0 : Nat) (c : CopyCmd), OneRow s n id gk c 1 m →
    RowAt s (gk / 64) c.d (rBase c.d) 2 4 (c.word 3) m at0 →
    ∃ t : State, exec (.copyPiece (.core n) id) s = .next t ∧ PieceDone t n id c (32 * m) ∧
      (∀ j, j < m → t.tread (.data (s.team (gk / 64)).core (at0 + 4 * j)) 4 = leBytes 4 (c.word 1)) ∧
      TileElse s t (s.team (gk / 64)).core at0 (4 * m) ∧ { t with cores := [] } = { s with cores := [] }) ∧
  (∀ (s : State) (n id gk kind m fmt w src at0 : Nat) (f : Nat → Nat → List Byte) (base : W64) (c : CopyCmd),
    OneRow s n id gk c kind m → elementOf kind = some (fmt, w, f) → c.word 2 = 0 → 0 < rExt1 c.s →
    c.word 1 + m ≤ rExt0 c.s → (kind = 2 → rTcb c.d = 0) →
    (if kind = 3 then
      ∃ tab, RowAt s (gk / 64) c.t (rBase c.t) (rFmt c.t) (rStr0 c.t) 0 1 tab ∧ 8 ≤ rStr0 c.t ∧ 0 < rExt0 c.t ∧
        base.toNat = leNat (s.tread (.data (s.team (gk / 64)).core tab) 8) ∧ base.toNat % 4 = 0
    else base = rBase c.s) →
    RowAt s (gk / 64) c.s base 8 4 (c.word 1) m src → RowAt s (gk / 64) c.d (rBase c.d) fmt w (c.word 3) m at0 →
    src + 4 * m ≤ at0 ∨ at0 + w * m ≤ src →
    let word := fun (a : Nat) => leNat (s.tread (.data (s.team (gk / 64)).core a) 4)
    ∃ t : State, exec (.copyPiece (.core n) id) s = .next t ∧ PieceDone t n id c (8 * w * m) ∧
      (∀ j, j < m → t.tread (.data (s.team (gk / 64)).core (at0 + w * j)) w = f (word (src + 4 * j)) (word (at0 + w * j))) ∧
      TileElse s t (s.team (gk / 64)).core at0 (w * m) ∧ { t with cores := [] } = { s with cores := [] }) ∧
  (∀ (s : State) (n id gk a : Nat) (c : CopyCmd), OneRow s n id gk c 1 1 → rFmt c.d = 2 → rStr0 c.d = 4 →
    let va := rBase c.d + BitVec.ofNat 64 (4 * c.word 3)
    (rSpace c.d = 2 → a = va.toNat → a + 4 ≤ spadBytes → s.spadOk (n / 96) (s.ctx c.ctx).asid a = true → HomeSeg s n a →
      ∃ t : State, exec (.copyPiece (.core n) id) s = .next t ∧ PieceDone t n id c 32 ∧
        mread (t.die (n / 96)).spad a 4 = leBytes 4 (c.word 1) ∧ t.hbm = s.hbm ∧ t.groups = s.groups ∧
        (∀ y, y < a ∨ a + 4 ≤ y → mget (t.die (n / 96)).spad y = mget (s.die (n / 96)).spad y) ∧
        ∀ side k b, tileByte t side k b = tileByte s side k b) ∧
    (∀ x u, rSpace c.d = 3 → s.xlate (.copy n) (s.ctx c.ctx).asid va 0 c.priv .write = (.ok x, u) → x.tgt = 0 →
      NotMigrating s →
      ∃ t : State, exec (.copyPiece (.core n) id) s = .next t ∧ PieceDone t n id c 32 ∧
        mread t.hbm x.pa 4 = leBytes 4 (c.word 1) ∧ t.groups = s.groups ∧
        (∀ y, y < x.pa ∨ x.pa + 4 ≤ y → mget t.hbm y = mget s.hbm y) ∧
        ∀ side k b, tileByte t side k b = tileByte s side k b)) ∧
  (∀ (s : State) (n id gk at0 : Nat) (c : CopyCmd), OneRow s n id gk c 0 1 → c.word 2 = 0 → 0 < rExt1 c.s →
    c.word 1 < rExt0 c.s → rFmt c.s = 8 → rStr0 c.s = 4 → RowAt s (gk / 64) c.d (rBase c.d) 8 4 (c.word 3) 1 at0 →
    let va := rBase c.s + BitVec.ofNat 64 (4 * c.word 1)
    ∀ bytes : List Byte,
    (rSpace c.s = 2 ∧ va.toNat + 4 ≤ spadBytes ∧ s.spadOk (n / 96) (s.ctx c.ctx).asid va.toNat = true ∧
      HomeSeg s n va.toNat ∧ bytes = mread (s.die (n / 96)).spad va.toNat 4) ∨
    (rSpace c.s = 3 ∧ ∃ x u, s.xlate (.copy n) (s.ctx c.ctx).asid va 0 c.priv .read = (.ok x, u) ∧ x.tgt = 0 ∧
      NotMigrating s ∧ x.pa % 4 = 0 ∧ s.pbad 0 x.pa 4 = false ∧ bytes = mread s.hbm x.pa 4) →
    ∃ t : State, exec (.copyPiece (.core n) id) s = .next t ∧ PieceDone t n id c 32 ∧
      t.tread (.data (s.team (gk / 64)).core at0) 4 = bytes ∧ TileElse s t (s.team (gk / 64)).core at0 4 ∧
      t.hbm = s.hbm ∧ t.groups = s.groups) ∧
  (∀ (s : State) (e : Eng) (id : Nat) (c : CopyCmd), s.cmdOf e id = some c → c.st = .active → c.pos < c.total →
    s.cReady (copyAg e c) c c.pos = false →
    ∃ t, exec (.copyTagRequeue e id) s = .next t ∧
      t.cmdsOf e = (s.cmdsOf e).filter (fun x => decide (x.id ≠ id)) ++ [{ c with st := .queued }] ∧
      (∀ k, { t.core k with copies := [] } = { s.core k with copies := [] }) ∧
      { t with cores := [], link := { t.link with copies := s.link.copies } } = { s with cores := [] }) ∧
  (∀ (s : State) (e : Eng) (gk : Nat) (c : CopyCmd), c.gk = some gk → c.bound = [] → c.cls ≠ 5 →
    (∀ p ∈ s.teams, p.2.st = .resident → p.2.saveCopies = []) →
    (c.qen = true → (s.grp gk).y.q3.length < 16) →
    (s.cmdOf e c.id = some c → c.st = .done → c.follow = false ∨ c.cls ≠ 0 →
      let keeps := c.kind = 2 ∧ (rFmt c.d = 0x0B ∨ rFmt c.d = 0x0C ∨ isBlock (rFmt c.d) = true) ∧
        (0 < c.pos ∨ 0 < c.rd ∨ c.amax ≠ 0)
      ∃ t z, exec (.copyCompletion e c.id) s = .next t ∧ CopyEnds z t e c gk ∧ z.groups = s.groups ∧
        (¬ keeps → z = s) ∧ (keeps → z = s.raiseAmax (engHolder e) c.ctx (rTcb c.d) c.amax)) ∧
    (e ∈ s.engines → s.q3Held e gk = some c → (∀ e2 ∈ s.engines, e2 ≠ e → s.q3Held e2 gk = none) →
      ∃ t, exec (.q3HeldRelease gk) s = .next t ∧ CopyEnds s t e c gk) ∧
    (∀ (w : W32) (op : TileOp) (u : State), s.cmdOf e c.id = some c → c.st = .held →
      c.follow = true → c.cls = 0 → c.fword = some w → s.queueFull (gk / 64) = false →
      s.followOp gk w = some (op, u) →
      ∃ t, exec (.followOnFire e c.id) s = .next t ∧ CopyEnds u t e c gk ∧
        (t.core (s.coreNoG gk)).queue = (s.core (s.coreNoG gk)).queue ++
          [⟨gk / 64, gk % 64, op, (s.team (gk / 64)).tileNo, false⟩])) ∧
  (∀ (s : State) (e : Eng) (gk : Nat) (c : CopyCmd), s.cmdOf e c.id = some c → c.st = .done → c.gk = some gk → c.kind ≠ 2 →
    c.follow = false → c.qen = true → 16 ≤ (s.grp gk).y.q3.length →
    ∃ t, exec (.copyCompletion e c.id) s = .next t ∧ t.cmdOf e c.id = some { c with st := .held } ∧ t.groups = s.groups) ∧
  (∀ (s : State) (h : Holder) (cx i : Nat) (v : W32) (a b : XAddr) (u w : State),
    let va := (s.ctx cx).tcbbase + BitVec.ofNat 64 (64 * i)
    let old := leNat (mread s.hbm a.pa 4)
    (i = 0 → s.raiseAmax h cx i v = s) ∧
    (i ≠ 0 → s.xlate h (s.ctx cx).asid va 0 true .read = (.ok a, u) →
      (u.l2range 0 a.pa 4 0 false).xlate h (s.ctx cx).asid va 0 true .write = (.ok b, w) → a.tgt = 0 → b.tgt = 0 →
      b.pa = a.pa → NotMigrating s →
      mread (s.raiseAmax h cx i v).hbm a.pa 4 = leBytes 4 (if old ≤ 0x7F800000 ∧ v.toNat ≤ old then old else v.toNat) ∧
      ∀ y, y < a.pa ∨ a.pa + 4 ≤ y → mget (s.raiseAmax h cx i v).hbm y = mget s.hbm y))

namespace Sys2Proof.Claims

/-- The entry of handle `h` of a context's view table holds `e`, at the place where it can be read and written. -/
def ViewIs (s : State) (cx h e : Nat) : Prop :=
  0 < h ∧ (s.viewEntry cx h).1 = some e ∧
  ∃ a, (s.xlate .link (s.ctx cx).asid ((s.ctx cx).viewAddr h) 0 true .write).1 = .ok a

/-- The link die holds the translation of a handle's entry already. -/
def ViewCached (s : State) (cx h : Nat) : Prop :=
  (s.xlate .link (s.ctx cx).asid ((s.ctx cx).viewAddr h) 0 true .read).2 = s

/-- The fields of a live view besides CUR, SHD, VERSION, LV, DIRTY and SPIN, which the manual gives other rules for. -/
def viewRest (e : Nat) : List Nat :=
  [e % 2 ^ 192, e / 2 ^ 224 % 2 ^ 26, e / 2 ^ 254 % 2 ^ 18, e / 2 ^ 297 % 2 ^ 87, e / 2 ^ 480]

/-- VERSION of a view entry (03 R74). -/
def viewVersion (e : Nat) : Nat := e / 2 ^ 192 % 2 ^ 32

end Sys2Proof.Claims

/-- PUBLISH makes the shadow current, and snapshots pin a version. PUBLISH of a live view with a shadow, once its
group's copies into that shadow have ended and its earlier accesses of the scope are performed, makes SHD the current
slot, adds 1 to VERSION, notes it as that slot's, clears DIRTY, and makes the old slot the shadow if nothing pins it,
else the third slot where that has pages and no pin, else none; registers stay. A handle with no such view takes the
view fault. SNAPSHOT_OPEN of a version held by a current or pinned slot raises that slot's SPIN and makes the free
handle a snapshot of it; where that slot is the shadow, the third slot takes its place, or none. SNAPSHOT_CLOSE frees
the handle and lowers the SPIN; a slot that this leaves without a pin becomes the shadow where there was none.
(spec/03 R74; spec/03 R76; spec/03 R78; spec/03 R79; spec/03 R80; spec/07 R173.) -/
def Obligations.Views : Prop :=
  (∀ (s x : State) (sc : Scope) (a : Sel) (h e cx : Nat), Runs s [a] [] x → h = (x.laneVal a.src 0).toNat → h < 65536 →
    cx = s.t.ctx → NotMigrating s → ViewIs s cx h e → vOk e = true → vKind e = 1 → vShd e ≠ 3 →
    (∀ k ∈ s.cores, ∀ c ∈ k.2.copies, c.gk = some s.cur → c.shadows h = false) →
    (∀ c ∈ s.link.copies, c.gk = some s.cur → c.shadows h = false) →
    (∀ p ∈ s.t.saveCopies, p.1.gk = some s.cur → p.1.shadows h = false) → s.released sc = true →
    ∃ (t : State) (e2 : Nat), exec (.publish sc a) s = .next t ∧ ViewIs t cx h e2 ∧
      vCur e2 = vShd e ∧ viewVersion e2 = (viewVersion e + 1) % 2 ^ 32 ∧ vLv e2 (vShd e) = viewVersion e2 ∧
      (∀ f, f < 3 → f ≠ vShd e → vLv e2 f = vLv e f) ∧ (∀ f, f < 3 → vSpin e2 f = vSpin e f) ∧
      e2 / 2 ^ 296 % 2 = 0 ∧ viewRest e2 = viewRest e ∧ (s.pins cx h e (vCur e) = 0 → vShd e2 = vCur e) ∧
      (0 < s.pins cx h e (vCur e) → vCur e < 3 → vCur e ≠ vShd e → ∀ f, f < 3 → f ≠ vCur e → f ≠ vShd e →
        vShd e2 = if vList e f ≠ 0 ∧ s.pins cx h e f = 0 then f else 3) ∧
      Moved [a.src] s x t 4 ∧ OthersKept s t ∧ (∀ side co b, tileByte t side co b = tileByte s side co b)) ∧
  (∀ (s x : State) (sc : Scope) (a : Sel) (h : Nat), Runs s [a] [] x → Enters s → h = (x.laneVal a.src 0).toNat →
    h = 0 ∨ 65536 ≤ h →
    ∃ t, exec (.publish sc a) s = .next t ∧ Entered [] s t 0xE 0 (BitVec.ofNat 64 h) 0 s.g.r.exm s.g.r.pc) ∧
  (∀ (s : State) (cx handle live ver e old sl : Nat), NotMigrating s → (s.ctx cx).vtbase.toNat % 64 = 0 →
    handle < 65536 → live < 65536 → ver < 2 ^ 32 →
    ViewIs s cx live e → ViewCached s cx live → ViewIs s cx handle old → ViewCached s cx handle → vOk e = true → vKind e = 1 → vKind old = 0 → vSpin e sl < 255 → sl < 3 →
    vLv e sl = ver → (∀ f, f < sl → vLv e f ≠ ver) → sl = vCur e ∨ 0 < vSpin e sl ∨ sl = vShd e ∧ e / 2 ^ 296 % 2 = 0 →
    ∃ (t : State) (e2 q : Nat), exec (.snapshotOpen (.here cx) handle live ver) s = .next t ∧
      ViewIs t cx live e2 ∧ vSpin e2 sl = vSpin e sl + 1 ∧ vCur e2 = vCur e ∧ (sl ≠ vShd e → vShd e2 = vShd e) ∧
      (sl = vShd e → sl ≠ vCur e → vCur e < 3 → ∀ f, f < 3 → f ≠ vCur e → f ≠ sl →
        vShd e2 = if vList e f ≠ 0 ∧ s.pins cx live e f = 0 then f else 3) ∧
      viewVersion e2 = viewVersion e ∧ viewRest e2 = viewRest e ∧ (∀ f, f < 3 → f ≠ sl → vSpin e2 f = vSpin e f) ∧
      ViewIs t cx handle q ∧ vKind q = 2 ∧ q / 2 ^ 256 % 2 ^ 16 = live ∧ q / 2 ^ 297 % 4 = sl ∧ viewVersion q = ver ∧
      vPages q = vPages e ∧ t.groups = s.groups ∧
      (∀ k, { t.core k with views := [] } = { s.core k with views := [] })) ∧
  (∀ (s : State) (cx handle live e q sl : Nat), NotMigrating s → (s.ctx cx).vtbase.toNat % 64 = 0 →
    handle < 65536 → live < 65536 → ViewIs s cx live e → ViewCached s cx live →
    ViewIs s cx handle q → ViewCached s cx handle → vKind q = 2 →
    q / 2 ^ 256 % 2 ^ 16 = live → q / 2 ^ 297 % 4 = sl → vKind e = 1 → sl < 3 → 0 < vSpin e sl →
    ∃ (t : State) (e2 q2 : Nat), exec (.snapshotClose (.here cx) handle) s = .next t ∧
      ViewIs t cx live e2 ∧ vSpin e2 sl = vSpin e sl - 1 ∧ vCur e2 = vCur e ∧
      vShd e2 = (if vShd e = 3 ∧ sl ≠ vCur e ∧ vSpin e sl = 1 ∧ s.copyPins cx live sl = 0 then sl else vShd e) ∧
      viewRest e2 = viewRest e ∧ ViewIs t cx handle q2 ∧ vKind q2 = 0 ∧ t.groups = s.groups ∧
      (∀ k, { t.core k with views := [] } = { s.core k with views := [] }))

namespace Sys2Proof.Claims

/-- A tape instruction that changes the stream in slot `sl` to `y`, and possibly one uniform register, path 5 and the
queue selection, and nothing else of the machine. -/
def StreamDone (srcs : List Src) (s x t : State) (sl : Bool) (y : Stream) (len : Nat) (d : Option (Nat × W32))
    (sent : Nat) : Prop :=
  Outside srcs s t ∧ OthersKept s t ∧ SysKept srcs s t ∧ t.g.stream sl = y ∧
  (.q 0 ∉ srcs → .q 1 ∉ srcs → t.g.stream (!sl) = s.g.stream (!sl)) ∧
  t.g.y.pend = s.g.y.pend ∧ (∀ p, t.g.y.path p = s.g.y.path p + if p = 5 then sent else 0) ∧
  (∀ n, t.g.r.getG n = match d with
    | some v => if n = v.1 then v.2 else s.g.r.getG n
    | none => s.g.r.getG n) ∧
  { t.g.r with g := [], hg := [] } =
    { s.g.r with g := [], hg := [], exm := x.g.r.exm, pc := s.g.r.pc + BitVec.ofNat 64 len }

/-- A stream in RECORD in a bound slot with room for a record of `mx` bytes in the half of its staging area that takes
records and in its region (10 R241, R251, R255). -/
def Records (s : State) (sl : Bool) (mx : Nat) : Prop :=
  (if sl then 1 else 0) < s.l.ntape ∧ (s.g.stream sl).st = .record ∧ s.g.y.path 5 < 65535 ∧
  (((s.g.stream sl).stage.drop (s.g.stream sl).full).map (fun r => r.bytes.length)).sum + mx ≤ 4096 ∧
  (s.g.stream sl).len + mx ≤ rExt0 (if (s.g.stream sl).inSpill then (s.g.stream sl).spillRec else (s.g.stream sl).region)

/-- A stream in RECORD in a bound slot whose region has no room for a record of `mx` bytes more (10 R255). -/
def Overflows (s : State) (sl : Bool) (mx : Nat) : Prop :=
  (if sl then 1 else 0) < s.l.ntape ∧ (s.g.stream sl).st = .record ∧ s.g.y.path 5 < 65535 ∧
  rExt0 (if (s.g.stream sl).inSpill then (s.g.stream sl).spillRec else (s.g.stream sl).region) < (s.g.stream sl).len + mx

/-- The scale and the element codes of an LVALUE record of format `f` (10 R244, R246): the elements, 0 for threads outside the
mask, rounded under LRM. -/
def lossy (s : State) (x : Stream) (d : Nat) (f : BitVec 2) : Nat × (Nat → Nat) :=
  let fmt := if f = 0 then 0x14 else if f = 1 then 0x10 else if f = 2 then 0x18 else 0x1A
  let vals := (List.range 32).map (fun e =>
    unpack fp32 (if s.g.r.exm.getLsbD (e / 2) then s.g.r.getV (d + e % 2) (e / 2) else 0).toNat)
  let c := blockScale fmt vals
  (c, fun e => (narrowIn fmt c (if x.lrm then .rne else .sr)
    (philox (BitVec.ofNat 32 x.seq) (BitVec.ofNat 32 e) 3 0 s.l.seed (s.streamTcb x).seed % 65536)
    (vals.getD e (unpack fp32 0))).bits)

/-- A stream with the record of words `h :: body ++ [h]` appended, not yet drained (10 R244, R253). -/
def appended (x : Stream) (h : W32) (body : List W32) : Stream :=
  { x with
    stage := x.stage ++ [⟨x.inSpill, x.len, (h :: body ++ [h]).flatMap (fun w => leBytes 4 w.toNat), true⟩]
    len := x.len + 4 * (body.length + 2)
    seq := x.seq + 1 }

end Sys2Proof.Claims

/-- TREC, TBRK and TMARK append records that replay gives back. With the stream recording and room in the half in hand
and in the region, TREC VALUE and INDEX append one record whose header holds KIND, NM1, LEN and EXM, whose trailer
equals the header, and whose lanes decode to the registers of the active threads; TREC LVALUE one with the scale and
the packed codes of its 32 elements; TBRK a decision with the taken mask within EXM; TMARK a MARK with its identifier,
notes its place and writes 1 to Gd. Path 5 counts each record; no other register, stream or memory changes. A record
that overflows traps with L in TADDR under TRAP, is dropped with the rest of its range under DROP, and moves to the
spill region behind a LINK under SPILL; a MARK that overflows traps, and the first after a dropped range carries
DROPID. A closed stream takes the tape-state fault with code 1. (spec/10 R244; spec/10 R245; spec/10 R247; spec/10
R250; spec/10 R246; spec/10 R251; spec/10 R252; spec/10 R253; spec/10 R254; spec/10 R256; spec/10 R257.) -/
def Obligations.TapeRecording : Prop :=
  (∀ (s : State) (d : BitVec 7) (kind : TrecKind) (sl : BitVec 1) (n k : Nat),
    (n, k) ∈ [(match kind with
      | .value nm1 => nm1.toNat + 1
      | _ => 1, match kind with
      | .index => 3
      | _ => 0)] → (∀ f, kind ≠ .lvalue f) → d.toNat + n ≤ 128 →
    Runs s ((List.range n).map (fun i => ⟨.v (BitVec.ofNat 7 (d.toNat + i)), false⟩)) [] s →
    let x := s.g.stream (sl == 1)
    (Records s (sl == 1) (if k = 3 then 76 else 8 + 4 * ((n + 1) / 2) + 64 * n) →
      ∃ (t : State) (h : W32) (body : List W32), exec (.trec d kind sl) s = .next t ∧
        StreamDone [] s s t (sl == 1) (appended x h body) 8 none 1 ∧
        h.toNat = k * 2 ^ 29 + (n - 1) * 2 ^ 27 + body.length * 2 ^ 16 + s.g.r.exm.toNat ∧ body.length < 256 ∧
        ∀ w rnd i th, i < n → th < 16 → s.g.r.exm.getLsbD th = true →
          ((recLanes ⟨0, h, body, true, false⟩ w rnd).getD i []).getD th 0 = s.g.r.getV (d.toNat + i) th) ∧
    ((if sl = 1 then 1 else 0) < s.l.ntape → x.st = .closed → Enters s →
      ∃ t, exec (.trec d kind sl) s = .next t ∧ Entered [] s t 0x11 0 1 0 s.g.r.exm s.g.r.pc)) ∧
  (∀ (s : State) (d : BitVec 7) (f : BitVec 2) (sl : BitVec 1), d.toNat < 127 →
    Runs s ((List.range 2).map (fun i => ⟨.v (BitVec.ofNat 7 (d.toNat + i)), false⟩)) [] s →
    let x := s.g.stream (sl == 1)
    let w := if f = 0 ∨ f = 3 then 4 else 8
    Records s (sl == 1) (12 + 4 * w) →
    ∃ (t : State) (h : W32) (body : List W32), exec (.trec d (.lvalue f) sl) s = .next t ∧
      StreamDone [] s s t (sl == 1) (appended x h body) 8 none 1 ∧ body.length = 1 + w ∧
      h.toNat = 2 ^ 29 + 2 ^ 27 + f.toNat * 2 ^ 24 + (1 + w) * 2 ^ 16 + s.g.r.exm.toNat ∧
      body.getD 0 0 = BitVec.ofNat 32 (lossy s x d.toNat f).1 ∧
      ∀ i, i < w → body.getD (1 + i) 0 = BitVec.ofNat 32
        ((List.range 32).foldl (fun a e => a + (lossy s x d.toNat f).2 e * 2 ^ (w * e)) 0 / 2 ^ (32 * i))) ∧
  (∀ (s x : State) (sl : BitVec 1) (a : Sel), Runs s [a] [] x → Records x (sl == 1) 12 →
    ∃ t h, exec (.tbrk sl a) s = .next t ∧ h.toNat = 2 * 2 ^ 29 + 2 ^ 16 + x.g.r.exm.toNat ∧
      StreamDone [a.src] s x t (sl == 1)
        (appended (s.g.stream (sl == 1)) h [x.laneVal a.src 0 &&& x.g.r.exm.zeroExtend 32]) 4 none 1) ∧
  (∀ (s x : State) (sl : BitVec 1) (a : Sel), Runs s [a] [] x → Overflows x (sl == 1) 12 →
    let y := s.g.stream (sl == 1)
    (y.ovf = 0 ∨ (y.ovf = 1 ∧ y.inSpill = true) → Enters s →
      ∃ t, exec (.tbrk sl a) s = .next t ∧ Entered [] s t 0x12 0 (BitVec.ofNat 64 y.len) 0 s.g.r.exm s.g.r.pc) ∧
    (y.ovf = 2 → ∃ t, exec (.tbrk sl a) s = .next t ∧ StreamDone [a.src] s x t (sl == 1)
      { y with
        st := .dropping
        len := if y.marked then y.pm else 0
        dropId := if y.marked then y.markId else 0xFFFF
        seq := y.seq + 1 } 4 none 0) ∧
    (y.ovf = 1 → y.inSpill = false → ((y.stage.drop y.full).map (fun r => r.bytes.length)).sum + 24 ≤ 4096 →
      24 ≤ rExt0 y.spillRec →
      ∃ t h, exec (.tbrk sl a) s = .next t ∧ h.toNat = 2 * 2 ^ 29 + 2 ^ 16 + x.g.r.exm.toNat ∧
        StreamDone [a.src] s x t (sl == 1)
          (appended { y with
            stage := y.stage ++ [⟨true, 0, [5 * 2 ^ 29 + 2 ^ 16, y.len, 5 * 2 ^ 29 + 2 ^ 16].flatMap (leBytes 4), false⟩]
            inSpill := true
            len := 12 } h [x.laneVal a.src 0 &&& x.g.r.exm.zeroExtend 32]) 4 none 1)) ∧
  (∀ (s x : State) (sl : BitVec 1) (a : Sel), Runs s [a] [] x → (if sl = 1 then 1 else 0) < s.l.ntape →
    (s.g.stream (sl == 1)).st = .dropping → s.g.y.path 5 < 65535 →
    ∃ t, exec (.tbrk sl a) s = .next t ∧ StreamDone [a.src] s x t (sl == 1)
      { s.g.stream (sl == 1) with seq := (s.g.stream (sl == 1)).seq + 1 } 4 none 0) ∧
  (∀ (s x : State) (sl : BitVec 1) (d : BitVec 6) (b : UOpd), Runs s (uniSels b) [.g (uniReg s d)] x →
    let y := s.g.stream (sl == 1)
    (Overflows x (sl == 1) 12 → y.ovf = 0 ∨ y.ovf = 2 → Enters s →
      ∃ t, exec (.tmark sl d b) s = .next t ∧ Entered [] s t 0x12 0 (BitVec.ofNat 64 y.len) 0 s.g.r.exm s.g.r.pc) ∧
    ((if sl = 1 then 1 else 0) < s.l.ntape → y.st = .dropping → s.g.y.path 5 < 65535 →
      ((y.stage.drop y.full).map (fun r => r.bytes.length)).sum + 12 ≤ 4096 →
      y.len + 12 ≤ rExt0 (if y.inSpill then y.spillRec else y.region) →
      ∃ t h, exec (.tmark sl d b) s = .next t ∧ h.toNat = 4 * 2 ^ 29 + 2 ^ 24 + 2 ^ 16 + (uniOpd x b).toNat % 2 ^ 16 ∧
        StreamDone ((uniSels b).map (fun a => a.src)) s x t (sl == 1)
          { appended y h [y.dropId.zeroExtend 32] with
            st := .record
            marked := true
            pm := y.len
            markDrop := true
            markId := y.dropId } (uniBytes b) (some (uniReg s d, BitVec.ofNat 32 (3 + 2 ^ 16 * y.dropId.toNat))) 1) ∧
    (Records x (sl == 1) 12 →
    ∃ t h, exec (.tmark sl d b) s = .next t ∧ h.toNat = 4 * 2 ^ 29 + 2 ^ 16 + (uniOpd x b).toNat % 2 ^ 16 ∧
      StreamDone ((uniSels b).map (fun a => a.src)) s x t (sl == 1)
        { appended y h [0] with
          marked := true
          pm := y.len
          markDrop := false
          markId := (uniOpd x b).truncate 16 } (uniBytes b) (some (uniReg s d, 1)) 1))

/-- TOPEN, TREV and TCLOSE open, turn and close a stream, and the engine drains it. TOPEN of a closed bound slot whose
block passes its checks leaves the stream in RECORD, or in REPLAY at the given length, with the region, staging and
modes its block names. TREV, with everything drained, leaves it in REPLAY at its end with no record popped, selects it
for Q0 and Q1 and writes the length word; TCLOSE closes it and writes the length word, or all ones for a failed
stream. TAPE_DRAIN of a half of one record, with an active place of the copy engine free, takes it off once its bytes
are stored and lowers path 5. Nothing else of the group changes. (spec/10 R240; spec/10 R241; spec/10 R243; spec/10
R248; spec/10 R249; spec/10 R258; spec/10 R265.) -/
def Obligations.TapeStreams : Prop :=
  (∀ (s : State) (g : BitVec 6) (c st len : W32) (sl : Bool), Runs s (blockSels g 3) [] s → c = s.cmd g 0 → st = s.cmd g 1 →
    len = s.cmd g 2 → sl = c.getLsbD 0 → (if sl then 1 else 0) < s.l.ntape → (s.g.stream sl).st = .closed →
    s.topenBad c st len = false →
    let back := c.getLsbD 24
    ∃ t, exec (.topen g) s = .next t ∧ StreamDone [] s s t sl
      { Stream.reset with
        st := if back then .replay else .record
        lrm := c.getLsbD 23
        divp := c.getLsbD 22
        ovf := c.extractLsb' 20 2
        region := s.g.r.getB (c.extractLsb' 8 4).toNat
        spillRec := if c.extractLsb' 20 2 = 1 then s.g.r.getB (c.extractLsb' 16 4).toNat else 0
        staging := st
        len := if back then len.toNat % 2 ^ 31 else 0
        pos := if back then len.toNat % 2 ^ 31 else 0
        inSpill := back && len.getLsbD 31
        posSpill := back && len.getLsbD 31 } 4 none 0) ∧
  (∀ (s : State) (sl : BitVec 1) (d : BitVec 6), Runs s [] [.g (uniReg s d)] s → (if sl = 1 then 1 else 0) < s.l.ntape →
    let x := s.g.stream (sl == 1)
    let word := BitVec.ofNat 32 ((if x.inSpill then 2 ^ 31 else 0) + x.len)
    x.st ≠ .closed → x.stage = [] →
    (x.st ≠ .failed →
      ∃ t, exec (.trev sl d) s = .next t ∧ t.g.y.qsel = (sl == 1) ∧ StreamDone [] s s t (sl == 1)
        { x with
          st := .replay
          pos := x.len
          posSpill := x.inSpill
          popped := 0
          head := none
          q0 := 0 } 4 (some (uniReg s d, word)) 0) ∧
    (∃ t, exec (.tclose sl d) s = .next t ∧ t.g.y.qsel = s.g.y.qsel ∧
      StreamDone [] s s t (sl == 1) Stream.reset 4
        (some (uniReg s d, if x.st = .failed then 0xFFFFFFFF else word)) 0)) ∧
  (∀ (s q : State) (gk : Nat) (sl : Bool) (r : StageRec) (rest : List StageRec) (x : Stream), x = (s.grp gk).stream sl →
    x.stage = r :: rest → x.full = 1 → x.spoiled = false → (s.teamG gk).st = .resident →
    s.activeCmds (.core (s.coreNoG gk)) < 4 →
    s.eStore (s.tapeAg gk) (regionSide (if r.spill then x.spillRec else x.region) 1)
      (regionSpans (if r.spill then x.spillRec else x.region) r.off (r.bytes.length / 4)) r.bytes = (.ok (), q) →
    ∃ t, exec (.tapeDrain gk sl) s = .next t ∧ (t.grp gk).stream sl = { (q.grp gk).stream sl with
        stage := ((q.grp gk).stream sl).stage.tail
        full := ((q.grp gk).stream sl).full - 1 } ∧
      (t.grp gk).stream (!sl) = (q.grp gk).stream (!sl) ∧ (t.grp gk).r = (q.grp gk).r ∧
      (∀ p, (t.grp gk).y.path p = (q.grp gk).y.path p - if p = 5 ∧ r.counted = true then 1 else 0) ∧
      (∀ k, k ≠ gk → t.grp k = q.grp k) ∧ { t with groups := [] } = { q with groups := [] })

/-- TPOP, TBPOP and TMARK consume the record that TAPE_FETCH brought. In replay, with the fetched head record whole,
of the kind asked for and its TAG equal to EXM, or adopted as EXM under DIVP ADOPT: TPOP begins the write of its
registers for the threads of TAG, TBPOP of the taken mask and TAG, TMARK writes 1, or 3 and DROPID after a dropped
range; the record is popped: the position steps to its start and the replay count rises. TAPE_FETCH makes the record
that ends at the position the head, good when trailer and header agree. A read of Q0 (MOV) gives one register of the
head's lanes and pops after the last; a read of Q1 (GMOV) pops a decision. A TAG that differs without ADOPT is a
divergence fault with code 2. (spec/10 R257; spec/10 R258; spec/10 R259; spec/10 R260; spec/10 R261; spec/10 R263;
spec/10 R264.) -/
def Obligations.TapeReplay : Prop :=
  (∀ (s : State) (sl : BitVec 1) (x : Stream) (h : TapeHead), x = s.g.stream (sl == 1) → x.st = .replay →
    x.head = some h → h.good = true → h.bad = false → (if sl = 1 then 1 else 0) < s.l.ntape →
    let popped : Stream := { x with
      head := none
      pos := h.off
      q0 := 0
      popped := x.popped + 1 }
    let begun := fun (t : State) (dests : List Dest) (len : Nat) =>
      Outside [] s t ∧ OthersKept s t ∧ t.g.sys = s.g.sys ∧ t.g.stream (sl == 1) = popped ∧
      t.g.stream (sl != 1) = s.g.stream (sl != 1) ∧ t.g.y.pend = s.g.y.pend ++ [⟨dests, none, none⟩] ∧
      t.g.y.paths = s.g.y.paths ∧
      t.g.r = { dests.foldl Regs.markDest s.g.r with
        exm := hdrTag h.hdr
        pc := s.g.r.pc + BitVec.ofNat 64 len }
    let regs := match hdrKind h.hdr with
      | .lvalue => 2
      | .index => 1
      | _ => hdrNm1 h.hdr + 1
    (∀ (d : BitVec 7) (tb : Bool) (y : State), s.g.y.qsel = (sl == 1) → s.g.y.sampled = [] →
      Runs s [⟨.q 0, tb⟩] [.v d.toNat] y →
      ∃ t, exec (.mov d ⟨.q 0, tb⟩) s = .next t ∧ t.g.r.exm = hdrTag h.hdr ∧
        t.g.stream (sl == 1) = (if x.q0 + 1 < regs then { x with q0 := x.q0 + 1 } else popped) ∧
        t.g.stream (sl != 1) = s.g.stream (sl != 1) ∧
        ∀ th, th < 16 → t.g.r.getV d.toNat th =
          if (hdrTag h.hdr).getLsbD th then ((s.headLanes x h).getD x.q0 []).getD th 0 else s.g.r.getV d.toNat th) ∧
    (∀ (d : BitVec 6) (tb : Bool) (y : State), s.g.y.qsel = (sl == 1) → s.g.y.sampled = [] →
      Runs s [⟨.q 1, tb⟩] [.g (uniReg s d)] y →
      ∃ t, exec (.gmov d (.sel ⟨.q 1, tb⟩)) s = .next t ∧ t.g.r.exm = hdrTag h.hdr ∧ t.g.stream (sl == 1) = popped ∧
        t.g.stream (sl != 1) = s.g.stream (sl != 1) ∧ ∀ n, t.g.r.getG n = if n = uniReg s d then
          BitVec.ofNat 32 ((h.body.headD 0).toNat % 2 ^ 16 + 2 ^ 16 * (hdrTag h.hdr).toNat) else s.g.r.getG n) ∧
    (∀ (d : BitVec 7) (kind : TpopKind) (n : Nat),
      Runs s [] ((List.range n).map (fun i => DReg.v (d.toNat + i))) s → x.q0 = 0 →
      (∃ nm1, kind = .value nm1 ∧ n = nm1.toNat + 1 ∧ hdrNm1 h.hdr + 1 = n ∧ (hdrKind h.hdr = .value ∨ hdrKind h.hdr = .lvalue)) ∨
        (kind = .index ∧ n = 1 ∧ hdrKind h.hdr = .index) →
      (hdrTag h.hdr = s.g.r.exm ∨ x.divp = true →
        ∃ t, exec (.tpop d kind sl) s = .next t ∧
          begun t ((List.range n).map (fun i => .v (d.toNat + i) (hdrTag h.hdr) ((s.headLanes x h).getD i []))) 8) ∧
      (hdrTag h.hdr ≠ s.g.r.exm → x.divp = false → Enters s →
        ∃ t, exec (.tpop d kind sl) s = .next t ∧
          Entered [] s t 0x13 2 (BitVec.ofNat 64 h.off) (hdrTag h.hdr) s.g.r.exm s.g.r.pc)) ∧
    (∀ (d : BitVec 6), Runs s [] [.g (uniReg s d)] s → hdrKind h.hdr = .decision →
      hdrTag h.hdr = s.g.r.exm ∨ x.divp = true →
      ∃ t, exec (.tbpop sl d) s = .next t ∧
        begun t [.g (uniReg s d) (BitVec.ofNat 32 ((h.body.headD 0).toNat % 2 ^ 16 + 2 ^ 16 * (hdrTag h.hdr).toNat))] 4) ∧
    (∀ (d : BitVec 6) (w : W32), Runs s [] [.g (uniReg s d)] s → hdrKind h.hdr = .mark → hdrTag h.hdr = w.truncate 16 →
      ∃ t, exec (.tmark sl d (.imm w)) s = .next t ∧ StreamDone [] s s t (sl == 1) popped 8
        (some (uniReg s d, if hdrSub h.hdr % 2 = 1 then BitVec.ofNat 32 (3 + 2 ^ 16 * ((h.body.headD 0).toNat % 2 ^ 16)) else 1)) 0)) ∧
  (∀ (s q1 q2 : State) (gk : Nat) (sl : Bool) (x : Stream) (rc : BitVec 256) (h tr : W32) (body : List W32),
    x = (s.grp gk).stream sl → x.st = .replay → x.head = none → 8 + 4 * body.length ≤ x.pos → x.spoiled = false →
    (s.teamG gk).st = .resident → rc = (if x.posSpill then x.spillRec else x.region) → hdrLen tr = body.length →
    s.regionRead (s.tapeAg gk) rc (x.pos - 4) 1 false = (.ok ([tr], false), q1) →
    q1.regionRead (s.tapeAg gk) rc (x.pos - (8 + 4 * body.length)) (1 + body.length) false = (.ok (h :: body, false), q2) →
    (x.posSpill = true → hdrKind tr ≠ .link) →
    ∃ t, exec (.tapeFetch gk sl) s = .next t ∧
      (t.grp gk).stream sl = { (q2.grp gk).stream sl with head := some ⟨x.pos - (8 + 4 * body.length), tr, body,
        h == tr && hdrKind tr != .reserved, false⟩ } ∧
      (t.grp gk).r = (q2.grp gk).r ∧ (∀ k, k ≠ gk → t.grp k = q2.grp k) ∧ { t with groups := [] } = { q2 with groups := [] })

namespace Sys2Proof.Claims

/-- The tile instructions that enter the array queue (09 R211, R218, R227, R229 to R232): length, sources in field order,
and what is captured. -/
def tileOps (x : State) (i : Instr) : Option (Nat × List Sel × TileOp) :=
  let rec3 := fun (c : W32) => x.g.r.getB (c.extractLsb' 0 4).toNat
  let mode := fun (c : W32) => if c.extractLsb' 8 3 = 7 then x.g.sys.rmode.truncate 3 else c.extractLsb' 8 3
  match i with
  | .tmma acc g ctl =>
    let c := uniOpd x ctl
    let seg := c.getLsbD 27
    some (uniBytes ctl, blockSels g (if seg then 2 else 1) ++ uniSels ctl,
      .tmma acc.toNat c (x.cmd g 0) (if seg then x.cmd g 1 else 0))
  | .tdual a w g ctl =>
    some (uniBytes ctl, blockSels g 2 ++ uniSels ctl, .tdual a.toNat w.toNat (uniOpd x ctl) (x.cmd g 0) (x.cmd g 1))
  | .tprom acc _ => some (4, [], .tprom acc.toNat)
  | .tzero acc _ => some (4, [], .tzero acc.toNat)
  | .tsta acc g ctl =>
    let c := uniOpd x ctl
    some (uniBytes ctl, blockSels g 1 ++ uniSels ctl, .tsta acc.toNat c (x.cmd g 0) (rec3 c) (mode c))
  | .tlda acc g ctl =>
    let c := uniOpd x ctl
    some (uniBytes ctl, blockSels g 1 ++ uniSels ctl, .tlda acc.toNat c (x.cmd g 0) (rec3 c))
  | _ => none

/-- Only core `c` and the group at issue have changed, core `c` only in its scheduling positions and, where it changes
at all, its array queue. -/
def QueueOnly (s t : State) (c : Nat) : Prop :=
  OthersKept s t ∧ { t with groups := [], teams := [], cores := [] } = { s with groups := [], teams := [], cores := [] } ∧
  (∀ k, { t.core k with queue := [], turn := 0, quads := [] } = { s.core k with queue := [], turn := 0, quads := [] }) ∧
  ∀ k, k ≠ c → (t.core k).queue = (s.core k).queue

/-- One product step on an accumulator (09 R223 to R225): every N-sum takes the products of its row and column, the count
rises, and at `p` the elements are promoted. -/
def Mma (a b : Acc) (rows cols : List (List TBlk)) (strict : Bool) (p : Nat) : Prop :=
  let next := fun (i j : Nat) => nsumStep (tget NSum.reset a.ns (128 * i + j))
    (((rows.getD i []).zip (cols.getD j [])).flatMap (fun q => blkTerms strict q.1 q.2))
  (a.c + 1 < p → b.c = (a.c + 1) % 16 ∧ ∀ i j, i < 128 → j < 128 →
    tget NSum.reset b.ns (128 * i + j) = next i j ∧ tget 0 b.vals (128 * i + j) = tget 0 a.vals (128 * i + j)) ∧
  (p ≤ a.c + 1 → b.c = 0 ∧ (∀ k, k < 16384 → tget NSum.reset b.ns k = NSum.reset) ∧ ∀ i j, i < 128 → j < 128 →
    tget 0 b.vals (128 * i + j) = promote1 (tget 0 a.vals (128 * i + j)) (next i j))

/-- Element `k` of an accumulator lies in the window of a record from `o` on (09 R230). -/
def inWindow (rc : BitVec 256) (o : W32) (k : Nat) : Prop :=
  o.toNat / 2 ^ 16 + k / 128 < rExt1 rc ∧ o.toNat % 2 ^ 16 + k % 128 < rExt0 rc

/-- Its byte in the record. -/
def windowAt (rc : BitVec 256) (w : Nat) (o : W32) (k : Nat) : Nat :=
  (rBase rc).toNat + (o.toNat / 2 ^ 16 + k / 128) * rStr1 rc + (o.toNat % 2 ^ 16 + k % 128) * w

/-- A window of elements of `w` bytes in a team's tile memory, every element of it below the visible size and outside elements
dropped. -/
def Window (s : State) (tk w : Nat) (rc : BitVec 256) (o : W32) : Prop :=
  rSpace rc = 0 ∧ rSwz rc = 0 ∧ rStr0 rc = w ∧ (rBchk rc = 0 ∨ rBchk rc = 2) ∧ rRo rc = false ∧
  w * rExt0 rc ≤ rStr1 rc ∧ (s.launch (s.team tk).launch).visible ≤ 2 ^ 24 ∧
  ∀ k, k < 16384 → inWindow rc o k → windowAt rc w o k + w ≤ (s.launch (s.team tk).launch).visible

end Sys2Proof.Claims

/-- Tile instructions enter the array queue, and TMAXR waits for the team's earlier ones. TMMA, TDUAL, TPROM, TZERO,
TSTA and TLDA of a full quartet that pass the checks, name accumulators under the team's tag, write through no read-
only record (log 101) and find the queue short of 8 and no saved instruction of the team before them, retire with
their operands captured at its tail under the team's next number; nothing else changes. In an incomplete quartet they
take the tensor-configuration trap with code 1; with the queue full, or a saved instruction of the team still to enter
it (the model's reading, log 100), they wait. TMAXR marks Gd empty and begins its write when the team has no tile
instruction open, else waits behind those. (spec/09 R210; spec/09 R211; spec/09 R218; spec/09 R220; spec/09 R227;
spec/09 R229; spec/09 R230; spec/09 R234; spec/09 R235; spec/16 R412.) -/
def Obligations.TileIssue : Prop :=
  (∀ (s x : State) (i : Instr) (len : Nat) (sels : List Sel) (op : TileOp), tileOps x i = some (len, sels, op) →
    Runs s sels [] x →
    let srcs := sels.map (fun a => a.src)
    let quartet := s.cur % 64 / 4
    (quartet * 4 + 3 < s.l.groups → quartet ∉ s.t.tileErr → s.tileCode s.cur op = none → s.foreign (s.cur / 64) op = none →
      rRo op.rcd = false →
      ((s.core s.cn).queue.length < 8 → s.t.savedTiles = [] →
        ∃ t, exec i s = .next t ∧ Moved srcs s x t len ∧ QueueOnly s t s.cn ∧ t.t.tileNo = s.t.tileNo + 1 ∧
          (t.core s.cn).queue = (s.core s.cn).queue ++ [⟨s.cur / 64, s.cur % 64, op, s.t.tileNo, false⟩]) ∧
      (8 ≤ (s.core s.cn).queue.length ∨ s.t.savedTiles ≠ [] → s.g.r.exm = x.g.r.exm →
        ∃ t, exec i s = .next t ∧ Waits srcs s t .array false ∧ OthersKept s t ∧ Outside srcs s t)) ∧
    (s.l.groups ≤ quartet * 4 + 3 → Enters s →
      ∃ t, exec i s = .next t ∧ Entered [] s t 0xF 0 1 0 s.g.r.exm s.g.r.pc)) ∧
  (∀ (s x : State) (d g : BitVec 6) (b : UOpd) (v : W32), Runs s (uniSels b) [.g (uniReg s d)] x → v = uniOpd x b →
    s.t.tileErr = [] → v.toNat < 512 →
    (∀ a ∈ uniSels b, a.src ≠ .q 2) →
    let marked := fun (t : State) =>
      { t.g.r with gEmpty := 0 } = { s.g.r with gEmpty := 0, exm := x.g.r.exm, pc := s.g.r.pc + BitVec.ofNat 64 (uniBytes b) } ∧
      (∀ n, t.g.r.emptyG n = (s.g.r.emptyG n || (decide (n = uniReg s d) && decide (n < 64)))) ∧ OthersKept s t ∧
      t.g.y.paths = s.g.y.paths
    (0 < s.tileOpen (s.cur / 64) →
      ∃ t, exec (.tmaxr d g b) s = .next t ∧ marked t ∧ t.g.y.pend = s.g.y.pend ∧
        t.t = { s.t with maxr := s.t.maxr ++
          [⟨s.cur % 64, uniReg s d, v.toNat % 256, v.getLsbD 8, s.t.tileNo⟩] } ∧
        (∀ k, k ≠ s.cur / 64 → t.team k = s.team k) ∧
        { t with groups := [], teams := [], cores := [] } = { s with groups := [], teams := [], cores := [] }) ∧
    (s.tileOpen (s.cur / 64) = 0 →
      ∃ t, exec (.tmaxr d g b) s = .next t ∧ marked t ∧ (∀ k, t.team k = s.team k) ∧
        t.g.y.pend = s.g.y.pend ++
          [⟨[.g (uniReg s d) (s.tcb (.core s.cn) s.t.ctx (v.toNat % 256)).1.amax], none, none⟩]))

/-- A started tile instruction acts on its accumulators, and its end frees its segments. TILE_START of an instruction
that may start moves it from the queue to the running ones. TZERO leaves every element and N-sum +0 and the count 0;
TPROM promotes every element and clears N-sums and count; TMMA adds to each N-sum the products of its row and column,
element by element, counts 1, and promotes when the count reaches P; TDUAL does so on its two accumulators, the second
with the gradient's columns; TLDA (FP32) loads the elements of its window, canonical NaN and 0 where dropped; TSTA
(FP32 or BF16, RNE) stores the promoted elements of its window and clears the accumulator under CLR. Where B registers
are still empty TILE_START only moves the instruction. TILE_COMPLETE takes a running instruction off, turns the
segments of a TSTA's window VALID (KEEP under TAGW 1, tag kept under TAGW 2), leaves its consumed source segments
without KEEP CONSUMED, and releases exactly those TMAXRs of the team before which no instruction is open any more.
(spec/09 R212; spec/09 R223; spec/09 R224; spec/09 R225; spec/09 R227; spec/09 R229; spec/09 R231; spec/09 R232;
spec/09 R234; spec/03 R62.) -/
def Obligations.TileRun : Prop :=
  (∀ (s : State) (core pos : Nat) (c : TileCmd), (s.core core).queue[pos]? = some c → s.canStart core pos = true →
    s.tileBroken c = false → (s.team c.team).core = core → (∀ tk ∈ (s.core core).teams, (s.team tk).savedTiles = []) →
    let at1 := fun (u : State) (n : Nat) => (u.core core).tile1 ((s.team c.team).phys n)
    let started := fun (t : State) (ns : List Nat) =>
      (t.core core).queue = (s.core core).queue.eraseIdx pos ∧ (t.core core).running = (s.core core).running ++ [{ c with unread := !s.bregsReady c }] ∧
      (∀ k, (t.grp k).r = (s.grp k).r) ∧ (∀ k, t.team k = s.team k) ∧ t.hbm = s.hbm ∧
      (∀ co p, co ≠ core ∨ p ∉ ns.map (s.team c.team).phys → (t.core co).tile1 p = (s.core co).tile1 p) ∧
      (∀ n ∈ ns, (at1 t n).owner = (at1 s n).owner) ∧ ∀ side co b, tileByte t side co b = tileByte s side co b
    let clear := fun (t : State) (n : Nat) => (at1 t n).c = 0 ∧ ∀ k, k < 16384 → tget NSum.reset (at1 t n).ns k = NSum.reset
    (s.bregsReady c = false → ∃ t, exec (.tileStart core pos) s = .next t ∧ started t []) ∧
    (∀ n, s.bregsReady c = true → c.op = .tzero n → ∃ t, exec (.tileStart core pos) s = .next t ∧ started t [n] ∧ clear t n ∧
      ∀ k, k < 16384 → tget 0 (at1 t n).vals k = 0) ∧
    (∀ n, s.bregsReady c = true → c.op = .tprom n → ∃ t, exec (.tileStart core pos) s = .next t ∧ started t [n] ∧ clear t n ∧
      ∀ k, k < 16384 → tget 0 (at1 t n).vals k = promote1 (tget 0 (at1 s n).vals k) (tget NSum.reset (at1 s n).ns k)) ∧
    (∀ n ctl a b, s.bregsReady c = true → c.op = .tmma n ctl a b →
      let rows := s.segRows core (s.segKey c.team a % 512) (ctlA ctl)
      let cols := if ctlS ctl then s.segRows core (s.segKey c.team b % 512) (ctlB ctl)
        else s.regCols c.team (c.g / 4) (ctlVb ctl) (ctlB ctl)
      ∃ t, exec (.tileStart core pos) s = .next t ∧ started t [n] ∧
        Mma (at1 s n) (at1 t n) rows cols (ctlStrict ctl) (ctlP ctl)) ∧
    (∀ x w ctl g x0, s.bregsReady c = true → c.op = .tdual x w ctl g x0 →
      (s.team c.team).phys x ≠ (s.team c.team).phys w →
      let sl := ctl.toNat / 2 ^ 29
      let seg := s.segKey c.team g % 512
      ∃ t, exec (.tileStart core pos) s = .next t ∧ started t [x, w] ∧
        Mma (at1 s x) (at1 t x) (s.segRows core (seg + sl) (ctlA ctl))
          (s.regCols c.team (c.g / 4) (ctlVb ctl) (ctlB ctl)) false (ctlP ctl) ∧
        Mma (at1 s w) (at1 t w) (s.segRows core (s.segKey c.team x0 % 512) (ctlA ctl))
          (s.gradCols core seg sl (ctlA ctl)) false (ctlP ctl)) ∧
    (∀ n ctl o rc, s.bregsReady c = true → c.op = .tlda n ctl o rc → rFmt rc = 8 → Window s c.team 4 rc o →
      (s.core core).badSegs = [] →
      ∃ t, exec (.tileStart core pos) s = .next t ∧ started t [n] ∧ clear t n ∧ ∀ k, k < 16384 →
        (¬ inWindow rc o k → tget 0 (at1 t n).vals k = 0) ∧
        (inWindow rc o k →
          let v := leNat (s.treadL (.data core ((s.team c.team).base * 4096 + windowAt rc 4 o k)) 4)
          tget 0 (at1 t n).vals k = if v % 2 ^ 31 > 0x7F800000 then 0x7FC00000 else BitVec.ofNat 32 v)) ∧
    (∀ n ctl o rc fmt w, s.bregsReady c = true → c.op = .tsta n ctl o rc 0 → (fmt, w) ∈ [(8, 4), (0x0A, 2)] →
      rFmt rc = fmt → rTcb rc = 0 → Window s c.team w rc o → ctl.toNat / 2 ^ 6 % 4 = 2 →
      let old := fun (k : Nat) => promote1 (tget 0 (at1 s n).vals k) (tget NSum.reset (at1 s n).ns k)
      let byte := fun (k : Nat) => (s.team c.team).base * 4096 + windowAt rc w o k
      ∃ t, exec (.tileStart core pos) s = .next t ∧ clear t n ∧ t.hbm = s.hbm ∧
        (∀ k, k < 16384 → tget 0 (at1 t n).vals k = if ctl.getLsbD 11 then 0 else old k) ∧
        (∀ k, k < 16384 → inWindow rc o k → t.tread (.data core (byte k)) w =
          leBytes w (if fmt = 8 then (old k).toNat else (narrow bf16 .rne 0 (unpack fp32 (old k).toNat)).bits)) ∧
        ∀ side co b, (∀ k, k < 16384 → inWindow rc o k → ¬ (side = false ∧ co = core ∧ byte k ≤ b ∧ b < byte k + w)) →
          tileByte t side co b = tileByte s side co b)) ∧
  (∀ (s : State) (core i n : Nat) (ctl o : W32) (rc : BitVec 256) (rm : BitVec 3) (c : TileCmd),
    (s.core core).running[i]? = some c → c.unread = false → c.op = .tsta n ctl o rc rm → (s.team c.team).core = core →
    (∀ r ∈ (s.core core).running.take i, r.op.isSta = false) →
    let tagw := ctl.toNat / 2 ^ 6 % 4
    ∃ t, exec (.tileComplete core i) s = .next t ∧ (t.core core).running = (s.core core).running.eraseIdx i ∧
      (∀ k, k ∉ s.winSegs c.team rc o → t.segMeta k = s.segMeta k) ∧
      (∀ k ∈ s.winSegs c.team rc o,
        (t.segMeta k).toNat % 4 = (if tagw < 2 then 2 else (s.segMeta k).toNat % 4) ∧
        (t.segMeta k).getLsbD 9 = isBlock (rFmt rc) ∧
        (t.segMeta k).getLsbD 8 = ((s.segMeta k).getLsbD 8 || decide (tagw = 1)) ∧
        ∀ j, (2 ≤ j ∧ j < 8) ∨ 10 ≤ j → (t.segMeta k).getLsbD j = (s.segMeta k).getLsbD j) ∧
      ∀ side co b, tileByte t side co b = tileByte s side co b) ∧
  (∀ (s : State) (core i : Nat) (c : TileCmd), (s.core core).running[i]? = some c → c.unread = false →
    (∀ x o rc rm ctl, c.op ≠ .tsta x ctl o rc rm) → (s.team c.team).core = core →
    let left := ((s.core core).queue ++ (s.core core).running.eraseIdx i).filter (fun q => decide (q.team = c.team)) ++
      (s.team c.team).savedTiles
    let waits := fun (m : MaxrCmd) => left.any (fun q => decide (q.no < m.before))
    ∃ t, exec (.tileComplete core i) s = .next t ∧ (t.core core).running = (s.core core).running.eraseIdx i ∧
      (t.team c.team).maxr = (s.team c.team).maxr.filter waits ∧ (∀ k, k ≠ c.team → t.team k = s.team k) ∧
      (∀ k, (t.grp k).r = (s.grp k).r) ∧
      ((∀ m ∈ (s.team c.team).maxr, waits m = true) → t.hbm = s.hbm ∧
        (∀ k, s.segMeta k = t.segMeta k ∨ (k ∈ (s.tileSrc c.team c.op).1 ∧ (s.segMeta k).getLsbD 8 = false ∧
          (t.segMeta k).toNat = (s.segMeta k).toNat / 4 * 4 + 3)) ∧
        ((s.tileSrc c.team c.op).2 = true → ∀ k ∈ (s.tileSrc c.team c.op).1, (s.segMeta k).getLsbD 8 = false →
          (t.segMeta k).toNat % 4 = 3) ∧
        ∀ co, (t.core co).acc = (s.core co).acc ∧ (t.core co).queue = (s.core co).queue))

namespace Sys2Proof.Claims

/-- PUT, RATOM and RACC (11 R280): sources, destinations, what is sent, and the index, value and flag index of thread t. -/
def fabricForm (x : State) (i : Instr) :
    Option (List Sel × List DReg × FInstr × (Nat → W32) × (Nat → Nat → W32) × Option (Nat → W32)) :=
  let regs := fun (d : BitVec 7) (n : Nat) => (List.range n).map (fun j => (⟨.v (d + BitVec.ofNat 7 j), false⟩ : Sel))
  match i with
  | .put d a nm1 k flag abo =>
    some ([a] ++ (flag.map (fun f => f.2)).toList ++ regs d (nm1.toNat + 1), [],
      { k := ⟨.put, [3, 4, 5], nm1.toNat + 1, 3⟩, b := k.toNat, fb := (flag.map (fun f => f.1.toNat)).getD 0, abo := abo,
        op := .add, cmp := fun _ => 0, ret := none },
      x.laneVal a.src, fun t j => x.g.r.getV (d.toNat + j) t, flag.map (fun f => x.laneVal f.2.src))
  | .ratom op ret a b c k abo =>
    some ([a, b] ++ (if op = .cas then [c] else []), (ret.map (fun r => DReg.v r.toNat)).toList,
      { k := ⟨.ratom, [3, 4, 5], 1, 7⟩, b := k.toNat, fb := 0, abo := abo, op := op, cmp := x.laneVal c.src,
        ret := ret.map (fun r => r.toNat) },
      x.laneVal a.src, fun t _ => x.laneVal b.src t, none)
  | .racc d a nm1 k abo =>
    some ([a] ++ regs d (nm1.toNat + 1), [],
      { k := ⟨.racc, [3, 5], nm1.toNat + 1, 7⟩, b := k.toNat, fb := 0, abo := abo, op := .add, cmp := fun _ => 0, ret := none },
      x.laneVal a.src, fun t j => x.g.r.getV (d.toNat + j) t, none)
  | _ => none

/-- A thread's elements and flag translated one after another for target `tgt`: the elements with their addresses, the flag's
address, and the state left. -/
def planned (x : State) (f : FInstr) (tgt : Nat) (els : List FElem) (flag : Option W64) :
    Option (List (Nat × Nat × FElem) × Option Nat × State) :=
  match x.fxlate f.b tgt els with
  | (.ok es, v) => match flag with
    | none => some (es, none, v)
    | some a => match v.fxlate f.fb tgt [⟨a, 4, 0⟩] with
      | (.ok l, w) => l.head?.map (fun q => (es, some q.2.1, w))
      | _ => none
  | _ => none

/-- Bytes laid over a memory. -/
def lay (m : Nat → Byte) (a : Nat) (bs : List Byte) : Nat → Byte :=
  fun b => if a ≤ b ∧ b < a + bs.length then bs.getD (b - a) 0 else m b

/-- What one thread's transfer leaves in local HBM (11 R283 to R285): its elements in order, then its flag. -/
def landed (f : FInstr) (bf : Bool) (th : Nat) (m : Nat → Byte) (es : List (Nat × Nat × FElem)) (flag : Option Nat) :
    Nat → Byte :=
  let word := fun (k : Nat → Byte) (a n : Nat) => leNat ((List.range n).map (fun j => k (a + j)))
  let m1 := es.foldl (fun k q =>
    let a := q.2.1
    let n := q.2.2.n
    lay k a (leBytes n (match f.k.kind with
      | .ratom => (aop f.op (BitVec.ofNat 32 (word k a 4)) (BitVec.ofNat 32 q.2.2.v) (f.cmp th)).toNat
      | .racc => if bf then (fAdd bf16 .rne 0 (word k a n) (q.2.2.v % 65536)).bits else (fAdd fp32 .rne 0 (word k a n) q.2.2.v).bits
      | _ => q.2.2.v))) m
  match flag with
  | none => m1
  | some a => lay m1 a (leBytes 4 (word m1 a 4 + 1))

/-- An instruction's barrier object counts `n` more; the other objects of the team keep their counts (11 R280). -/
def Charged (s t : State) (abo : Abo) (n : Nat) : Prop :=
  ∀ k, t.t.obj k = s.t.obj k + (match abo with
    | .none => 0
    | .obj j => if j.toNat = k then BitVec.ofNat 32 n else 0)

end Sys2Proof.Claims

/-- PUT, RATOM and RACC send one transfer for each thread, and act on local HBM at once. With the checks passed, at
most 256 transfers outstanding, and earlier transfers numbered below the next number, each form retires. To reachable
peers every thread with an element gets one transfer with its address and what it carries there, counted on path 3
(PUT) or 7 and on the barrier object, and no memory changes; a RATOM's destination turns empty, and dropped lanes read
0. One thread's elements and flag in this module's HBM are stored, exchanged by the operation, or added, in order,
before the transfer is acknowledged (the model's choice of time, log 8). One thread's transfer to pool nodes is
recorded with its pool addresses, a PUT's as one word transfer for each element, and no memory changes. A failed check
is one precise trap with no effect. An instruction that has sent for some threads sends again only for those of its
unsent threads that are active. (spec/11 R280; spec/11 R281; spec/11 R282; spec/11 R283; spec/11 R284; spec/11 R285;
spec/11 R286; spec/11 R287.) -/
def Obligations.RemoteSends : Prop :=
  ∀ (s x : State) (i : Instr) (sels : List Sel) (dests : List DReg) (f : FInstr) (idx : Nat → W32) (val : Nat → Nat → W32)
    (flag : Option (Nat → W32)), fabricForm x i = some (sels, dests, f, idx, val, flag) → Runs s sels dests x →
    (∀ a ∈ sels, a.src ≠ .q 2) →
    let rc := x.g.r.getB f.b
    let checked := fcheck f.k rc idx val (flag.map (fun g => (x.g.r.getB f.fb, g))) x.sendSet
    (∀ tr, checked = .error tr → Enters s →
      ∃ t, exec i s = .next t ∧ Entered [] s t tr.cause tr.sub tr.val tr.mask s.g.r.exm s.g.r.pc) ∧
    (∀ ths, checked = .ok ths →
      let live := ths.filter (fun th => !th.elems.isEmpty)
      let head := fun (th : FThread) => th.elems.headD ⟨0, 0, 0⟩
      let sent := fun (t : State) (n ids : Nat) =>
        (∀ p, t.g.y.path p = s.g.y.path p + if p = f.k.path then n else 0) ∧ Charged s t f.abo n ∧ OthersRun s t ∧
        t.g.sys.tcause = s.g.sys.tcause ∧ t.g.r.pc = s.g.r.pc + 8 ∧ t.g.r.exm = x.g.r.exm ∧ t.g.r.g = s.g.r.g ∧
        t.g.r.b = s.g.r.b ∧ t.link.fab.next = s.link.fab.next + ids ∧
        (∀ q u, u < 16 → t.g.r.getV q u =
          if f.ret = some q ∧ (∃ th ∈ ths, th.t = u ∧ th.elems = []) then 0 else s.g.r.getV q u) ∧
        (∀ r, f.ret = some r → 0 < n → t.g.r.emptyV r = true) ∧
        ∀ side co b, tileByte t side co b = tileByte s side co b
      let low := fun (a : W64) => BitVec.ofNat 64 (a.toNat % 2 ^ 48)
      let unsent := fun (w : Xfer) => { w with seq := 0, dst := 0, grp := 0 }
      s.outstanding s.cur + live.length ≤ 256 →
      (∀ w ∈ s.link.fab.xfers, w.id < s.link.fab.next ∧ w.grp < s.link.fab.next) →
      (rSpace rc = 5 → (∀ th ∈ live, ∃ sl, s.peerSt ((head th).addr.toNat / 2 ^ 48) = .go sl) →
        ∃ t, exec i s = .next t ∧ sent t live.length live.length ∧ t.hbm = s.hbm ∧ t.peer = s.peer ∧
          t.link.fab.xfers.map unsent = s.link.fab.xfers.map unsent ++ live.zipIdx.map (fun p =>
            ⟨s.link.fab.next + p.2, f.k.kind, s.cur, 0, f.abo, (s.ctx s.t.ctx).fjob, 0, 0, 0, (head p.1).addr,
              f.item (rFmt rc == 0x0A) p.1.t (p.1.elems.map (fun e => (low e.addr, e))) (p.1.flag.map low),
              f.ret.map (fun r => (r, p.1.t, none)), 0, false⟩)) ∧
      (∀ th els flag es fl v, ths = [⟨th, els, flag⟩] → els ≠ [] → th < 16 →
        (rSpace rc = 3 → NotMigrating s → planned x f 0 els flag = some (es, fl, v) →
          f.k.kind = .put ∨ (∀ q ∈ es, v.pbad 0 q.2.1 q.2.2.n = false) →
          ∃ t, exec i s = .next t ∧ sent t 1 1 ∧ ∀ b, t.pbyte 0 b = landed f (rFmt rc == 0x0A) th (s.pbyte 0) es fl b) ∧
        (rSpace rc = 4 → planned x f 1 els flag = some (es, fl, v) →
          let node := fun (a : Nat) => 0x8000 + a / 2 ^ 40
          let at' := fun (q : Nat × Nat × FElem) => BitVec.ofNat 64 q.2.1
          (∀ a ∈ es.map (fun q => q.2.1) ++ fl.toList, v.link.fab.route (node a) ≠ []) →
          let item := f.item false th (es.map (fun q => (at' q, q.2.2))) (fl.map (BitVec.ofNat 64))
          let one := fun (k : XKind) (id ref dst : Nat) (abo : Abo) (va : W64) (it : Item) (ret : Option (Nat × Nat × Option W32)) =>
            (⟨id, k, s.cur, ref, abo, (s.ctx s.t.ctx).fjob, dst, 0, 0, va, it, ret, 0, false⟩ : Xfer)
          let bare := fun (w : Xfer) => { w with seq := 0, grp := 0 }
          let first := one f.k.kind s.link.fab.next 0 (if f.k.kind = .put then 0x10001 else node ((es.headD (0, 0, ⟨0, 0, 0⟩)).2.1))
            f.abo ((els.headD ⟨0, 0, 0⟩).addr) item (f.ret.map (fun r => (r, th, none)))
          let words := if f.k.kind = .put then es.zipIdx.map (fun p => one .word (s.link.fab.next + 1 + p.2) s.link.fab.next
              (node p.1.2.1) .none p.1.2.2.addr (.write (at' p.1) (leBytes p.1.2.2.n p.1.2.2.v)) none) else []
          ∃ t, exec i s = .next t ∧ sent t 1 (1 + words.length) ∧ t.hbm = s.hbm ∧ t.pool = s.pool ∧
            t.link.fab.xfers.map bare = s.link.fab.xfers.map bare ++ first :: words))) ∧
    (∀ m, (if s.g.sys.hm then s.g.y.unsentH else s.g.y.unsent) = some (s.g.r.pc, m) →
      x.sendSet = (List.range 16).filter (fun t => x.g.r.exm.getLsbD t && m.getLsbD t))

/-- Packets of other modules act on this module's HBM and are answered. A packet of this generation and of a context's
job, not served before, with fencing and holds off: PUT stores its bytes and answers ACK, RATOM applies its operation
and answers RDATA with the old word, RACC adds and answers ACK; an address that does not translate is answered NACK 3
with no effect. A second copy is answered again and acts no more. A packet whose SRC has a high byte, or a malformed
one, is counted and answered NACK 7, a stale one is counted and answered NACK 1 in whatever state, a fenced module
answers NACK 1, a held one NACK 6, and one of an unknown job gets NACK 2; none of these changes memory or a register.
A reply bears this module's generation and slot, and the request's job and CE; that it bears the request's SEQ and
place too is the model's choice (log 58), and that a NACK 3 is repeated to a second copy (logs 80 and 26). A packet
from this module's own slot comes in only where it has left here (log 58). (spec/11 R273; spec/11 R274; spec/11 R275;
spec/11 R277; spec/11 R278; spec/11 R279; spec/11 R283; spec/11 R284; spec/11 R285; spec/11 R286; spec/17 R432;
spec/17 R433.) -/
def Obligations.ServedPackets : Prop :=
  (∀ (y v : State) (h : Hdr) (cx pa : Nat) (va : W64) (a : XAddr), h.src.toNat < 256 → y.link.mem.fenced = false →
    y.holding = false → y.link.fab.servedFor h = [] → h.gen = y.link.mem.gen → y.ctxOfJob h.job = some cx → NotMigrating y →
    let x := y.xlate .link (y.ctx cx).asid va 0 false .write
    let answered := fun (t : State) (it : Item) =>
      let k : Packet := ⟨y.link.mem.gen, h.job, h.src.toNat, y.link.mem.slot, h.ce, h.seq.toNat, [0], [it]⟩
      t.link.fab.served = y.link.fab.served ++ [(h.src.toNat, h.seq.toNat, k)] ∧
      (∀ p, t.link.fab.port p = (y.link.fab.send k).port p) ∧ t.groups = y.groups ∧
      t.cores = y.cores ∧ t.ctxs = y.ctxs ∧ t.link.fab.xfers = y.link.fab.xfers
    let stored := fun (t : State) (n : Nat) (bs : List Byte) =>
      t.pread 0 pa n = bs ∧ ∀ b, b < pa ∨ pa + n ≤ b → t.pbyte 0 b = y.pbyte 0 b
    (x = (.ok a, v) → a.pa = pa →
      (∀ (s : State) (bs : List Byte), s.carried h [.put ⟨[⟨va, bs⟩], none⟩] = some y →
        ∃ t, exec (.putPacket h [⟨[⟨va, bs⟩], none⟩]) s = .next t ∧ answered t .ack ∧ stored t bs.length bs) ∧
      (∀ (s : State) (op : AOp) (w c : W32), s.carried h [.atom ⟨va, op, w, c⟩] = some y → pa % 4 = 0 → v.pbad 0 pa 4 = false →
        let old := BitVec.ofNat 32 (leNat (y.pread 0 pa 4))
        ∃ t, exec (.ratomPacket h [⟨va, op, w, c⟩]) s = .next t ∧ answered t (.rdata [old]) ∧
          stored t 4 (leBytes 4 (aop op old w c).toNat)) ∧
      (∀ (s : State) (w : W32), s.carried h [.racc [⟨va, false, w⟩]] = some y → pa % 4 = 0 → v.pbad 0 pa 4 = false →
        ∃ t, exec (.raccPacket h [[⟨va, false, w⟩]]) s = .next t ∧ answered t .ack ∧
          stored t 4 (leBytes 4 (fAdd fp32 .rne 0 (leNat (y.pread 0 pa 4)) w.toNat).bits))) ∧
    (x = (.error .miss, v) → ∀ (s : State) (op : AOp) (w c : W32), s.carried h [.atom ⟨va, op, w, c⟩] = some y →
      ∃ t, exec (.ratomPacket h [⟨va, op, w, c⟩]) s = .next t ∧ answered t (.nack 3) ∧ t.hbm = y.hbm)) ∧
  (∀ (s : State) (i : Instr) (h : Hdr) (its : List Item), (∃ ts, i = .putPacket h ts ∧ its = ts.map .put) ∨
      (∃ ts, i = .ratomPacket h ts ∧ its = ts.map .atom) ∨ (∃ ts, i = .raccPacket h ts ∧ its = ts.map .racc) →
    (s.carried h its = none → exec i s = .next s) ∧
    (∀ y, s.carried h its = some y →
      let nack := fun (u : Fabric) (code : Nat) =>
        u.send ⟨y.link.mem.gen, h.job, h.src.toNat, y.link.mem.slot, h.ce, h.seq.toNat, [0], [.nack code]⟩
      let answers := fun (code : Nat) => exec i s = .next (y.modFab (fun u => nack u code))
      (256 ≤ h.src.toNat → exec i s = .next (y.modFab (fun u => nack { u with malformed := u.malformed + 1 } 7))) ∧
      (h.src.toNat < 256 →
        (h.gen ≠ y.link.mem.gen → exec i s = .next (y.modFab (fun u => nack { u with stale := u.stale + 1 } 1))) ∧
        (h.gen = y.link.mem.gen → y.link.mem.fenced = true → answers 1) ∧
        (h.gen = y.link.mem.gen → y.link.mem.fenced = false → y.holding = true → answers 6) ∧
        (h.gen = y.link.mem.gen → y.link.mem.fenced = false → y.holding = false →
          (∀ p, y.link.fab.servedFor h = [p] → exec i s = .next (y.modFab (fun u => u.send { p with ece := h.ce }))) ∧
          (y.link.fab.servedFor h = [] → y.ctxOfJob h.job = none → answers 2))))) ∧
  (∀ (s : State) (h : Hdr) (its : List Item),
    (h.src.toNat ≠ s.link.mem.slot → s.carried h its = some s) ∧
    (∀ y, s.carried h its = some y → { y with link := s.link } = s ∧ { y.link with fab := s.link.fab } = s.link ∧
      { y.link.fab with loop := s.link.fab.loop } = s.link.fab) ∧
    (h.src.toNat = s.link.mem.slot → (s.carried h its).isSome = true →
      ∃ k ∈ s.link.fab.loop, k.gen = h.gen ∧ k.job = h.job ∧ k.seq = h.seq.toNat ∧ k.items = its)) ∧
  (∀ (s : State) (h : Hdr), exec (.malformedPacket h) s =
    .next (s.modFab (fun u => Fabric.send { u with malformed := u.malformed + 1 }
      ⟨s.link.mem.gen, h.job, h.src.toNat, s.link.mem.slot, h.ce, h.seq.toNat, [0], [.nack 7]⟩)))

/-- Replies and timeouts end or repeat transfers. For a transfer under way of a PUT, RATOM or RACC to one destination,
the first of its packet without a reply (log 136), with a reply that has left where the destination is this module's
own slot: ACK_RECEIVE retires it and lowers its path; RDATA_RECEIVE writes the returned word to its lane; NACK codes
but 6, and TRANSFER_TIMEOUT as code 6, record a fabric-error entry unless one stands, and a RATOM's lane reads 0; NACK
6 makes it wait, and BUSY_RESEND sends it again, with those that share its packet, under a new SEQ. TRANSFER_TIMEOUT
ends a transfer that waits out a busy interval as well (log 61), and a group that is gone keeps its path counts (log
70). A reply to a transfer that has ended without one lowers the rate of its destination if it carries an echo, and
does nothing more. Each such event gives a next state for every transfer that stands so. (spec/11 R278; spec/11 R279;
spec/11 R284; spec/11 R287; spec/11 R288.) -/
def Obligations.TransferEnds : Prop :=
  ∀ (s : State) (id : Nat) (x : Xfer), s.link.fab.xfer id = some x → x.kind = .put ∨ x.kind = .ratom ∨ x.kind = .racc →
    let path := if x.kind = .put then 3 else 7
    let gone := fun (t : State) =>
      t.link.fab.xfers = s.link.fab.xfers.filter (fun y => decide (y.id ≠ id)) ∧
      (∀ p, (t.grp x.gk).y.path p = (s.grp x.gk).y.path p - if p = path then 1 else 0) ∧
      (∀ k, k ≠ x.gk → (t.grp k).r = (s.grp k).r ∧ (t.grp k).y.paths = (s.grp k).y.paths) ∧
      { (t.grp x.gk).r with v := [], vEmpty := 0 } = { (s.grp x.gk).r with v := [], vEmpty := 0 } ∧
      (NotMigrating s → x.dst < 0x8000 → t.hbm = s.hbm) ∧ ∀ side co b, tileByte t side co b = tileByte s side co b
    let lane := fun (t : State) (r th : Nat) (v : W32) =>
      ∀ q u, u < 16 → (t.grp x.gk).r.getV q u = if q = r ∧ u = th then v else (s.grp x.gk).r.getV q u
    let kept := fun (t : State) => (t.grp x.gk).r = (s.grp x.gk).r
    let noted := fun (t : State) (code : Nat) =>
      let e : FabErr := ⟨code, x.addr, s.link.fab.fails⟩
      (t.grp x.gk).y.fab3 = (if path = 3 then (s.grp x.gk).y.fab3.or (some e) else (s.grp x.gk).y.fab3) ∧
      (t.grp x.gk).y.fab7 = (if path = 7 then (s.grp x.gk).y.fab7.or (some e) else (s.grp x.gk).y.fab7)
    let failed := fun (t : State) (code : Nat) => gone t ∧ noted t code ∧ (x.ret = none → kept t) ∧
      ∀ r th o, x.ret = some (r, th, o) → th < 16 → r < 128 → lane t r th 0
    let slower := fun (e : Bool) (r : Nat) => if e then max (r - r / 8) (portRate / 256) else r
    let came := fun (it : Item) (ece e : Bool) =>
      if x.dst = s.link.mem.slot then
        ∃ k, s.link.fab.loop.find? (fun k => decide (k.seq = x.seq) && decide (k.items = [it])) = some k ∧ e = k.ece
      else e = ece
    (x.backoff = false → x.dst ≠ 0x10001 → s.link.fab.firstOf x = true → ∀ ece e : Bool,
      (x.ret = none → came .ack ece e → ∃ t, exec (.ackReceive id ece) s = .next t ∧ gone t ∧ kept t ∧
        (t.grp x.gk).y.fab3 = (s.grp x.gk).y.fab3 ∧ (t.grp x.gk).y.fab7 = (s.grp x.gk).y.fab7 ∧
        tget portRate t.link.fab.rates x.dst = slower e (tget portRate s.link.fab.rates x.dst)) ∧
      (∀ r th v at', x.kind = .ratom → x.item = .atom at' → x.ret = some (r, th, none) → th < 16 → r < 128 →
        came (.rdata [v]) ece e → ∃ t, exec (.rdataReceive id v ece) s = .next t ∧ gone t ∧ lane t r th v) ∧
      (∀ c, 0 < c → c < 8 → c ≠ 6 → came (.nack c) ece e → ∃ t, exec (.nackReceive id c ece) s = .next t ∧ failed t c) ∧
      (came (.nack 6) ece e → ∃ t y, exec (.nackReceive id 6 ece) s = .next t ∧ t.link.fab.xfer id = some y ∧ y.backoff = true ∧
        y.busy = x.busy + 1 ∧ t.groups = s.groups)) ∧
    (∃ t, exec (.transferTimeout id) s = .next t ∧ failed t 6) ∧
    (∀ p, x.backoff = true → x.dst < 0x10000 → (s.grp x.gk).live = true → s.link.fab.choose x.dst = some p →
      (x.dst < 0x8000 → s.link.mem.rank.isSome = true ∧ s.link.mem.fenced = false ∧ s.holding = false) →
      (∀ y ∈ s.link.fab.xfers, y.grp = x.grp → y.backoff = true → y.job = x.job) →
      let all := s.link.fab.xfers.filter (fun y => decide (y.grp = x.grp) && y.backoff)
      let seq := tget 0 s.link.fab.seqs x.dst
      ∃ t y, exec (.busyResend id) s = .next t ∧ t.link.fab.xfer id = some y ∧ y.backoff = false ∧ y.seq = seq ∧
        (t.link.fab.port p).buf = (s.link.fab.port p).buf ++ [⟨⟨s.link.mem.gen, x.job, x.dst, s.link.mem.slot, false, seq,
          all.map (fun y => y.id), all.map (fun y => y.item)⟩, (s.link.fab.port p).next, 0⟩] ∧
        tget 0 t.link.fab.seqs x.dst = (seq + 1) % 2 ^ 32 ∧ t.groups = s.groups) ∧
    (∀ (z : Nat) (ece : Bool), s.link.fab.xfer z = none → ∃ t, exec (.ackReceive z ece) s = .next t ∧ t.groups = s.groups ∧
      t.hbm = s.hbm ∧ t.link.fab.xfers = s.link.fab.xfers ∧ ∀ d, tget portRate t.link.fab.rates d =
        slower (ece && decide (tget 0 s.link.fab.late z = d + 1)) (tget portRate s.link.fab.rates d))

/-- Flits fail and are acknowledged, ports die, and rates recover. FLIT_RETRANSMIT of a live port with a packet to
send counts a failure, and at the sixteenth does what PORT_DEAD does. LINK_ACKNOWLEDGEMENT of n flits starts that
count again and leaves n flits fewer of the same packets in the buffer. PORT_DEAD, with no collective or join in
flight, takes the port out of every route; a packet in its buffer that another port reaches leaves whole by that one,
a module packet stays here while module traffic is held and is gone in a fenced module. RATE_RECOVER raises each
limiter by 1/64 of the port rate, up to it. No group changes. (spec/11 R276; spec/11 R277; spec/11 R278.) -/
def Obligations.LinkEvents : Prop :=
  (∀ (s : State) (p : Nat), p < 18 → (s.link.fab.port p).dead = false →
    let q := s.link.fab.port p
    ((s.link.fab.port p).buf ≠ [] → q.fails + 1 < 16 →
      ∃ t, exec (.flitRetransmit p) s = .next t ∧ t.link.fab.port p = { q with fails := q.fails + 1 } ∧
        (∀ k, k ≠ p → t.link.fab.port k = s.link.fab.port k) ∧ t.groups = s.groups) ∧
    (q.buf ≠ [] → q.fails = 15 → exec (.flitRetransmit p) s = exec (.portDead p) s) ∧
    (∀ n, ∃ t k, exec (.linkAcknowledgement p n) s = .next t ∧ (t.link.fab.port p).fails = 0 ∧
      (t.link.fab.port p).queued = q.queued - n ∧ (t.link.fab.port p).next = q.next ∧
      (t.link.fab.port p).buf.map (fun e => e.pk) = (q.buf.map (fun e => e.pk)).drop k ∧
      (∀ k, k ≠ p → t.link.fab.port k = s.link.fab.port k) ∧ t.groups = s.groups) ∧
    (s.link.colls = [] → s.link.join.st ≠ .opening → s.link.join.st ≠ .pull →
      (q.buf = [] → ∃ t, exec (.portDead p) s = .next t ∧ t.link.fab.port p = ⟨true, [], q.next, 0⟩ ∧
        (∀ d, p ∉ t.link.fab.route d) ∧ (∀ k, k ≠ p → t.link.fab.port k = s.link.fab.port k) ∧ t.groups = s.groups) ∧
      (∀ e k, q.buf = [e] → (s.link.fab.modPort p (fun _ => ⟨true, [], q.next, 0⟩)).choose e.pk.dst = some k →
        ∃ t, exec (.portDead p) s = .next t ∧ t.link.fab.port p = ⟨true, [], q.next, 0⟩ ∧ k ≠ p ∧ t.groups = s.groups ∧
          let pool := toPool e.pk.dst
          if pool = true ∨ (s.link.mem.fenced = false ∧ s.holding = false) then
            (t.link.fab.port k).buf = (s.link.fab.port k).buf ++ [⟨e.pk, (s.link.fab.port k).next, 0⟩] ∧
            t.link.fab.parked = s.link.fab.parked ∧ ∀ j, j ≠ p → j ≠ k → t.link.fab.port j = s.link.fab.port j
          else t.link.fab.parked = s.link.fab.parked ++ (if s.link.mem.fenced then [] else [e.pk]) ∧
            ∀ j, j ≠ p → t.link.fab.port j = s.link.fab.port j))) ∧
  (∀ s : State, ∃ t, exec .rateRecover s = .next t ∧ t.groups = s.groups ∧ t.link.fab.xfers = s.link.fab.xfers ∧
    (∀ d, (∀ q ∈ s.link.fab.rates, q.1 ≠ d) → tget portRate t.link.fab.rates d = portRate) ∧
    (∀ d r l m, s.link.fab.rates = l ++ (d, r) :: m → (∀ q ∈ l ++ m, q.1 ≠ d) →
      tget portRate t.link.fab.rates d = min portRate (r + portRate / 64)))

namespace Sys2Proof.Claims

/-- A messaging instruction changes, outside its group, at most its own context, the engine's transfers and reserve, and
the scheduling positions of cores. -/
def MsgFrame (s t : State) : Prop :=
  OthersKept s t ∧ { t with groups := [], cores := [], ctxs := [], link := s.link } = { s with groups := [], cores := [], ctxs := [] } ∧
  (∀ c, { t.core c with turn := 0, quads := [] } = { s.core c with turn := 0, quads := [] }) ∧
  (∀ c, c ≠ s.t.ctx → t.ctx c = s.ctx c) ∧
  { t.link with fab := s.link.fab } = s.link

/-- What a messaging instruction of 4 bytes leaves in its group: path 6 and the unfinished SENDs rise by `n6` and `ns`,
the writes `ps` are on their way, uniform register `n` holds `val n` and is empty as `empty n` says, and nothing else but the
pc changes. -/
def MsgGroup (s t : State) (n6 ns : Nat) (ps : List Pending) (val : Nat → W32) (empty : Nat → Bool) : Prop :=
  (∀ n, t.g.r.getG n = val n) ∧ (∀ n, t.g.r.emptyG n = empty n) ∧
  { t.g.r with g := [], hg := [], gEmpty := 0 } = { s.g.r with g := [], hg := [], gEmpty := 0, pc := s.g.r.pc + 4 } ∧
  t.g.sys = s.g.sys ∧ t.g.s0 = s.g.s0 ∧ t.g.s1 = s.g.s1 ∧ t.g.y.q3 = s.g.y.q3 ∧ t.g.y.pend = s.g.y.pend ++ ps ∧
  (∀ p, t.g.y.path p = s.g.y.path p + if p = 6 then n6 else 0) ∧ t.g.y.sends = s.g.y.sends + ns ∧ t.g.live = s.g.live

/-- The transfers without their sequence numbers and busy times. -/
def bareXfers (s : State) : List Xfer := s.link.fab.xfers.map (fun (w : Xfer) => { w with seq := 0, backoff := false })

/-- The first `n` bytes of a receive's data stand in order from byte `a` of the scratchpad of its home's die on, in coherent
segments that no reduction holds (12 R315; 04 R91 to R93). -/
def InScratch (s : State) (cx : Nat) (r : Recv) (a n : Nat) : Prop :=
  let d := r.home / 96
  rSpace r.rcd = 2 ∧ rRo r.rcd = false ∧ (∃ z, payEsz r.rcd = some z ∧ rStr0 r.rcd = z ∧ n ≤ z * rExt0 r.rcd) ∧
  0 < rExt1 r.rcd ∧ a = (rBase r.rcd).toNat ∧ a + n ≤ spadBytes ∧
  ∀ b, a ≤ b → b < a + n → s.spadOk d (s.ctx cx).asid b = true ∧ (s.die d).soft (b / 4096) = false ∧
    ∀ o, tget DirSt.i (s.die d).dir (b / 4096) ≠ .u o

/-- The bytes `bs` have landed in die `d`'s scratchpad from byte `a` on; every other byte of it, and HBM, are as before. -/
def LandedAt (s t : State) (d a : Nat) (bs : List Byte) : Prop :=
  mread (t.die d).spad a bs.length = bs ∧ t.hbm = s.hbm ∧
  ∀ b, b < a ∨ a + bs.length ≤ b → mget (t.die d).spad b = mget (s.die d).spad b

/-- Register `gd` is marked empty beside those that were. -/
def Emptied (s : State) (gd n : Nat) : Bool := s.g.r.emptyG n || (decide (n = gd) && decide (n < 64))

end Sys2Proof.Claims

/-- SEND hands a message to the engine and RPOST posts a receive. A legal SEND to a module in reach takes its message
number, leaves its MSG or, above 8,192 bytes or with RDV, its RTS, is counted on path 6 and leaves its status register
empty; a reserved bit of word 0 leaves status class 1 with DETAIL 21 on its way. A legal RPOST gets the handle of the
counter, which moves on, is appended to the posted list or takes the first queued eager message that matches, whose
bytes land in its buffer (here in scratchpad memory) up to its capacity, and its handle (with bit 4 on a match) is on
its way to its register, which is empty until then; a full list gives class 3. That an MSG carries the bytes as they
stand at the issue of its SEND is the model's choice (log 73). (spec/12 R307; spec/12 R308; spec/12 R310; spec/12
R311; spec/12 R313; spec/12 R321; spec/12 R322; spec/12 R323; spec/12 R324; spec/12 R325; spec/12 R326.) -/
def Obligations.MessagesStart : Prop :=
  (∀ (s x : State) (d g : BitVec 6), Runs s (blockSels g 4) [.g (uniReg s d)] x → s.g.y.path 6 < 65535 →
    let gd := uniReg s d
    let w := fun i => x.cmd g i
    let rc := x.g.r.getB ((w 0).toNat / 2 ^ 16 % 16)
    ((w 0).toNat / 2 ^ 21 ≠ 0 →
      ∃ t, exec (.send d g) s = .next t ∧ MsgFrame s t ∧ t.link = s.link ∧ t.ctx s.t.ctx = s.ctx s.t.ctx ∧
        MsgGroup s t 1 0 [⟨[.g gd (21 * 65536 + 3)], some 6, none⟩] s.g.r.getG (Emptied s gd)) ∧
    (∀ (z sl : Nat) (bs : List Byte) (v : State), (w 0).toNat / 2 ^ 21 = 0 → (w 1).toNat < 2 ^ 16 → payEsz rc = some z →
      let len := (w 3).toNat * z
      let rdv := decide (8192 < len) || (w 0).getLsbD 20
      let id := v.link.fab.next
      let key := 65536 * (w 1).toNat + (w 0).toNat % 65536
      len ≤ 2 ^ 31 → payOk rc (w 3).toNat = true → rSpace rc ∈ [0, 2, 3, 4, 6] → x.peerSt (w 1).toNat = .go sl →
      ((rdv = true ∧ v = x) ∨ (rdv = false ∧ v.g = x.g ∧ v.cur = x.cur ∧
        x.payRead (State.msgAg x.cur (x.ctxNoG x.cur) x.priv x.cn) rc 0 len = (.ok bs, v))) →
      let num := tget 0 (v.ctx v.t.ctx).sendNo key
      let args : MsgArgs := ⟨BitVec.ofNat 16 v.t.ctx, (w 0).truncate 16, w 2, len, num⟩
      ∃ t, exec (.send d g) s = .next t ∧ MsgFrame v t ∧
        t.ctx v.t.ctx = { v.ctx v.t.ctx with
          sendNo := tset 0 (v.ctx v.t.ctx).sendNo key (num + 1)
          sends := (v.ctx v.t.ctx).sends ++ [⟨id, v.cur, gd, v.t.ctx, rc, v.priv, len, rdv, v.cn, 0, sl, args⟩] } ∧
        bareXfers t = bareXfers v ++ [⟨id, if rdv then .rts else .msg, v.cur, id, .none, (v.ctx v.t.ctx).fjob, sl, 0, id, 0,
          if rdv then .rts args else .msg args bs, none, 0, false⟩] ∧
        MsgGroup v t 1 1 [] v.g.r.getG (Emptied v gd))) ∧
  (∀ (s x : State) (d g : BitVec 6), Runs s (blockSels g 7) [.g (uniReg s d)] x → s.g.y.path 6 < 65535 →
    let gd := uniReg s d
    let w := x.cmds g 7
    let n0 := (x.cmd g 0).toNat
    let db := x.g.r.getB (n0 / 2 ^ 16 % 16)
    let cb := x.g.r.getB ((x.cmd g 5).toNat % 16)
    let cx := s.t.ctx
    let h := (s.ctx cx).handle
    let r := x.newRecv w db cb h
    let said := fun (t : State) (path : Option Nat) (v : Nat) => MsgFrame s t ∧
      MsgGroup s t 1 0 [⟨[.g gd (BitVec.ofNat 32 v)], path, none⟩] s.g.r.getG (Emptied s gd) ∧ t.link = s.link
    (n0 / 2 ^ 22 ≠ 0 → ∃ t, exec (.rpost d g) s = .next t ∧ said t (some 6) (22 * 65536 + 3) ∧ t.ctx cx = s.ctx cx) ∧
    (rpostBad w db cb = none → 16384 ≤ (s.ctx cx).posted.length →
      ∃ t, exec (.rpost d g) s = .next t ∧ said t (some 6) 7 ∧ t.ctx cx = s.ctx cx) ∧
    (rpostBad w db cb = none → (s.ctx cx).posted.length + (s.ctx cx).taken.length < 16384 → h ∉ (s.ctx cx).handles →
      (h + 1) % 16384 ∉ h :: (s.ctx cx).handles →
      ((∀ u ∈ (s.ctx cx).unexp, u.ahead = true ∨ r.takes u.hdr = false) →
        ∃ t, exec (.rpost d g) s = .next t ∧ said t none (h * 2 ^ 18 + 1) ∧
          t.ctx cx = { s.ctx cx with handle := (h + 1) % 16384, posted := (s.ctx cx).posted ++ [r] }) ∧
      (∀ (l m : List Unexp) (u : Unexp), (s.ctx cx).unexp = l ++ u :: m → (∀ y ∈ l, y.ahead = true ∨ r.takes y.hdr = false) →
        u.ahead = false → r.takes u.hdr = true → u.rdv = false → u.bytes = [] →
        ∃ t, exec (.rpost d g) s = .next t ∧ said t none (h * 2 ^ 18 + 17) ∧
          t.ctx cx = { s.ctx cx with
            handle := (h + 1) % 16384
            unexp := l ++ m
            taken := (s.ctx cx).taken ++ [{ r with
              msg := some u.hdr
              eager := true
              got := min u.hdr.len r.cap
              cls := some (if r.cap < u.hdr.len then 2 else 0) }] }) ∧
      (∀ (l m : List Unexp) (u : Unexp) (a : Nat), (s.ctx cx).unexp = l ++ u :: m →
        (∀ y ∈ l, y.ahead = true ∨ r.takes y.hdr = false) → u.ahead = false → r.takes u.hdr = true → u.rdv = false →
        let bs := u.bytes.take (min u.hdr.len r.cap)
        bs ≠ [] → InScratch x cx r a bs.length →
        ∃ t, exec (.rpost d g) s = .next t ∧ LandedAt s t (s.cn / 96) a bs ∧ OthersKept s t ∧
          MsgGroup s t 1 0 [⟨[.g gd (BitVec.ofNat 32 (h * 2 ^ 18 + 17))], none, none⟩] s.g.r.getG (Emptied s gd) ∧
          t.link.eager = s.link.eager - u.bytes.length ∧ (∀ k, k ≠ cx → t.ctx k = s.ctx k) ∧
          t.ctx cx = { s.ctx cx with
            handle := (h + 1) % 16384
            unexp := l ++ m
            taken := (s.ctx cx).taken ++ [{ r with
              msg := some u.hdr
              eager := true
              got := min u.hdr.len r.cap
              cls := some (if r.cap < u.hdr.len then 2 else 0) }] })))

/-- RPROBE looks, RCANCEL takes back, and CFIRE fires a chunk. RPROBE answers the envelope of the first queued message
that would match, or 0, or 2 for a malformed command, in three registers. RCANCEL ends a posted receive with class 6
and answers 1; a matched one answers 0, an unknown handle 2, a malformed one 3. CFIRE waits for its group's paths,
traps (0x15) where the collective is not active, sets XF for a chunk out of range, ignores a second fire, and
otherwise marks the chunk fired; the owner of a reduction's chunk sends its elements to the next index, that of an
ALLGATHER's or BROADCAST's writes them and sends them on, an ALLTOALL's elements go to their index, and a BARRIER's
arrival to every other index. The layout of a COLL packet's payload is the model's choice (log 94). (spec/12 R327;
spec/12 R328; spec/11 R295; spec/11 R296; spec/11 R297.) -/
def Obligations.MessagesAsk : Prop :=
  (∀ (s x : State) (d g : BitVec 6), Runs s (blockSels g 4) [.g (uniReg s d), .g (uniReg s (d + 1)), .g (uniReg s (d + 2))] x →
    let n0 := (x.cmd g 0).toNat
    let n1 := (x.cmd g 1).toNat
    let r := x.newRecv (x.cmds g 4) 0 0 0
    let put := fun (a b c : W32) => ∃ t, exec (.rprobe d g) s = .next t ∧ RegistersOnly [] s t ∧ t.g.sys = s.g.sys ∧
      (∀ n, t.g.r.getG n = if n = uniReg s d then a else if n = uniReg s (d + 1) then b else if n = uniReg s (d + 2) then c
        else s.g.r.getG n) ∧
      { t.g.r with g := [], hg := [] } = { s.g.r with g := [], hg := [], pc := s.g.r.pc + 4 }
    let good := n0 < 2 ^ 16 ∧ n1 < 2 ^ 17 ∧ (n1 / 2 ^ 16 = 1 → n1 % 65536 = 0)
    (¬ good → put 2 0 0) ∧
    (good → (∀ u ∈ (s.ctx s.t.ctx).unexp, u.ahead = true ∨ r.takes u.hdr = false) → put 0 0 0) ∧
    (good → ∀ (l m : List Unexp) (u : Unexp), (s.ctx s.t.ctx).unexp = l ++ u :: m →
      (∀ y ∈ l, y.ahead = true ∨ r.takes y.hdr = false) → u.ahead = false → r.takes u.hdr = true →
      put (BitVec.ofNat 32 (u.hdr.srank.toNat * 65536 + (if u.rdv then 16 else 0) + 1)) u.hdr.tag (BitVec.ofNat 32 u.hdr.len))) ∧
  (∀ (s x : State) (d g : BitVec 6), Runs s (blockSels g 1) [.g (uniReg s d)] x →
    let h := (x.cmd g 0).toNat
    let c := s.ctx s.t.ctx
    let told := fun (v : W32) (c1 : Ctx) => ∃ t, exec (.rcancel d g) s = .next t ∧ MsgFrame s t ∧ t.link = s.link ∧
      t.ctx s.t.ctx = c1 ∧ MsgGroup s t 0 0 [] (fun n => if n = uniReg s d then v else s.g.r.getG n) s.g.r.emptyG
    (2 ^ 14 ≤ h → told 3 c) ∧
    (h < 2 ^ 14 → (∀ r ∈ c.posted, r.handle ≠ h) → (∀ r ∈ c.taken, r.handle ≠ h) → told 2 c) ∧
    (h < 2 ^ 14 → (∀ r ∈ c.posted, r.handle ≠ h) → (∃ r ∈ c.taken, r.handle = h) → told 0 c) ∧
    (h < 2 ^ 14 → ∀ (l m : List Recv) (r : Recv), c.posted = l ++ r :: m → r.handle = h → (∀ q ∈ l ++ m, q.handle ≠ h) →
      told 1 { c with posted := l ++ m, taken := c.taken ++ [{ r with cls := some 6 }] })) ∧
  (∀ (s x : State) (a : Sel) (b : UOpd), Runs s (a :: uniSels b) [] x →
    let v := (x.uniVal a.src).toNat
    let k := (uniOpd x b).toNat
    let srcs := a.src :: (uniSels b).map (fun y => y.src)
    let cx := x.ctxNoG x.cur
    (64 ≤ v ∨ x.collOf cx v = none → Enters s →
      ∃ t, exec (.cfire a b) s = .next t ∧ Entered [] s t 0x15 0 (BitVec.ofNat 64 v) 0 s.g.r.exm s.g.r.pc) ∧
    (v < 64 → (x.collOf cx v).isSome = true → (∃ p ∈ [0, 1, 2, 3, 4, 7], s.g.y.path p ≠ 0) → s.g.r.exm = x.g.r.exm →
      ∃ t, exec (.cfire a b) s = .next t ∧ Waits srcs s t .counter false ∧ OthersKept s t ∧ t.link = s.link) ∧
    (∀ c : Coll, v < 64 → x.collOf cx v = some c → c.ctx = cx → c.desc = v → (∀ p ∈ [0, 1, 2, 3, 4, 7], s.g.y.path p = 0) →
      let went := fun (t : State) (c1 : Coll) => exec (.cfire a b) s = .next t ∧ Moved srcs s x t (uniBytes b) ∧ OthersKept s t ∧
        t.collOf cx v = some c1 ∧ (∀ y z, y ≠ cx ∨ z ≠ v → t.collOf y z = s.collOf y z)
      let c1 := { c with fired := c.fired ++ [k] }
      (dRanks c.w * dCps c.w ≤ k → ∃ t, went t { c with xf := true } ∧ t.hbm = s.hbm ∧ t.link.fab = s.link.fab) ∧
      (k < dRanks c.w * dCps c.w → k ∈ c.fired → ∃ t, went t c ∧ t.hbm = s.hbm ∧ t.link = s.link) ∧
      (k < dRanks c.w * dCps c.w → k ∉ c.fired → dKind c.w < 2 → c.heldPk = [] →
        (k / dCps c.w ≠ c.p → c1.complete = false → ∃ t, went t c1 ∧ t.hbm = s.hbm ∧ t.link.fab = s.link.fab) ∧
        (∀ (xs : List Nat) (u : State) (sl : Nat), k / dCps c.w = c.p → (dRange c.w k).2 ≠ 0 →
          (dRange c.w k).2 * max 1 (dEsz c.w) ≤ 8192 →
          (x.putColl c1).collRead c1 (dRange c.w k).1 (dRange c.w k).2 = (.ok xs, u) → u.g = x.g → u.cur = x.cur →
          u.groups = x.groups → u.link.colls = (x.putColl c1).link.colls → 
          u.peerSt (c.ranks.getD ((c.p + 1) % dRanks c.w) 0) = .go sl →
          ∃ t, went t { c1 with sent := c.sent ++ [k] } ∧ t.hbm = u.hbm ∧
            bareXfers t = bareXfers u ++ [⟨u.link.fab.next, .coll, cx, 64 * c.act + v, .none, (u.ctx cx).fjob, sl, 0,
              u.link.fab.next, 0, .coll
                { comm := BitVec.ofNat 16 (dComm c.w)
                  act := c.act
                  chunk := k
                  hop := 1
                  sender := c.p
                  off := 0
                  len := (dRange c.w k).2 * dEsz c.w
                  fp32 := false
                  sat := []
                  data := xs.map (BitVec.ofNat 32)
                  scales := []
                  nan := xs.map (fun e => if dEfmt c.w ≠ 5 ∧ isNaN (efF c.w) e = true then c.ranks.getD c.p 0 + 1 else 0)
                  err := none }, none, 0, false⟩])) ∧
      (k < dRanks c.w * dCps c.w → k ∉ c.fired → c.heldPk = [] →
        let c2 := { c1 with sent := c.sent ++ [k] }
        let pk := fun (u : State) (j sl hop chunk : Nat) (xs : List Nat) =>
          (⟨u.link.fab.next + j, .coll, cx, 64 * c.act + v, .none, (u.ctx cx).fjob, sl, 0, u.link.fab.next + j, 0, .coll
            { chunkMsg chunk hop xs with
              comm := BitVec.ofNat 16 (dComm c.w)
              act := c.act
              sender := c.p
              len := xs.length * dEsz c.w }, none, 0, false⟩ : Xfer)
        let calm := fun (u : State) => u.g = x.g ∧ u.cur = x.cur ∧ u.groups = x.groups
        (∀ (xs : List Nat) (u w : State) (sl : Nat), dKind c.w ∈ [2, 3, 4] → dQfmt c.w = 0 →
          (dKind c.w = 2 → k / dCps c.w = c.p) → (dKind c.w = 3 → c.p = dRoot c.w) → (dRange c.w k).2 ≠ 0 →
          (dRange c.w k).2 * max 1 (dEsz c.w) ≤ 8192 → rSpace (dRec c.w true) = 3 →
          (x.putColl c1).collRead c1 ((dRange c.w k).1 - if dKind c.w = 2 then c.p * dSeg c.w else 0) (dRange c.w k).2 = (.ok xs, u) →
          (if dKind c.w = 4 ∧ k / dCps c.w ≠ c.p then w = u.putColl c2
          else (u.putColl c2).collWrite c2 0 (dRange c.w k).1 (unmarked xs) = (none, w)) →
          calm w → w.link.colls = (x.putColl c2).link.colls →
          (dKind c.w = 4 ∧ k / dCps c.w = c.p → c2.complete = false ∨ x.collOut c = true →
            ∃ t, went t { c2 with written := c.written ++ [k] } ∧ t.hbm = w.hbm ∧ t.link.fab = w.link.fab) ∧
          (dKind c.w ≠ 4 → w.peerSt (c.ranks.getD ((c.p + 1) % dRanks c.w) 0) = .go sl →
            ∃ t, went t { c2 with written := c.written ++ [k] } ∧ t.hbm = w.hbm ∧
              bareXfers t = bareXfers w ++ [pk w 0 sl 1 k xs]) ∧
          (dKind c.w = 4 → k / dCps c.w ≠ c.p → w.peerSt (c.ranks.getD (k / dCps c.w) 0) = .go sl →
            ∃ t, went t c2 ∧ t.hbm = w.hbm ∧ bareXfers t = bareXfers w ++ [pk w 0 sl 1 k xs])) ∧
        (∀ slots : List Nat, dKind c.w = 6 → k = 0 → slots.length = dRanks c.w → 1 < dRanks c.w → c.p < dRanks c.w →
          (∀ i sl, i ≠ c.p → slots[i]? = some sl → x.peerSt (c.ranks.getD i 0) = .go sl) →
          ∃ t, went t c2 ∧ t.hbm = s.hbm ∧ bareXfers t = bareXfers s ++
            (((List.range (dRanks c.w)).filter (fun i => decide (i ≠ c.p))).zipIdx).map (fun p =>
              pk x p.2 (slots.getD p.1 0) 1 0 [])))))

namespace Sys2Proof.Claims

/-- A packet of this generation, not served before, in a context of its job, with fencing and holds off (11 R274, R275,
R277; 17 R432, R433). -/
def Served (s : State) (h : Hdr) (cx : Nat) : Prop :=
  h.src.toNat < 256 ∧ s.link.mem.fenced = false ∧ s.holding = false ∧ s.link.fab.servedFor h = [] ∧ h.gen = s.link.mem.gen ∧
  s.ctxOfJob h.job = some cx

/-- Outside the transport only context `cx` and the reserve of eager payloads changed. -/
def PacketFrame (s t : State) (cx : Nat) : Prop :=
  { t with ctxs := [], link := s.link } = { s with ctxs := [] } ∧ (∀ c, c ≠ cx → t.ctx c = s.ctx c) ∧
  { t.link with fab := s.link.fab, eager := 0 } = { s.link with eager := 0 }

/-- The reply of this module to a packet (11 R273, R278). -/
def replyTo (s : State) (h : Hdr) (it : Item) : Packet :=
  ⟨s.link.mem.gen, h.job, h.src.toNat, s.link.mem.slot, h.ce, h.seq.toNat, [0], [it]⟩

/-- A packet acknowledged; the answer is kept for a second copy. -/
def Acked (s t : State) (h : Hdr) : Prop :=
  t.link.fab.served = s.link.fab.served ++ [(h.src.toNat, h.seq.toNat, replyTo s h .ack)]

end Sys2Proof.Claims

/-- Arriving messages are matched in order, pulled, landed and delivered. An MSG or RTS of the next number is matched
with the first posted receive that takes it, its bytes landing in the receive's buffer (here in scratchpad memory), or
queued while there is room, else answered busy; an earlier number is only acknowledged, a later one is held without an
answer until its turn, which comes with the number before it, and a second copy of a held one changes nothing. That a
message that matches is accepted although the queue is full is the model's choice (log 72); so are the rank by which a
message to this module itself comes in (log 58) and the numbers by which PULL and PDATA name a SEND and a receive (log
74). A matched RTS is pulled. PULL is answered with PDATA, or ends the SEND where it closes; PDATA that completes a
receive ends it. RECEIVE_COMPLETION, and Q2_HELD_RELEASE for a completion held before a full Q2, push one entry to the
team's Q2 and lower path 6. (spec/12 R307; spec/12 R311; spec/12 R312; spec/12 R313; spec/12 R314; spec/12 R315;
spec/12 R316; spec/12 R317; spec/12 R318; spec/12 R320; spec/12 R323.) -/
def Obligations.MessagePackets : Prop :=
  (∀ (s : State) (m : MsgHdr) (bytes : List Byte), (s.msgIn m (.msg m.args bytes) = none → exec (.msgPacket m bytes) s = .next s) ∧
    (s.msgIn m (.rts m.args) = none → exec (.rtsPacket m) s = .next s) ∧
    (m.src.toNat ≠ s.link.mem.slot → ∀ it, s.msgIn m it = some s)) ∧
  (∀ (s y : State) (m : MsgHdr) (bytes : List Byte) (rdv : Bool) (i : Instr) (cx : Nat),
    (rdv = false ∧ i = .msgPacket m bytes ∧ s.msgIn m (.msg m.args bytes) = some y) ∨
      (rdv = true ∧ bytes = [] ∧ i = .rtsPacket m ∧ s.msgIn m (.rts m.args) = some y) →
    Served y m.head cx →
    let c := y.ctx cx
    let key := msgKey m
    let next := tget 0 c.recvNo key
    let room := c.unexp.length < 8192 ∧ y.link.eager + bytes.length ≤ 2 ^ 25
    let none1 := ∀ r ∈ c.posted, r.takes m = false
    let single := ∀ u ∈ c.unexp, u.ahead = true → msgKey u.hdr ≠ key ∨ u.hdr.num ≠ m.num
    let alone := single ∧ ∀ u ∈ c.unexp, u.ahead = true → msgKey u.hdr ≠ key ∨ u.hdr.num ≠ m.num + 1
    let acked := fun (t : State) => exec i s = .next t ∧ PacketFrame y t cx ∧ Acked y t m.head
    let silent := fun (t : State) => exec i s = .next t ∧ PacketFrame y t cx ∧ t.link.fab = y.link.fab
    (m.num < next → ∃ t, acked t ∧ t.ctx cx = c ∧ t.link.eager = y.link.eager) ∧
    (m.num = next → none1 → room → alone → ∃ t, acked t ∧ t.link.eager = y.link.eager + bytes.length ∧
      t.ctx cx = { c with
        recvNo := tset 0 c.recvNo key (m.num + 1)
        busyMsgs := c.busyMsgs.erase (key, m.num)
        unexp := c.unexp ++ [⟨m, bytes, rdv, false⟩] }) ∧
    (next < m.num → room → single → (∀ b ∈ c.busyMsgs, b.1 = key → m.num ≤ b.2) →
      ∃ t, silent t ∧ t.link.eager = y.link.eager + bytes.length ∧
        t.ctx cx = { c with
          busyMsgs := c.busyMsgs.erase (key, m.num)
          unexp := c.unexp ++ [⟨m, bytes, rdv, true⟩] }) ∧
    (next ≤ m.num → ¬ single → exec i s = .next y) ∧
    (∀ (l q : List Unexp) (u : Unexp), m.num = next → none1 → room → c.unexp = l ++ u :: q → u.ahead = true → msgKey u.hdr = key →
      u.hdr.num = m.num + 1 → (∀ r ∈ c.posted, r.takes u.hdr = false) →
      (∀ v ∈ l ++ q, v.ahead = true → msgKey v.hdr ≠ key) → u.held ≤ y.link.eager →
      ∃ t, exec i s = .next t ∧ PacketFrame y t cx ∧ t.link.eager = y.link.eager + bytes.length ∧
        t.link.fab.served = y.link.fab.served ++ [(u.hdr.src.toNat, u.hdr.seq.toNat, replyTo y u.hdr.head .ack),
          (m.src.toNat, m.seq.toNat, replyTo y m.head .ack)] ∧
        t.ctx cx = { c with
          recvNo := tset 0 (tset 0 c.recvNo key (m.num + 1)) key (m.num + 2)
          busyMsgs := c.busyMsgs.erase (key, m.num)
          unexp := l ++ q ++ [⟨m, bytes, rdv, false⟩, { u with ahead := false }] }) ∧
    (m.num = next → none1 → single → ¬ room → ∃ t, exec i s = .next t ∧ PacketFrame y t cx ∧
      t.link.fab.served = y.link.fab.served ∧ t.link.eager = y.link.eager ∧
      t.ctx cx = { c with busyMsgs := c.busyMsgs.erase (key, m.num) ++ [(key, m.num)] }) ∧
    (∀ (l q : List Recv) (r : Recv), m.num = next → c.posted = l ++ r :: q → (∀ y ∈ l, y.takes m = false) → r.takes m = true →
      (∀ y ∈ l ++ q ++ c.taken, y.handle ≠ r.handle) → alone → r.cls = none → r.pulls = [] → r.next = 0 → r.got = 0 →
      let taken := fun (t : State) (r1 : Recv) => acked t ∧ t.link.eager = y.link.eager ∧
        t.ctx cx = { c with
          recvNo := tset 0 c.recvNo key (m.num + 1)
          busyMsgs := c.busyMsgs.erase (key, m.num)
          posted := l ++ q
          taken := c.taken ++ [r1] }
      (∀ a : Nat, rdv = false →
        let bs := bytes.take (min m.len r.cap)
        bs ≠ [] → InScratch y cx r a bs.length →
        ∃ t, exec i s = .next t ∧ LandedAt y t (r.home / 96) a bs ∧ t.groups = y.groups ∧ Acked y t m.head ∧
          t.link.eager = y.link.eager ∧ t.ctx cx = { c with
            recvNo := tset 0 c.recvNo key (m.num + 1)
            busyMsgs := c.busyMsgs.erase (key, m.num)
            posted := l ++ q
            taken := c.taken ++ [{ r with
              msg := some m
              eager := true
              got := min m.len r.cap
              cls := some (if r.cap < m.len then 2 else 0) }] }) ∧
      (rdv = false → bytes = [] →
        ∃ t, taken t { r with msg := some m, eager := true, got := min m.len r.cap, cls := some (if r.cap < m.len then 2 else 0) }) ∧
      (rdv = true → 0 < m.len → m.len ≤ r.cap → m.len ≤ 8192 → y.slotSt m.src.toNat = .go m.src.toNat →
        ∃ t, taken t { r with msg := some m, eager := false, pulls := [y.link.fab.next], next := 8192 } ∧
          bareXfers t = bareXfers y ++ [⟨y.link.fab.next, .pull, cx, r.handle, .none, c.fjob, m.src.toNat, 0,
            y.link.fab.next, 0, .pull m.args 0 m.len, none, 0, false⟩]))) ∧
  (∀ (z s v : State) (h : Hdr) (id off len cx : Nat) (c : SendCmd) (l q : List SendCmd) (bs : List Byte),
    z.carriedBy h (pullItem ((z.ctxOfJob h.job).bind (fun cx => z.sendOf cx id)) off len) = some s → Served s h cx → (s.ctx cx).sends = l ++ c :: q → c.id = id → c.rdv = true → c.ctx = cx →
    (∀ y ∈ l ++ q, y.id ≠ id) →
    (len = 0 → (s.grp c.gk).live = true → ∃ t, exec (.pullPacket h id off len) z = .next t ∧
      Acked s t h ∧ t.ctx cx = { s.ctx cx with sends := l ++ q } ∧
      (∀ n, (t.grp c.gk).r.getG n =
        if n = c.gd then BitVec.ofNat 32 (min ((c.len + 4095) / 4096) 4095 * 16 + 1) else (s.grp c.gk).r.getG n) ∧
      (c.gd < 64 → (t.grp c.gk).r.emptyG c.gd = false) ∧
      (∀ p, (t.grp c.gk).y.path p = (s.grp c.gk).y.path p - if p = 6 then 1 else 0) ∧
      (∀ k, k ≠ c.gk → t.grp k = s.grp k) ∧ t.hbm = s.hbm ∧ t.cores = s.cores) ∧
    (0 < len → 8192 < len ∨ c.len < off + len →
      exec (.pullPacket h id off len) z = .next (s.modFab (fun f => f.send (replyTo s h (.nack 7))))) ∧
    (0 < len → len ≤ 8192 → off + len ≤ c.len →
      s.payRead (State.msgAg c.gk cx c.priv c.home) c.rcd off len = (.ok bs, v) → v.slotSt h.src.toNat = .go h.src.toNat →
      ∃ t, exec (.pullPacket h id off len) z = .next t ∧ { t with link := v.link } = v ∧
        t.link.fab.served = v.link.fab.served ++ [(h.src.toNat, h.seq.toNat, ⟨v.link.mem.gen, (v.ctx cx).fjob, h.src.toNat,
          v.link.mem.slot, h.ce, tget 0 v.link.fab.seqs h.src.toNat, [v.link.fab.next], [.pdata c.args off bs]⟩)] ∧
        bareXfers t = bareXfers v ++ [⟨v.link.fab.next, .pdata, cx, id, .none, (v.ctx cx).fjob, h.src.toNat, 0,
          v.link.fab.next, 0, .pdata c.args off bs, none, 0, false⟩])) ∧
  (∀ (z s v : State) (h : Hdr) (cx handle off : Nat) (bytes : List Byte) (r : Recv) (m : MsgHdr) (x : Xfer),
    z.carriedBy h (pdataItem (z.takenOf cx handle) off bytes) = some s → Served s h cx → s.takenOf cx handle = some r → r.msg = some m → r.cls = none →
    r.pullAt s.link.fab off = some x →
    let bs := bytes.take (min 8192 (r.want - off))
    m.len ≤ r.cap → 0 < m.len → r.got + bs.length = m.len →
    (s.dropX x.id).land cx r off bs = (none, v) → v.takenOf cx handle = some r →
    ∃ t, exec (.pdataPacket h cx handle off bytes) z = .next t ∧ Acked v t h ∧
      t.takenOf cx handle = some { r with pulls := r.pulls.erase x.id, got := m.len, cls := some 0 } ∧
      t.groups = v.groups ∧ t.hbm = v.hbm ∧ t.cores = v.cores) ∧
  (∀ (s : State) (cx handle : Nat) (r : Recv), s.takenOf cx handle = some r → r.handle = handle →
    let tk := r.gk / 64
    let pushed := fun (v t : State) =>
      (t.ctx cx).taken = (v.ctx cx).taken.filter (fun (q : Recv) => decide (q.handle ≠ handle)) ∧
      (t.team tk).q2 = (v.team tk).q2 ++ (if v.recvPushes r then [BitVec.ofNat 32 (handle * 2 ^ 18 + (r.cls.getD 0) * 2 ^ 15 +
        (if r.cls = some 6 then 0 else ((r.msg.map (fun m => m.srank.toNat)).getD 0) % 2 ^ 15))] else []) ∧
      (∀ k, k ≠ tk → t.team k = v.team k) ∧
      (∀ k, (t.grp k).r = (v.grp k).r) ∧
      ((v.grp r.gk).live = true → ∀ p, (t.grp r.gk).y.path p = (v.grp r.gk).y.path p - if p = 6 then 1 else 0) ∧
      (∀ k p, k ≠ r.gk → (t.grp k).y.path p = (v.grp k).y.path p) ∧ t.hbm = v.hbm ∧ t.link = v.link ∧ t.cores = v.cores
    (r.recorded = false → (s.ctx cx).recvTurn r = true →
      let v := s.recvRecord cx r
      (r.cb = none → v = s) ∧
      (v.recvPushes r = false ∨ (v.team tk).q2.length < 256 →
        ∃ t, exec (.receiveCompletion cx handle) s = .next t ∧ pushed v t) ∧
      (v.recvPushes r = true → 256 ≤ (v.team tk).q2.length →
        ∃ t, exec (.receiveCompletion cx handle) s = .next t ∧ t.groups = v.groups ∧ t.teams = v.teams ∧ t.hbm = v.hbm ∧
          (v.takenOf cx handle = some r → t.takenOf cx handle = some { r with recorded := true }))) ∧
    (cx = (s.team tk).ctx → (s.ctx cx).taken.find? (fun q => q.recorded && decide (q.gk / 64 = tk)) = some r →
      (s.team tk).q2.length < 256 → ∃ t, exec (.q2HeldRelease tk) s = .next t ∧ pushed s t))

namespace Sys2Proof.Claims

/-- Node `va` with words `w` has been taken, from the ready nodes or (`ring`) from the head of queue `q`'s ring, its RUN bit
is written and it runs: `u` is the state in which its kind acts (15 R386, R388, R392). -/
def NodeRuns (s : State) (cx q : Nat) (va : W64) (w : List W32) (ring : Bool) (u : State) : Prop :=
  (s.ctx cx).live = true ∧ ∃ v took : State, v.nodeRoom w = true ∧
    (ring = false → va ∈ (s.ctx cx).ready ∧ s.node cx va = (some w, v) ∧
      took = v.modCtx cx (fun c => { c with ready := c.ready.erase va })) ∧
    (ring = true → va ∉ (s.ctx cx).ready ∧ ∃ (e : List W32) (v0 : State), s.ringHead cx q = (some va, e, v0) ∧
      v0.node cx va = (some w, v) ∧ took = v.putHeadTail cx q (qHead e + 1) (qTail e)) ∧
    u = (took.putNode cx va 1 (nPend w * 256 + 16)).modCtx cx (fun c => { c with nodes := c.nodes ++ [(va, nQueue w)] })

/-- Between `u` and `t` only the ended nodes of context `cx` have grown, by one entry. -/
def NodeEnds (u t : State) (cx : Nat) (e : W64 × Nat × Nat × Option W32) : Prop :=
  t.ctx cx = { u.ctx cx with ended := (u.ctx cx).ended ++ [e] } ∧ (∀ c, c ≠ cx → t.ctx c = u.ctx c) ∧
  { t with ctxs := [] } = { u with ctxs := [] }

end Sys2Proof.Claims

/-- Nodes of a graph start, wait and complete. A started node is written RUN and acts by its kind: KERNEL makes a
launch of its record or ends in class 1 or 2, COPY queues a link-die copy, COLLECTIVE an activation, COND and WHILE
end with their word, SIGNAL writes its word, WAIT ends or is armed; a malformed node ends with class 1 and its lowest
bad bit. WAIT_SATISFIED ends an armed WAIT whose word has come up to its value. That the start clears DONE, CLASS and
DETAIL (log 79), that a SIGNAL of 4 bytes writes the low half of its value (log 108), and the supervisor's rights of
these accesses (log 109) are the model's choices. NODE_COMPLETION writes DONE, CLASS and DETAIL with PEND reloaded,
and stops the queue after a failure. (spec/15 R384; spec/15 R385; spec/15 R386; spec/15 R387; spec/15 R388; spec/15
R389; spec/15 R390; spec/15 R392; spec/11 R290.) -/
def Obligations.GraphNodes : Prop :=
  (∀ (s u y : State) (cx q : Nat) (va : W64) (w : List W32) (ring : Bool), NodeRuns s cx q va w ring u →
    let goes := fun (t : State) => exec (.nodeStart cx q va) s = .next t
    let sup := (u.ctx cx).sup
    let arg := fun (i : Nat) => BitVec.ofNat 64 (nArg w i)
    (∀ b, lowest (nodeBad w ring) = some b → ∃ t, goes t ∧ NodeEnds u t cx (va, 1, b, none)) ∧
    (lowest (nodeBad w ring) = none →
      (nKind w = 0 → ∀ rcd : List W32, u.gWords cx sup (arg 0) 64 = (some rcd, y) →
        let l : Launch := { Launch.reset with live := true, ctx := cx, node := va, rcd := rcd, cls := nPrio w, since := u.clock }
        let bad := lowest (l.bad (nPrio w) (nQueue w) (Config.freeW32 y.free).toNat)
        (∀ b, bad = some b → ∃ t, goes t ∧ NodeEnds { y with free := y.free + 1 } t cx (va, 1, b, none)) ∧
        (bad = none → y.couldHold l = false → ∃ t, goes t ∧ NodeEnds y t cx (va, 2, 1, none)) ∧
        (bad = none → y.couldHold l = true → l.coop = true → y.couldAll l = false →
          ∃ t, goes t ∧ NodeEnds y t cx (va, 2, 2, none)) ∧
        (bad = none → y.couldHold l = true → (l.coop = true → y.couldAll l = true) →
          ∃ t, goes t ∧ t.nextLaunch = y.nextLaunch + 1 ∧ (∃ c, t.launch y.nextLaunch = { l with cls := c }) ∧
            (∀ k, k ≠ y.nextLaunch → t.launch k = y.launch k) ∧ t.ctxs = y.ctxs ∧ t.hbm = y.hbm)) ∧
      (nKind w = 1 → ∀ b : List W32, u.gWords cx sup (arg 0) 40 = (some b, y) →
        ∃ t c, goes t ∧ t.link.copies = y.link.copies ++ [c] ∧ c.node = some va ∧ c.gk = none ∧ c.ctx = cx ∧ c.id = y.nextCopy ∧
          c.w = b.take 8 ∧ t.nextCopy = y.nextCopy + 1 ∧ t.ctxs = y.ctxs ∧ t.groups = y.groups ∧ t.hbm = y.hbm) ∧
      (nKind w = 2 → ∃ t, goes t ∧
        t = { u with link := { u.link with collWait := u.link.collWait ++
          [⟨cx, nArg w 0 % 64, BitVec.ofNat 32 (nArg w 1), some va, none, []⟩] } }) ∧
      (∀ a, nKind w = 3 ∨ nKind w = 4 → u.xlate .link (u.ctx cx).asid (arg 0) 0 sup .read = (.ok a, y) →
        ∃ t, goes t ∧ NodeEnds (y.l2range 0 a.pa 4 0 false) t cx (va, 0, 0, some (BitVec.ofNat 32 (leNat (y.pread 0 a.pa 4))))) ∧
      (∀ a, nKind w = 5 → nArg w 2 % 2 = 0 →
        u.vwrite .link (u.ctx cx).asid (arg 0) 0 sup (leBytes 4 (nArg w 1 % 2 ^ 32)) = (.ok a, y) →
        ∃ t, goes t ∧ NodeEnds y t cx (va, 0, 0, none)) ∧
      (∀ a, nKind w = 6 → u.xlate .link (u.ctx cx).asid (arg 0) 0 sup .read = (.ok a, y) →
        let now := leNat (y.pread 0 a.pa 4)
        let z := y.l2range 0 a.pa 4 0 false
        (nArg w 1 ≤ now → ∃ t, goes t ∧ NodeEnds z t cx (va, 0, 0, none)) ∧
        (now < nArg w 1 → ∃ t, goes t ∧
          t.ctx cx = { z.ctx cx with waits := (z.ctx cx).waits ++ [(va, a.pa, BitVec.ofNat 64 (nArg w 1))] } ∧
          { t with ctxs := [] } = { z with ctxs := [] })))) ∧
  (∀ (s : State) (cx pa : Nat) (va v : W64), (s.ctx cx).waits.find? (fun x => decide (x.1 = va)) = some (va, pa, v) →
    (v.toNat ≤ leNat (s.pread 0 pa 4) → ∃ t, exec (.waitSatisfied cx va) s = .next t ∧
      t.ctx cx = { s.ctx cx with
        waits := (s.ctx cx).waits.filter (fun x => decide (x.1 ≠ va))
        ended := (s.ctx cx).ended ++ [(va, 0, 0, none)] } ∧
      (∀ c, c ≠ cx → t.ctx c = s.ctx c) ∧ { t with ctxs := [] } = { s with ctxs := [] }) ∧
    (leNat (s.pread 0 pa 4) < v.toNat → exec (.waitSatisfied cx va) s = .next s)) ∧
  (∀ (s v y : State) (cx q cls detail : Nat) (va : W64) (w : List W32) (arg : Option W32) (a : XAddr) (l m : List (W64 × Nat)),
    (s.ctx cx).ended.find? (fun e => decide (e.1 = va)) = some (va, cls, detail, arg) → s.ctxLaunches cx = [] →
    (s.ctx cx).nodes = l ++ (va, q) :: m → (∀ n ∈ l ++ m, n.1 ≠ va) → s.node cx va = (some w, v) → nKind w ≠ 1 →
    v.xlate .link (s.ctx cx).asid (va + 4) 0 (s.ctx cx).sup .write = (.ok a, y) → NotMigrating s →
    (cls ≠ 0 ∨ nodeNext w arg = []) →
    ∃ t, exec (.nodeCompletion cx va) s = .next t ∧
      t.pread 0 a.pa 4 = leBytes 4 (detail % 65536 * 65536 + nDep w * 256 + cls % 8 * 2 + 1) ∧
      (∀ b, b < a.pa ∨ a.pa + 4 ≤ b → t.pbyte 0 b = v.pbyte 0 b) ∧
      (t.ctx cx).nodes = l ++ m ∧ (∀ e ∈ (t.ctx cx).ended, e.1 ≠ va) ∧ t.groups = s.groups ∧
      (cls ≠ 0 → q ∈ (t.ctx cx).stopped) ∧ (cls = 0 → (t.ctx cx).stopped = (s.ctx cx).stopped))

/-- A collective becomes active, and its packets are held, taken or refused. COLLECTIVE_ACTIVATE reads the descriptor
and rank list of a waiting activation; a legal one becomes active with the next activation number of its communicator,
an illegal one ends its node with class 3 and DETAIL 1, and one that waits on a rank out of reach with class 3 and
DETAIL 3. COLL_PACKET is acknowledged: it is kept while its activation is to come, dropped once that is over, kept
until the other packets of its chunk are here (log 94), held until a reduction's chunk is fired here, noted for a
barrier, and its final elements are written to DREC, SAT rising where a marked element is written; with the chunk
buffers full one that must wait is answered busy. That what waits in the buffers is counted by its payload bytes is
the model's choice (log 89), and so is the report of an end, which ends the activation here (log 94). (spec/11 R290;
spec/11 R291; spec/11 R292; spec/11 R293; spec/11 R297; spec/11 R300; spec/11 R303; spec/11 R304; spec/17 R437.) -/
def Obligations.Collectives : Prop :=
  (∀ (s v y : State) (q : CollWait) (ws ranks : List Nat) (l m : List CollWait) (me : Nat),
    s.link.collWait = l ++ q :: m → (∀ x ∈ l, x.ctx ≠ q.ctx ∨ x.desc ≠ q.desc) → s.link.colls.length < 64 →
    s.collOf q.ctx q.desc = none →
    ({ s with link := { s.link with collWait := l ++ m } } : State).seqRead q.ctx
      ((s.ctx q.ctx).ctbase + BitVec.ofNat 64 (128 * q.desc)) 4 32 = (.ok ws, v) →
    let w := ws.map (BitVec.ofNat 32)
    let n := dRanks w
    let key := 65536 * q.ctx + dComm w
    let act := tget 0 s.link.acts key
    2 ≤ n → n ≤ 256 →
    ({ v with link := { v.link with acts := tset 0 v.link.acts key (act + 1) } } : State).seqRead q.ctx
      (BitVec.ofNat 64 (dNum w 24 2)) 2 n = (.ok ranks, y) → ranks.eraseDups.length = n → s.link.mem.rank = some me → s.link.mem.fenced = false →
    ∀ p, ranks.idxOf? me = some p →
    (∀ (b : Nat) (nd : W64), dFieldBad w (some p) = some b → q.node = some nd →
      ∃ t, exec (.collectiveActivate q.ctx q.desc q.seed) s = .next t ∧ (nd, 3, 1, none) ∈ (t.ctx q.ctx).ended ∧
        t.collOf q.ctx q.desc = none ∧ t.groups = y.groups) ∧
    (dFieldBad w (some p) = none → dFmtOk w = true → dKind w ≠ 5 →
      rSpace (dRec w false) = 3 → rSpace (dRec w true) = 3 → q.fired = [] →
      (∀ k ∈ y.link.early, k.ctx ≠ q.ctx ∨ k.m.comm.toNat ≠ dComm w ∨ k.m.act ≠ act) → y.collOf q.ctx q.desc = none →
      let c : Coll :=
        { ctx := q.ctx, desc := q.desc, w := w, ranks := ranks, p := p, seed := q.seed, act := act, gen := s.link.mem.gen,
          fired := [], pieces := [], heldPk := [], written := [], sent := [], xf := false, esc := false, satf := false, nan := false,
          nanrank := 0xFFFF, step := 0, bound := [], node := q.node, lk := q.lk }
      c.complete = false →
      ((∀ k ∈ ranks, y.peerSt k ≠ .fail 6) →
        ∃ t, exec (.collectiveActivate q.ctx q.desc q.seed) s = .next t ∧ t.link.colls = y.link.colls ++ [c] ∧
          t.link.early = y.link.early ∧ t.link.acts = y.link.acts ∧ { t with link := y.link } = y) ∧
      (∀ (j k : Nat) (nd : W64), dKind w ≠ 3 → ranks[j]? = some k → j ≠ p → y.peerSt k = .fail 6 → q.node = some nd →
        ∃ t, exec (.collectiveActivate q.ctx q.desc q.seed) s = .next t ∧ t.collOf q.ctx q.desc = none ∧
          (nd, 3, 3, none) ∈ (t.ctx q.ctx).ended ∧ t.groups = y.groups))) ∧
  (∀ (z s : State) (h : Hdr) (m : CollMsg) (cx : Nat), z.carried h [.coll m] = some s → Served s h cx →
    let i := Instr.collPacket h m
    let room := s.heldBytes + m.len ≤ 2 ^ 26
    let busy := exec i z = .next (s.modFab (fun f => f.send (replyTo s h (.nack 6))))
    let acked := fun (t : State) => exec i z = .next t ∧ Acked s t h ∧ { t with link := s.link } = s
    let mine := fun (c : Coll) => c.ctx = cx ∧ dComm c.w = m.comm.toNat ∧ c.act = m.act
    let key := 65536 * cx + m.comm.toNat
    ((∀ c ∈ s.link.colls, ¬ mine c) → (∀ d ∈ s.link.deadColls, d.1 ≠ key ∨ d.2.1 ≠ m.act) →
      (m.act < tget 0 s.link.acts key → ∃ t, acked t ∧ { t.link with fab := s.link.fab } = s.link) ∧
      (tget 0 s.link.acts key ≤ m.act →
        (room → ∃ t, acked t ∧ { t.link with fab := s.link.fab } = { s.link with early := s.link.early ++ [⟨cx, m⟩] }) ∧
        (¬ room → busy))) ∧
    (∀ (l q : List Coll) (c : Coll), s.link.colls = l ++ c :: q → mine c → (∀ x ∈ l, ¬ mine x) → s.collOf cx c.desc = some c →
      let waits := fun (k : CollMsg) => dKind c.w < 2 ∧ k.hop < dRanks c.w ∧ k.chunk ∉ c.fired
      (∀ (e : Nat × Nat) (nd : W64), m.err = some e → c.node = some nd →
        ∃ t, exec i z = .next t ∧ Acked s t h ∧ t.collOf cx c.desc = none ∧
          (nd, 3, if e.1 = 4 ∨ e.1 = 5 then e.1 else 3, none) ∈ (t.ctx cx).ended ∧ t.groups = s.groups) ∧
      (m.err = none →
        (¬ room → waits m → busy) ∧
        (dKind c.w ≠ 5 → room ∨ ¬ waits m → c.pieces = [] → (∀ k ∈ c.heldPk, waits k) →
          (m.data.length < c.awaits m →
            let c1 := { c with pieces := [m] }
            c1.complete = false → ∃ t, acked t ∧ t.collOf cx c.desc = some c1) ∧
          (c.awaits m ≤ m.data.length →
            (waits m →
              let c1 := { c with heldPk := c.heldPk ++ [{ m with off := 0, sat := satsOf m, nan := nansOf m }] }
              c1.complete = false → ∃ t, acked t ∧ t.collOf cx c.desc = some c1) ∧
            (dKind c.w = 6 →
              let c1 := { c with written := c.written ++ [m.sender] }
              c1.complete = false → ∃ t, acked t ∧ t.collOf cx c.desc = some c1) ∧
            (∀ (v : State) (c1 : Coll), dKind c.w = 2 ∨ dKind c.w = 3 → dQfmt c.w = 0 → dRanks c.w - 1 ≤ m.hop →
              rSpace (dRec c.w true) = 3 →
              (s.putColl c).collWrite c 0 (dRange c.w m.chunk).1
                ((m.data.zipIdx).map (fun e => (e.1.toNat, m.sat.getD e.2 false, 0))) = (none, v) →
              v.collOf cx c.desc = some c1 →
              let c2 := { c1 with written := c.written ++ [m.chunk] }
              c2.complete = false →
              (c1.satf = true ↔ c.satf = true ∨ ∃ j ij, j < m.data.length ∧ m.sat.getD j false = true ∧
                vecIx (dRec c.w true) ((dRange c.w m.chunk).1 + j) = .ok (some ij)) ∧
              ∃ t, exec i z = .next t ∧ Acked v t h ∧ t.collOf cx c.desc = some c2 ∧ { t with link := v.link } = v))))))

namespace Sys2Proof.Claims

/-- The oldest doorbell taken (21 R458). -/
def popped (s : State) : State := s.modHif (fun h => { h with bells := h.bells.tail })

/-- Slot `slot` holds a request of code `code` behind the oldest doorbell, the control processor takes requests, and no drain or
load that was accepted before stands in the way (21 R458, R464). -/
def Rung (s : State) (slot code : Nat) : Prop :=
  s.hif.bells.head? = some slot ∧ s.hif.codeAt slot = code ∧ (s.hif.service ≠ 0 ∨ code = 0x10) ∧ s.hif.drains = [] ∧
  (code = 4 ∨ s.hif.loads = [])

/-- A request leaves `t`; then the doorbells behind it that no request follows are answered. -/
def Served1 (i : Instr) (s t : State) : Prop := exec i s = .next (t.settle t.hif.bells.length)

/-- A migration step has its line, `bs`, from pool memory or not, and its place takes it (11 R279). -/
def LineMoves (s : State) (e : Mig) (bs : List Byte) : Prop :=
  bs = mread (s.image e.otgt) (e.old + e.prog * 256) 256 ∧
  (e.otgt = 1 → (s.poolAsk 0 (.read (BitVec.ofNat 64 (e.old + e.prog * 256)) 256)).1 = none) ∧
  (e.ntgt = 1 → ((if e.otgt = 1 then (s.poolAsk 0 (.read (BitVec.ofNat 64 (e.old + e.prog * 256)) 256)).2 else s).poolAsk 0
    (.write (BitVec.ofNat 64 (e.new + e.prog * 256)) bs)).1 = none)

end Sys2Proof.Claims

/-- L2 registers, pin sweeps, directory requests and page migration. L2_RANGE_WRITE stores a range register with its
reserved bits 0, or L2PQ; L2_PIN_SWEEP gives every resident line of a controller its pin status anew. A directory read
leaves the segment S with the reader added, a write leaves it O at the writer with every other copy dropped, an
eviction takes the core out. MIGRATION_STEP copies one 256-byte line of a moving page, by packets where it lies in
pool memory, and moves PROG on, the last line making an outbound move DONE and an inbound one, which waits for its
TLBI before it fetches, RETIRED; a line whose packet fails stays. FAULT_REQUEST of the device or of the host's mailbox
for a far page fills the first free entry of the frame's controller, is answered "served remotely" where there is
none, and does nothing for a near page. That the frame's controller is that of the frame's first byte (log 102), the
answer with no entry free (log 40), the time of the host's answer and what a failed line does (log 137) are the
model's choices. (spec/02 R40; spec/02 R41; spec/02 R42; spec/02 R43; spec/04 R86; spec/04 R87; spec/04 R88; spec/04
R92.) -/
def Obligations.MemorySystem : Prop :=
  (∀ (s : State) (die idx : Nat) (v : BitVec 128), die < 2 →
    (idx < 8 → ∃ t, exec (.l2RangeWrite die idx v) s = .next t ∧ { t with dies := [] } = { s with dies := [] } ∧
      (∀ d, d ≠ die → t.die d = s.die d) ∧ { t.die die with l2rng := [] } = { s.die die with l2rng := [] } ∧
      (∀ j b, b < 128 → (tget 0 (t.die die).l2rng j).getLsbD b =
        if j = idx then v.getLsbD b && (decide (b < 36) || (decide (60 ≤ b) && decide (b < 100)))
        else (tget 0 (s.die die).l2rng j).getLsbD b)) ∧
    (∃ t, exec (.l2RangeWrite die 8 v) s = .next t ∧ { t with dies := [] } = { s with dies := [] } ∧
      (∀ d, d ≠ die → t.die d = s.die d) ∧ t.die die = { s.die die with l2pq := v.truncate 4 })) ∧
  (∀ (s : State) (k : Nat), k < 8 → ∃ t, exec (.l2PinSweep k) s = .next t ∧ { t with stks := [] } = { s with stks := [] } ∧
    (∀ j, j ≠ k → t.stk j = s.stk j) ∧ { t.stk k with sets := [] } = { s.stk k with sets := [] } ∧
    (∀ i, tget [] (t.stk k).sets i = (tget [] (s.stk k).sets i).map (fun (l : L2Line) => { l with pinned := s.pinned (l.addr * 256) }))) ∧
  (∀ (s : State) (die core seg r : Nat), core / 96 = die → die < 2 → (s.die die).region seg = some r → (s.die die).soft seg = false →
    let st := tget DirSt.i (s.die die).dir seg
    let now := fun (t : State) => tget DirSt.i (t.die die).dir seg
    let held := fun (t : State) (c : Nat) => ∃ x ∈ (t.core c).segs, x.seg = seg
    let kept := fun (t : State) => t.groups = s.groups ∧ t.teams = s.teams ∧ t.hbm = s.hbm ∧ t.stks = s.stks ∧
      ∀ c, (t.core c).tile = (s.core c).tile ∧ (t.core c).acc = (s.core c).acc
    ((∀ op, st ≠ .u op) → ∃ t, exec (.directoryRequest die core seg .read) s = .next t ∧ kept t ∧ held t core ∧
      now t = (match st with
        | .s cs => .s (if cs.contains core then cs else cs ++ [core])
        | .o p => if p = core then .o p else .s [p, core]
        | _ => .s [core])) ∧
    ((∀ op, st ≠ .u op) → ∃ t, exec (.directoryRequest die core seg .write) s = .next t ∧ kept t ∧ held t core ∧
      now t = .o core ∧ ∀ c ∈ dirCores st, c ≠ core → ¬ held t c) ∧
    (∀ (x : SegCopy), (s.core core).segs.find? (fun y => decide (y.seg = seg)) = some x → x.soft = false →
      ∃ t, exec (.directoryRequest die core seg .evict) s = .next t ∧ kept t ∧ ¬ held t core ∧
        (∀ cs, st = .s cs → now t = if (cs.erase core).isEmpty then .i else .s (cs.erase core)) ∧
        (∀ p, st = .o p → now t = if p = core then .i else .o p))) ∧
  (∀ (s : State) (k i : Nat),
    let e := (s.stk k).entry i
    (∀ bs : List Byte, e.st = .moving → e.otgt = 0 ∨ e.run = true → e.ntgt < 3 → LineMoves s e bs →
      ∃ t, exec (.migrationStep k i) s = .next t ∧ t.groups = s.groups ∧ t.cores = s.cores ∧
      ((∀ c slot, e.asked ≠ some (c, some slot)) → mread (t.image e.ntgt) (e.new + e.prog * 256) 256 = bs) ∧
      (∀ g b, g ≠ e.ntgt ∨ b < e.new + e.prog * 256 ∨ e.new + e.prog * 256 + 256 ≤ b → g < 3 → (g = 2 → ∀ c slot, e.asked ≠ some (c, some slot)) →
        mget (t.image g) b = mget (s.image g) b) ∧
      (∀ c slot, e.asked = some (c, some slot) → slot < 64 → leNat (mread t.hif.mail (64 * slot + 60) 4) = 0) ∧
      (t.stk k).entry i = { e with
        prog := e.prog + 1
        asked := none
        st := if e.prog * 256 + 256 < e.size then .moving else if e.otgt = 0 then .done else .retired } ∧
      (∀ k2 i2, k2 ≠ k ∨ i2 ≠ i → (t.stk k2).entry i2 = (s.stk k2).entry i2)) ∧
    (e.st = .moving → e.run = true → e.otgt = 1 → (s.poolAsk 0 (.read (BitVec.ofNat 64 (e.old + e.prog * 256)) 256)).1 ≠ none →
      ∃ t, exec (.migrationStep k i) s = .next t ∧ t.groups = s.groups ∧ t.cores = s.cores ∧ t.stks = s.stks ∧ t.hbm = s.hbm ∧
        t.pool = s.pool ∧ t.host = s.host) ∧
    (e.st ≠ .moving ∨ (e.otgt ≠ 0 ∧ e.run = false) → exec (.migrationStep k i) s = .next s)) ∧
  (∀ (s0 : State) (slot pa tgt dst : Nat) (big : Bool), Rung s0 slot 9 → tgt ≠ 0 →
    Served1 (.faultRequest pa tgt dst big (some slot)) s0 ((popped s0).mbox slot 0 1 0)) ∧
  (∀ (s0 : State) (pa tgt dst : Nat) (big : Bool) (host : Option Nat), (∀ slot, host = some slot → Rung s0 slot 9 ∧ slot < 64 ∧ tgt = 0) →
    let s := if host.isSome then popped s0 else s0
    let goes := fun (t : State) =>
      if host.isSome then Served1 (.faultRequest pa tgt dst big host) s0 t else exec (.faultRequest pa tgt dst big host) s0 = .next t
    let e := moveOf pa tgt dst (if host.isSome then 2 else 0) big
    let frame := if host.isSome then pa else dst
    let k := s.stackOf frame
    let busy := fun (i : Nat) => ((s.stk k).entry i).st ≠ .idle ∧ ((s.stk k).entry i).st ≠ .retired
    let kept := fun (t : State) => { t with stks := [], hif := s.hif, host := s.host } = { s with stks := [] } ∧
      ∀ k2, (t.stk k2).sets = (s.stk k2).sets
    let remote := fun (t : State) => match host with
      | some slot => leNat (mread t.hif.mail (64 * slot + 60) 4) = 2
      | none => t.hif = { s.hif with fault := some true } ∧ t.host = s.host
    (host = none → tgt = 0 ∨ 3 ≤ tgt → goes s) ∧
    (host.isSome = true ∨ tgt = 1 ∨ tgt = 2 →
      ((s.stk k).early tgt pa host.isSome s.clock = true → s.inHbm frame = true →
        ∃ t, goes t ∧ kept t ∧ remote t ∧ t.stks = s.stks) ∧
      ((s.stk k).early tgt pa host.isSome s.clock = false →
        pa % e.size = 0 → dst % e.size = 0 → s.inHbm frame = true → s.migrating tgt pa e.size = false →
        s.migrating (if host.isSome then 2 else 0) dst e.size = false →
        (∀ i, i < 64 → ¬ busy i → (∀ j, j < i → busy j) →
          ∃ t, goes t ∧ kept t ∧ t.host = s.host ∧
            t.hif = (if host.isSome then s.hif else { s.hif with fault := some false }) ∧
            (t.stk k).entry i = { e with asked := some (s.clock, host) } ∧
            (∀ k2 i2, k2 ≠ k ∨ i2 ≠ i → (t.stk k2).entry i2 = (s.stk k2).entry i2)) ∧
        ((∀ j, j < 64 → busy j) →
          ∃ t, goes t ∧ kept t ∧ remote t ∧ ∀ k2 i2, (t.stk k2).entry i2 = (s.stk k2).entry i2))))

/-- Teams are placed, leave, and are brought to their boundary and saved; groups exchange positions. TEAM_DISPATCH
places the next team of a launch that is alone dispatchable, with its groups at their start, each in a group slot of
its quadrant (log 19). TEAM_EXIT ends a team whose groups and accesses are done. PREEMPTION_REQUEST, TEAM_SWAP_OUT of
idle teams, and PREEMPT_TRIGGER for its victim bring the teams that move together to their boundary, no register
changing where no group stands in a GENFENCE; CONTEXT_SAVE keeps tile memory and frees slot and segments.
ACTIVE_SET_ROTATION and INVAR_POSITION_SWAP exchange positions; INVAR_WAKE retires a woken sleeper's instruction
without taking a turn. (spec/13 R349; spec/15 R382; spec/15 R385; spec/15 R393; spec/15 R396; spec/15 R398; spec/15
R399; spec/15 R404; spec/15 R405; spec/16 R421; spec/16 R422; spec/20 R451.) -/
def Obligations.TeamsMove : Prop :=
  (∀ (s : State) (die lk d o : Nat), s.units = [⟨lk, []⟩] →
    let l := s.launch lk
    let c := l.coreAt d o 0
    let tk := s.nextTeam
    l.cls < 4 → l.queue % 2 = die → l.coop = false → l.waiting = false → l.cw = 1 → l.ch = 1 →
    0 < qDef (s.queue l.ctx l.queue).1 → s.spotNew lk (s.openTo die l.cls none) = some (d, o) → s.hif.drains = [] →
    ∃ t, exec (.teamDispatch die) s = .next t ∧ t.nextTeam = tk + 1 ∧
      t.launch lk = { l with placed := l.placed + 1, since := s.clock } ∧ (∀ k, k ≠ lk → t.launch k = s.launch k) ∧
      (t.team tk).st = .resident ∧ (t.team tk).launch = lk ∧ (t.team tk).ctx = l.ctx ∧ (t.team tk).core = c ∧
      (t.team tk).gx = l.placed % l.gx ∧ (t.team tk).gy = l.placed / l.gx % l.gy ∧ (t.team tk).gz = l.placed / (l.gx * l.gy) ∧
      (∀ k, k ≠ tk → t.team k = s.team k) ∧
      (∀ i, i < l.groups → ∃ n, n % 4 = i % 4 ∧ n < 128 ∧ t.grp (64 * tk + i) = { l.group s.clock with y := { (l.group s.clock).y with gslot := n } }) ∧ (∀ k, k / 64 ≠ tk → t.grp k = s.grp k) ∧
      tget 0 t.ptr l.cls = 64 * l.ctx + l.queue) ∧
  (∀ (s : State) (tk : Nat), (s.team tk).st = .resident → s.tileOpen tk = 0 → (s.team tk).maxr = [] →
    (∀ gk ∈ s.teamKeys tk, (s.grp gk).y.status = .exited ∧ (s.grp gk).y.sends = 0 ∧
      ∀ p ∈ [0, 1, 2, 3, 4, 5, 7], (s.grp gk).y.path p = 0) →
    ∃ t, exec (.teamExit tk) s = .next t ∧ (t.team tk).st = .exited ∧
      (t.launch (s.team tk).launch).exited = (s.launch (s.team tk).launch).exited + 1 ∧
      (∀ k, k ≠ tk → t.team k = s.team k) ∧ (∀ k, k / 64 = tk → t.grp k = Group.reset) ∧
      (∀ k, k / 64 ≠ tk → t.grp k = s.grp k)) ∧
  (∀ (s : State) (tk : Nat),
    let bound := fun (t : State) (ms : List Nat) =>
      (∀ k ∈ ms, (t.team k).st = .boundary ∧ (t.team k).mates = ms) ∧ (∀ k, k ∉ ms → t.team k = s.team k) ∧
      (∀ k, (t.grp k).r = (s.grp k).r ∧ (t.grp k).sys = (s.grp k).sys ∧ (t.grp k).y.paths = (s.grp k).y.paths) ∧
      (∀ k, (s.grp k).live = true → k / 64 ∈ ms → (t.grp k).y = (s.grp k).y.abandon)
    (∀ p ∈ s.groups, p.2.y.fence = none) →
    let ms := s.movers [tk] s.teams.length
    let l := s.launch (s.team tk).launch
    let q := s.queue l.ctx l.queue
    ((s.team tk).st = .resident → ∃ t, exec (.preemptionRequest tk) s = .next t ∧ bound t ms ∧ t.hbm = s.hbm ∧ t.cores = s.cores) ∧
    ((s.team tk).st ≠ .resident → exec (.preemptionRequest tk) s = .next s) ∧
    (qThresh q.1 ≠ 0 → l.coop = false → (∀ k ∈ ms, q.2.idle k (qThresh q.1) = true) →
      ∃ t, exec (.teamSwapOut tk) s = .next t ∧ bound t ms ∧ t.hbm = s.hbm) ∧
    (qThresh q.1 = 0 → ∃ t, exec (.teamSwapOut tk) s = .next t ∧ t.teams = s.teams ∧ t.groups = s.groups) ∧
    (∀ (die lk v : Nat) (u : DUnit), s.units.find? (fun x => decide (x.lk = lk)) = some u →
      let b := s.launch lk
      let r := s.queue b.ctx b.queue
      b.queue % 2 = die → qPre r.1 = true → (r.2.placeUnit u r.2.dieOpen).isNone = true → r.2.waitsSince u + 11000 ≤ s.clock →
      b.dies.findSome? (r.2.victim b.cls) = some v →
      ∃ t, exec (.preemptTrigger die lk) s = .next t ∧ (t.team v).st = .boundary ∧
        (∀ k, k ∉ s.movers [v] s.teams.length → t.team k = s.team k) ∧
        ∀ k, (t.grp k).r = (s.grp k).r ∧ (t.grp k).sys = (s.grp k).sys)) ∧
  (∀ (s : State) (tk : Nat), (s.team tk).st = .boundary → (∀ q ∈ (s.core (s.team tk).core).running, q.team ≠ tk) →
    (∀ gk ∈ s.teamKeys tk, (s.grp gk).y.path 1 = 0 ∧ (s.grp gk).y.path 2 = 0 ∧ (s.grp gk).y.pend = []) →
    let c := (s.team tk).core
    let n := (s.launch (s.team tk).launch).tseg
    ∃ t, exec (.contextSave tk) s = .next t ∧ (t.team tk).st = .saved ∧
      (∀ b, b < 4096 * n → mget (t.team tk).saveTile b = mget (s.core c).tile (4096 * (s.team tk).base + b)) ∧
      (∀ b, b < 256 * n → mget (t.team tk).saveSide b = mget (s.core c).side (256 * (s.team tk).base + b)) ∧
      (∀ i, tget 0 (t.core c).slots i ≠ tk + 1 ∧ tget 0 (t.core c).segTeam i ≠ tk + 1) ∧ (t.core c).acc = (s.core c).acc ∧
      (∀ k, k ≠ tk → { t.team k with saveCopies := [] } = { s.team k with saveCopies := [] }) ∧
      (∀ k, { (t.grp k).r with bt := [] } = { (s.grp k).r with bt := [] }) ∧
      (∀ k, (t.grp k).sys = (s.grp k).sys ∧ { (t.grp k).y with undo := none } = { (s.grp k).y with undo := none })) ∧
  (∀ (s : State) (c q : Nat),
    let x := (s.core c).quad q
    let only := fun (t : State) (x1 : Quad) => (t.core c).quad q = x1 ∧ (∀ k, k ≠ q → (t.core c).quad k = (s.core c).quad k) ∧
      { t.core c with quads := [] } = { s.core c with quads := [] } ∧ (∀ k, k ≠ c → t.core k = s.core k) ∧
      { t with cores := [] } = { s with cores := [] }
    (∀ p h, s.coreInvar c = false → x.held.head? = some p → x.fifo.find? s.isReady = some h →
      ∃ t, exec (.activeSetRotation c q) s = .next t ∧ only t { x with
        active := tset none x.active p (some h)
        fifo := x.fifo.erase h ++ (tget none x.active p).toList
        held := x.held.erase p ++ [p] }) ∧
    (s.coreInvar c = true → exec (.activeSetRotation c q) s = .next s) ∧
    (∀ h rest, s.coreInvar c = true → 256 ≤ x.issued → x.fifo = h :: rest →
      ∃ t, exec (.invarPositionSwap c q) s = .next t ∧ only t { x with
        active := tset none x.active (x.swaps % 8) (some h)
        fifo := rest ++ (tget none x.active (x.swaps % 8)).toList
        held := x.held.erase (x.swaps % 8) ++ [x.swaps % 8]
        issued := 0
        swaps := x.swaps + 1 }) ∧
    (s.coreInvar c = false ∨ x.issued < 256 → exec (.invarPositionSwap c q) s = .next s)) ∧
  (∀ (s v : State) (gk : Nat) (i : Instr), (s.turnTo gk).cur = gk → ((s.turnTo gk).grp gk).y.status = .asleep →
    ((s.turnTo gk).grp gk).y.woken = true → (s.turnTo gk).canIssue gk = true → (s.turnTo gk).fetch = (.ok i, v) →
    (s.grp gk).y.stepArmed = false →
    ∃ t, exec (.invarWake gk) s = .next t ∧
      (t.grp gk).r = { (s.grp gk).r with pc := (s.grp gk).r.pc + BitVec.ofNat 64 (4 * (encode i).length) } ∧
      (t.grp gk).y.status = .ready ∧ (t.grp gk).y.retired = (s.grp gk).y.retired + 1 ∧
      (∀ k, k ≠ gk → t.grp k = s.grp k) ∧ (∀ c, (t.core c).turn = ((s.turnTo gk).core c).turn) ∧ t.hbm = s.hbm)

namespace Sys2Proof.Claims

/-- Request `i` in slot `slot` is done with a code and a detail, from the state `y` that it left. -/
def Completes (i : Instr) (s y : State) (slot cx code detail : Nat) : Prop := Served1 i s (y.mbox slot cx code detail)

/-- Slot `slot` bears a code as its answer. -/
def Said (t : State) (slot code : Nat) : Prop := leNat (mread t.hif.mail (64 * slot + 60) 4) = code

/-- A request with the code that its slot gives it (21 R458). -/
def isRequest (slot : Nat) (i : Instr) (code : Nat) : Prop :=
  match i with
  | .init n _ _ _ => n = slot ∧ code = 1
  | .ctxnew n _ _ _ _ _ _ _ _ => n = slot ∧ code = 2
  | .ctxdel n _ => n = slot ∧ code = 3
  | .load n _ _ _ => n = slot ∧ code = 4
  | .keyadd n _ _ _ _ _ => n = slot ∧ code = 5
  | .quote n _ => n = slot ∧ code = 6
  | .stepstart n _ _ _ => n = slot ∧ code = 7
  | .answer n _ _ => n = slot ∧ code = 8
  | .migrate n _ _ _ _ => n = slot ∧ code = 9
  | .faultRequest _ _ _ _ host => host = some slot ∧ code = 9
  | .rtable n _ => n = slot ∧ code = 10
  | .abort n _ => n = slot ∧ code = 11
  | .join n _ => n = slot ∧ code = 12
  | .fabcfg n _ => n = slot ∧ code = 13
  | .fabreset n => n = slot ∧ code = 14
  | .drain n => n = slot ∧ code = 15
  | .fwpush n _ => n = slot ∧ code = 16
  | _ => False

/-- The stripes asked for as OPEN ends (17 R440): one after another of the peers in rotation in turn, at most 4 at a peer and 128
in all, and as many as that leaves. -/
def AskedAll (j : Join) : Prop :=
  let turn := fun (k : Nat) => j.rot.getD (k % j.rot.length) 0
  let full := fun (p : Nat) => 4 ≤ (j.out.filter (fun q => decide (q.2 = p))).length
  j.out = (List.range j.next).map (fun k => (k, turn k)) ∧ j.next ≤ j.total ∧ j.next ≤ 128 ∧
  (∀ p, (j.out.filter (fun q => decide (q.2 = p))).length ≤ 4) ∧ (j.next = j.total ∨ j.next = 128 ∨ full (turn j.next))

/-- The team of a launch held or waited for a place. -/
def HeldPlace (s : State) (lk tk : Nat) : Prop :=
  (s.team tk).launch = lk ∧ ((s.team tk).st = .resident ∨ (s.team tk).st = .boundary ∨ (s.team tk).st = .saved)

end Sys2Proof.Claims

/-- Every mailbox request has its effect, writes its completion word and sends an MBOX event. A write to DOORBELL puts
a slot behind the others; one with no known code is answered 1, and in recovery all but FWPUSH are answered 2. A
request acts when its slot is the oldest, a LOAD behind other loads too. Its completion puts code and detail in word
15 of its slot and one MBOX event in the ring, or among the held events. INIT, CTXNEW, CTXDEL, LOAD, STEPSTART,
ANSWER, MIGRATE, RTABLE, ABORT, JOIN, FABCFG, FABRESET and DRAIN each change what they name and answer 0, or answer 1
malformed, 2 refused or 3 busy and change nothing else; a DRAIN is answered once no team is left. An accepted JOIN
loads its descriptor, takes the table and GEN, and opens; the last snapshot that a peer opens writes OPENED and asks
for the first stripes, and the last one closed ends it. The place of a code in a slot is the model's choice (log 142);
so are the detail's place in the word (log 46), the rest of an ABORT's record (log 48), and that a peer's answers are
events (log 39). (spec/21 R454; spec/21 R457; spec/21 R458; spec/21 R461; spec/16 R416; spec/16 R418; spec/17 R425;
spec/17 R428; spec/17 R432; spec/17 R435; spec/17 R439; spec/02 R40.) -/
def Obligations.MailboxRequests : Prop :=
  (∀ (s : State) (slot cx code detail : Nat), code < 2 ^ 16 → detail < 2 ^ 16 →
    let t := s.mbox slot cx code detail
    let ev : List W32 := [BitVec.ofNat 32 (6 + 65536 * cx), BitVec.ofNat 32 slot, BitVec.ofNat 32 (detail * 65536 + code)] ++
      List.replicate 13 0
    Said t slot (detail * 65536 + code) ∧
    (∀ a, a < 64 * slot + 60 ∨ 64 * slot + 64 ≤ a → mget t.hif.mail a = mget s.hif.mail a) ∧
    { t with hif := s.hif, host := s.host } = s ∧
    (if s.hif.held = [] ∧ (BitVec.ofNat 32 s.hif.evtail - s.hif.evhead).toNat < s.hif.ringSize then
      t.hif = { s.hif with mail := t.hif.mail, evtail := s.hif.evtail + 1 } ∧
      mread t.host ((s.hif.ring.toNat + 64 * (s.hif.evtail % s.hif.ringSize)) % 2 ^ 52) 64 = wordBytes ev
    else t.hif = { s.hif with mail := t.hif.mail, held := s.hif.held ++ [ev] } ∧ t.host = s.host)) ∧
  (∀ (s : State) (v : W32) (off : Nat), s.hif.d3hot = false → s.hif.bells = [] →
    let rings := exec (.apertureAccess off (.doorbell v)) s
    let c := s.hif.codeAt v.toNat
    (64 ≤ v.toNat → rings = .next s) ∧
    (v.toNat < 64 → (c = 0 ∨ 16 < c → rings = .next (s.mbox v.toNat 0 1 0)) ∧
      (0 < c → c ≤ 16 → s.hif.service = 0 → c ≠ 16 → rings = .next (s.mbox v.toNat 0 2 0)) ∧
      (0 < c → c ≤ 16 → s.hif.service ≠ 0 ∨ c = 16 → rings = .next (s.modHif (fun h => { h with bells := [v.toNat] }))))) ∧
  (∀ (s : State) (slot code : Nat) (i : Instr), isRequest slot i code → ¬ Rung s slot code → exec i s = .next s) ∧
  (∀ (s0 : State) (slot code : Nat), slot < 64 → Rung s0 slot code → s0.hif.service ≠ 0 →
    let s := popped s0
    (code = 1 → ∀ (ring apbase : W64) (size : Nat),
      (apbase.toNat % 2 ^ 28 ≠ 0 → Completes (.init slot ring size apbase) s0 s slot 0 1 0) ∧
      (apbase.toNat % 2 ^ 28 = 0 → ∃ t, Served1 (.init slot ring size apbase) s0 t ∧
        { t with hif := s.hif, host := s.host } = s ∧ t.hif.ring = ring ∧ t.hif.ringSize = size ∧ t.hif.apbase = apbase ∧
        Said t slot 0 ∧ t.hif.evhead = s.hif.evhead)) ∧
    (code = 2 → ∀ (cx : Nat) (sup : Bool) (asid : BitVec 13) (fjob : BitVec 16) (vt tcb ct qt : W64), cx < 2 ^ 16 →
      let i := Instr.ctxnew slot cx sup asid fjob vt tcb ct qt
      ((s.ctx cx).live = true → Completes i s0 s slot cx 2 0) ∧
      ((s.ctx cx).live = false → Completes i s0 (s.modCtx cx (fun _ => { Ctx.reset with
        live := true, sup := sup, asid := asid, fjob := fjob, vtbase := vt, tcbbase := tcb, ctbase := ct, qtbase := qt }))
        slot cx 0 0)) ∧
    (code = 3 → ∀ cx : Nat, ((s.ctx cx).live = false → Completes (.ctxdel slot cx) s0 s slot cx 2 0) ∧
      ((s.ctx cx).live = true → ∃ t, Served1 (.ctxdel slot cx) s0 t ∧ t.ctx cx = Ctx.reset ∧ Said t slot 0 ∧
        (∀ lk, (s.launch lk).live = true → (s.launch lk).ctx = cx → (t.launch lk).live = false ∧ (t.launch lk).dead = true ∧
          ∀ tk, HeldPlace s lk tk → (t.team tk).st = .exited) ∧
        (∀ c ∈ t.link.colls, c.ctx ≠ cx) ∧ ((∀ p ∈ s.teams, p.2.saveCopies = []) → ∀ c ∈ t.link.copies, c.ctx ≠ cx))) ∧
    (code = 4 → ∀ (cx seg : Nat) (c : W64),
      ((s.ctx cx).live = true → Served1 (.load slot cx seg c) s0 (s.modHif (fun h => { h with loads := h.loads ++ [(slot, cx, seg, c)] }))) ∧
      ((s.ctx cx).live = false → Completes (.load slot cx seg c) s0 s slot cx 2 0)) ∧
    (code = 7 → ∀ (cx q : Nat) (index : BitVec 16), q < 64 → (s.ctx cx).live = true → q ∉ (s.ctx cx).stopped →
      Completes (.stepstart slot cx q index) s0
        (s.modCtx cx (fun c => { c with step := tset 0 c.step q (index.toNat + 1) })) slot cx 0 0) ∧
    (code = 8 → ∀ (gk : Nat) (retry : Bool),
      ((s.grp gk).y.parked = none → Completes (.answer slot gk retry) s0 s slot (s.ctxNoG gk) 0 0) ∧
      (∀ p, (s.grp gk).y.parked = some p → (s.teamG gk).st = .resident → retry = true → s.teamHeld gk = false →
        Completes (.answer slot gk retry) s0
          (s.modGrp gk (fun g => { g with y := { g.y with status := .ready, parked := none } })) slot (s.ctxNoG gk) 0 0) ∧
      (∀ p, (s.grp gk).y.parked = some p → (s.teamG gk).st ≠ .resident → Completes (.answer slot gk retry) s0
        (s.modGrp gk (fun g => { g with y := { g.y with parked := some { p with answer := some retry } } }))
        slot (s.ctxNoG gk) 0 0)) ∧
    (code = 9 → ∀ (k i old otgt new ntgt : Nat) (big : Bool), k < 8 → i < 64 → old < 2 ^ 52 → new < 2 ^ 52 → otgt < 4 → ntgt < 4 →
      let e := moveOf old otgt new ntgt big
      let r := Instr.migrate slot k i (BitVec.ofNat 128 (old + otgt * 2 ^ 56 + ntgt * 2 ^ 58 + new * 2 ^ 64)) big
      (s.migOk e = false → Completes r s0 s slot 0 1 0) ∧
      (s.migOk e = true → Mig.home s e = some k → ((s.stk k).entry i).st = .moving → Completes r s0 s slot 0 3 0) ∧
      (s.migOk e = true → Mig.home s e = some k → ((s.stk k).entry i).st = .idle →
        s.migrating otgt old e.size = false → s.migrating ntgt new e.size = false →
        Completes r s0 (s.setMig k i { e with run := decide (otgt ≠ 0) && s.rewritten e (fun _ _ _ => true) }) slot 0 0 0)) ∧
    (code = 10 → ∀ addr : Nat,
      (s.rankImage addr = none → Completes (.rtable slot addr) s0 (s.l2range 0 addr 528 0 false) slot 0 2 0) ∧
      (∀ tab, s.rankImage addr = some tab →
        Completes (.rtable slot addr) s0 ((s.l2range 0 addr 528 0 false).modMem (fun m => { m with pend := some tab })) slot 0 0 0)) ∧
    (code = 11 → ∀ job cx : Nat, (s.ctx cx).live = true → (s.ctx cx).fjob.toNat = job → ∃ t, Served1 (.abort slot job) s0 t ∧
      Said t slot 0 ∧ (∀ q, q < 64 → q ∈ (t.ctx cx).stopped) ∧
      ∀ lk, (s.launch lk).live = true → (s.launch lk).ctx = cx → (t.launch lk).dead = true ∧
        ∀ tk, HeldPlace s lk tk → (t.team tk).st = .exited) ∧
    (code = 12 → ∀ addr : Nat,
      let st := s.link.join.st
      let w := s.hbmWords addr 16
      let bad := (s.modJoin (fun _ => { Join.reset with st := .opening, w := w })).joinBad w
      (st = .opening ∨ st = .pull ∨ st = .closing → Completes (.join slot addr) s0 s slot 0 3 0) ∧
      (st ≠ .opening → st ≠ .pull → st ≠ .closing → NotMigrating s →
        (∀ b, bad = some b → b < 2 ^ 16 →
          ∃ t, Served1 (.join slot addr) s0 t ∧ t.link.join.st = .failed ∧ t.link.mem = s.link.mem ∧ Said t slot 0 ∧
            leNat (t.pread 0 (dNum w 8 2 % 2 ^ 52) 4) = b * 65536 + 3) ∧
        (bad = none → s.mayJoin = true → s.link.mem.fenced = false →
          let peers := (s.hbmWords (dNum w 2 2 % 2 ^ 52) (dWord w 1 / 2 ^ 16 % 2 ^ 8)).map (fun p => (p.toNat / 65536, p.toNat % 256))
          let near := (List.range peers.length).filter (fun i => !(s.link.fab.route (peers.getD i (0, 0)).2).isEmpty)
          near ≠ [] → ∃ t, Served1 (.join slot addr) s0 t ∧ Said t slot 0 ∧ t.hbm = s.hbm ∧ t.groups = s.groups ∧
            { t.link with join := s.link.join } = { s.link with
              early := []
              acts := []
              deadColls := []
              mem := { s.link.mem with cur := s.rankImage (dNum w 6 2), gen := BitVec.ofNat 16 (dWord w 0 / 65536) } } ∧
            t.link.join = { Join.reset with
              st := .opening
              w := w
              peers := peers
              rot := near
              regions := (List.range (dWord w 1 % 2 ^ 16)).map (fun i =>
                let r := s.hbmWords (dNum w 4 2 % 2 ^ 52 + 32 * i) 8
                (dWord r 0, dWord r 1, dNum r 2 2, dNum r 4 2, dNum r 6 2)) }))) ∧
    (code = 13 → ∀ cfg : List Byte,
      (cfg.length ≠ 176 ∨ fabcfgOk (cfgWords cfg) = false → Completes (.fabcfg slot cfg) s0 s slot 0 1 0) ∧
      (cfg.length = 176 → fabcfgOk (cfgWords cfg) = true → Completes (.fabcfg slot cfg) s0 (s.modMem (fun m => { m with
        cfg := some (cfgWords cfg)
        good := if m.cfg.isSome then m.good else s.clock
        slot := ((cfgWords cfg).getD 2 0).toNat % 256
        seen := []
        accusing := []
        accused := []
        lost := [] })) slot 0 0 0)) ∧
    (code = 14 → (∃ t, Served1 (.fabreset slot) s0 t ∧ Said t slot 0 ∧ t.link.mem = { Member.reset with slot := s.link.mem.slot } ∧
        t.link.colls = [] ∧ t.link.early = [] ∧ t.link.acts = [] ∧ t.link.deadColls = []) ∧
      (s.link.colls = [] → Completes (.fabreset slot) s0 { s with
        link := { s.link with early := [], acts := [], deadColls := [], mem := { Member.reset with slot := s.link.mem.slot } }
        hif := { s.hif with fenceTold := false } } slot 0 0 0)) ∧
    (code = 15 → ∃ t, Served1 (.drain slot) s0 t ∧ t.link.mem = { s.link.mem with leaving := true } ∧
      (if ∀ p ∈ t.teams, p.2.st ≠ .resident ∧ p.2.st ≠ .boundary then Said t slot 0 ∧ t.hif.drains = []
      else t.hif.drains = [slot] ∧ t.hif.mail = s.hif.mail) ∧
      (∀ tk, (s.team tk).st = .resident → (t.team tk).st = .boundary) ∧
      ((∀ k, (s.grp k).y.fence = none) → ∀ k, (t.grp k).r = (s.grp k).r))) ∧
  (∀ (s : State) (tk slot : Nat), slot < 64 → s.hif.drains = [slot] → s.maySave tk = true →
    (∀ p ∈ s.teams, p.1 ≠ tk → p.2.st ≠ .resident ∧ p.2.st ≠ .boundary) → (s.teams.map (fun p => p.1)).Nodup →
    ∃ t, exec (.contextSave tk) s = .next t ∧ Said t slot 0 ∧ t.hif.drains = []) ∧
  (∀ (s : State) (i hd h pages live ver r : Nat), s.link.join.st = .opening → i ∈ s.link.join.rot → s.link.mem.fenced = false →
    s.holding = false → s.link.join.wanted i live ver = some r →
    let j := s.link.join
    let j1 := { j with snaps := j.snaps ++ [(i, r, h)] }
    let x := j.regions.getD r (0, 0, 0, 0, 0)
    x.2.2.2.1 + x.2.2.2.2 ≤ 65536 * pages →
    (j1.opened = false → exec (.snapshotOpen (.peer i (some (some (h, pages)))) hd live ver) s = .next (s.modJoin (fun _ => j1))) ∧
    (j1.opened = true → j.total ≠ 0 → j.out = [] → j.next = 0 → j.again = [] → NotMigrating s →
      ∃ t, exec (.snapshotOpen (.peer i (some (some (h, pages)))) hd live ver) s = .next t ∧
        { t.link.join with out := [], next := 0 } = { j1 with st := .pull } ∧ AskedAll t.link.join ∧ t.groups = s.groups ∧
        leNat (t.pread 0 (dNum j.w 8 2 % 2 ^ 52) 4) = 16)) ∧
  (∀ (s : State) (i r h cls detail : Nat) (opened : Bool) (a : Option (Option (Nat × Nat))), s.link.join.st = .closing → NotMigrating s →
    s.link.join.fin = some (cls, detail, opened) → s.link.join.snaps = [(i, r, h)] → cls < 8 → detail < 2 ^ 16 →
    let j := s.link.join
    ∃ t, exec (.snapshotClose (.peer i a) h) s = .next t ∧ t.groups = s.groups ∧
      t.link.join = { j with st := if cls = 0 then .done else .failed, fin := none, snaps := [] } ∧
      leNat (t.pread 0 (dNum j.w 8 2 % 2 ^ 52) 4) = detail * 65536 + (if opened then 16 else 0) + cls * 2 + 1)

/-- The host's own accesses, the loader, keys and quotes. NOTIFY sets TAIL of an enabled queue and is otherwise
dropped with an event; EVHEAD_WRITE lets held events follow. APERTURE_ACCESS in D0 reads the capability record, HBM
and EVHEAD, and writes the mailbox and unlocked HBM; it reads and writes the words of BAR 4 as the debug window
(layout: log 49), reads ALARM at the I3C target's address and the FRU EEPROM in any state, and changes the power
state, in whose D3hot no BAR answers (log 143). REGISTER_WRITE stores in the register that its number names.
DEBUG_RESUME sends the oldest stopped group back by its saved registers. SEGMENT_LOAD refuses a bad container and
otherwise writes, locks and measures the segment; KEYADD acts only on a good signature, and QUOTE signs with an unused
index and writes AR, the count and the signature to the buffer that it names (log 142). What the device key's secrets
and the measurement are is a free value (log 9). (spec/16 R409; spec/21 R454; spec/21 R455; spec/21 R457; spec/21
R461; spec/21 R462; spec/21 R463; spec/21 R466.) -/
def Obligations.HostWindow : Prop :=
  (∀ (s : State) (cx q tail : Nat), cx < 2 ^ 16 → q < 64 → tail < 2 ^ 16 →
    let v := BitVec.ofNat 64 (cx * 2 ^ 32 + q * 2 ^ 16 + tail)
    let r := s.queue cx q
    let told := fun (u : State) => u.event1 7 cx [v.truncate 32, v.extractLsb' 32 32]
    exec (.notify v false) s = .next (told s) ∧
    ((s.ctx cx).live = false → exec (.notify v true) s = .next (told s)) ∧
    ((s.ctx cx).live = true → qEn r.1 = false ∨ qSize r.1 < (tail + 65536 - qHead r.1) % 65536 →
      exec (.notify v true) s = .next (told r.2)) ∧
    ((s.ctx cx).live = true → qEn r.1 = true → (tail + 65536 - qHead r.1) % 65536 ≤ qSize r.1 →
      exec (.notify v true) s = .next (r.2.putQueue cx q 3 (qHead r.1 % 65536 + tail * 65536)))) ∧
  (∀ (s : State) (v : W32),
    (s.hif.held = [] → ∃ t, exec (.evheadWrite v) s = .next t ∧ t = { s with hif := { s.hif with evhead := v } }) ∧
    (∀ ev : List W32, s.hif.held = [ev] → (BitVec.ofNat 32 s.hif.evtail - v).toNat < s.hif.ringSize →
      ∃ t, exec (.evheadWrite v) s = .next t ∧ t.hif = { s.hif with evhead := v, held := [], evtail := s.hif.evtail + 1 } ∧
        { t with hif := s.hif, host := s.host } = s ∧
        mread t.host ((s.hif.ring.toNat + 64 * (s.hif.evtail % s.hif.ringSize)) % 2 ^ 52) (4 * ev.length) = wordBytes ev)) ∧
  (∀ (s : State) (off n : Nat) (v : W32),
    let gives := fun (op : ApOp) (bs : List Byte) => exec (.apertureAccess off op) s = .next { s with hif := { s.hif with apdata := bs } }
    (∀ d3 : Bool, exec (.apertureAccess off (.power d3)) s = .next { s with hif := { s.hif with d3hot := d3 } }) ∧
    (∀ op ∈ ([.read n, .write [], .bar0 n, .doorbell v, .bar4 n, .poke v] : List ApOp), s.hif.d3hot = true → gives op []) ∧
    (∀ a, gives (.i3c a n) (if a = 0x3A + (if Config.slotBit then 1 else 0) then (List.range n).map (fun i => s.i3cRead (off + i)) else [])) ∧
    s.i3cRead 1 = s.nv.alarm &&& 0x7F ∧ s.i3cRead 0 = BitVec.ofNat 8 s.phys.state ∧
    gives (.fru n) ((List.range n).map (fun i => s.nv.fru.getD (off + i) 0)) ∧
    (∀ gk rest, s.hif.d3hot = false → s.hif.dbg = gk :: rest → (s.grp gk).y.status = .debug →
      (∀ m, m < 64 → off = 0x4000 + 4 * (2052 + m) →
        exec (.apertureAccess off (.poke v)) s = exec (.registerWrite gk (0x10000 + 2052 + m) v) s ∧
        gives (.bar4 4) (leBytes 4 (tget 0 (s.grp gk).r.g m).toNat)) ∧
      (off = 0x4000 + 0x3FFC → exec (.apertureAccess off (.poke v)) s = exec (.debugResume 0 (v.getLsbD 0)) s) ∧
      (off < 0x4000 → exec (.apertureAccess off (.poke v)) s = .next s))) ∧
  (∀ (s : State) (off n : Nat) (b : Byte), s.hif.d3hot = false →
    (off + n ≤ 64 → exec (.apertureAccess off (.read n)) s =
      .next { s with hif := { s.hif with apdata := (s.hif.capBytes.drop off).take n } }) ∧
    (0x1000 ≤ off → off < 0x2000 → exec (.apertureAccess off (.write [b])) s =
      .next { s with hif := { s.hif with mail := mset s.hif.mail (off - 0x1000) b } }) ∧
    (off < 64 → exec (.apertureAccess off (.write [b])) s = .next s) ∧
    exec (.apertureAccess 0x10 (.bar0 4)) s = .next { s with hif := { s.hif with apdata := leBytes 4 s.hif.evhead.toNat } } ∧
    (0x10000000 ≤ off → off < 0x20000000 →
      let pa := s.hif.apbase.toNat + (off - 0x10000000)
      (s.inHbm pa = true → ∃ t, exec (.apertureAccess off (.read 1)) s = .next t ∧ t.hif.apdata = [s.pbyte 0 pa] ∧
        t.hbm = s.hbm ∧ t.groups = s.groups) ∧
      (s.inHbm pa = true → s.lockedPa pa = false → NotMigrating s →
        ∃ t, exec (.apertureAccess off (.write [b])) s = .next t ∧ t.pbyte 0 pa = b ∧
          (∀ a, a ≠ pa → t.pbyte 0 a = s.pbyte 0 a) ∧ t.groups = s.groups) ∧
      (s.lockedPa pa = true → ∃ t, exec (.apertureAccess off (.write [b])) s = .next t ∧ t.hbm = s.hbm ∧ t.groups = s.groups))) ∧
  (∀ (s : State) (gk : Nat) (v : W32),
    (∃ t, exec (.registerWrite gk 0x8000 v) s = .next t ∧ { t with astbase := s.astbase } = s ∧
      t.astbase.toNat = s.astbase.toNat / 2 ^ 32 * 2 ^ 32 + v.toNat) ∧
    (∃ t, exec (.registerWrite gk 0x8001 v) s = .next t ∧ { t with astbase := s.astbase } = s ∧
      t.astbase.toNat = v.toNat % 2 ^ 20 * 2 ^ 32 + s.astbase.toNat % 2 ^ 32) ∧
    (∀ i, i < 16 → ∃ t, exec (.registerWrite gk (0x9000 + 2 * i) v) s = .next t ∧
      (tget 0 (t.die gk).sprgn i).toNat = (tget 0 (s.die gk).sprgn i).toNat % 2 ^ 48 / 2 ^ 32 * 2 ^ 32 + v.toNat ∧
      (∀ j, j ≠ i → tget 0 (t.die gk).sprgn j = tget 0 (s.die gk).sprgn j) ∧ (∀ d, d ≠ gk → t.die d = s.die d) ∧
      { t with dies := [] } = { s with dies := [] }) ∧
    (∀ i, i < 16 → ∃ t, exec (.registerWrite gk (0x9000 + 2 * i + 1) v) s = .next t ∧
      (tget 0 (t.die gk).sprgn i).toNat = v.toNat % 2 ^ 16 * 2 ^ 32 + (tget 0 (s.die gk).sprgn i).toNat % 2 ^ 32 ∧
      { t with dies := [] } = { s with dies := [] }) ∧
    ((s.grp gk).live = true → ∃ t, exec (.registerWrite gk 0x107 v) s = .next t ∧
      t.grp gk = { s.grp gk with sys := { (s.grp gk).sys with texm := v.truncate 16 } } ∧
      (∀ k, k ≠ gk → t.grp k = s.grp k) ∧ { t with groups := [] } = { s with groups := [] }) ∧
    (∀ n, n < 64 → (s.grp gk).y.status = .debug → ∃ t, exec (.registerWrite gk (0x10000 + 2052 + n) v) s = .next t ∧
      (∀ m, (t.grp gk).r.getG m = if m = n then v else (s.grp gk).r.getG m) ∧ (∀ k, k ≠ gk → t.grp k = s.grp k) ∧
      { t with groups := [] } = { s with groups := [] }) ∧
    (∀ n, (s.grp gk).y.status ≠ .debug → exec (.registerWrite gk (0x10000 + n) v) s = .next s)) ∧
  (∀ (s : State) (gk : Nat) (rest : List Nat) (ss : Bool), s.hif.dbg = gk :: rest → (s.ctxG gk).dbg.getLsbD 1 = false →
    ∃ t, exec (.debugResume 0 ss) s = .next t ∧ t.hif = { s.hif with dbg := rest } ∧
      (t.grp gk).r = { (s.grp gk).r with
        exm := (s.grp gk).sys.texm
        pc := (s.launchG gk).cb + (s.grp gk).sys.tepc.zeroExtend 64 } ∧
      (t.grp gk).sys = { (s.grp gk).sys with ss := ss, hm := false } ∧ (t.grp gk).y.status = .ready ∧
      (t.grp gk).y.stepArmed = ss ∧ (∀ k, k ≠ gk → t.grp k = s.grp k)) ∧
  (∀ s : State, s.hif.loads = [] → exec .segmentLoad s = .next s) ∧
  (∀ (s : State) (slot cx seg : Nat) (cont : W64) (rest : List (Nat × Nat × Nat × W64)),
    s.hif.loads = (slot, cx, seg, cont) :: rest →
    let c := cont.toNat % 2 ^ 52
    let hdr := s.hbmWords c 16
    let e := s.hbmWords (c + dWord hdr 4 + 64 * seg) 16
    let size := dWord e 1
    let va := dNum e 4 2
    let kind := dWord e 0 % 4
    let ks := dWord e 0 / 16 % 16
    let meas := (wordBytes e).drop 32
    let head := (wordBytes e).take 32
    let bs := s.pread 0 (c + dWord e 2) size
    (hdr.take 2 ≠ [0x4F56454B, 0x00010000] → ∃ t, exec .segmentLoad s = .next t ∧ t.hbm = s.hbm ∧ t.ctxs = s.ctxs ∧
      t.groups = s.groups ∧ t.hif.loads = rest ∧ t.hif.ext = s.hif.ext ∧ leNat (mread t.hif.mail (64 * slot + 60) 4) = 1) ∧
    (∀ (a g f room lf : Nat) (k : List Byte × Bool), hdr.take 2 = [0x4F56454B, 0x00010000] →
      (∀ x ∈ hdr.drop 8, x = 0) → seg < dWord hdr 2 → kind = 1 ∨ kind = 2 → va % 65536 = 0 → dNum e 6 2 = 0 →
      isCanon (BitVec.ofNat 64 va) = true → (s.ctx cx).live = true →
      s.loadLeaves (s.ctx cx).asid (va % 2 ^ 57) (va % 2 ^ 57 + size) (size / 65536 + 1) = some [(a, g, f, room, lf)] →
      let filled := fun (t : State) => (NotMigrating s → g ≠ 2 → size ≤ room → t.pread g f room = bs ++ List.replicate (room - size) 0) ∧
        (t.ctx cx).locked = (s.ctx cx).locked ++ framesOf [(a, g, f, room, lf)] ∧ t.hif.loads = rest ∧ t.groups = s.groups
      (shake256 bs ≠ BitVec.ofNat 256 (leNat meas) →
        ∃ t, exec .segmentLoad s = .next t ∧ filled t ∧ t.hif.ext = s.hif.ext ∧ t.hif.ar = s.hif.ar ∧
          leNat (mread t.hif.mail (64 * slot + 60) 4) = 65536 + 2) ∧
      (shake256 bs = BitVec.ofNat 256 (leNat meas) → s.hif.key ks = some k →
        xmssVerify k.1 (head ++ meas) (s.pread 0 (c + dWord e 3) 2820) = true →
        ∃ t, exec .segmentLoad s = .next t ∧ t.hif.ext = s.hif.ext + 1 ∧
          t.hif.ar = shake256 (leBytes 32 s.hif.ar.toNat ++ (1 :: BitVec.ofNat 8 ks :: head ++ meas)) ∧
          filled t ∧ leNat (mread t.hif.mail (64 * slot + 60) 4) = 0))) ∧
  (∀ (s0 : State) (slot : Nat), slot < 64 →
    let s := popped s0
    (Rung s0 slot 5 → ∀ (kslot signer : Nat) (key sig k : List Byte) (admin : Bool), 0 < kslot → kslot < 8 → key.length = 68 →
      s.hif.key signer = some (k, true) →
      let msg := BitVec.ofNat 8 kslot :: key
      (xmssVerify k msg sig = false → Completes (.keyadd slot kslot signer key sig admin) s0 s slot 0 2 0) ∧
      (xmssVerify k msg sig = true → Completes (.keyadd slot kslot signer key sig admin) s0
        (s.modHif (fun h => { h with
          ar := shake256 (leBytes 32 h.ar.toNat ++ 2 :: msg)
          ext := h.ext + 1
          keys := tset none h.keys kslot (some (key, admin)) })) slot 0 0 0)) ∧
    (Rung s0 slot 6 → ∀ (nonce : List Byte) (dst : Nat),
      let i := Instr.quote slot (nonce, dst)
      let fits := s.inHbm dst = true ∧ s.inHbm (dst + 5644) = true
      (nonce.length ≠ 32 ∨ ¬ fits → Completes i s0 s slot 0 1 0) ∧
      (nonce.length = 32 → fits → s.nv.n % 1024 = 0 → 16384 ≤ s.nv.f → Completes i s0 s slot 0 2 3) ∧
      (nonce.length = 32 → fits → s.nv.n % 1024 ≠ 0 ∨ s.nv.f < 16384 →
        let body := leBytes 32 s.hif.ar.toNat ++ leBytes 8 s.hif.ext
        let sig := devSign s.nv.n (shakeBytes (nonce ++ body ++ s.hif.capBytes))
        ∃ t, Served1 i s0 t ∧ t.nv.n = s.nv.n + 1 ∧
          t.nv.f = (if s.nv.n % 1024 = 0 then max s.nv.f (s.nv.n / 1024 + 1) else s.nv.f) ∧ t.nv.image = s.nv.image ∧
          t.hif.quote = some (s.hif.ar, s.hif.ext, sig) ∧ Said t slot 0 ∧ t.groups = s.groups ∧
          (NotMigrating s → t.pread 0 dst (40 + sig.length) = body ++ sig ∧
            ∀ b, b < dst ∨ dst + 40 + sig.length ≤ b → t.pbyte 0 b = s.pbyte 0 b))))

/-- Beats, watching, accusations, fencing, holds and the stripes of a join. HEARTBEAT counts and writes this module's
record at each of its nodes unless fenced. Five accusation bits found by SELF_CHECK_RESULT fence the module, which
ends a join and tells the control processor, fewer end a hold, send what it kept back, and begin the wait of 440,000
clocks anew; TRAFFIC_HOLD holds when it has passed. WATCHER_CHECK accuses after four reads without a new beat, on
LEAVING, and again at each check after that. ACCUSATION_RESULT sets this module's bit, tells the host when the fifth
bit falls or after four lost accusations. STRIPE_LANDED lands a stripe whose check sum agrees, has one asked for again
until its third failure, and ends the join, whose snapshots are then closed. That word 1 of a record keeps its
accusations on the vote node (log 38), which peer comes next after a failure (log 39), and that a join ends as the
module is fenced (log 120) are the model's choices. (spec/17 R429; spec/17 R430; spec/17 R431; spec/17 R432; spec/17
R433; spec/17 R440; spec/17 R441.) -/
def Obligations.TinCry : Prop :=
  (∀ (s : State) (w : List W32), s.link.mem.cfg = some w →
    let m := s.link.mem
    (m.fenced = true → ∃ t, exec .heartbeat s = .next t ∧ t.link.mem = m ∧ t.pool = s.pool ∧ t.groups = s.groups) ∧
    (m.fenced = false → ∃ t, exec .heartbeat s = .next t ∧ t.link.mem = { m with beat := m.beat + 1 } ∧ t.groups = s.groups ∧
      (∀ node, NotMigrating s → m.beatNodes = [node] → s.link.fab.route (0x8000 + node) ≠ [] →
        let a := m.recAddr node m.slot
        leNat (t.pread 1 a 4) = (m.beat + 1).toNat ∧ leNat (t.pread 1 (a + 8) 4) = (if m.leaving then 1 else 0) ∧
        leNat (t.pread 1 (a + 12) 4) = m.gen.toNat ∧
        (if node = m.vnode then t.pread 1 (a + 4) 4 = s.pread 1 (a + 4) 4 else leNat (t.pread 1 (a + 4) 4) = 0) ∧
        (∀ b, b < a ∨ a + 16 ≤ b → t.pbyte 1 b = s.pbyte 1 b)))) ∧
  (∀ s : State, s.link.mem.cfg = none → exec .heartbeat s = .next s ∧ exec .trafficHold s = .next s) ∧
  (∀ (s : State) (w : List W32) (a : BitVec 8), s.link.mem.cfg = some w →
    let ones := ((List.range 8).filter (fun i => a.getLsbD i)).length
    (5 ≤ ones → s.link.mem.fenced = true → exec (.selfCheckResult (some a)) s = .next s) ∧
    (5 ≤ ones → ∃ t, exec (.selfCheckResult (some a)) s = .next t ∧ t.link.mem = { s.link.mem with fenced := true } ∧
      (s.link.mem.fenced = false → t.hif.fenceTold = true ∧ t.link.fab.parked = []) ∧
      (s.link.mem.fenced = false → s.link.colls = [] → (∀ x ∈ s.link.fab.xfers, 256 ≤ x.dst) → (∀ p ∈ s.ctxs, p.2.sends = []) →
        s.link.join.st ≠ .opening → s.link.join.st ≠ .pull →
        t = { s with
          link := { s.link with mem := { s.link.mem with fenced := true }, fab := { s.link.fab with parked := [] } }
          hif := { s.hif with fenceTold := true } })) ∧
    (s.link.mem.fenced = false → s.link.join.st = .opening ∨ s.link.join.st = .pull → s.link.join.snaps = [] → 5 ≤ ones →
      ∃ t, exec (.selfCheckResult (some a)) s = .next t ∧ t.link.join.st = .failed) ∧
    (ones < 5 → ∃ t, exec (.selfCheckResult (some a)) s = .next t ∧ t.link.mem = { s.link.mem with held := false, good := s.clock } ∧
      (s.link.join.st ≠ .pull → s.link.fab.parked = [] → t = s.modMem (fun m => { m with held := false, good := s.clock })) ∧
      (∀ k, s.link.join.st ≠ .pull → s.link.mem.fenced = false → s.link.fab.parked = [k] → s.link.fab.route k.dst ≠ [] →
        t.link.fab.parked = [] ∧ t.groups = s.groups ∧ ∀ p, t.link.fab.port p = (s.link.fab.send k).port p)) ∧
    exec (.selfCheckResult none) s = .next s ∧
    (s.link.mem.good + 440000 < s.clock → exec .trafficHold s = .next (s.modMem (fun m => { m with held := true }))) ∧
    (s.link.mem.held = false → s.clock ≤ s.link.mem.good + 440000 → exec .trafficHold s = .next s)) ∧
  (∀ (s : State) (j : Nat) (b : W32) (lv : Bool), s.link.mem.watches j = true →
    let m := s.link.mem
    let old := tget (none, 0) m.seen j
    let n := if old.1 = some b then old.2 + 1 else 0
    let seen1 := tset (none, 0) m.seen j (some b, n)
    (n < 4 → lv = false → j ∉ m.accused → exec (.watcherCheck j (some (b, lv))) s = .next (s.modMem (fun m => { m with seen := seen1 }))) ∧
    (4 ≤ n ∨ lv = true ∨ j ∈ m.accused → ∃ t, exec (.watcherCheck j (some (b, lv))) s = .next t ∧
      t.link.mem = { m with seen := seen1, accusing := m.accusing.erase j ++ [j], accused := m.accused.erase j ++ [j] } ∧
      (let dst := 0x8000 + (m.watched j).2.1
       let q := s.link.fab.takeSeq dst
       { t.link.fab with rates := [] } = if s.link.fab.route dst = [] then { s.link.fab with rates := [] } else
         Fabric.send { q.2 with rates := [] } (s.request 0 dst q.1 [] [.atom ⟨BitVec.ofNat 64 (m.recAddr (m.watched j).2.1 (m.watched j).1 + 4), .or, BitVec.ofNat 32 (2 ^ (m.watched j).2.2), 0⟩])) ∧
      (s.answers = [] → t.link.fab.rates = s.link.fab.rates) ∧ t.groups = s.groups ∧ t.pool = s.pool) ∧
    (∃ t, exec (.watcherCheck j none) s = .next t ∧
      tget (none, 0) t.link.mem.seen j = (old.1, old.2 + 1) ∧ (j ∈ t.link.mem.accusing ↔ 4 ≤ old.2 + 1 ∨ j ∈ m.accused ∨ j ∈ m.accusing))) ∧
  (∀ (s : State) (j : Nat), s.link.mem.watches j = true → j ∈ s.link.mem.accusing →
    let m := s.link.mem
    let w := m.watched j
    let n := tget 0 m.lost j + 1
    let dropped := s.modMem (fun m => { m with accusing := m.accusing.erase j, lost := tset 0 m.lost j n })
    (n ≠ 4 → exec (.accusationResult j none) s = .next dropped) ∧
    (n = 4 → exec (.accusationResult j none) s = .next (dropped.event1 4 0 [BitVec.ofNat 32 w.1])) ∧
    (∀ a : BitVec 8, NotMigrating s →
      let ones := fun (x : Nat) => ((List.range 8).filter (fun i => x.testBit i)).length
      let new := a.toNat ||| 2 ^ w.2.2
      ∃ t, exec (.accusationResult j (some a)) s = .next t ∧
        t.link.mem = { m with accusing := m.accusing.erase j, lost := tset 0 m.lost j 0 } ∧ t.groups = s.groups ∧
        leNat (t.pread 1 (m.recAddr w.2.1 w.1 + 4) 4) = new ∧
        (ones a.toNat < 5 → 5 ≤ ones new → s.hif.held ≠ [] →
          t.hif.held = s.hif.held ++ [[BitVec.ofNat 32 3, BitVec.ofNat 32 w.1, BitVec.ofNat 32 new] ++ List.replicate 13 0]) ∧
        (5 ≤ ones a.toNat ∨ ones new < 5 → t.hif = s.hif ∧ t.host = s.host))) ∧
  (∀ (s v : State) (k p va : Nat) (crc : W32) (err : Bool) (bytes : List Byte),
    let j := s.link.join
    let s0 := s.modJoin (fun x => { x with out := x.out.erase (k, p) })
    s.link.mem.fenced = false → s.holding = false → stripeAt k j.regions = some (va, bytes.length) → j.st = .pull → j.out.find? (fun q => decide (q.1 = k)) = some (k, p) →
    s0.stripeLand (dWord j.w 10 % 65536) va 32 bytes = (some (), v) → v.link.join = s0.link.join →
    let good := err = false ∧ crc32c bytes = crc.toNat
    let n := tget 0 j.fails k + 1
    (good → j.landed.length + 1 ≠ j.total →
      exec (.stripeLanded k crc err bytes) s = .next ((v.modJoin (fun x => { x with landed := x.landed ++ [k] })).joinAsk)) ∧
    (good → j.landed.length + 1 = j.total → ∃ t, exec (.stripeLanded k crc err bytes) s = .next t ∧
      t.link.join = { j with
        landed := j.landed ++ [k]
        st := if j.snaps = [] then .done else .closing
        fin := if j.snaps = [] then none else some (0, 0, true)
        out := []
        again := [] } ∧ t.groups = v.groups) ∧
    (¬ good → n < 3 → exec (.stripeLanded k crc err bytes) s = .next ((v.modJoin (fun x => { x with
      fails := tset 0 x.fails k n
      retry := min 65535 (x.retry + 1)
      again := x.again ++ [(k, p)] })).joinAsk)) ∧
    (¬ good → 3 ≤ n → ∃ t, exec (.stripeLanded k crc err bytes) s = .next t ∧
      t.link.join.landed = j.landed ∧ t.link.join.retry = j.retry ∧ t.groups = v.groups ∧
      (j.snaps ≠ [] → t.link.join.st = .closing ∧ t.link.join.fin = some (5, k, true)) ∧
      (j.snaps = [] → t.link.join.st = .failed) ∧
      (j.snaps = [] → NotMigrating v → leNat (t.pread 0 (dNum j.w 8 2 % 2 ^ 52) 4) = k % 65536 * 65536 + 16 + 5 * 2 + 1))) ∧
  (∀ s : State, s.link.join.out.length ≤ 128 → (∀ p, (s.link.join.out.filter (fun q => decide (q.2 = p))).length ≤ 4) →
    (s.joinAsk).link.join.out.length ≤ 128 ∧
    ∀ p, ((s.joinAsk).link.join.out.filter (fun q => decide (q.2 = p))).length ≤ 4) ∧
  (∀ (s : State) (k : Nat) (crc : W32) (err : Bool) (bytes : List Byte), 
    s.link.join.st ≠ .pull ∨ (∀ q ∈ s.link.join.out, q.1 ≠ k) ∨ s.link.mem.fenced = true ∨ s.holding = true → exec (.stripeLanded k crc err bytes) s = .next s)

/-- Power, reset, boot, sensors and failed units. POWER_ON applies 48 V and then brings up one rail after another;
with the sixth, or of a running module, MODULE_RESET ends every context, team and launch, raises the signature index
to the next block, keeps flash, and boots a good image into service 1, a bad one into recovery. TRAINING_COMPLETE ends
in service 2. POWER_LOSS, FORCE_OFF, a tripping SENSOR_SAMPLE and OFF_REQUEST with no context take power away; a
warning only latches in ALARM, and ALARM_CLEAR clears. FWPUSH replaces a good image and resets. UNIT_FAILURE fences a
core with its teams, a strand or columns within their spares, a lane, a segment, an accumulator, or a channel, retired
once no context is left, and counts a corrected symbol. The steps of the rails (log 128), the buffer of FWPUSH (log
142), which launches a fenced unit fails (log 104), and when spares come in (log 103) are the model's choices.
(spec/22 R469; spec/22 R471; spec/22 R472; spec/22 R475; spec/22 R476; spec/22 R477; spec/21 R459; spec/21 R463;
spec/21 R464; spec/21 R465; spec/01 R20; spec/01 R21.) -/
def Obligations.PowerAndReset : Prop :=
  let good := fun (image : List Byte) => Config.firmwareMin.toNat ≤ (Config.firmwareVersion image).toNat ∧
    xmssVerify (leBytes 68 Config.fuseKey.toNat) (Config.measure image) (Config.firmwareSig image) = true
  let booted := fun (s t : State) (image : List Byte) =>
    t.ctxs = [] ∧ t.teams = [] ∧ t.groups = [] ∧ t.launches = [] ∧ (∀ c, t.core c = (t.core c).onlyDamage) ∧ t.hbm = [] ∧ t.pool = s.pool ∧ t.peer = s.peer ∧
    t.phys.powered = true ∧ t.phys.v48 = true ∧ t.phys.rails = 6 ∧ t.hif.bells = [] ∧ t.nv.image = image ∧
    t.nv.n = max s.nv.n (1024 * s.nv.f) ∧ t.nv.f = s.nv.f ∧
    t.nv.alarm = s.nv.alarm &&& 0x5A ∧ t.link.mem = Member.reset ∧ t.agenda = s.agenda ∧ t.answers = s.answers ∧
    (good image → t.hif.service = 1 ∧ t.phys.state = 2 ∧
      t.hif.ar = shake256 (List.replicate 32 0 ++ Config.measure image) ∧ t.hif.ext = 1 ∧
      t.hif.fwver = Config.firmwareVersion image ∧ t.hif.cores0 = (t.die 0).cores ∧ t.hif.cores1 = (t.die 1).cores) ∧
    (¬ good image → t.hif.service = 0 ∧ t.phys.state = 1 ∧ t.hif.ar = 0 ∧ t.hif.ext = 0)
  let gone := fun (s t : State) (v48 : Bool) (st off : Nat) =>
    t.phys.powered = false ∧ t.phys.v48 = v48 ∧ t.phys.rails = 0 ∧ t.phys.state = st ∧ t.phys.offst = off ∧ t.ctxs = [] ∧
    t.teams = [] ∧ t.groups = [] ∧ t.hbm = [] ∧ t.pool = s.pool ∧ t.host = s.host ∧ t.peer = s.peer
  (∀ s : State,
    let up := s.phys.powered = true ∨ (s.phys.v48 = true ∧ s.phys.rails = 6)
    (up → ∃ t, exec .moduleReset s = .next t ∧ booted s t s.nv.image) ∧
    (¬ up → exec .moduleReset s = .next s) ∧
    (s.phys.v48 = false → exec .powerOn s =
      .next { s with phys := { s.phys with v48 := true, rails := 0, state := 0, offst := 0 } }) ∧
    (s.phys.v48 = true → s.phys.powered = false → s.phys.state = 0 → s.phys.offst ≠ 1 → s.phys.rails < 6 →
      exec .powerOn s = .next { s with phys := { s.phys with rails := s.phys.rails + 1 } }) ∧
    (s.phys.v48 = true → s.phys.powered = true ∨ s.phys.state ≠ 0 ∨ s.phys.offst = 1 → exec .powerOn s = .next s) ∧
    (∃ t, exec .powerLoss s = .next t ∧ gone s t false 0 0 ∧ t.nv = s.nv) ∧
    (∃ t, exec .forceOff s = .next t ∧ gone s t true 4 0 ∧ t.nv = s.nv) ∧
    (s.ctxs = [] → ∃ t, exec .offRequest s = .next t ∧ gone s t true 0 1 ∧ t.nv = s.nv) ∧
    ((∃ c, (s.ctx c).live = true) → exec .offRequest s = .next { s with phys := { s.phys with offst := 2 } }) ∧
    (∀ m : BitVec 8, exec (.alarmClear m) s = .next { s with nv := { s.nv with alarm := s.nv.alarm &&& ~~~m } })) ∧
  (∀ (s0 : State) (slot pa len : Nat), slot < 64 → Rung s0 slot 16 →
    let s := popped s0
    let image := s.pread 0 pa len
    (¬ good image → Served1 (.fwpush slot (pa, len)) s0 ((s.l2range 0 pa len 0 false).mbox slot 0 2 0)) ∧
    (good image → ∃ t, Served1 (.fwpush slot (pa, len)) s0 t ∧ booted { s with nv := { s.nv with image := image } } t image)) ∧
  (∀ (s : State) (x : Sample),
    let warn := (if 200 ≤ x.tj then 1 else 0) + (if 80 < x.tin then 4 else 0) +
      (if (38000 ≤ x.mv ∧ x.mv < 40000) ∨ (60000 < x.mv ∧ x.mv ≤ 63000) then 32 else 0)
    let trip := (if 220 ≤ x.tj then 2 else 0) + (if x.overcurrent then 8 else 0) + (if x.mv < 38000 then 16 else 0) +
      (if 63000 < x.mv then 64 else 0)
    (trip = 0 → ∃ t, exec (.sensorSample x) s = .next t ∧ { t with phys := s.phys, nv := s.nv } = s ∧
      t.phys = { s.phys with tjmax := x.tj % 256, tin := x.tin % 256, pwr := x.watt % 65536 } ∧
      t.nv = { s.nv with alarm := s.nv.alarm ||| BitVec.ofNat 8 warn }) ∧
    (trip ≠ 0 → ∃ t, exec (.sensorSample x) s = .next t ∧ gone s t true 4 0 ∧
      t.nv = { s.nv with alarm := s.nv.alarm ||| BitVec.ofNat 8 (warn + trip) })) ∧
  (∀ (s : State) (c0 c1 : Nat) (live full8 : BitVec 18),
    (s.hif.service ≠ 1 → exec (.trainingComplete c0 c1 live full8) s = .next s) ∧
    (s.hif.service = 1 → ∃ t, exec (.trainingComplete c0 c1 live full8) s = .next t ∧ t.hif.service = 2 ∧ t.phys.state = 3 ∧
      t.hif.live = live ∧ t.hif.full8 = full8 ∧ t.hif.pinrate = 125 ∧ t.hif.chan0 = (t.die 0).inService ∧
      t.hif.chan1 = (t.die 1).inService ∧ (∀ p, p < 18 → (t.link.fab.port p).dead = !live.getLsbD p) ∧ t.groups = s.groups ∧
      ((∃ c, (s.ctx c).live = true) → t.hbm = s.hbm ∧ ∀ d, (t.die d).retired = (s.die d).retired) ∧
      (((s.die 0).cmap).length ≤ c0 → ((s.die 1).cmap).length ≤ c1 → (s.die 0).failed = [] → (s.die 1).failed = [] →
        (∀ d, t.die d = s.die d) ∧ t.hbm = s.hbm))) ∧
  (∀ (s : State) (n : Nat) (u : FailUnit), (∃ c, (s.ctx c).live = true) →
    (u = .core n ∨ (∃ q k, u = .columns n q k ∧ 0 < k ∧ Config.spareColumns < tget 0 (s.core n).columns q + k) ∨
        (∃ q, u = .strand n q ∧ 1 ≤ tget 0 (s.core n).strands q) →
      ∃ t, exec (.unitFailure u) s = .next t ∧ (t.core n).lost = true ∧ t.nv = s.nv ∧
        (∀ tk ∈ (s.core n).teams, (t.team tk).st = .exited ∧ (t.launch (s.team tk).launch).failed.isSome = true) ∧
        ((∀ p ∈ s.launches, p.2.coop = false) → ∀ tk, tk ∉ (s.core n).teams →
          { t.team tk with since := 0, saveCopies := [] } = { s.team tk with since := 0, saveCopies := [] })) ∧
    (∀ q, u = .strand n q ∧ tget 0 (s.core n).strands q = 0 ∨
        (∃ k, u = .columns n q k ∧ 0 < k ∧ tget 0 (s.core n).columns q + k ≤ Config.spareColumns) →
      ∃ t, exec (.unitFailure u) s = .next t ∧ (t.core n).fenced = true ∧ (t.core n).lost = (s.core n).lost ∧
        (∀ gk ∈ s.coreKeys n, quadOf gk = q → (t.launch (s.teamG gk).launch).failed.isSome = true) ∧
        ((∀ p ∈ s.launches, p.2.coop = false) → ∀ tk, { t.team tk with since := 0 } = { s.team tk with since := 0 }))) ∧
  (∀ (s : State) (n k : Nat),
    (∃ t, exec (.unitFailure (.lane k)) s = .next t ∧ t.hif.full8 = s.hif.full8 &&& ~~~(BitVec.ofNat 18 (2 ^ k)) ∧
      t.hif.live = s.hif.live ∧ { t with hif := s.hif, host := s.host } = s) ∧
    (k < 512 → ∃ t, exec (.unitFailure (.segment n k)) s = .next t ∧ k ∈ (t.core n).badSegs ∧
      { t.core n with badSegs := [] } = { s.core n with badSegs := [] } ∧ (∀ c, c ≠ n → t.core c = s.core c) ∧
      { t with cores := [] } = { s with cores := [] }) ∧
    (k < 4 → ∃ t, exec (.unitFailure (.accum n k)) s = .next t ∧ (t.core n).tile1 k = { (s.core n).tile1 k with bad := true } ∧
      (∀ q, q ≠ k → (t.core n).tile1 q = (s.core n).tile1 q) ∧ (∀ c, c ≠ n → t.core c = s.core c) ∧
      { t with cores := [] } = { s with cores := [] })) ∧
  (∀ (s : State) (d k : Nat), d < 2 → k < 128 → k ∉ (s.die d).retired → k ∉ (s.die d).failed →
    ((∃ c, (s.ctx c).live = true) → exec (.unitFailure (.channel d k)) s =
      .next (s.modDie d (fun x => { x with failed := x.failed ++ [k] }))) ∧
    (s.ctxs = [] → s.hif.service ≠ 0 → ∃ t, exec (.unitFailure (.channel d k)) s = .next t ∧
      (t.die d).retired = (s.die d).retired ++ (s.die d).failed ++ [k] ∧ (t.die d).failed = [] ∧
      (∀ e, e < 2 → e ≠ d → (t.die e).retired = (s.die e).retired ++ (s.die e).failed) ∧
      t.hif.chan0 = (t.die 0).inService ∧ t.hif.chan1 = (t.die 1).inService)) ∧
  (∀ (s : State) (pa : Nat), s.inHbm pa = true →
    (∃ t, exec (.unitFailure (.symbols pa false)) s = .next t ∧
      (t.stk (s.stackOf pa)).errors = (s.stk (s.stackOf pa)).errors + 1 ∧ (∀ k, k ≠ s.stackOf pa → t.stk k = s.stk k) ∧
      t.ecc = s.ecc.erase (pa / 64) ∧ { t with stks := s.stks, ecc := s.ecc } = s) ∧
    (∃ t, exec (.unitFailure (.symbols pa true)) s = .next t ∧ pa / 64 ∈ t.ecc ∧ { t with ecc := s.ecc } = s))

/-- What reset leaves, and the invariant of the signature index at reset. At reset no context, team, group or launch
exists; GEN is 0, no rank table is in force and the module is neither fenced nor held; SERVICE is 0, AR 0 with no
extension; L2PQ is 8 and the L2 range and scratchpad region registers are 0 on both dies; every limiter stands at the
port rate; no byte of HBM is listed and its memory is canonical; and the signature index lies within its reserved
block. That unlisted bytes read 0 is the model's choice (log 6). (spec/17 R424; spec/21 R459; spec/04 R87; spec/21
R462; spec/11 R278; spec/16 R408; spec/12 R307; spec/04 R86; spec/04 R90.) -/
def Obligations.ResetState : Prop :=
  let s := State.reset
  s.ctxs = [] ∧ s.teams = [] ∧ s.groups = [] ∧ s.launches = [] ∧
  s.link.mem.gen = 0 ∧ s.link.mem.cur = none ∧ s.link.mem.pend = none ∧ s.link.mem.fenced = false ∧ s.link.mem.held = false ∧
  s.link.mem.rank = none ∧ s.hif.service = 0 ∧ s.hif.ar = 0 ∧ s.hif.ext = 0 ∧
  (∀ d, (s.die d).l2pq = 8 ∧ (∀ i, tget 0 (s.die d).l2rng i = 0) ∧ ∀ i, tget 0 (s.die d).sprgn i = 0) ∧
  (∀ d, tget portRate s.link.fab.rates d = portRate) ∧ s.link.colls = [] ∧ s.link.fab.xfers = [] ∧
  Memory.wf s.hbm = true ∧ (∀ b, s.pbyte 0 b = 0) ∧ s.nv.n ≤ 1024 * s.nv.f ∧ s.nv.f ≤ 16384

/-- No step lets a signature index be used twice. Let N be the next signature index and F the fused count of opened
blocks of 1,024. From every state with N at most 1024·F and F at most 16,384, every step answers a state in which the
same holds and neither N nor F is lower than before; and a QUOTE that signs, signs with index N and leaves N + 1. So
an index once used is never used again, by a quote, a reset, a loss of power or anything else. (spec/21 R462; spec/21
R463.) -/
def Obligations.SignatureIndex : Prop :=
  (∀ s t : State, step s = .next t → s.nv.n ≤ 1024 * s.nv.f → s.nv.f ≤ 16384 →
    t.nv.n ≤ 1024 * t.nv.f ∧ t.nv.f ≤ 16384 ∧ s.nv.n ≤ t.nv.n ∧ s.nv.f ≤ t.nv.f) ∧
  (∀ (s t : State) (slot : Nat) (q : List Byte × Nat), exec (.quote slot q) s = .next t → t.hif.quote ≠ s.hif.quote →
    t.nv.n = s.nv.n + 1 ∧ ∃ m, t.hif.quote.map (fun x => x.2.2) = some (devSign s.nv.n m))
end

