-- ==== Sys2Proof/Laws/Tbl.lean ====
section
/-! SUPPORT. Laws of the sparse tables: a read after a write, and that every table and memory operation keeps the
canonical form. -/

namespace Sys2Proof.Machine

variable {α : Type} {d : α}

/-! Reading. -/

@[simp] theorem tget_nil (k : Nat) : tget d [] k = d := rfl

theorem tget_tdel_self (m : Tbl α) (k : Nat) : tget d (tdel k m) k = d := by
  induction m with
  | nil => rfl
  | cons p m ih => rcases p with ⟨i, v⟩; by_cases h : k = i <;> simp [tdel, tget, h] <;> simpa [h] using ih

theorem tget_tdel_ne (m : Tbl α) {k j : Nat} (h : j ≠ k) : tget d (tdel k m) j = tget d m j := by
  induction m with
  | nil => rfl
  | cons p m ih =>
    rcases p with ⟨i, v⟩
    by_cases hk : k = i
    · have : j ≠ i := by omega
      simp [tdel, tget, hk, this]; simpa [hk] using ih
    · simp [tdel, tget, hk, ih]

theorem tget_tins_ne (m : Tbl α) {k j : Nat} (v : α) (h : j ≠ k) : tget d (tins k v m) j = tget d m j := by
  induction m with
  | nil => simp [tins, tget, h]
  | cons p m ih => rcases p with ⟨i, w⟩; by_cases hk : k < i <;> simp [tins, tget, hk, h, ih]

theorem tget_tins_self (m : Tbl α) (k : Nat) (v : α) (h : ∀ p ∈ m, p.1 ≠ k) : tget d (tins k v m) k = v := by
  induction m with
  | nil => simp [tins, tget]
  | cons p m ih =>
    rcases p with ⟨i, w⟩
    have hi : k ≠ i := fun e => h (i, w) (by simp) e.symm
    have := ih (fun p hp => h p (by simp [hp]))
    by_cases hk : k < i <;> simp [tins, tget, hk, hi, this]

theorem mem_tdel {m : Tbl α} {k : Nat} {p : Nat × α} : p ∈ tdel k m ↔ p ∈ m ∧ p.1 ≠ k := by
  induction m with
  | nil => simp [tdel]
  | cons q m ih =>
    rcases q with ⟨i, v⟩
    by_cases hk : k = i
    · subst hk; simp only [tdel, if_true, ih, List.mem_cons]
      constructor
      · rintro ⟨h, hn⟩; exact ⟨.inr h, hn⟩
      · rintro ⟨rfl | h, hn⟩
        · simp at hn
        · exact ⟨h, hn⟩
    · simp only [tdel, hk, if_false, List.mem_cons, ih]
      constructor
      · rintro (rfl | ⟨h, hn⟩)
        · exact ⟨.inl rfl, fun e => hk e.symm⟩
        · exact ⟨.inr h, hn⟩
      · rintro ⟨rfl | h, hn⟩
        · exact .inl rfl
        · exact .inr ⟨h, hn⟩

theorem mem_tins {m : Tbl α} {k : Nat} {v : α} {p : Nat × α} : p ∈ tins k v m ↔ p = (k, v) ∨ p ∈ m := by
  induction m with
  | nil => simp [tins]
  | cons q m ih =>
    rcases q with ⟨i, w⟩
    by_cases hk : k < i <;> simp [tins, hk, ih]
    constructor <;> rintro (h | h | h) <;> simp [h]

variable [DecidableEq α]

/-- A key reads what was last put there. -/
@[simp] theorem tget_tset_self (m : Tbl α) (k : Nat) (v : α) : tget d (tset d m k v) k = v := by
  unfold tset
  split
  · next h => rw [tget_tdel_self, h]
  · exact tget_tins_self _ _ _ (fun p hp => (mem_tdel.1 hp).2)

/-- Every other key reads as before. -/
@[simp] theorem tget_tset_ne (m : Tbl α) {k j : Nat} (v : α) (h : j ≠ k) : tget d (tset d m k v) j = tget d m j := by
  unfold tset
  split
  · exact tget_tdel_ne m h
  · rw [tget_tins_ne _ _ h, tget_tdel_ne _ h]

theorem tget_tset (m : Tbl α) (k j : Nat) (v : α) : tget d (tset d m k v) j = if j = k then v else tget d m j := by
  by_cases h : j = k
  · subst h; simp
  · simp [h]

/-! The canonical form. -/

theorem twf_cons {i : Nat} {v : α} {m : Tbl α} :
    twf d ((i, v) :: m) = true ↔ v ≠ d ∧ (∀ p ∈ m, i < p.1) ∧ twf d m = true := by
  simp [twf, and_assoc]

theorem twf_tdel {m : Tbl α} (k : Nat) (h : twf d m = true) : twf d (tdel k m) = true := by
  induction m with
  | nil => rfl
  | cons p m ih =>
    rcases p with ⟨i, v⟩
    obtain ⟨hv, hi, hm⟩ := twf_cons.1 h
    by_cases hk : k = i
    · simpa [tdel, hk] using (hk ▸ ih hm)
    · simp only [tdel, hk, if_false]
      exact twf_cons.2 ⟨hv, fun q hq => hi q (mem_tdel.1 hq).1, ih hm⟩

theorem twf_tins {m : Tbl α} {k : Nat} {v : α} (hv : v ≠ d) (hk : ∀ p ∈ m, p.1 ≠ k) (h : twf d m = true) :
    twf d (tins k v m) = true := by
  induction m with
  | nil => simp [tins, twf, hv]
  | cons p m ih =>
    rcases p with ⟨i, w⟩
    obtain ⟨hw, hi, hm⟩ := twf_cons.1 h
    have hki : i ≠ k := hk (i, w) (by simp)
    by_cases hlt : k < i
    · simp only [tins, hlt, if_true]
      refine twf_cons.2 ⟨hv, fun q hq => ?_, h⟩
      rcases List.mem_cons.1 hq with rfl | hq
      · exact hlt
      · exact lt_trans hlt (hi q hq)
    · simp only [tins, hlt, if_false]
      refine twf_cons.2 ⟨hw, fun q hq => ?_, ih (fun q hq => hk q (by simp [hq])) hm⟩
      rcases mem_tins.1 hq with rfl | hq
      · show i < k; omega
      · exact hi q hq

/-- A write keeps the canonical form of a table. -/
theorem twf_tset {m : Tbl α} (k : Nat) (v : α) (h : twf d m = true) : twf d (tset d m k v) = true := by
  unfold tset
  split
  · exact twf_tdel k h
  · next hv => exact twf_tins hv (fun p hp => (mem_tdel.1 hp).2) (twf_tdel k h)

theorem twf_filter {m : Tbl α} (p : Nat × α → Bool) (h : twf d m = true) : twf d (m.filter p) = true := by
  induction m with
  | nil => rfl
  | cons q m ih =>
    rcases q with ⟨i, v⟩
    obtain ⟨hv, hi, hm⟩ := twf_cons.1 h
    by_cases hp : p (i, v) = true
    · rw [List.filter_cons_of_pos hp]
      exact twf_cons.2 ⟨hv, fun r hr => hi r (List.mem_filter.1 hr).1, ih hm⟩
    · rw [List.filter_cons_of_neg hp]; exact ih hm

/-! Byte memories. -/

theorem mget_mset (m : Memory) (a b : Nat) (v : Byte) : mget (mset m a v) b = if b = a then v else mget m b :=
  tget_tset m a b v

theorem mset_wf {m : Memory} (a : Nat) (v : Byte) (h : Memory.wf m = true) : Memory.wf (mset m a v) = true :=
  twf_tset a v h

theorem mwrite_wf {m : Memory} (a : Nat) (bs : List Byte) (h : Memory.wf m = true) : Memory.wf (mwrite m a bs) = true := by
  induction bs generalizing m a with
  | nil => exact h
  | cons b bs ih => exact ih (a + 1) (mset_wf a b h)

theorem mput_wf {m : Memory} (a n v : Nat) (h : Memory.wf m = true) : Memory.wf (mput m a n v) = true := mwrite_wf a _ h

theorem mclear_wf {m : Memory} (a n : Nat) (h : Memory.wf m = true) : Memory.wf (mclear m a n) = true := twf_filter _ h

theorem foldl_mset_wf {m : Memory} (l : Memory) (h : Memory.wf m = true) :
    Memory.wf (l.foldl (fun acc p => mset acc p.1 p.2) m) = true := by
  induction l generalizing m with
  | nil => exact h
  | cons p l ih => exact ih (mset_wf p.1 p.2 h)

theorem mcopy_wf {m : Memory} (src : Memory) (a n b : Nat) (h : Memory.wf m = true) :
    Memory.wf (mcopy m src a n b) = true := foldl_mset_wf _ (mclear_wf b n h)

theorem mslice_wf {m : Memory} (a n b : Nat) (h : Memory.wf m = true) : Memory.wf (mslice m a n b) = true := by
  unfold mslice
  have hf := twf_filter (fun p => decide (a ≤ p.1) && decide (p.1 < a + n)) h
  have hin : ∀ p ∈ m.filter (fun p => decide (a ≤ p.1) && decide (p.1 < a + n)), a ≤ p.1 := by
    intro p hp; have := (List.mem_filter.1 hp).2; simp at this; exact this.1
  revert hf hin
  generalize m.filter (fun p => decide (a ≤ p.1) && decide (p.1 < a + n)) = l
  intro hf hin
  induction l with
  | nil => rfl
  | cons p l ih =>
    rcases p with ⟨i, v⟩
    obtain ⟨hv, hi, hl⟩ := twf_cons.1 hf
    refine twf_cons.2 ⟨hv, fun q hq => ?_, ih hl (fun q hq => hin q (by simp [hq]))⟩
    obtain ⟨r, hr, rfl⟩ := List.mem_map.1 hq
    have h1 := hi r hr
    have h2 := hin (i, v) (by simp)
    simp only at h1 h2 ⊢
    omega

/-- Bytes away from a write read as before. -/
theorem mget_mwrite_out (bs : List Byte) (m : Memory) (a b : Nat) (h : b < a ∨ a + bs.length ≤ b) :
    mget (mwrite m a bs) b = mget m b := by
  induction bs generalizing m a with
  | nil => rfl
  | cons v bs ih =>
    simp only [List.length_cons] at h
    rw [mwrite, ih (mset m a v) (a + 1) (by omega), mget_mset, if_neg (by omega)]

/-- Byte `i` of a write is the `i`th byte written. -/
theorem mget_mwrite_in (bs : List Byte) (m : Memory) (a i : Nat) (h : i < bs.length) :
    mget (mwrite m a bs) (a + i) = bs[i] := by
  induction bs generalizing m a i with
  | nil => simp at h
  | cons v bs ih =>
    rw [mwrite]
    cases i with
    | zero => rw [mget_mwrite_out _ _ _ _ (by omega), mget_mset]; simp
    | succ i =>
      have := ih (mset m a v) (a + 1) i (by simpa using h)
      rw [show a + (i + 1) = a + 1 + i by omega, this]; rfl

/-- The bytes written are the bytes read. -/
theorem mread_mwrite (bs : List Byte) (m : Memory) (a : Nat) : mread (mwrite m a bs) a bs.length = bs := by
  have key : ∀ (n : Nat) (m : Memory) (a : Nat) (l : List Byte), l.length = n →
      (∀ i (h : i < l.length), mget m (a + i) = l[i]) → mread m a n = l := by
    intro n
    induction n with
    | zero => intro m a l hl _; simp [mread, List.length_eq_zero_iff.1 hl]
    | succ n ih =>
      intro m a l hl hi
      cases l with
      | nil => simp at hl
      | cons v l =>
        simp only [mread]
        have h0 := hi 0 (by simp)
        simp only [Nat.add_zero, List.getElem_cons_zero] at h0
        rw [h0, ih m (a + 1) l (by simpa using hl) (fun i h => by
          have := hi (i + 1) (by simpa using h)
          rw [show a + 1 + i = a + (i + 1) by omega, this]; rfl)]
  exact key _ _ _ _ rfl (fun i h => mget_mwrite_in bs m a i h)

/-- A little-endian number is the bytes it was written as. -/
theorem leNat_leBytes (n v : Nat) (h : v < 256 ^ n) : leNat (leBytes n v) = v := by
  induction n generalizing v with
  | zero => simp at h; simp [leBytes, leNat, h]
  | succ n ih =>
    have hd : v / 256 < 256 ^ n := by rw [Nat.div_lt_iff_lt_mul (by norm_num)]; rwa [pow_succ] at h
    simp only [leBytes, leNat, ih _ hd, BitVec.toNat_ofNat]
    have := Nat.mod_add_div v 256
    norm_num at *
    omega

theorem length_leBytes (n v : Nat) : (leBytes n v).length = n := by
  induction n generalizing v with
  | zero => rfl
  | succ n ih => simp [leBytes, ih]

end Sys2Proof.Machine
end

