-- ==== Sys2Proof/Laws/State.lean ====
section
/-! SUPPORT. What each update of the state leaves alone, field by field, and what it changes: the lemmas that later
proofs cite instead of unfolding a record update. -/

namespace Sys2Proof.Machine

namespace State

variable (s : State)

@[simp] theorem setGrp_agenda (k : Nat) (g : Group) : (s.setGrp k g).agenda = s.agenda := rfl
@[simp] theorem setGrp_cur (k : Nat) (g : Group) : (s.setGrp k g).cur = s.cur := rfl
@[simp] theorem setGrp_answers (k : Nat) (g : Group) : (s.setGrp k g).answers = s.answers := rfl
@[simp] theorem setGrp_free (k : Nat) (g : Group) : (s.setGrp k g).free = s.free := rfl
@[simp] theorem setGrp_clock (k : Nat) (g : Group) : (s.setGrp k g).clock = s.clock := rfl
@[simp] theorem setGrp_teams (k : Nat) (g : Group) : (s.setGrp k g).teams = s.teams := rfl
@[simp] theorem setGrp_nextTeam (k : Nat) (g : Group) : (s.setGrp k g).nextTeam = s.nextTeam := rfl
@[simp] theorem setGrp_launches (k : Nat) (g : Group) : (s.setGrp k g).launches = s.launches := rfl
@[simp] theorem setGrp_ptr (k : Nat) (g : Group) : (s.setGrp k g).ptr = s.ptr := rfl
@[simp] theorem setGrp_nextLaunch (k : Nat) (g : Group) : (s.setGrp k g).nextLaunch = s.nextLaunch := rfl
@[simp] theorem setGrp_nextCopy (k : Nat) (g : Group) : (s.setGrp k g).nextCopy = s.nextCopy := rfl
@[simp] theorem setGrp_ctxs (k : Nat) (g : Group) : (s.setGrp k g).ctxs = s.ctxs := rfl
@[simp] theorem setGrp_cores (k : Nat) (g : Group) : (s.setGrp k g).cores = s.cores := rfl
@[simp] theorem setGrp_dies (k : Nat) (g : Group) : (s.setGrp k g).dies = s.dies := rfl
@[simp] theorem setGrp_stks (k : Nat) (g : Group) : (s.setGrp k g).stks = s.stks := rfl
@[simp] theorem setGrp_link (k : Nat) (g : Group) : (s.setGrp k g).link = s.link := rfl
@[simp] theorem setGrp_maps (k : Nat) (g : Group) : (s.setGrp k g).maps = s.maps := rfl
@[simp] theorem setGrp_rels (k : Nat) (g : Group) : (s.setGrp k g).rels = s.rels := rfl
@[simp] theorem setGrp_astbase (k : Nat) (g : Group) : (s.setGrp k g).astbase = s.astbase := rfl
@[simp] theorem setGrp_hbm (k : Nat) (g : Group) : (s.setGrp k g).hbm = s.hbm := rfl
@[simp] theorem setGrp_ecc (k : Nat) (g : Group) : (s.setGrp k g).ecc = s.ecc := rfl
@[simp] theorem setGrp_pool (k : Nat) (g : Group) : (s.setGrp k g).pool = s.pool := rfl
@[simp] theorem setGrp_host (k : Nat) (g : Group) : (s.setGrp k g).host = s.host := rfl
@[simp] theorem setGrp_peer (k : Nat) (g : Group) : (s.setGrp k g).peer = s.peer := rfl
@[simp] theorem setGrp_hif (k : Nat) (g : Group) : (s.setGrp k g).hif = s.hif := rfl
@[simp] theorem setGrp_nv (k : Nat) (g : Group) : (s.setGrp k g).nv = s.nv := rfl
@[simp] theorem setGrp_phys (k : Nat) (g : Group) : (s.setGrp k g).phys = s.phys := rfl

@[simp] theorem modGrp_agenda (k : Nat) (f : Group → Group) : (s.modGrp k f).agenda = s.agenda := rfl
@[simp] theorem modGrp_cur (k : Nat) (f : Group → Group) : (s.modGrp k f).cur = s.cur := rfl
@[simp] theorem modGrp_answers (k : Nat) (f : Group → Group) : (s.modGrp k f).answers = s.answers := rfl
@[simp] theorem modGrp_free (k : Nat) (f : Group → Group) : (s.modGrp k f).free = s.free := rfl
@[simp] theorem modGrp_clock (k : Nat) (f : Group → Group) : (s.modGrp k f).clock = s.clock := rfl
@[simp] theorem modGrp_teams (k : Nat) (f : Group → Group) : (s.modGrp k f).teams = s.teams := rfl
@[simp] theorem modGrp_nextTeam (k : Nat) (f : Group → Group) : (s.modGrp k f).nextTeam = s.nextTeam := rfl
@[simp] theorem modGrp_launches (k : Nat) (f : Group → Group) : (s.modGrp k f).launches = s.launches := rfl
@[simp] theorem modGrp_ptr (k : Nat) (f : Group → Group) : (s.modGrp k f).ptr = s.ptr := rfl
@[simp] theorem modGrp_nextLaunch (k : Nat) (f : Group → Group) : (s.modGrp k f).nextLaunch = s.nextLaunch := rfl
@[simp] theorem modGrp_nextCopy (k : Nat) (f : Group → Group) : (s.modGrp k f).nextCopy = s.nextCopy := rfl
@[simp] theorem modGrp_ctxs (k : Nat) (f : Group → Group) : (s.modGrp k f).ctxs = s.ctxs := rfl
@[simp] theorem modGrp_cores (k : Nat) (f : Group → Group) : (s.modGrp k f).cores = s.cores := rfl
@[simp] theorem modGrp_dies (k : Nat) (f : Group → Group) : (s.modGrp k f).dies = s.dies := rfl
@[simp] theorem modGrp_stks (k : Nat) (f : Group → Group) : (s.modGrp k f).stks = s.stks := rfl
@[simp] theorem modGrp_link (k : Nat) (f : Group → Group) : (s.modGrp k f).link = s.link := rfl
@[simp] theorem modGrp_maps (k : Nat) (f : Group → Group) : (s.modGrp k f).maps = s.maps := rfl
@[simp] theorem modGrp_rels (k : Nat) (f : Group → Group) : (s.modGrp k f).rels = s.rels := rfl
@[simp] theorem modGrp_astbase (k : Nat) (f : Group → Group) : (s.modGrp k f).astbase = s.astbase := rfl
@[simp] theorem modGrp_hbm (k : Nat) (f : Group → Group) : (s.modGrp k f).hbm = s.hbm := rfl
@[simp] theorem modGrp_ecc (k : Nat) (f : Group → Group) : (s.modGrp k f).ecc = s.ecc := rfl
@[simp] theorem modGrp_pool (k : Nat) (f : Group → Group) : (s.modGrp k f).pool = s.pool := rfl
@[simp] theorem modGrp_host (k : Nat) (f : Group → Group) : (s.modGrp k f).host = s.host := rfl
@[simp] theorem modGrp_peer (k : Nat) (f : Group → Group) : (s.modGrp k f).peer = s.peer := rfl
@[simp] theorem modGrp_hif (k : Nat) (f : Group → Group) : (s.modGrp k f).hif = s.hif := rfl
@[simp] theorem modGrp_nv (k : Nat) (f : Group → Group) : (s.modGrp k f).nv = s.nv := rfl
@[simp] theorem modGrp_phys (k : Nat) (f : Group → Group) : (s.modGrp k f).phys = s.phys := rfl

@[simp] theorem modG_agenda (f : Group → Group) : (s.modG f).agenda = s.agenda := rfl
@[simp] theorem modG_cur (f : Group → Group) : (s.modG f).cur = s.cur := rfl
@[simp] theorem modG_answers (f : Group → Group) : (s.modG f).answers = s.answers := rfl
@[simp] theorem modG_free (f : Group → Group) : (s.modG f).free = s.free := rfl
@[simp] theorem modG_clock (f : Group → Group) : (s.modG f).clock = s.clock := rfl
@[simp] theorem modG_teams (f : Group → Group) : (s.modG f).teams = s.teams := rfl
@[simp] theorem modG_nextTeam (f : Group → Group) : (s.modG f).nextTeam = s.nextTeam := rfl
@[simp] theorem modG_launches (f : Group → Group) : (s.modG f).launches = s.launches := rfl
@[simp] theorem modG_ptr (f : Group → Group) : (s.modG f).ptr = s.ptr := rfl
@[simp] theorem modG_nextLaunch (f : Group → Group) : (s.modG f).nextLaunch = s.nextLaunch := rfl
@[simp] theorem modG_nextCopy (f : Group → Group) : (s.modG f).nextCopy = s.nextCopy := rfl
@[simp] theorem modG_ctxs (f : Group → Group) : (s.modG f).ctxs = s.ctxs := rfl
@[simp] theorem modG_cores (f : Group → Group) : (s.modG f).cores = s.cores := rfl
@[simp] theorem modG_dies (f : Group → Group) : (s.modG f).dies = s.dies := rfl
@[simp] theorem modG_stks (f : Group → Group) : (s.modG f).stks = s.stks := rfl
@[simp] theorem modG_link (f : Group → Group) : (s.modG f).link = s.link := rfl
@[simp] theorem modG_maps (f : Group → Group) : (s.modG f).maps = s.maps := rfl
@[simp] theorem modG_rels (f : Group → Group) : (s.modG f).rels = s.rels := rfl
@[simp] theorem modG_astbase (f : Group → Group) : (s.modG f).astbase = s.astbase := rfl
@[simp] theorem modG_hbm (f : Group → Group) : (s.modG f).hbm = s.hbm := rfl
@[simp] theorem modG_ecc (f : Group → Group) : (s.modG f).ecc = s.ecc := rfl
@[simp] theorem modG_pool (f : Group → Group) : (s.modG f).pool = s.pool := rfl
@[simp] theorem modG_host (f : Group → Group) : (s.modG f).host = s.host := rfl
@[simp] theorem modG_peer (f : Group → Group) : (s.modG f).peer = s.peer := rfl
@[simp] theorem modG_hif (f : Group → Group) : (s.modG f).hif = s.hif := rfl
@[simp] theorem modG_nv (f : Group → Group) : (s.modG f).nv = s.nv := rfl
@[simp] theorem modG_phys (f : Group → Group) : (s.modG f).phys = s.phys := rfl

@[simp] theorem modTeam_agenda (k : Nat) (f : Team → Team) : (s.modTeam k f).agenda = s.agenda := rfl
@[simp] theorem modTeam_cur (k : Nat) (f : Team → Team) : (s.modTeam k f).cur = s.cur := rfl
@[simp] theorem modTeam_answers (k : Nat) (f : Team → Team) : (s.modTeam k f).answers = s.answers := rfl
@[simp] theorem modTeam_free (k : Nat) (f : Team → Team) : (s.modTeam k f).free = s.free := rfl
@[simp] theorem modTeam_clock (k : Nat) (f : Team → Team) : (s.modTeam k f).clock = s.clock := rfl
@[simp] theorem modTeam_groups (k : Nat) (f : Team → Team) : (s.modTeam k f).groups = s.groups := rfl
@[simp] theorem modTeam_nextTeam (k : Nat) (f : Team → Team) : (s.modTeam k f).nextTeam = s.nextTeam := rfl
@[simp] theorem modTeam_launches (k : Nat) (f : Team → Team) : (s.modTeam k f).launches = s.launches := rfl
@[simp] theorem modTeam_ptr (k : Nat) (f : Team → Team) : (s.modTeam k f).ptr = s.ptr := rfl
@[simp] theorem modTeam_nextLaunch (k : Nat) (f : Team → Team) : (s.modTeam k f).nextLaunch = s.nextLaunch := rfl
@[simp] theorem modTeam_nextCopy (k : Nat) (f : Team → Team) : (s.modTeam k f).nextCopy = s.nextCopy := rfl
@[simp] theorem modTeam_ctxs (k : Nat) (f : Team → Team) : (s.modTeam k f).ctxs = s.ctxs := rfl
@[simp] theorem modTeam_cores (k : Nat) (f : Team → Team) : (s.modTeam k f).cores = s.cores := rfl
@[simp] theorem modTeam_dies (k : Nat) (f : Team → Team) : (s.modTeam k f).dies = s.dies := rfl
@[simp] theorem modTeam_stks (k : Nat) (f : Team → Team) : (s.modTeam k f).stks = s.stks := rfl
@[simp] theorem modTeam_link (k : Nat) (f : Team → Team) : (s.modTeam k f).link = s.link := rfl
@[simp] theorem modTeam_maps (k : Nat) (f : Team → Team) : (s.modTeam k f).maps = s.maps := rfl
@[simp] theorem modTeam_rels (k : Nat) (f : Team → Team) : (s.modTeam k f).rels = s.rels := rfl
@[simp] theorem modTeam_astbase (k : Nat) (f : Team → Team) : (s.modTeam k f).astbase = s.astbase := rfl
@[simp] theorem modTeam_hbm (k : Nat) (f : Team → Team) : (s.modTeam k f).hbm = s.hbm := rfl
@[simp] theorem modTeam_ecc (k : Nat) (f : Team → Team) : (s.modTeam k f).ecc = s.ecc := rfl
@[simp] theorem modTeam_pool (k : Nat) (f : Team → Team) : (s.modTeam k f).pool = s.pool := rfl
@[simp] theorem modTeam_host (k : Nat) (f : Team → Team) : (s.modTeam k f).host = s.host := rfl
@[simp] theorem modTeam_peer (k : Nat) (f : Team → Team) : (s.modTeam k f).peer = s.peer := rfl
@[simp] theorem modTeam_hif (k : Nat) (f : Team → Team) : (s.modTeam k f).hif = s.hif := rfl
@[simp] theorem modTeam_nv (k : Nat) (f : Team → Team) : (s.modTeam k f).nv = s.nv := rfl
@[simp] theorem modTeam_phys (k : Nat) (f : Team → Team) : (s.modTeam k f).phys = s.phys := rfl

@[simp] theorem modLaunch_agenda (k : Nat) (f : Launch → Launch) : (s.modLaunch k f).agenda = s.agenda := rfl
@[simp] theorem modLaunch_cur (k : Nat) (f : Launch → Launch) : (s.modLaunch k f).cur = s.cur := rfl
@[simp] theorem modLaunch_answers (k : Nat) (f : Launch → Launch) : (s.modLaunch k f).answers = s.answers := rfl
@[simp] theorem modLaunch_free (k : Nat) (f : Launch → Launch) : (s.modLaunch k f).free = s.free := rfl
@[simp] theorem modLaunch_clock (k : Nat) (f : Launch → Launch) : (s.modLaunch k f).clock = s.clock := rfl
@[simp] theorem modLaunch_groups (k : Nat) (f : Launch → Launch) : (s.modLaunch k f).groups = s.groups := rfl
@[simp] theorem modLaunch_teams (k : Nat) (f : Launch → Launch) : (s.modLaunch k f).teams = s.teams := rfl
@[simp] theorem modLaunch_nextTeam (k : Nat) (f : Launch → Launch) : (s.modLaunch k f).nextTeam = s.nextTeam := rfl
@[simp] theorem modLaunch_ptr (k : Nat) (f : Launch → Launch) : (s.modLaunch k f).ptr = s.ptr := rfl
@[simp] theorem modLaunch_nextLaunch (k : Nat) (f : Launch → Launch) : (s.modLaunch k f).nextLaunch = s.nextLaunch := rfl
@[simp] theorem modLaunch_nextCopy (k : Nat) (f : Launch → Launch) : (s.modLaunch k f).nextCopy = s.nextCopy := rfl
@[simp] theorem modLaunch_ctxs (k : Nat) (f : Launch → Launch) : (s.modLaunch k f).ctxs = s.ctxs := rfl
@[simp] theorem modLaunch_cores (k : Nat) (f : Launch → Launch) : (s.modLaunch k f).cores = s.cores := rfl
@[simp] theorem modLaunch_dies (k : Nat) (f : Launch → Launch) : (s.modLaunch k f).dies = s.dies := rfl
@[simp] theorem modLaunch_stks (k : Nat) (f : Launch → Launch) : (s.modLaunch k f).stks = s.stks := rfl
@[simp] theorem modLaunch_link (k : Nat) (f : Launch → Launch) : (s.modLaunch k f).link = s.link := rfl
@[simp] theorem modLaunch_maps (k : Nat) (f : Launch → Launch) : (s.modLaunch k f).maps = s.maps := rfl
@[simp] theorem modLaunch_rels (k : Nat) (f : Launch → Launch) : (s.modLaunch k f).rels = s.rels := rfl
@[simp] theorem modLaunch_astbase (k : Nat) (f : Launch → Launch) : (s.modLaunch k f).astbase = s.astbase := rfl
@[simp] theorem modLaunch_hbm (k : Nat) (f : Launch → Launch) : (s.modLaunch k f).hbm = s.hbm := rfl
@[simp] theorem modLaunch_ecc (k : Nat) (f : Launch → Launch) : (s.modLaunch k f).ecc = s.ecc := rfl
@[simp] theorem modLaunch_pool (k : Nat) (f : Launch → Launch) : (s.modLaunch k f).pool = s.pool := rfl
@[simp] theorem modLaunch_host (k : Nat) (f : Launch → Launch) : (s.modLaunch k f).host = s.host := rfl
@[simp] theorem modLaunch_peer (k : Nat) (f : Launch → Launch) : (s.modLaunch k f).peer = s.peer := rfl
@[simp] theorem modLaunch_hif (k : Nat) (f : Launch → Launch) : (s.modLaunch k f).hif = s.hif := rfl
@[simp] theorem modLaunch_nv (k : Nat) (f : Launch → Launch) : (s.modLaunch k f).nv = s.nv := rfl
@[simp] theorem modLaunch_phys (k : Nat) (f : Launch → Launch) : (s.modLaunch k f).phys = s.phys := rfl

@[simp] theorem modCtx_agenda (k : Nat) (f : Ctx → Ctx) : (s.modCtx k f).agenda = s.agenda := rfl
@[simp] theorem modCtx_cur (k : Nat) (f : Ctx → Ctx) : (s.modCtx k f).cur = s.cur := rfl
@[simp] theorem modCtx_answers (k : Nat) (f : Ctx → Ctx) : (s.modCtx k f).answers = s.answers := rfl
@[simp] theorem modCtx_free (k : Nat) (f : Ctx → Ctx) : (s.modCtx k f).free = s.free := rfl
@[simp] theorem modCtx_clock (k : Nat) (f : Ctx → Ctx) : (s.modCtx k f).clock = s.clock := rfl
@[simp] theorem modCtx_groups (k : Nat) (f : Ctx → Ctx) : (s.modCtx k f).groups = s.groups := rfl
@[simp] theorem modCtx_teams (k : Nat) (f : Ctx → Ctx) : (s.modCtx k f).teams = s.teams := rfl
@[simp] theorem modCtx_nextTeam (k : Nat) (f : Ctx → Ctx) : (s.modCtx k f).nextTeam = s.nextTeam := rfl
@[simp] theorem modCtx_launches (k : Nat) (f : Ctx → Ctx) : (s.modCtx k f).launches = s.launches := rfl
@[simp] theorem modCtx_ptr (k : Nat) (f : Ctx → Ctx) : (s.modCtx k f).ptr = s.ptr := rfl
@[simp] theorem modCtx_nextLaunch (k : Nat) (f : Ctx → Ctx) : (s.modCtx k f).nextLaunch = s.nextLaunch := rfl
@[simp] theorem modCtx_nextCopy (k : Nat) (f : Ctx → Ctx) : (s.modCtx k f).nextCopy = s.nextCopy := rfl
@[simp] theorem modCtx_cores (k : Nat) (f : Ctx → Ctx) : (s.modCtx k f).cores = s.cores := rfl
@[simp] theorem modCtx_dies (k : Nat) (f : Ctx → Ctx) : (s.modCtx k f).dies = s.dies := rfl
@[simp] theorem modCtx_stks (k : Nat) (f : Ctx → Ctx) : (s.modCtx k f).stks = s.stks := rfl
@[simp] theorem modCtx_link (k : Nat) (f : Ctx → Ctx) : (s.modCtx k f).link = s.link := rfl
@[simp] theorem modCtx_maps (k : Nat) (f : Ctx → Ctx) : (s.modCtx k f).maps = s.maps := rfl
@[simp] theorem modCtx_rels (k : Nat) (f : Ctx → Ctx) : (s.modCtx k f).rels = s.rels := rfl
@[simp] theorem modCtx_astbase (k : Nat) (f : Ctx → Ctx) : (s.modCtx k f).astbase = s.astbase := rfl
@[simp] theorem modCtx_hbm (k : Nat) (f : Ctx → Ctx) : (s.modCtx k f).hbm = s.hbm := rfl
@[simp] theorem modCtx_ecc (k : Nat) (f : Ctx → Ctx) : (s.modCtx k f).ecc = s.ecc := rfl
@[simp] theorem modCtx_pool (k : Nat) (f : Ctx → Ctx) : (s.modCtx k f).pool = s.pool := rfl
@[simp] theorem modCtx_host (k : Nat) (f : Ctx → Ctx) : (s.modCtx k f).host = s.host := rfl
@[simp] theorem modCtx_peer (k : Nat) (f : Ctx → Ctx) : (s.modCtx k f).peer = s.peer := rfl
@[simp] theorem modCtx_hif (k : Nat) (f : Ctx → Ctx) : (s.modCtx k f).hif = s.hif := rfl
@[simp] theorem modCtx_nv (k : Nat) (f : Ctx → Ctx) : (s.modCtx k f).nv = s.nv := rfl
@[simp] theorem modCtx_phys (k : Nat) (f : Ctx → Ctx) : (s.modCtx k f).phys = s.phys := rfl

@[simp] theorem modCore_agenda (k : Nat) (f : Core → Core) : (s.modCore k f).agenda = s.agenda := rfl
@[simp] theorem modCore_cur (k : Nat) (f : Core → Core) : (s.modCore k f).cur = s.cur := rfl
@[simp] theorem modCore_answers (k : Nat) (f : Core → Core) : (s.modCore k f).answers = s.answers := rfl
@[simp] theorem modCore_free (k : Nat) (f : Core → Core) : (s.modCore k f).free = s.free := rfl
@[simp] theorem modCore_clock (k : Nat) (f : Core → Core) : (s.modCore k f).clock = s.clock := rfl
@[simp] theorem modCore_groups (k : Nat) (f : Core → Core) : (s.modCore k f).groups = s.groups := rfl
@[simp] theorem modCore_teams (k : Nat) (f : Core → Core) : (s.modCore k f).teams = s.teams := rfl
@[simp] theorem modCore_nextTeam (k : Nat) (f : Core → Core) : (s.modCore k f).nextTeam = s.nextTeam := rfl
@[simp] theorem modCore_launches (k : Nat) (f : Core → Core) : (s.modCore k f).launches = s.launches := rfl
@[simp] theorem modCore_ptr (k : Nat) (f : Core → Core) : (s.modCore k f).ptr = s.ptr := rfl
@[simp] theorem modCore_nextLaunch (k : Nat) (f : Core → Core) : (s.modCore k f).nextLaunch = s.nextLaunch := rfl
@[simp] theorem modCore_nextCopy (k : Nat) (f : Core → Core) : (s.modCore k f).nextCopy = s.nextCopy := rfl
@[simp] theorem modCore_ctxs (k : Nat) (f : Core → Core) : (s.modCore k f).ctxs = s.ctxs := rfl
@[simp] theorem modCore_dies (k : Nat) (f : Core → Core) : (s.modCore k f).dies = s.dies := rfl
@[simp] theorem modCore_stks (k : Nat) (f : Core → Core) : (s.modCore k f).stks = s.stks := rfl
@[simp] theorem modCore_link (k : Nat) (f : Core → Core) : (s.modCore k f).link = s.link := rfl
@[simp] theorem modCore_maps (k : Nat) (f : Core → Core) : (s.modCore k f).maps = s.maps := rfl
@[simp] theorem modCore_rels (k : Nat) (f : Core → Core) : (s.modCore k f).rels = s.rels := rfl
@[simp] theorem modCore_astbase (k : Nat) (f : Core → Core) : (s.modCore k f).astbase = s.astbase := rfl
@[simp] theorem modCore_hbm (k : Nat) (f : Core → Core) : (s.modCore k f).hbm = s.hbm := rfl
@[simp] theorem modCore_ecc (k : Nat) (f : Core → Core) : (s.modCore k f).ecc = s.ecc := rfl
@[simp] theorem modCore_pool (k : Nat) (f : Core → Core) : (s.modCore k f).pool = s.pool := rfl
@[simp] theorem modCore_host (k : Nat) (f : Core → Core) : (s.modCore k f).host = s.host := rfl
@[simp] theorem modCore_peer (k : Nat) (f : Core → Core) : (s.modCore k f).peer = s.peer := rfl
@[simp] theorem modCore_hif (k : Nat) (f : Core → Core) : (s.modCore k f).hif = s.hif := rfl
@[simp] theorem modCore_nv (k : Nat) (f : Core → Core) : (s.modCore k f).nv = s.nv := rfl
@[simp] theorem modCore_phys (k : Nat) (f : Core → Core) : (s.modCore k f).phys = s.phys := rfl

@[simp] theorem modDie_agenda (k : Nat) (f : Die → Die) : (s.modDie k f).agenda = s.agenda := rfl
@[simp] theorem modDie_cur (k : Nat) (f : Die → Die) : (s.modDie k f).cur = s.cur := rfl
@[simp] theorem modDie_answers (k : Nat) (f : Die → Die) : (s.modDie k f).answers = s.answers := rfl
@[simp] theorem modDie_free (k : Nat) (f : Die → Die) : (s.modDie k f).free = s.free := rfl
@[simp] theorem modDie_clock (k : Nat) (f : Die → Die) : (s.modDie k f).clock = s.clock := rfl
@[simp] theorem modDie_groups (k : Nat) (f : Die → Die) : (s.modDie k f).groups = s.groups := rfl
@[simp] theorem modDie_teams (k : Nat) (f : Die → Die) : (s.modDie k f).teams = s.teams := rfl
@[simp] theorem modDie_nextTeam (k : Nat) (f : Die → Die) : (s.modDie k f).nextTeam = s.nextTeam := rfl
@[simp] theorem modDie_launches (k : Nat) (f : Die → Die) : (s.modDie k f).launches = s.launches := rfl
@[simp] theorem modDie_ptr (k : Nat) (f : Die → Die) : (s.modDie k f).ptr = s.ptr := rfl
@[simp] theorem modDie_nextLaunch (k : Nat) (f : Die → Die) : (s.modDie k f).nextLaunch = s.nextLaunch := rfl
@[simp] theorem modDie_nextCopy (k : Nat) (f : Die → Die) : (s.modDie k f).nextCopy = s.nextCopy := rfl
@[simp] theorem modDie_ctxs (k : Nat) (f : Die → Die) : (s.modDie k f).ctxs = s.ctxs := rfl
@[simp] theorem modDie_cores (k : Nat) (f : Die → Die) : (s.modDie k f).cores = s.cores := rfl
@[simp] theorem modDie_stks (k : Nat) (f : Die → Die) : (s.modDie k f).stks = s.stks := rfl
@[simp] theorem modDie_link (k : Nat) (f : Die → Die) : (s.modDie k f).link = s.link := rfl
@[simp] theorem modDie_maps (k : Nat) (f : Die → Die) : (s.modDie k f).maps = s.maps := rfl
@[simp] theorem modDie_rels (k : Nat) (f : Die → Die) : (s.modDie k f).rels = s.rels := rfl
@[simp] theorem modDie_astbase (k : Nat) (f : Die → Die) : (s.modDie k f).astbase = s.astbase := rfl
@[simp] theorem modDie_hbm (k : Nat) (f : Die → Die) : (s.modDie k f).hbm = s.hbm := rfl
@[simp] theorem modDie_ecc (k : Nat) (f : Die → Die) : (s.modDie k f).ecc = s.ecc := rfl
@[simp] theorem modDie_pool (k : Nat) (f : Die → Die) : (s.modDie k f).pool = s.pool := rfl
@[simp] theorem modDie_host (k : Nat) (f : Die → Die) : (s.modDie k f).host = s.host := rfl
@[simp] theorem modDie_peer (k : Nat) (f : Die → Die) : (s.modDie k f).peer = s.peer := rfl
@[simp] theorem modDie_hif (k : Nat) (f : Die → Die) : (s.modDie k f).hif = s.hif := rfl
@[simp] theorem modDie_nv (k : Nat) (f : Die → Die) : (s.modDie k f).nv = s.nv := rfl
@[simp] theorem modDie_phys (k : Nat) (f : Die → Die) : (s.modDie k f).phys = s.phys := rfl

@[simp] theorem modStk_agenda (k : Nat) (f : Stack → Stack) : (s.modStk k f).agenda = s.agenda := rfl
@[simp] theorem modStk_cur (k : Nat) (f : Stack → Stack) : (s.modStk k f).cur = s.cur := rfl
@[simp] theorem modStk_answers (k : Nat) (f : Stack → Stack) : (s.modStk k f).answers = s.answers := rfl
@[simp] theorem modStk_free (k : Nat) (f : Stack → Stack) : (s.modStk k f).free = s.free := rfl
@[simp] theorem modStk_clock (k : Nat) (f : Stack → Stack) : (s.modStk k f).clock = s.clock := rfl
@[simp] theorem modStk_groups (k : Nat) (f : Stack → Stack) : (s.modStk k f).groups = s.groups := rfl
@[simp] theorem modStk_teams (k : Nat) (f : Stack → Stack) : (s.modStk k f).teams = s.teams := rfl
@[simp] theorem modStk_nextTeam (k : Nat) (f : Stack → Stack) : (s.modStk k f).nextTeam = s.nextTeam := rfl
@[simp] theorem modStk_launches (k : Nat) (f : Stack → Stack) : (s.modStk k f).launches = s.launches := rfl
@[simp] theorem modStk_ptr (k : Nat) (f : Stack → Stack) : (s.modStk k f).ptr = s.ptr := rfl
@[simp] theorem modStk_nextLaunch (k : Nat) (f : Stack → Stack) : (s.modStk k f).nextLaunch = s.nextLaunch := rfl
@[simp] theorem modStk_nextCopy (k : Nat) (f : Stack → Stack) : (s.modStk k f).nextCopy = s.nextCopy := rfl
@[simp] theorem modStk_ctxs (k : Nat) (f : Stack → Stack) : (s.modStk k f).ctxs = s.ctxs := rfl
@[simp] theorem modStk_cores (k : Nat) (f : Stack → Stack) : (s.modStk k f).cores = s.cores := rfl
@[simp] theorem modStk_dies (k : Nat) (f : Stack → Stack) : (s.modStk k f).dies = s.dies := rfl
@[simp] theorem modStk_link (k : Nat) (f : Stack → Stack) : (s.modStk k f).link = s.link := rfl
@[simp] theorem modStk_maps (k : Nat) (f : Stack → Stack) : (s.modStk k f).maps = s.maps := rfl
@[simp] theorem modStk_rels (k : Nat) (f : Stack → Stack) : (s.modStk k f).rels = s.rels := rfl
@[simp] theorem modStk_astbase (k : Nat) (f : Stack → Stack) : (s.modStk k f).astbase = s.astbase := rfl
@[simp] theorem modStk_hbm (k : Nat) (f : Stack → Stack) : (s.modStk k f).hbm = s.hbm := rfl
@[simp] theorem modStk_ecc (k : Nat) (f : Stack → Stack) : (s.modStk k f).ecc = s.ecc := rfl
@[simp] theorem modStk_pool (k : Nat) (f : Stack → Stack) : (s.modStk k f).pool = s.pool := rfl
@[simp] theorem modStk_host (k : Nat) (f : Stack → Stack) : (s.modStk k f).host = s.host := rfl
@[simp] theorem modStk_peer (k : Nat) (f : Stack → Stack) : (s.modStk k f).peer = s.peer := rfl
@[simp] theorem modStk_hif (k : Nat) (f : Stack → Stack) : (s.modStk k f).hif = s.hif := rfl
@[simp] theorem modStk_nv (k : Nat) (f : Stack → Stack) : (s.modStk k f).nv = s.nv := rfl
@[simp] theorem modStk_phys (k : Nat) (f : Stack → Stack) : (s.modStk k f).phys = s.phys := rfl

/-! A part read after another part changed. -/

@[simp] theorem modTeam_grp (k : Nat) (f : Team → Team) (j : Nat) : (s.modTeam k f).grp j = s.grp j := rfl
@[simp] theorem modLaunch_grp (k : Nat) (f : Launch → Launch) (j : Nat) : (s.modLaunch k f).grp j = s.grp j := rfl
@[simp] theorem modCtx_grp (k : Nat) (f : Ctx → Ctx) (j : Nat) : (s.modCtx k f).grp j = s.grp j := rfl
@[simp] theorem modCore_grp (k : Nat) (f : Core → Core) (j : Nat) : (s.modCore k f).grp j = s.grp j := rfl
@[simp] theorem modDie_grp (k : Nat) (f : Die → Die) (j : Nat) : (s.modDie k f).grp j = s.grp j := rfl
@[simp] theorem modStk_grp (k : Nat) (f : Stack → Stack) (j : Nat) : (s.modStk k f).grp j = s.grp j := rfl

@[simp] theorem setGrp_team (k : Nat) (g : Group) (j : Nat) : (s.setGrp k g).team j = s.team j := rfl
@[simp] theorem modGrp_team (k : Nat) (f : Group → Group) (j : Nat) : (s.modGrp k f).team j = s.team j := rfl
@[simp] theorem modG_team (f : Group → Group) (j : Nat) : (s.modG f).team j = s.team j := rfl
@[simp] theorem modLaunch_team (k : Nat) (f : Launch → Launch) (j : Nat) : (s.modLaunch k f).team j = s.team j := rfl
@[simp] theorem modCtx_team (k : Nat) (f : Ctx → Ctx) (j : Nat) : (s.modCtx k f).team j = s.team j := rfl
@[simp] theorem modCore_team (k : Nat) (f : Core → Core) (j : Nat) : (s.modCore k f).team j = s.team j := rfl
@[simp] theorem modDie_team (k : Nat) (f : Die → Die) (j : Nat) : (s.modDie k f).team j = s.team j := rfl
@[simp] theorem modStk_team (k : Nat) (f : Stack → Stack) (j : Nat) : (s.modStk k f).team j = s.team j := rfl

@[simp] theorem setGrp_launch (k : Nat) (g : Group) (j : Nat) : (s.setGrp k g).launch j = s.launch j := rfl
@[simp] theorem modGrp_launch (k : Nat) (f : Group → Group) (j : Nat) : (s.modGrp k f).launch j = s.launch j := rfl
@[simp] theorem modG_launch (f : Group → Group) (j : Nat) : (s.modG f).launch j = s.launch j := rfl
@[simp] theorem modTeam_launch (k : Nat) (f : Team → Team) (j : Nat) : (s.modTeam k f).launch j = s.launch j := rfl
@[simp] theorem modCtx_launch (k : Nat) (f : Ctx → Ctx) (j : Nat) : (s.modCtx k f).launch j = s.launch j := rfl
@[simp] theorem modCore_launch (k : Nat) (f : Core → Core) (j : Nat) : (s.modCore k f).launch j = s.launch j := rfl
@[simp] theorem modDie_launch (k : Nat) (f : Die → Die) (j : Nat) : (s.modDie k f).launch j = s.launch j := rfl
@[simp] theorem modStk_launch (k : Nat) (f : Stack → Stack) (j : Nat) : (s.modStk k f).launch j = s.launch j := rfl

@[simp] theorem setGrp_ctx (k : Nat) (g : Group) (j : Nat) : (s.setGrp k g).ctx j = s.ctx j := rfl
@[simp] theorem modGrp_ctx (k : Nat) (f : Group → Group) (j : Nat) : (s.modGrp k f).ctx j = s.ctx j := rfl
@[simp] theorem modG_ctx (f : Group → Group) (j : Nat) : (s.modG f).ctx j = s.ctx j := rfl
@[simp] theorem modTeam_ctx (k : Nat) (f : Team → Team) (j : Nat) : (s.modTeam k f).ctx j = s.ctx j := rfl
@[simp] theorem modLaunch_ctx (k : Nat) (f : Launch → Launch) (j : Nat) : (s.modLaunch k f).ctx j = s.ctx j := rfl
@[simp] theorem modCore_ctx (k : Nat) (f : Core → Core) (j : Nat) : (s.modCore k f).ctx j = s.ctx j := rfl
@[simp] theorem modDie_ctx (k : Nat) (f : Die → Die) (j : Nat) : (s.modDie k f).ctx j = s.ctx j := rfl
@[simp] theorem modStk_ctx (k : Nat) (f : Stack → Stack) (j : Nat) : (s.modStk k f).ctx j = s.ctx j := rfl

@[simp] theorem setGrp_core (k : Nat) (g : Group) (j : Nat) : (s.setGrp k g).core j = s.core j := rfl
@[simp] theorem modGrp_core (k : Nat) (f : Group → Group) (j : Nat) : (s.modGrp k f).core j = s.core j := rfl
@[simp] theorem modG_core (f : Group → Group) (j : Nat) : (s.modG f).core j = s.core j := rfl
@[simp] theorem modTeam_core (k : Nat) (f : Team → Team) (j : Nat) : (s.modTeam k f).core j = s.core j := rfl
@[simp] theorem modLaunch_core (k : Nat) (f : Launch → Launch) (j : Nat) : (s.modLaunch k f).core j = s.core j := rfl
@[simp] theorem modCtx_core (k : Nat) (f : Ctx → Ctx) (j : Nat) : (s.modCtx k f).core j = s.core j := rfl
@[simp] theorem modDie_core (k : Nat) (f : Die → Die) (j : Nat) : (s.modDie k f).core j = s.core j := rfl
@[simp] theorem modStk_core (k : Nat) (f : Stack → Stack) (j : Nat) : (s.modStk k f).core j = s.core j := rfl

@[simp] theorem setGrp_die (k : Nat) (g : Group) (j : Nat) : (s.setGrp k g).die j = s.die j := rfl
@[simp] theorem modGrp_die (k : Nat) (f : Group → Group) (j : Nat) : (s.modGrp k f).die j = s.die j := rfl
@[simp] theorem modG_die (f : Group → Group) (j : Nat) : (s.modG f).die j = s.die j := rfl
@[simp] theorem modTeam_die (k : Nat) (f : Team → Team) (j : Nat) : (s.modTeam k f).die j = s.die j := rfl
@[simp] theorem modLaunch_die (k : Nat) (f : Launch → Launch) (j : Nat) : (s.modLaunch k f).die j = s.die j := rfl
@[simp] theorem modCtx_die (k : Nat) (f : Ctx → Ctx) (j : Nat) : (s.modCtx k f).die j = s.die j := rfl
@[simp] theorem modCore_die (k : Nat) (f : Core → Core) (j : Nat) : (s.modCore k f).die j = s.die j := rfl
@[simp] theorem modStk_die (k : Nat) (f : Stack → Stack) (j : Nat) : (s.modStk k f).die j = s.die j := rfl

@[simp] theorem setGrp_stk (k : Nat) (g : Group) (j : Nat) : (s.setGrp k g).stk j = s.stk j := rfl
@[simp] theorem modGrp_stk (k : Nat) (f : Group → Group) (j : Nat) : (s.modGrp k f).stk j = s.stk j := rfl
@[simp] theorem modG_stk (f : Group → Group) (j : Nat) : (s.modG f).stk j = s.stk j := rfl
@[simp] theorem modTeam_stk (k : Nat) (f : Team → Team) (j : Nat) : (s.modTeam k f).stk j = s.stk j := rfl
@[simp] theorem modLaunch_stk (k : Nat) (f : Launch → Launch) (j : Nat) : (s.modLaunch k f).stk j = s.stk j := rfl
@[simp] theorem modCtx_stk (k : Nat) (f : Ctx → Ctx) (j : Nat) : (s.modCtx k f).stk j = s.stk j := rfl
@[simp] theorem modCore_stk (k : Nat) (f : Core → Core) (j : Nat) : (s.modCore k f).stk j = s.stk j := rfl
@[simp] theorem modDie_stk (k : Nat) (f : Die → Die) (j : Nat) : (s.modDie k f).stk j = s.stk j := rfl

/-! A part read after it changed. -/

@[simp] theorem setGrp_grp (k : Nat) (g : Group) : (s.setGrp k g).grp k = g := tget_tset_self _ _ _
@[simp] theorem setGrp_grp_ne {j k : Nat} (g : Group) (h : j ≠ k) : (s.setGrp k g).grp j = s.grp j := tget_tset_ne _ _ h
@[simp] theorem modG_grp (f : Group → Group) : (s.modG f).grp s.cur = f (s.grp s.cur) := tget_tset_self _ _ _
@[simp] theorem modG_grp_ne {j : Nat} (f : Group → Group) (h : j ≠ s.cur) : (s.modG f).grp j = s.grp j :=
  tget_tset_ne _ _ h
@[simp] theorem modGrp_grp (k : Nat) (f : Group → Group) : (s.modGrp k f).grp k = f (s.grp k) := tget_tset_self _ _ _
@[simp] theorem modGrp_grp_ne {j k : Nat} (f : Group → Group) (h : j ≠ k) : (s.modGrp k f).grp j = s.grp j :=
  tget_tset_ne _ _ h
theorem modGrp_grp_ite (j k : Nat) (f : Group → Group) :
    (s.modGrp k f).grp j = if j = k then f (s.grp k) else s.grp j := tget_tset _ _ _ _
@[simp] theorem modTeam_team (k : Nat) (f : Team → Team) : (s.modTeam k f).team k = f (s.team k) := tget_tset_self _ _ _
@[simp] theorem modTeam_team_ne {j k : Nat} (f : Team → Team) (h : j ≠ k) : (s.modTeam k f).team j = s.team j :=
  tget_tset_ne _ _ h
theorem modTeam_team_ite (j k : Nat) (f : Team → Team) :
    (s.modTeam k f).team j = if j = k then f (s.team k) else s.team j := tget_tset _ _ _ _
@[simp] theorem modLaunch_launch (k : Nat) (f : Launch → Launch) : (s.modLaunch k f).launch k = f (s.launch k) := tget_tset_self _ _ _
@[simp] theorem modLaunch_launch_ne {j k : Nat} (f : Launch → Launch) (h : j ≠ k) : (s.modLaunch k f).launch j = s.launch j :=
  tget_tset_ne _ _ h
theorem modLaunch_launch_ite (j k : Nat) (f : Launch → Launch) :
    (s.modLaunch k f).launch j = if j = k then f (s.launch k) else s.launch j := tget_tset _ _ _ _
@[simp] theorem modCtx_ctx (k : Nat) (f : Ctx → Ctx) : (s.modCtx k f).ctx k = f (s.ctx k) := tget_tset_self _ _ _
@[simp] theorem modCtx_ctx_ne {j k : Nat} (f : Ctx → Ctx) (h : j ≠ k) : (s.modCtx k f).ctx j = s.ctx j :=
  tget_tset_ne _ _ h
theorem modCtx_ctx_ite (j k : Nat) (f : Ctx → Ctx) :
    (s.modCtx k f).ctx j = if j = k then f (s.ctx k) else s.ctx j := tget_tset _ _ _ _
@[simp] theorem modCore_core (k : Nat) (f : Core → Core) : (s.modCore k f).core k = f (s.core k) := tget_tset_self _ _ _
@[simp] theorem modCore_core_ne {j k : Nat} (f : Core → Core) (h : j ≠ k) : (s.modCore k f).core j = s.core j :=
  tget_tset_ne _ _ h
theorem modCore_core_ite (j k : Nat) (f : Core → Core) :
    (s.modCore k f).core j = if j = k then f (s.core k) else s.core j := tget_tset _ _ _ _
@[simp] theorem modDie_die (k : Nat) (f : Die → Die) : (s.modDie k f).die k = f (s.die k) := tget_tset_self _ _ _
@[simp] theorem modDie_die_ne {j k : Nat} (f : Die → Die) (h : j ≠ k) : (s.modDie k f).die j = s.die j :=
  tget_tset_ne _ _ h
theorem modDie_die_ite (j k : Nat) (f : Die → Die) :
    (s.modDie k f).die j = if j = k then f (s.die k) else s.die j := tget_tset _ _ _ _
@[simp] theorem modStk_stk (k : Nat) (f : Stack → Stack) : (s.modStk k f).stk k = f (s.stk k) := tget_tset_self _ _ _
@[simp] theorem modStk_stk_ne {j k : Nat} (f : Stack → Stack) (h : j ≠ k) : (s.modStk k f).stk j = s.stk j :=
  tget_tset_ne _ _ h
theorem modStk_stk_ite (j k : Nat) (f : Stack → Stack) :
    (s.modStk k f).stk j = if j = k then f (s.stk k) else s.stk j := tget_tset _ _ _ _

/-! The current group. -/

@[simp] theorem modG_g (f : Group → Group) : (s.modG f).g = f s.g := tget_tset_self _ _ _
theorem modR_eq (f : Regs → Regs) : s.modR f = s.modG (fun g => { g with r := f g.r }) := rfl
theorem modSys_eq (f : SysRegs → SysRegs) : s.modSys f = s.modG (fun g => { g with sys := f g.sys }) := rfl
theorem modY_eq (f : GSync → GSync) : s.modY f = s.modG (fun g => { g with y := f g.y }) := rfl

end State

/-! Registers. -/

namespace Regs

variable (r : Regs)

@[simp] theorem setV_getV (n t : Nat) (v : W32) : (r.setV n t v).getV n t = v := tget_tset_self _ _ _
theorem setV_getV_ite (n t m u : Nat) (v : W32) :
    (r.setV n t v).getV m u = if 16 * m + u = 16 * n + t then v else r.getV m u := tget_tset _ _ _ _
@[simp] theorem setB_getB (k : Nat) (v : BitVec 256) : (r.setB k v).getB k = v := tget_tset_self _ _ _
@[simp] theorem setB_getB_ne {j k : Nat} (v : BitVec 256) (h : j ≠ k) : (r.setB k v).getB j = r.getB j := tget_tset_ne _ _ h
@[simp] theorem setB_getBT (k : Nat) (v : BitVec 256) : (r.setB k v).getBT k = BT.reset := by
  simp [setB, getBT]
@[simp] theorem setB_getBT_ne {j k : Nat} (v : BitVec 256) (h : j ≠ k) : (r.setB k v).getBT j = r.getBT j := by
  simp [setB, getBT, h]

@[simp] theorem setV_vEmpty (n t : Nat) (x : W32) : (r.setV n t x).vEmpty = r.vEmpty := rfl
@[simp] theorem setV_g (n t : Nat) (x : W32) : (r.setV n t x).g = r.g := rfl
@[simp] theorem setV_gEmpty (n t : Nat) (x : W32) : (r.setV n t x).gEmpty = r.gEmpty := rfl
@[simp] theorem setV_hg (n t : Nat) (x : W32) : (r.setV n t x).hg = r.hg := rfl
@[simp] theorem setV_b (n t : Nat) (x : W32) : (r.setV n t x).b = r.b := rfl
@[simp] theorem setV_bt (n t : Nat) (x : W32) : (r.setV n t x).bt = r.bt := rfl
@[simp] theorem setV_exm (n t : Nat) (x : W32) : (r.setV n t x).exm = r.exm := rfl
@[simp] theorem setV_spp (n t : Nat) (x : W32) : (r.setV n t x).spp = r.spp := rfl
@[simp] theorem setV_pc (n t : Nat) (x : W32) : (r.setV n t x).pc = r.pc := rfl
@[simp] theorem setB_v (k : Nat) (x : BitVec 256) : (r.setB k x).v = r.v := rfl
@[simp] theorem setB_vEmpty (k : Nat) (x : BitVec 256) : (r.setB k x).vEmpty = r.vEmpty := rfl
@[simp] theorem setB_g (k : Nat) (x : BitVec 256) : (r.setB k x).g = r.g := rfl
@[simp] theorem setB_gEmpty (k : Nat) (x : BitVec 256) : (r.setB k x).gEmpty = r.gEmpty := rfl
@[simp] theorem setB_hg (k : Nat) (x : BitVec 256) : (r.setB k x).hg = r.hg := rfl
@[simp] theorem setB_exm (k : Nat) (x : BitVec 256) : (r.setB k x).exm = r.exm := rfl
@[simp] theorem setB_spp (k : Nat) (x : BitVec 256) : (r.setB k x).spp = r.spp := rfl
@[simp] theorem setB_pc (k : Nat) (x : BitVec 256) : (r.setB k x).pc = r.pc := rfl
@[simp] theorem setBT_v (k : Nat) (x : BT) : (r.setBT k x).v = r.v := rfl
@[simp] theorem setBT_vEmpty (k : Nat) (x : BT) : (r.setBT k x).vEmpty = r.vEmpty := rfl
@[simp] theorem setBT_g (k : Nat) (x : BT) : (r.setBT k x).g = r.g := rfl
@[simp] theorem setBT_gEmpty (k : Nat) (x : BT) : (r.setBT k x).gEmpty = r.gEmpty := rfl
@[simp] theorem setBT_hg (k : Nat) (x : BT) : (r.setBT k x).hg = r.hg := rfl
@[simp] theorem setBT_b (k : Nat) (x : BT) : (r.setBT k x).b = r.b := rfl
@[simp] theorem setBT_exm (k : Nat) (x : BT) : (r.setBT k x).exm = r.exm := rfl
@[simp] theorem setBT_spp (k : Nat) (x : BT) : (r.setBT k x).spp = r.spp := rfl
@[simp] theorem setBT_pc (k : Nat) (x : BT) : (r.setBT k x).pc = r.pc := rfl
@[simp] theorem markV_v (n : Nat) (e : Bool) : (r.markV n e).v = r.v := rfl
@[simp] theorem markV_g (n : Nat) (e : Bool) : (r.markV n e).g = r.g := rfl
@[simp] theorem markV_gEmpty (n : Nat) (e : Bool) : (r.markV n e).gEmpty = r.gEmpty := rfl
@[simp] theorem markV_hg (n : Nat) (e : Bool) : (r.markV n e).hg = r.hg := rfl
@[simp] theorem markV_b (n : Nat) (e : Bool) : (r.markV n e).b = r.b := rfl
@[simp] theorem markV_bt (n : Nat) (e : Bool) : (r.markV n e).bt = r.bt := rfl
@[simp] theorem markV_exm (n : Nat) (e : Bool) : (r.markV n e).exm = r.exm := rfl
@[simp] theorem markV_spp (n : Nat) (e : Bool) : (r.markV n e).spp = r.spp := rfl
@[simp] theorem markV_pc (n : Nat) (e : Bool) : (r.markV n e).pc = r.pc := rfl
@[simp] theorem setG_v (n : Nat) (x : W32) : (r.setG n x).v = r.v := by unfold setG; split <;> rfl
@[simp] theorem setG_vEmpty (n : Nat) (x : W32) : (r.setG n x).vEmpty = r.vEmpty := by unfold setG; split <;> rfl
@[simp] theorem setG_gEmpty (n : Nat) (x : W32) : (r.setG n x).gEmpty = r.gEmpty := by unfold setG; split <;> rfl
@[simp] theorem setG_b (n : Nat) (x : W32) : (r.setG n x).b = r.b := by unfold setG; split <;> rfl
@[simp] theorem setG_bt (n : Nat) (x : W32) : (r.setG n x).bt = r.bt := by unfold setG; split <;> rfl
@[simp] theorem setG_exm (n : Nat) (x : W32) : (r.setG n x).exm = r.exm := by unfold setG; split <;> rfl
@[simp] theorem setG_spp (n : Nat) (x : W32) : (r.setG n x).spp = r.spp := by unfold setG; split <;> rfl
@[simp] theorem setG_pc (n : Nat) (x : W32) : (r.setG n x).pc = r.pc := by unfold setG; split <;> rfl
@[simp] theorem markG_v (n : Nat) (e : Bool) : (r.markG n e).v = r.v := by unfold markG; split <;> rfl
@[simp] theorem markG_vEmpty (n : Nat) (e : Bool) : (r.markG n e).vEmpty = r.vEmpty := by unfold markG; split <;> rfl
@[simp] theorem markG_g (n : Nat) (e : Bool) : (r.markG n e).g = r.g := by unfold markG; split <;> rfl
@[simp] theorem markG_hg (n : Nat) (e : Bool) : (r.markG n e).hg = r.hg := by unfold markG; split <;> rfl
@[simp] theorem markG_b (n : Nat) (e : Bool) : (r.markG n e).b = r.b := by unfold markG; split <;> rfl
@[simp] theorem markG_bt (n : Nat) (e : Bool) : (r.markG n e).bt = r.bt := by unfold markG; split <;> rfl
@[simp] theorem markG_exm (n : Nat) (e : Bool) : (r.markG n e).exm = r.exm := by unfold markG; split <;> rfl
@[simp] theorem markG_spp (n : Nat) (e : Bool) : (r.markG n e).spp = r.spp := by unfold markG; split <;> rfl
@[simp] theorem markG_pc (n : Nat) (e : Bool) : (r.markG n e).pc = r.pc := by unfold markG; split <;> rfl
@[simp] theorem putLanes_vEmpty (n : Nat) (m : BitVec 16) (x : Nat → W32) (t k : Nat) : (r.putLanes n m x t k).vEmpty = r.vEmpty := by
  induction k generalizing r t with
  | zero => rfl
  | succ k ih => rw [putLanes, ih]; split <;> rfl
@[simp] theorem writeV_vEmpty (n : Nat) (m : BitVec 16) (x : Nat → W32) : (r.writeV n m x).vEmpty = r.vEmpty := putLanes_vEmpty ..
@[simp] theorem putLanes_g (n : Nat) (m : BitVec 16) (x : Nat → W32) (t k : Nat) : (r.putLanes n m x t k).g = r.g := by
  induction k generalizing r t with
  | zero => rfl
  | succ k ih => rw [putLanes, ih]; split <;> rfl
@[simp] theorem writeV_g (n : Nat) (m : BitVec 16) (x : Nat → W32) : (r.writeV n m x).g = r.g := putLanes_g ..
@[simp] theorem putLanes_gEmpty (n : Nat) (m : BitVec 16) (x : Nat → W32) (t k : Nat) : (r.putLanes n m x t k).gEmpty = r.gEmpty := by
  induction k generalizing r t with
  | zero => rfl
  | succ k ih => rw [putLanes, ih]; split <;> rfl
@[simp] theorem writeV_gEmpty (n : Nat) (m : BitVec 16) (x : Nat → W32) : (r.writeV n m x).gEmpty = r.gEmpty := putLanes_gEmpty ..
@[simp] theorem putLanes_hg (n : Nat) (m : BitVec 16) (x : Nat → W32) (t k : Nat) : (r.putLanes n m x t k).hg = r.hg := by
  induction k generalizing r t with
  | zero => rfl
  | succ k ih => rw [putLanes, ih]; split <;> rfl
@[simp] theorem writeV_hg (n : Nat) (m : BitVec 16) (x : Nat → W32) : (r.writeV n m x).hg = r.hg := putLanes_hg ..
@[simp] theorem putLanes_b (n : Nat) (m : BitVec 16) (x : Nat → W32) (t k : Nat) : (r.putLanes n m x t k).b = r.b := by
  induction k generalizing r t with
  | zero => rfl
  | succ k ih => rw [putLanes, ih]; split <;> rfl
@[simp] theorem writeV_b (n : Nat) (m : BitVec 16) (x : Nat → W32) : (r.writeV n m x).b = r.b := putLanes_b ..
@[simp] theorem putLanes_bt (n : Nat) (m : BitVec 16) (x : Nat → W32) (t k : Nat) : (r.putLanes n m x t k).bt = r.bt := by
  induction k generalizing r t with
  | zero => rfl
  | succ k ih => rw [putLanes, ih]; split <;> rfl
@[simp] theorem writeV_bt (n : Nat) (m : BitVec 16) (x : Nat → W32) : (r.writeV n m x).bt = r.bt := putLanes_bt ..
@[simp] theorem putLanes_exm (n : Nat) (m : BitVec 16) (x : Nat → W32) (t k : Nat) : (r.putLanes n m x t k).exm = r.exm := by
  induction k generalizing r t with
  | zero => rfl
  | succ k ih => rw [putLanes, ih]; split <;> rfl
@[simp] theorem writeV_exm (n : Nat) (m : BitVec 16) (x : Nat → W32) : (r.writeV n m x).exm = r.exm := putLanes_exm ..
@[simp] theorem putLanes_spp (n : Nat) (m : BitVec 16) (x : Nat → W32) (t k : Nat) : (r.putLanes n m x t k).spp = r.spp := by
  induction k generalizing r t with
  | zero => rfl
  | succ k ih => rw [putLanes, ih]; split <;> rfl
@[simp] theorem writeV_spp (n : Nat) (m : BitVec 16) (x : Nat → W32) : (r.writeV n m x).spp = r.spp := putLanes_spp ..
@[simp] theorem putLanes_pc (n : Nat) (m : BitVec 16) (x : Nat → W32) (t k : Nat) : (r.putLanes n m x t k).pc = r.pc := by
  induction k generalizing r t with
  | zero => rfl
  | succ k ih => rw [putLanes, ih]; split <;> rfl
@[simp] theorem writeV_pc (n : Nat) (m : BitVec 16) (x : Nat → W32) : (r.writeV n m x).pc = r.pc := putLanes_pc ..

/-- A uniform register reads what was written to it, and every other as before. -/
theorem getG_setG (n m : Nat) (x : W32) : (r.setG n x).getG m = if m = n then x else r.getG m := by
  unfold setG getG
  by_cases hn : n < 64 <;> by_cases hm : m < 64 <;> simp only [hn, hm, if_true, if_false]
  · exact tget_tset _ _ _ _
  · rw [if_neg (by omega)]
  · rw [if_neg (by omega)]
  · rw [tget_tset]; by_cases h : m = n
    · simp [h]
    · rw [if_neg (by omega), if_neg h]

/-- The lanes from `t` on that a mask names hold their values; every other lane reads as before. -/
theorem putLanes_getV (n : Nat) (mask : BitVec 16) (x : Nat → W32) (t k m u : Nat) (hu : u < 16) (ht : t + k ≤ 16) :
    (r.putLanes n mask x t k).getV m u =
      if m = n ∧ t ≤ u ∧ u < t + k ∧ mask.getLsbD u = true then x u else r.getV m u := by
  induction k generalizing r t with
  | zero => rw [putLanes, if_neg (by omega)]
  | succ k ih =>
    rw [putLanes, ih _ _ (by omega)]
    by_cases hm : mask.getLsbD t = true
    · rw [if_pos hm, setV_getV_ite]
      by_cases hmn : m = n
      · subst hmn
        by_cases hut : u = t
        · subst hut; simp [hm]
        · have e1 : ¬ 16 * m + u = 16 * m + t := by omega
          rw [if_neg e1]; congr 1; apply propext; constructor <;> rintro ⟨a, b, c, d⟩ <;> refine ⟨a, ?_, ?_, d⟩ <;> omega
      · have e1 : ¬ 16 * m + u = 16 * n + t := by omega
        rw [if_neg e1, if_neg (by simp [hmn]), if_neg (by simp [hmn])]
    · rw [if_neg hm]
      congr 1; apply propext; constructor
      · rintro ⟨a, b, c, d⟩; exact ⟨a, by omega, by omega, d⟩
      · rintro ⟨a, b, c, d⟩
        have : u ≠ t := fun e => hm (e ▸ d)
        exact ⟨a, by omega, by omega, d⟩

/-- A V register written: active lanes hold their values, every other lane reads as before. -/
theorem writeV_getV (n : Nat) (mask : BitVec 16) (x : Nat → W32) (m u : Nat) (hu : u < 16) :
    (r.writeV n mask x).getV m u = if m = n ∧ mask.getLsbD u = true then x u else r.getV m u := by
  rw [writeV, putLanes_getV r n mask x 0 16 m u hu (by omega)]
  congr 1; apply propext
  exact ⟨fun h => ⟨h.1, h.2.2.2⟩, fun h => ⟨h.1, by omega, by omega, h.2⟩⟩

end Regs

end Sys2Proof.Machine
end

