-- ==== Sys2Proof/Laws/Frame.lean ====
section
/-! SUPPORT. What the shared operations of an instruction of a group can do: the readiness test, the pops, the register
writes and the retirement, each once, in the words of Safety's frames. -/

namespace Sys2Proof.Machine

open Sys2Proof.Safety

/-! Only the groups changed: `Only` composes. -/

/-- Nothing but groups changed, and of them only the current one. -/
def Only (s t : State) : Prop := { t with groups := [] } = { s with groups := [] } ∧ OthersKept s t

theorem Only.refl (s : State) : Only s s := ⟨rfl, fun _ _ => rfl⟩

theorem Only.cur {s t : State} (h : Only s t) : t.cur = s.cur := by
  have e := congrArg State.cur h.1; exact e

theorem Only.trans {s t u : State} (h : Only s t) (k : Only t u) : Only s u :=
  ⟨k.1.trans h.1, fun j hj => (k.2 j (by rw [h.cur]; exact hj)).trans (h.2 j hj)⟩

theorem only_modG (s : State) (f : Group → Group) : Only s (s.modG f) := ⟨rfl, fun _ h => s.modG_grp_ne f h⟩

/-! The readiness test (05 R112, R113; 06 R148). -/

/-- An instruction that is ready changes at most EXM, which a replay read may adopt (10 R260). -/
structure Adopted (s x : State) : Prop where
  only : Only s x
  g : x.g = { s.g with r := { s.g.r with exm := x.g.r.exm } }

theorem Adopted.refl (s : State) : Adopted s s := ⟨.refl s, rfl⟩

theorem Adopted.trans {s x y : State} (h : Adopted s x) (k : Adopted x y) : Adopted s y := by
  refine ⟨h.only.trans k.only, ?_⟩
  rw [k.g, h.g]

theorem headCheck_ok {s x : State} {sl : Bool} {w : HeadWant} (h : s.headCheck sl w = .ok x) : Adopted s x := by
  unfold State.headCheck at h
  simp only at h
  repeat' split at h
  all_goals first
    | (cases h; exact .refl _)
    | (cases h; exact ⟨only_modG _ _, by rw [State.modR_eq, State.modG_g]⟩)
    | cases h

theorem srcFault_ok {s x : State} {a : Src} (h : s.srcFault a = .ok x) : Adopted s x := by
  unfold State.srcFault at h
  repeat' split at h
  all_goals first
    | exact headCheck_ok h
    | (cases h; exact .refl _)
    | (simp only at h; split at h <;> cases h; exact .refl _)
    | cases h

theorem srcFaults_ok {l : List Src} {s x : State} (h : s.srcFaults l = .ok x) : Adopted s x := by
  induction l generalizing s with
  | nil => cases h; exact .refl _
  | cons a l ih =>
    unfold State.srcFaults at h
    split at h
    · cases h
    · next y hy => exact (srcFault_ok hy).trans (ih h)

/-- What readiness says: no source and no destination is empty, no destination is still to be read by the array, and the
state changes at most in EXM. -/
theorem ready_ok {s x : State} {sels : List Sel} {dests : List DReg} (h : s.ready sels dests = .ok x) :
    Adopted s x ∧ (∀ a ∈ sels, s.srcEmpty a.src = false) ∧ (∀ d ∈ dests, s.destEmpty d = false ∧ s.locked d = false) := by
  unfold State.ready at h
  split at h
  · cases h
  · next hd =>
    split at h
    · split at h <;> cases h
    · next hf =>
      split at h
      · cases h
      · next hl =>
        refine ⟨srcFaults_ok h, fun a ha => ?_, fun d hd' => ⟨?_, ?_⟩⟩
        · have := List.find?_eq_none.1 hf a ha; simpa using this
        · by_contra hc; exact hd (List.any_eq_true.2 ⟨d, hd', by simpa using hc⟩)
        · by_contra hc; exact hl (List.any_eq_true.2 ⟨d, hd', by simpa using hc⟩)

/-! Pops. -/

/-- What source reads leave behind: the frame with the registers untouched. -/
structure Popped (srcs : List Src) (s t : State) : Prop where
  cur : t.cur = s.cur
  frame : RegistersOnly srcs s t
  r : t.g.r = s.g.r
  sys : { t.g.sys with clkh := 0 } = { s.g.sys with clkh := 0 }
  clkh : .special 7 ∉ srcs → t.g.sys.clkh = s.g.sys.clkh
  y : { t.g.y with q3 := [] } = { s.g.y with q3 := [] }

theorem outside_trans {l m : List Src} {s t u : State} (h : Outside l s t) (k : Outside m t u) : Outside (l ++ m) s u := by
  refine ⟨k.1.trans h.1, fun c => (k.2.1 c).trans (h.2.1 c), fun c => (k.2.2.1 c).trans (h.2.2.1 c), fun hq c => ?_⟩
  rw [List.mem_append, not_or] at hq
  exact (k.2.2.2 hq.2 c).trans (h.2.2.2 hq.1 c)

theorem othersKept_trans {s t u : State} (h : OthersKept s t) (k : OthersKept t u) (hc : t.cur = s.cur) : OthersKept s u :=
  fun j hj => (k j (by rw [hc]; exact hj)).trans (h j hj)

theorem groupKept_trans {l m : List Src} {s t u : State} (h : GroupKept l s t) (k : GroupKept m t u) :
    GroupKept (l ++ m) s u := by
  obtain ⟨h1, h2, h3, h4, h5, h6, h7, h8⟩ := h
  obtain ⟨k1, k2, k3, k4, k5, k6, k7, k8⟩ := k
  refine ⟨k1.trans h1, fun a b => ?_, fun a => ?_, k4.trans h4, k5.trans h5, k6.trans h6, k7.trans h7, k8.trans h8⟩
  · rw [List.mem_append, not_or] at a b
    exact ⟨(k2 a.2 b.2).1.trans (h2 a.1 b.1).1, (k2 a.2 b.2).2.trans (h2 a.1 b.1).2⟩
  · rw [List.mem_append, not_or] at a
    exact (k3 a.2).trans (h3 a.1)

theorem registersOnly_trans {l m : List Src} {s t u : State} (h : RegistersOnly l s t) (k : RegistersOnly m t u)
    (hc : t.cur = s.cur) : RegistersOnly (l ++ m) s u :=
  ⟨outside_trans h.1 k.1, othersKept_trans h.2.1 k.2.1 hc, groupKept_trans h.2.2.1 k.2.2.1,
    k.2.2.2.1.trans h.2.2.2.1, k.2.2.2.2.trans h.2.2.2.2⟩

/-- A change of the current group alone, outside the groups. -/
theorem Only.outside {s t : State} (h : Only s t) (l : List Src) : Outside l s t := by
  have ht : t.teams = s.teams := by have e := congrArg State.teams h.1; exact e
  have hc : t.cores = s.cores := by have e := congrArg State.cores h.1; exact e
  have hw : { t with groups := [], teams := [], cores := [] } = { s with groups := [], teams := [], cores := [] } := by
    have e := congrArg (fun (z : State) => { z with teams := [], cores := [] }) h.1; exact e
  refine ⟨hw, fun c => ?_, fun k => ?_, fun _ k => ?_⟩ <;> simp [State.core, State.team, ht, hc]

theorem Popped.refl (l : List Src) (s : State) : Popped l s s :=
  ⟨rfl, ⟨(Only.refl s).outside l, fun _ _ => rfl, ⟨rfl, fun _ _ => ⟨rfl, rfl⟩, fun _ => rfl, rfl, rfl, rfl, rfl, rfl⟩, rfl, rfl⟩,
    rfl, rfl, fun _ => rfl, rfl⟩

theorem Popped.trans {l m : List Src} {s t u : State} (h : Popped l s t) (k : Popped m t u) : Popped (l ++ m) s u := by
  refine ⟨k.cur.trans h.cur, registersOnly_trans h.frame k.frame h.cur, k.r.trans h.r, k.sys.trans h.sys, fun a => ?_, k.y.trans h.y⟩
  rw [List.mem_append, not_or] at a
  exact (k.clkh a.2).trans (h.clkh a.1)

theorem Popped.armed {l : List Src} {s t : State} (h : Popped l s t) : t.g.y.stepArmed = s.g.y.stepArmed := by
  have e := congrArg GSync.stepArmed h.y; exact e

theorem popped_modG (l : List Src) (s : State) (f : Group → Group) (hr : (f s.g).r = s.g.r)
    (hl : (f s.g).live = s.g.live) (hs : .q 0 ∉ l → .q 1 ∉ l → (f s.g).s0 = s.g.s0 ∧ (f s.g).s1 = s.g.s1)
    (hy : { (f s.g).y with q3 := [] } = { s.g.y with q3 := [] }) (hq : .q 3 ∉ l → (f s.g).y.q3 = s.g.y.q3)
    (hsys : { (f s.g).sys with clkh := 0 } = { s.g.sys with clkh := 0 })
    (hk : .special 7 ∉ l → (f s.g).sys.clkh = s.g.sys.clkh) : Popped l s (s.modG f) := by
  have e : ∀ {β : Type} (p : GSync → β) (_ : ∀ z : GSync, p { z with q3 := [] } = p z), p (f s.g).y = p s.g.y := by
    intro β p hp; rw [← hp (f s.g).y, ← hp s.g.y, hy]
  refine ⟨rfl, ⟨(only_modG s f).outside l, (only_modG s f).2, ⟨?_, ?_, ?_, ?_, ?_, ?_, ?_, ?_⟩, ?_, ?_⟩, ?_, ?_, ?_, ?_⟩
  all_goals rw [State.modG_g]
  exacts [hl, hs, hq, e GSync.fab3 fun _ => rfl, e GSync.fab7 fun _ => rfl, e GSync.parked fun _ => rfl,
    e GSync.qsel fun _ => rfl, e GSync.sends fun _ => rfl, e GSync.paths fun _ => rfl, e GSync.pend fun _ => rfl, hr, hsys, hk, hy]

theorem setStream_keeps (g : Group) (sl : Bool) (x : Stream) :
    (g.setStream sl x).r = g.r ∧ (g.setStream sl x).live = g.live ∧ (g.setStream sl x).y = g.y ∧
      (g.setStream sl x).sys = g.sys := by
  cases sl <;> exact ⟨rfl, rfl, rfl, rfl⟩

/-- What one source read leaves behind. -/
theorem popSrc_popped (s : State) (x : Src) : Popped [x] s (s.popSrc x) := by
  have stream : ∀ (n : BitVec 2) (f : Stream → Stream), n = 0 ∨ n = 1 →
      Popped [.q n] s (s.modStream s.g.y.qsel f) := by
    intro n f hn
    obtain ⟨h1, h2, h3, h4⟩ := setStream_keeps s.g s.g.y.qsel (f (s.g.stream s.g.y.qsel))
    refine popped_modG _ s _ h1 h2 (fun a b => ?_) (by rw [h3]) (fun _ => by rw [h3]) (by rw [h4]) (fun _ => by rw [h4])
    rcases hn with rfl | rfl
    · exact absurd (List.mem_singleton.2 rfl) a
    · exact absurd (List.mem_singleton.2 rfl) b
  by_cases hs : (s.sample x 0).isSome = true
  · rw [show s.popSrc x = s by simp [State.popSrc, hs]]
    exact .refl _ s
  cases x with
  | q n =>
    have hn : ∀ n : BitVec 2, n = 0 ∨ n = 1 ∨ n = 2 ∨ n = 3 := by decide
    rcases hn n with rfl | rfl | rfl | rfl
    · rw [show s.popSrc (.q 0) = s.modStream s.g.y.qsel Stream.q0pop by unfold State.popSrc; rw [if_neg hs]; rfl]
      exact stream 0 Stream.q0pop (.inl rfl)
    · rw [show s.popSrc (.q 1) = s.modStream s.g.y.qsel Stream.pop by unfold State.popSrc; rw [if_neg hs]; rfl]
      exact stream 1 Stream.pop (.inr rfl)
    · rw [show s.popSrc (.q 2) = s.modTeam (teamOf s.cur) (fun t => { t with q2 := t.q2.tail }) by
        unfold State.popSrc; rw [if_neg hs]; rfl]
      refine ⟨rfl, ⟨⟨rfl, fun _ => rfl, fun k => ?_, fun h => absurd (List.mem_singleton.2 rfl) h⟩, fun _ _ => rfl,
        ⟨rfl, fun _ _ => ⟨rfl, rfl⟩, fun _ => rfl, rfl, rfl, rfl, rfl, rfl⟩, rfl, rfl⟩, rfl, rfl, fun _ => rfl, rfl⟩
      rw [State.modTeam_team_ite]; split
      · next h => subst h; rfl
      · rfl
    · rw [show s.popSrc (.q 3) = s.modG (fun g => { g with y := { g.y with q3 := g.y.q3.tail } }) by
        unfold State.popSrc; rw [if_neg hs]; rfl]
      exact popped_modG _ s _ rfl rfl (fun _ _ => ⟨rfl, rfl⟩) rfl (fun h => absurd (List.mem_singleton.2 rfl) h) rfl
        (fun _ => rfl)
  | special c =>
    by_cases hc : c.toNat = 7
    · rw [show s.popSrc (.special c) = s.modSys (fun y => { y with clkh := BitVec.ofNat 32 (s.clkCount / 2 ^ 32) }) by
        simp [State.popSrc, hs, hc]]
      refine popped_modG _ s _ rfl rfl (fun _ _ => ⟨rfl, rfl⟩) rfl (fun _ => rfl) rfl (fun h => ?_)
      exact absurd (List.mem_singleton.2 (by rw [show c = 7 from BitVec.eq_of_toNat_eq hc])) h
    · rw [show s.popSrc (.special c) = s by simp [State.popSrc, hc]]
      exact .refl _ s
  | v _ | g _ | const _ => unfold State.popSrc; split <;> exact .refl _ s

/-- What all source reads of an instruction leave behind. -/
theorem popSrcs_popped (l : List Src) (s : State) : Popped l s (s.popSrcs l) := by
  induction l generalizing s with
  | nil => exact .refl _ s
  | cons x l ih =>
    have := (popSrc_popped s x).trans (ih (s.popSrc x))
    simpa [State.popSrcs] using this

/-! Retirement. -/

/-- A change of the current group and of its core's scheduling positions. -/
theorem turnDone_frame (s : State) :
    Outside [] s (s.turnDone s.cur) ∧ OthersKept s (s.turnDone s.cur) ∧ (s.turnDone s.cur).cur = s.cur ∧
      (s.turnDone s.cur).g = { s.g with y := { s.g.y with issuedAt := s.clock } } := by
  have h1 : Only s (s.modG (fun g => { g with y := { g.y with issuedAt := s.clock } })) := only_modG _ _
  have h2 : (s.modG (fun g => { g with y := { g.y with issuedAt := s.clock } })).g =
      { s.g with y := { s.g.y with issuedAt := s.clock } } := s.modG_g _
  unfold State.turnDone
  simp only
  split
  · refine ⟨⟨rfl, fun c => ?_, fun _ => rfl, fun _ _ => rfl⟩, h1.2, rfl, h2⟩
    rw [State.modQuad, State.modCore_core_ite]
    split
    · next h => subst h; rw [State.modCore_core]; rfl
    · next h => rw [State.modCore_core_ite, if_neg h]; rfl
  · exact ⟨h1.outside [], h1.2, rfl, h2⟩

/-- What a retirement without a step check leaves behind: the pc has moved on. -/
theorem retireG_frame (s : State) (pc : W64) :
    Outside [] s (s.retireG pc) ∧ OthersKept s (s.retireG pc) ∧ (s.retireG pc).cur = s.cur ∧
      (s.retireG pc).g = ({ s.g with y := { s.g.y with issuedAt := s.clock } } : Group).retire pc := by
  obtain ⟨h1, h2, h3, h4⟩ := turnDone_frame s
  have h5 : Only (s.turnDone s.cur) (s.retireG pc) := only_modG _ _
  refine ⟨outside_trans h1 (h5.outside []), othersKept_trans h2 h5.2 h3, h5.cur.trans h3, ?_⟩
  rw [State.retireG, State.modG_g, h4]

theorem retire_of_unarmed (s : State) (pc : W64) (h : s.g.y.stepArmed = false) : s.retire pc = s.retireG pc := by
  simp [State.retire, h]

/-- An instruction whose body retires. -/
theorem run_ok {len : Nat} {s x y : State} {sels : List Sel} {dests : List DReg} {body : State → Res}
    (hr : s.ready sels dests = .ok x) (hb : body x = .ok y) (hy : y.g.y.stepArmed = false) :
    run len s sels dests body =
      .next ((y.popSrcs (sels.map (fun a => a.src))).retireG ((y.popSrcs (sels.map (fun a => a.src))).g.r.pc + BitVec.ofNat 64 len)) := by
  have hp := (popSrcs_popped (sels.map (fun a => a.src)) y).armed
  simp only [run, hr, hb, Res.settle, finish]
  rw [retire_of_unarmed _ _ (hp.trans hy)]

/-- An instruction whose body retires with a jump. -/
theorem run_jump {len : Nat} {s x y : State} {pc : W64} {sels : List Sel} {dests : List DReg} {body : State → Res}
    (hr : s.ready sels dests = .ok x) (hb : body x = .jump y pc) (hy : y.g.y.stepArmed = false) :
    run len s sels dests body = .next ((y.popSrcs (sels.map (fun a => a.src))).retireG pc) := by
  have hp := (popSrcs_popped (sels.map (fun a => a.src)) y).armed
  simp only [run, hr, hb, Res.settle, finish]
  rw [retire_of_unarmed _ _ (hp.trans hy)]

/-- Everything an instruction that acts on the current group alone does, in one lemma: the body's group `y.g` with the
pops, the pc moved on, and nothing else. -/
theorem run_only {len : Nat} {s x y : State} {sels : List Sel} {dests : List DReg} {body : State → Res}
    (hr : s.ready sels dests = .ok x) (hb : body x = .ok y) (hy : Only x y) (hs : y.g.y.stepArmed = false) :
    ∃ t, run len s sels dests body = .next t ∧ Outside (sels.map (fun a => a.src)) s t ∧ OthersKept s t ∧ t.cur = s.cur ∧
      t.g.r = { y.g.r with pc := y.g.r.pc + BitVec.ofNat 64 len } ∧
      { t.g.sys with clkh := 0 } = { y.g.sys with clkh := 0 } ∧
      (.special 7 ∉ sels.map (fun a => a.src) → t.g.sys.clkh = y.g.sys.clkh) ∧
      GroupKept (sels.map (fun a => a.src)) y t ∧ NothingSent y t ∧ t.g.y.errs = y.g.y.errs ∧ t.g.y.stepArmed = false := by
  obtain ⟨ha, -, -⟩ := ready_ok hr
  have hsy : Only s y := ha.only.trans hy
  refine ⟨_, run_ok hr hb hs, ?_⟩
  generalize sels.map (fun a => a.src) = l
  have hp := popSrcs_popped l y
  obtain ⟨r1, r2, r3, r4⟩ := retireG_frame (y.popSrcs l) ((y.popSrcs l).g.r.pc + BitVec.ofNat 64 len)
  have hcur : (y.popSrcs l).cur = s.cur := hp.cur.trans hsy.cur
  refine ⟨?_, ?_, r3.trans hcur, ?_, ?_, ?_, ?_, ?_, ?_, ?_⟩
  · have := outside_trans (outside_trans (hsy.outside []) hp.frame.1) r1
    simpa using this
  · exact othersKept_trans (othersKept_trans hsy.2 hp.frame.2.1 hsy.cur) r2 hcur
  · rw [r4, ← hp.r]; rfl
  · rw [r4]; exact hp.sys
  · intro h; rw [r4]; exact hp.clkh h
  · rw [GroupKept, r4]; exact hp.frame.2.2.1
  · rw [NothingSent, r4]; exact hp.frame.2.2.2
  · rw [r4]; have e := congrArg GSync.errs hp.y; exact e
  · rw [r4]; exact hp.armed.trans hs

end Sys2Proof.Machine
end

