-- ==== Sys2Proof/Laws/PerInstr.lean ====
section
/-! SUPPORT. The family Enc of statements about each instruction: its encoding is at most two words (spec/06 R134). -/

namespace Sys2Proof.Laws

/-- A uniform word with its B operand is one word or two. -/
@[simp] theorem encGAB_length (op d a : Nat) (b : UOpd) : (encGAB op d a b).length ≤ 2 := by
  cases b <;> simp [encGAB]

/-- No instruction has more than two words (06 R134). -/
theorem encode_length (i : Instr) : (encode i).length ≤ 2 := by
  cases i <;> simp only [encode] <;> first | exact encGAB_length _ _ _ _ | (simp; done) | (split <;> simp)

/-- The encoding of an instruction is at most two words; an event has none. -/
def Enc.Statement (i : Instr) : Prop := (encode i).length ≤ 2

theorem Enc.iadd (d : BitVec 7) (a : Sel) (b : Sel) : Enc.Statement (.iadd d a b) := encode_length _
theorem Enc.isub (d : BitVec 7) (a : Sel) (b : Sel) : Enc.Statement (.isub d a b) := encode_length _
theorem Enc.imul (d : BitVec 7) (a : Sel) (b : Sel) : Enc.Statement (.imul d a b) := encode_length _
theorem Enc.imulh (d : BitVec 7) (a : Sel) (b : Sel) : Enc.Statement (.imulh d a b) := encode_length _
theorem Enc.imulhu (d : BitVec 7) (a : Sel) (b : Sel) : Enc.Statement (.imulhu d a b) := encode_length _
theorem Enc.imad (d : BitVec 7) (a : Sel) (b : Sel) : Enc.Statement (.imad d a b) := encode_length _
theorem Enc.imin (d : BitVec 7) (a : Sel) (b : Sel) : Enc.Statement (.imin d a b) := encode_length _
theorem Enc.imax (d : BitVec 7) (a : Sel) (b : Sel) : Enc.Statement (.imax d a b) := encode_length _
theorem Enc.umin (d : BitVec 7) (a : Sel) (b : Sel) : Enc.Statement (.umin d a b) := encode_length _
theorem Enc.umax (d : BitVec 7) (a : Sel) (b : Sel) : Enc.Statement (.umax d a b) := encode_length _
theorem Enc.and (d : BitVec 7) (a : Sel) (b : Sel) : Enc.Statement (.and d a b) := encode_length _
theorem Enc.or (d : BitVec 7) (a : Sel) (b : Sel) : Enc.Statement (.or d a b) := encode_length _
theorem Enc.xor (d : BitVec 7) (a : Sel) (b : Sel) : Enc.Statement (.xor d a b) := encode_length _
theorem Enc.andn (d : BitVec 7) (a : Sel) (b : Sel) : Enc.Statement (.andn d a b) := encode_length _
theorem Enc.shl (d : BitVec 7) (a : Sel) (b : Sel) : Enc.Statement (.shl d a b) := encode_length _
theorem Enc.shr (d : BitVec 7) (a : Sel) (b : Sel) : Enc.Statement (.shr d a b) := encode_length _
theorem Enc.sar (d : BitVec 7) (a : Sel) (b : Sel) : Enc.Statement (.sar d a b) := encode_length _
theorem Enc.rot (d : BitVec 7) (a : Sel) (b : Sel) : Enc.Statement (.rot d a b) := encode_length _
theorem Enc.icmp (c : Cond) (g : BitVec 5) (a : Src) (b : Src) : Enc.Statement (.icmp c g a b) := encode_length _
theorem Enc.ucmp (c : Cond) (g : BitVec 5) (a : Src) (b : Src) : Enc.Statement (.ucmp c g a b) := encode_length _
theorem Enc.fcmp (c : Cond) (g : BitVec 5) (a : Src) (b : Src) : Enc.Statement (.fcmp c g a b) := encode_length _
theorem Enc.popc (d : BitVec 7) (a : Sel) : Enc.Statement (.popc d a) := encode_length _
theorem Enc.clz (d : BitVec 7) (a : Sel) : Enc.Statement (.clz d a) := encode_length _
theorem Enc.ctz (d : BitVec 7) (a : Sel) : Enc.Statement (.ctz d a) := encode_length _
theorem Enc.brev (d : BitVec 7) (a : Sel) : Enc.Statement (.brev d a) := encode_length _
theorem Enc.bswap (d : BitVec 7) (a : Sel) : Enc.Statement (.bswap d a) := encode_length _
theorem Enc.sext8 (d : BitVec 7) (a : Sel) : Enc.Statement (.sext8 d a) := encode_length _
theorem Enc.sext16 (d : BitVec 7) (a : Sel) : Enc.Statement (.sext16 d a) := encode_length _
theorem Enc.zext8 (d : BitVec 7) (a : Sel) : Enc.Statement (.zext8 d a) := encode_length _
theorem Enc.zext16 (d : BitVec 7) (a : Sel) : Enc.Statement (.zext16 d a) := encode_length _
theorem Enc.not (d : BitVec 7) (a : Sel) : Enc.Statement (.not d a) := encode_length _
theorem Enc.neg (d : BitVec 7) (a : Sel) : Enc.Statement (.neg d a) := encode_length _
theorem Enc.abs (d : BitVec 7) (a : Sel) : Enc.Statement (.abs d a) := encode_length _
theorem Enc.bfe (d : BitVec 7) (a : Sel) (b : Sel) : Enc.Statement (.bfe d a b) := encode_length _
theorem Enc.bfi (d : BitVec 7) (a : Sel) (b : Sel) : Enc.Statement (.bfi d a b) := encode_length _
theorem Enc.clmul (d : BitVec 7) (a : Sel) (b : Sel) : Enc.Statement (.clmul d a b) := encode_length _
theorem Enc.clmulh (d : BitVec 7) (a : Sel) (b : Sel) : Enc.Statement (.clmulh d a b) := encode_length _
theorem Enc.shfl (d : BitVec 7) (a : Sel) (b : Sel) : Enc.Statement (.shfl d a b) := encode_length _
theorem Enc.shflx (d : BitVec 7) (a : Sel) (b : Sel) : Enc.Statement (.shflx d a b) := encode_length _
theorem Enc.shflu (d : BitVec 7) (a : Sel) (b : Sel) : Enc.Statement (.shflu d a b) := encode_length _
theorem Enc.shfld (d : BitVec 7) (a : Sel) (b : Sel) : Enc.Statement (.shfld d a b) := encode_length _
theorem Enc.xredAdd (m : XMode) (d : BitVec 7) (a : Sel) : Enc.Statement (.xredAdd m d a) := encode_length _
theorem Enc.xredMin (m : XMode) (d : BitVec 7) (a : Sel) : Enc.Statement (.xredMin m d a) := encode_length _
theorem Enc.xredMax (m : XMode) (d : BitVec 7) (a : Sel) : Enc.Statement (.xredMax m d a) := encode_length _
theorem Enc.xredUmin (m : XMode) (d : BitVec 7) (a : Sel) : Enc.Statement (.xredUmin m d a) := encode_length _
theorem Enc.xredUmax (m : XMode) (d : BitVec 7) (a : Sel) : Enc.Statement (.xredUmax m d a) := encode_length _
theorem Enc.xredAnd (m : XMode) (d : BitVec 7) (a : Sel) : Enc.Statement (.xredAnd m d a) := encode_length _
theorem Enc.xredOr (m : XMode) (d : BitVec 7) (a : Sel) : Enc.Statement (.xredOr m d a) := encode_length _
theorem Enc.xredXor (m : XMode) (d : BitVec 7) (a : Sel) : Enc.Statement (.xredXor m d a) := encode_length _
theorem Enc.xredFadd (m : XMode) (d : BitVec 7) (a : Sel) : Enc.Statement (.xredFadd m d a) := encode_length _
theorem Enc.xredFmin (m : XMode) (d : BitVec 7) (a : Sel) : Enc.Statement (.xredFmin m d a) := encode_length _
theorem Enc.xredFmax (m : XMode) (d : BitVec 7) (a : Sel) : Enc.Statement (.xredFmax m d a) := encode_length _
theorem Enc.mov (d : BitVec 7) (a : Sel) : Enc.Statement (.mov d a) := encode_length _
theorem Enc.fadd (d : BitVec 7) (a : Sel) (b : Sel) : Enc.Statement (.fadd d a b) := encode_length _
theorem Enc.fsub (d : BitVec 7) (a : Sel) (b : Sel) : Enc.Statement (.fsub d a b) := encode_length _
theorem Enc.fmul (d : BitVec 7) (a : Sel) (b : Sel) : Enc.Statement (.fmul d a b) := encode_length _
theorem Enc.ffma (d : BitVec 7) (a : Sel) (b : Sel) : Enc.Statement (.ffma d a b) := encode_length _
theorem Enc.fmin (d : BitVec 7) (a : Sel) (b : Sel) : Enc.Statement (.fmin d a b) := encode_length _
theorem Enc.fmax (d : BitVec 7) (a : Sel) (b : Sel) : Enc.Statement (.fmax d a b) := encode_length _
theorem Enc.fabs (d : BitVec 7) (a : Sel) : Enc.Statement (.fabs d a) := encode_length _
theorem Enc.fneg (d : BitVec 7) (a : Sel) : Enc.Statement (.fneg d a) := encode_length _
theorem Enc.frcp (d : BitVec 7) (a : Sel) : Enc.Statement (.frcp d a) := encode_length _
theorem Enc.frsq (d : BitVec 7) (a : Sel) : Enc.Statement (.frsq d a) := encode_length _
theorem Enc.fsqrt (d : BitVec 7) (a : Sel) : Enc.Statement (.fsqrt d a) := encode_length _
theorem Enc.fexp2 (d : BitVec 7) (a : Sel) : Enc.Statement (.fexp2 d a) := encode_length _
theorem Enc.flog2 (d : BitVec 7) (a : Sel) : Enc.Statement (.flog2 d a) := encode_length _
theorem Enc.fsin (d : BitVec 7) (a : Sel) : Enc.Statement (.fsin d a) := encode_length _
theorem Enc.fcos (d : BitVec 7) (a : Sel) : Enc.Statement (.fcos d a) := encode_length _
theorem Enc.ftanh (d : BitVec 7) (a : Sel) : Enc.Statement (.ftanh d a) := encode_length _
theorem Enc.ffrac (d : BitVec 7) (a : Sel) : Enc.Statement (.ffrac d a) := encode_length _
theorem Enc.frnde (d : BitVec 7) (a : Sel) : Enc.Statement (.frnde d a) := encode_length _
theorem Enc.ftrunc (d : BitVec 7) (a : Sel) : Enc.Statement (.ftrunc d a) := encode_length _
theorem Enc.ffloor (d : BitVec 7) (a : Sel) : Enc.Statement (.ffloor d a) := encode_length _
theorem Enc.fceil (d : BitVec 7) (a : Sel) : Enc.Statement (.fceil d a) := encode_length _
theorem Enc.b2add (d : BitVec 7) (a : Sel) (b : Sel) : Enc.Statement (.b2add d a b) := encode_length _
theorem Enc.b2mul (d : BitVec 7) (a : Sel) (b : Sel) : Enc.Statement (.b2mul d a b) := encode_length _
theorem Enc.b2fma (d : BitVec 7) (a : Sel) (b : Sel) : Enc.Statement (.b2fma d a b) := encode_length _
theorem Enc.b2max (d : BitVec 7) (a : Sel) (b : Sel) : Enc.Statement (.b2max d a b) := encode_length _
theorem Enc.b2min (d : BitVec 7) (a : Sel) (b : Sel) : Enc.Statement (.b2min d a b) := encode_length _
theorem Enc.cvt (op : CvtOp) (m : RMode) (d : BitVec 7) (a : Sel) : Enc.Statement (.cvt op m d a) := encode_length _
theorem Enc.qscl (d : BitVec 7) (a : BitVec 7) (t : Bool) (b : Sel) : Enc.Statement (.qscl d a t b) := encode_length _
theorem Enc.qcvt (d : BitVec 7) (a : BitVec 7) (t : Bool) (b : Sel) : Enc.Statement (.qcvt d a t b) := encode_length _
theorem Enc.qexp (d : BitVec 7) (a : Sel) (b : Sel) : Enc.Statement (.qexp d a b) := encode_length _
theorem Enc.rnd (d : BitVec 7) (a : Sel) (b : Sel) : Enc.Statement (.rnd d a b) := encode_length _
theorem Enc.ldl (d : BitVec 7) (a : Sel) (k : BitVec 4) (sc : Scope) (o : Order) : Enc.Statement (.ldl d a k sc o) := encode_length _
theorem Enc.stl (d : BitVec 7) (a : Sel) (k : BitVec 4) (sc : Scope) (o : Order) : Enc.Statement (.stl d a k sc o) := encode_length _
theorem Enc.ldv (d : BitVec 7) (a : Sel) (k : BitVec 4) (sc : Scope) (o : Order) : Enc.Statement (.ldv d a k sc o) := encode_length _
theorem Enc.stv (d : BitVec 7) (a : Sel) (k : BitVec 4) (sc : Scope) (o : Order) : Enc.Statement (.stv d a k sc o) := encode_length _
theorem Enc.atom (op : AOp) (d : BitVec 7) (a : Sel) (b : Sel) (c : Sel) (k : BitVec 4) (sc : Scope) (o : Order) : Enc.Statement (.atom op d a b c k sc o) := encode_length _
theorem Enc.red (op : AOp) (a : Sel) (b : Sel) (k : BitVec 4) (sc : Scope) (o : Order) : Enc.Statement (.red op a b k sc o) := encode_length _
theorem Enc.put (d : BitVec 7) (a : Sel) (nm1 : BitVec 2) (k : BitVec 4) (flag : Option (BitVec 4 × Sel)) (abo : Abo) : Enc.Statement (.put d a nm1 k flag abo) := encode_length _
theorem Enc.ratom (op : AOp) (ret : Option (BitVec 7)) (a : Sel) (b : Sel) (c : Sel) (k : BitVec 4) (abo : Abo) : Enc.Statement (.ratom op ret a b c k abo) := encode_length _
theorem Enc.racc (d : BitVec 7) (a : Sel) (nm1 : BitVec 2) (k : BitVec 4) (abo : Abo) : Enc.Statement (.racc d a nm1 k abo) := encode_length _
theorem Enc.sel (d : BitVec 7) (a : Sel) (b : Sel) (c : Sel) (inv : Bool) : Enc.Statement (.sel d a b c inv) := encode_length _
theorem Enc.spst (d : BitVec 7) (nm1 : BitVec 4) (off : BitVec 16) : Enc.Statement (.spst d nm1 off) := encode_length _
theorem Enc.spld (d : BitVec 7) (nm1 : BitVec 4) (off : BitVec 16) : Enc.Statement (.spld d nm1 off) := encode_length _
theorem Enc.trec (d : BitVec 7) (kind : TrecKind) (s : BitVec 1) : Enc.Statement (.trec d kind s) := encode_length _
theorem Enc.tpop (d : BitVec 7) (kind : TpopKind) (s : BitVec 1) : Enc.Statement (.tpop d kind s) := encode_length _
theorem Enc.gadd (d : BitVec 6) (a : Sel) (b : UOpd) : Enc.Statement (.gadd d a b) := encode_length _
theorem Enc.gsub (d : BitVec 6) (a : Sel) (b : UOpd) : Enc.Statement (.gsub d a b) := encode_length _
theorem Enc.gmul (d : BitVec 6) (a : Sel) (b : UOpd) : Enc.Statement (.gmul d a b) := encode_length _
theorem Enc.gmulh (d : BitVec 6) (a : Sel) (b : UOpd) : Enc.Statement (.gmulh d a b) := encode_length _
theorem Enc.gand (d : BitVec 6) (a : Sel) (b : UOpd) : Enc.Statement (.gand d a b) := encode_length _
theorem Enc.gor (d : BitVec 6) (a : Sel) (b : UOpd) : Enc.Statement (.gor d a b) := encode_length _
theorem Enc.gxor (d : BitVec 6) (a : Sel) (b : UOpd) : Enc.Statement (.gxor d a b) := encode_length _
theorem Enc.gandn (d : BitVec 6) (a : Sel) (b : UOpd) : Enc.Statement (.gandn d a b) := encode_length _
theorem Enc.gshl (d : BitVec 6) (a : Sel) (b : UOpd) : Enc.Statement (.gshl d a b) := encode_length _
theorem Enc.gshr (d : BitVec 6) (a : Sel) (b : UOpd) : Enc.Statement (.gshr d a b) := encode_length _
theorem Enc.gsar (d : BitVec 6) (a : Sel) (b : UOpd) : Enc.Statement (.gsar d a b) := encode_length _
theorem Enc.gmin (d : BitVec 6) (a : Sel) (b : UOpd) : Enc.Statement (.gmin d a b) := encode_length _
theorem Enc.gmax (d : BitVec 6) (a : Sel) (b : UOpd) : Enc.Statement (.gmax d a b) := encode_length _
theorem Enc.gmov (d : BitVec 6) (b : UOpd) : Enc.Statement (.gmov d b) := encode_length _
theorem Enc.gcmp (c : Cond) (d : BitVec 5) (a : Src) (b : Src) : Enc.Statement (.gcmp c d a b) := encode_length _
theorem Enc.gpopc (d : BitVec 6) (a : Sel) : Enc.Statement (.gpopc d a) := encode_length _
theorem Enc.gclz (d : BitVec 6) (a : Sel) : Enc.Statement (.gclz d a) := encode_length _
theorem Enc.gctz (d : BitVec 6) (a : Sel) : Enc.Statement (.gctz d a) := encode_length _
theorem Enc.gnot (d : BitVec 6) (a : Sel) : Enc.Statement (.gnot d a) := encode_length _
theorem Enc.gneg (d : BitVec 6) (a : Sel) : Enc.Statement (.gneg d a) := encode_length _
theorem Enc.gbrev (d : BitVec 6) (a : Sel) : Enc.Statement (.gbrev d a) := encode_length _
theorem Enc.rdlane (d : BitVec 6) (a : BitVec 7) (t : Bool) (b : UOpd) : Enc.Statement (.rdlane d a t b) := encode_length _
theorem Enc.mset (d : BitVec 6) (b : UOpd) : Enc.Statement (.mset d b) := encode_length _
theorem Enc.mand (d : BitVec 6) (a : Sel) (b : UOpd) : Enc.Statement (.mand d a b) := encode_length _
theorem Enc.mandn (d : BitVec 6) (a : Sel) (b : UOpd) : Enc.Statement (.mandn d a b) := encode_length _
theorem Enc.mor (d : BitVec 6) (a : Sel) (b : UOpd) : Enc.Statement (.mor d a b) := encode_length _
theorem Enc.spadj (b : UOpd) : Enc.Statement (.spadj b) := encode_length _
theorem Enc.fence (o : Order) (sc : Scope) : Enc.Statement (.fence o sc) := encode_length _
theorem Enc.fenceFlush (o : Order) (sc : Scope) : Enc.Statement (.fenceFlush o sc) := encode_length _
theorem Enc.publish (sc : Scope) (a : Sel) : Enc.Statement (.publish sc a) := encode_length _
theorem Enc.bra (disp : BitVec 17) (h : Hint) : Enc.Statement (.bra disp h) := encode_length _
theorem Enc.bez (c : BitVec 6) (disp : BitVec 17) (h : Hint) : Enc.Statement (.bez c disp h) := encode_length _
theorem Enc.bnz (c : BitVec 6) (disp : BitVec 17) (h : Hint) : Enc.Statement (.bnz c disp h) := encode_length _
theorem Enc.bmz (c : BitVec 6) (disp : BitVec 17) (h : Hint) : Enc.Statement (.bmz c disp h) := encode_length _
theorem Enc.bmnz (c : BitVec 6) (disp : BitVec 17) (h : Hint) : Enc.Statement (.bmnz c disp h) := encode_length _
theorem Enc.call (c : BitVec 6) (disp : BitVec 17) (h : Hint) : Enc.Statement (.call c disp h) := encode_length _
theorem Enc.jmpr (c : BitVec 6) (disp : BitVec 17) (h : Hint) : Enc.Statement (.jmpr c disp h) := encode_length _
theorem Enc.loop (c : BitVec 6) (disp : BitVec 17) (h : Hint) : Enc.Statement (.loop c disp h) := encode_length _
theorem Enc.bar (n : BitVec 3) (a : Sel) : Enc.Statement (.bar n a) := encode_length _
theorem Enc.cbar : Enc.Statement (.cbar) := encode_length _
theorem Enc.abarAdd (k : BitVec 3) (b : UOpd) : Enc.Statement (.abarAdd k b) := encode_length _
theorem Enc.abarSub (k : BitVec 3) (b : UOpd) : Enc.Statement (.abarSub k b) := encode_length _
theorem Enc.abarSet (k : BitVec 3) (b : UOpd) : Enc.Statement (.abarSet k b) := encode_length _
theorem Enc.abwait (k : BitVec 3) (b : UOpd) : Enc.Statement (.abwait k b) := encode_length _
theorem Enc.waitc (c : WCond) (k : BitVec 4) (a : Sel) (b : UOpd) : Enc.Statement (.waitc c k a b) := encode_length _
theorem Enc.waitn (p : BitVec 3) (a : Sel) : Enc.Statement (.waitn p a) := encode_length _
theorem Enc.topen (g : BitVec 6) : Enc.Statement (.topen g) := encode_length _
theorem Enc.nop : Enc.Statement (.nop) := encode_length _
theorem Enc.exit : Enc.Statement (.exit) := encode_length _
theorem Enc.trap (a : Sel) : Enc.Statement (.trap a) := encode_length _
theorem Enc.brkpt : Enc.Statement (.brkpt) := encode_length _
theorem Enc.yield : Enc.Statement (.yield) := encode_length _
theorem Enc.srd (d : BitVec 6) (a : Sel) : Enc.Statement (.srd d a) := encode_length _
theorem Enc.swr (n : BitVec 6) (a : Sel) : Enc.Statement (.swr n a) := encode_length _
theorem Enc.eret : Enc.Statement (.eret) := encode_length _
theorem Enc.genfence (d : BitVec 6) : Enc.Statement (.genfence d) := encode_length _
theorem Enc.rtswap (d : BitVec 6) : Enc.Statement (.rtswap d) := encode_length _
theorem Enc.tlbi (g : BitVec 6) : Enc.Statement (.tlbi g) := encode_length _
theorem Enc.tacq (a : Sel) : Enc.Statement (.tacq a) := encode_length _
theorem Enc.tbrk (s : BitVec 1) (a : Sel) : Enc.Statement (.tbrk s a) := encode_length _
theorem Enc.tbpop (s : BitVec 1) (d : BitVec 6) : Enc.Statement (.tbpop s d) := encode_length _
theorem Enc.tmark (s : BitVec 1) (d : BitVec 6) (b : UOpd) : Enc.Statement (.tmark s d b) := encode_length _
theorem Enc.trev (s : BitVec 1) (d : BitVec 6) : Enc.Statement (.trev s d) := encode_length _
theorem Enc.tclose (s : BitVec 1) (d : BitVec 6) : Enc.Statement (.tclose s d) := encode_length _
theorem Enc.bcopy (d : BitVec 6) (g : BitVec 6) : Enc.Statement (.bcopy d g) := encode_length _
theorem Enc.bcopym (d : BitVec 6) (g : BitVec 6) : Enc.Statement (.bcopym d g) := encode_length _
theorem Enc.pstw (d : BitVec 6) (g : BitVec 6) : Enc.Statement (.pstw d g) := encode_length _
theorem Enc.tmma (acc : BitVec 2) (g : BitVec 6) (ctl : UOpd) : Enc.Statement (.tmma acc g ctl) := encode_length _
theorem Enc.tdual (x : BitVec 2) (w : BitVec 2) (g : BitVec 6) (ctl : UOpd) : Enc.Statement (.tdual x w g ctl) := encode_length _
theorem Enc.tprom (acc : BitVec 2) (g : BitVec 6) : Enc.Statement (.tprom acc g) := encode_length _
theorem Enc.tsta (acc : BitVec 2) (g : BitVec 6) (ctl : UOpd) : Enc.Statement (.tsta acc g ctl) := encode_length _
theorem Enc.tlda (acc : BitVec 2) (g : BitVec 6) (ctl : UOpd) : Enc.Statement (.tlda acc g ctl) := encode_length _
theorem Enc.tzero (acc : BitVec 2) (g : BitVec 6) : Enc.Statement (.tzero acc g) := encode_length _
theorem Enc.tmaxr (d : BitVec 6) (g : BitVec 6) (b : UOpd) : Enc.Statement (.tmaxr d g b) := encode_length _
theorem Enc.ttag (d : BitVec 6) (a : Sel) (b : UOpd) : Enc.Statement (.ttag d a b) := encode_length _
theorem Enc.bld (k : BitVec 4) (a : Sel) (b : UOpd) : Enc.Statement (.bld k a b) := encode_length _
theorem Enc.bset (k : BitVec 4) (f : BField) (b : UOpd) : Enc.Statement (.bset k f b) := encode_length _
theorem Enc.bsetAdd (k : BitVec 4) (b : UOpd) : Enc.Statement (.bsetAdd k b) := encode_length _
theorem Enc.bxlate (d : BitVec 6) (k : BitVec 4) : Enc.Statement (.bxlate d k) := encode_length _
theorem Enc.send (d : BitVec 6) (g : BitVec 6) : Enc.Statement (.send d g) := encode_length _
theorem Enc.rpost (d : BitVec 6) (g : BitVec 6) : Enc.Statement (.rpost d g) := encode_length _
theorem Enc.rprobe (d : BitVec 6) (g : BitVec 6) : Enc.Statement (.rprobe d g) := encode_length _
theorem Enc.rcancel (d : BitVec 6) (g : BitVec 6) : Enc.Statement (.rcancel d g) := encode_length _
theorem Enc.cfire (a : Sel) (b : UOpd) : Enc.Statement (.cfire a b) := encode_length _
theorem Enc.copyPiece (e : Eng) (id : Nat) : Enc.Statement (.copyPiece e id) := encode_length _
theorem Enc.copyTagRequeue (e : Eng) (id : Nat) : Enc.Statement (.copyTagRequeue e id) := encode_length _
theorem Enc.copyCompletion (e : Eng) (id : Nat) : Enc.Statement (.copyCompletion e id) := encode_length _
theorem Enc.followOnFire (e : Eng) (id : Nat) : Enc.Statement (.followOnFire e id) := encode_length _
theorem Enc.q3HeldRelease (gk : Nat) : Enc.Statement (.q3HeldRelease gk) := encode_length _
theorem Enc.snapshotOpen (at1 : SnapAt) (handle : Nat) (live : Nat) (ver : Nat) : Enc.Statement (.snapshotOpen at1 handle live ver) := encode_length _
theorem Enc.snapshotClose (at1 : SnapAt) (handle : Nat) : Enc.Statement (.snapshotClose at1 handle) := encode_length _
theorem Enc.l2RangeWrite (die : Nat) (idx : Nat) (v : BitVec 128) : Enc.Statement (.l2RangeWrite die idx v) := encode_length _
theorem Enc.l2PinSweep (stack : Nat) : Enc.Statement (.l2PinSweep stack) := encode_length _
theorem Enc.directoryRequest (die : Nat) (core : Nat) (seg : Nat) (r : DirReq) : Enc.Statement (.directoryRequest die core seg r) := encode_length _
theorem Enc.longLatencyWrite (gk : Nat) (i : Nat) : Enc.Statement (.longLatencyWrite gk i) := encode_length _
theorem Enc.monitorReread (gk : Nat) : Enc.Statement (.monitorReread gk) := encode_length _
theorem Enc.tileStart (core : Nat) (pos : Nat) : Enc.Statement (.tileStart core pos) := encode_length _
theorem Enc.tileComplete (core : Nat) (i : Nat) : Enc.Statement (.tileComplete core i) := encode_length _
theorem Enc.tapeDrain (gk : Nat) (s : Bool) : Enc.Statement (.tapeDrain gk s) := encode_length _
theorem Enc.tapeFetch (gk : Nat) (s : Bool) : Enc.Statement (.tapeFetch gk s) := encode_length _
theorem Enc.putPacket (h : Hdr) (ts : List PutThread) : Enc.Statement (.putPacket h ts) := encode_length _
theorem Enc.ratomPacket (h : Hdr) (ts : List AtomThread) : Enc.Statement (.ratomPacket h ts) := encode_length _
theorem Enc.raccPacket (h : Hdr) (ts : List (List AccElem)) : Enc.Statement (.raccPacket h ts) := encode_length _
theorem Enc.ackReceive (id : Nat) (ece : Bool) : Enc.Statement (.ackReceive id ece) := encode_length _
theorem Enc.rdataReceive (id : Nat) (v : W32) (ece : Bool) : Enc.Statement (.rdataReceive id v ece) := encode_length _
theorem Enc.nackReceive (id : Nat) (code : Nat) (ece : Bool) : Enc.Statement (.nackReceive id code ece) := encode_length _
theorem Enc.busyResend (id : Nat) : Enc.Statement (.busyResend id) := encode_length _
theorem Enc.transferTimeout (id : Nat) : Enc.Statement (.transferTimeout id) := encode_length _
theorem Enc.flitRetransmit (port : Nat) : Enc.Statement (.flitRetransmit port) := encode_length _
theorem Enc.portDead (port : Nat) : Enc.Statement (.portDead port) := encode_length _
theorem Enc.rateRecover : Enc.Statement (.rateRecover) := encode_length _
theorem Enc.collectiveActivate (ctx : Nat) (desc : Nat) (seed : W32) : Enc.Statement (.collectiveActivate ctx desc seed) := encode_length _
theorem Enc.collPacket (h : Hdr) (m : CollMsg) : Enc.Statement (.collPacket h m) := encode_length _
theorem Enc.msgPacket (m : MsgHdr) (bytes : List Byte) : Enc.Statement (.msgPacket m bytes) := encode_length _
theorem Enc.rtsPacket (m : MsgHdr) : Enc.Statement (.rtsPacket m) := encode_length _
theorem Enc.pullPacket (h : Hdr) (id : Nat) (off : Nat) (len : Nat) : Enc.Statement (.pullPacket h id off len) := encode_length _
theorem Enc.pdataPacket (h : Hdr) (ctx : Nat) (handle : Nat) (off : Nat) (bytes : List Byte) : Enc.Statement (.pdataPacket h ctx handle off bytes) := encode_length _
theorem Enc.receiveCompletion (ctx : Nat) (handle : Nat) : Enc.Statement (.receiveCompletion ctx handle) := encode_length _
theorem Enc.q2HeldRelease (team : Nat) : Enc.Statement (.q2HeldRelease team) := encode_length _
theorem Enc.migrationStep (stack : Nat) (i : Nat) : Enc.Statement (.migrationStep stack i) := encode_length _
theorem Enc.faultRequest (pa : Nat) (tgt : Nat) (dst : Nat) (big : Bool) (host : Option Nat) : Enc.Statement (.faultRequest pa tgt dst big host) := encode_length _
theorem Enc.nodeStart (ctx : Nat) (queue : Nat) (node : W64) : Enc.Statement (.nodeStart ctx queue node) := encode_length _
theorem Enc.waitSatisfied (ctx : Nat) (node : W64) : Enc.Statement (.waitSatisfied ctx node) := encode_length _
theorem Enc.nodeCompletion (ctx : Nat) (node : W64) : Enc.Statement (.nodeCompletion ctx node) := encode_length _
theorem Enc.teamDispatch (die : Nat) : Enc.Statement (.teamDispatch die) := encode_length _
theorem Enc.teamExit (team : Nat) : Enc.Statement (.teamExit team) := encode_length _
theorem Enc.teamSwapOut (team : Nat) : Enc.Statement (.teamSwapOut team) := encode_length _
theorem Enc.activeSetRotation (core : Nat) (quad : Nat) : Enc.Statement (.activeSetRotation core quad) := encode_length _
theorem Enc.preemptTrigger (die : Nat) (launch : Nat) : Enc.Statement (.preemptTrigger die launch) := encode_length _
theorem Enc.invarPositionSwap (core : Nat) (quad : Nat) : Enc.Statement (.invarPositionSwap core quad) := encode_length _
theorem Enc.invarWake (gk : Nat) : Enc.Statement (.invarWake gk) := encode_length _
theorem Enc.preemptionRequest (team : Nat) : Enc.Statement (.preemptionRequest team) := encode_length _
theorem Enc.contextSave (team : Nat) : Enc.Statement (.contextSave team) := encode_length _
theorem Enc.tlbiDrained (gk : Nat) : Enc.Statement (.tlbiDrained gk) := encode_length _
theorem Enc.accxferSave (gk : Nat) : Enc.Statement (.accxferSave gk) := encode_length _
theorem Enc.accxferLoad (gk : Nat) : Enc.Statement (.accxferLoad gk) := encode_length _
theorem Enc.registerWrite (gk : Nat) (n : Nat) (v : W32) : Enc.Statement (.registerWrite gk n v) := encode_length _
theorem Enc.notify (v : W64) (whole : Bool) : Enc.Statement (.notify v whole) := encode_length _
theorem Enc.evheadWrite (v : W32) : Enc.Statement (.evheadWrite v) := encode_length _
theorem Enc.apertureAccess (off : Nat) (op : ApOp) : Enc.Statement (.apertureAccess off op) := encode_length _
theorem Enc.debugResume (entry : Nat) (ss : Bool) : Enc.Statement (.debugResume entry ss) := encode_length _
theorem Enc.init (slot : Nat) (ring : W64) (size : Nat) (apbase : W64) : Enc.Statement (.init slot ring size apbase) := encode_length _
theorem Enc.ctxnew (slot : Nat) (ctx : Nat) (sup : Bool) (asid : BitVec 13) (fjob : BitVec 16) (vt : W64) (tcb : W64) (ct : W64) (qt : W64) : Enc.Statement (.ctxnew slot ctx sup asid fjob vt tcb ct qt) := encode_length _
theorem Enc.ctxdel (slot : Nat) (ctx : Nat) : Enc.Statement (.ctxdel slot ctx) := encode_length _
theorem Enc.load (slot : Nat) (ctx : Nat) (seg : Nat) (container : W64) : Enc.Statement (.load slot ctx seg container) := encode_length _
theorem Enc.segmentLoad : Enc.Statement (.segmentLoad) := encode_length _
theorem Enc.keyadd (slot : Nat) (keySlot : Nat) (signer : Nat) (key : List Byte) (sig : List Byte) (admin : Bool) : Enc.Statement (.keyadd slot keySlot signer key sig admin) := encode_length _
theorem Enc.quote (slot : Nat) (q : List Byte × Nat) : Enc.Statement (.quote slot q) := encode_length _
theorem Enc.stepstart (slot : Nat) (ctx : Nat) (queue : Nat) (index : BitVec 16) : Enc.Statement (.stepstart slot ctx queue index) := encode_length _
theorem Enc.answer (slot : Nat) (gk : Nat) (retry : Bool) : Enc.Statement (.answer slot gk retry) := encode_length _
theorem Enc.migrate (slot : Nat) (stack : Nat) (i : Nat) (entry : BitVec 128) (big : Bool) : Enc.Statement (.migrate slot stack i entry big) := encode_length _
theorem Enc.rtable (slot : Nat) (addr : Nat) : Enc.Statement (.rtable slot addr) := encode_length _
theorem Enc.abort (slot : Nat) (job : Nat) : Enc.Statement (.abort slot job) := encode_length _
theorem Enc.join (slot : Nat) (addr : Nat) : Enc.Statement (.join slot addr) := encode_length _
theorem Enc.fabcfg (slot : Nat) (cfg : List Byte) : Enc.Statement (.fabcfg slot cfg) := encode_length _
theorem Enc.fabreset (slot : Nat) : Enc.Statement (.fabreset slot) := encode_length _
theorem Enc.drain (slot : Nat) : Enc.Statement (.drain slot) := encode_length _
theorem Enc.fwpush (slot : Nat) (image : Nat × Nat) : Enc.Statement (.fwpush slot image) := encode_length _
theorem Enc.heartbeat : Enc.Statement (.heartbeat) := encode_length _
theorem Enc.selfCheckResult (acc : Option (BitVec 8)) : Enc.Statement (.selfCheckResult acc) := encode_length _
theorem Enc.watcherCheck (j : Nat) (r : Option (W32 × Bool)) : Enc.Statement (.watcherCheck j r) := encode_length _
theorem Enc.accusationResult (j : Nat) (old : Option (BitVec 8)) : Enc.Statement (.accusationResult j old) := encode_length _
theorem Enc.trafficHold : Enc.Statement (.trafficHold) := encode_length _
theorem Enc.stripeLanded (k : Nat) (peerCrc : W32) (err : Bool) (bytes : List Byte) : Enc.Statement (.stripeLanded k peerCrc err bytes) := encode_length _
theorem Enc.powerOn : Enc.Statement (.powerOn) := encode_length _
theorem Enc.moduleReset : Enc.Statement (.moduleReset) := encode_length _
theorem Enc.trainingComplete (chan0 : Nat) (chan1 : Nat) (live : BitVec 18) (full8 : BitVec 18) : Enc.Statement (.trainingComplete chan0 chan1 live full8) := encode_length _
theorem Enc.powerLoss : Enc.Statement (.powerLoss) := encode_length _
theorem Enc.sensorSample (x : Sample) : Enc.Statement (.sensorSample x) := encode_length _
theorem Enc.alarmClear (m : BitVec 8) : Enc.Statement (.alarmClear m) := encode_length _
theorem Enc.offRequest : Enc.Statement (.offRequest) := encode_length _
theorem Enc.forceOff : Enc.Statement (.forceOff) := encode_length _
theorem Enc.unitFailure (u : FailUnit) : Enc.Statement (.unitFailure u) := encode_length _
theorem Enc.linkAcknowledgement (port : Nat) (n : Nat) : Enc.Statement (.linkAcknowledgement port n) := encode_length _
theorem Enc.malformedPacket (h : Hdr) : Enc.Statement (.malformedPacket h) := encode_length _

end Sys2Proof.Laws
end

