-- ==== Sys2Proof/Tests/Slice0.lean ====
section
/-! SUPPORT. Tests: ill-formed terms that the checks refuse, words of the manual decoded, single steps on a small state,
and for every statement a state and operands that meet its hypotheses. Expected results are the manual's or worked out
from it by hand. -/

namespace Sys2Proof.Tests

set_option maxRecDepth 100000
set_option Elab.async false

open Sys2Proof Sys2Proof.Machine Sys2Proof.Safety Sys2Proof.Claims

/-- A source without T. -/
def u (a : Src) : Sel := ⟨a, false⟩

/-- A launch record: CB 0x10000, 4 groups, 2 segments, SS 1,024, one accumulator, two tape slots, grid 2 × 1 × 1. -/
def rcd : List W32 := [0x10000, 0, 0, 0x21103, 0x2204, 0x00010002, 1]

/-- A ready group at 0x10000. -/
def grp0 : Group :=
  { Group.reset with
    live := true
    r := { Regs.reset with pc := 0x10000 }
    y := { GSync.reset with status := .ready } }

/-- Translations of one address space: the code page, a data page of HBM, a pool page, a supervisor page. -/
def pages : List TlbEntry :=
  [⟨1, 0x10000, 0, 0x1000B⟩, ⟨1, 0x20000, 0, 0x20007⟩, ⟨1, 0x30000, 0, 0x30107⟩, ⟨1, 0x40000, 0, 0x40017⟩]

/-- A team of four groups, 64 to 67, resident on core 0, in an unprivileged context. -/
def tb : State :=
  { State.reset with
    cur := 64
    ctxs := [(1, { Ctx.reset with live := true, asid := 1, tvec := 0x8000 })]
    launches := [(1, { Launch.reset with live := true, ctx := 1, rcd := rcd, placed := 1 })]
    teams := [(1, { Team.reset with st := .resident, launch := 1, ctx := 1, accMap := [0] })]
    nextTeam := 2
    nextLaunch := 2
    groups := [(64, grp0), (65, grp0), (66, grp0), (67, grp0)]
    cores := [(0, { Core.reset with
      slots := [(0, 2)]
      segTeam := [(0, 2), (1, 2)]
      segOwner := [(0, 2), (1, 2)]
      tlb := pages
      ctlb := pages
      acc := [(0, { Acc.reset with owner := some (1, 0) })]
      quads := [(0, { Quad.reset with active := [(0, some 64)], held := [0] }),
        (1, { Quad.reset with active := [(0, some 65)], held := [0] }),
        (2, { Quad.reset with active := [(0, some 66)], held := [0] }),
        (3, { Quad.reset with active := [(0, some 67)], held := [0] })] })]
    link := { Link.reset with tlb := pages } }

/-- `tb` with its context changed. -/
def withCtx (f : Ctx → Ctx) : State := tb.modCtx 1 f
/-- `tb` in a privileged context. -/
def tp : State := withCtx (fun c => { c with sup := true })
/-- `tb` with a debugger attached. -/
def td : State := withCtx (fun c => { c with dbg := 1 })
/-- `s` with its group in a handler. -/
def inHandler (s : State) : State := s.modSys (fun y => { y with hm := true })
/-- `s` with the words of an instruction at its pc. -/
def at0 (s : State) (w : Nat) : State := s.placeCode s.g.r.pc (leBytes 8 w)

/-- Does a result answer `x`? -/
def okB {ε α : Type} [DecidableEq α] (r : Except ε α) (x : α) : Bool :=
  match r with
  | .ok y => decide (y = x)
  | .error _ => false

/-- Does a result refuse with `x`? -/
def errB {ε α : Type} [DecidableEq ε] (r : Except ε α) (x : ε) : Bool :=
  match r with
  | .error y => decide (y = x)
  | .ok _ => false

theorem ok_of {ε α : Type} [DecidableEq α] {r : Except ε α} {x : α} (h : okB r x = true) : r = .ok x := by
  cases r with
  | error e => cases h
  | ok y => exact congrArg _ (of_decide_eq_true h)

theorem err_of {ε α : Type} [DecidableEq ε] {r : Except ε α} {x : ε} (h : errB r x = true) : r = .error x := by
  cases r with
  | ok e => cases h
  | error y => exact congrArg _ (of_decide_eq_true h)

theorem pair_of {α β : Type} {r : α × β} {a : α} (h : r.1 = a) : r = (a, r.2) := h ▸ rfl

theorem pair2_of {α β : Type} {r : α × β} {a : α} {b : β} (h : r.1 = a) (k : r.2 = b) : r = (a, b) := h ▸ k ▸ rfl

theorem fetched_of {x : State} {va : W64} {a : XAddr} (h : okB (x.xlate (.core x.cn) x.x.asid va 0 x.priv .fetch).1 a = true) :
    Claims.Fetched x va a (((x.xlate (.core x.cn) x.x.asid va 0 x.priv .fetch).2).l2range 0 a.pa 4 0 false) :=
  ⟨_, pair_of (ok_of h), rfl⟩

/-- `Runs`, as one Boolean. -/
def runsB (s : State) (sels : List Sel) (dests : List DReg) (x : State) : Bool :=
  okB (s.ready sels dests) x && !s.g.y.stepArmed

theorem runs_of {s : State} {sels : List Sel} {dests : List DReg} {x : State} (h : runsB s sels dests x = true) :
    Runs s sels dests x := by
  have hb := (Bool.and_eq_true _ _).mp h
  exact ⟨ok_of hb.1, by simpa using hb.2⟩

/-- Does a result answer with something that `p` holds of? -/
def okP {ε α : Type} (r : Except ε α) (p : α → Bool) : Bool :=
  match r with
  | .ok y => p y
  | .error _ => false

theorem okP_of {ε α : Type} {r : Except ε α} {p : α → Bool} (h : okP r p = true) : ∃ x, r = .ok x ∧ p x = true := by
  cases r with
  | error e => cases h
  | ok y => exact ⟨y, rfl, h⟩

/-- `Runs` with no register adopted, of each of a list of cases. -/
def runAll (l : List (State × List Sel × List DReg)) : Bool := l.all (fun c => runsB c.1 c.2.1 c.2.2 c.1)

theorem pairP_of {ε α β : Type} {r : Except ε α × β} {p : α → β → Bool} (h : okP r.1 (fun a => p a r.2) = true) :
    ∃ a v, r = (.ok a, v) ∧ p a v = true :=
  let ⟨a, h1, h2⟩ := okP_of h
  ⟨a, r.2, pair_of h1, h2⟩


/-! Witnesses of the statements' hypotheses, in the order of the statements. -/

/-- `s` when the group at issue has been chosen. -/
def turn (s : State) : State := s.tick.turnTo s.tick.cur

theorem wit_stepRunsDecoded :
    let s := at0 tb 0xCE000000
    let y := turn s
    s.phys.powered = true ∧ s.agenda = [] ∧ y.canIssue y.cur = true ∧ y.g.r.pc.toNat % 4 = 0 ∧
    ∃ a v, Claims.Fetched y y.g.r.pc a v ∧
      twoWords (leNat (v.pread 0 a.pa 4)) = false ∧ decodeWords (leNat (v.pread 0 a.pa 4)) 0 = .ok .nop := by
  refine ⟨?_, ?_, ?_, ?_, ⟨0, 0x10000, 0, 0x1000B⟩, _,
    fetched_of ?_, ?_, ok_of ?_⟩ <;> decide +kernel

theorem wit_stepRunsDecoded_twoWords :
    let s := at0 tb 0x000001219BE00001
    let y := turn s
    s.phys.powered = true ∧ s.agenda = [] ∧ y.canIssue y.cur = true ∧ y.g.r.pc.toNat % 4 = 0 ∧
    ∃ a v b v2, Claims.Fetched y y.g.r.pc a v ∧
      twoWords (leNat (v.pread 0 a.pa 4)) = true ∧
      Claims.Fetched v (y.g.r.pc + 4) b v2 ∧
      decodeWords (leNat (v.pread 0 a.pa 4)) (leNat (v2.pread 0 b.pa 4)) = .ok (.gmov 60 (.imm 0x121)) := by
  refine ⟨?_, ?_, ?_, ?_, ⟨0, 0x10000, 0, 0x1000B⟩, _,
    ⟨0, 0x10004, 0, 0x1000B⟩, _, fetched_of ?_, ?_,
    fetched_of ?_, ok_of ?_⟩ <;> decide +kernel

theorem wit_everyStepGoes :
    (encode .rateRecover = [] ∧ State.reset.phys.powered = true) ∧
    ({ State.reset with phys := { Phys.reset with powered := false }, agenda := [.event .rateRecover] } : State).phys.powered = false ∧
    (let s : State := { State.reset with
       phys := { Phys.reset with powered := false, v48 := true }
       agenda := [.event .moduleReset] }
     encode .moduleReset = [] ∧ s.phys.powered = false ∧ s.phys.v48 = true ∧ s.agenda = .event .moduleReset :: []) ∧
    ({ State.reset with agenda := [.event .rateRecover, .issue 64] } : State).agenda = .event .rateRecover :: [.issue 64] ∧
    ({ State.reset with agenda := [.issue 64] } : State).agenda = .issue 64 :: [] := by
  decide +kernel

/-- The least and greatest value of each operand of IADD, and a GMOV of every bit. -/
theorem wit_decodeEncode :
    (Instr.iadd 127 ⟨.g 63, true⟩ ⟨.q 3, true⟩).wf = true ∧ encode (.iadd 127 ⟨.g 63, true⟩ ⟨.q 3, true⟩) ≠ [] ∧
    (Instr.gmov 63 (.imm 0xFFFFFFFF)).wf = true ∧ encode (.gmov 63 (.imm 0xFFFFFFFF)) ≠ [] := by
  decide +kernel

theorem wit_encodeDecode :
    ((0xCE000000 : Nat) < 2 ^ 32 ∧ twoWords 0xCE000000 = false ∧ decodeWords 0xCE000000 0 = .ok .nop) ∧
    ((0x9BE00001 : Nat) < 2 ^ 32 ∧ (0xFFFFFFFF : Nat) < 2 ^ 32 ∧ twoWords 0x9BE00001 = true ∧
      decodeWords 0x9BE00001 0xFFFFFFFF = .ok (.gmov 60 (.imm 0xFFFFFFFF))) := by
  refine ⟨⟨?_, ?_, ok_of ?_⟩, ?_, ?_, ?_,
    ok_of ?_⟩ <;> decide +kernel

/-- `tb` with its group at another pc. -/
def atPc (pc : W64) : State := tb.modR (fun r => { r with pc := pc })

theorem wit_fetchTraps :
    (∀ s ∈ [atPc 0x10002, atPc 0x50000, at0 tb 0x7E000000], s.phys.powered = true ∧ s.agenda = [] ∧
      (turn s).canIssue (turn s).cur = true ∧ (turn s).g.sys.hm = false ∧ ((turn s).ctxG (turn s).cur).dbg.getLsbD 0 = false) ∧
    (turn (atPc 0x10002)).g.r.pc.toNat % 4 ≠ 0 ∧
    (let y := turn (atPc 0x50000);
      y.g.r.pc.toNat % 4 = 0 ∧ ∃ f v, y.xlate (.core y.cn) y.x.asid y.g.r.pc 0 y.priv .fetch = (.error f, v)) ∧
    (let y := turn (at0 tb 0x7E000000);
      y.g.r.pc.toNat % 4 = 0 ∧ ∃ a v e, Claims.Fetched y y.g.r.pc a v ∧
        twoWords (leNat (v.pread 0 a.pa 4)) = false ∧ decodeWords (leNat (v.pread 0 a.pa 4)) 0 = .error e) := by
  refine ⟨?_, ?_, ⟨?_, .miss, _, pair_of (err_of ?_)⟩,
    ?_, ⟨0, 0x10000, 0, 0x1000B⟩, _, .opcode, fetched_of ?_, ?_,
    err_of ?_⟩ <;> decide +kernel

theorem wit_softwareTraps :
    Enters tb ∧ Enters (tb.modY (fun y => { y with stepArmed := true })) ∧ tb.ready [u (.g 5)] [] = .ok tb := by
  refine ⟨⟨?_, ?_⟩, ⟨?_, ?_⟩, ok_of ?_⟩ <;> decide +kernel

theorem wit_trapsThatStop :
    ((td.ctxG td.cur).dbg.getLsbD 0 = true ∧ (td.ctxG td.cur).dbg.getLsbD 1 = false) ∧
    (inHandler tb).g.sys.hm = true ∧ ((inHandler tb).ctxG (inHandler tb).cur).dbg.getLsbD 0 = false ∧
    1 ∈ (inHandler tb).launchTeams (inHandler tb).t.launch ∧ 2 ∉ (inHandler tb).launchTeams (inHandler tb).t.launch ∧
    (inHandler tb).l.live = true ∧ (inHandler tb).l.dead = false := by
  decide +kernel

theorem wit_eretReturns : (inHandler tb).g.sys.hm = true ∧ Enters tb := by
  refine ⟨?_, ?_, ?_⟩ <;> decide +kernel

/-- `s` with uniform register `n` at `v`. -/
def setG (s : State) (n v : Nat) : State := s.setU n (BitVec.ofNat 32 v)

/-- SRD and SWR: the least and greatest assigned number, read and written; unassigned numbers beside assigned ones; a
privileged number from unprivileged code. -/
theorem wit_systemRegisters :
    (∀ s ∈ [setG tb 5 0, setG tp 5 0x122, setG tp 5 0x123, setG tb 5 4, setG tb 5 0x100, setG (inHandler tb) 5 0x122],
      runsB s [u (.g 5)] [.g (uniReg s 7)] s = true ∧ runsB s [u (.g 9), u (.g 5)] [] s = true) ∧
    (0, (0 : W32)) ∈ sysRegs (setG tb 5 0) ∧ sysMay (setG tb 5 0) 0 ∧
    (0x122, (0 : W32)) ∈ sysRegs (setG tp 5 0x122) ∧ sysMay (setG tp 5 0x122) 0x122 ∧
    sysMay (setG (inHandler tb) 5 0x122) 0x122 ∧
    (((setG tp 5 0x123).uniVal (.g 5)).toNat ∉ (sysRegs (setG tp 5 0x123)).map (fun p => p.1) ∧ Enters (setG tp 5 0x123)) ∧
    (((setG tb 5 4).uniVal (.g 5)).toNat ∉ (sysRegs (setG tb 5 4)).map (fun p => p.1) ∧ Enters (setG tb 5 4)) ∧
    ((setG tb 5 0x100).uniVal (.g 5)).toNat ∈ (sysRegs (setG tb 5 0x100)).map (fun p => p.1) ∧
    ¬ sysMay (setG tb 5 0x100) ((setG tb 5 0x100).uniVal (.g 5)).toNat ∧ Enters (setG tb 5 0x100) ∧
    ((setG tb 5 0x100).g.r.getG (uniReg (setG tb 5 0x100) 5)).toNat = 0x100 := by
  unfold sysMay Enters
  decide +kernel

/-- `s` with lane `k` of V register `r` at `v`. -/
def setV (s : State) (r k v : Nat) : State := s.modR (fun x => x.setV r k (BitVec.ofNat 32 v))

theorem wit_laneInteger :
    (∃ val, intLane (.iadd 127 (u (.v 1)) ⟨.g 63, true⟩) = some (127, [u (.v 1), ⟨.g 63, true⟩], val)) ∧
    Runs tb [u (.v 1), ⟨.g 63, true⟩] [.v 127] tb :=
  ⟨⟨_, rfl⟩, runs_of (by decide +kernel)⟩

theorem wit_laneSelectCompare :
    Runs tb [u (.v 1), u (.const 5), u (.g 4)] [.v 127] tb ∧ Runs tb [⟨.v 4, false⟩, ⟨.v 5, false⟩] [.g 31] tb :=
  ⟨runs_of (by decide +kernel), runs_of (by decide +kernel)⟩

/-- A NaN next to infinity, an infinity and its opposite, the greatest finite number and its opposite, and zero times
infinity, in the last thread. -/
theorem wit_laneFloatingPoint :
    (∃ mode f, fltLane (.fadd 127 (u (.v 1)) (u (.v 2))) = some (127, [u (.v 1), u (.v 2)], mode, f)) ∧
    runAll ([setV tb 1 15 0x7F800001, setV (setV tb 1 15 0x7F800000) 2 15 0xFF800000,
      setV (setV tb 1 15 0x7F7FFFFF) 2 15 0xFF7FFFFF, setV tb 2 15 0x7F800000].map
        (fun s => (s, [u (.v 1), u (.v 2)], [.v 127]))) = true ∧
    tb.g.r.exm.getLsbD 15 = true ∧
    ((setV tb 1 15 0x7F800001).laneVal (.v 1) 15 &&& 0x7FFFFFFF).toNat > 0x7F800000 ∧
    (let s := setV (setV tb 1 15 0x7F800000) 2 15 0xFF800000
     (s.laneVal (.v 1) 15 &&& 0x7FFFFFFF) = 0x7F800000 ∧ s.laneVal (.v 2) 15 = s.laneVal (.v 1) 15 ^^^ 0x80000000) ∧
    (let s := setV (setV tb 1 15 0x7F7FFFFF) 2 15 0xFF7FFFFF
     ¬ (s.laneVal (.v 1) 15 &&& 0x7FFFFFFF).toNat > 0x7F800000 ∧ ¬ (s.laneVal (.v 1) 15 &&& 0x7FFFFFFF) = 0x7F800000 ∧
     s.laneVal (.v 2) 15 = s.laneVal (.v 1) 15 ^^^ 0x80000000) ∧
    (let s := setV tb 2 15 0x7F800000
     (s.laneVal (.v 1) 15 &&& 0x7FFFFFFF) = 0 ∧ (s.laneVal (.v 2) 15 &&& 0x7FFFFFFF) = 0x7F800000) := by
  refine ⟨⟨_, _, rfl⟩, ?_, ?_, ?_, ?_, ?_,
    ?_⟩ <;> decide +kernel

theorem wit_blockScales :
    (tb.g.r.vEmpty.getLsbD 126 = false ∧ tb.g.r.vEmpty.getLsbD 127 = false) ∧
    Runs tb [⟨.v 126, true⟩, ⟨.v 127, true⟩, u (.g 1)] [.v 0] tb ∧
    Runs tb [u (.v 1), u (.g 1)] [.v 126, .v 127] tb ∧ Runs tb [u (.v 1), u (.g 1)] [.v 127] tb := by
  refine ⟨?_, runs_of ?_, runs_of ?_, runs_of ?_⟩ <;> decide +kernel

theorem wit_reductions :
    (∃ f, reduction (.xredAdd .totalG 63 (u (.v 1))) = some (.totalG, 63, u (.v 1), f)) ∧
    (∃ f, reduction (.xredFmax .inclusive 127 (u (.v 1))) = some (.inclusive, 127, u (.v 1), f)) ∧
    Runs tb [u (.v 1)] [.g (uniReg tb 63)] tb ∧ Runs tb [u (.v 1)] [.v 127] tb :=
  ⟨⟨_, rfl⟩, ⟨_, rfl⟩, runs_of (by decide +kernel), runs_of (by decide +kernel)⟩

/-- Four V registers up to V127 with an error, behind a write to HG3; nothing behind them. -/
theorem wit_longLatencyLands :
    let p : Pending := ⟨[[1], [2], [3], [4]].zipIdx.map (fun v => Dest.v (124 + v.2) 0x8001 v.1), some 1, some .fabric⟩
    let q : Pending := ⟨[.g 67 5], none, none⟩
    let s := tb.modY (fun y => { y with pend := [q, p] })
    124 + [[(1 : W32)], [2], [3], [4]].length ≤ 128 ∧ (s.grp 64).y.pend = [q] ++ p :: [] ∧
    (s.grp 64).y.pend = [] ++ q :: [p] ∧ (67 : Nat) < 68 ∧ q.dests = [.g 67 5] ∧ (s.grp 64).y.pend.length ≤ 2 := by
  decide +kernel

theorem wit_uniformArithmetic :
    (∃ val, uniWrite (.gadd 63 (u (.g 1)) (.imm 0xFFFFFFFF)) = some (63, [u (.g 1)], 8, val)) ∧
    (∃ val, uniWrite (.rdlane 63 127 false (.sel (u (.const 15)))) = some (63, [u (.v 127), u (.const 15)], 4, val)) ∧
    Runs tb [u (.g 1)] [.g (uniReg tb 63)] tb ∧ Runs (inHandler tb) [u (.g 1)] [.g (uniReg (inHandler tb) 63)] (inHandler tb) ∧
    Runs tb [u (.v 127), u (.const 15)] [.g (uniReg tb 63)] tb ∧
    Runs tb [⟨.g 1, false⟩, ⟨.g 2, false⟩] [.g 31] tb := by
  refine ⟨⟨_, rfl⟩, ⟨_, rfl⟩, runs_of ?_, runs_of ?_, runs_of ?_,
    runs_of ?_⟩ <;> decide +kernel

/-- Taken branches within the code page and to the last word before it, not taken ones, and targets that are misaligned
or in an unmapped page. -/
theorem wit_branches :
    tb.g.y.stepArmed = false ∧ (∃ v, Reaches tb (relative tb 0) v) ∧ (∃ v, Reaches tb (relative tb 0x3FFE) v) ∧
    (tb.ready [⟨.g 5, false⟩] [] = .ok tb ∧ (setG tb 5 1).ready [⟨.g 5, false⟩] [] = .ok (setG tb 5 1)) ∧
    (tb.g.r.getG (uniReg tb 5) = 0 ∧ (setG tb 5 1).g.r.getG (uniReg (setG tb 5 1) 5) = 1 ∧
      ((1 : W32).truncate 16 : BitVec 16) &&& tb.g.r.exm ≠ 0) ∧
    Enters tb ∧ (relative (atPc 0x10002) 0).toNat % 4 ≠ 0 ∧
    ∃ f, (tb.xlate (.core tb.cn) tb.x.asid (relative tb 0xFFFF) 0 tb.priv .fetch).1 = .error f := by
  refine ⟨?_, ⟨_, ?_, ⟨0, 0x10004, 0, 0x1000B⟩, fetched_of ?_⟩,
    ⟨_, ?_, ⟨0, 0x1FFFC, 0, 0x1000B⟩, fetched_of ?_⟩,
    ⟨ok_of ?_, ok_of ?_⟩, ?_, ⟨?_, ?_⟩,
    ?_, .miss, err_of ?_⟩ <;> decide +kernel

/-- `tb` whose code base is 2^32 below: the next word's offset is 2^32 + 4. -/
def farCode : State := atPc 0x100010000

theorem wit_masksCallsLoops :
    (Runs tb [] [.g (uniReg tb 63)] tb ∧ Runs tb [u (.g 1), u (.const 3)] [.g (uniReg tb 63)] tb) ∧
    tb.g.y.stepArmed = false ∧ tb.ready [] [.g (uniReg tb 7)] = .ok tb ∧ (tb.g.r.pc + 4 - tb.l.cb).toNat < 2 ^ 32 ∧
    (∃ v, Reaches (tb.setU (uniReg tb 7) ((tb.g.r.pc + 4 - tb.l.cb).truncate 32)) (relative tb 3) v) ∧
    (farCode.ready [] [.g (uniReg farCode 7)] = .ok farCode ∧ 2 ^ 32 ≤ (farCode.g.r.pc + 4 - farCode.l.cb).toNat ∧
      farCode.g.y.stepArmed = false ∧ Enters farCode) ∧
    (tb.ready [⟨.g 7, false⟩] [] = .ok tb ∧
      ∃ v, Reaches tb (tb.l.cb + (tb.g.r.getG (uniReg tb 7)).zeroExtend 64 + BitVec.ofInt 64 (4 * (5 : BitVec 17).toInt)) v) ∧
    (let s := setG tb 7 1
     s.ready [⟨.g 7, false⟩] [.g (uniReg s 7)] = .ok s ∧ s.g.r.getG (uniReg s 7) = 1) ∧
    (let s := setG tb 7 0
     s.g.r.getG (uniReg s 7) - 1 ≠ 0 ∧ s.ready [⟨.g 7, false⟩] [.g (uniReg s 7)] = .ok s ∧
     ∃ v, Reaches (s.setU (uniReg s 7) (s.g.r.getG (uniReg s 7) - 1)) (relative s 0) v) := by
  refine ⟨⟨runs_of ?_, runs_of ?_⟩, ?_, ok_of ?_,
    ?_, ⟨_, ?_, ⟨0, 0x10010, 0, 0x1000B⟩, fetched_of ?_⟩,
    ⟨ok_of ?_, ?_, ?_, ?_, ?_⟩,
    ⟨ok_of ?_, _, ?_, ⟨0, 0x10014, 0, 0x1000B⟩, fetched_of ?_⟩,
    ⟨ok_of ?_, ?_⟩,
    ?_, ok_of ?_,
    ⟨_, ?_, ⟨0, 0x10004, 0, 0x1000B⟩, fetched_of ?_⟩⟩ <;> decide +kernel

/-- `tb` with V1 and G1 empty. -/
def hollow : State := tb.modR (fun r => { r with vEmpty := 2, gEmpty := 2 })

theorem wit_emptyRegisters :
    (∃ val, intLane (.iadd 3 (u (.v 0)) ⟨.v 1, true⟩) = some (3, [u (.v 0), ⟨.v 1, true⟩], val)) ∧
    hollow.g.r.vEmpty.getLsbD 3 = false ∧
    [u (.v 0), ⟨.v 1, true⟩].find? (fun a => hollow.srcEmpty a.src) = some ⟨.v 1, true⟩ ∧ Enters hollow ∧
    [u (.v 0), u (.v 1)].find? (fun a => hollow.srcEmpty a.src) = some (u (.v 1)) ∧
    (∃ val, uniWrite (.gadd 1 (u (.g 0)) (.sel (u (.g 2)))) = some (1, [u (.g 0), u (.g 2)], 4, val)) ∧
    (uniReg hollow 1 < 64 ∧ hollow.g.r.gEmpty.getLsbD (uniReg hollow 1) = true) ∧
    (∃ val, intLane (.iadd 1 (u (.v 0)) (u (.v 2))) = some (1, [u (.v 0), u (.v 2)], val)) ∧
    hollow.g.r.vEmpty.getLsbD 1 = true := by
  refine ⟨⟨_, rfl⟩, ?_, ?_, ⟨?_, ?_⟩, ?_, ⟨_, rfl⟩, ?_,
    ⟨_, rfl⟩, ?_⟩ <;> decide +kernel

/-- A buffer record: base, EXT0, EXT1, STRIDE0, FMT, SPACE, BCHK. -/
def mk (base ext0 ext1 str0 fmt sp bchk : Nat) : BitVec 256 :=
  BitVec.ofNat 256 (base + 2 ^ 64 * ext0 + 2 ^ 96 * ext1 + 2 ^ 128 * str0 + 2 ^ 192 * fmt + 2 ^ 200 * sp + 2 ^ 203 * bchk)

/-- `s` with B register `k` at `v`. -/
def setB (s : State) (k : Nat) (v : BitVec 256) : State := s.modR (fun r => r.setB k v)
/-- `s` with counter `p` at `n`. -/
def setPath (s : State) (p n : Nat) : State := s.modY (fun y => { y with paths := tset 0 y.paths p n })
/-- `s` with EXM. -/
def setX (s : State) (m : BitVec 16) : State := s.modR (fun r => { r with exm := m })
/-- The thread's number as an index. -/
def tidx : Sel := ⟨.special 0, false⟩
/-- The last 64 bytes of the team's visible tile memory as 16 words. -/
def tail : BitVec 256 := mk 4032 16 1 4 2 0 0

/-- `OutOfStaging`, as a Boolean. -/
def stagedB (x : State) (rc : BitVec 256) (n : Nat) (cs : List LAcc) : Bool :=
  cs.all (fun c => match placeOf x rc n c with
    | none => true
    | some p => !x.inStaging p n)

theorem out_of {x : State} {rc : BitVec 256} {n : Nat} {cs : List LAcc} (h : stagedB x rc n cs = true) :
    OutOfStaging x rc n cs := by
  intro c hc p hp
  have := List.all_eq_true.mp h c hc
  rw [hp] at this
  simpa using this

theorem wit_loadsFromTile :
    let s := setB tb 15 tail
    s.g.r.getB 15 = tail ∧ rSpace tail = 0 ∧ Runs s [tidx] [.v 127] s ∧
    (∃ cs, s.checkAll (loadKind (recBytes tail) .acq) tail (s.laneVal (.special 0)) s.words1 = .ok cs ∧
      OutOfStaging s tail (recBytes tail) cs) ∧
    (let v := setX (setB tb 15 (mk 4032 16 1 4 2 0 0)) 0x1000
     Runs v [tidx] [.v 124, .v 125, .v 126, .v 127] v ∧
     ∃ cs, v.checkAll (load4Kind .plain) tail (v.laneVal (.special 0)) (v.words4 (recBytes tail)) = .ok cs ∧
       OutOfStaging v tail 4 cs) := by
  refine ⟨?_, ?_, runs_of ?_,
    (okP_of (p := stagedB (setB tb 15 tail) tail (recBytes tail)) ?_).imp (fun _ h => ⟨h.1, out_of h.2⟩),
    runs_of ?_,
    (okP_of (p := stagedB (setX (setB tb 15 tail) 0x1000) tail 4) ?_).imp (fun _ h => ⟨h.1, out_of h.2⟩)⟩ <;> decide +kernel

/-- `tb` on a die whose scratchpad segment 0 belongs to its address space: checked, software-managed or coherent. -/
def spad (bits : Nat) : State := { tb with dies := [(0, { Die.reset with sprgn := [(0, BitVec.ofNat 64 (2 ^ 47 + bits + 2 ^ 32 + 2 ^ 16))] })] }

theorem wit_loadsFromAfar :
    (let rc := mk 4032 16 1 4 2 1 0
     let s := setPath (setB tb 15 rc) 1 65534
     rSpace rc = 1 ∧ Runs s [tidx] [.v 127] s ∧ s.g.y.path (rSpace rc) < 65535 ∧
     ∃ cs, s.checkAll (loadKind (recBytes rc) .plain) rc (s.laneVal (.special 0)) s.words1 = .ok cs ∧
       OutOfStaging s rc (recBytes rc) cs) ∧
    (let rc := mk 4032 16 1 4 2 2 0
     let s := setX (setPath (setB (spad 0) 15 rc) 2 65534) 1
     rSpace rc = 2 ∧ Runs s [tidx] [.v 124, .v 125, .v 126, .v 127] s ∧ s.g.y.path (rSpace rc) < 65535 ∧
     ∃ cs, s.checkAll (load4Kind .plain) rc (s.laneVal (.special 0)) (s.words4 (recBytes rc)) = .ok cs ∧
       cs.all (fun c => match c.at? with
         | none => true
         | some ad => !(s.die (s.cn / 96)).chk (ad / 4096)) = true) := by
  refine ⟨⟨?_, runs_of ?_, ?_,
    (okP_of (p := stagedB (setPath (setB tb 15 (mk 4032 16 1 4 2 1 0)) 1 65534) (mk 4032 16 1 4 2 1 0)
      (recBytes (mk 4032 16 1 4 2 1 0))) ?_).imp (fun _ h => ⟨h.1, out_of h.2⟩)⟩,
    ?_, runs_of ?_, ?_, okP_of ?_⟩ <;> decide +kernel

theorem wit_stores :
    (let s := setX (setPath (setB tb 15 tail) 1 9) 0x8000
     Runs s [tidx, u (.v 127)] [] s ∧ s.released .team = true ∧ s.g.y.path (min (rSpace tail) 2) < 65535 ∧
     ∃ cs, s.checkAll (storeKind (recBytes tail) .rel) tail (s.laneVal (.special 0)) s.words1 = .ok cs ∧
       decide (cs.map (fun c => placeOf s tail 4 c) = [some (.data 0 4092)]) = true) ∧
    (let s := setX (setPath (setB tb 15 tail) 0 65534) 0x1000
     Runs s [tidx, u (.v 124), u (.v 125), u (.v 126), u (.v 127)] [] s ∧ s.g.y.path (min (rSpace tail) 2) < 65535 ∧
     ∃ cs, s.checkAll (store4Kind .plain) tail (s.laneVal (.special 0)) (s.words4 (recBytes tail)) = .ok cs ∧
       decide (cs.map (fun c => placeOf s tail 4 c) =
         [some (.data 0 4080), some (.data 0 4084), some (.data 0 4088), some (.data 0 4092)]) = true) := by
  refine ⟨⟨runs_of ?_, ?_, ?_, okP_of ?_⟩,
    runs_of ?_, ?_, okP_of ?_⟩ <;> decide +kernel

theorem wit_atomics :
    let s := setX (setPath (setB tb 15 tail) 0 0) 0x8000
    s.released .die = true ∧ s.g.y.path (min (rSpace tail) 2) < 65535 ∧
    (∃ cs, s.checkAll (atomKind .acqRel) tail (s.laneVal (.special 0)) s.words1 = .ok cs ∧
      decide (cs.map (fun c => c.t) = [15] ∧ cs.map (fun c => placeOf s tail 4 c) = [some (.data 0 4092)] ∧
        s.inStaging (.data 0 4092) 4 = false) = true) ∧
    Runs s [tidx, u (.v 3), u (.v 4)] [.v 127] s ∧ Runs s [tidx, u (.v 3)] [.v 127] s ∧ Runs s [tidx, u (.v 3)] [] s := by
  refine ⟨?_, ?_, okP_of ?_, runs_of ?_,
    runs_of ?_, runs_of ?_⟩ <;> decide +kernel

/-- Does a result refuse? -/
def bad {ε α : Type} (r : Except ε α) : Bool := match r with
  | .error _ => true
  | .ok _ => false

/-- The six instructions on a record one element short; SPACE 3; a 64-bit FMT in space 2; the last thread alone out. -/
theorem wit_accessChecks :
    let short := mk 0 15 1 4 2 0 0
    let s := setB tb 15 short
    Enters s ∧ runAll [(s, [tidx], [.v 127]), (s, [tidx, u (.v 127)], []), (s, [tidx], [.v 124, .v 125, .v 126, .v 127]),
      (s, [tidx, u (.v 124), u (.v 125), u (.v 126), u (.v 127)], []), (s, [tidx, tidx], []), (s, [tidx, tidx], [.v 127])] = true ∧
    ([(loadKind (recBytes short) .plain, s.words1), (storeKind (recBytes short) .plain, s.words1),
      (load4Kind .plain, s.words4 (recBytes short)), (store4Kind .plain, s.words4 (recBytes short)), (atomKind .plain, s.words1)].all
        (fun k => bad (s.checkAll k.1 short (s.laneVal (.special 0)) k.2))) = true ∧
    (s.g.r.exm ≠ 0 ∧ 3 ≤ rSpace (mk 0 16 1 4 2 3 0)) ∧
    (rSpace (mk 0 16 1 4 3 2 0) < 3 ∧ rFmt (mk 0 16 1 4 3 2 0) ∉ ldFmts) ∧
    (rSpace short < 3 ∧ rFmt short ∈ ldFmts ∧ rBchk short = 0 ∧ s.g.r.exm.getLsbD 15 = true ∧
      decide (rExt0 short ≤ (s.laneVal (.special 0) 15).toNat % 2 ^ 20) = true ∧
      ∀ k < 15, (decide (rExt0 short ≤ (s.laneVal (.special 0) k).toNat % 2 ^ 20) ||
        decide (rExt1 short ≤ (s.laneVal (.special 0) k).toNat / 2 ^ 20)) = false) := by
  unfold Enters
  decide +kernel

/-- Sixteen registers fill the spill size exactly; four bytes further they pass it. -/
theorem wit_spillStack :
    ((112 : BitVec 7).toNat + 16 ≤ 128 ∧ tb.g.y.stepArmed = false) ∧
    (tb.g.r.spp.toNat + (0 : BitVec 16).toNat + 64 * 16 ≤ tb.l.ss ∧ tb.l.ss < tb.g.r.spp.toNat + (4 : BitVec 16).toNat + 64 * 16) ∧
    Enters tb ∧ tb.g.y.path 0 < 65535 ∧
    tb.ready ((List.range 16).map (fun i => ⟨.v (112 + BitVec.ofNat 7 i), false⟩)) [] = .ok tb ∧
    tb.ready [] ((List.range 16).map (fun i => DReg.v (112 + i))) = .ok tb := by
  refine ⟨?_, ?_, ⟨?_, ?_⟩, ?_, ok_of ?_,
    ok_of ?_⟩ <;> decide +kernel

theorem wit_spillPointer :
    Runs tb [] [] tb ∧ Runs tb [u (.g 1)] [] tb ∧ (u (.g 63)).ok = true ∧ Enters tb ∧
    (let sum := fun (w : W32) => ((tb.g.r.spp.toNat : Int) + w.toInt)
     (0 ≤ sum 0 ∧ sum 0 ≤ tb.l.ss ∧ sum 0 % 4 = 0) ∧ (0 ≤ sum 1024 ∧ sum 1024 ≤ tb.l.ss ∧ sum 1024 % 4 = 0) ∧
     sum (0xFFFFFFFC : W32) < 0 ∧ (tb.l.ss : Int) < sum 1028 ∧ sum 2 % 4 ≠ 0) := by
  refine ⟨runs_of ?_, runs_of ?_, ?_, ⟨?_, ?_⟩,
    ?_⟩ <;> decide +kernel

/-- `AtHome`, as a Boolean. -/
def atHomeB (x : State) (cs : List LAcc) : Bool :=
  decide ((x.core x.cn).segs.length + cs.length ≤ 128) && cs.all (fun c => match c.at? with
    | none => true
    | some a => !(x.die (x.cn / 96)).soft (a / 4096) &&
      (match tget DirSt.i (x.die (x.cn / 96)).dir (a / 4096) with
       | .u _ => false
       | _ => true) &&
      (x.core x.cn).segs.all (fun v => decide (v.seg = a / 4096 → v.soft = false)))

theorem atHome_of {x : State} {cs : List LAcc} (h : atHomeB x cs = true) : AtHome x cs := by
  obtain ⟨h1, h2⟩ := (Bool.and_eq_true _ _).mp h
  refine ⟨of_decide_eq_true h1, fun c hc a ha => ?_⟩
  have hc2 := List.all_eq_true.mp h2 c hc
  rw [ha] at hc2
  simp only [Bool.and_eq_true, Bool.not_eq_true'] at hc2
  refine ⟨hc2.1.1, fun o ho => ?_, fun v hv => of_decide_eq_true (List.all_eq_true.mp hc2.2 v hv)⟩
  have h3 := hc2.1.2
  rw [ho] at h3
  exact Bool.false_ne_true h3

/-- The last word of the scratchpad segment's second page, of a coherent segment: loaded, stored, read and modified. -/
theorem wit_scratchpadAtHome :
    let rc := mk 4092 1 1 4 2 2 0
    let s := setX (setPath (setB (spad 0) 15 rc) 2 65534) 1
    rSpace rc = 2 ∧ Runs s [tidx] [.v 127] s ∧ Runs s [tidx, u (.v 127)] [] s ∧ Runs s [tidx, u (.v 3)] [.v 127] s ∧
    (∃ cs, s.checkAll (loadKind (recBytes rc) .plain) rc (s.laneVal (.special 0)) s.words1 = .ok cs ∧ AtHome s cs) ∧
    (∃ cs, s.checkAll (storeKind (recBytes rc) .plain) rc (s.laneVal (.special 0)) s.words1 = .ok cs ∧ AtHome s cs) ∧
    (∃ cs, s.checkAll (atomKind .plain) rc (s.laneVal (.special 0)) s.words1 = .ok cs ∧ AtHome s cs) ∧
    tget DirSt.i (s.die 0).dir 0 = .i ∧ tget [] (s.die 0).parts 0 = [] := by
  refine ⟨?_, runs_of ?_, runs_of ?_, runs_of ?_, ?_, ?_, ?_, ?_, ?_⟩
  case refine_5 => exact (okP_of (p := atHomeB (setX (setPath (setB (spad 0) 15 (mk 4092 1 1 4 2 2 0)) 2 65534) 1))
    (by decide +kernel)).imp (fun _ h => ⟨h.1, atHome_of h.2⟩)
  case refine_6 => exact (okP_of (p := atHomeB (setX (setPath (setB (spad 0) 15 (mk 4092 1 1 4 2 2 0)) 2 65534) 1))
    (by decide +kernel)).imp (fun _ h => ⟨h.1, atHome_of h.2⟩)
  case refine_7 => exact (okP_of (p := atHomeB (setX (setPath (setB (spad 0) 15 (mk 4092 1 1 4 2 2 0)) 2 65534) 1))
    (by decide +kernel)).imp (fun _ h => ⟨h.1, atHome_of h.2⟩)
  all_goals decide +kernel

/-- `tb` with its team changed. -/
def withT (f : Team → Team) : State := tb.modTeam 1 f
/-- `s` with the group's synchronisation state changed by an arrival. -/
def arrived (s : State) : State := s.modY (fun y => { y with arrived := true, woken := true })

/-- A phase with A = 0 that the last of four groups ends, and one with A = 4; a phase that goes on; a BAR let go; A one
above the groups; A other than the phase's. CBAR likewise. -/
theorem wit_barriers :
    (let s := withT (fun t => { t with bars := [(7, ⟨true, 0, [1, 2, 3]⟩)] })
     Runs s [u (.const 0)] [] s ∧ (s.laneVal (.const 0) 0).toNat = 0 ∧ s.g.y.arrived = false ∧ s.g.y.woken = false ∧
     0 ≤ s.l.groups ∧ (s.t.bar 7).count = 0 ∧ s.released .team = true ∧
     ∀ i ∈ s.liveIdx (s.cur / 64), i ∈ (s.t.bar 7).arrived ++ [s.cur % 64]) ∧
    (let s := withT (fun t => { t with bars := [(0, ⟨true, 4, [1, 2, 3]⟩)] })
     Runs s [u (.const 4)] [] s ∧ (s.laneVal (.const 4) 0).toNat = 4 ∧ 4 ≤ s.l.groups ∧ (s.t.bar 0).count = 4 ∧
     4 ≤ ((s.t.bar 0).arrived ++ [s.cur % 64]).length) ∧
    (Runs tb [u (.const 2)] [] tb ∧ (tb.laneVal (.const 2) 0).toNat = 2 ∧ (tb.t.bar 0).opened = false ∧
      ¬ 2 ≤ ((tb.t.bar 0).arrived ++ [tb.cur % 64]).length) ∧
    (Runs (arrived tb) [u (.const 0)] [] (arrived tb) ∧ (arrived tb).g.y.arrived = true ∧ (arrived tb).g.y.woken = true) ∧
    (Runs tb [u (.const 5)] [] tb ∧ Enters tb ∧ tb.l.groups < (tb.laneVal (.const 5) 0).toNat) ∧
    (let s := withT (fun t => { t with bars := [(7, ⟨true, 0, [1]⟩)] })
     Runs s [u (.const 4)] [] s ∧ Enters s ∧ (s.t.bar 7).opened = true ∧ (s.t.bar 7).count ≠ 4) ∧
    (let s := withT (fun t => { t with cbar := [1, 2, 3] })
     s.g.y.stepArmed = false ∧ s.g.y.arrived = false ∧ s.g.y.woken = false ∧ s.released .cluster = true ∧ s.t.st = .resident ∧
     ∀ k ∈ s.clusterTeams 1, ∀ i ∈ s.liveIdx k, i ∈ (s.team k).cbar ++ (if k = 1 then [0] else [])) ∧
    ¬ (∀ k ∈ tb.clusterTeams 1, ∀ i ∈ tb.liveIdx k, i ∈ (tb.team k).cbar ++ (if k = 1 then [0] else [])) := by
  refine ⟨⟨runs_of ?_, ?_⟩, ⟨runs_of ?_, ?_⟩, ⟨runs_of ?_, ?_⟩, ⟨runs_of ?_, ?_⟩, ⟨runs_of ?_, ⟨?_, ?_⟩, ?_⟩,
    ⟨runs_of ?_, ⟨?_, ?_⟩, ?_⟩, ?_, ?_⟩ <;> decide +kernel

/-- A word of HBM through B3, of the side band, and of tile memory; a dropped access. -/
def watch (sp base bchk : Nat) : State := setB tb 3 (mk base 1 1 4 2 sp bchk)

theorem wit_objectsAndMonitors :
    (Runs tb [u (.const 5)] [] tb ∧ tb.released .team = true) ∧
    (let s := withT (fun t => { t with abar := [(7, 5)] })
     (s.t.obj 7).toInt ≤ (5 : W32).toInt ∧ (4 : W32).toInt < (s.t.obj 7).toInt ∧ s.g.y.woken = false) ∧
    (arrived tb).g.y.woken = true ∧
    (let s := tb.setGrp 65 { grp0 with y := { grp0.y with monitor := some ⟨8, 7, 0, .eq, 5, 0⟩ } }
     65 ∈ s.teamKeys (s.cur / 64) ∧ (s.grp 65).y.monitor = some ⟨8, 7, 0, .eq, 5, 0⟩ ∧ (5 : W32).toInt ≤ (5 : W32).toInt) ∧
    runAll ([watch 0 4092 0, watch 0 0x40000000 0, watch 3 0x20000 0].map (fun s => (s, [u (.g 1), u (.const 0)], []))) = true ∧
    (watch 0 4092 0).watched 3 0 = (.at 0 0 4092, watch 0 4092 0) ∧
    (watch 0 0x40000000 0).watched 3 0 = (.at 1 0 0, watch 0 0x40000000 0) ∧
    (∃ y, (watch 3 0x20000 0).watched 3 0 = (.at 3 0 0x20000, y)) ∧
    (setG (watch 0 4092 2) 1 1).watched 3 ((setG (watch 0 4092 2) 1 1).laneVal (.g 1) 0) = (.drop, setG (watch 0 4092 2) 1 1) ∧
    (wcond .eq 0 0 = true ∧ wcond .ne 0 0 = false ∧ wcond .ltu 0 0 = false) ∧
    (let s := setB (spad 0) 3 (mk 4092 1 1 4 2 2 0)
     Runs s [u (.g 1), u (.const 0)] [] s ∧ ∃ y, s.watched 3 0 = (.at 2 0 4092, y)) ∧
    (tb.modY (fun y => { y with monitor := some ⟨3, 0x20000, 0, .geu, 1, 0⟩ })).g.y.monitor =
      some ⟨3, 0x20000, 0, .geu, 1, 0⟩ ∧
    ((∀ op, tget DirSt.i ((spad 0).die 0).dir 0 ≠ .u op) ∧
      (∃ w z, HomeWord (spad 0) 2 0 4092 0 w z) ∧ (∃ w z, HomeWord tb 0 0 4092 0 w z) ∧ (∃ w z, HomeWord tb 1 0 0 0 w z) ∧
      ∃ w z, HomeWord tb 3 0 0x20000 0 w z) := by
  refine ⟨⟨runs_of ?_, ?_⟩, ?_, ?_, ?_,
    ?_, ?_, ?_, ⟨_, pair_of ?_⟩, ?_,
    ?_, ⟨runs_of ?_, _, pair_of ?_⟩, ?_, (fun op h => nomatch h), ⟨_, _, .inr (.inr (.inl ⟨rfl, rfl, rfl⟩))⟩,
    ⟨_, _, .inl ⟨rfl, rfl, rfl⟩⟩, ⟨_, _, .inr (.inl ⟨rfl, rfl, rfl⟩)⟩, _, _, .inr (.inr (.inr ⟨rfl, rfl, rfl⟩))⟩ <;> decide +kernel

/-- An outstanding path-3 failure. -/
def failed3 : State := tb.modY (fun y => { y with fab3 := some ⟨15, 0x20000, 0⟩ })
/-- An outstanding path-7 failure. -/
def failed7 : State := tb.modY (fun y => { y with fab7 := some ⟨1, 0x20000, 0⟩ })

theorem wit_counterWaits :
    (let s := setPath tb 6 2
     Runs s [u (.const 2)] [] s ∧ s.g.y.fabErr [6] = none ∧ s.g.y.path 6 ≤ (s.laneVal (.const 2) 0).toNat ∧
     (s.laneVal (.const 1) 0).toNat < s.g.y.path 6 ∧ Runs s [u (.const 1)] [] s) ∧
    (tb.g.y.stepArmed = false ∧ tb.g.y.fabErr (fencePaths .device) = none ∧ (∀ p ∈ fencePaths .device, tb.g.y.path p = 0) ∧
      ∃ p ∈ fencePaths .device, (setPath tb 7 1).g.y.path p ≠ 0) ∧
    (tb.ready [u (.const 0)] [] = .ok tb ∧ failed3.ready [u (.const 0)] [] = .ok failed3 ∧ failed7.ready [] [] = .ok failed7 ∧
      Enters failed3 ∧ Enters failed7) ∧
    failed3.g.y.fabErr [3] = some (false, ⟨15, 0x20000, 0⟩) ∧
    failed7.g.y.fabErr (fencePaths .system) = some (true, ⟨1, 0x20000, 0⟩) := by
  refine ⟨⟨runs_of ?_, ?_, ?_, ?_, runs_of ?_⟩,
    ⟨?_, ?_, ?_, 7, ?_, ?_⟩,
    ⟨ok_of ?_, ok_of ?_, ok_of ?_, ⟨?_, ?_⟩,
      ?_, ?_⟩, ?_, ?_⟩ <;> decide +kernel

theorem wit_nopExitYield :
    (tb.g.y.stepArmed = false ∧ tb.g.s0.stage = [] ∧ tb.g.s1.stage = [] ∧ tb.g.y.sends = 0) ∧
    (let s := tb.modY (fun y => { y with stepArmed := true }); s.g.y.stepArmed = true ∧ Enters s) ∧
    (tb.modY (fun y => { y with sends := 1 })).g.y.sends ≠ 0 ∧
    (let s := tb.modQuad 0 0 (fun q => { q with fifo := [68, 72] })
     let q := (s.core s.cn).quad (s.cur % 64 % 4)
     q.posOf s.cur = some 0 ∧ (s.setGrp 72 grp0).isReady 72 = true ∧
     (if (s.setGrp 72 grp0).coreInvar s.cn then q.fifo.head? else q.fifo.find? (s.setGrp 72 grp0).isReady) = some 72) := by
  unfold Enters
  decide +kernel

/-- G8 to G11: ASID 1, address 0x20000, size `n` pages. -/
def tlbiBlock (s : State) (n : Nat) : State := setG (setG (setG s 8 1) 9 2) 11 n

theorem wit_shootdown :
    runAll [(tlbiBlock tp 1, blockSels 8 4, []), (tlbiBlock tp 0, blockSels 8 4, [])] = true ∧
    ((tlbiBlock tp 1).priv = true ∧ (tlbiBlock tp 1).g.y.tlbi = none) ∧
    ((((tlbiBlock tp 1).cmds 8 4).getD 0 0).toNat / 2 ^ 13 % 2 ^ 18 = 0 ∧ (((tlbiBlock tp 1).cmds 8 4).getD 2 0).toNat / 2 ^ 9 = 0) ∧
    (let s := (tlbiBlock tp 1).modY (fun y => { y with tlbi := some true }); Runs s (blockSels 8 4) [] s ∧ s.g.y.tlbi = some true) ∧
    (let s := setG (tlbiBlock tp 1) 8 0x2000
     Runs s (blockSels 8 4) [] s ∧ Enters s ∧ (((s).cmds 8 4).getD 0 0).toNat / 2 ^ 13 % 2 ^ 18 ≠ 0) ∧
    (Enters tb ∧ tb.priv = false) ∧
    (let s := tp.modY (fun y => { y with tlbi := some false })
     (s.grp 64).y.tlbi = some false ∧ ∀ x ∈ s.link.fab.xfers, x.dst < 0x8000) := by
  refine ⟨?_, ?_, ?_, ⟨runs_of ?_, ?_⟩,
    ⟨runs_of ?_, ⟨?_, ?_⟩, ?_⟩,
    ⟨⟨?_, ?_⟩, ?_⟩, ?_⟩ <;> decide +kernel

/-- A pending table of generation 1, a posted receive, and both. -/
def pend1 : State := tp.modMem (fun m => { m with pend := some ⟨1, [0]⟩ })
/-- A posted receive. -/
def recv0 : Recv :=
  { handle := 5, gk := 64, home := 0, comm := 1, src := none, tag := 7, mask := 0, n := 4, rcd := mk 0x20000 4 1 4 2 3 0, cb := none,
    noq := false, priv := false, gen := 0, msg := none, eager := false, got := 0, pulls := [], next := 0, cls := none, code := 0,
    recorded := false }

theorem wit_generations :
    (Runs pend1 [] [.g (uniReg pend1 63)] pend1 ∧ pend1.priv = true ∧ pend1.link.mem.pend = some ⟨1, [0]⟩ ∧
      (1 : BitVec 16) ≠ pend1.link.mem.gen ∧ pend1.swapBusy = false ∧ pend1.g.y.fence = none) ∧
    (∀ old ∈ [false, true], let s := (pend1.modY (fun y => { y with fence := some (63, 1) })).modCtx 1 (fun c =>
        { c with taken := if old then [{ recv0 with gen := 9, cls := some 7 }] else [] })
     runsB s [] [.g (uniReg s 63)] s = true ∧ s.g.y.fence = some (63, 1) ∧ s.oldReceives = old) ∧
    (Runs tp [] [.g (uniReg tp 63)] tp ∧ tp.link.mem.pend = none ∧ tp.swapBusy = false) ∧
    (let s := tp.modMem (fun m => { m with pend := some ⟨0, [0]⟩ })
     Runs s [] [.g (uniReg s 63)] s ∧ ∃ p, s.link.mem.pend = some p ∧ p.gen = s.link.mem.gen) ∧
    (let s := pend1.modCtx 1 (fun c => { c with posted := [recv0] })
     Runs s [] [.g (uniReg s 63)] s ∧ s.link.mem.pend = some ⟨1, [0]⟩ ∧ s.swapBusy = true) ∧
    (Enters tb ∧ tb.priv = false) := by
  refine ⟨⟨runs_of ?_, ?_⟩, ?_, ⟨runs_of ?_, ?_⟩,
    ⟨runs_of ?_, ⟨0, [0]⟩, ?_⟩, ⟨runs_of ?_, ?_⟩,
    ⟨?_, ?_⟩, ?_⟩ <;> decide +kernel

theorem notMigrating_of {s : State}
    (h : s.stks.all (fun p => p.2.mig.all (fun q => decide (q.2.st ≠ .moving ∧ q.2.st ≠ .done))) = true) : NotMigrating s := by
  intro p hp q hq
  exact of_decide_eq_true (List.all_eq_true.mp (List.all_eq_true.mp h p hp) q hq)

/-- `tp` with the tile released and an image transfer asked for. -/
def imaging (v : Nat) : State :=
  (tp.modSys (fun y => { y with accxfer := BitVec.ofNat 32 v, accimg := 0x100000 })).modY (fun y => { y with accx := some false })

theorem wit_accumulatorImages :
    (Runs tp [u (.const 0)] [] tp ∧ tp.priv = true ∧ (tp.laneVal (.const 0) 0).toNat = 0 ∧ tp.t.accMap[0]? = some 0 ∧
      tp.tileBusy tp.cn 0 = false) ∧
    (Enters tb ∧ tb.priv = false) ∧
    (let s := setG tp 5 0x120
     (Runs s [u (.const 8), ⟨.g 5, false⟩] [] s ∧ Runs s [u (.const 3), ⟨.g 5, false⟩] [] s) ∧ s.laneVal (.g 5) 0 = 0x120 ∧
     s.g.y.accx = none ∧ (s.laneVal (.const 8) 0).toNat < 16 ∧ (s.laneVal (.const 8) 0).getLsbD 3 = true ∧
     (s.laneVal (.const 8) 0).toNat % 4 < s.t.accMap.length ∧ s.owns (s.cur / 64) (s.t.phys 0) = true ∧
     s.tileBusy s.cn (s.t.phys 0) = false ∧ (s.laneVal (.const 3) 0).getLsbD 3 = false ∧ s.tileBusy s.cn 3 = false) ∧
    (NotMigrating (imaging 0) ∧ ((imaging 0).grp 64).y.accx = some false ∧ ((imaging 0).grp 64).sys.accxfer.getLsbD 3 = false) ∧
    (NotMigrating (imaging 8) ∧ ((imaging 8).grp 64).y.accx = some false ∧ ((imaging 8).grp 64).sys.accxfer.getLsbD 3 = true) := by
  refine ⟨⟨runs_of ?_, ?_⟩, ⟨⟨?_, ?_⟩, ?_⟩,
    ⟨⟨runs_of ?_, runs_of ?_⟩, ?_⟩,
    ⟨notMigrating_of ?_, ?_⟩, notMigrating_of ?_, ?_⟩ <;> decide +kernel

/-- The last 32 visible bytes; one word beyond; an odd offset. Records in spaces 2, 3, 4 and 6, and one of no leaf. -/
theorem wit_recordsAndTranslation :
    (let s := setG tb 1 4064
     Runs s [u (.g 1), u (.const 0)] [] s ∧ (s.laneVal (.g 1) 0 + s.laneVal (.const 0) 0).toNat = 4064 ∧
     4064 + 32 ≤ s.l.visible ∧ s.inStaging (.data s.cn (s.t.base * 4096 + 4064)) 32 = false) ∧
    (let s := setG tb 1 4096
     Runs s [u (.g 1)] [] s ∧ (s.laneVal (.g 1) 0 + 0).toNat % 32 = 0 ∧ s.l.visible < (s.laneVal (.g 1) 0 + 0).toNat + 32 ∧ Enters s) ∧
    (let s := setG tb 1 31
     Runs s [u (.g 1)] [] s ∧ (s.laneVal (.g 1) 0 + 0).toNat % 32 ≠ 0 ∧ Enters s) ∧
    Runs tb [] [] tb ∧
    (let s := setB tb 15 (mk 0 1 1 4 2 2 0)
     Runs s [] [.g (uniReg s 63)] s ∧ rSpace (s.g.r.getB 15) = 2) ∧
    (let s := setB tb 15 (mk 0x2FFFF 1 1 4 2 3 0)
     rSpace (s.g.r.getB 15) = 3 ∧ Runs s [] [.g (uniReg s 63)] s ∧
     ∃ a, (s.xlate (.core s.cn) s.x.asid (rBase (s.g.r.getB 15)) 0 s.priv .read).1 = .ok a) ∧
    (let s := setB tb 15 (mk 0x30000 1 1 4 2 4 0)
     rSpace (s.g.r.getB 15) = 4 ∧ Runs s [] [.g (uniReg s 63)] s ∧
     ∃ a, (s.xlate (.core s.cn) s.x.asid (rBase (s.g.r.getB 15)) 1 s.priv .read).1 = .ok a) ∧
    (let s := setB tb 15 (mk 0x30000 1 1 4 2 6 0)
     rSpace (s.g.r.getB 15) = 6 ∧ Runs s [] [.g (uniReg s 63)] s ∧
     (s.xlate (.core s.cn) s.x.asid (rBase (s.g.r.getB 15)) 2 s.priv .read).1 = .error .space ∧
     (s.xlate (.core s.cn) s.x.asid 0x50000 2 s.priv .read).1 = .error .miss ∧
     (s.xlate (.core s.cn) s.x.asid 0x40000 0 s.priv .read).1 = .error (.perm true)) := by
  refine ⟨⟨runs_of ?_, ?_⟩, ⟨runs_of ?_, ?_, ?_,
    ?_, ?_⟩, ⟨runs_of ?_, ?_, ?_,
    ?_⟩, runs_of ?_, ⟨runs_of ?_, ?_⟩,
    ⟨?_, runs_of ?_, ⟨0, 0x2FFFF, 0, 0x20007⟩, ok_of ?_⟩,
    ⟨?_, runs_of ?_, ⟨1, 0x30000, 0, 0x30107⟩, ok_of ?_⟩,
    ?_, runs_of ?_, err_of ?_, err_of ?_,
    err_of ?_⟩ <;> decide +kernel

/-- TAG and STAMP of segment 0 written; a FILLING segment; a second segment that passes the visible size. -/
theorem wit_segmentTags :
    (let s := setG tb 1 0xF000
     Runs s [u (.g 9), u (.g 1)] [.g (uniReg s 63)] s ∧ s.g.y.ttag = none ∧ s.ttagErr (s.cur / 64) (s.laneVal (.g 9) 0) 0xF000 = none ∧
     s.laneVal (.g 1) 0 = 0xF000 ∧ s.released .team = true ∧
     ∀ i < 1, ((s.core s.cn).meta1 (s.t.base + 0 / 4096 + i)).toNat % 4 ≠ 1) ∧
    (let s := (setG tb 1 0xF000).modCore 0 (fun c => { c with mdw := [(0, 1)] })
     Runs s [u (.g 9), u (.g 1)] [.g (uniReg s 63)] s ∧ s.ttagErr (s.cur / 64) (s.laneVal (.g 9) 0) 0xF000 = none ∧
     ((s.core s.cn).meta1 (s.t.base + 0)).toNat % 4 = 1) ∧
    (let s := setG tb 1 0x1F000
     Runs s [u (.g 9), u (.g 1)] [.g (uniReg s 63)] s ∧ Enters s ∧
     s.l.visible < 0 + 4096 * ((s.laneVal (.g 1) 0).toNat / 2 ^ 16 % 2 ^ 9 + 1)) ∧
    (let s := setG tb 9 4095
     Runs s [u (.g 9), u (.g 1)] [.g (uniReg s 63)] s ∧ Enters s ∧ (s.laneVal (.g 9) 0).toNat % 4096 ≠ 0) := by
  refine ⟨⟨runs_of ?_, ?_⟩, ⟨runs_of ?_, ?_⟩, ⟨runs_of ?_, ⟨?_, ?_⟩, ?_⟩, runs_of ?_, ⟨?_, ?_⟩, ?_⟩ <;> decide +kernel

/-- A FILL of 32 words that ends with the visible tile memory. -/
def fill : CopyCmd :=
  { id := 7, gk := some 64, node := none, ctx := 1, priv := false, pstw := false, follow := false,
    w := [0x20001, 0xAB, 0, 0, 0, 32, 1, 0], s := 0, d := mk 3968 32 1 4 2 0 0, t := 0, seed := 0, gd := 63, st := .active, pos := 0, rd := 0, wr := 0,
    bytes := 0, sat := 0, amax := 0, cls := 0, detail := 0, bound := [], filling := [], reading := [], gather := none, home := 0,
    fword := none }

/-- `tb` with commands on core 0's engine. -/
def copying (l : List CopyCmd) : State := tb.modCore 0 (fun c => { c with copies := l })

/-- `tb` with G8 to G15 holding a FILL, and 31 or 32 commands on the engine; a side in space 5 with the link die full. -/
def issuing (s : State) (d : BitVec 256) : State := setB (setPath (setG (setG (setG (setG s 8 0x20F01) 9 0xAB) 13 32) 14 1) 4 65534) 15 d

theorem wit_copyIssue :
    (let s := issuing (copying (List.replicate 31 fill)) (mk 3968 32 1 4 2 0 0)
     Runs s (blockSels 8 8) [.g (uniReg s 63)] s ∧ (s.cmd 8 0).toNat % 16 = 1 ∧ rSpace (s.g.r.getB ((s.cmd 8 0).toNat / 2 ^ 8 % 16)) = 0 ∧
     (s.cmdsOf (.core s.cn)).length < 32 ∧ s.g.y.path 4 < 65535 ∧ s.nextCopy = 0 ∧ s.t.saveCopies.map (fun p => p.1.gk) = []) ∧
    (let s := issuing (copying (List.replicate 32 fill)) (mk 3968 32 1 4 2 0 0)
     Runs s (blockSels 8 8) [.g (uniReg s 63)] s ∧ 32 ≤ (s.cmdsOf (.core s.cn)).length) ∧
    (let s := issuing ({ tb with link := { tb.link with copies := List.replicate 256 fill } } : State) (mk 0 32 1 4 2 5 0)
     Runs s (blockSels 8 4) [.g (uniReg s 63)] s ∧ rSpace (s.g.r.getB ((s.cmd 8 0).toNat / 2 ^ 8 % 16)) = 5 ∧
     256 ≤ (s.cmdsOf .link).length) := by
  refine ⟨⟨runs_of ?_, ?_⟩, ⟨runs_of ?_, ?_⟩,
    runs_of ?_, ?_⟩ <;> decide +kernel

/-- A held BCOPYM whose follow-on word is TMMA A0, G8, G12. -/
def followed : CopyCmd := { fill with st := .held, follow := true, pos := 1, fword := some 0xE0022118 }

theorem wit_copyEngine :
    ((copying [fill]).cmdOf (.core 0) 7 = some fill ∧ (copying [fill]).cmdActive (.core 0) fill = true ∧
      (fill.word 0 % 16 = 1 ∧ fill.word 0 / 2 ^ 16 % 4 = 2 ∧ fill.word 0 / 2 ^ 20 % 8 = 0 ∧ fill.word 4 = 0 ∧ fill.word 5 = 32 ∧
       fill.word 6 % 2 ^ 20 = 1) ∧
      (rSpace fill.d = 0 ∧ rFmt fill.d = 2 ∧ rSwz fill.d = 0 ∧ rRo fill.d = false ∧ rStr0 fill.d = 4 ∧ 0 < rExt1 fill.d ∧
       fill.word 3 + fill.word 5 ≤ rExt0 fill.d) ∧
      (rBase fill.d).toNat + 4 * (fill.word 3 + fill.word 5) ≤ ((copying [fill]).launch 1).visible) ∧
    (let c := { fill with w := [1, 0xAB, 0, 0, 0, 32, 1, 0] }
     let s := (copying [c]).modCore 0 (fun x => { x with mdw := [(0, 2)] })
     s.cmdOf (.core 0) 7 = some c ∧ c.st = .active ∧ c.pos < c.total ∧ s.cReady (copyAg (.core 0) c) c c.pos = false) ∧
    (let c := { fill with st := .done, pos := 1, w := [0x1020001, 0xAB, 0, 0, 0, 32, 1, 0] }
     let s := (copying [c]).modY (fun y => { y with q3 := List.replicate 15 0 })
     c.qen = true ∧ (s.grp 64).y.q3.length < 16 ∧ s.cmdOf (.core 0) 7 = some c ∧ c.kind ≠ 2 ∧
     16 ≤ (((copying [c]).modY (fun y => { y with q3 := List.replicate 16 0 })).grp 64).y.q3.length) ∧
    (let c := { fill with st := .held, pos := 1 }
     (copying [c]).q3Held (.core ((copying [c]).coreNoG 64)) 64 = some c ∧
     (copying [c]).engines.map (fun e => ((copying [c]).q3Held e 64).isSome) = [true, false] ∧
     (copying [c]).teams.map (fun p => p.2.saveCopies.length) = [0]) ∧
    ((copying [followed]).cmdOf (.core 0) 7 = some followed ∧ followed.fword = some 0xE0022118 ∧
      (copying [followed]).queueFull 1 = false) := by
  decide +kernel

/-- `tb` with a held command whose follow-on word is a TMMA; the control word in G12 is BF16 by BF16. -/
def following : State := setG (copying [followed]) 12 0x0A0A

theorem wit_copyEngine_follow :
    decodeWords 0xE0022118 0 = .ok (.tmma 0 8 (.sel (u (.g 12)))) ∧ ∃ op v, following.followOp 64 0xE0022118 = some (op, v) := by
  refine ⟨ok_of (by decide +kernel), ?_⟩
  have h : (following.followOp 64 0xE0022118).isSome = true := by decide +kernel
  obtain ⟨x, hx⟩ := Option.isSome_iff_exists.mp h
  exact ⟨x.1, x.2, hx⟩

/-- A live view with a shadow: VERSION `ver`, SPIN of slot 2 `spin`, LV of slot 2 `ver`. -/
def view (ver spin : Nat) : Nat :=
  0x30000 + 2 ^ 64 * 0x30000 + 2 ^ 192 * ver + 2 ^ 224 * 1 + 2 ^ 248 * 1 + 2 ^ 252 * 1 + 2 ^ 288 * spin + 2 ^ 448 * ver
/-- A snapshot of slot 2 of handle 1. -/
def snap : Nat := 2 ^ 192 * 5 + 2 ^ 224 + 2 ^ 248 * 2 + 2 ^ 256 * 1 + 2 ^ 297 * 2
/-- `tb` with a view table at 0x20000 that holds the entries of handles 1 and 65535. -/
def viewing (e q : Nat) : State :=
  { withCtx (fun c => { c with vtbase := 0x20000 }) with hbm := mwrite (mwrite [] 0x20040 (leBytes 64 e)) 0x20080 (leBytes 64 q) }

theorem wit_views :
    (let s := viewing (view 0xFFFFFFFF 0) 0
     Runs s [u (.const 1)] [] s ∧ (s.laneVal (.const 1) 0).toNat = 1 ∧ NotMigrating s ∧ ViewIs s 1 1 (view 0xFFFFFFFF 0) ∧
     vOk (view 0xFFFFFFFF 0) = true ∧ vKind (view 0xFFFFFFFF 0) = 1 ∧ vShd (view 0xFFFFFFFF 0) ≠ 3 ∧ s.released .device = true ∧
     (s.core s.cn).copies ++ s.link.copies = []) ∧
    (Runs tb [u (.const 0)] [] tb ∧ Enters tb ∧ (tb.laneVal (.const 0) 0).toNat = 0 ∧
      (let s := setG tb 1 65536; Runs s [u (.g 1)] [] s ∧ 65536 ≤ (s.laneVal (.g 1) 0).toNat)) ∧
    (let s := viewing (view 5 254) 0
     let e := view 5 254
     NotMigrating s ∧ (s.ctx 1).vtbase.toNat % 64 = 0 ∧ ViewIs s 1 1 e ∧ ViewCached s 1 1 ∧ ViewIs s 1 2 0 ∧ ViewCached s 1 2 ∧
     vOk e = true ∧ vKind e = 1 ∧ vKind 0 = 0 ∧ vSpin e 2 < 255 ∧ vLv e 2 = 5 ∧ (∀ f < 2, vLv e f ≠ 5) ∧ 0 < vSpin e 2 ∧ 2 ≠ vShd e) ∧
    (let s := viewing (view 5 2) snap
     NotMigrating s ∧ ViewIs s 1 1 (view 5 2) ∧ ViewCached s 1 1 ∧ ViewIs s 1 2 snap ∧ ViewCached s 1 2 ∧ vKind snap = 2 ∧
     snap / 2 ^ 256 % 2 ^ 16 = 1 ∧ snap / 2 ^ 297 % 4 = 2 ∧ vKind (view 5 2) = 1 ∧ 1 < vSpin (view 5 2) 2) := by
  have hv : ∀ s cx h e a, (decide (0 < h) && decide ((s.viewEntry cx h).1 = some e) &&
      okB ((s.xlate .link (s.ctx cx).asid ((s.ctx cx).viewAddr h) 0 true .write).1) a) = true → ViewIs s cx h e := by
    intro s cx h e a hh
    simp only [Bool.and_eq_true, decide_eq_true_eq] at hh
    exact ⟨hh.1.1, hh.1.2, a, ok_of hh.2⟩
  have hc : ∀ (s : State) (cx h : Nat),
      decide ((s.xlate .link (s.ctx cx).asid ((s.ctx cx).viewAddr h) 0 true .read).2 = s) = true → ViewCached s cx h :=
    fun s cx h hh => (of_decide_eq_true hh : (s.xlate .link (s.ctx cx).asid ((s.ctx cx).viewAddr h) 0 true .read).2 = s)
  let at1 : XAddr := ⟨0, 0x20040, 0, 0x20007⟩
  let at2 : XAddr := ⟨0, 0x20080, 0, 0x20007⟩
  refine ⟨⟨runs_of ?_, ?_, notMigrating_of ?_, hv _ _ _ _ at1 ?_, ?_⟩, ⟨runs_of ?_, ⟨?_, ?_⟩, ?_, runs_of ?_, ?_⟩,
    ⟨notMigrating_of ?_, ?_, hv _ _ _ _ at1 ?_, hc _ _ _ ?_, hv _ _ _ _ at2 ?_, hc _ _ _ ?_, ?_⟩,
    notMigrating_of ?_, hv _ _ _ _ at1 ?_, hc _ _ _ ?_, hv _ _ _ _ at2 ?_, hc _ _ _ ?_, ?_⟩ <;> decide +kernel

/-- A region of 4,096 bytes of HBM. -/
def region : BitVec 256 := mk 0x20000 4096 1 1 0 3 0
/-- `tb` with its stream S0 as `x`. -/
def taping (x : Stream) : State := tb.modG (fun g => { g with s0 := x })
/-- A stream in RECORD with `n` bytes committed. -/
def recording (n : Nat) : Stream := { Stream.reset with st := .record, region := region, len := n }

theorem wit_tapeRecording :
    (let s := taping (recording (4096 - 272))
     Runs s ((List.range 4).map (fun i => ⟨.v (BitVec.ofNat 7 (124 + i)), false⟩)) [] s ∧
     Records s false 272) ∧
    (1 < tb.l.ntape ∧ (tb.g.stream true).st = .closed ∧ Enters tb) ∧
    (let s := taping (recording (4096 - 12))
     Runs s [u (.g 1)] [] s ∧ Runs s [u (.g 1)] [.g (uniReg s 63)] s ∧ Records s false 12) := by
  unfold Records
  refine ⟨⟨runs_of ?_, ?_⟩, ⟨?_, ?_, ?_, ?_⟩, runs_of ?_, runs_of ?_, ?_⟩ <;> decide +kernel

/-- `tb` with 16 segments per team. -/
def big : State := tb.modLaunch 1 (fun l => { l with rcd := [0x10000, 0, 0, 0x101103, 0x2200, 0x00010002, 1] })
/-- A record of one word, at the end of what the stream holds. -/
def markRec : List Byte := [0x80000000 + 0x10000 + 7, 0, 0x80000000 + 0x10000 + 7].flatMap (fun w => leBytes 4 w)

theorem wit_tapeStreams :
    (let s := setB (setG (setG (setG big 8 0x1000F00) 9 0xE000) 10 4096) 15 region
     Runs s (blockSels 8 3) [] s ∧ (s.g.stream false).st = .closed ∧ 0 < s.l.ntape ∧ s.topenBad (s.cmd 8 0) (s.cmd 8 1) (s.cmd 8 2) = false) ∧
    (let s := taping (recording 12)
     Runs s [] [.g (uniReg s 63)] s ∧ 0 < s.l.ntape ∧ (s.g.stream false).st ≠ .closed ∧ (s.g.stream false).stage = []) ∧
    (let s := taping { recording 12 with stage := [⟨false, 0, markRec, true⟩], full := 1 }
     ((s.grp 64).stream false).stage = ⟨false, 0, markRec, true⟩ :: [] ∧ ((s.grp 64).stream false).full = 1 ∧
     ((s.grp 64).stream false).spoiled = false ∧ (s.teamG 64).st = .resident ∧ s.activeCmds (.core (s.coreNoG 64)) < 4 ∧
     ∃ q, s.eStore (s.tapeAg 64) (regionSide region 1) (regionSpans region 0 (markRec.length / 4)) markRec = (.ok (), q)) := by
  refine ⟨⟨runs_of ?_, ?_⟩, ⟨runs_of ?_, ?_⟩, ?_,
    ?_, ?_, ?_, ?_, _, pair_of (ok_of ?_)⟩ <;> decide +kernel

/-- `tb` replaying with the record of header `h` at the head. -/
def replaying (h : W32) (body : List W32) : State :=
  taping { recording 12 with st := .replay, pos := 12, head := some ⟨0, h, body, true, false⟩ }

theorem wit_tapeReplay :
    (let s := replaying 0x1800FFFF [0]
     0 < s.l.ntape ∧ runsB s [] [.v 124, .v 125, .v 126, .v 127] s = true ∧ (s.g.stream false).q0 = 0 ∧
     hdrNm1 0x1800FFFF + 1 = 4 ∧ hdrKind 0x1800FFFF = .value ∧ hdrTag 0x1800FFFF = s.g.r.exm) ∧
    (let s := replaying 0x18001111 [0]
     runsB s [] [.v 124, .v 125, .v 126, .v 127] s = true ∧ hdrTag 0x18001111 ≠ s.g.r.exm ∧ (s.g.stream false).divp = false ∧
     s.g.sys.hm = false ∧ (s.ctxG s.cur).dbg.getLsbD 0 = false) ∧
    (hdrKind 0x6001FFFF = .index ∧ hdrKind 0x4001FFFF = .decision ∧ hdrTag 0x4001FFFF = (replaying 0x4001FFFF [0]).g.r.exm ∧
      runsB (replaying 0x4001FFFF [0]) [] [.g (uniReg tb 63)] (replaying 0x4001FFFF [0]) = true) ∧
    (hdrKind 0x80010007 = .mark ∧ hdrTag 0x80010007 = (7 : W32).truncate 16 ∧
      runsB (replaying 0x80010007 [0]) [] [.g (uniReg tb 63)] (replaying 0x80010007 [0]) = true) := by
  decide +kernel

/-- A MARK that fills its region's first twelve bytes is fetched. -/
theorem wit_tapeReplay_fetch :
    let s := { taping { recording 12 with st := .replay, pos := 12 } with hbm := mwrite [] 0x20000 markRec }
    (((s.grp 64).stream false).head = none ∧ (s.teamG 64).st = .resident ∧ hdrLen 0x80010007 = 1) ∧
    ∃ q1, s.regionRead (s.tapeAg 64) region (12 - 4) 1 false = (.ok ([0x80010007], false), q1) ∧
    ∃ q2, q1.regionRead (s.tapeAg 64) region (12 - 12) 2 false = (.ok ([0x80010007, 0], false), q2) := by
  refine ⟨?_, _, pair_of (ok_of ?_), _, pair_of (ok_of ?_)⟩ <;> decide +kernel

/-- `tb` with a queue of tile instructions of team 1. -/
def queued (l : List TileCmd) : State := tb.modCore 0 (fun c => { c with queue := l, mdw := [(0, 2)] })
/-- `tb` with teams of three groups. -/
def three : State := tb.modLaunch 1 (fun l => { l with rcd := [0x10000, 0, 0, 0x21102, 0x2204, 0x00010002, 1] })

theorem wit_tileIssue :
    ((∃ len op, tileOps tb (.tzero 0 0) = some (len, [], op) ∧ tb.tileCode tb.cur op = none ∧ tb.foreign (tb.cur / 64) op = none) ∧
      Runs tb [] [] tb ∧ tb.cur % 64 / 4 * 4 + 3 < tb.l.groups ∧ tb.cur % 64 / 4 ∉ tb.t.tileErr) ∧
    (let s := queued (List.replicate 7 ⟨1, 0, .tprom 0, 0, false⟩)
     Runs s [] [] s ∧ s.tileCode s.cur (.tzero 0) = none ∧ s.foreign (s.cur / 64) (.tzero 0) = none ∧ (s.core s.cn).queue.length < 8 ∧ s.t.savedTiles = []) ∧
    (8 ≤ ((queued (List.replicate 8 ⟨1, 0, .tprom 0, 0, false⟩)).core 0).queue.length ∧
      Runs (queued (List.replicate 8 ⟨1, 0, .tprom 0, 0, false⟩)) [] [] (queued (List.replicate 8 ⟨1, 0, .tprom 0, 0, false⟩))) ∧
    (three.l.groups ≤ three.cur % 64 / 4 * 4 + 3 ∧ Enters three ∧ Runs three [] [] three) ∧
    (let s := setG (queued [⟨1, 0, .tprom 0, 0, false⟩]) 5 511
     Runs s [u (.g 5)] [.g (uniReg s 63)] s ∧ s.t.tileErr = [] ∧ (s.laneVal (.g 5) 0).toNat = 511 ∧ 0 < s.tileOpen (s.cur / 64)) ∧
    tb.tileOpen (tb.cur / 64) = 0 := by
  refine ⟨⟨⟨4, .tzero 0, rfl, ?_, ?_⟩, runs_of ?_, ?_⟩,
    ⟨runs_of ?_, ?_⟩, ⟨?_, runs_of ?_⟩,
    ⟨?_, ⟨?_, ?_⟩, runs_of ?_⟩, ⟨runs_of ?_, ?_⟩,
    ?_⟩ <;> decide +kernel

/-- A tile instruction at the head of the queue whose B registers are still empty. -/
def unwritten (c : TileCmd) : State := (queued [c]).modG (fun g => { g with r := g.r.markV 0 true })

/-- BF16 by BF16, the B operand from registers, P = 1. -/
theorem wit_tileRun :
    (∀ c ∈ [(⟨1, 0, .tzero 0, 0, false⟩ : TileCmd), ⟨1, 0, .tprom 0, 0, false⟩, ⟨1, 0, .tmma 0 0x0A0A 0 0, 0, false⟩],
      ((queued [c]).core 0).queue[0]? = some c ∧ (queued [c]).canStart 0 0 = true ∧ (queued [c]).tileBroken c = false ∧
      (queued [c]).bregsReady c = true ∧ ((queued [c]).core 0).teams = [1] ∧ ((queued [c]).team 1).savedTiles = [] ∧
      ((queued [c]).team 1).core = 0) ∧
    (let c : TileCmd := ⟨1, 0, .tmma 0 0x0A0A 0 0, 0, false⟩
     (unwritten c).bregsReady c = false ∧ (unwritten c).canStart 0 0 = true) ∧
    (ctlP 0x0A0A ≤ ((queued []).core 0 |>.tile1 0).c + 1 ∧ ((queued []).core 0 |>.tile1 0).c + 1 < ctlP 0x0800A0A) ∧
    (let s := (queued []).modCore 0 (fun c => { c with running := [⟨1, 0, .tmma 0 0x0A0A 0 0, 0, false⟩] })
     (s.core 0).running[0]? = some ⟨1, 0, .tmma 0 0x0A0A 0 0, 0, false⟩ ∧
     ∀ u ∈ [s, s.modTeam 1 (fun t => { t with maxr := [⟨0, 63, 0, false, 1⟩, ⟨0, 62, 0, false, 0⟩] })], (u.team 1).core = 0) := by
  decide +kernel

/-- `tb` in a pod of two modules, this one rank 0, its context's job 9. -/
def net : State := (withCtx (fun c => { c with fjob := 9 })).modMem (fun m => { m with cur := some ⟨0, [0, 1]⟩ })
/-- A record in the HBM of rank 1. -/
def far : BitVec 256 := mk (2 ^ 48 + 0x1000) 16 1 4 2 5 0
/-- A record of one word at the end of the data page. -/
def near : BitVec 256 := mk 0x2FFFC 1 1 4 2 3 0

theorem wit_remoteSends :
    (let s := { setB net 3 far with link := { net.link with fab := { net.link.fab with
        next := 1, xfers := List.replicate 240 ⟨0, .put, 64, 0, .none, 9, 1, 0, 0, 0, .ack, none, 0, false⟩ } } }
     let i := Instr.put 127 tidx 0 3 none .none
     ∃ f idx val, fabricForm s i = some ([tidx, u (.v 127)], [], f, idx, val, none) ∧ Runs s [tidx, u (.v 127)] [] s ∧
       ∃ ths, fcheck f.k far idx val none s.sendSet = .ok ths ∧ (decide (rSpace far = 5) &&
         decide (s.outstanding s.cur + (ths.filter (fun th => !th.elems.isEmpty)).length ≤ 256) &&
         ths.all (fun th => decide (s.peerSt ((th.elems.headD ⟨0, 0, 0⟩).addr.toNat / 2 ^ 48) = .go 1)) &&
         s.link.fab.xfers.all (fun w => decide (w.id < s.link.fab.next) && decide (w.grp < s.link.fab.next))) = true) ∧
    (let s := setX (setB net 3 near) 1
     let i := Instr.ratom .add (some 127) tidx (u (.v 5)) Sel.zero 3 .none
     ∃ f idx val, fabricForm s i = some ([tidx, u (.v 5)], [.v 127], f, idx, val, none) ∧ Runs s [tidx, u (.v 5)] [.v 127] s ∧
       NotMigrating s ∧ rSpace near = 3 ∧ fcheck f.k near idx val none s.sendSet = .ok [⟨0, [⟨0x2FFFC, 4, 0⟩], none⟩] ∧
       ∃ a v, s.btXlate f.b 0x2FFFC 0 .write = (.ok a, v) ∧ (!v.pbad 0 a.pa 4) = true) ∧
    (let s := setB net 3 (mk 0 16 1 4 2 2 0)
     let i := Instr.racc 127 tidx 0 3 .none
     ∃ f idx val, fabricForm s i = some ([tidx, u (.v 127)], [], f, idx, val, none) ∧ Enters s ∧
       ∃ tr, fcheck f.k (mk 0 16 1 4 2 2 0) idx val none s.sendSet = .error tr ∧ tr.cause = 5) := by
  refine ⟨⟨_, _, _, rfl, runs_of ?_, okP_of ?_⟩, ⟨_, _, _, rfl, runs_of ?_,
    notMigrating_of ?_, ?_, ok_of ?_,
    pairP_of ?_⟩, ⟨_, _, _, rfl, ⟨?_, ?_⟩,
    ⟨5, 0, 0, 0xFFFF⟩, err_of ?_, rfl⟩⟩ <;> decide +kernel

/-- A packet header of this generation and of job 9. -/
def hdr : Hdr := ⟨0, 9, 1, 0xFFFFFFFF, true⟩

theorem served_net : Served net hdr 1 := by
  unfold Served
  decide +kernel

theorem wit_servedPackets :
    Served net hdr 1 ∧
    (let p : Packet := ⟨0, 9, 1, 0, false, 0xFFFFFFFF, [0], [.ack]⟩
     (net.modFab (fun f => { f with served := [(1, 0xFFFFFFFF, p)] })).link.fab.servedFor hdr = [p]) ∧
    NotMigrating net ∧
    (∃ a v, net.xlate .link (net.ctx 1).asid 0x2FFFC 0 false .write = (.ok a, v) ∧ a.pa % 4 = 0 ∧ v.pbad 0 a.pa 4 = false) ∧
    (∃ v, net.xlate .link (net.ctx 1).asid 0x50000 0 false .write = (.error .miss, v)) ∧
    ((1 : BitVec 16) ≠ net.link.mem.gen ∧ net.ctxOfJob 8 = none ∧ 0xFFFF < 2 ^ 16) := by
  refine ⟨served_net, ?_, notMigrating_of ?_,
    ⟨⟨0, 0x2FFFC, 0, 0x20007⟩, _, pair_of (ok_of ?_), ?_, ?_⟩,
    ⟨_, pair_of (err_of ?_)⟩, ?_⟩ <;> decide +kernel

/-- `net` with one transfer under way. -/
def sending (x : Xfer) : State := net.modFab (fun f => { f with xfers := [x], next := 1 })

theorem wit_transferEnds :
    (let x : Xfer := ⟨0, .put, 64, 0, .none, 9, 1, 0, 0, 0x1000100001000, .put ⟨[], none⟩, none, 0, false⟩
     (sending x).link.fab.xfer 0 = some x ∧ x.kind = .put ∧ x.backoff = false ∧ x.dst ≠ 0x10001 ∧ x.ret = none) ∧
    (let x : Xfer := ⟨0, .ratom, 64, 0, .none, 9, 1, 0, 0, 0x1000100001000, .atom ⟨0x1000, .add, 1, 0⟩, some (127, 15, none), 0, false⟩
     (sending x).link.fab.xfer 0 = some x ∧ x.kind = .ratom ∧ x.backoff = false ∧ x.dst ≠ 0x10001 ∧
     x.item = .atom ⟨0x1000, .add, 1, 0⟩ ∧ x.ret = some (127, 15, none)) ∧
    (let x : Xfer := ⟨0, .racc, 64, 0, .none, 9, 1, 0, 0, 0x1000100001000, .racc [], none, 3, true⟩
     (sending x).link.fab.xfer 0 = some x ∧ x.kind = .racc ∧ x.backoff = true ∧ x.dst < 0x8000 ∧
     (sending x).link.mem.rank.isSome = true ∧ (sending x).link.mem.fenced = false ∧ (sending x).holding = false ∧
     ((sending x).grp x.gk).live = true ∧ (sending x).link.fab.choose x.dst = some 0 ∧ (sending x).link.fab.xfers = [x]) := by
  decide +kernel

/-- A packet of this module, and `net` with it in the buffer of port 17. -/
def pk1 : Packet := ⟨0, 9, 1, 0, false, 5, [0], [.ack]⟩
/-- Its port after some failures. -/
def laden (fails : Nat) : State := net.modFab (fun f => { f with ports := [(17, ⟨false, [⟨pk1, 3, 0⟩], 4, fails⟩)] })

theorem wit_linkEvents :
    (∀ n ∈ [14, 15], ((laden n).link.fab.port 17).dead = false ∧ ((laden n).link.fab.port 17).buf ≠ [] ∧
      ((laden n).link.fab.port 17).fails = n) ∧
    ((laden 0).link.colls = [] ∧ ((laden 0).link.fab.port 0).dead = false ∧ ((laden 0).link.fab.port 0).buf = [] ∧
      ((laden 0).link.fab.port 17).buf = [⟨pk1, 3, 0⟩] ∧
      ((laden 0).link.fab.modPort 17 (fun _ => ⟨true, [], 4, 0⟩)).choose pk1.dst = some 0) ∧
    (let s := net.modFab (fun f => { f with rates := [(1, 7)] })
     (∀ q ∈ s.link.fab.rates, q.1 ≠ 2) ∧ s.link.fab.rates = [] ++ (1, 7) :: [] ∧ ∀ q ∈ ([] : Tbl Nat) ++ [], q.1 ≠ 1) := by
  decide +kernel

/-- `s` with the words of a block from G8 up. -/
def block (s : State) (ws : List Nat) : State := (ws.zipIdx).foldl (fun st w => setG st (8 + w.2) w.1) s
/-- A payload of four words in the data page. -/
def pay : BitVec 256 := mk 0x20000 4 1 4 2 3 0
/-- A message of communicator 1 from rank 1, tag 7. -/
def msg (num len : Nat) : MsgHdr := ⟨0, 9, 1, 0xFFFFFFFF, true, 1, 0, 1, 7, len, num⟩

theorem wit_messagesStart :
    (let s := block net [0x200000]
     Runs s (blockSels 8 4) [.g (uniReg s 63)] s ∧ s.g.y.path 6 < 65535 ∧ (s.cmd 8 0).toNat / 2 ^ 21 ≠ 0) ∧
    (let s := setB (block net [0x30001, 1, 7, 4]) 3 pay
     Runs s (blockSels 8 4) [.g (uniReg s 63)] s ∧ (s.cmd 8 0).toNat / 2 ^ 21 = 0 ∧ (s.cmd 8 1).toNat < 2 ^ 16 ∧
     s.g.r.getB ((s.cmd 8 0).toNat / 2 ^ 16 % 16) = pay ∧ payEsz pay = some 4 ∧ 4 * 4 ≤ 8192 ∧ (s.cmd 8 0).getLsbD 20 = false ∧
     payOk pay (s.cmd 8 3).toNat = true ∧ rSpace pay ∈ [0, 2, 3, 4, 6] ∧ s.peerSt (s.cmd 8 1).toNat = .go 1 ∧
     ∃ bs v, s.payRead (State.msgAg s.cur (s.ctxNoG s.cur) s.priv s.cn) pay 0 16 = (.ok bs, v) ∧ v.g = s.g ∧ v.cur = s.cur) ∧
    (let s := setB (block net [0x130001, 1, 7, 4]) 3 pay
     Runs s (blockSels 8 4) [.g (uniReg s 63)] s ∧ (s.cmd 8 0).getLsbD 20 = true ∧ s.peerSt (s.cmd 8 1).toNat = .go 1) ∧
    (let s := block net [0x400000]
     Runs s (blockSels 8 7) [.g (uniReg s 63)] s ∧ (s.cmd 8 0).toNat / 2 ^ 22 ≠ 0) ∧
    (let s := setB (block net [0x30001, 0x10000, 7, 0, 4, 0, 0]) 3 pay
     Runs s (blockSels 8 7) [.g (uniReg s 63)] s ∧ s.g.y.path 6 < 65535 ∧ rpostBad (s.cmds 8 7) pay 0 = none ∧
     s.g.r.getB ((s.cmd 8 0).toNat / 2 ^ 16 % 16) = pay ∧ s.g.r.getB ((s.cmd 8 5).toNat % 16) = 0 ∧
     (s.ctx 1).posted.length + (s.ctx 1).taken.length < 16384 ∧ (s.ctx 1).handle ∉ (s.ctx 1).handles ∧
     ((s.ctx 1).handle + 1) % 16384 ∉ (s.ctx 1).handle :: (s.ctx 1).handles ∧ (s.ctx 1).unexp = [] ∧
     (s.newRecv (s.cmds 8 7) pay 0 0).takes (msg 0 0) = true) := by
  refine ⟨⟨runs_of ?_, ?_⟩,
    ⟨runs_of ?_, ?_, ?_, ?_, ?_, ?_, ?_, ?_, ?_, ?_, List.replicate 16 0, _, pair_of (ok_of ?_), ?_, ?_⟩,
    ⟨runs_of ?_, ?_⟩, ⟨runs_of ?_, ?_⟩, runs_of ?_, ?_⟩ <;> decide +kernel

/-- A posted list of 16,384 receives is full. -/
theorem wit_messagesStart_full :
    16384 ≤ ((net.modCtx 1 (fun c => { c with posted := List.replicate 16384 recv0 })).ctx 1).posted.length := by
  decide +kernel

/-- A record as words. -/
def recWords (r : BitVec 256) : List W32 := (List.range 8).map (fun i => r.extractLsb' (32 * i) 32)
/-- A descriptor: communicator 1, 2 ranks, 4 elements of FP32, chunks of 1, the rank list at 0x21000. -/
def desc (kind : Nat) : List W32 :=
  [BitVec.ofNat 32 (kind + 0x800), 1, 2, 4, 1, 0, 0, 0] ++ recWords (mk 0x20000 4 1 4 8 3 0) ++ recWords (mk 0x20100 4 1 4 8 3 0) ++
    [0x21000, 0, 0, 0, 0, 0, 0, 0]
/-- Its activation 0 in context 1 with descriptor 5, this module index 0. -/
def coll (kind : Nat) : Coll :=
  { ctx := 1, desc := 5, w := desc kind, ranks := [0, 1], p := 0, seed := 0, act := 0, gen := 0, fired := [], pieces := [], heldPk := [],
    written := [], sent := [], xf := false, esc := false, satf := false, nan := false, nanrank := 0xFFFF, step := 0, bound := [],
    node := none, lk := none }
/-- `net` with active collectives. -/
def reducing (l : List Coll) : State := { net with link := { net.link with colls := l } }
/-- `net` with its context changed. -/
def netCtx (f : Ctx → Ctx) : State := net.modCtx 1 f
/-- A message that waits unmatched. -/
def waiting : Unexp := ⟨msg 0 16, [], true, false⟩

theorem wit_messagesAsk :
    (let s := block (netCtx (fun c => { c with unexp := [waiting] })) [1, 0x10000, 7, 0]
     runsB s (blockSels 8 4) [.g (uniReg s 61), .g (uniReg s (61 + 1)), .g (uniReg s (61 + 2))] s = true ∧
     (s.cmd 8 0).toNat < 2 ^ 16 ∧ (s.cmd 8 1).toNat < 2 ^ 17 ∧ (s.cmd 8 1).toNat % 65536 = 0 ∧
     (s.ctx 1).unexp = [] ++ waiting :: [] ∧ waiting.ahead = false ∧ (s.newRecv (s.cmds 8 4) 0 0 0).takes waiting.hdr = true) ∧
    (let s := block net [1, 0x10001, 7, 0]
     (s.cmd 8 1).toNat / 2 ^ 16 = 1 ∧ (s.cmd 8 1).toNat % 65536 ≠ 0) ∧
    (let s := block (netCtx (fun c => { c with posted := [{ recv0 with handle := 16383 }], taken := [{ recv0 with handle := 4 }] })) [16383]
     runsB s (blockSels 8 1) [.g (uniReg s 63)] s = true ∧ (s.cmd 8 0).toNat < 2 ^ 14 ∧
     (s.ctx 1).posted = [] ++ { recv0 with handle := 16383 } :: [] ∧ (∀ r ∈ (s.ctx 1).posted, r.handle ≠ 4) ∧
     (∃ r ∈ (s.ctx 1).taken, r.handle = 4) ∧ (∀ r ∈ (s.ctx 1).posted ++ (s.ctx 1).taken, r.handle ≠ 0)) ∧
    2 ^ 14 ≤ ((block net [16384]).cmd 8 0).toNat := by
  decide +kernel

theorem wit_messagesAsk_cfire :
    (let s := setG net 5 64
     Runs s [u (.g 5)] [] s ∧ Enters s ∧ 64 ≤ (s.uniVal (.g 5)).toNat ∧ s.collOf 1 5 = none) ∧
    (let s := setPath (setG (reducing [coll 0]) 5 5) 7 1
     Runs s [u (.g 5)] [] s ∧ (s.collOf 1 5).isSome = true ∧ ∃ p ∈ [0, 1, 2, 3, 4, 7], s.g.y.path p ≠ 0) ∧
    (let s := setG (reducing [{ coll 0 with fired := [3] }]) 5 5
     let c := { coll 0 with fired := [3] }
     Runs s [u (.g 5)] [] s ∧ s.ctxNoG s.cur = 1 ∧ s.collOf 1 5 = some c ∧ c.ctx = 1 ∧ c.desc = 5 ∧
     (∀ p ∈ [0, 1, 2, 3, 4, 7], s.g.y.path p = 0) ∧ dRanks c.w * dCps c.w = 4 ∧ 3 ∈ c.fired ∧ 2 ∉ c.fired ∧ dKind c.w < 2 ∧
     c.heldPk = [] ∧ 2 / dCps c.w ≠ c.p ∧ Coll.complete { c with fired := c.fired ++ [2] } = false ∧ 1 / dCps c.w = c.p ∧
     (dRange c.w 1).2 ≠ 0 ∧
     ∃ xs v, (s.putColl { c with fired := c.fired ++ [1] }).collRead { c with fired := c.fired ++ [1] } (dRange c.w 1).1
       (dRange c.w 1).2 = (.ok xs, v) ∧ v.g = s.g ∧ v.cur = s.cur ∧ v.groups = s.groups ∧
       v.link.colls = (s.putColl { c with fired := c.fired ++ [1] }).link.colls ∧
       v.peerSt (c.ranks.getD ((c.p + 1) % dRanks c.w) 0) = .go 1) := by
  refine ⟨⟨runs_of ?_, ⟨?_, ?_⟩, ?_⟩,
    ⟨runs_of ?_, ?_, 7, ?_, ?_⟩,
    runs_of ?_, ?_, ?_, ?_, ?_, ?_,
    ?_, ?_, ?_, ?_, ?_, ?_,
    ?_, ?_, ?_, [0], _, pair_of (ok_of ?_), ?_⟩ <;> decide +kernel

/-- A rendezvous SEND without status. -/
def sent : SendCmd := ⟨3, 64, 63, 1, pay, false, 16, true, 0, 0, 1, ⟨1, 1, 7, 16, 0⟩⟩

/-- Numbers before, at and after the expected one; a full queue; a posted receive; PULLs; PDATA; completions. -/
theorem wit_messagePackets :
    (∀ s ∈ [net, netCtx (fun c => { c with recvNo := [(msgKey (msg 0 0), 1)] }),
        netCtx (fun c => { c with posted := [{ recv0 with rcd := pay }] }), netCtx (fun c => { c with sends := [sent] })],
      s.link.mem.fenced = false ∧ s.holding = false ∧ s.link.fab.servedFor hdr = [] ∧ hdr.gen = s.link.mem.gen ∧
      s.ctxOfJob hdr.job = some 1 ∧ (msg 0 0).head = hdr) ∧
    ((msg 0 0).num < tget 0 ((netCtx (fun c => { c with recvNo := [(msgKey (msg 0 0), 1)] })).ctx 1).recvNo (msgKey (msg 0 0))) ∧
    ((msg 0 0).num = tget 0 (net.ctx 1).recvNo (msgKey (msg 0 0)) ∧ (net.ctx 1).posted = [] ∧ (net.ctx 1).unexp.length < 8192 ∧
      net.link.eager + (List.replicate 4 (0 : Byte)).length ≤ 2 ^ 25 ∧ tget 0 (net.ctx 1).recvNo (msgKey (msg 1 0)) < (msg 1 0).num ∧
      (net.ctx 1).busyMsgs = []) ∧
    ¬ ((netCtx (fun c => { c with unexp := List.replicate 8192 waiting })).ctx 1).unexp.length < 8192 ∧
    (let s := netCtx (fun c => { c with posted := [{ recv0 with rcd := pay }] })
     let r := { recv0 with rcd := pay }
     (s.ctx 1).posted = [] ++ r :: [] ∧ r.takes (msg 0 16) = true ∧ r.cls = none ∧ r.pulls = [] ∧ r.next = 0 ∧ r.got = 0 ∧
     (s.ctx 1).taken = [] ∧ (s.ctx 1).unexp = [] ∧ (msg 0 16).len ≤ r.cap ∧ s.slotSt (msg 0 16).src.toNat = .go (msg 0 16).src.toNat) ∧
    (let s := netCtx (fun c => { c with sends := [sent] })
     (s.ctx 1).sends = [] ++ sent :: [] ∧ sent.rdv = true ∧ sent.ctx = 1 ∧ (s.grp sent.gk).live = true ∧ sent.len < 1 + 16 ∧
     8192 < 8193 ∧ okP (s.payRead (State.msgAg sent.gk 1 sent.priv sent.home) sent.rcd 0 16).1 (fun _ => true) = true) ∧
    (let r := { recv0 with rcd := pay, msg := some (msg 0 16), pulls := [3], next := 8192 }
     let x : Xfer := ⟨3, .pull, 1, 5, .none, 9, 1, 0, 3, 0, .pull (msg 0 16).args 0 16, none, 0, false⟩
     let s := (netCtx (fun c => { c with taken := [r] })).modFab (fun f => { f with xfers := [x], next := 4 })
     s.takenOf 1 5 = some r ∧ r.cls = none ∧ s.ctxOfJob 9 = some 1 ∧
     r.pullAt s.link.fab 0 = some x ∧
     (msg 0 16).len ≤ r.cap ∧ r.got + ((List.replicate 16 (1 : Byte)).take (min 8192 (r.want - 0))).length = (msg 0 16).len ∧
     ((s.dropX x.id).land 1 r 0 (List.replicate 16 1)).1 = none ∧
     ((s.dropX x.id).land 1 r 0 (List.replicate 16 1)).2.takenOf 1 5 = some r) ∧
    (let r := { recv0 with msg := some (msg 0 0), eager := true, cls := some 0 }
     let s := netCtx (fun c => { c with taken := [r] })
     s.takenOf 1 5 = some r ∧ r.handle = 5 ∧ r.recorded = false ∧ (s.ctx 1).recvTurn r = true ∧
     (s.recvRecord 1 r).recvPushes r = true ∧ ((s.recvRecord 1 r).team 1).q2.length < 256 ∧
     256 ≤ ((s.modTeam 1 (fun t => { t with q2 := List.replicate 256 0 })).team 1).q2.length) ∧
    (let r := { recv0 with msg := some (msg 0 0), eager := true, cls := some 0, recorded := true }
     let s := netCtx (fun c => { c with taken := [r] })
     (s.team 1).ctx = 1 ∧ (s.ctx 1).taken.find? (fun q => q.recorded && decide (q.gk / 64 = 1)) = some r ∧ (s.team 1).q2.length < 256) := by
  decide +kernel

/-- `s` with words in HBM. -/
def poke (s : State) (a : Nat) (ws : List W32) : State := { s with hbm := mwrite s.hbm a (wordBytes ws) }
/-- A graph node: w0, and ARG0 to ARG2 and SUCC0 to SUCC3. -/
def nd (w0 : Nat) (qs : List Nat) : List W32 :=
  [BitVec.ofNat 32 w0, 0] ++ ((qs ++ List.replicate (7 - qs.length) 0).flatMap (fun q => [BitVec.ofNat 32 q, BitVec.ofNat 32 (q / 2 ^ 32)]))
/-- A state with node `w` ready at 0x20040, a record's or command's words at 0x20200. -/
def graph (w args : List W32) : State :=
  poke (poke (withCtx (fun c => { c with ready := [0x20040] })) 0x20040 w) 0x20200 args
/-- The same node named by the ring of queue 0 and not yet ready. -/
def ringed (w : List W32) : State :=
  poke (poke (poke (withCtx (fun c => { c with qtbase := 0x40000 })) 0x20040 w) 0x40000 [0x20500, 0, 0x10002, 0x00010000]) 0x20500 [0x20040]

/-- The state in which the node's kind acts. -/
def ran (took : State) (w : List W32) : State :=
  (took.putNode 1 0x20040 1 (nPend w * 256 + 16)).modCtx 1 (fun c => { c with nodes := c.nodes ++ [(0x20040, nQueue w)] })
/-- The node taken from the ready ones. -/
def tookReady (s : State) : State := (s.node 1 0x20040).2.modCtx 1 (fun c => { c with ready := c.ready.erase 0x20040 })
/-- Can it be? -/
def takes (s : State) (w : List W32) : Bool :=
  (s.ctx 1).live && (s.ctx 1).ready.contains 0x20040 && decide ((s.node 1 0x20040).1 = some w) && (s.node 1 0x20040).2.nodeRoom w

theorem nodeRuns_of {s : State} {w : List W32} (h : takes s w = true) :
    NodeRuns s 1 0 0x20040 w false (ran (tookReady s) w) := by
  simp only [takes, Bool.and_eq_true, decide_eq_true_eq, List.contains_iff_mem] at h
  exact ⟨h.1.1.1, (s.node 1 0x20040).2, tookReady s, h.2, fun _ => ⟨h.1.1.2, pair_of h.1.2, rfl⟩, nofun, rfl⟩

/-- A node of each kind: the state it runs in meets `p`. -/
def kindAt (f : State → State) (w args : List W32) (p : State → Bool) : Bool :=
  takes (f (graph w args)) w && p (ran (tookReady (f (graph w args))) w)
/-- A launch as a KERNEL node makes it. -/
def made (s : State) (r : List W32) : Launch :=
  { Launch.reset with live := true, ctx := 1, node := 0x20040, rcd := r, cls := 0, since := s.clock }
/-- What the checks of a launch record answer: its lowest bad bit, a place, all places. -/
def judged (y : State) (r : List W32) (bad : Option Nat) (one all : Bool) : Bool :=
  decide (lowest ((made y r).bad 0 0 (Config.freeW32 y.free).toNat) = bad) && decide (y.couldHold (made y r) = one) &&
    (!(made y r).coop || decide (y.couldAll (made y r) = all))
/-- A launch record of 64 words with w3, w4 and w5. -/
def lrec (w3 w4 w5 : W32) : List W32 := [0x10000, 0, 0, w3, w4, w5, 1] ++ List.replicate 57 0

theorem wit_graphNodes :
    (∃ u, NodeRuns (graph (nd 0 [0x20200]) []) 1 0 0x20040 (nd 0 [0x20200]) false u ∧ lowest (nodeBad (nd 0 [0x20200]) false) = none) ∧
    (∃ u, NodeRuns (ringed (nd 2 [5])) 1 0 0x20040 (nd 2 [5]) true u) ∧
    (takes (graph (nd 7 []) []) (nd 7 []) && decide (lowest (nodeBad (nd 7 []) false) = some 0)) = true ∧
    (let w := nd 0 [0x20200]
     let p := fun (r : List W32) (f : State → State) (bad : Option Nat) (one all : Bool) =>
      kindAt f w r (fun u => decide ((u.gWords 1 false 0x20200 64).1 = some r) && judged (u.gWords 1 false 0x20200 64).2 r bad one all)
     p (lrec 0x21003 0x2204 0x10002) id (some 104) true false = true ∧
     p (lrec 0x21103 0x2204 0x10002) id none true false = true ∧
     p (lrec 0x21A03 0x2204 0x1000A) (fun u => { u with dies := [(0, { Die.reset with cores := 5 }), (1, { Die.reset with cores := 5 })] })
        none false false = true ∧
     p (lrec 0x21103 0x402204 0x10301) id none true false = true ∧
     p (lrec 0x21103 0x402204 0x10002) id none true true = true) ∧
    kindAt id (nd 1 [0x20200]) [] (fun u => (u.gWords 1 false 0x20200 40).1.isSome) = true ∧
    (takes (graph (nd 2 [5]) []) (nd 2 [5]) && decide (lowest (nodeBad (nd 2 [5]) false) = none)) = true ∧
    kindAt id (nd 3 [0x20200]) [1] (fun u => okP (u.xlate .link 1 0x20200 0 false .read).1 (fun _ => true)) = true ∧
    kindAt id (nd 5 [0x20200, 9]) [] (fun u => okP (u.vwrite .link 1 0x20200 0 false (leBytes 4 9)).1 (fun _ => true)) = true ∧
    (∀ v ∈ [3, 4], kindAt id (nd 6 [0x20200, v]) [3] (fun u => okP (u.xlate .link 1 0x20200 0 false .read).1 (fun a =>
      decide (leNat ((u.xlate .link 1 0x20200 0 false .read).2.pread 0 a.pa 4) = 3))) = true) := by
  refine ⟨⟨_, nodeRuns_of ?_, ?_⟩, ⟨_, by decide +kernel, _, _, by decide +kernel, nofun,
    fun _ => ⟨by decide +kernel, _, _, Prod.ext (by decide +kernel) rfl, pair_of (by decide +kernel), rfl⟩, rfl⟩,
    ?_, ?_, ?_, ?_, ?_, ?_, ?_⟩ <;> decide +kernel

/-- `graph` with node `w` ended with a class, and no launch. -/
def endedNode (w : List W32) (cls detail : Nat) : State :=
  { (graph w []).modCtx 1 (fun c => { c with ended := [(0x20040, cls, detail, none)], nodes := [(0x20040, 0)] }) with launches := [] }

theorem wit_graphNodes_ends :
    (∀ n ∈ [3, 4], let s := poke ((graph [] []).modCtx 1 (fun c => { c with waits := [(0x20040, 0x20200, BitVec.ofNat 64 n)] })) 0x20200 [3]
      (s.ctx 1).waits.find? (fun x => decide (x.1 = 0x20040)) = some (0x20040, 0x20200, BitVec.ofNat 64 n) ∧
      leNat (s.pread 0 0x20200 4) = 3) ∧
    (∀ c ∈ [0, 3], let s := endedNode (nd 0x10002 []) c 1
      (s.ctx 1).ended.find? (fun e => decide (e.1 = 0x20040)) = some (0x20040, c, 1, none) ∧ s.ctxLaunches 1 = [] ∧
      (s.ctx 1).nodes = [] ++ (0x20040, 0) :: [] ∧ (s.node 1 0x20040).1 = some (nd 0x10002 []) ∧ nKind (nd 0x10002 []) ≠ 1 ∧
      okP ((s.node 1 0x20040).2.xlate .link (s.ctx 1).asid (0x20040 + 4) 0 (s.ctx 1).sup .write).1 (fun a => decide (a.pa = 0x20044)) = true ∧
      nodeNext (nd 0x10002 []) none = []) ∧
    NotMigrating (endedNode (nd 0x10002 []) 0 1) := by
  refine ⟨?_, ?_, notMigrating_of ?_⟩ <;> decide +kernel

/-- An activation that waits, its descriptor `w` at entry 5 and the rank list in place. -/
def asked (w : List W32) : State :=
  let s := poke (poke (netCtx (fun c => { c with ctbase := 0x22000 })) 0x22280 w) 0x21000 [0x10000]
  { s with link := { s.link with collWait := [⟨1, 5, 0, some 0x20040, none, []⟩] } }
/-- The descriptor read. -/
def readDesc (s : State) : Except EErr (List Nat) × State :=
  ({ s with link := { s.link with collWait := [] } } : State).seqRead 1 0x22280 4 32
/-- Then the rank list, the activation counted. -/
def readRanks (s : State) : Except EErr (List Nat) × State :=
  let v := (readDesc s).2
  ({ v with link := { v.link with acts := tset 0 v.link.acts 65537 (tget 0 s.link.acts 65537 + 1) } } : State).seqRead 1 0x21000 2 2
/-- A descriptor whose word 7 is not zero. -/
def desc7 : List W32 := (desc 0).set 7 4

theorem wit_collectives_activate :
    (∀ w ∈ [desc 0, desc7], let s := asked w
      s.link.collWait = [] ++ ⟨1, 5, 0, some 0x20040, none, []⟩ :: [] ∧ s.link.colls.length < 64 ∧ s.collOf 1 5 = none ∧
      (s.ctx 1).ctbase + BitVec.ofNat 64 (128 * 5) = 0x22280 ∧ okB (readDesc s).1 (w.map (fun x => x.toNat)) = true ∧
      dRanks w = 2 ∧ 65536 * 1 + dComm w = 65537 ∧ dNum w 24 2 = 0x21000 ∧ okB (readRanks s).1 [0, 1] = true ∧
      s.link.mem.rank = some 0 ∧ s.link.mem.fenced = false ∧ (readRanks s).2.collOf 1 5 = none ∧ (readRanks s).2.link.early = []) ∧
    dFieldBad desc7 (some 0) = some 224 ∧ dFieldBad (desc 0) (some 0) = none ∧ dFmtOk (desc 0) = true ∧
    rSpace (dRec (desc 0) false) = 3 ∧ rSpace (dRec (desc 0) true) = 3 ∧ (coll 0).complete = false := by
  decide +kernel

/-- An all-gather of which chunk 0 is written. -/
def gathering : Coll := { coll 2 with written := [0] }

/-- A COLL packet of communicator 1 from sender 1. -/
def cmsg (act chunk len : Nat) (data : List W32) : CollMsg :=
  { comm := 1, act := act, chunk := chunk, hop := 1, sender := 1, off := 0, len := len, fp32 := false, sat := [], data := data,
    scales := [], nan := [], err := none }

theorem wit_collectives_packet :
    (∀ c ∈ [coll 0, coll 6, gathering], Served (reducing [c]) hdr 1 ∧ hdr.src.toNat ≠ (reducing [c]).link.mem.slot) ∧
    (let s := { net with link := { net.link with acts := [(65537, 3)] } }
     s.link.colls.length = 0 ∧ s.link.deadColls.length = 0 ∧ (cmsg 2 0 4 [1]).act < tget 0 s.link.acts (65536 * 1 + 1) ∧
     tget 0 s.link.acts (65536 * 1 + 1) ≤ (cmsg 3 0 4 [1]).act ∧ s.heldBytes + 4 ≤ 2 ^ 26 ∧ ¬ s.heldBytes + (2 ^ 26 + 1) ≤ 2 ^ 26) ∧
    (∀ k ∈ [0, 6], let s := reducing [coll k]
      s.link.colls = [] ++ coll k :: [] ∧ (coll k).ctx = 1 ∧ dComm (coll k).w = 1 ∧ (coll k).act = 0 ∧ s.collOf 1 5 = some (coll k) ∧
      (coll k).pieces = [] ∧ s.heldBytes + 4 ≤ 2 ^ 26 ∧
      dKind (coll k).w = k ∧ 1 < dRanks (coll k).w ∧ (coll k).fired = [] ∧ (coll k).heldPk = []) ∧
    ((coll 0).awaits (cmsg 0 0 4 [1]) = 1 ∧ (coll 6).awaits (cmsg 0 0 0 []) = 0 ∧
      Coll.complete { coll 0 with pieces := [cmsg 0 0 0 []] } = false ∧
      Coll.complete { coll 0 with heldPk := [{ cmsg 0 0 4 [1] with sat := satsOf (cmsg 0 0 4 [1]), nan := nansOf (cmsg 0 0 4 [1]) }] } = false ∧
      Coll.complete { coll 6 with written := [1] } = false) ∧
    (let s := reducing [gathering]
     let m := cmsg 0 2 4 [7]
     let v := (s.putColl gathering).collWrite gathering 0 (dRange gathering.w 2).1
       ((m.data.zipIdx).map (fun e => (e.1.toNat, m.sat.getD e.2 false, 0)))
     dKind gathering.w = 2 ∧ dQfmt gathering.w = 0 ∧ dRanks gathering.w - 1 ≤ 1 ∧ rSpace (dRec gathering.w true) = 3 ∧
     s.collOf 1 5 = some gathering ∧ gathering.awaits m ≤ m.data.length ∧ gathering.heldPk = [] ∧ gathering.pieces = [] ∧
     v.1 = none ∧ v.2.collOf 1 5 = some gathering ∧ Coll.complete { gathering with written := [0, 2] } = false) := by
  unfold Served
  decide +kernel

/-- Segment 0 of die 0 with a directory state and a copy on core 0. -/
def dirAt (d : DirSt) : State :=
  ((spad 0).modDie 0 (fun x => { x with dir := tset DirSt.i x.dir 0 d })).modCore 0 (fun c => { c with segs := [⟨0, false, [], [], []⟩] })
/-- Entry 3 of controller 0. -/
def moving (e : Mig) : State := tb.setMig 0 3 e

/-- Controller 0 with a move in every entry. -/
def crowdedStack : State :=
  tb.modStk 0 (fun k => { k with mig := (List.range 64).map (fun j => (j, moveOf (0x100000 + 0x10000 * j) 0 (0x10000 * j) 1 false)) })

theorem wit_memorySystem :
    (∀ d ∈ [DirSt.i, .s [0], .o 5], let s := dirAt d
      0 / 96 = 0 ∧ (s.die 0).region 0 = some 0 ∧ (s.die 0).soft 0 = false ∧ tget DirSt.i (s.die 0).dir 0 = d ∧
      (s.core 0).segs.find? (fun y => decide (y.seg = 0)) = some ⟨0, false, [], [], []⟩) ∧
    ((∀ op, DirSt.i ≠ .u op) ∧ (∀ op, DirSt.s [0] ≠ .u op) ∧ ∀ op, DirSt.o 5 ≠ .u op) ∧
    (∀ p ∈ [0, 254, 255], let e := ((moving { moveOf 0x100000 0 0x200000 1 false with prog := p }).stk 0).entry 3
      e.st = .moving ∧ e.otgt = 0 ∧ e.ntgt < 3 ∧ e.prog = p ∧ (e.size ≤ p * 256 + 256 ↔ p = 255)) ∧
    (∀ run ∈ [false, true], let e := ((moving { moveOf 0x100000 1 0x200000 0 false with run := run }).stk 0).entry 3
      e.st = .moving ∧ e.otgt ≠ 0 ∧ e.run = run ∧ e.ntgt < 3) ∧
    ((tb.stk 0).entry 3).st ≠ .moving ∧
    (∀ host ∈ [false, true], let tgt := if host then 0 else 1
      tb.inHbm (if host then 0 else 0x10000) = true ∧
      (tb.stk (tb.stackOf (if host then 0 else 0x10000))).early tgt 0 host tb.clock = false ∧
      tb.migrating tgt 0 65536 = false ∧ tb.migrating (if host then 2 else 0) 0x10000 65536 = false ∧
      ((tb.stk (tb.stackOf (if host then 0 else 0x10000))).entry 0).st = .idle) ∧
    (crowdedStack.inHbm 0 = true ∧ crowdedStack.stackOf 0 = 0 ∧ (crowdedStack.stk 0).early 0 0 true crowdedStack.clock = false ∧
      crowdedStack.migrating 0 0 65536 = false ∧ crowdedStack.migrating 2 0x10000 65536 = false ∧
      (List.range 64).all (fun j => decide (((crowdedStack.stk 0).entry j).st = .moving)) = true) := by
  refine ⟨?_, ⟨nofun, nofun, nofun⟩, ?_, ?_, ?_, ?_,
    ?_⟩ <;> decide +kernel

/-- `tb` with the table of queues at 0x40000 and the words of queue 0's entry. -/
def queued0 (w2 thresh dlo : W32) : State :=
  poke (withCtx (fun c => { c with qtbase := 0x40000 })) 0x40000 [0, 0, w2, 0, 0, thresh, dlo, 0]

theorem wit_teamsMove_place :
    (let s := queued0 0x10000 0 5
     s.units = [⟨1, []⟩] ∧ (s.launch 1).cls < 4 ∧ (s.launch 1).queue % 2 = 0 ∧ (s.launch 1).coop = false ∧
     (s.launch 1).waiting = false ∧ (s.launch 1).cw = 1 ∧ (s.launch 1).ch = 1 ∧ 0 < qDef (s.queue 1 0).1 ∧
     s.spotNew 1 (s.openTo 0 0 none) = some (0, 0) ∧ s.hif.drains = []) ∧
    (let s := tb.setGrp 64 { grp0 with y := { grp0.y with status := .exited } }
     let t := { s with groups := [(64, { grp0 with y := { grp0.y with status := .exited } })] }
     (t.team 1).st = .resident ∧ t.tileOpen 1 = 0 ∧ (t.team 1).maxr = [] ∧ t.teamKeys 1 = [64] ∧
     ∀ gk ∈ t.teamKeys 1, (t.grp gk).y.status = .exited ∧ (t.grp gk).y.sends = 0 ∧
       ∀ p ∈ [0, 1, 2, 3, 4, 5, 7], (t.grp gk).y.path p = 0) := by
  decide +kernel

/-- A launch of class 3 that needs a whole core, on a module with one core, which is in use. -/
def crowded : State :=
  let s := queued0 0x30000 0 0
  { s with
    clock := 11000
    dies := [(0, { Die.reset with cores := 1 }), (1, { Die.reset with cores := 0 })]
    launches := s.launches ++ [(2, { Launch.reset with live := true, ctx := 1, rcd := lrec 0x2001103 0x2204 0x10001, cls := 3 })] }

theorem wit_teamsMove_leave :
    (tb.team 1).st = .resident ∧ (tb.team 2).st ≠ .resident ∧ tb.movers [1] tb.teams.length = [1] ∧
    tb.groups.all (fun p => p.2.y.fence.isNone) = true ∧
    (let t := queued0 0x10000 10 0
     let s := { t with clock := 100, groups := [(64, { grp0 with y := { grp0.y with status := .asleep } })] }
     let q := s.queue (s.launch (s.team 1).launch).ctx (s.launch (s.team 1).launch).queue
     qThresh q.1 ≠ 0 ∧ (s.launch (s.team 1).launch).coop = false ∧ s.movers [1] s.teams.length = [1] ∧
     q.2.idle 1 (qThresh q.1) = true) ∧
    qThresh (tb.queue 1 0).1 = 0 ∧
    (let r := crowded.queue 1 0
     crowded.units.find? (fun x => decide (x.lk = 2)) = some ⟨2, []⟩ ∧ (crowded.launch 2).queue % 2 = 0 ∧ (crowded.launch 2).ctx = 1 ∧
     (crowded.launch 2).queue = 0 ∧ qPre r.1 = true ∧ (r.2.placeUnit ⟨2, []⟩ r.2.dieOpen).isNone = true ∧
     r.2.waitsSince ⟨2, []⟩ + 11000 ≤ crowded.clock ∧ (crowded.launch 2).dies.findSome? (r.2.victim (crowded.launch 2).cls) = some 1) ∧
    (let s := { withT (fun t => { t with st := .boundary }) with groups := [(64, grp0)] }
     (s.team 1).st = .boundary ∧ (∀ q ∈ (s.core (s.team 1).core).running, q.team ≠ 1) ∧
     ∀ gk ∈ s.teamKeys 1, (s.grp gk).y.path 1 = 0 ∧ (s.grp gk).y.path 2 = 0 ∧ (s.grp gk).y.pend = []) := by
  decide +kernel

/-- Quadrant 0 with two groups outside its active positions. -/
def behind (issued : Nat) : State := (tb.setGrp 72 grp0).modQuad 0 0 (fun q => { q with fifo := [68, 72], issued := issued })
/-- The same on an Invar core. -/
def invarCore (s : State) : State := s.modLaunch 1 (fun l => { l with rcd := l.rcd.set 4 0x802204 })
/-- A group asleep at a NOP, woken. -/
def dozing : State :=
  at0 (invarCore (tb.modY (fun y => { y with status := .asleep, woken := true }))) 0xCE000000

theorem wit_teamsMove_positions :
    (let x := ((behind 0).core 0).quad 0
     (behind 0).coreInvar 0 = false ∧ x.held.head? = some 0 ∧ x.fifo.find? (behind 0).isReady = some 72) ∧
    (let s := invarCore (behind 256)
     s.coreInvar 0 = true ∧ 256 ≤ ((s.core 0).quad 0).issued ∧ ((s.core 0).quad 0).fifo = [68, 72]) ∧
    ((behind 0).core 0 |>.quad 0).issued < 256 ∧
    (let s := dozing.turnTo 64
     s.cur = 64 ∧ (s.grp 64).y.status = .asleep ∧ (s.grp 64).y.woken = true ∧ s.canIssue 64 = true ∧
     okB s.fetch.1 .nop = true ∧ (dozing.grp 64).y.stepArmed = false) := by
  decide +kernel

/-- `tb` with its host interface changed, in service. -/
def up (f : HostIf → HostIf) : State := { tb with hif := f { tb.hif with service := 1 } }
/-- A rank table image at 0x25000: generation 3, slots 0 and 1. -/
def tabled : State := poke (up id) 0x25000 ([0x30002, 0, 0, 0] ++ [0x80018000])
/-- A configuration of zeros. -/
def plainCfg : List Byte := List.replicate 176 0

theorem wit_mailboxRequests :
    ((up id).hif.held = [] ∧ ((up (fun h => { h with ringSize := 2 })).hif.held = [] ∧
      (BitVec.ofNat 32 (up (fun h => { h with ringSize := 2 })).hif.evtail - (up id).hif.evhead).toNat < 2) ∧
      ¬ (BitVec.ofNat 32 (up id).hif.evtail - (up id).hif.evhead).toNat < (up id).hif.ringSize ∧ (up id).hif.service ≠ 0) ∧
    ((0x10000001 : W64).toNat % 2 ^ 28 ≠ 0 ∧ (0x10000000 : W64).toNat % 2 ^ 28 = 0) ∧
    (((up id).ctx 1).live = true ∧ ((up id).ctx 65535).live = false) ∧
    (63 ∉ ((up id).ctx 1).stopped) ∧
    (let p : Parked := ⟨5, 0, 1, none⟩
     let s := (up id).modGrp 64 (fun g => { g with y := { g.y with status := .parked, parked := some p } })
     (s.grp 65).y.parked = none ∧ (s.grp 64).y.parked = some p ∧ (s.teamG 64).st = .resident ∧
     ((s.modTeam 1 (fun t => { t with st := .saved })).teamG 64).st ≠ .resident) ∧
    (let e := moveOf 0 0 0x20000 1 false
     (up id).migOk e = true ∧ Mig.home (up id) e = some 0 ∧ (((up id).stk 0).entry 63).st = .idle ∧
     (up id).migrating 0 0 e.size = false ∧ (up id).migrating 1 0x20000 e.size = false ∧
     (((up id).setMig 0 63 e).stk 0 |>.entry 63).st = .moving ∧ Mig.home ((up id).setMig 0 63 e) e = some 0 ∧
     (up id).migOk (moveOf 0 3 0 3 false) = false) ∧
    ((up id).rankImage 0 = none ∧ tabled.rankImage 0x25000 = some ⟨3, [0, 1]⟩) ∧
    (((up id).ctx 1).fjob.toNat = 0 ∧ ((up id).launch 1).live = true ∧ ((up id).launch 1).ctx = 1 ∧ HeldPlace (up id) 1 1) ∧
    (∀ st ∈ [JoinSt.opening, .pull, .closing], ((up id).modJoin (fun j => { j with st := st })).link.join.st = st) ∧
    ((up id).link.join.st ≠ .pull ∧ NotMigrating (up id) ∧
      ((up id).modJoin (fun _ => { Join.reset with st := .opening, w := (up id).hbmWords 0x25000 16 })).joinBad ((up id).hbmWords 0x25000 16) = some 32) ∧
    (plainCfg.length = 176 ∧ fabcfgOk (cfgWords plainCfg) = true ∧ fabcfgOk (cfgWords (plainCfg.set 0 1)) = false) ∧
    ((up id).team 1).st = .resident := by
  refine ⟨?_, ?_, ?_, ?_, ?_, ?_,
    ?_, ⟨?_, ?_, ?_, ?_, ?_⟩,
    ?_, ⟨?_, notMigrating_of ?_, ?_⟩, ?_,
    ?_⟩ <;> decide +kernel

/-- The module in service with its queue 0 enabled, of 4 entries, HEAD 0. -/
def told : State := { queued0 0x10002 0 0 with hif := (up id).hif }

theorem wit_hostWindow :
    ((told.ctx 1).live = true ∧ (told.ctx 2).live = false ∧ qEn (told.queue 1 0).1 = true ∧ qEn (told.queue 1 1).1 = false ∧
      (4 + 65536 - qHead (told.queue 1 0).1) % 65536 ≤ qSize (told.queue 1 0).1 ∧
      qSize (told.queue 1 0).1 < (5 + 65536 - qHead (told.queue 1 0).1) % 65536) ∧
    (let s := up (fun h => { h with ringSize := 1, held := [[1]] })
     s.hif.held = [[1]] ∧ (BitVec.ofNat 32 s.hif.evtail - (0 : W32)).toNat < s.hif.ringSize) ∧
    ((up id).inHbm ((up id).hif.apbase.toNat + (0x10000000 - 0x10000000)) = true ∧ (up id).lockedPa 0 = false ∧ NotMigrating (up id) ∧
      ((up id).modCtx 1 (fun c => { c with locked := [(0, 65536)] })).lockedPa 65535 = true) ∧
    (((up id).grp 64).live = true ∧ ((up id).grp 64).y.status ≠ .debug ∧
      (((up id).modGrp 64 (fun g => { g with y := { g.y with status := .debug } })).grp 64).y.status = .debug) ∧
    (let s := up (fun h => { h with dbg := [64, 65] }); s.hif.dbg = 64 :: [65] ∧ (s.ctxG 64).dbg.getLsbD 1 = false) ∧
    (up id).hif.loads = [] := by
  refine ⟨?_, ?_, ⟨?_, ?_, notMigrating_of ?_,
    ?_⟩, ?_, ?_, ?_⟩ <;> decide +kernel

/-- A container at 0x28000 with one segment entry for 0x200000, of 8 bytes, kind 1, whose measurement begins with `m`; the
page tables of address space 1 with a leaf of 2 MiB there. -/
def boxed (m : W32) : State :=
  let s := up (fun h => { h with loads := [(0, 1, 0, 0x28000)] })
  let s1 := poke (poke s 0x28000 [0x4F56454B, 0x00010000, 1, 0, 64, 0, 0, 0]) 0x28040 [1, 8, 0x400, 0x200, 0x200000, 0, 0, 0, m]
  let s2 := poke (poke (poke { s1 with astbase := 0x100000 } 0x100008 [0x110001]) 0x110000 [0x111001]) 0x111000 [0x112001]
  poke (poke s2 0x112000 [0x113001]) 0x113008 [0x600003]

/-- The loader's state before it compares; one of two measurements is wrong whatever the digest is. A good signature is not
shown: one permutation of SHAKE256 costs the kernel seconds, and a check of a signature takes some two thousand. -/
theorem wit_hostWindow_load :
    (∀ m ∈ ([0, 1] : List Nat), let s := boxed (BitVec.ofNat 32 m)
      (decide (s.hif.loads = (0, 1, 0, 0x28000) :: []) && (s.ctx 1).live &&
        decide (s.loadLeaves (s.ctx 1).asid 0x200000 0x200008 1 = some [(0x113008, 0, 0x600000, 0x200000, 0x600003)])) = true) ∧
    (∀ m ∈ ([0, 1] : List Nat), let s := boxed (BitVec.ofNat 32 m)
      let hdr := s.hbmWords 0x28000 16
      let e := s.hbmWords (0x28000 + dWord hdr 4 + 64 * 0) 16
      hdr.take 2 = [0x4F56454B, 0x00010000] ∧ hdr.drop 8 = List.replicate 8 0 ∧ 0 < dWord hdr 2 ∧ dWord e 0 % 4 = 1 ∧
      dNum e 4 2 = 0x200000 ∧ dNum e 6 2 = 0 ∧ dWord e 1 = 8 ∧ leNat ((wordBytes e).drop 32) = m) ∧
    (up (fun h => { h with loads := [(0, 1, 0, 0x28000)] })).hbmWords 0x28000 2 ≠ [0x4F56454B, 0x00010000] ∧
    (∀ d : BitVec 256, d ≠ BitVec.ofNat 256 0 ∨ d ≠ BitVec.ofNat 256 1) := by
  refine ⟨by decide +kernel, by decide +kernel, by decide +kernel, fun d => ?_⟩
  by_cases h : d = BitVec.ofNat 256 0
  · exact .inr (h ▸ by decide)
  · exact .inl h

theorem wit_hostWindow_sign :
    (let s := up (fun h => { h with keys := [(7, some ([1], true))] })
     s.hif.key 7 = some ([1], true) ∧ s.hif.service ≠ 0 ∧ (List.replicate 68 (0 : Byte)).length = 68) ∧
    ((List.replicate 32 (0 : Byte)).length = 32 ∧ (up id).nv.n % 1024 = 0 ∧ (up id).nv.f < 16384) ∧
    (let s := { up id with nv := { (up id).nv with n := 16777216, f := 16384 } }
     s.nv.n % 1024 = 0 ∧ 16384 ≤ s.nv.f) := by
  decide +kernel

/-- A configuration: this module at slot 0 of a pod, its record on node 5 only, one watched module (slot 1, bit 3) on node 6. -/
def cfg1 : List W32 := [0x4000, 0, 0x00050000, 1] ++ List.replicate 8 0x00050000 ++ [0xB0000001, 6] ++ List.replicate 30 0
/-- `tb` so configured. -/
def pod (f : Member → Member) : State := tb.modMem (fun m => f { m with cfg := some cfg1 })

theorem wit_tinCry :
    ((pod id).link.mem.fenced = false ∧ (pod (fun m => { m with fenced := true })).link.mem.fenced = true ∧ NotMigrating (pod id) ∧
      (pod id).link.mem.cfg = some cfg1 ∧ (pod id).link.mem.beatNodes = [5] ∧ (pod id).link.fab.route (0x8000 + 5) ≠ [] ∧
      tb.link.mem.cfg = none) ∧
    ((pod id).link.colls = [] ∧ (pod id).link.fab.xfers = [] ∧ (pod id).ctxs.all (fun p => p.2.sends.isEmpty) = true ∧
      (pod id).link.mem.held = false ∧ (pod id).clock ≤ (pod id).link.mem.good + 440000 ∧
      (let s := { pod id with clock := 440001 }; s.link.mem.good + 440000 < s.clock)) ∧
    (5 ≤ ((List.range 8).filter (fun i => (0x1F : BitVec 8).getLsbD i)).length ∧
      ((List.range 8).filter (fun i => (0xF : BitVec 8).getLsbD i)).length < 5) ∧
    (∀ n ∈ [2, 3], let s := pod (fun m => { m with seen := [(0, some 9, n)] })
      s.link.mem.watches 0 = true ∧ tget (none, 0) s.link.mem.seen 0 = (some 9, n) ∧ 0 ∉ s.link.mem.accused) ∧
    (∀ n ∈ [2, 3], let s := pod (fun m => { m with accusing := [0], lost := [(0, n)] })
      s.link.mem.watches 0 = true ∧ 0 ∈ s.link.mem.accusing ∧ tget 0 s.link.mem.lost 0 = n ∧ s.link.mem.watched 0 = (1, 6, 3)) ∧
    (let ones := fun (x : Nat) => ((List.range 8).filter (fun i => x.testBit i)).length
     ones 0x17 < 5 ∧ 5 ≤ ones (0x17 ||| 2 ^ 3) ∧ 5 ≤ ones 0x1F ∧ ones (0x1 ||| 2 ^ 3) < 5) ∧
    (tb.modHif (fun h => { h with held := [[1]] })).hif.held ≠ [] ∧ tb.link.join.st ≠ .pull := by
  refine ⟨⟨?_, ?_, notMigrating_of ?_, ?_⟩, ?_,
    ?_, ?_, ?_, ?_, ?_⟩ <;> decide +kernel

/-- A join of context 1 that pulls one region of `n` bytes to 0x20000. -/
def joining (n : Nat) : State :=
  tb.modJoin (fun j => { j with
    st := .pull
    w := (List.replicate 16 (0 : W32)).set 10 1
    regions := [(0, 0, 0x20000, 0, n)]
    peers := [(0, 1)]
    rot := [0]
    out := [(0, 0)]
    next := 1
    fails := [(0, 2)] })

theorem wit_tinCry_stripes :
    (∀ n ∈ [1, 2097153], stripeAt 0 (joining n).link.join.regions = some (0x20000, min n 2097152)) ∧
    (let s := joining 1
     let s0 := s.modJoin (fun x => { x with out := x.out.erase (0, 0) })
     let r := s0.stripeLand (dWord s.link.join.w 10 % 65536) 0x20000 32 [7]
     s.link.join.st = .pull ∧ s.link.join.out.find? (fun q => decide (q.1 = 0)) = some (0, 0) ∧ r.1 = some () ∧
     r.2.link.join = s0.link.join ∧ s.link.join.out.length ≤ 128 ∧ s.link.join.out.all (fun q => decide (q.1 ≠ 1)) = true ∧
     s.link.join.landed.length + 1 = s.link.join.total ∧ NotMigrating s) ∧
    ((joining 2097153).link.join.landed.length + 1 ≠ (joining 2097153).link.join.total ∧
      tget 0 (joining 1).link.join.fails 0 + 1 = 3 ∧ tget 0 (joining 1).link.join.fails 1 + 1 < 3) := by
  refine ⟨?_, ⟨?_, ?_, ?_, ?_, ?_,
    ?_, ?_, notMigrating_of ?_⟩, ?_⟩ <;> decide +kernel

theorem wit_powerAndReset :
    tb.phys.powered = true ∧ ({ tb with phys := { tb.phys with powered := false } } : State).phys.powered = false ∧
    ({ tb with ctxs := [] } : State).ctxs = [] ∧ (tb.ctx 1).live = true ∧ (up id).hif.service = 1 ∧ tb.hif.service ≠ 1 ∧
    ((up id).die 0).cmap.length ≤ 128 ∧ ((up id).die 1).cmap.length ≤ 128 ∧
    (up id).hif.service ≠ 0 ∧ (∀ d ∈ [0, 1], ((up id).die d).failed = []) ∧
    1 ≤ tget 0 ((tb.modCore 5 (fun c => { c with strands := [(3, 1)] })).core 5).strands 3 ∧ tget 0 (tb.core 5).strands 3 = 0 ∧
    tb.inHbm 0 = true ∧ (tb.coreKeys 0) ≠ [] ∧ tb.launches.all (fun p => !p.2.coop) = true ∧
    (∀ d ∈ [0, 1], (127 : Nat) ∉ (tb.die d).retired ∧ (127 : Nat) ∉ (tb.die d).failed) ∧
    (tb.core 0).teams = [1] := by
  decide +kernel

/-- More columns than a quadrant has spares for, whatever their number is. -/
theorem wit_powerAndReset_columns :
    0 < Config.spareColumns + 1 ∧ Config.spareColumns < tget 0 (tb.core 0).columns 0 + (Config.spareColumns + 1) :=
  ⟨Nat.succ_pos _, Nat.lt_of_lt_of_le (Nat.lt_succ_self _) (Nat.le_add_left _ _)⟩

theorem wit_signatureIndex :
    step tb = .next (match step tb with | .next t => t | _ => tb) ∧ tb.nv.n ≤ 1024 * tb.nv.f ∧ tb.nv.f ≤ 16384 :=
  ⟨rfl, by decide +kernel, by decide +kernel⟩

/-- A command of core 0's engine for one row of `m` words with no tags: KIND, source, destination. -/
def row (kind m : Nat) (sr dr tr : BitVec 256) : CopyCmd :=
  { fill with
    w := [BitVec.ofNat 32 (0xA0000 + kind), 0, 0, 0, 0, BitVec.ofNat 32 m, if kind = 3 then 0x100001 else 1, 0]
    s := sr
    d := dr
    t := tr }

/-- `HomeSeg`, as a Boolean. -/
def homeSegB (s : State) (n a : Nat) : Bool :=
  decide ((s.core n).segs.length < 128) && !(s.die (n / 96)).soft (a / 4096) &&
    (match tget DirSt.i (s.die (n / 96)).dir (a / 4096) with
     | .u _ => false
     | _ => true) && decide (∀ v ∈ (s.core n).segs, v.seg = a / 4096 → v.soft = false)

theorem homeSeg_of {s : State} {n a : Nat} (h : homeSegB s n a = true) : HomeSeg s n a := by
  unfold homeSegB at h
  simp only [Bool.and_eq_true, Bool.not_eq_true', decide_eq_true_eq] at h
  refine ⟨h.1.1.1, h.1.1.2, fun o ho => ?_, h.2⟩
  have h3 := h.1.2
  rw [ho] at h3
  exact Bool.false_ne_true h3

/-- `OneRow`, as a Boolean. -/
def oneRowB (s : State) (n id gk : Nat) (c : CopyCmd) (kind m : Nat) : Bool :=
  decide (
    s.cmdOf (.core n) id = some c ∧ s.cmdActive (.core n) c = true ∧ c.gk = some gk ∧ c.pstw = false ∧ c.pos = 0 ∧ c.sat = 0 ∧
    c.filling = [] ∧ c.reading = [] ∧ c.gather = none ∧ c.word 0 % 16 = kind ∧ c.word 0 / 2 ^ 16 % 4 = 2 ∧
    2 ≤ c.word 0 / 2 ^ 18 % 4 ∧ c.word 0 / 2 ^ 20 % 8 = 0 ∧ c.word 4 = 0 ∧ c.word 5 = m ∧ 0 < m ∧ m ≤ 32 ∧
    c.word 6 % 2 ^ 20 = 1 ∧ (kind = 3 → c.word 6 / 2 ^ 20 % 2 ^ 12 = 1) ∧ rRo c.d = false ∧ 0 < rExt1 c.d ∧
    c.word 3 + m ≤ rExt0 c.d)

theorem oneRow_of {s : State} {n id gk : Nat} {c : CopyCmd} {kind m : Nat} (h : oneRowB s n id gk c kind m = true) :
    OneRow s n id gk c kind m := of_decide_eq_true (p := _ ∧ _) h

/-- `RowAt`, as a Boolean. -/
def rowAtB (s : State) (tk : Nat) (rc : BitVec 256) (base : W64) (fmt w o m a : Nat) : Bool :=
  decide (rSpace rc = 0 ∧ rFmt rc = fmt ∧ rSwz rc = 0 ∧ rStr0 rc = w ∧ a = (s.team tk).base * 4096 + base.toNat + w * o ∧
    base.toNat + w * (o + m) ≤ (s.launch (s.team tk).launch).visible ∧ (s.launch (s.team tk).launch).visible ≤ 2 ^ 24 ∧
    (s.core (s.team tk).core).badSegs = []) &&
  (List.range (w * m)).all (fun i => decide (s.stamped (.data (s.team tk).core (a + i)) = .data (s.team tk).core (a + i)))

theorem rowAt_of {s : State} {tk : Nat} {rc : BitVec 256} {base : W64} {fmt w o m a : Nat}
    (h : rowAtB s tk rc base fmt w o m a = true) : RowAt s tk rc base fmt w o m a := by
  obtain ⟨h1, h2⟩ := (Bool.and_eq_true _ _).mp h
  obtain ⟨a1, a2, a3, a4, a5, a6, a7, a8⟩ := of_decide_eq_true h1
  refine ⟨a1, a2, a3, a4, a5, a6, a7, a8, fun b hb hb2 => ?_⟩
  have := of_decide_eq_true (List.all_eq_true.mp h2 (b - a) (List.mem_range.mpr (by omega)))
  rwa [Nat.add_sub_cancel' hb] at this

/-- Rows of 32 words at the two ends of the visible tile memory: FILL, COPY, CONVERT to BF16, GATHER whose table is a word
that reads 0, and REDUCE. -/
theorem wit_copyRows :
    let src := mk 0 32 1 4 8 0 0
    let dst := mk 3968 32 1 4 8 0 0
    (let c := row 1 32 0 (mk 3968 32 1 4 2 0 0) 0
     oneRowB (copying [c]) 0 7 64 c 1 32 = true ∧ rowAtB (copying [c]) 1 c.d (rBase c.d) 2 4 0 32 3968 = true) ∧
    (∀ k ∈ [0, 4], let c := row k 32 src dst 0
     oneRowB (copying [c]) 0 7 64 c k 32 = true ∧ (elementOf k).map (fun e => (e.1, e.2.1)) = some (8, 4) ∧ c.word 2 = 0 ∧
     0 < rExt1 c.s ∧ c.word 1 + 32 ≤ rExt0 c.s ∧ rowAtB (copying [c]) 1 c.s (rBase c.s) 8 4 0 32 0 = true ∧
     rowAtB (copying [c]) 1 c.d (rBase c.d) 8 4 0 32 3968 = true ∧ 0 + 4 * 32 ≤ 3968) ∧
    (let c := row 2 32 src (mk 4032 32 1 2 0x0A 0 0) 0
     oneRowB (copying [c]) 0 7 64 c 2 32 = true ∧ (elementOf 2).map (fun e => (e.1, e.2.1)) = some (0x0A, 2) ∧ rTcb c.d = 0 ∧
     rowAtB (copying [c]) 1 c.s (rBase c.s) 8 4 0 32 0 = true ∧ rowAtB (copying [c]) 1 c.d (rBase c.d) 0x0A 2 0 32 4032 = true) ∧
    (let c := row 3 32 src dst (mk 2048 1 1 8 2 0 0)
     oneRowB (copying [c]) 0 7 64 c 3 32 = true ∧ rowAtB (copying [c]) 1 c.t (rBase c.t) (rFmt c.t) (rStr0 c.t) 0 1 2048 = true ∧
     8 ≤ rStr0 c.t ∧ 0 < rExt0 c.t ∧ (0 : W64).toNat = leNat ((copying [c]).tread (.data 0 2048) 8) ∧ (0 : W64).toNat % 4 = 0 ∧
     rowAtB (copying [c]) 1 c.s 0 8 4 0 32 0 = true ∧ rowAtB (copying [c]) 1 c.d (rBase c.d) 8 4 0 32 3968 = true) := by
  decide +kernel

/-- One element to and from the last word of a scratchpad page and of the data page. -/
theorem wit_copySpaces :
    let tile := mk 4092 1 1 4 8 0 0
    let put := fun (sp b : Nat) => row 1 1 0 (mk b 1 1 4 2 sp 0) 0
    let get := fun (sp b : Nat) => row 0 1 (mk b 1 1 4 8 sp 0) tile 0
    let there := fun (c : CopyCmd) => (spad 0).modCore 0 (fun x => { x with copies := [c] })
    (OneRow (there (put 2 4092)) 0 7 64 (put 2 4092) 1 1 ∧ 4092 + 4 ≤ spadBytes ∧ (there (put 2 4092)).spadOk (0 / 96) 1 4092 = true ∧
      HomeSeg (there (put 2 4092)) 0 4092) ∧
    (OneRow (there (put 3 0x2FFFC)) 0 7 64 (put 3 0x2FFFC) 1 1 ∧ NotMigrating (there (put 3 0x2FFFC)) ∧
      ∃ x u, (there (put 3 0x2FFFC)).xlate (.copy 0) 1 0x2FFFC 0 false .write = (.ok x, u) ∧ x.tgt = 0) ∧
    (OneRow (there (get 2 4092)) 0 7 64 (get 2 4092) 0 1 ∧ RowAt (there (get 2 4092)) 1 tile (rBase tile) 8 4 0 1 4092 ∧
      (there (get 2 4092)).spadOk (0 / 96) 1 4092 = true ∧ HomeSeg (there (get 2 4092)) 0 4092) ∧
    (OneRow (there (get 3 0x2FFFC)) 0 7 64 (get 3 0x2FFFC) 0 1 ∧ RowAt (there (get 3 0x2FFFC)) 1 tile (rBase tile) 8 4 0 1 4092 ∧
      NotMigrating (there (get 3 0x2FFFC)) ∧
      ∃ x u, (there (get 3 0x2FFFC)).xlate (.copy 0) 1 0x2FFFC 0 false .read = (.ok x, u) ∧
        x.tgt = 0 ∧ x.pa % 4 = 0 ∧ (there (get 3 0x2FFFC)).pbad 0 x.pa 4 = false) := by
  refine ⟨⟨oneRow_of ?_, ?_, ?_, homeSeg_of ?_⟩, ⟨oneRow_of ?_, notMigrating_of ?_, ⟨0, 0x2FFFC, 0, 0x20007⟩, _, pair_of (ok_of ?_), ?_⟩,
    ⟨oneRow_of ?_, rowAt_of ?_, ?_, homeSeg_of ?_⟩, oneRow_of ?_, rowAt_of ?_, notMigrating_of ?_, ⟨0, 0x2FFFC, 0, 0x20007⟩, _, pair_of (ok_of ?_), ?_⟩ <;> decide +kernel

/-- A finished CONVERT to E4M3 keeps AMAX: block 1 at 0x20040; block 0 keeps none. -/
theorem wit_copyAmax :
    let c : CopyCmd := { row 2 1 (mk 0 1 1 4 8 0 0) (mk 4095 1 1 1 0x0B 0 0) 0 with st := .done, pos := 1, amax := 0x40000000 }
    let s := (copying [c]).modCtx 1 (fun x => { x with tcbbase := 0x20000 })
    (s.cmdOf (.core 0) c.id = some c ∧ c.st = .done ∧ c.follow = false ∧ c.gk = some 64 ∧ c.bound = [] ∧ c.cls ≠ 5 ∧
      (∀ p ∈ s.teams, p.2.st = .resident → p.2.saveCopies = []) ∧ c.qen = false ∧ c.kind = 2 ∧ rFmt c.d = 0x0B ∧ 0 < c.pos) ∧
    NotMigrating s ∧
    ∃ a u b w, s.xlate (.copy 0) (s.ctx 1).asid ((s.ctx 1).tcbbase + BitVec.ofNat 64 (64 * 1)) 0 true .read = (.ok a, u) ∧
      (u.l2range 0 a.pa 4 0 false).xlate (.copy 0) (s.ctx 1).asid ((s.ctx 1).tcbbase + BitVec.ofNat 64 (64 * 1)) 0 true .write =
        (.ok b, w) ∧ a.tgt = 0 ∧ b.tgt = 0 ∧ b.pa = a.pa := by
  refine ⟨?_, notMigrating_of ?_, ⟨0, 0x20040, 0, 0x20007⟩, _, ⟨0, 0x20040, 0, 0x20007⟩, _, pair_of (ok_of ?_), pair_of (ok_of ?_), ?_⟩ <;>
    decide +kernel

theorem viewIs_of {s : State} {cx h e : Nat} (a : XAddr)
    (hh : (decide (0 < h) && decide ((s.viewEntry cx h).1 = some e) &&
      okB ((s.xlate .link (s.ctx cx).asid ((s.ctx cx).viewAddr h) 0 true .write).1) a) = true) : ViewIs s cx h e := by
  simp only [Bool.and_eq_true, decide_eq_true_eq] at hh
  exact ⟨hh.1.1, hh.1.2, a, ok_of hh.2⟩

/-- A live view of version 5 with a third slot that has pages; SPIN of slots 0 and 2; LV of slot 1. -/
def view3 (spin0 spin2 lv1 : Nat) : Nat := view 5 spin2 + 2 ^ 128 * 0x30000 + 2 ^ 272 * spin0 + 2 ^ 416 * lv1

/-- PUBLISH with a pinned old slot; OPEN of the shadow's version; CLOSE of the last pin. -/
theorem wit_views_pins :
    (let s := viewing (view3 1 0 0) 0
     Runs s [u (.const 1)] [] s ∧ NotMigrating s ∧ ViewIs s 1 1 (view3 1 0 0) ∧ vShd (view3 1 0 0) ≠ 3 ∧
     0 < s.pins 1 1 (view3 1 0 0) (vCur (view3 1 0 0)) ∧ vCur (view3 1 0 0) < 3 ∧ vCur (view3 1 0 0) ≠ vShd (view3 1 0 0) ∧
     s.t.saveCopies.length = 0 ∧ (∀ k ∈ s.cores, k.2.copies = []) ∧ s.link.copies = [] ∧ s.released .device = true) ∧
    (let s := viewing (view3 0 1 7) 0
     let e := view3 0 1 7
     NotMigrating s ∧ ViewIs s 1 1 e ∧ ViewCached s 1 1 ∧ ViewIs s 1 2 0 ∧ ViewCached s 1 2 ∧ vKind e = 1 ∧ vKind 0 = 0 ∧
     vSpin e 1 < 255 ∧ vLv e 1 = 7 ∧ (∀ f < 1, vLv e f ≠ 7) ∧ 1 = vShd e ∧ e / 2 ^ 296 % 2 = 0 ∧ 1 ≠ vCur e ∧ vCur e < 3) ∧
    (let s := viewing (view3 0 1 0 + 2 ^ 252 * 2) snap
     let e := view3 0 1 0 + 2 ^ 252 * 2
     NotMigrating s ∧ ViewIs s 1 1 e ∧ ViewCached s 1 1 ∧ ViewIs s 1 2 snap ∧ ViewCached s 1 2 ∧ vKind snap = 2 ∧
     snap / 2 ^ 297 % 4 = 2 ∧ vKind e = 1 ∧ vSpin e 2 = 1 ∧ vShd e = 3 ∧ 2 ≠ vCur e ∧ s.copyPins 1 1 2 = 0) := by
  have hc : ∀ (s : State) (cx h : Nat),
      decide ((s.xlate .link (s.ctx cx).asid ((s.ctx cx).viewAddr h) 0 true .read).2 = s) = true → ViewCached s cx h :=
    fun s cx h hh => (of_decide_eq_true hh : (s.xlate .link (s.ctx cx).asid ((s.ctx cx).viewAddr h) 0 true .read).2 = s)
  let at1 : XAddr := ⟨0, 0x20040, 0, 0x20007⟩
  let at2 : XAddr := ⟨0, 0x20080, 0, 0x20007⟩
  refine ⟨⟨runs_of ?_, notMigrating_of ?_, viewIs_of at1 ?_, ?_⟩,
    ⟨notMigrating_of ?_, viewIs_of at1 ?_, hc _ _ _ ?_, viewIs_of at2 ?_, hc _ _ _ ?_, ?_⟩,
    notMigrating_of ?_, viewIs_of at1 ?_, hc _ _ _ ?_, viewIs_of at2 ?_, hc _ _ _ ?_, ?_⟩ <;> decide +kernel

/-- LVALUE of formats 0 and 1 at the end of the region; a TBRK that overflows by a byte under each policy; a dropped range. -/
theorem wit_tapeRecording_policies :
    (∀ n ∈ [28, 44], Records (taping (recording (4096 - n))) false n) ∧
    runAll ([28, 44].map (fun n => (taping (recording (4096 - n)), [⟨.v 126, false⟩, ⟨.v 127, false⟩], []))) = true ∧
    (∀ x ∈ [recording 4085, { recording 4085 with ovf := 1, inSpill := true, spillRec := region },
        { recording 4085 with ovf := 2, marked := true, pm := 12 }, { recording 4085 with ovf := 1, spillRec := region }],
      Overflows (taping x) false 12 ∧ runsB (taping x) [u (.g 1)] [] (taping x) = true ∧
      runsB (taping x) [u (.g 1)] [.g (uniReg (taping x) 63)] (taping x) = true ∧ Enters (taping x)) ∧
    (((recording 4085).stage.drop (recording 4085).full).map (fun r => r.bytes.length)).sum + 24 ≤ 4096 ∧ 24 ≤ rExt0 region ∧
    (let x := { recording (4096 - 12) with st := .dropping, ovf := 2 }
     runsB (taping x) [u (.g 1)] [] (taping x) = true ∧ runsB (taping x) [u (.g 1)] [.g (uniReg (taping x) 63)] (taping x) = true ∧
     (taping x).g.y.path 5 < 65535 ∧ ((taping x).g.stream false).st = .dropping ∧ 0 < (taping x).l.ntape ∧
     x.len + 12 ≤ rExt0 x.region) := by
  unfold Records Overflows Enters
  decide +kernel

/-- A differing TAG adopted; the last of four registers of Q0; Q1. -/
theorem wit_tapeReplay_adopt :
    (let s := taping { (replaying 0x18001111 [0]).g.s0 with divp := true }
     runsB s [] [.v 124, .v 125, .v 126, .v 127] s = true ∧ hdrTag 0x18001111 ≠ s.g.r.exm ∧ (s.g.stream false).divp = true ∧
     (∃ y, Runs s [u (.q 0)] [.v 127] y) ∧ s.g.y.qsel = false ∧ s.g.y.sampled = []) ∧
    (let s := taping { (replaying 0x1800FFFF [0]).g.s0 with q0 := 3 }
     (∃ y, Runs s [u (.q 0)] [.v 0] y) ∧ 3 < hdrNm1 0x1800FFFF + 1 ∧ ¬ 3 + 1 < hdrNm1 0x1800FFFF + 1) ∧
    (let s := replaying 0x4001FFFF [0]
     (∃ y, Runs s [u (.q 1)] [.g (uniReg s 63)] y) ∧ hdrKind 0x4001FFFF = .decision) := by
  have hr : ∀ (s : State) (a : List Sel) (d : List DReg), (okP (s.ready a d) (fun _ => true) && !s.g.y.stepArmed) = true →
      ∃ y, Runs s a d y := by
    intro s a d h
    obtain ⟨h1, h2⟩ := (Bool.and_eq_true _ _).mp h
    obtain ⟨y, hy, -⟩ := okP_of h1
    exact ⟨y, hy, by simpa using h2⟩
  refine ⟨⟨?_, ?_, ?_, hr _ _ _ ?_, ?_⟩, ⟨hr _ _ _ ?_, ?_⟩, hr _ _ _ ?_, ?_⟩ <;> decide +kernel

/-- A row of eight FP32 elements that ends with the visible tile memory. -/
def winRec : BitVec 256 := mk 4064 8 1 4 8 0 0 + BitVec.ofNat 256 (2 ^ 160 * 32)
/-- `queued` with two accumulators, and eight segments VALID. -/
def two (c : TileCmd) : State :=
  ((queued [c]).modTeam 1 (fun t => { t with accMap := [0, 1] })).modCore 0 (fun k =>
    { k with mdw := (List.range 8).map (fun i => (i, 2)) })

theorem window_of (s : State) (hv : (s.launch (s.team 1).launch).visible = 4096) : Window s 1 4 winRec 0 := by
  have h1 : rExt1 winRec = 1 := by decide +kernel
  have h0 : rExt0 winRec = 8 := by decide +kernel
  have hb : (rBase winRec).toNat = 4064 := by decide +kernel
  have hz : (0 : W32).toNat = 0 := rfl
  refine ⟨?_, ?_, ?_, ?_, ?_, ?_, by omega, fun k _ h => ?_⟩
  case refine_7 =>
    simp only [inWindow, windowAt, h1, h0, hb, hv, hz] at h ⊢
    have hk : k / 128 = 0 := by omega
    rw [hk]
    omega
  all_goals decide +kernel

/-- TSTA and TLDA of that row, whose last element is inside and the next outside; TDUAL. -/
theorem wit_tileRun_windows :
    let sta : TileCmd := ⟨1, 0, .tsta 0 0x880 0 winRec 0, 0, false⟩
    let lda : TileCmd := ⟨1, 0, .tlda 0 0 0 winRec, 0, false⟩
    let dual : TileCmd := ⟨1, 0, .tdual 0 1 0x0A0A 0 0, 0, false⟩
    (∀ c ∈ [sta, lda], ((queued [c]).core 0).queue[0]? = some c ∧ (queued [c]).canStart 0 0 = true ∧
      (queued [c]).tileBroken c = false ∧ (queued [c]).bregsReady c = true ∧ ((queued [c]).core 0).badSegs = [] ∧
      Window (queued [c]) 1 4 winRec 0) ∧
    (rFmt winRec = 8 ∧ rTcb winRec = 0 ∧ (0x880 : W32).toNat / 2 ^ 6 % 4 = 2 ∧ inWindow winRec 0 7 ∧ ¬ inWindow winRec 0 8) ∧
    (((two dual).core 0).queue[0]? = some dual ∧ (two dual).canStart 0 0 = true ∧ (two dual).tileBroken dual = false ∧
      (two dual).bregsReady dual = true ∧ ((two dual).team 1).phys 0 ≠ ((two dual).team 1).phys 1) ∧
    (let s := (queued []).modCore 0 (fun c => { c with running := [sta] })
     (s.core 0).running[0]? = some sta ∧ (s.team 1).core = 0) := by
  refine ⟨fun c hc => ?_, ?_, ?_, ?_⟩
  case refine_1 =>
    simp only [List.mem_cons, List.not_mem_nil, or_false] at hc
    rcases hc with rfl | rfl <;>
      exact ⟨by decide +kernel, by decide +kernel, by decide +kernel, by decide +kernel, by decide +kernel,
        window_of _ (by decide +kernel)⟩
  all_goals first | decide +kernel | (unfold inWindow; decide +kernel)

/-- Does an option hold something that `p` holds of? -/
def optP {α : Type} (r : Option α) (p : α → Bool) : Bool := match r with
  | some y => p y
  | none => false

theorem optP_of {α : Type} {r : Option α} {p : α → Bool} (h : optP r p = true) : ∃ x, r = some x ∧ p x = true := by
  cases r with
  | none => cases h
  | some y => exact ⟨y, rfl, h⟩

/-- The two last words of the data page, and of the pool page. -/
def near2 (sp : Nat) : BitVec 256 := mk (if sp = 3 then 0x2FFF8 else 0x3FFF8) 2 1 4 2 sp 0

/-- PUT of two registers by one thread to local HBM and to a pool node that a port reaches; a group that has sent before. -/
theorem wit_remoteSends_more :
    (∀ p ∈ [(3, 0), (4, 1)],
      let s := setX (setB net 3 (near2 p.1)) 1
      let i := Instr.put 126 tidx 1 3 none .none
      rSpace (near2 p.1) = p.1 ∧ (∃ f idx val, fabricForm s i = some ([tidx, u (.v 126), u (.v 127)], [], f, idx, val, none) ∧
        (okB (fcheck f.k (near2 p.1) idx val none s.sendSet)
            [⟨0, [⟨BitVec.ofNat 64 (if p.1 = 3 then 0x2FFF8 else 0x3FFF8), 4, 0⟩,
              ⟨BitVec.ofNat 64 (if p.1 = 3 then 0x2FFFC else 0x3FFFC), 4, 0⟩], none⟩] &&
          optP (planned s f p.2 [⟨BitVec.ofNat 64 (if p.1 = 3 then 0x2FFF8 else 0x3FFF8), 4, 0⟩,
              ⟨BitVec.ofNat 64 (if p.1 = 3 then 0x2FFFC else 0x3FFFC), 4, 0⟩] none) (fun q =>
            decide (q.1.map (fun e => e.2.1) =
                (if p.1 = 3 then [0x2FFF8, 0x2FFFC] else [0x3FFF8, 0x3FFFC])) &&
              (decide (p.1 = 3) || q.1.all (fun e => decide (q.2.2.link.fab.route (0x8000 + e.2.1 / 2 ^ 40) ≠ []))))) = true) ∧
      NotMigrating s ∧ runsB s [tidx, u (.v 126), u (.v 127)] [] s = true ∧ s.outstanding s.cur + 1 ≤ 256 ∧ s.link.fab.xfers = []) ∧
    (net.modY (fun y => { y with unsent := some (0x10000, 0x8001) })).g.y.unsent = some (net.g.r.pc, 0x8001) := by
  refine ⟨fun p hp => ?_, ?_⟩
  case refine_1 =>
    simp only [List.mem_cons, List.not_mem_nil, or_false] at hp
    rcases hp with rfl | rfl <;> exact ⟨by decide +kernel, ⟨_, _, _, rfl, by decide +kernel⟩,
      notMigrating_of (by decide +kernel), by decide +kernel⟩
  all_goals decide +kernel

/-- `net` with its membership changed. -/
def netMem (f : Member → Member) : State := net.modMem f
/-- A packet of this module to itself, on its way. -/
def looped (it : Item) : State := net.modFab (fun f => { f with loop := [⟨0, 9, 0, 0, false, 5, [0], [it]⟩] })

/-- Packets from another slot come in as they are; from this one, where they have left. SRC with a high byte; another
generation; a fenced and a held module; an unknown job; a second copy. -/
theorem wit_servedPackets_gate :
    (∀ s ∈ [net, netMem (fun m => { m with fenced := true }), netMem (fun m => { m with held := true })],
      hdr.src.toNat ≠ s.link.mem.slot ∧ hdr.src.toNat < 256 ∧ hdr.gen = s.link.mem.gen) ∧
    (netMem (fun m => { m with fenced := true })).link.mem.fenced = true ∧
    ((netMem (fun m => { m with held := true })).holding = true ∧ (netMem (fun m => { m with held := true })).link.mem.fenced = false) ∧
    (256 ≤ ({ hdr with src := 256 } : Hdr).src.toNat ∧ ({ hdr with src := 256 } : Hdr).src.toNat ≠ net.link.mem.slot) ∧
    ({ hdr with gen := 1 } : Hdr).gen ≠ net.link.mem.gen ∧
    (let p : Packet := ⟨0, 9, 1, 0, false, 0xFFFFFFFF, [0], [.ack]⟩
     (net.modFab (fun f => { f with served := [(1, 0xFFFFFFFF, p)] })).link.fab.servedFor hdr = [p]) ∧
    (net.link.fab.servedFor { hdr with job := 8 } = [] ∧ net.ctxOfJob ({ hdr with job := 8 } : Hdr).job = none) ∧
    (let h : Hdr := ⟨0, 9, 0, 5, false⟩
     let it : Item := .put ⟨[⟨0x2FFFC, [1]⟩], none⟩
     h.src.toNat = (looped it).link.mem.slot ∧ ((looped it).carried h [it]).isSome = true) := by
  decide +kernel

/-- The first transfer of its packet; this module's own slot with the reply on its way; a number with no transfer. -/
theorem wit_transferEnds_replies :
    let x := fun (dst : Nat) => (⟨0, .put, 64, 0, .none, 9, dst, 5, 0, 0x1000100001000, .put ⟨[], none⟩, none, 0, false⟩ : Xfer)
    ((sending (x 1)).link.fab.xfer 0 = some (x 1) ∧ (sending (x 1)).link.fab.firstOf (x 1) = true ∧ (x 1).dst ≠ (sending (x 1)).link.mem.slot) ∧
    (let s := (sending (x 0)).modFab (fun f => { f with loop := [⟨0, 9, 0, 0, true, 5, [0], [.ack]⟩] })
     s.link.fab.xfer 0 = some (x 0) ∧ s.link.fab.firstOf (x 0) = true ∧ (x 0).dst = s.link.mem.slot ∧
     (s.link.fab.loop.find? (fun k => decide (k.seq = (x 0).seq) && decide (k.items = [.ack]))).isSome = true) ∧
    ((sending (x 1)).modFab (fun f => { f with late := [(7, 2)] })).link.fab.xfer 7 = none := by
  decide +kernel

/-- A port that dies with a packet that another port reaches, in a module that is fenced or held. -/
theorem wit_linkEvents_held :
    ∀ s ∈ [laden 0, (laden 0).modMem (fun m => { m with fenced := true }), (laden 0).modMem (fun m => { m with held := true })],
      (s.link.fab.port 17).dead = false ∧ s.link.colls = [] ∧ s.link.join.st ≠ .opening ∧ s.link.join.st ≠ .pull ∧
      (s.link.fab.port 17).buf = [⟨pk1, 3, 0⟩] ∧
      (s.link.fab.modPort 17 (fun _ => ⟨true, [], 4, 0⟩)).choose pk1.dst = some 0 ∧ toPool pk1.dst = false := by
  decide +kernel

/-- A payload of sixteen bytes that ends with a scratchpad page. -/
def payPad : BitVec 256 := mk 4080 4 1 4 2 2 0
/-- `net` on a die whose scratchpad segment 0 belongs to its address space. -/
def netPad : State := { net with dies := (spad 0).dies }
/-- Bytes that tell their places. -/
def sixteen : List Byte := (List.range 16).map (fun i => BitVec.ofNat 8 (i + 1))

/-- `InScratch`, as a Boolean. -/
def inScratchB (s : State) (cx : Nat) (r : Recv) (a n : Nat) : Bool :=
  let d := r.home / 96
  decide (rSpace r.rcd = 2 ∧ rRo r.rcd = false ∧ 0 < rExt1 r.rcd ∧ a = (rBase r.rcd).toNat ∧ a + n ≤ spadBytes) &&
  optP (payEsz r.rcd) (fun z => decide (rStr0 r.rcd = z ∧ n ≤ z * rExt0 r.rcd)) &&
  (List.range n).all (fun i => s.spadOk d (s.ctx cx).asid (a + i) && !(s.die d).soft ((a + i) / 4096) &&
    (match tget DirSt.i (s.die d).dir ((a + i) / 4096) with
     | .u _ => false
     | _ => true))

theorem inScratch_of {s : State} {cx : Nat} {r : Recv} {a n : Nat} (h : inScratchB s cx r a n = true) : InScratch s cx r a n := by
  unfold inScratchB at h
  obtain ⟨⟨h1, h2⟩, h3⟩ : (_ ∧ _) ∧ _ := by simpa only [Bool.and_eq_true] using h
  obtain ⟨a1, a2, a3, a4, a5⟩ := of_decide_eq_true h1
  obtain ⟨z, hz, hz2⟩ := optP_of h2
  refine ⟨a1, a2, ⟨z, hz, of_decide_eq_true hz2⟩, a3, a4, a5, fun b hb hb2 => ?_⟩
  have h4 := List.all_eq_true.mp h3 (b - a) (List.mem_range.mpr (by omega))
  rw [Nat.add_sub_cancel' hb] at h4
  simp only [Bool.and_eq_true, Bool.not_eq_true'] at h4
  refine ⟨h4.1.1, h4.1.2, fun o ho => ?_⟩
  have h5 := h4.2
  rw [ho] at h5
  exact Bool.false_ne_true h5

/-- A receive that takes a queued eager message of sixteen bytes, the last ones of a scratchpad page. -/
theorem wit_messagesStart_payload :
    let un : Unexp := ⟨msg 0 16, sixteen, false, false⟩
    let s := setB (block (netPad.modCtx 1 (fun c => { c with unexp := [un] })) [0x30001, 0x10000, 7, 0, 4, 0, 0]) 3 payPad
    let r := s.newRecv (s.cmds 8 7) payPad 0 0
    Runs s (blockSels 8 7) [.g (uniReg s 63)] s ∧ s.g.y.path 6 < 65535 ∧ rpostBad (s.cmds 8 7) payPad 0 = none ∧
    s.g.r.getB ((s.cmd 8 0).toNat / 2 ^ 16 % 16) = payPad ∧ (s.ctx 1).handle = 0 ∧ 0 ∉ (s.ctx 1).handles ∧
    (0 + 1) % 16384 ∉ 0 :: (s.ctx 1).handles ∧ (s.ctx 1).unexp = [] ++ un :: [] ∧ r.takes un.hdr = true ∧
    un.bytes.take (min un.hdr.len r.cap) = sixteen ∧ sixteen ≠ [] ∧ InScratch s 1 r 4080 sixteen.length := by
  refine ⟨runs_of ?_, ?_, ?_, ?_, ?_, ?_, ?_, ?_, ?_, ?_, ?_, inScratch_of ?_⟩ <;> decide +kernel

/-- The owner's chunk of an ALLGATHER, a BROADCAST and an ALLTOALL, read and written; another index's chunk; a BARRIER. -/
theorem wit_messagesAsk_kinds :
    (∀ kd ∈ [2, 3, 4], let c := coll kd
      let s := setG (reducing [c]) 5 5
      let c1 := { c with fired := [0] }
      let c2 := { c1 with sent := [0] }
      Runs s [u (.g 5)] [] s ∧ s.collOf 1 5 = some c ∧ dKind c.w = kd ∧ dQfmt c.w = 0 ∧ 0 < dRanks c.w * dCps c.w ∧ 0 / dCps c.w = c.p ∧
      dRoot c.w = c.p ∧ (dRange c.w 0).2 ≠ 0 ∧ (dRange c.w 0).2 * max 1 (dEsz c.w) ≤ 8192 ∧ rSpace (dRec c.w true) = 3 ∧
      c2.complete = false ∧
      ∃ xs v, (s.putColl c1).collRead c1 (dRange c.w 0).1 (dRange c.w 0).2 = (.ok xs, v) ∧
        (decide (((v.putColl c2).collWrite c2 0 (dRange c.w 0).1 (unmarked xs)).1 = none) &&
         (let w := ((v.putColl c2).collWrite c2 0 (dRange c.w 0).1 (unmarked xs)).2
          decide (w.g = s.g ∧ w.cur = s.cur ∧ w.groups = s.groups ∧ w.link.colls = (s.putColl c2).link.colls ∧
            w.peerSt (c.ranks.getD 1 0) = .go 1))) = true) ∧
    (2 < dRanks (coll 4).w * dCps (coll 4).w ∧ 2 / dCps (coll 4).w ≠ (coll 4).p ∧ (dRange (coll 4).w 2).2 ≠ 0 ∧
      net.peerSt ((coll 4).ranks.getD (2 / dCps (coll 4).w) 0) = .go 1) ∧
    (let c := coll 6
     let s := setG (reducing [c]) 5 5
     Runs s [u (.g 5)] [] s ∧ s.collOf 1 5 = some c ∧ dKind c.w = 6 ∧ 0 < dRanks c.w * dCps c.w ∧ c.heldPk = [] ∧
     [0, 1].length = dRanks c.w ∧ 1 < dRanks c.w ∧ c.p < dRanks c.w ∧ s.peerSt (c.ranks.getD 1 0) = .go 1) := by
  refine ⟨fun kd hk => ?_, ?_, runs_of ?_, ?_⟩
  case refine_1 =>
    simp only [List.mem_cons, List.not_mem_nil, or_false] at hk
    rcases hk with rfl | rfl | rfl <;>
      exact ⟨runs_of (by decide +kernel), by decide +kernel, by decide +kernel, by decide +kernel, by decide +kernel,
        by decide +kernel, by decide +kernel, by decide +kernel, by decide +kernel, by decide +kernel, by decide +kernel,
        pairP_of (by decide +kernel)⟩
  all_goals decide +kernel

/-- Messages from another slot come in as they are; a held second copy; a held next one; a payload into scratchpad memory; the
PULL and PDATA of another slot. -/
theorem wit_messagePackets_held :
    let un : Unexp := ⟨msg 1 4, [1, 2, 3, 4], false, true⟩
    ((msg 0 16).src.toNat ≠ net.link.mem.slot ∧ net.msgIn (msg 0 16) (.msg (msg 0 16).args sixteen) = some net) ∧
    (let s := netCtx (fun c => { c with unexp := [un] })
     Served { s with link := { s.link with eager := 4 } } (msg 0 16).head 1 ∧
     (s.ctx 1).unexp = [] ++ un :: [] ∧ un.ahead = true ∧ msgKey un.hdr = msgKey (msg 0 16) ∧ un.hdr.num = (msg 0 16).num + 1 ∧
     un.held ≤ 4 ∧ (s.ctx 1).posted = [] ∧ tget 0 (s.ctx 1).recvNo (msgKey (msg 0 16)) = (msg 0 16).num ∧
     ¬ (∀ v ∈ (s.ctx 1).unexp, v.ahead = true → msgKey v.hdr ≠ msgKey (msg 1 4) ∨ v.hdr.num ≠ (msg 1 4).num)) ∧
    (let r := { recv0 with rcd := payPad, home := 0 }
     let s := netPad.modCtx 1 (fun c => { c with posted := [r] })
     Served s (msg 0 16).head 1 ∧ (s.ctx 1).posted = [] ++ r :: [] ∧ r.takes (msg 0 16) = true ∧ (s.ctx 1).unexp = [] ∧
     sixteen.take (min (msg 0 16).len r.cap) = sixteen ∧ InScratch s 1 r 4080 sixteen.length) ∧
    (net.carriedBy hdr (pullItem ((net.ctxOfJob hdr.job).bind (fun cx => net.sendOf cx 3)) 0 16) = some net ∧
      net.carriedBy hdr (pdataItem (net.takenOf 1 5) 0 sixteen) = some net) := by
  refine ⟨?_, ⟨?_, ?_⟩, ⟨?_, ?_, ?_, ?_, ?_, inScratch_of ?_⟩, ?_⟩ <;> first | decide +kernel | (unfold Served; decide +kernel)

/-- The module in service with slot `slot` rung, which holds a request of code `code`. -/
def rung (slot code : Nat) : State :=
  up (fun h => { h with bells := [slot], mail := mset [] (64 * slot) (BitVec.ofNat 8 code) })
/-- `s` with every port dead. -/
def cutOff (s : State) : State :=
  (List.range 18).foldl (fun x p => x.modFab (fun f => f.modPort p (fun q => { q with dead := true }))) s

/-- Any request can be rung, in the first slot and in the last; a load passes other loads; one that is not rung. -/
theorem wit_rung :
    (∀ slot ∈ [0, 63], ∀ code ∈ (List.range 17).drop 1, Rung (rung slot code) slot code ∧ (rung slot code).hif.service ≠ 0) ∧
    Rung ((rung 5 4).modHif (fun h => { h with loads := [(1, 1, 0, 0)] })) 5 4 ∧
    Rung ((rung 5 16).modHif (fun h => { h with service := 0 })) 5 16 ∧
    ¬ Rung (up id) 0 1 := by
  unfold Rung
  decide +kernel

/-- A doorbell: with no known code, in recovery, and with a known one. -/
theorem wit_mailboxRequests_doorbell :
    (let s := up (fun h => { h with mail := mset [] 64 17 })
     s.hif.d3hot = false ∧ s.hif.bells = [] ∧ s.hif.codeAt 0 = 0 ∧ 16 < s.hif.codeAt 1) ∧
    (let h := (rung 1 16).hif
     0 < h.codeAt 1 ∧ h.codeAt 1 ≤ 16 ∧ h.service ≠ 0 ∧ ({ h with service := 0 } : HostIf).service = 0) := by
  decide +kernel

/-- A descriptor at 0x27000 for rank 0, generation 3, one region of 512 bytes, one peer in slot 1. -/
def joinDesc : List W32 :=
  [0x30000, 0x10001, 0x26000, 0, 0x26100, 0, 0x25000, 0, 0x26200, 0, 1, 0, 0, 0, 0, 0]
/-- A spare module so told, its request in slot 3. -/
def spare : State :=
  poke (poke (poke (poke (rung 3 12) 0x25000 [0x30002, 0, 0, 0, 0x80018000]) 0x27000 joinDesc) 0x26000 [0x90001]) 0x26100
    [5, 2, 0x20000, 0, 0, 0, 512, 0]
/-- Its join waits for the answers of its peers. -/
def opening (f : Join → Join) : State :=
  tb.modJoin (fun j => f { j with st := .opening, w := joinDesc, regions := [(5, 2, 0x20000, 0, 512)], peers := [(9, 1)], rot := [0] })

theorem wit_mailboxRequests_join :
    (let s := popped spare
     Rung spare 3 12 ∧ s.link.join.st = .idle ∧ NotMigrating s ∧ s.hbmWords 0x27000 16 = joinDesc ∧
     (s.modJoin (fun _ => { Join.reset with st := .opening, w := joinDesc })).joinBad joinDesc = none ∧ s.mayJoin = true ∧
     s.link.mem.fenced = false ∧ dWord joinDesc 1 / 2 ^ 16 % 2 ^ 8 = 1 ∧
     s.hbmWords (dNum joinDesc 2 2 % 2 ^ 52) 1 = [0x90001] ∧ s.link.fab.route 1 ≠ []) ∧
    (∀ n ∈ [0, 1], let s := opening (fun j => { j with rot := List.range (n + 1), peers := j.peers ++ [(9, 2)] })
      let j := s.link.join
      j.st = .opening ∧ 0 ∈ j.rot ∧ s.link.mem.fenced = false ∧ s.holding = false ∧ j.wanted 0 5 2 = some 0 ∧ 0 + 512 ≤ 65536 * 1 ∧
      Join.opened { j with snaps := j.snaps ++ [(0, 0, 7)] } = decide (n = 0) ∧ j.total ≠ 0 ∧ j.out = [] ∧ j.next = 0 ∧ j.again = [] ∧
      j.regions.getD 0 (0, 0, 0, 0, 0) = (5, 2, 0x20000, 0, 512)) ∧
    NotMigrating (opening id) ∧
    (∀ cls ∈ [0, 7], let s := opening (fun j => { j with st := .closing, fin := some (cls, 65535, true), snaps := [(0, 0, 7)] })
      s.link.join.st = .closing ∧ s.link.join.fin = some (cls, 65535, true) ∧ s.link.join.snaps = [(0, 0, 7)] ∧ cls < 8) ∧
    NotMigrating (opening (fun j => { j with st := .closing, fin := some (0, 65535, true), snaps := [(0, 0, 7)] })) := by
  refine ⟨⟨?_, ?_, notMigrating_of ?_, ?_⟩, ?_, notMigrating_of ?_, ?_, notMigrating_of ?_⟩
  case refine_1 => unfold Rung; decide +kernel
  all_goals decide +kernel

/-- The last team that a DRAIN waits for. -/
theorem wit_mailboxRequests_drain :
    let s := { withT (fun t => { t with st := .boundary }) with groups := [(64, grp0)], hif := (up (fun h => { h with drains := [63] })).hif }
    s.hif.drains = [63] ∧ s.maySave 1 = true ∧ s.teams.map (fun p => p.1) = [1] := by
  decide +kernel

/-- A fault request of the host; a refused place; a line that moves to and from pool memory, one whose packet fails; an early
repeat of each kind of request. -/
theorem wit_memorySystem_host :
    (Rung (rung 5 9) 5 9 ∧ (popped (rung 5 9)).inHbm 0 = true ∧
      ((popped (rung 5 9)).stk ((popped (rung 5 9)).stackOf 0)).early 0 0 true 0 = false ∧
      (popped (rung 5 9)).migrating 0 0 65536 = false ∧ (popped (rung 5 9)).migrating 2 0x10000 65536 = false ∧
      (((popped (rung 5 9)).stk ((popped (rung 5 9)).stackOf 0)).entry 0).st = .idle) ∧
    (∀ p ∈ [(0, 1), (1, 0), (1, 1), (0, 0), (0, 2)],
      let s := moving { moveOf 0x100000 p.1 0x200000 p.2 false with run := true }
      let e := (s.stk 0).entry 3
      let r := s.poolAsk 0 (.read 0x100000 256)
      e.otgt = p.1 ∧ e.ntgt = p.2 ∧ e.st = .moving ∧ e.prog = 0 ∧ r.1 = none ∧
      ((if p.1 = 1 then r.2 else s).poolAsk 0 (.write 0x200000 (mread (s.image e.otgt) (e.old + e.prog * 256) 256))).1 = none) ∧
    (let s := { moving { moveOf 0x100000 1 0x200000 0 false with run := true } with answers := [(3, false)] }
     ((s.stk 0).entry 3).st = .moving ∧ ((s.stk 0).entry 3).run = true ∧ ((s.stk 0).entry 3).otgt = 1 ∧
     (s.poolAsk 0 (.read 0x100000 256)).1 = some 3) ∧
    (∀ host ∈ [false, true], (({ tb.stk 0 with lost := [(1, 0, host, 0)] } : Stack).early 1 0 host 70399 = true ∧
      ({ tb.stk 0 with lost := [(1, 0, host, 0)] } : Stack).early 1 0 host 70400 = false)) := by
  refine ⟨?_, ?_, ?_, ?_⟩
  case refine_1 => unfold Rung; decide +kernel
  all_goals decide +kernel

/-- An activation whose other rank a port still reaches, and one whose other rank none reaches. -/
theorem wit_collectives_reach :
    (let y := (readRanks (asked (desc 0))).2
     (∀ k ∈ [0, 1], y.peerSt k ≠ .fail 6) ∧ y.link.early = []) ∧
    (let s := cutOff (asked (desc 0))
     let y := (readRanks s).2
     okB (readDesc s).1 ((desc 0).map (fun x => x.toNat)) = true ∧ okB (readRanks s).1 [0, 1] = true ∧
     dKind (desc 0) ≠ 3 ∧ [0, 1][1]? = some 1 ∧ (1 : Nat) ≠ 0 ∧ y.peerSt 1 = .fail 6 ∧
     s.link.collWait = [⟨1, 5, 0, some 0x20040, none, []⟩]) ∧
    (let c : Coll := { coll 0 with node := some 0x20040 }
     let m : CollMsg := { cmsg 0 0 4 [1] with err := some (4, 0) }
     Served (reducing [c]) hdr 1 ∧ (reducing [c]).collOf 1 5 = some c ∧ m.err = some (4, 0) ∧ c.act = m.act ∧
     dComm c.w = m.comm.toNat) := by
  refine ⟨?_, ?_, ?_⟩
  case refine_3 => unfold Served; decide +kernel
  all_goals decide +kernel

/-- Both power states; a stopped group at the head of the debug list; a slot for a key, its signature of no bytes; a quote that has
room, one that has none, one past the last index. -/
theorem wit_hostWindow_more :
    ((up id).hif.d3hot = false ∧ (up (fun h => { h with d3hot := true })).hif.d3hot = true) ∧
    (let s := (up (fun h => { h with dbg := [64] })).modGrp 64 (fun g => { g with y := { g.y with status := .debug } })
     s.hif.d3hot = false ∧ s.hif.dbg = 64 :: [] ∧ (s.grp 64).y.status = .debug) ∧
    (let s := (rung 5 5).modHif (fun h => { h with keys := [(7, some ([1], true))] })
     Rung s 5 5 ∧ (popped s).hif.key 7 = some ([1], true) ∧ (List.replicate 68 (0 : Byte)).length = 68 ∧
     xmssVerify [1] (BitVec.ofNat 8 1 :: List.replicate 68 0) [] = false) ∧
    (let s := popped (rung 5 6)
     Rung (rung 5 6) 5 6 ∧ s.inHbm 0x29000 = true ∧ s.inHbm (0x29000 + 5644) = true ∧ NotMigrating s ∧ s.nv.n % 1024 = 0 ∧
     s.nv.f < 16384 ∧ s.inHbm (2 ^ 52) = false ∧
     16384 ≤ ({ s with nv := { s.nv with n := 16777216, f := 16384 } } : State).nv.f ∧ 16777216 % 1024 = 0 ∧ 5 % 1024 ≠ 0) ∧
    isCanon (BitVec.ofNat 64 0x200000) = true ∧ (boxed 0).ctxs.any (fun p => p.2.live) = true := by
  refine ⟨?_, ?_, ?_, ⟨?_, ?_, ?_, notMigrating_of ?_, ?_⟩, ?_⟩
  case refine_3 => unfold Rung; decide +kernel
  case refine_4 => unfold Rung; decide +kernel
  all_goals decide +kernel

/-- SHAKE256 of no bytes (the first 32 bytes of the published test vector of FIPS 202). -/
theorem test_shake256 :
    shakeBytes [] = leBytes 32 0x2f76d56e64270cb5821bb862ea52cd3f24eb3e74eb3f3b23138da80b2bddb946 := by
  decide +kernel

/-- A stripe of a module that is not fenced and not held, the snapshots of its join closed or open; a packet kept back; a join
that the fence ends. -/
theorem wit_tinCry_more :
    ((joining 1).link.mem.fenced = false ∧ (joining 1).holding = false ∧ (joining 1).link.join.snaps = [] ∧
      ((joining 1).modJoin (fun j => { j with snaps := [(0, 0, 7)] })).link.join.snaps ≠ []) ∧
    (let k : Packet := ⟨0, 9, 1, 0, false, 5, [0], [.ack]⟩
     let s := (pod id).modFab (fun f => { f with parked := [k] })
     s.link.join.st ≠ .pull ∧ s.link.mem.fenced = false ∧ s.link.fab.parked = [k] ∧ s.link.fab.route k.dst ≠ []) ∧
    (∀ st ∈ [JoinSt.opening, .pull], let s := (pod id).modJoin (fun j => { j with st := st })
      s.link.mem.cfg = some cfg1 ∧ s.link.mem.fenced = false ∧ s.link.join.st = st ∧ s.link.join.snaps = []) := by
  decide +kernel

/-- The stages of power; a firmware push; a lane, a segment and an accumulator within their ranges. The second clause of
`SignatureIndex` speaks of a QUOTE that signs: the device's secrets have no value that an evaluation could show. -/
theorem wit_powerAndReset_stages :
    ({ tb with phys := { tb.phys with powered := false, v48 := false } } : State).phys.v48 = false ∧
    (∀ r ∈ [0, 5], let p : Phys := { tb.phys with powered := false, rails := r, state := 0 }
      p.v48 = true ∧ p.powered = false ∧ p.state = 0 ∧ p.offst ≠ 1 ∧ p.rails < 6) ∧
    (let p : Phys := { tb.phys with powered := false, rails := 6, state := 0 }
     p.v48 = true ∧ p.rails = 6) ∧
    (let p : Phys := { tb.phys with powered := false, offst := 1 }
     p.v48 = true ∧ p.offst = 1) ∧
    (∃ s slot, Rung s slot 16) := by
  refine ⟨?_, ?_, ?_, ?_, rung 5 16, 5, ?_⟩
  case refine_5 => unfold Rung; decide +kernel
  all_goals decide +kernel


/-! A word of every encoded instruction, put together field by field from the encodings of spec/06 R140 to R146 and the
extension words of 07 R162, R166, 08 R193, 10 R250 and 11 R280. -/

/-- Do the words decode to their instructions, and encode back? -/
def wordsB (l : List (Nat × Nat × Instr)) : Bool :=
  l.all (fun p => okB (decodeWords p.1 p.2.1) p.2.2 && decide (encode p.2.2 = if twoWords p.1 then [p.1, p.2.1] else [p.1]))

theorem test_decode_iadd_to_popc : wordsB [
    (0x010E1285, 0, .iadd 67 ⟨.v 9, true⟩ ⟨.g 5, false⟩),
    (0x030E1285, 0, .isub 67 ⟨.v 9, true⟩ ⟨.g 5, false⟩),
    (0x050E1285, 0, .imul 67 ⟨.v 9, true⟩ ⟨.g 5, false⟩),
    (0x070E1285, 0, .imulh 67 ⟨.v 9, true⟩ ⟨.g 5, false⟩),
    (0x090E1285, 0, .imulhu 67 ⟨.v 9, true⟩ ⟨.g 5, false⟩),
    (0x0B0E1285, 0, .imad 67 ⟨.v 9, true⟩ ⟨.g 5, false⟩),
    (0x0D0E1285, 0, .imin 67 ⟨.v 9, true⟩ ⟨.g 5, false⟩),
    (0x0F0E1285, 0, .imax 67 ⟨.v 9, true⟩ ⟨.g 5, false⟩),
    (0x110E1285, 0, .umin 67 ⟨.v 9, true⟩ ⟨.g 5, false⟩),
    (0x130E1285, 0, .umax 67 ⟨.v 9, true⟩ ⟨.g 5, false⟩),
    (0x150E1285, 0, .and 67 ⟨.v 9, true⟩ ⟨.g 5, false⟩),
    (0x170E1285, 0, .or 67 ⟨.v 9, true⟩ ⟨.g 5, false⟩),
    (0x190E1285, 0, .xor 67 ⟨.v 9, true⟩ ⟨.g 5, false⟩),
    (0x1B0E1285, 0, .andn 67 ⟨.v 9, true⟩ ⟨.g 5, false⟩),
    (0x1D0E1285, 0, .shl 67 ⟨.v 9, true⟩ ⟨.g 5, false⟩),
    (0x1F0E1285, 0, .shr 67 ⟨.v 9, true⟩ ⟨.g 5, false⟩),
    (0x210E1285, 0, .sar 67 ⟨.v 9, true⟩ ⟨.g 5, false⟩),
    (0x230E1285, 0, .rot 67 ⟨.v 9, true⟩ ⟨.g 5, false⟩),
    (0x24710985, 0, .icmp .ge 17 (.v 9) (.g 5)),
    (0x26710985, 0, .ucmp .ge 17 (.v 9) (.g 5)),
    (0x28710985, 0, .fcmp .ge 17 (.v 9) (.g 5)),
    (0x2B0E1200, 0, .popc 67 ⟨.v 9, true⟩)] = true := by
  decide +kernel

theorem test_decode_clz_to_xred_max : wordsB [
    (0x2B0E1201, 0, .clz 67 ⟨.v 9, true⟩),
    (0x2B0E1202, 0, .ctz 67 ⟨.v 9, true⟩),
    (0x2B0E1203, 0, .brev 67 ⟨.v 9, true⟩),
    (0x2B0E1204, 0, .bswap 67 ⟨.v 9, true⟩),
    (0x2B0E1205, 0, .sext8 67 ⟨.v 9, true⟩),
    (0x2B0E1206, 0, .sext16 67 ⟨.v 9, true⟩),
    (0x2B0E1207, 0, .zext8 67 ⟨.v 9, true⟩),
    (0x2B0E1208, 0, .zext16 67 ⟨.v 9, true⟩),
    (0x2B0E1209, 0, .not 67 ⟨.v 9, true⟩),
    (0x2B0E120A, 0, .neg 67 ⟨.v 9, true⟩),
    (0x2B0E120B, 0, .abs 67 ⟨.v 9, true⟩),
    (0x2D0E1285, 0, .bfe 67 ⟨.v 9, true⟩ ⟨.g 5, false⟩),
    (0x2F0E1285, 0, .bfi 67 ⟨.v 9, true⟩ ⟨.g 5, false⟩),
    (0x310E1285, 0, .clmul 67 ⟨.v 9, true⟩ ⟨.g 5, false⟩),
    (0x330E1285, 0, .clmulh 67 ⟨.v 9, true⟩ ⟨.g 5, false⟩),
    (0x350E1285, 0, .shfl 67 ⟨.v 9, true⟩ ⟨.g 5, false⟩),
    (0x370E1285, 0, .shflx 67 ⟨.v 9, true⟩ ⟨.g 5, false⟩),
    (0x390E1285, 0, .shflu 67 ⟨.v 9, true⟩ ⟨.g 5, false⟩),
    (0x3B0E1285, 0, .shfld 67 ⟨.v 9, true⟩ ⟨.g 5, false⟩),
    (0x3D0E1220, 0, .xredAdd .forerunner 67 ⟨.v 9, true⟩),
    (0x3D0E1221, 0, .xredMin .forerunner 67 ⟨.v 9, true⟩),
    (0x3D0E1222, 0, .xredMax .forerunner 67 ⟨.v 9, true⟩)] = true := by
  decide +kernel

theorem test_decode_xred_umin_to_flog2 : wordsB [
    (0x3D0E1223, 0, .xredUmin .forerunner 67 ⟨.v 9, true⟩),
    (0x3D0E1224, 0, .xredUmax .forerunner 67 ⟨.v 9, true⟩),
    (0x3D0E1225, 0, .xredAnd .forerunner 67 ⟨.v 9, true⟩),
    (0x3D0E1226, 0, .xredOr .forerunner 67 ⟨.v 9, true⟩),
    (0x3D0E1227, 0, .xredXor .forerunner 67 ⟨.v 9, true⟩),
    (0x3D0E1228, 0, .xredFadd .forerunner 67 ⟨.v 9, true⟩),
    (0x3D0E1229, 0, .xredFmin .forerunner 67 ⟨.v 9, true⟩),
    (0x3D0E122A, 0, .xredFmax .forerunner 67 ⟨.v 9, true⟩),
    (0x3F0E1200, 0, .mov 67 ⟨.v 9, true⟩),
    (0x410E1285, 0, .fadd 67 ⟨.v 9, true⟩ ⟨.g 5, false⟩),
    (0x430E1285, 0, .fsub 67 ⟨.v 9, true⟩ ⟨.g 5, false⟩),
    (0x450E1285, 0, .fmul 67 ⟨.v 9, true⟩ ⟨.g 5, false⟩),
    (0x470E1285, 0, .ffma 67 ⟨.v 9, true⟩ ⟨.g 5, false⟩),
    (0x490E1285, 0, .fmin 67 ⟨.v 9, true⟩ ⟨.g 5, false⟩),
    (0x4B0E1285, 0, .fmax 67 ⟨.v 9, true⟩ ⟨.g 5, false⟩),
    (0x4D0E1200, 0, .fabs 67 ⟨.v 9, true⟩),
    (0x4D0E1201, 0, .fneg 67 ⟨.v 9, true⟩),
    (0x4D0E1202, 0, .frcp 67 ⟨.v 9, true⟩),
    (0x4D0E1203, 0, .frsq 67 ⟨.v 9, true⟩),
    (0x4D0E1204, 0, .fsqrt 67 ⟨.v 9, true⟩),
    (0x4D0E1205, 0, .fexp2 67 ⟨.v 9, true⟩),
    (0x4D0E1206, 0, .flog2 67 ⟨.v 9, true⟩)] = true := by
  decide +kernel

theorem test_decode_fsin_to_stv : wordsB [
    (0x4D0E1207, 0, .fsin 67 ⟨.v 9, true⟩),
    (0x4D0E1208, 0, .fcos 67 ⟨.v 9, true⟩),
    (0x4D0E1209, 0, .ftanh 67 ⟨.v 9, true⟩),
    (0x4D0E120A, 0, .ffrac 67 ⟨.v 9, true⟩),
    (0x4D0E120B, 0, .frnde 67 ⟨.v 9, true⟩),
    (0x4D0E120C, 0, .ftrunc 67 ⟨.v 9, true⟩),
    (0x4D0E120D, 0, .ffloor 67 ⟨.v 9, true⟩),
    (0x4D0E120E, 0, .fceil 67 ⟨.v 9, true⟩),
    (0x4F0E1285, 0, .b2add 67 ⟨.v 9, true⟩ ⟨.g 5, false⟩),
    (0x510E1285, 0, .b2mul 67 ⟨.v 9, true⟩ ⟨.g 5, false⟩),
    (0x530E1285, 0, .b2fma 67 ⟨.v 9, true⟩ ⟨.g 5, false⟩),
    (0x550E1285, 0, .b2max 67 ⟨.v 9, true⟩ ⟨.g 5, false⟩),
    (0x570E1285, 0, .b2min 67 ⟨.v 9, true⟩ ⟨.g 5, false⟩),
    (0x580E1313, 0, .cvt (.f32e4m3 3) .sr 3 ⟨.v 9, true⟩),
    (0x5A0E1285, 0, .qscl 3 9 true ⟨.g 5, false⟩),
    (0x5C0E1285, 0, .qcvt 3 9 true ⟨.g 5, false⟩),
    (0x5F0E1285, 0, .qexp 67 ⟨.v 9, true⟩ ⟨.g 5, false⟩),
    (0x610E1285, 0, .rnd 67 ⟨.v 9, true⟩ ⟨.g 5, false⟩),
    (0x630E1369, 0, .ldl 67 ⟨.v 9, true⟩ 11 .cluster .acq),
    (0x650E136A, 0, .stl 67 ⟨.v 9, true⟩ 11 .cluster .rel),
    (0x670E1369, 0, .ldv 67 ⟨.v 9, true⟩ 11 .cluster .acq),
    (0x690E136A, 0, .stv 67 ⟨.v 9, true⟩ 11 .cluster .rel)] = true := by
  decide +kernel

theorem test_decode_atom_to_gmin : wordsB [
    (0x6A1E1285, 0x38BAD0B, .atom .cas 7 ⟨.v 9, true⟩ ⟨.g 5, false⟩ ⟨.special 2, false⟩ 11 .system .acqRel),
    (0x6C021285, 0x2880B, .red .fadd ⟨.v 9, true⟩ ⟨.g 5, false⟩ 11 .device .rel),
    (0x6E200C07, 0x800C002, .put 8 ⟨.v 6, false⟩ 0 2 (some (3, ⟨.v 7, false⟩)) .none),
    (0x701C04C1, 0x2004, .ratom .add (some 7) ⟨.v 2, false⟩ ⟨.const 1, false⟩ ⟨.v 0, false⟩ 4 .none),
    (0x72200600, 0x45, .racc 8 ⟨.v 3, false⟩ 1 5 .none),
    (0x74040403, 0x84, .sel 1 ⟨.v 2, false⟩ ⟨.v 3, false⟩ ⟨.g 4, false⟩ false),
    (0x76240000, 0xFFFFC, .spst 9 15 0xFFFC),
    (0x78240000, 0x20008, .spld 9 2 8),
    (0x7A100000, 0x171, .trec 4 (.lvalue 3) 1),
    (0x7C240000, 0x81, .tpop 9 (.value 2) 1),
    (0x811E2586, 0, .gadd 35 ⟨.g 9, true⟩ (.sel ⟨.const 3, false⟩)),
    (0x831E2586, 0, .gsub 35 ⟨.g 9, true⟩ (.sel ⟨.const 3, false⟩)),
    (0x851E2586, 0, .gmul 35 ⟨.g 9, true⟩ (.sel ⟨.const 3, false⟩)),
    (0x871E2586, 0, .gmulh 35 ⟨.g 9, true⟩ (.sel ⟨.const 3, false⟩)),
    (0x891E2586, 0, .gand 35 ⟨.g 9, true⟩ (.sel ⟨.const 3, false⟩)),
    (0x8B1E2586, 0, .gor 35 ⟨.g 9, true⟩ (.sel ⟨.const 3, false⟩)),
    (0x8D1E2586, 0, .gxor 35 ⟨.g 9, true⟩ (.sel ⟨.const 3, false⟩)),
    (0x8F1E2586, 0, .gandn 35 ⟨.g 9, true⟩ (.sel ⟨.const 3, false⟩)),
    (0x911E2586, 0, .gshl 35 ⟨.g 9, true⟩ (.sel ⟨.const 3, false⟩)),
    (0x931E2586, 0, .gshr 35 ⟨.g 9, true⟩ (.sel ⟨.const 3, false⟩)),
    (0x951E2586, 0, .gsar 35 ⟨.g 9, true⟩ (.sel ⟨.const 3, false⟩)),
    (0x971E2586, 0, .gmin 35 ⟨.g 9, true⟩ (.sel ⟨.const 3, false⟩))] = true := by
  decide +kernel

theorem test_decode_gmax_to_bmz : wordsB [
    (0x991E2586, 0, .gmax 35 ⟨.g 9, true⟩ (.sel ⟨.const 3, false⟩)),
    (0x9B180001, 0x12345678, .gmov 35 (.imm 0x12345678)),
    (0x9D318985, 0, .gcmp .gtu 17 (.g 9) (.g 5)),
    (0x9F1E2400, 0, .gpopc 35 ⟨.g 9, true⟩),
    (0x9F1E2402, 0, .gclz 35 ⟨.g 9, true⟩),
    (0x9F1E2404, 0, .gctz 35 ⟨.g 9, true⟩),
    (0x9F1E2406, 0, .gnot 35 ⟨.g 9, true⟩),
    (0x9F1E2408, 0, .gneg 35 ⟨.g 9, true⟩),
    (0x9F1E240A, 0, .gbrev 35 ⟨.g 9, true⟩),
    (0xA11C2586, 0, .rdlane 35 9 true (.sel ⟨.const 3, false⟩)),
    (0xA3180001, 0x12345678, .mset 35 (.imm 0x12345678)),
    (0xA51E2586, 0, .mand 35 ⟨.g 9, true⟩ (.sel ⟨.const 3, false⟩)),
    (0xA71E2586, 0, .mandn 35 ⟨.g 9, true⟩ (.sel ⟨.const 3, false⟩)),
    (0xA91E2586, 0, .mor 35 ⟨.g 9, true⟩ (.sel ⟨.const 3, false⟩)),
    (0xAA000001, 0xFFFFFFC0, .spadj (.imm 0xFFFFFFC0)),
    (0xAC00002A, 0, .fence .rel .system),
    (0xAC00006A, 0, .fenceFlush .rel .system),
    (0xAE062406, 0, .publish .die ⟨.g 9, true⟩),
    (0xB007FFBE, 0, .bra 0x1FFEF .unlikely),
    (0xB31BFFBD, 0, .bez 35 0x0FFEF .likely),
    (0xB51BFFBD, 0, .bnz 35 0x0FFEF .likely),
    (0xB71BFFBD, 0, .bmz 35 0x0FFEF .likely)] = true := by
  decide +kernel

theorem test_decode_bmnz_to_genfence : wordsB [
    (0xB91BFFBD, 0, .bmnz 35 0x0FFEF .likely),
    (0xBB1BFFBD, 0, .call 35 0x0FFEF .likely),
    (0xBD1BFFBD, 0, .jmpr 35 0x0FFEF .likely),
    (0xBF1BFFBD, 0, .loop 35 0x0FFEF .likely),
    (0xC0362400, 0, .bar 6 ⟨.g 9, true⟩),
    (0xC2000000, 0, .cbar),
    (0xC4300186, 0, .abarAdd 6 (.sel ⟨.const 3, false⟩)),
    (0xC4700186, 0, .abarSub 6 (.sel ⟨.const 3, false⟩)),
    (0xC4B00186, 0, .abarSet 6 (.sel ⟨.const 3, false⟩)),
    (0xC6300186, 0, .abwait 6 (.sel ⟨.const 3, false⟩)),
    (0xC9DE2586, 0, .waitc .ltu 11 ⟨.g 9, true⟩ (.sel ⟨.const 3, false⟩)),
    (0xCA06240C, 0, .waitn 6 ⟨.g 9, true⟩),
    (0xCC029400, 0, .topen 37),
    (0xCE000000, 0, .nop),
    (0xCE000002, 0, .exit),
    (0xCE062404, 0, .trap ⟨.g 9, true⟩),
    (0xCE000006, 0, .brkpt),
    (0xCE000008, 0, .yield),
    (0xCF1E240A, 0, .srd 35 ⟨.g 9, true⟩),
    (0xCF1E240C, 0, .swr 35 ⟨.g 9, true⟩),
    (0xCE00000E, 0, .eret),
    (0xCF180010, 0, .genfence 35)] = true := by
  decide +kernel

theorem test_decode_rtswap_to_bset_add : wordsB [
    (0xCF180012, 0, .rtswap 35),
    (0xCE029414, 0, .tlbi 37),
    (0xCE062416, 0, .tacq ⟨.g 9, true⟩),
    (0xD00E2400, 0, .tbrk 1 ⟨.g 9, true⟩),
    (0xD3180400, 0, .tbpop 1 35),
    (0xD5180586, 0, .tmark 1 35 (.sel ⟨.const 3, false⟩)),
    (0xD7180400, 0, .trev 1 35),
    (0xD9180400, 0, .tclose 1 35),
    (0xDB1A9400, 0, .bcopy 35 37),
    (0xDD1A9400, 0, .bcopym 35 37),
    (0xDF1A9400, 0, .pstw 35 37),
    (0xE0129586, 0, .tmma 2 37 (.sel ⟨.const 3, false⟩)),
    (0xE2329586, 0, .tdual 2 1 37 (.sel ⟨.const 3, false⟩)),
    (0xE4129400, 0, .tprom 2 37),
    (0xE6129586, 0, .tsta 2 37 (.sel ⟨.const 3, false⟩)),
    (0xE8129586, 0, .tlda 2 37 (.sel ⟨.const 3, false⟩)),
    (0xEA129400, 0, .tzero 2 37),
    (0xED1A9586, 0, .tmaxr 35 37 (.sel ⟨.const 3, false⟩)),
    (0xEF1E2586, 0, .ttag 35 ⟨.g 9, true⟩ (.sel ⟨.const 3, false⟩)),
    (0xF05E2586, 0, .bld 11 ⟨.g 9, true⟩ (.sel ⟨.const 3, false⟩)),
    (0xF2581186, 0, .bset 11 .stride0 (.sel ⟨.const 3, false⟩)),
    (0xF2582186, 0, .bsetAdd 11 (.sel ⟨.const 3, false⟩))] = true := by
  decide +kernel

theorem test_decode_bxlate_to_cfire : wordsB [
    (0xF5180016, 0, .bxlate 35 11),
    (0xF71A9400, 0, .send 35 37),
    (0xF91A9400, 0, .rpost 35 37),
    (0xFB1A9400, 0, .rprobe 35 37),
    (0xFD1A9400, 0, .rcancel 35 37),
    (0xFE062401, 0x7, .cfire ⟨.g 9, true⟩ (.imm 7))] = true := by
  decide +kernel

/-! Ill-formed terms, one for each check, and words that the decoder rejects under the same names (06 R147). -/

theorem test_wf_refuses :
    (Instr.iadd 1 ⟨.const 3, true⟩ (u (.v 2))).wfErr = some .selector ∧
    (Instr.gadd 1 (u (.v 0)) (.sel (u (.g 1)))).wfErr = some .selector ∧
    (Instr.gadd 1 (u (.q 0)) (.imm 1)).wfErr = some .selector ∧
    (Instr.iadd 1 (u (.q 0)) (u (.q 1))).wfErr = some .twoQueues ∧
    (Instr.icmp .ord 3 (.v 1) (.v 2)).wfErr = some .cond ∧ (Instr.gcmp .uno 3 (.g 1) (.g 2)).wfErr = some .cond ∧
    (Instr.ldl 5 tidx 2 .team .rel).wfErr = some .scope ∧ (Instr.stl 5 tidx 2 .team .plain).wfErr = some .scope ∧
    (Instr.fenceFlush .acqRel .cluster).wfErr = some .scope ∧
    (Instr.red .xchg tidx (u (.v 1)) 2 .group .plain).wfErr = some .code ∧
    (Instr.bcopy 1 57).wfErr = some .block ∧ (Instr.rpost 1 58).wfErr = some .block ∧
    (Instr.ldv 125 tidx 2 .group .plain).wfErr = some .register ∧ (Instr.tdual 1 1 4 (.imm 0)).wfErr = some .register ∧
    (Instr.xredAdd .totalG 64 tidx).wfErr = some .register ∧
    (Instr.spst 1 0 6).wfErr = some .zero ∧
    (Instr.atom .add 1 tidx (u (.v 1)) (u (.v 2)) 3 .group .plain).wfErr = some .zero := by
  decide +kernel

theorem test_decode_refuses :
    errB (decodeWords 0x7E000000 0) .opcode = true ∧ errB (decodeWords 0x2A00000C 0) .code = true ∧
    errB (decodeWords 0x5800010A 0) .code = true ∧ errB (decodeWords 0x000001F4 0) .selector = true ∧
    errB (decodeWords 0x0001E0F1 0) .twoQueues = true ∧ errB (decodeWords 0x24C00000 0) .cond = true ∧
    errB (decodeWords 0x62000004 0) .scope = true ∧ errB (decodeWords 0xB0000003 0) .hint = true ∧
    errB (decodeWords 0x80020203 0) .extension = true ∧ errB (decodeWords 0xDA060000 0) .block = true ∧
    errB (decodeWords 0x3C000000 0) .zero = false ∧ errB (decodeWords 0x3E000001 0) .zero = true ∧
    errB (decodeWords 0x3D000000 0) .register = true := by
  decide +kernel

/-- The table's numbering: the second word above the first, zero where no bits are given for it. -/
theorem test_decode_table :
    decodeTableWord 32 0xCE000000 = some .nop ∧ decodeTableWord 32 0x7E000000 = none ∧
    decodeTableWord 64 0x000001219BE00001 = some (.gmov 60 (.imm 0x121)) ∧ decodeTableWord 32 0x9BE00001 = some (.gmov 60 (.imm 0)) ∧
    decodeTableWord 32 0x74040403 = some (.sel 1 ⟨.v 2, false⟩ ⟨.v 3, false⟩ ⟨.v 0, false⟩ false) := by
  decide +kernel

/-! Single steps on `tb`. The values are worked out by hand from the rules. -/

/-- The state after an instruction. -/
def after (i : Instr) (s : State) : State :=
  match exec i s with
  | .next t => t
  | _ => s

/-- 5 - 1 wraps; the pc moves on by a word (08 R187, 06 R134). -/
theorem test_iadd :
    let s := after (.iadd 1 tidx (u (.const 16))) tb
    s.laneVal (.v 1) 0 = 0xFFFFFFFF ∧ s.laneVal (.v 1) 15 = 14 ∧ s.g.r.pc = 0x10004 := by
  decide +kernel

/-- A shift takes the amount modulo 32 (08 R187). -/
theorem test_shl : (after (.shl 1 (u (.const 1)) (u (.const 17))) tb).laneVal (.v 1) 3 = 1 := by
  decide +kernel

/-- Threads 0 to 4 are below 5 (08 R188). -/
theorem test_icmp : (after (.icmp .lt 3 tidx.src (.const 5)) tb).g.r.getG 3 = 0x001F := by
  decide +kernel

/-- A selected source per thread, bit t of a constant (08 R193): 10 is 0b1010. -/
theorem test_sel :
    let s := after (.sel 1 (u (.const 7)) (u (.const 2)) (u (.const 10)) false) tb
    s.laneVal (.v 1) 1 = 7 ∧ s.laneVal (.v 1) 2 = 2 := by
  decide +kernel

/-- 0.5 + 1.0 = 1.5 (08 R199). -/
theorem test_fadd : (after (.fadd 1 (u (.const 18)) (u (.const 19))) tb).laneVal (.v 1) 0 = 0x3FC00000 := by
  decide +kernel

/-- 3 - 7 of an extension word; the pc moves on by two words (14 R351, 06 R142). -/
theorem test_gsub :
    let s := after (.gsub 63 (u (.const 3)) (.imm 7)) tb
    s.g.r.getG 63 = 0xFFFFFFFC ∧ s.g.r.pc = 0x10008 := by
  decide +kernel

/-- A branch back by 17 words from the word after it, taken and not taken; to a page that cannot be fetched it raises the
fetch fault at itself (06 R134, R142, 14 R358). -/
theorem test_bnz :
    let s := (setG tb 5 1).modR (fun r => { r with pc := 0x10100 })
    (after (.bnz 5 0x1FFEF .likely) s).g.r.pc = 0x100C0 ∧ (after (.bez 5 0x1FFEF .likely) s).g.r.pc = 0x10104 ∧
    (after (.bnz 5 0x1FFEF .likely) (setG tb 5 1)).g.sys.hm = true := by
  decide +kernel

/-- TRAP #9: cause 0x19, the operand in TADDR, TEPC the next word (16 R370, R411). -/
theorem test_trap :
    let s := after (.trap (u (.const 9))) tb
    s.g.sys.tcause = 0x19 ∧ s.g.sys.taddr = 9 ∧ s.g.sys.tepc = 4 ∧ s.g.r.pc = 0x8000 := by
  decide +kernel

/-- A step runs the word at the pc: NOP. -/
theorem test_step_nop :
    (match step (at0 tb 0xCE000000) with
      | .next t => decide (t.g.r.pc = 0x10004)
      | _ => false) = true := by
  decide +kernel

end Sys2Proof.Tests
end

section
/-! The memory system (O53, spec/02 R40 to R43; spec/04 R86 to R92). Rules of its operations, then its statement. -/

namespace Sys2Proof.Machine

/-! Tables and memories. -/

/-- A table whose values are all changed alike reads as the changed value, where the unlisted value stays. -/
theorem tget_map {α : Type} {d : α} (f : α → α) (hd : f d = d) (m : Tbl α) (i : Nat) :
    tget d (m.map (fun p => (p.1, f p.2))) i = f (tget d m i) := by
  induction m with
  | nil => exact hd.symm
  | cons p m ih => by_cases h : i = p.1 <;> simp [tget, h, ← ih]

theorem length_mread (m : Memory) (a n : Nat) : (mread m a n).length = n := by
  induction n generalizing a with
  | zero => rfl
  | succ n ih => simp [mread, ih]

/-- A number stored in `n` bytes is read back from them. -/
theorem leNat_mread_mput (m : Memory) (a n v : Nat) (h : v < 256 ^ n) : leNat (mread (mput m a n v) a n) = v := by
  have hr : mread (mput m a n v) a n = leBytes n v := by
    have := mread_mwrite (leBytes n v) m a
    rwa [length_leBytes] at this
  rw [hr, leNat_leBytes n v h]

/-! Messages to the host touch the host interface and host memory alone. -/

/-- An event leaves the mailbox alone, and everything but the host interface and host memory (21 R457). -/
theorem event1_eq (s : State) (kind ctx : Nat) (payload : List W32) :
    ∃ h m, s.event1 kind ctx payload = { s with hif := h, host := m } ∧ h.mail = s.hif.mail := by
  unfold State.event1 State.putEvent
  simp only
  repeat' split
  all_goals exact ⟨_, _, rfl, rfl⟩

/-- A completion changes the host interface and host memory alone, and word 15 of its slot holds the code (21 R458). -/
theorem mbox_eq (s : State) (slot cx code : Nat) (hc : code < 2 ^ 32) :
    ∃ h m, s.mbox slot cx code 0 = { s with hif := h, host := m } ∧ leNat (mread h.mail (64 * slot + 60) 4) = code := by
  obtain ⟨h, m, he, hm⟩ := event1_eq (s.modHif (fun h =>
    { h with mail := mput h.mail (64 * slot + 60) 4 (BitVec.ofNat 32 (0 * 65536 + code)).toNat })) 6 cx
    [BitVec.ofNat 32 slot, BitVec.ofNat 32 (0 * 65536 + code)]
  refine ⟨h, m, he, ?_⟩
  have hv : (BitVec.ofNat 32 (0 * 65536 + code)).toNat = code := by simp; omega
  rw [hm, hv]
  exact leNat_mread_mput _ _ _ _ (by omega)

/-! The L2 (04 R86 to R88). -/

/-- The bits of a range register that a write reaches: BASE, the 4 bits from 60 up, and LIMIT (04 R86). -/
theorem getLsbD_l2rngMask : ∀ b < 128,
    l2rngMask.getLsbD b = (decide (b < 36) || (decide (60 ≤ b) && decide (b < 100))) := by
  decide

/-- L2_RANGE_WRITE stores a range register with its reserved bits 0 (04 R86). -/
theorem l2RangeWrite_range (s : State) (die idx : Nat) (v : BitVec 128) (hd : die < 2) (hi : idx < 8) :
    ∃ t, exec (.l2RangeWrite die idx v) s = .next t ∧ { t with dies := [] } = { s with dies := [] } ∧
      (∀ d, d ≠ die → t.die d = s.die d) ∧ { t.die die with l2rng := [] } = { s.die die with l2rng := [] } ∧
      (∀ j b, b < 128 → (tget 0 (t.die die).l2rng j).getLsbD b =
        if j = idx then v.getLsbD b && (decide (b < 36) || (decide (60 ≤ b) && decide (b < 100)))
        else (tget 0 (s.die die).l2rng j).getLsbD b) := by
  refine ⟨s.modDie die (fun d => { d with l2rng := tset 0 d.l2rng idx (v &&& l2rngMask) }), ?_, rfl,
    fun d h => State.modDie_die_ne _ _ h, by rw [State.modDie_die], fun j b hb => ?_⟩
  · show Host.Outcome.next (ite _ _ _) = _
    rw [if_neg (by omega), if_pos hi]
  · rw [State.modDie_die, tget_tset]
    split
    · rw [BitVec.getLsbD_and, getLsbD_l2rngMask b hb]
    · rfl

/-- L2_RANGE_WRITE of number 8 stores L2PQ (04 R87). -/
theorem l2RangeWrite_quota (s : State) (die : Nat) (v : BitVec 128) (hd : die < 2) :
    ∃ t, exec (.l2RangeWrite die 8 v) s = .next t ∧ { t with dies := [] } = { s with dies := [] } ∧
      (∀ d, d ≠ die → t.die d = s.die d) ∧ t.die die = { s.die die with l2pq := v.truncate 4 } := by
  refine ⟨s.modDie die (fun d => { d with l2pq := v.truncate 4 }), ?_, rfl, fun d h => State.modDie_die_ne _ _ h,
    State.modDie_die _ _ _⟩
  show Host.Outcome.next (ite _ _ _) = _
  rw [if_neg (by omega), if_neg (by omega), if_pos rfl]

/-- L2_PIN_SWEEP gives every resident line of its controller its pin status anew (04 R88). -/
theorem l2PinSweep_lines (s : State) (k : Nat) (hk : k < 8) :
    ∃ t, exec (.l2PinSweep k) s = .next t ∧ { t with stks := [] } = { s with stks := [] } ∧
      (∀ j, j ≠ k → t.stk j = s.stk j) ∧ { t.stk k with sets := [] } = { s.stk k with sets := [] } ∧
      (∀ i, tget [] (t.stk k).sets i =
        (tget [] (s.stk k).sets i).map (fun (l : L2Line) => { l with pinned := s.pinned (l.addr * 256) })) := by
  refine ⟨s.modStk k (fun q => { q with sets := q.sets.map (fun p =>
      (p.1, p.2.map (fun (l : L2Line) => { l with pinned := s.pinned (l.addr * 256) }))) }), ?_, rfl,
    fun j h => State.modStk_stk_ne _ _ h, by rw [State.modStk_stk], fun i => ?_⟩
  · show Host.Outcome.next (ite _ _ _) = _
    rw [if_neg (by omega)]
  · rw [State.modStk_stk]
    exact tget_map (List.map _) rfl _ i

end Sys2Proof.Machine
end

section
/-! Scratchpad homes (04 R89 to R95): what the directory's operations leave alone, and what they do to one segment. -/

namespace Sys2Proof.Machine

/-- The directory entry of a segment at its home. -/
def State.dirAt (s : State) (d seg : Nat) : DirSt := tget DirSt.i (s.die d).dir seg

/-- Does a core's segment cache hold a segment? -/
def State.holds (s : State) (c seg : Nat) : Prop := ∃ x ∈ (s.core c).segs, x.seg = seg

/-- Nothing but the dies and the cores' segment caches has changed. -/
structure SegsOnly (s t : State) : Prop where
  rest : { t with cores := s.cores, dies := s.dies } = s
  core : ∀ c, { t.core c with segs := [] } = { s.core c with segs := [] }

theorem SegsOnly.refl (s : State) : SegsOnly s s := ⟨rfl, fun _ => rfl⟩

theorem SegsOnly.trans {s t u : State} (h : SegsOnly s t) (k : SegsOnly t u) : SegsOnly s u := by
  refine ⟨?_, fun c => (k.core c).trans (h.core c)⟩
  calc { u with cores := s.cores, dies := s.dies }
      = { ({ u with cores := t.cores, dies := t.dies } : State) with cores := s.cores, dies := s.dies } := rfl
    _ = { t with cores := s.cores, dies := s.dies } := by rw [k.rest]
    _ = s := h.rest

theorem segsOnly_modDie (s : State) (d : Nat) (f : Die → Die) : SegsOnly s (s.modDie d f) := ⟨rfl, fun _ => rfl⟩

theorem segsOnly_modCore (s : State) (c : Nat) (f : List SegCopy → List SegCopy) :
    SegsOnly s (s.modCore c (fun co => { co with segs := f co.segs })) := by
  refine ⟨rfl, fun j => ?_⟩
  rw [State.modCore_core_ite]
  split
  · next h => rw [h]
  · rfl

/-- What a directory request keeps (04 R92). -/
theorem SegsOnly.kept {s t : State} (h : SegsOnly s t) :
    t.groups = s.groups ∧ t.teams = s.teams ∧ t.hbm = s.hbm ∧ t.stks = s.stks ∧
      ∀ c, (t.core c).tile = (s.core c).tile ∧ (t.core c).acc = (s.core c).acc :=
  ⟨(congrArg State.groups h.rest :), (congrArg State.teams h.rest :), (congrArg State.hbm h.rest :),
    (congrArg State.stks h.rest :), fun c => ⟨(congrArg Core.tile (h.core c) :), (congrArg Core.acc (h.core c) :)⟩⟩

/-- Copies have left segment caches and none has come in; of the directory only the entry of `seg` may have changed. -/
structure Dropped (seg : Nat) (s t : State) : Prop where
  only : SegsOnly s t
  segs : ∀ c, (t.core c).segs ⊆ (s.core c).segs
  dir : ∀ d k, k ≠ seg → t.dirAt d k = s.dirAt d k

theorem Dropped.refl (seg : Nat) (s : State) : Dropped seg s s := ⟨.refl s, fun _ => List.Subset.refl _, fun _ _ _ => rfl⟩

theorem Dropped.trans {seg : Nat} {s t u : State} (h : Dropped seg s t) (k : Dropped seg t u) : Dropped seg s u :=
  ⟨h.only.trans k.only, fun c => List.Subset.trans (k.segs c) (h.segs c), fun d j hj => (k.dir d j hj).trans (h.dir d j hj)⟩

theorem Dropped.holds {seg : Nat} {s t : State} (h : Dropped seg s t) {c k : Nat} : t.holds c k → s.holds c k :=
  fun ⟨x, hx, he⟩ => ⟨x, h.segs c hx, he⟩

/-! One die, one core. -/

theorem dirAt_modDie (s : State) (j d k : Nat) (f : Die → Die) :
    (s.modDie j f).dirAt d k = if d = j then tget DirSt.i (f (s.die j)).dir k else s.dirAt d k := by
  unfold State.dirAt
  rw [State.modDie_die_ite]
  split <;> rfl

/-- A change of a die that keeps its directory but for one entry. -/
theorem dropped_modDie (s : State) (seg j : Nat) (f : Die → Die)
    (hf : ∀ k, k ≠ seg → tget DirSt.i (f (s.die j)).dir k = s.dirAt j k) : Dropped seg s (s.modDie j f) := by
  refine ⟨segsOnly_modDie s j f, fun _ => List.Subset.refl _, fun d k hk => ?_⟩
  rw [dirAt_modDie]
  split
  · next h => rw [h, hf k hk]
  · rfl

/-- Copies that fail a test leave one core's segment cache. -/
def State.keepSegs (s : State) (p : SegCopy → Bool) (c : Nat) : State :=
  s.modCore c (fun co => { co with segs := co.segs.filter p })

theorem mem_keepSegs (s : State) (p : SegCopy → Bool) (c j : Nat) (x : SegCopy) :
    x ∈ ((s.keepSegs p c).core j).segs ↔ x ∈ (s.core j).segs ∧ (j = c → p x = true) := by
  rw [State.keepSegs, State.modCore_core_ite]
  split
  · next h => subst h; simp
  · next h => simp [h]

theorem keepSegs_dropped (seg : Nat) (s : State) (p : SegCopy → Bool) (c : Nat) : Dropped seg s (s.keepSegs p c) :=
  ⟨segsOnly_modCore s c (List.filter p), fun j x hx => ((mem_keepSegs s p c j x).1 hx).1, fun _ _ _ => rfl⟩

/-- Copies that fail a test leave the segment caches of several cores. -/
def State.keepSegsAll (s : State) (p : SegCopy → Bool) (cs : List Nat) : State := cs.foldl (fun st c => st.keepSegs p c) s

theorem mem_keepSegsAll (p : SegCopy → Bool) (cs : List Nat) (s : State) (j : Nat) (x : SegCopy) :
    x ∈ ((s.keepSegsAll p cs).core j).segs ↔ x ∈ (s.core j).segs ∧ (j ∈ cs → p x = true) := by
  induction cs generalizing s with
  | nil => simp [State.keepSegsAll]
  | cons c cs ih =>
    rw [State.keepSegsAll, List.foldl_cons, ← State.keepSegsAll, ih, mem_keepSegs, List.mem_cons]
    tauto

theorem keepSegsAll_dies (p : SegCopy → Bool) (cs : List Nat) (s : State) : (s.keepSegsAll p cs).dies = s.dies := by
  induction cs generalizing s with
  | nil => rfl
  | cons c cs ih => exact ih (s.keepSegs p c)

theorem keepSegsAll_dropped (seg : Nat) (p : SegCopy → Bool) (cs : List Nat) (s : State) :
    Dropped seg s (s.keepSegsAll p cs) := by
  induction cs generalizing s with
  | nil => exact .refl seg s
  | cons c cs ih => exact (keepSegs_dropped seg s p c).trans (ih (s.keepSegs p c))

theorem keepSegsAll_dirAt (s : State) (p : SegCopy → Bool) (cs : List Nat) (d k : Nat) :
    (s.keepSegsAll p cs).dirAt d k = s.dirAt d k := by
  unfold State.dirAt State.die
  rw [keepSegsAll_dies]

/-! The operations (04 R91 to R95). -/

/-- The end of a U episode moves no entry but the segment's own. -/
theorem combine_dir_ne (x : Die) {seg k : Nat} (h : k ≠ seg) : tget DirSt.i (x.combine seg).dir k = tget DirSt.i x.dir k := by
  unfold Die.combine
  split
  · exact tget_tset_ne x.dir DirSt.i h
  · rfl

/-- A segment that is in no U episode is left as it is. -/
theorem combine_of_not_u (x : Die) (seg : Nat) (h : ∀ op, tget DirSt.i x.dir seg ≠ .u op) : x.combine seg = x := by
  unfold Die.combine
  split
  · next op he => exact absurd he (h op)
  · rfl

theorem combineSeg_eq (s : State) (d seg : Nat) : s.combineSeg d seg =
    (s.keepSegsAll (fun x => x.soft || decide (x.seg ≠ seg)) ((tget [] (s.die d).parts seg).map (fun p => p.1))).modDie d
      (fun x => x.combine seg) := rfl

theorem combineSeg_dropped (s : State) (d seg : Nat) : Dropped seg s (s.combineSeg d seg) := by
  rw [combineSeg_eq]
  exact (keepSegsAll_dropped seg _ _ s).trans (dropped_modDie _ seg d _ fun k hk => combine_dir_ne _ hk)

theorem combineSeg_dirAt (s : State) (d seg k : Nat) (h : ∀ op, s.dirAt d seg ≠ .u op) :
    (s.combineSeg d seg).dirAt d k = s.dirAt d k := by
  rw [combineSeg_eq, dirAt_modDie, if_pos rfl, combine_of_not_u]
  · exact keepSegsAll_dirAt ..
  · intro op; rw [← State.dirAt, keepSegsAll_dirAt]; exact h op

theorem dropOthers_eq (s : State) (seg : Nat) (keep cores : List Nat) : s.dropOthers seg keep cores =
    s.keepSegsAll (fun x => decide (x.seg ≠ seg)) (cores.filter (fun c => !keep.contains c)) := rfl

/-- No other core that the directory names holds a copy any more. -/
theorem not_holds_dropOthers (s : State) (seg core c : Nat) (cores : List Nat) (hm : c ∈ cores) (hc : c ≠ core) :
    ¬ (s.dropOthers seg [core] cores).holds c seg := by
  rintro ⟨x, hx, he⟩
  rw [dropOthers_eq, mem_keepSegsAll] at hx
  have := hx.2 (by simp [hm, hc])
  simp [he] at this

/-- What an eviction does to the directory after the copy has left its core's cache. -/
def State.evictDir (s : State) (core : Nat) (c : SegCopy) : State :=
  if c.soft then s.modDie (dieOf core) (fun x => x.writeBack core c (fun _ => true))
  else match s.dirAt (dieOf core) c.seg with
    | .o p => if p = core then s.modDie (dieOf core) (fun x => { x with dir := tset DirSt.i x.dir c.seg .i }) else s
    | .s cs => s.modDie (dieOf core) (fun x =>
        { x with dir := tset DirSt.i x.dir c.seg (if (cs.erase core).isEmpty then .i else .s (cs.erase core)) })
    | .u _ => if (tget [] (s.die (dieOf core)).parts c.seg).any (fun p => decide (p.1 = core)) then
        s.combineSeg (dieOf core) c.seg else s
    | .i => s

theorem evictSeg_eq (s : State) (core : Nat) (c : SegCopy) :
    s.evictSeg core c = (s.keepSegs (fun x => decide (x.seg ≠ c.seg)) core).evictDir core c := rfl

theorem evictDir_dropped (s : State) (core : Nat) (c : SegCopy) : Dropped c.seg s (s.evictDir core c) := by
  unfold State.evictDir
  split
  · exact dropped_modDie _ _ _ _ fun _ _ => rfl
  split
  · split
    · exact dropped_modDie _ _ _ _ fun k hk => tget_tset_ne (s.die (dieOf core)).dir DirSt.i hk
    · exact .refl _ s
  · exact dropped_modDie _ _ _ _ fun k hk => tget_tset_ne _ _ hk
  · split
    · exact combineSeg_dropped ..
    · exact .refl _ s
  · exact .refl _ s

theorem evictSeg_dropped (s : State) (core : Nat) (c : SegCopy) : Dropped c.seg s (s.evictSeg core c) := by
  rw [evictSeg_eq]
  exact (keepSegs_dropped _ _ _ _).trans (evictDir_dropped _ _ _)

/-- The core that evicts a segment holds it no more. -/
theorem not_holds_evictSeg (s : State) (core : Nat) (c : SegCopy) : ¬ (s.evictSeg core c).holds core c.seg := by
  rw [evictSeg_eq]
  intro h
  obtain ⟨x, hx, he⟩ := (evictDir_dropped _ core c).holds h
  have := ((mem_keepSegs _ _ _ _ _).1 hx).2 rfl
  simp [he] at this

/-- The copy of a software-managed segment leaves without the directory. -/
theorem evictSeg_dirAt_of_soft (s : State) (core : Nat) (c : SegCopy) (d k : Nat) (h : c.soft = true) :
    (s.evictSeg core c).dirAt d k = s.dirAt d k := by
  rw [evictSeg_eq, State.evictDir, if_pos h, dirAt_modDie]
  split
  · next hd => rw [hd]; rfl
  · rfl

/-- The core that evicts a shared segment leaves its entry, and the last one leaves it I (04 R92). -/
theorem evictSeg_dirAt_of_s (s : State) (core : Nat) (c : SegCopy) (cs : List Nat) (h : c.soft = false)
    (hd : s.dirAt (dieOf core) c.seg = .s cs) : (s.evictSeg core c).dirAt (dieOf core) c.seg =
      if (cs.erase core).isEmpty then .i else .s (cs.erase core) := by
  have hk : (s.keepSegs (fun x => decide (x.seg ≠ c.seg)) core).dirAt (dieOf core) c.seg = .s cs := hd
  rw [evictSeg_eq, State.evictDir, if_neg (by simp [h]), hk]
  simp only
  rw [dirAt_modDie, if_pos rfl, tget_tset_self]

/-- The owner that evicts its segment leaves it I (04 R92). -/
theorem evictSeg_dirAt_of_o (s : State) (core p : Nat) (c : SegCopy) (h : c.soft = false)
    (hd : s.dirAt (dieOf core) c.seg = .o p) : (s.evictSeg core c).dirAt (dieOf core) c.seg =
      if p = core then .i else .o p := by
  have hk : (s.keepSegs (fun x => decide (x.seg ≠ c.seg)) core).dirAt (dieOf core) c.seg = .o p := hd
  rw [evictSeg_eq, State.evictDir, if_neg (by simp [h]), hk]
  simp only
  split
  · rw [dirAt_modDie, if_pos rfl, tget_tset_self]
  · exact hk

/-- Copies of other segments alone have left segment caches: no copy has come in, and the directory's entry of `seg` stands. -/
structure Apart (seg : Nat) (s t : State) : Prop where
  only : SegsOnly s t
  segs : ∀ c, (t.core c).segs ⊆ (s.core c).segs
  dir : ∀ d, t.dirAt d seg = s.dirAt d seg

theorem Apart.refl (seg : Nat) (s : State) : Apart seg s s := ⟨.refl s, fun _ => List.Subset.refl _, fun _ => rfl⟩

theorem Dropped.apart {seg k : Nat} {s t : State} (h : Dropped k s t) (hk : seg ≠ k) : Apart seg s t :=
  ⟨h.only, h.segs, fun d => h.dir d seg hk⟩

/-- A segment has come into a core's cache, and its directory entry stands. Other cores may have lost copies. -/
structure Filled (core seg : Nat) (s t : State) : Prop where
  only : SegsOnly s t
  dir : ∀ d, t.dirAt d seg = s.dirAt d seg
  here : t.holds core seg
  others : ∀ c, c ≠ core → (t.core c).segs ⊆ (s.core c).segs

theorem Filled.of_apart {core seg : Nat} {s t u : State} (h : Apart seg s t) (k : Filled core seg t u) :
    Filled core seg s u :=
  ⟨h.only.trans k.only, fun d => (k.dir d).trans (h.dir d), k.here,
    fun c hc => List.Subset.trans (k.others c hc) (h.segs c)⟩

/-- A copy of a segment put at the head of a core's cache. -/
theorem filled_modCore (s : State) (core : Nat) (x : SegCopy) (f : List SegCopy → List SegCopy) :
    Filled core x.seg s (s.modCore core (fun co => { co with segs := x :: f co.segs })) := by
  refine ⟨segsOnly_modCore s core (fun l => x :: f l), fun _ => rfl, ?_, fun c hc => ?_⟩
  · exact ⟨x, by rw [State.modCore_core]; exact List.mem_cons_self, rfl⟩
  · rw [State.modCore_core_ne _ _ hc]; exact List.Subset.refl _

/-- A full cache makes room: its least recently used copy leaves (04 R91). -/
def State.makeRoom (s : State) (core : Nat) : State :=
  if 128 ≤ (s.core core).segs.length then
    match (s.core core).segs.getLast? with
    | some v => s.evictSeg core v
    | none => s
  else s

theorem makeRoom_apart (s : State) (core seg : Nat) (h : ¬ s.holds core seg) : Apart seg s (s.makeRoom core) := by
  unfold State.makeRoom
  split
  · split
    · next v hv => exact (evictSeg_dropped s core v).apart fun he => h ⟨v, List.mem_of_getLast? hv, he.symm⟩
    · exact .refl seg s
  · exact .refl seg s

theorem fillSeg_eq (s : State) (core seg : Nat) (soft : Bool) : ∃ bytes, s.fillSeg core seg soft =
    (s.makeRoom core).modCore core (fun co => { co with segs := ⟨seg, soft, bytes, [], []⟩ :: co.segs }) := ⟨_, rfl⟩

theorem fillSeg_filled (s : State) (core seg : Nat) (soft : Bool) (h : ¬ s.holds core seg) :
    Filled core seg s (s.fillSeg core seg soft) := by
  obtain ⟨bytes, he⟩ := fillSeg_eq s core seg soft
  rw [he]
  exact .of_apart (makeRoom_apart s core seg h) (filled_modCore _ core ⟨seg, soft, bytes, [], []⟩ id)

/-- A request of a coherent segment brings it into the core's cache (04 R91, R92); a software-managed copy from before leaves. -/
theorem useSeg_filled (s : State) (core seg : Nat) : Filled core seg s (s.useSeg core seg false) := by
  unfold State.useSeg
  split
  · next c hc =>
    have hseg : c.seg = seg := by simpa using List.find?_some hc
    subst hseg
    split
    · exact filled_modCore s core c (List.filter (fun x => decide (x.seg ≠ c.seg)))
    · next hs =>
      have hd := evictSeg_dropped s core c
      have ha : Apart c.seg s (s.evictSeg core c) :=
        ⟨hd.only, hd.segs, fun d => evictSeg_dirAt_of_soft s core c d c.seg (by simpa using hs)⟩
      exact .of_apart ha (fillSeg_filled _ _ _ _ (not_holds_evictSeg s core c))
  · next hn =>
    refine fillSeg_filled s core seg false fun ⟨x, hx, he⟩ => ?_
    simpa [he] using List.find?_eq_none.1 hn x hx

/-! Requests at a home (04 R92). -/

/-- The entry that a read request leaves. -/
def DirSt.read (core : Nat) : DirSt → DirSt
  | .s cs => .s (if cs.contains core then cs else cs ++ [core])
  | .o p => if p = core then .o p else .s [p, core]
  | _ => .s [core]

theorem dirRead_eq (s : State) (core seg : Nat) : s.dirRead core seg =
    ((s.combineSeg (dieOf core) seg).modDie (dieOf core) (fun d => { d with
      dir := tset DirSt.i d.dir seg (((s.combineSeg (dieOf core) seg).dirAt (dieOf core) seg).read core) })).useSeg core seg
        false := rfl

/-- What a read request does to a segment that is in no U episode. -/
theorem dirRead_filled (s : State) (core seg : Nat) (h : ∀ op, s.dirAt (dieOf core) seg ≠ .u op) :
    SegsOnly s (s.dirRead core seg) ∧ (s.dirRead core seg).holds core seg ∧
      (s.dirRead core seg).dirAt (dieOf core) seg = (s.dirAt (dieOf core) seg).read core := by
  rw [dirRead_eq, combineSeg_dirAt s _ _ _ h]
  have hu := useSeg_filled ((s.combineSeg (dieOf core) seg).modDie (dieOf core) (fun d => { d with
      dir := tset DirSt.i d.dir seg ((s.dirAt (dieOf core) seg).read core) })) core seg
  refine ⟨((combineSeg_dropped s _ _).only.trans (segsOnly_modDie _ _ _)).trans hu.only, hu.here, ?_⟩
  rw [hu.dir, dirAt_modDie, if_pos rfl, tget_tset_self]

theorem dirWrite_eq (s : State) (core seg : Nat) : s.dirWrite core seg =
    (((s.combineSeg (dieOf core) seg).dropOthers seg [core]
        (dirCores ((s.combineSeg (dieOf core) seg).dirAt (dieOf core) seg))).modDie (dieOf core) (fun d => { d with
      dir := tset DirSt.i d.dir seg (.o core) })).useSeg core seg false := rfl

/-- What a write request does to a segment that is in no U episode. -/
theorem dirWrite_filled (s : State) (core seg : Nat) (h : ∀ op, s.dirAt (dieOf core) seg ≠ .u op) :
    SegsOnly s (s.dirWrite core seg) ∧ (s.dirWrite core seg).holds core seg ∧
      (s.dirWrite core seg).dirAt (dieOf core) seg = .o core ∧
      ∀ c ∈ dirCores (s.dirAt (dieOf core) seg), c ≠ core → ¬ (s.dirWrite core seg).holds c seg := by
  rw [dirWrite_eq, combineSeg_dirAt s _ _ _ h]
  have hu := useSeg_filled (((s.combineSeg (dieOf core) seg).dropOthers seg [core]
    (dirCores (s.dirAt (dieOf core) seg))).modDie (dieOf core) (fun d => { d with
      dir := tset DirSt.i d.dir seg (.o core) })) core seg
  have hd : Dropped seg s ((s.combineSeg (dieOf core) seg).dropOthers seg [core] (dirCores (s.dirAt (dieOf core) seg))) :=
    (combineSeg_dropped s _ _).trans (keepSegsAll_dropped _ _ _ _)
  refine ⟨(hd.only.trans (segsOnly_modDie _ _ _)).trans hu.only, hu.here, ?_, fun c hm hc hh => ?_⟩
  · rw [hu.dir, dirAt_modDie, if_pos rfl, tget_tset_self]
  · obtain ⟨x, hx, he⟩ := hh
    exact not_holds_dropOthers _ seg core c _ hm hc ⟨x, hu.others c hc hx, he⟩

/-- A request of a core for a coherent segment, served: an eviction takes out the copy that the core holds. -/
def State.dirServe (s : State) (core seg : Nat) : DirReq → State
  | .read => s.dirRead core seg
  | .write => s.dirWrite core seg
  | .evict =>
    match (s.core core).segs.find? (fun x => decide (x.seg = seg)) with
    | some c => s.evictSeg core c
    | none => s

/-- A request of a core of the die for a coherent segment is served (04 R92). -/
theorem exec_directoryRequest {s : State} {die core seg r : Nat} (q : DirReq) (hc : core / 96 = die) (hd : die < 2)
    (hr : (s.die die).region seg = some r) (hs : (s.die die).soft seg = false) :
    exec (.directoryRequest die core seg q) s = .next (s.dirServe core seg q) := by
  have hn : ¬ (dieOf core ≠ die ∨ 2 ≤ die ∨ ((s.die die).region seg).isNone = true ∨ (s.die die).soft seg = true) := by
    simp [dieOf, hc, hr, hs, hd]
  cases q with
  | read => exact congrArg Host.Outcome.next (if_neg hn)
  | write => exact congrArg Host.Outcome.next (if_neg hn)
  | evict => exact congrArg Host.Outcome.next (if_neg hn)

end Sys2Proof.Machine
end

section
/-! Page migration (02 R40 to R43): a line read, written, and the entry moved on. -/

namespace Sys2Proof.Machine

open Sys2Proof.Claims

/-! Pool packets (11 R279). -/

/-- A pool access of an engine changes the link die and the answers to come alone. -/
theorem poolAsk_eq (s : State) (job : BitVec 16) (it : Item) :
    ∃ l a, (s.poolAsk job it).2 = { s with link := l, answers := a } := by
  unfold State.poolAsk
  simp only
  split
  · exact ⟨_, _, rfl⟩
  · split <;> exact ⟨_, _, rfl⟩

/-- The state after the packet of an access to a target, which only the pool takes. -/
def State.asked (s : State) (tgt : Nat) (it : Item) : State := if tgt = 1 then (s.poolAsk 0 it).2 else s

theorem asked_eq (s : State) (tgt : Nat) (it : Item) : ∃ l a, s.asked tgt it = { s with link := l, answers := a } := by
  unfold State.asked
  split
  · exact poolAsk_eq s 0 it
  · exact ⟨_, _, rfl⟩

theorem asked_image (s : State) (tgt : Nat) (it : Item) (g : Nat) : (s.asked tgt it).image g = s.image g := by
  obtain ⟨l, a, h⟩ := asked_eq s tgt it
  rw [h]
  unfold State.image
  split <;> rfl

/-! Memory images. -/

theorem image_setImage (s : State) {g : Nat} (j : Nat) (m : Memory) (hg : g < 3) :
    (s.setImage g m).image j = if j = g then m else s.image j := by
  rcases j with _ | _ | _ | j <;> interval_cases g <;> simp [State.setImage, State.image]

/-- An image replaced leaves all but the memories alone. -/
theorem setImage_eq (s : State) (g : Nat) (m : Memory) :
    ∃ a b c d, s.setImage g m = { s with hbm := a, pool := b, host := c, peer := d } := by
  unfold State.setImage
  split <;> exact ⟨_, _, _, _, rfl⟩

/-! A line (R41). -/

/-- A line comes from its own frame where its packet, if it takes one, does not fail. -/
theorem lineRead_of_ok (s : State) (tgt pa : Nat)
    (h : tgt = 1 → (s.poolAsk 0 (.read (BitVec.ofNat 64 pa) 256)).1 = none) :
    s.lineRead tgt pa = (some (mread (s.image tgt) pa 256), s.asked tgt (.read (BitVec.ofNat 64 pa) 256)) := by
  unfold State.lineRead
  split
  · next ht =>
    subst ht
    show (if (s.poolAsk 0 (.read (BitVec.ofNat 64 pa) 256)).1 = none then _ else none, _) = _
    rw [if_pos (h rfl), ← asked_image s 1 (.read (BitVec.ofNat 64 pa) 256) 1]
    rfl
  · next ht => rw [State.asked, if_neg ht]

/-- A pool line whose packet fails does not come. -/
theorem lineRead_of_failed (s : State) (pa : Nat) (h : (s.poolAsk 0 (.read (BitVec.ofNat 64 pa) 256)).1 ≠ none) :
    s.lineRead 1 pa = (none, (s.poolAsk 0 (.read (BitVec.ofNat 64 pa) 256)).2) := by
  show (if (s.poolAsk 0 (.read (BitVec.ofNat 64 pa) 256)).1 = none then _ else none, _) = _
  rw [if_neg h]

/-- A line goes to its own frame where its packet, if it takes one, does not fail. -/
theorem lineWrite_of_ok (s : State) (tgt pa : Nat) (bs : List Byte)
    (h : tgt = 1 → (s.poolAsk 0 (.write (BitVec.ofNat 64 pa) bs)).1 = none) :
    s.lineWrite tgt pa bs = (true, (s.asked tgt (.write (BitVec.ofNat 64 pa) bs)).setImage tgt
      (mwrite (s.image tgt) pa bs)) := by
  unfold State.lineWrite
  split
  · next ht =>
    subst ht
    show (if (s.poolAsk 0 (.write (BitVec.ofNat 64 pa) bs)).1 = none then _ else _) = _
    rw [if_pos (h rfl), ← asked_image s 1 (.write (BitVec.ofNat 64 pa) bs) 1]
    rfl
  · next ht => rw [State.asked, if_neg ht]

/-! The entry (R40). -/

theorem setMig_entry (s : State) (k i k2 i2 : Nat) (e : Mig) :
    ((s.setMig k i e).stk k2).entry i2 = if k2 = k ∧ i2 = i then e else (s.stk k2).entry i2 := by
  rw [State.setMig, State.modStk_stk_ite]
  by_cases hk : k2 = k
  · subst hk
    rw [if_pos rfl, Stack.entry, tget_tset]
    simp [Stack.entry]
  · simp [hk]

theorem setMig_sets (s : State) (k i k2 : Nat) (e : Mig) : ((s.setMig k i e).stk k2).sets = (s.stk k2).sets := by
  rw [State.setMig, State.modStk_stk_ite]
  split
  · next h => rw [h]
  · rfl

/-- L2 lines alone have changed. -/
structure LinesOnly (s t : State) : Prop where
  rest : { t with stks := s.stks } = s
  mig : ∀ k, (t.stk k).mig = (s.stk k).mig

theorem LinesOnly.refl (s : State) : LinesOnly s s := ⟨rfl, fun _ => rfl⟩

theorem LinesOnly.trans {s t u : State} (h : LinesOnly s t) (k : LinesOnly t u) : LinesOnly s u := by
  refine ⟨?_, fun j => (k.mig j).trans (h.mig j)⟩
  calc { u with stks := s.stks } = { ({ u with stks := t.stks } : State) with stks := s.stks } := rfl
    _ = { t with stks := s.stks } := by rw [k.rest]
    _ = s := h.rest

theorem linesOnly_modStk (s : State) (k : Nat) (f : Stack → Stack) (hf : (f (s.stk k)).mig = (s.stk k).mig) :
    LinesOnly s (s.modStk k f) := by
  refine ⟨rfl, fun j => ?_⟩
  rw [State.modStk_stk_ite]
  split
  · next h => rw [h, hf]
  · rfl

theorem l2drop_linesOnly (s : State) (pa : Nat) : LinesOnly s (s.l2drop pa).2 := by
  unfold State.l2drop
  simp only
  split
  · exact .refl s
  · dsimp only
    refine linesOnly_modStk s _ _ ?_
    rfl

theorem l2refetch_linesOnly (s : State) (pa cls : Nat) : LinesOnly s (s.l2refetch pa cls) := by
  unfold State.l2refetch
  refine linesOnly_modStk s _ _ ?_
  simp only
  split <;> rfl

/-- A moving entry after one line more (R41, R42). -/
def Mig.onward (e : Mig) : Mig :=
  { e with
    prog := e.prog + 1
    asked := none
    st := if e.prog * 256 + 256 < e.size then .moving else if e.otgt = 0 then .done else .retired }

theorem migOn_eq (s : State) (k i : Nat) (e : Mig) :
    ∃ u, LinesOnly s u ∧ s.migOn k i e = u.setMig k i e.onward := by
  have hst : (if e.prog * 256 + 256 < e.size then MigSt.moving else if e.inbound then .retired else .done) =
      e.onward.st := by
    unfold Mig.onward Mig.inbound
    by_cases h : e.otgt = 0 <;> simp [h]
  have hd : LinesOnly s (if e.otgt = 0 then s.l2drop (e.old + e.prog * 256) else (none, s)).2 := by
    split
    · exact l2drop_linesOnly s _
    · exact .refl s
  unfold State.migOn
  simp only [hst]
  refine ⟨_, ?_, rfl⟩
  split
  · split
    · exact hd.trans (l2refetch_linesOnly _ _ _)
    · exact hd
  · exact hd

theorem LinesOnly.image {s t : State} (h : LinesOnly s t) (g : Nat) : t.image g = s.image g :=
  (congrArg (fun x => State.image x g) h.rest :)

/-- An entry that moves on leaves every memory image, the groups and the cores alone, and of the tables changes itself. -/
theorem migOn_frame (s : State) (k i : Nat) (e : Mig) :
    (s.migOn k i e).groups = s.groups ∧ (s.migOn k i e).cores = s.cores ∧ (s.migOn k i e).hif = s.hif ∧
      (∀ g, (s.migOn k i e).image g = s.image g) ∧
      ∀ k2 i2, ((s.migOn k i e).stk k2).entry i2 = if k2 = k ∧ i2 = i then e.onward else (s.stk k2).entry i2 := by
  obtain ⟨u, hu, ho⟩ := migOn_eq s k i e
  rw [ho]
  refine ⟨(congrArg State.groups hu.rest :), (congrArg State.cores hu.rest :), (congrArg State.hif hu.rest :),
    fun g => hu.image g, fun k2 i2 => ?_⟩
  rw [setMig_entry, Stack.entry, Stack.entry, hu.mig]

/-- The answer to the host's fault request, if one is still open, touches the host interface and host memory alone. -/
theorem migTold_frame (s : State) (e : Mig) :
    (s.migTold e).groups = s.groups ∧ (s.migTold e).cores = s.cores ∧ (s.migTold e).stks = s.stks ∧
      (∀ g, (g = 2 → ∀ c slot, e.asked ≠ some (c, some slot)) → (s.migTold e).image g = s.image g) ∧
      ∀ c slot, e.asked = some (c, some slot) → leNat (mread (s.migTold e).hif.mail (64 * slot + 60) 4) = 0 := by
  unfold State.migTold
  split
  · next c slot ha =>
    obtain ⟨h, m, he, hm⟩ := mbox_eq s slot 0 0 (by norm_num)
    rw [he]
    refine ⟨rfl, rfl, rfl, fun g hg => ?_, fun c' slot' h' => ?_⟩
    · have hg2 : g ≠ 2 := fun h2 => hg h2 c slot ha
      unfold State.image
      split
      · rfl
      · rfl
      · exact absurd rfl hg2
      · rfl
    · obtain ⟨rfl, rfl⟩ : c = c' ∧ slot = slot' := by simpa [ha] using h'
      exact hm
  · next hn => exact ⟨rfl, rfl, rfl, fun _ _ => rfl, fun c slot h => absurd h (hn c slot)⟩

/-- The place of a line that moves takes it: the state after its packets and the write of its bytes. -/
theorem migLine_of_lineMoves (s : State) (k i : Nat) (e : Mig) (bs : List Byte) (h : LineMoves s e bs) :
    ∃ l a, s.migLine k i e = ((({ s with link := l, answers := a } : State).setImage e.ntgt
      (mwrite (s.image e.ntgt) (e.new + e.prog * 256) bs)).migTold e).migOn k i e := by
  obtain ⟨hbs, hr, hw⟩ := h
  obtain ⟨l1, a1, h1⟩ := asked_eq s e.otgt (.read (BitVec.ofNat 64 (e.old + e.prog * 256)) 256)
  obtain ⟨l2, a2, h2⟩ := asked_eq { s with link := l1, answers := a1 } e.ntgt
    (.write (BitVec.ofNat 64 (e.new + e.prog * 256)) bs)
  refine ⟨l2, a2, ?_⟩
  unfold State.migLine
  simp only
  rw [lineRead_of_ok s _ _ hr, ← hbs]
  simp only
  rw [lineWrite_of_ok (s.asked e.otgt _) _ _ _ hw, asked_image, h1, h2]
  rfl

/-- What a MIGRATION_STEP of a line whose packets do not fail does (R41 to R43). -/
theorem migLine_moves (s : State) (k i : Nat) (e : Mig) (bs : List Byte) (hn : e.ntgt < 3) (h : LineMoves s e bs) :
    let t := s.migLine k i e
    t.groups = s.groups ∧ t.cores = s.cores ∧
      ((∀ c slot, e.asked ≠ some (c, some slot)) → mread (t.image e.ntgt) (e.new + e.prog * 256) 256 = bs) ∧
      (∀ g b, g ≠ e.ntgt ∨ b < e.new + e.prog * 256 ∨ e.new + e.prog * 256 + 256 ≤ b → g < 3 →
        (g = 2 → ∀ c slot, e.asked ≠ some (c, some slot)) → mget (t.image g) b = mget (s.image g) b) ∧
      (∀ c slot, e.asked = some (c, some slot) → leNat (mread t.hif.mail (64 * slot + 60) 4) = 0) ∧
      ∀ k2 i2, (t.stk k2).entry i2 = if k2 = k ∧ i2 = i then e.onward else (s.stk k2).entry i2 := by
  have hlen : bs.length = 256 := by rw [h.1, length_mread]
  obtain ⟨l, a, hl⟩ := migLine_of_lineMoves s k i e bs h
  obtain ⟨w1, w2, w3, w4, hw⟩ := setImage_eq { s with link := l, answers := a } e.ntgt
    (mwrite (s.image e.ntgt) (e.new + e.prog * 256) bs)
  have himg (g : Nat) := image_setImage { s with link := l, answers := a } g
    (mwrite (s.image e.ntgt) (e.new + e.prog * 256) bs) hn
  rw [hw] at hl himg
  obtain ⟨ogroups, ocores, ohif, oimage, oentry⟩ := migOn_frame (State.migTold { s with
    link := l, answers := a, hbm := w1, pool := w2, host := w3, peer := w4 } e) k i e
  obtain ⟨tgroups, tcores, tstks, timage, tmail⟩ := migTold_frame { s with
    link := l, answers := a, hbm := w1, pool := w2, host := w3, peer := w4 } e
  simp only
  rw [hl]
  refine ⟨ogroups.trans tgroups, ocores.trans tcores, fun ha => ?_, fun g b hg _ ha => ?_, fun c slot ha => ?_,
    fun k2 i2 => ?_⟩
  · rw [oimage, timage _ fun _ => ha, himg, if_pos rfl]
    have := mread_mwrite bs (s.image e.ntgt) (e.new + e.prog * 256)
    rwa [hlen] at this
  · rw [oimage, timage g ha, himg]
    split
    · next he => rw [mget_mwrite_out _ _ _ _ (by omega), he]
    · rfl
  · rw [ohif]; exact tmail c slot ha
  · rw [oentry, State.stk, tstks]; rfl

end Sys2Proof.Machine
end

section
/-! Fault requests (02 R43), and the steps of the statement. -/

namespace Sys2Proof.Machine

open Sys2Proof.Claims

/-- MIGRATION_STEP of an entry that moves, an inbound one after its TLBI, copies a line (R42). -/
theorem exec_migrationStep_moving {s : State} {k i : Nat} (hm : ((s.stk k).entry i).st = .moving)
    (hr : ((s.stk k).entry i).otgt = 0 ∨ ((s.stk k).entry i).run = true) :
    exec (.migrationStep k i) s = .next (s.migLine k i ((s.stk k).entry i)) := by
  show Host.Outcome.next (ite _ _ _) = _
  rw [if_pos]
  exact ⟨hm, by simpa [Mig.inbound] using hr⟩

/-- MIGRATION_STEP of any other entry does nothing. -/
theorem exec_migrationStep_idle {s : State} {k i : Nat} (h : ((s.stk k).entry i).st ≠ .moving ∨
    (((s.stk k).entry i).otgt ≠ 0 ∧ ((s.stk k).entry i).run = false)) : exec (.migrationStep k i) s = .next s := by
  show Host.Outcome.next (ite _ _ _) = _
  rw [if_neg]
  rintro ⟨hm, hr⟩
  rcases h with h | ⟨ho, hn⟩
  · exact h hm
  · simp [Mig.inbound, ho, hn] at hr

/-- A pool line whose packet fails stays where it is (log 137). -/
theorem migLine_of_failed (s : State) (k i : Nat) (e : Mig) (ho : e.otgt = 1)
    (h : (s.poolAsk 0 (.read (BitVec.ofNat 64 (e.old + e.prog * 256)) 256)).1 ≠ none) :
    s.migLine k i e = (s.poolAsk 0 (.read (BitVec.ofNat 64 (e.old + e.prog * 256)) 256)).2 := by
  unfold State.migLine
  simp only
  rw [ho, lineRead_of_failed s _ h]

/-! The mailbox (21 R458). -/

/-- A request behind the oldest doorbell is served. -/
theorem request_of_rung {s : State} {slot code : Nat} (f : State → State) (h : Rung s slot code) :
    request slot code s f = .next ((f (popped s)).settle (f (popped s)).hif.bells.length) := by
  obtain ⟨hb, hc, hv, hd, hl⟩ := h
  have ha : s.accepts code = true := by
    simp only [State.accepts, hd, List.isEmpty_nil, Bool.and_true, Bool.and_eq_true, Bool.or_eq_true, decide_eq_true_eq,
      List.isEmpty_iff]
    exact ⟨hv, hl⟩
  unfold request
  rw [if_pos ⟨hb, hc, ha⟩]
  rfl

/-! Fault requests (R43). -/

/-- The state in which a fault request is served: a request of the host's takes its doorbell first. -/
def State.taken (s : State) (host : Option Nat) : State := if host.isSome then popped s else s

/-- A fault request comes to `t`, and behind one of the host's the doorbells that no request follows are answered. -/
def FaultGoes (s : State) (pa tgt dst : Nat) (big : Bool) (host : Option Nat) (t : State) : Prop :=
  if host.isSome then Served1 (.faultRequest pa tgt dst big host) s t
  else exec (.faultRequest pa tgt dst big host) s = .next t

/-- The host's fault request names HBM, or it is refused (log 115). -/
theorem served1_faultRequest {s : State} {slot : Nat} (pa tgt dst : Nat) (big : Bool) (h : Rung s slot 9) :
    Served1 (.faultRequest pa tgt dst big (some slot)) s (if tgt ≠ 0 then (popped s).mbox slot 0 1 0
      else (popped s).faultReq pa tgt dst big (some slot)) :=
  request_of_rung (fun x => if tgt ≠ 0 then x.mbox slot 0 1 0 else x.faultReq pa tgt dst big (some slot)) h

theorem faultGoes_faultReq (s : State) (pa tgt dst : Nat) (big : Bool) (host : Option Nat)
    (h : ∀ slot, host = some slot → Rung s slot 9 ∧ tgt = 0) :
    FaultGoes s pa tgt dst big host ((s.taken host).faultReq pa tgt dst big host) := by
  cases host with
  | none => exact rfl
  | some slot =>
    obtain ⟨hr, rfl⟩ := h slot rfl
    exact served1_faultRequest pa 0 dst big hr

/-- The stack controllers, the host interface and host memory alone have changed, and no L2 line. -/
def FaultKept (s t : State) : Prop :=
  { t with stks := [], hif := s.hif, host := s.host } = { s with stks := [] } ∧ ∀ k, (t.stk k).sets = (s.stk k).sets

/-- The answer "served remotely" stands. -/
def ToldRemote (s t : State) : Option Nat → Prop
  | some slot => leNat (mread t.hif.mail (64 * slot + 60) 4) = 2
  | none => t.hif = { s.hif with fault := some true } ∧ t.host = s.host

/-- "Served remotely" is told, and no table changes. -/
theorem faultTold_spec (s : State) (host : Option Nat) :
    FaultKept s (s.faultTold host) ∧ ToldRemote s (s.faultTold host) host ∧ (s.faultTold host).stks = s.stks := by
  cases host with
  | none => exact ⟨⟨rfl, fun _ => rfl⟩, ⟨rfl, rfl⟩, rfl⟩
  | some slot =>
    obtain ⟨h, m, he, hm⟩ := mbox_eq s slot 0 2 (by norm_num)
    rw [State.faultTold, he]
    exact ⟨⟨rfl, fun _ => rfl⟩, hm, rfl⟩

/-- A fault request that loses is told so, and no entry changes. -/
theorem faultLost_spec (s : State) (k tgt page : Nat) (host : Option Nat) :
    FaultKept s (s.faultLost k tgt page host) ∧ ToldRemote s (s.faultLost k tgt page host) host ∧
      ∀ k2 i2, ((s.faultLost k tgt page host).stk k2).entry i2 = (s.stk k2).entry i2 := by
  unfold State.faultLost
  generalize hu : s.modStk k _ = u
  obtain ⟨⟨hk, hs⟩, hr, ht⟩ := faultTold_spec u host
  have hst (j : Nat) : ((u.faultTold host).stk j).sets = (s.stk j).sets ∧
      ((u.faultTold host).stk j).mig = (s.stk j).mig := by
    rw [State.stk, ht, ← State.stk, ← hu, State.modStk_stk_ite]
    split
    · next h => rw [h]; exact ⟨rfl, rfl⟩
    · exact ⟨rfl, rfl⟩
  have hh : u.hif = s.hif := by rw [← hu]; rfl
  have hm : u.host = s.host := by rw [← hu]; rfl
  refine ⟨⟨?_, fun j => (hst j).1⟩, ?_, fun j i => by rw [Stack.entry, (hst j).2]; rfl⟩
  · rw [hh, hm] at hk
    rw [hk, ← hu]; rfl
  · cases host with
    | none => rw [ToldRemote, hh, hm] at hr; exact hr
    | some slot => exact hr

/-- Is an entry free for a fault request? -/
def Mig.free (e : Mig) : Bool := e.st == .idle || e.st == .retired

theorem faultWon_of_full (s : State) (k : Nat) (e : Mig) (host : Option Nat)
    (h : ∀ j < 64, ((s.stk k).entry j).free = false) : s.faultWon k e host = s.faultLost k e.otgt e.old host := by
  have hn : (List.range 64).find? (fun i => ((s.stk k).entry i).free) = none :=
    List.find?_eq_none.2 fun j hj => by simp [h j (List.mem_range.1 hj)]
  unfold State.faultWon
  unfold Mig.free at hn
  rw [hn]

theorem faultWon_of_first (s : State) (k i : Nat) (e : Mig) (host : Option Nat) (hi : i < 64)
    (h : ((s.stk k).entry i).free = true) (hl : ∀ j < i, ((s.stk k).entry j).free = false) :
    s.faultWon k e host = if host.isSome then s.setMig k i { e with asked := some (s.clock, host) }
      else { s.setMig k i { e with asked := some (s.clock, host) } with hif := { s.hif with fault := some false } } := by
  have hn : (List.range 64).find? (fun i => ((s.stk k).entry i).free) = some i := by
    rw [List.find?_range_eq_some]
    exact ⟨h, List.mem_range.2 hi, fun j hj => by simp [hl j hj]⟩
  unfold State.faultWon
  unfold Mig.free at hn
  rw [hn]
  rfl

/-- A frame that no entry concerns has no tie to lose (R43). -/
theorem tieAt_of_not_migrating (s : State) (tgt pa size : Nat) (host : Bool) (h : s.migrating tgt pa size = false) :
    s.tieAt tgt pa size host = none := by
  simp only [State.migrating, List.any_eq_false, Bool.not_eq_true] at h
  rw [State.tieAt, List.findSome?_eq_none_iff]
  intro k hk
  rw [Option.map_eq_none_iff, List.find?_eq_none]
  intro p hp
  simp [h k hk p hp]

theorem free_eq_false (e : Mig) : e.free = false ↔ e.st ≠ .idle ∧ e.st ≠ .retired := by
  simp [Mig.free]

/-- A page that lies on the far side of the one that asks: the host's of a page on HBM, the device's of one in pool or host
memory. -/
def Far (tgt : Nat) (host : Option Nat) : Prop := if host.isSome then tgt = 0 else tgt = 1 ∨ tgt = 2

/-- The move that a fault request asks for. -/
def faultMove (pa tgt dst : Nat) (big : Bool) (host : Option Nat) : Mig :=
  moveOf pa tgt dst (if host.isSome then 2 else 0) big

/-- The controller of a move that a fault request asks for: that of its HBM frame (log 102). -/
def State.faultStk (s : State) (pa dst : Nat) (host : Option Nat) : Nat := s.stackOf (if host.isSome then pa else dst)

theorem home_of_far (s : State) {tgt : Nat} {host : Option Nat} (pa dst : Nat) (big : Bool) (h : Far tgt host) :
    Mig.home s (faultMove pa tgt dst big host) = some (s.faultStk pa dst host) := by
  cases host with
  | some slot =>
    have ht : tgt = 0 := h
    subst ht; rfl
  | none =>
    obtain rfl | rfl : tgt = 1 ∨ tgt = 2 := h <;> rfl

theorem far_test {tgt : Nat} {host : Option Nat} (h : Far tgt host) :
    (if host.isSome then decide (tgt = 0) else decide (tgt = 1 ∨ tgt = 2)) = true := by
  unfold Far at h
  split at h <;> simp [*]

/-- The device's fault request for a near page does nothing. -/
theorem faultReq_near (s : State) (pa tgt dst : Nat) (big : Bool) (h : tgt = 0 ∨ 3 ≤ tgt) :
    s.faultReq pa tgt dst big none = s := by
  unfold State.faultReq
  simp only
  split
  · rfl
  · rw [if_pos]
    have : ¬ (tgt = 1 ∨ tgt = 2) := by omega
    simp [this]

/-- An early repeat for a far page is answered "served remotely". -/
theorem faultReq_early (s : State) {tgt : Nat} {host : Option Nat} (pa dst : Nat) (big : Bool) (h : Far tgt host)
    (he : (s.stk (s.faultStk pa dst host)).early tgt pa host.isSome s.clock = true) :
    s.faultReq pa tgt dst big host = s.faultTold host := by
  have hh := home_of_far s pa dst big h
  unfold faultMove at hh
  unfold State.faultReq
  simp only [hh, far_test h, he, Bool.not_true, if_true]
  rfl

/-- A far page's move may begin where its frames are aligned and the HBM one lies in HBM. -/
theorem migOk_of_far (s : State) {tgt : Nat} {host : Option Nat} (pa dst : Nat) (big : Bool) (h : Far tgt host)
    (hp : pa % (faultMove pa tgt dst big host).size = 0) (hd : dst % (faultMove pa tgt dst big host).size = 0)
    (hb : s.inHbm (if host.isSome then pa else dst) = true) : s.migOk (faultMove pa tgt dst big host) = true := by
  have hh : (Mig.home s (faultMove pa tgt dst big host)).isSome = true := by rw [home_of_far s pa dst big h]; rfl
  have hp : (faultMove pa tgt dst big host).old % (faultMove pa tgt dst big host).size = 0 := hp
  have hd : (faultMove pa tgt dst big host).new % (faultMove pa tgt dst big host).size = 0 := hd
  unfold State.migOk
  rw [hp, hd, hh]
  cases host with
  | some slot =>
    have ht : tgt = 0 := h
    have hb : s.inHbm (faultMove pa tgt dst big (some slot)).old = true := hb
    subst ht
    rw [hb]; rfl
  | none =>
    have hb : s.inHbm (faultMove pa tgt dst big none).new = true := hb
    rw [hb]
    obtain rfl | rfl : tgt = 1 ∨ tgt = 2 := h <;> rfl

/-- A fault request for a far page whose frames can move and that no entry concerns is entered (R43). -/
theorem faultReq_enters (s : State) {tgt : Nat} {host : Option Nat} (pa dst : Nat) (big : Bool) (h : Far tgt host)
    (he : (s.stk (s.faultStk pa dst host)).early tgt pa host.isSome s.clock = false)
    (hok : s.migOk (faultMove pa tgt dst big host) = true)
    (ho : s.migrating tgt pa (faultMove pa tgt dst big host).size = false)
    (hn : s.migrating (if host.isSome then 2 else 0) dst (faultMove pa tgt dst big host).size = false) :
    s.faultReq pa tgt dst big host =
      s.faultWon (s.faultStk pa dst host) (faultMove pa tgt dst big host) host := by
  have hh := home_of_far s pa dst big h
  have ht := tieAt_of_not_migrating s tgt pa _ host.isSome ho
  have hn : s.migrating (faultMove pa tgt dst big host).ntgt dst (faultMove pa tgt dst big host).size = false := hn
  unfold faultMove at *
  unfold State.faultReq
  simp only [hh, far_test h, he, hok, ht, ho, hn, Bool.not_true, Bool.or_self, Bool.false_eq_true, if_false]

/-- A fault request for a far page that finds a free entry takes the lowest one, and the device is told at once (R43). -/
theorem faultWon_taken (s : State) (k i : Nat) (e : Mig) (host : Option Nat) (hi : i < 64)
    (h : ((s.stk k).entry i).free = true) (hl : ∀ j < i, ((s.stk k).entry j).free = false) :
    let t := s.faultWon k e host
    FaultKept s t ∧ t.host = s.host ∧ t.hif = (if host.isSome then s.hif else { s.hif with fault := some false }) ∧
      (t.stk k).entry i = { e with asked := some (s.clock, host) } ∧
      ∀ k2 i2, k2 ≠ k ∨ i2 ≠ i → (t.stk k2).entry i2 = (s.stk k2).entry i2 := by
  have hin : ((s.setMig k i { e with asked := some (s.clock, host) }).stk k).entry i =
      { e with asked := some (s.clock, host) } := by
    rw [setMig_entry, if_pos ⟨rfl, rfl⟩]
  have hout (k2 i2 : Nat) (hne : k2 ≠ k ∨ i2 ≠ i) :
      ((s.setMig k i { e with asked := some (s.clock, host) }).stk k2).entry i2 = (s.stk k2).entry i2 := by
    rw [setMig_entry, if_neg (by tauto)]
  have hsets (k2 : Nat) := setMig_sets s k i k2 { e with asked := some (s.clock, host) }
  simp only [faultWon_of_first s k i e host hi h hl]
  cases host with
  | some slot => exact ⟨⟨rfl, hsets⟩, rfl, rfl, hin, hout⟩
  | none => exact ⟨⟨rfl, hsets⟩, rfl, rfl, hin, hout⟩

/-- A fault request for a far page that finds no entry free is answered "served remotely" (log 40). -/
theorem faultWon_refused (s : State) (k : Nat) (e : Mig) (host : Option Nat)
    (h : ∀ j < 64, ((s.stk k).entry j).free = false) :
    let t := s.faultWon k e host
    FaultKept s t ∧ ToldRemote s t host ∧ ∀ k2 i2, (t.stk k2).entry i2 = (s.stk k2).entry i2 := by
  simp only [faultWon_of_full s k e host h]
  exact faultLost_spec s k e.otgt e.old host

end Sys2Proof.Machine

namespace Sys2Proof.Claims

open Sys2Proof.Machine

/-- Directory requests of one segment (04 R92). -/
theorem directoryRequest_holds (s : State) (die core seg r : Nat) (hc : core / 96 = die) (hd : die < 2)
    (hr : (s.die die).region seg = some r) (hs : (s.die die).soft seg = false) :
    ((∀ op, s.dirAt die seg ≠ .u op) → ∃ t, exec (.directoryRequest die core seg .read) s = .next t ∧ SegsOnly s t ∧
      t.holds core seg ∧ t.dirAt die seg = (s.dirAt die seg).read core) ∧
    ((∀ op, s.dirAt die seg ≠ .u op) → ∃ t, exec (.directoryRequest die core seg .write) s = .next t ∧ SegsOnly s t ∧
      t.holds core seg ∧ t.dirAt die seg = .o core ∧
      ∀ c ∈ dirCores (s.dirAt die seg), c ≠ core → ¬ t.holds c seg) ∧
    (∀ x : SegCopy, (s.core core).segs.find? (fun y => decide (y.seg = seg)) = some x → x.soft = false →
      ∃ t, exec (.directoryRequest die core seg .evict) s = .next t ∧ SegsOnly s t ∧ ¬ t.holds core seg ∧
        (∀ cs, s.dirAt die seg = .s cs → t.dirAt die seg = if (cs.erase core).isEmpty then .i else .s (cs.erase core)) ∧
        (∀ p, s.dirAt die seg = .o p → t.dirAt die seg = if p = core then .i else .o p)) := by
  have hx (q : DirReq) := exec_directoryRequest q hc hd hr hs
  obtain rfl : dieOf core = die := hc
  refine ⟨fun hu => ⟨_, hx .read, dirRead_filled s core seg hu⟩,
    fun hu => ⟨_, hx .write, dirWrite_filled s core seg hu⟩, fun x hf hx0 => ?_⟩
  obtain rfl : x.seg = seg := by simpa using List.find?_some hf
  have he := hx .evict
  simp only [State.dirServe, hf] at he
  exact ⟨_, he, (evictSeg_dropped s core x).only, not_holds_evictSeg s core x,
    fun cs hcs => evictSeg_dirAt_of_s s core x cs hx0 hcs, fun p hp => evictSeg_dirAt_of_o s core p x hx0 hp⟩

/-- Settles O53: each step of the memory system by the rules of its operations above. -/
theorem memorySystem : Obligations.MemorySystem := by
  unfold Obligations.MemorySystem
  refine ⟨fun s die idx v hd => ⟨l2RangeWrite_range s die idx v hd, l2RangeWrite_quota s die v hd⟩, l2PinSweep_lines,
    ?_, ?_, ?_, ?_⟩
  case refine_1 =>
    intro s die core seg r hc hd hr hs
    obtain ⟨hread, hwrite, hevict⟩ := directoryRequest_holds s die core seg r hc hd hr hs
    refine ⟨fun hu => ?_, fun hu => ?_, fun x hx hs => ?_⟩
    · obtain ⟨t, ht, ho, hh, hn⟩ := hread hu
      exact ⟨t, ht, ho.kept, hh, hn⟩
    · obtain ⟨t, ht, ho, hh, hn⟩ := hwrite hu
      exact ⟨t, ht, ho.kept, hh, hn⟩
    · obtain ⟨t, ht, ho, hh, hn⟩ := hevict x hx hs
      exact ⟨t, ht, ho.kept, hh, hn⟩
  case refine_2 =>
    intro s k i
    refine ⟨fun bs hm hr hn hl => ?_, fun hm hr ho hf => ?_, exec_migrationStep_idle⟩
    · obtain ⟨hg, hc, hin, hout, hmail, he⟩ := migLine_moves s k i ((s.stk k).entry i) bs hn hl
      refine ⟨_, exec_migrationStep_moving hm hr, hg, hc, hin, hout, fun c slot ha _ => hmail c slot ha, ?_,
        fun k2 i2 hne => ?_⟩
      · rw [he, if_pos ⟨rfl, rfl⟩]; rfl
      · rw [he, if_neg (by tauto)]
    · refine ⟨_, exec_migrationStep_moving hm (.inr hr), ?_⟩
      rw [migLine_of_failed s k i _ ho hf]
      obtain ⟨l, a, hp⟩ := poolAsk_eq s 0 (.read (BitVec.ofNat 64
        (((s.stk k).entry i).old + ((s.stk k).entry i).prog * 256)) 256)
      rw [hp]
      exact ⟨rfl, rfl, rfl, rfl, rfl, rfl⟩
  case refine_3 =>
    intro s slot pa tgt dst big hr ht
    have := served1_faultRequest pa tgt dst big hr
    rwa [if_pos ht] at this
  case refine_4 =>
    intro s0 pa tgt dst big host hhost
    have hgo := faultGoes_faultReq s0 pa tgt dst big host fun slot h => ⟨(hhost slot h).1, (hhost slot h).2.2⟩
    refine ⟨fun hnone hnear => ?_, fun hfar => ?_⟩
    · subst hnone
      rwa [faultReq_near _ _ _ _ _ hnear] at hgo
    have hfar : Far tgt host := by
      cases host with
      | none => simpa [Far] using hfar
      | some slot => exact (hhost slot rfl).2.2
    refine ⟨fun he hb => ?_, fun he hp hd hb ho hn => ?_⟩
    · rw [faultReq_early (s0.taken host) pa dst big hfar he] at hgo
      exact ⟨_, hgo, faultTold_spec (s0.taken host) host⟩
    · rw [faultReq_enters (s0.taken host) pa dst big hfar he (migOk_of_far _ pa dst big hfar hp hd hb) ho hn] at hgo
      refine ⟨fun i hi hfree hlow => ⟨_, hgo, ?_⟩, fun hall => ⟨_, hgo, ?_⟩⟩
      · exact faultWon_taken (s0.taken host) _ i _ host hi (Bool.eq_true_of_not_eq_false (mt (free_eq_false _).1 hfree))
          fun j hj => (free_eq_false _).2 (hlow j hj)
      · exact faultWon_refused (s0.taken host) _ _ host fun j hj => (free_eq_false _).2 (hall j hj)

end Sys2Proof.Claims
end

section
/-! The engines' lists of commands (03 R45, R47), and the commands that BCOPY, BCOPYM and PSTW put there (O36; 07 R174,
R175). -/

namespace Sys2Proof.Machine

open Sys2Proof.Claims Sys2Proof.Safety

/-! The list of one engine. -/

theorem cmdsOf_setCmds (s : State) (e j : Eng) (l : List CopyCmd) :
    (s.setCmds e l).cmdsOf j = if j = e then l else s.cmdsOf j := by
  cases e with
  | link => cases j <;> rfl
  | core n =>
    cases j with
    | link => rfl
    | core m =>
      simp only [State.setCmds, State.cmdsOf, State.modCore_core_ite, Eng.core.injEq]
      split <;> rfl

@[simp] theorem cmdsOf_setCmds_self (s : State) (e : Eng) (l : List CopyCmd) : (s.setCmds e l).cmdsOf e = l := by
  rw [cmdsOf_setCmds, if_pos rfl]

theorem setCmds_core (s : State) (e : Eng) (l : List CopyCmd) (k : Nat) :
    { (s.setCmds e l).core k with copies := [] } = { s.core k with copies := [] } := by
  cases e with
  | link => rfl
  | core n =>
    rw [State.setCmds, State.modCore_core_ite]
    split
    · next h => rw [h]
    · rfl

theorem setCmds_rest (s : State) (e : Eng) (l : List CopyCmd) :
    { s.setCmds e l with cores := [], link := { (s.setCmds e l).link with copies := s.link.copies } } =
      { s with cores := [] } := by
  cases e <;> rfl

/-- What leaves everything outside the groups alone leaves the engines alone. -/
theorem cmdsOf_of_outside {l : List Src} {s t : State} (h : Outside l s t) (e : Eng) : t.cmdsOf e = s.cmdsOf e := by
  obtain ⟨hrest, hcore, -, -⟩ := h
  cases e with
  | core n => exact (congrArg Core.copies (hcore n) :)
  | link => exact (congrArg (fun x => x.link.copies) hrest :)

/-! Empty bits (05 R111). -/

theorem emptyG_markG (r : Regs) (n m : Nat) (e : Bool) :
    (r.markG n e).emptyG m = if m = n ∧ m < 64 then e else r.emptyG m := by
  unfold Regs.markG Regs.emptyG
  by_cases hm : m < 64
  · by_cases hn : n < 64
    · by_cases h : m = n
      · subst h; cases e <;> simp [hm]
      · cases e <;> simp [hm, hn, h]
    · simp [hm, hn, show m ≠ n by omega]
  · simp [hm]

theorem markG_rest (r : Regs) (n : Nat) (e : Bool) : { r.markG n e with gEmpty := 0 } = { r with gEmpty := 0 } := by
  unfold Regs.markG
  split <;> rfl

/-! A command block's registers are read without a pop (05 R115). -/

theorem popSrc_g (s : State) (r : BitVec 6) : s.popSrc (.g r) = s := by
  unfold State.popSrc
  split <;> rfl

theorem src_blockSels {g : BitVec 6} {n : Nat} {x : Src} (h : x ∈ (blockSels g n).map (fun a => a.src)) :
    ∃ r, x = .g r := by
  simp only [blockSels, List.map_map, List.mem_map] at h
  obtain ⟨i, -, rfl⟩ := h
  exact ⟨_, rfl⟩

theorem popSrcs_blockSels (s : State) (g : BitVec 6) (n : Nat) :
    s.popSrcs ((blockSels g n).map (fun a => a.src)) = s := by
  unfold State.popSrcs
  have hl : ∀ x ∈ (blockSels g n).map (fun a => a.src), ∃ r, x = .g r := fun x hx => src_blockSels hx
  generalize (blockSels g n).map (fun a => a.src) = l at hl
  induction l with
  | nil => rfl
  | cons x l ih =>
    obtain ⟨r, rfl⟩ := hl x (by simp)
    rw [List.foldl_cons, popSrc_g]
    exact ih fun y hy => hl y (by simp [hy])

theorem sampleSrcs_blockSels (t s x : State) (g : BitVec 6) (n : Nat) :
    t.sampleSrcs s x ((blockSels g n).map (fun a => a.src)) = t := by
  have hn : ((blockSels g n).map (fun a => a.src)).filter (fun y => onceRead y && (x.sample y 0).isNone) = [] := by
    rw [List.filter_eq_nil_iff]
    intro y hy
    obtain ⟨r, rfl⟩ := src_blockSels hy
    simp [onceRead]
  unfold State.sampleSrcs
  simp [hn]

/-! Retirement and waiting leave the rest of the machine alone. -/

theorem retireG_rest (s : State) (pc : W64) :
    { s.retireG pc with groups := [], cores := [] } = { s with groups := [], cores := [] } := by
  unfold State.retireG State.turnDone
  simp only
  split <;> rfl

theorem leaveActive_frame (s : State) (gk : Nat) :
    Outside [] s (s.leaveActive gk) ∧ (s.leaveActive gk).groups = s.groups ∧ (s.leaveActive gk).cur = s.cur := by
  unfold State.leaveActive
  simp only
  repeat' split
  · exact ⟨(Only.refl s).outside [], rfl, rfl⟩
  · refine ⟨⟨rfl, fun c => ?_, fun _ => rfl, fun _ _ => rfl⟩, rfl, rfl⟩
    rw [State.modQuad, State.modCore_core_ite]
    split
    · next h => subst h; rfl
    · rfl
  · exact ⟨(Only.refl s).outside [], rfl, rfl⟩

/-- A wait for a place or an engine: the status alone changes, and the scheduling positions (15 R398). -/
theorem wait_waits (s : State) (w : Wait)
    (hw : (w == .barrier || w == .cluster || w == .object || w == .monitor) = false) (l : List Src) :
    Waits l s (s.wait w) w false ∧ OthersKept s (s.wait w) ∧ Outside [] s (s.wait w) := by
  have h1 : Only s (s.modY (fun y => { y with status := .waiting w })) := only_modG s _
  have hg : (s.modY (fun y => { y with status := .waiting w })).g =
      { s.g with y := { s.g.y with status := .waiting w } } := s.modG_g _
  have key : ∀ t : State, Outside [] (s.modY (fun y => { y with status := .waiting w })) t →
      t.groups = (s.modY (fun y => { y with status := .waiting w })).groups → t.cur = s.cur →
      Waits l s t w false ∧ OthersKept s t ∧ Outside [] s t := by
    intro t ho hgr hc
    have hgrp : ∀ k, t.grp k = (s.modY (fun y => { y with status := .waiting w })).grp k := fun k => by
      simp only [State.grp, hgr]
    have htg : t.g = { s.g with y := { s.g.y with status := .waiting w } } := by
      rw [← hg, State.g, hgrp, hc]; rfl
    refine ⟨?_, fun k hk => (hgrp k).trans (h1.2 k hk), by simpa using outside_trans (h1.outside []) ho⟩
    rw [Waits, NothingSent, htg]
    exact ⟨rfl, rfl, fun _ => rfl, fun _ _ => ⟨rfl, rfl⟩, ⟨rfl, rfl⟩, fun _ => rfl, rfl⟩
  unfold State.wait
  rw [hw, Bool.and_false, if_neg (by simp)]
  simp only
  split
  · obtain ⟨ho, hgr, hc⟩ := leaveActive_frame (s.modY (fun y => { y with status := .waiting w })) s.cur
    exact key _ ho hgr hc
  · exact key _ ((Only.refl _).outside []) rfl rfl

/-! BCOPY, BCOPYM and PSTW (07 R174, R175). -/

theorem gn_eq_uniReg (s : State) (d : BitVec 6) : s.gn d = uniReg s d := by
  unfold State.gn Group.gName uniReg
  simp

theorem engCap_eq (e : Eng) : engCap e = if e = .link then 256 else 32 := by
  cases e <;> rfl

/-- A command's engine: the link die's for a side in space 5 (R47). -/
theorem engine_capture (s : State) (pstw follow : Bool) (g : BitVec 6) (gd : Nat) :
    (s.capture pstw follow g gd).engine s.cn =
      if ((pstw || (s.cmd g 0).toNat % 16 != 1) && rSpace (s.g.r.getB ((s.cmd g 0).toNat / 2 ^ 4 % 16)) == 5) ||
          rSpace (s.g.r.getB ((s.cmd g 0).toNat / 2 ^ 8 % 16)) == 5 then .link else .core s.cn := by
  have hw : ((s.cmds g (if pstw then 4 else 8)).headD 0) = s.cmd g 0 := by cases pstw <;> rfl
  have hw0 : (s.capture pstw follow g gd).word 0 = (s.cmd g 0).toNat := by cases pstw <;> rfl
  have hu : (s.capture pstw follow g gd).usesS = (pstw || (s.cmd g 0).toNat % 16 != 1) := by
    have hk : (s.capture pstw follow g gd).kind = if pstw then 5 else fieldOf ((s.capture pstw follow g gd).word 0) 0 4 := rfl
    rw [CopyCmd.usesS, hk, hw0]
    cases pstw <;> simp [fieldOf, bne]
    rfl
  unfold CopyCmd.engine
  rw [hu]
  simp only [State.capture, hw, fieldOf]
  norm_num

/-- A command that a check ends before any byte moves (R49). -/
def State.checked (s : State) (c : CopyCmd) : CopyCmd :=
  match s.copyErr c with
  | some x => { c with st := .done, cls := x.1, detail := x.2 }
  | none => c

/-- The state in which a command of the group at issue has been accepted, before the instruction retires. -/
def State.issued (s : State) (e : Eng) (c : CopyCmd) : State :=
  ((s.modG (fun g => { g with r := g.r.markG c.gd true, y := g.y.unflag (.g c.gd) })).accept e c).incPath s.cur 4 1

theorem issued_cur (s : State) (e : Eng) (c : CopyCmd) : (s.issued e c).cur = s.cur := by
  cases e <;> rfl

theorem issued_grp (s : State) (e : Eng) (c : CopyCmd) (k : Nat) : (s.issued e c).grp k =
    if k = s.cur then
      { s.g with r := s.g.r.markG c.gd true, y := (s.g.y.unflag (.g c.gd)).setPath 4 ((s.g.y.unflag (.g c.gd)).path 4 + 1) }
    else s.grp k := by
  have ha : ∀ t : State, (t.accept e c).groups = t.groups := fun t => by cases e <;> rfl
  have hg : ∀ t : State, (t.accept e c).grp = t.grp := fun t => by unfold State.grp; rw [ha]
  rw [State.issued, State.incPath, State.modGrp_grp_ite, hg]
  split
  · rw [State.modG_grp]; rfl
  · next h => rw [State.modG_grp_ne _ _ h]

theorem issued_cmdsOf (s : State) (e : Eng) (c : CopyCmd) :
    (s.issued e c).cmdsOf e = s.cmdsOf e ++ [s.checked c] := by
  have hi : ∀ t : State, (t.incPath s.cur 4 1).cmdsOf e = t.cmdsOf e := fun t => by cases e <;> rfl
  rw [State.issued, hi, State.accept, cmdsOf_setCmds_self]
  cases e <;> rfl

theorem issued_core (s : State) (e : Eng) (c : CopyCmd) (k : Nat) :
    { (s.issued e c).core k with copies := [] } = { s.core k with copies := [] } := by
  exact setCmds_core _ e _ k

theorem issued_rest (s : State) (e : Eng) (c : CopyCmd) :
    { s.issued e c with groups := [], cores := [], nextCopy := 0, link := { (s.issued e c).link with copies := s.link.copies } } =
      { s with groups := [], cores := [], nextCopy := 0 } := by
  cases e <;> rfl

theorem checked_eq (s : State) (c : CopyCmd) : ∃ a b x, s.checked c = { c with st := a, cls := b, detail := x } := by
  unfold State.checked
  split <;> exact ⟨_, _, _, rfl⟩

/-- What a command captures of its words, records, seed and privilege (R46). -/
theorem capture_fields (s : State) (pstw follow : Bool) (g : BitVec 6) (gd : Nat) :
    let c := s.capture pstw follow g gd
    let rc := fun (lo : Nat) => s.g.r.getB ((s.cmd g 0).toNat / 2 ^ lo % 16)
    c.gk = some s.cur ∧ c.gd = gd ∧ c.w = s.cmds g (if pstw then 4 else 8) ∧ c.pstw = pstw ∧ c.follow = follow ∧
      c.s = rc 4 ∧ c.d = rc 8 ∧ c.t = rc 12 ∧ c.seed = s.l.seed ∧ c.priv = s.priv ∧ c.ctx = s.t.ctx ∧ c.id = s.nextCopy ∧
      c.pos = 0 ∧ c.bytes = 0 := by
  cases pstw <;> exact ⟨rfl, rfl, rfl, rfl, rfl, rfl, rfl, rfl, rfl, rfl, rfl, rfl, rfl, rfl⟩

/-- An instruction that gives a command to an engine with a place and a path counter with room (R45, R174). -/
theorem copyInstr_issues {s : State} {pstw follow : Bool} {d g : BitVec 6} {e : Eng} {c : CopyCmd}
    (hr : Runs s (blockSels g (if pstw then 4 else 8)) [.g (uniReg s d)] s)
    (hc : s.capture pstw follow g (s.gn d) = c) (he : c.engine s.cn = e)
    (hp : (s.cmdsOf e).length < engCap e) (h4 : s.g.y.path 4 < 65535)
    (hs : ∀ p ∈ s.t.saveCopies, p.1.gk ≠ some s.cur) :
    copyInstr pstw follow d g s = .next ((s.issued e c).retireG (s.g.r.pc + 4)) := by
  obtain ⟨hr, ha⟩ := hr
  have hn : s.t.saveCopies.any (fun p => p.1.gk = some s.cur) = false := by
    simpa using hs
  have hpr : s.pathRoom 4 = true := by simpa [State.pathRoom] using h4
  have hg : (s.issued e c).g = _ := (issued_cur s e c ▸ issued_grp s e c s.cur).trans (if_pos rfl)
  have hga : (s.issued e c).g.y.stepArmed = false := by rw [hg]; exact ha
  have hgd : c.gd = s.gn d := hc ▸ rfl
  rw [← gn_eq_uniReg] at hr
  change s.ready _ [s.dg d] = _ at hr
  unfold copyInstr
  rw [run_ok hr (y := s.issued e c) (by simp [hc, he, hn, hpr, Nat.not_le.2 hp, State.issued, hgd]) hga,
    popSrcs_blockSels, hg]
  simp

/-- An instruction that finds its engine full waits (R174). -/
theorem copyInstr_waits {s : State} {pstw follow : Bool} {d g : BitVec 6} {e : Eng} {c : CopyCmd}
    (hr : Runs s (blockSels g (if pstw then 4 else 8)) [.g (uniReg s d)] s)
    (hc : s.capture pstw follow g (s.gn d) = c) (he : c.engine s.cn = e)
    (hp : engCap e ≤ (s.cmdsOf e).length) : copyInstr pstw follow d g s = .next (s.wait .engine) := by
  obtain ⟨hr, -⟩ := hr
  rw [← gn_eq_uniReg] at hr
  unfold copyInstr run
  change s.ready _ [s.dg d] = _ at hr
  simp only [hr, hc, he, hp, true_or, if_true, Res.settle, sampleSrcs_blockSels, finish]

/-- What an accepted command changes once its instruction has retired (R45, R46, R174). -/
theorem issued_retired (s : State) (e : Eng) (c : CopyCmd) :
    let t := (s.issued e c).retireG (s.g.r.pc + 4)
    t.cmdsOf e = s.cmdsOf e ++ [s.checked c] ∧
    (∀ p, t.g.y.path p = if p = 4 then s.g.y.path 4 + 1 else s.g.y.path p) ∧
    (∀ n, t.g.r.emptyG n = (s.g.r.emptyG n || (decide (n = c.gd) && decide (n < 64)))) ∧
    { t.g.r with gEmpty := 0 } = { s.g.r with gEmpty := 0, pc := s.g.r.pc + 4 } ∧ t.g.sys = s.g.sys ∧ OthersKept s t ∧
    (∀ k, { t.core k with copies := [], turn := 0, quads := [] } = { s.core k with copies := [], turn := 0, quads := [] }) ∧
    { t with groups := [], cores := [], nextCopy := 0, link := { t.link with copies := s.link.copies } } =
      { s with groups := [], cores := [], nextCopy := 0 } := by
  obtain ⟨hout, hoth, -, hg⟩ := retireG_frame (s.issued e c) (s.g.r.pc + 4)
  have hz : (s.issued e c).g = _ := (issued_cur s e c ▸ issued_grp s e c s.cur).trans (if_pos rfl)
  rw [hz] at hg
  intro t
  refine ⟨(cmdsOf_of_outside hout e).trans (issued_cmdsOf s e c), fun p => ?_, fun n => ?_, ?_, ?_, fun k hk => ?_,
    fun k => ?_, ?_⟩
  · rw [hg]; exact tget_tset (d := 0) s.g.y.paths 4 p (s.g.y.path 4 + 1)
  · rw [hg]
    show (s.g.r.markG c.gd true).emptyG n = _
    rw [emptyG_markG]
    by_cases h : n = c.gd ∧ n < 64
    · rw [if_pos h, decide_eq_true h.1, decide_eq_true h.2, Bool.and_true, Bool.or_true]
    · rw [if_neg h, ← Bool.decide_and, decide_eq_false h, Bool.or_false]
  · rw [hg]
    exact (congrArg (fun (r : Regs) => { r with pc := s.g.r.pc + 4 }) (markG_rest s.g.r c.gd true) :)
  · rw [hg]; rfl
  · rw [hoth k (by rwa [issued_cur]), issued_grp, if_neg hk]
  · have h1 := congrArg (fun (x : Core) => { x with copies := [] }) (hout.2.1 k)
    have h2 := congrArg (fun (x : Core) => { x with turn := 0, quads := [] }) (issued_core s e c k)
    exact (h1.trans h2 :)
  · have h1 := congrArg (fun (x : State) => { x with nextCopy := 0, link := { x.link with copies := s.link.copies } })
      (retireG_rest (s.issued e c) (s.g.r.pc + 4))
    exact (h1.trans (issued_rest s e c) :)

end Sys2Proof.Machine

namespace Sys2Proof.Claims

open Sys2Proof.Machine Sys2Proof.Safety

/-- Settles O36: the command that is captured, the state in which it stands at its engine's tail, and the retirement. -/
theorem copyIssue : Obligations.CopyIssue := by
  unfold Obligations.CopyIssue
  intro s d g i pstw follow e w0 hi hr hw rc he
  have hx : exec i s = copyInstr pstw follow d g s := by
    simp only [List.mem_cons, Prod.mk.injEq, List.not_mem_nil, or_false] at hi
    rcases hi with ⟨rfl, rfl, rfl⟩ | ⟨rfl, rfl, rfl⟩ | ⟨rfl, rfl, rfl⟩ <;> rfl
  have hf := capture_fields s pstw follow g (s.gn d)
  have he : (s.capture pstw follow g (s.gn d)).engine s.cn = e := by rw [he, engine_capture, ← hw]
  rw [hx, ← engCap_eq]
  refine ⟨fun hp h4 hs => ?_, fun hp => ⟨_, copyInstr_waits hr rfl he hp, wait_waits s .engine rfl []⟩⟩
  have hfresh : { s.capture pstw follow g (s.gn d) with st := .queued, cls := 0, detail := 0 } =
    s.capture pstw follow g (s.gn d) := rfl
  have ht := copyInstr_issues hr rfl he hp h4 hs
  generalize s.capture pstw follow g (s.gn d) = c at *
  obtain ⟨hgk, hgd, hw', hpstw, hfollow, hs', hd', ht', hseed, hpriv, hctx, hid, hpos, hbytes⟩ := hf
  rw [gn_eq_uniReg] at hgd
  obtain ⟨hcmds, hpath, hempty, hrest⟩ := issued_retired s e c
  have herr : (s.copyErr c = none → (s.checked c).st = .queued ∧ (s.checked c).cls = 0) ∧
      ∀ x, s.copyErr c = some x → (s.checked c).st = .done ∧ (s.checked c).cls = x.1 ∧ (s.checked c).detail = x.2 := by
    unfold State.checked
    refine ⟨fun h => ?_, fun x h => ?_⟩ <;> rw [h]
    · rw [← hfresh]; exact ⟨rfl, rfl⟩
    · exact ⟨rfl, rfl, rfl⟩
  obtain ⟨a, b, x, hq⟩ := checked_eq s c
  rw [hq] at hcmds herr
  subst hw
  exact ⟨_, _, ht, hcmds, hgk, hgd, hw', hpstw, hfollow, hs', hd', ht', hseed, hpriv, hctx, hid, hpos, hbytes,
    hfresh.symm ▸ herr.1, hfresh.symm ▸ herr.2, hpath, hgd ▸ hempty, hrest⟩

end Sys2Proof.Claims
end

section
/-! Bytes, physical memory where no page is on the move (02 R41), and what translations leave alone (02 R29 to R35). -/

namespace Sys2Proof.Machine

open Sys2Proof.Claims

/-! Bytes of a memory. -/

theorem mread_congr {m p : Memory} {a b n : Nat} (h : ∀ i < n, mget m (a + i) = mget p (b + i)) :
    mread m a n = mread p b n := by
  induction n generalizing a b with
  | zero => rfl
  | succ n ih =>
    have h0 : mget m a = mget p b := h 0 (by omega)
    have hs : mread m (a + 1) n = mread p (b + 1) n := ih fun i hi => by
      have := h (i + 1) (by omega)
      rwa [show a + (i + 1) = a + 1 + i by omega, show b + (i + 1) = b + 1 + i by omega] at this
    rw [mread, mread, h0, hs]

/-- Bytes apart from a write are read as before. -/
theorem mread_mwrite_out (m : Memory) (bs : List Byte) {a b n : Nat} (h : a + n ≤ b ∨ b + bs.length ≤ a) :
    mread (mwrite m b bs) a n = mread m a n :=
  mread_congr fun i hi => mget_mwrite_out bs m b (a + i) (by omega)

theorem mread_mwrite_leBytes (m : Memory) (a n v : Nat) : mread (mwrite m a (leBytes n v)) a n = leBytes n v := by
  have := mread_mwrite (leBytes n v) m a
  rwa [length_leBytes] at this

theorem leNat_lt (l : List Byte) : leNat l < 256 ^ l.length := by
  induction l with
  | nil => simp [leNat]
  | cons b l ih =>
    have := b.isLt
    rw [leNat, List.length_cons, pow_succ]
    norm_num at *
    omega

theorem leNat_mread_lt (m : Memory) (a n : Nat) : leNat (mread m a n) < 256 ^ n := by
  have := leNat_lt (mread m a n)
  rwa [length_mread] at this

theorem leBytes_leNat (l : List Byte) : leBytes l.length (leNat l) = l := by
  induction l with
  | nil => rfl
  | cons b l ih =>
    have := b.isLt
    have hd : (b.toNat + 256 * leNat l) / 256 = leNat l := by omega
    have hm : BitVec.ofNat 8 (b.toNat + 256 * leNat l) = b := by
      apply BitVec.eq_of_toNat_eq
      rw [BitVec.toNat_ofNat]
      omega
    rw [List.length_cons, leNat, leBytes, hd, ih, hm]

/-! Tables: what a listed entry is after a write. -/

theorem tget_mem {α : Type} (d : α) (m : Tbl α) (k : Nat) : tget d m k = d ∨ (k, tget d m k) ∈ m := by
  induction m with
  | nil => exact .inl rfl
  | cons p m ih =>
    by_cases h : k = p.1
    · right; simp [tget, h]
    · simp only [tget, h, if_false]
      exact ih.imp id (List.mem_cons_of_mem p)

theorem mem_tset {α : Type} [DecidableEq α] {d : α} {m : Tbl α} {k : Nat} {v : α} {p : Nat × α} (h : p ∈ tset d m k v) :
    p = (k, v) ∨ p ∈ m := by
  unfold tset at h
  split at h
  · exact .inr (mem_tdel.1 h).1
  · exact (mem_tins.1 h).imp id fun h => (mem_tdel.1 h).1

/-! No page on the move (02 R40, R41). -/

theorem served_of_still {s : State} (h : NotMigrating s) (tgt pa : Nat) : s.served tgt pa = (tgt, pa) := by
  unfold State.served
  rw [List.findSome?_eq_none_iff.2]
  · rfl
  · intro e he
    obtain ⟨k, hk, he⟩ := List.mem_flatMap.1 he
    obtain ⟨hm, hd⟩ := h k hk e he
    simp [Mig.serve, hm, hd]

theorem pread_of_still {s : State} (h : NotMigrating s) (tgt pa n : Nat) : s.pread tgt pa n = mread (s.image tgt) pa n := by
  induction n generalizing pa with
  | zero => rfl
  | succ n ih => rw [State.pread, mread, ih, State.pbyte, served_of_still h]

theorem pwrite_of_still {s : State} (h : NotMigrating s) (pa : Nat) (bs : List Byte) :
    s.pwrite 0 pa bs = { s with hbm := mwrite s.hbm pa bs } := by
  induction bs generalizing s pa with
  | nil => rfl
  | cons b bs ih =>
    have hs : s.pset 0 pa b = { s with hbm := mset s.hbm pa b } := by
      unfold State.pset
      rw [served_of_still h]
      rfl
    rw [State.pwrite, hs, ih (s := { s with hbm := mset s.hbm pa b }) h]
    rfl

/-- A controller changed in its L2 lines alone moves no page. -/
theorem still_modStk {s : State} {k : Nat} {f : Stack → Stack} (hf : (f (s.stk k)).mig = (s.stk k).mig)
    (h : NotMigrating s) : NotMigrating (s.modStk k f) := by
  intro p hp q hq
  rcases mem_tset hp with rfl | hp
  · simp only [hf] at hq
    rcases tget_mem Stack.reset s.stks k with he | he
    · rw [State.stk, he] at hq
      exact absurd hq List.not_mem_nil
    · exact h _ he q hq
  · exact h p hp q hq

/-! Accesses of the L2 (04 R82). -/

/-- L2 lines alone have changed, and no page that stood has begun to move. -/
structure Lined (s t : State) : Prop where
  rest : { t with stks := s.stks } = s
  still : NotMigrating s → NotMigrating t

theorem Lined.refl (s : State) : Lined s s := ⟨rfl, id⟩

theorem Lined.trans {s t u : State} (h : Lined s t) (k : Lined t u) : Lined s u := by
  refine ⟨?_, k.still ∘ h.still⟩
  calc { u with stks := s.stks } = { ({ u with stks := t.stks } : State) with stks := s.stks } := rfl
    _ = { t with stks := s.stks } := by rw [k.rest]
    _ = s := h.rest

theorem Lined.foldl {α : Type} (f : State → α → State) (hf : ∀ s x, Lined s (f s x)) (l : List α) (s : State) :
    Lined s (l.foldl f s) := by
  induction l generalizing s with
  | nil => exact .refl s
  | cons x l ih => exact (hf s x).trans (ih (f s x))

theorem l2touch_lined (s : State) (pa cls : Nat) (wr : Bool) : Lined s (s.l2touch pa cls wr) := by
  unfold State.l2touch
  exact ⟨rfl, still_modStk rfl⟩

theorem l2range_lined (s : State) (tgt pa n cls : Nat) (wr : Bool) : Lined s (s.l2range tgt pa n cls wr) := by
  unfold State.l2range
  split
  · exact .refl s
  · refine Lined.foldl _ (fun st a => ?_) _ s
    simp only
    split
    · exact l2touch_lined ..
    · exact .refl st

theorem walkL2_lined (s : State) (asid : BitVec 13) (va : Nat) : Lined s (s.walkL2 asid va) :=
  Lined.foldl _ (fun st _ => l2range_lined st ..) _ s

/-! Translations (02 R29 to R35). -/

/-- Translations have been looked up: caches of translations, L2 lines, the pages noted as mapped and the frames that no pin
applies to alone have changed. -/
structure Looked (s t : State) : Prop where
  rest : { t with cores := s.cores, dies := s.dies, stks := s.stks, maps := s.maps, link := { t.link with tlb := s.link.tlb } } = s
  core : ∀ c, { t.core c with tlb := [], ctlb := [] } = { s.core c with tlb := [], ctlb := [] }
  die : ∀ d, { t.die d with nopin := [] } = { s.die d with nopin := [] }
  still : NotMigrating s → NotMigrating t

theorem Looked.refl (s : State) : Looked s s := ⟨rfl, fun _ => rfl, fun _ => rfl, id⟩

theorem Looked.trans {s t u : State} (h : Looked s t) (k : Looked t u) : Looked s u := by
  refine ⟨?_, fun c => (k.core c).trans (h.core c), fun d => (k.die d).trans (h.die d), k.still ∘ h.still⟩
  have e := congrArg (fun (x : State) => { x with
    cores := s.cores
    dies := s.dies
    stks := s.stks
    maps := s.maps
    link := { x.link with tlb := s.link.tlb } }) k.rest
  exact e.trans h.rest

theorem Lined.looked {s t : State} (h : Lined s t) : Looked s t := by
  have hc : t.cores = s.cores := (congrArg State.cores h.rest :)
  have hd : t.dies = s.dies := (congrArg State.dies h.rest :)
  have hm : t.maps = s.maps := (congrArg State.maps h.rest :)
  have hl : t.link = s.link := (congrArg State.link h.rest :)
  refine ⟨?_, fun c => by simp only [State.core, hc], fun d => by simp only [State.die, hd], h.still⟩
  rw [← hc, ← hd, ← hm, ← hl]
  exact h.rest

theorem setTlb_looked (s : State) (h : Holder) (l : List TlbEntry) : Looked s (s.setTlb h l) := by
  cases h with
  | link => exact ⟨rfl, fun _ => rfl, fun _ => rfl, id⟩
  | core n =>
    refine ⟨rfl, fun c => ?_, fun _ => rfl, id⟩
    rw [State.setTlb, State.modCore_core_ite]
    split
    · next h => rw [h]
    · rfl
  | copy n =>
    refine ⟨rfl, fun c => ?_, fun _ => rfl, id⟩
    rw [State.setTlb, State.modCore_core_ite]
    split
    · next h => rw [h]
    · rfl

theorem modDie_looked (s : State) (d : Nat) (f : Die → Die)
    (hf : { f (s.die d) with nopin := [] } = { s.die d with nopin := [] }) : Looked s (s.modDie d f) := by
  refine ⟨rfl, fun _ => rfl, fun j => ?_, id⟩
  rw [State.modDie_die_ite]
  split
  · next h => rw [h, hf]
  · rfl

theorem noteMap_looked (s : State) (t : TlbEntry) : Looked s (s.noteMap t) := by
  have hm : ∀ (u : State) (l : List TlbEntry), Looked u { u with maps := l } := fun _ _ =>
    ⟨rfl, fun _ => rfl, fun _ => rfl, id⟩
  unfold State.noteMap
  simp only
  split
  · exact (modDie_looked s _ _ rfl).trans (hm _ _)
  · exact hm s _

/-- The outcome of a lookup: a hit leaves the state alone, a walk fills the holder. -/
theorem leafOf_looked (s : State) (h : Holder) (asid : BitVec 13) (va : Nat) : Looked s (s.leafOf h asid va).2 := by
  unfold State.leafOf
  split
  · exact .refl s
  · simp only
    split
    · exact (walkL2_lined s asid va).looked
    · exact ((walkL2_lined s asid va).looked.trans (noteMap_looked _ _)).trans (setTlb_looked _ _ _)

/-- What a translation answers for a leaf. -/
def State.xans (s : State) (va : W64) (tgt : Nat) (priv : Bool) (need : Need) : Option (Nat × Nat) → Except XFault XAddr
  | none => .error .miss
  | some (psz, leaf) =>
    if fieldOf leaf 8 2 ≠ tgt then .error .space
    else match leafRights va leaf priv need with
      | some f => .error f
      | none =>
        if tgt = 0 ∧ s.inHbm (entryAddr leaf + va.toNat % pageBytes psz) = false then .error .miss
        else .ok ⟨tgt, entryAddr leaf + va.toNat % pageBytes psz, psz, leaf⟩

theorem xlate_eq (s : State) (h : Holder) (asid : BitVec 13) (va : W64) (tgt : Nat) (priv : Bool) (need : Need) :
    s.xlate h asid va tgt priv need =
      if !isCanon va then (.error .miss, s) else if isSupHalf va && !priv then (.error (.perm true), s)
      else (s.xans va tgt priv need (s.leafOf h asid (va.toNat % 2 ^ 57)).1, (s.leafOf h asid (va.toNat % 2 ^ 57)).2) := by
  unfold State.xlate
  split
  · rfl
  split
  · rfl
  simp only
  split
  · next h => rw [h]; rfl
  · next psz leaf h =>
    rw [h]
    simp only [State.xans]
    split
    · rfl
    cases leafRights va leaf priv need with
    | some f => rfl
    | none => simp only; split <;> rfl

theorem xlate_looked (s : State) (h : Holder) (asid : BitVec 13) (va : W64) (tgt : Nat) (priv : Bool) (need : Need) :
    Looked s (s.xlate h asid va tgt priv need).2 := by
  rw [xlate_eq]
  split
  · exact .refl s
  split
  · exact .refl s
  · exact leafOf_looked ..

/-- What a lookup keeps of the rest of the machine. -/
theorem Looked.kept {s t : State} (h : Looked s t) :
    t.groups = s.groups ∧ t.teams = s.teams ∧ t.launches = s.launches ∧ t.ctxs = s.ctxs ∧ t.hbm = s.hbm ∧ t.ecc = s.ecc ∧
      { t.link with tlb := s.link.tlb } = s.link ∧ (∀ c, (t.core c).tile = (s.core c).tile) ∧
      (∀ c, (t.core c).copies = (s.core c).copies) ∧ ∀ d, (t.die d).retired = (s.die d).retired :=
  ⟨(congrArg State.groups h.rest :), (congrArg State.teams h.rest :), (congrArg State.launches h.rest :),
    (congrArg State.ctxs h.rest :), (congrArg State.hbm h.rest :), (congrArg State.ecc h.rest :),
    (congrArg State.link h.rest :), fun c => (congrArg Core.tile (h.core c) :),
    fun c => (congrArg Core.copies (h.core c) :), fun d => (congrArg Die.retired (h.die d) :)⟩

end Sys2Proof.Machine
end

section
/-! View table entries as numbers (03 R74): a field that is replaced, and the entries that PUBLISH and the snapshot requests
write. -/

namespace Sys2Proof.Machine

open Sys2Proof.Claims

/-! A field replaced. -/

theorem testBit_fieldOf (w lo n i : Nat) : (fieldOf w lo n).testBit i = (decide (i < n) && w.testBit (lo + i)) := by
  rw [fieldOf, Nat.testBit_mod_two_pow, Nat.testBit_div_two_pow, Nat.add_comm]

theorem nput_eq (e lo n v : Nat) :
    nput e lo n v = 2 ^ lo * (2 ^ n * (e / 2 ^ lo / 2 ^ n) + v % 2 ^ n) + e % 2 ^ lo := by
  have h1 := Nat.div_add_mod e (2 ^ lo)
  have h2 := Nat.div_add_mod (e / 2 ^ lo) (2 ^ n)
  have he : e = 2 ^ lo * (2 ^ n * (e / 2 ^ lo / 2 ^ n)) + fieldOf e lo n * 2 ^ lo + e % 2 ^ lo := by
    calc e = 2 ^ lo * (e / 2 ^ lo) + e % 2 ^ lo := h1.symm
      _ = 2 ^ lo * (2 ^ n * (e / 2 ^ lo / 2 ^ n) + e / 2 ^ lo % 2 ^ n) + e % 2 ^ lo := by rw [h2]
      _ = _ := by rw [fieldOf]; ring
  have hs : nput e lo n v + fieldOf e lo n * 2 ^ lo = e + v % 2 ^ n * 2 ^ lo := by
    unfold nput
    omega
  have hr : 2 ^ lo * (2 ^ n * (e / 2 ^ lo / 2 ^ n) + v % 2 ^ n) =
      2 ^ lo * (2 ^ n * (e / 2 ^ lo / 2 ^ n)) + v % 2 ^ n * 2 ^ lo := by ring
  omega

theorem testBit_nput (e lo n v i : Nat) :
    (nput e lo n v).testBit i = if lo ≤ i ∧ i < lo + n then v.testBit (i - lo) else e.testBit i := by
  rw [nput_eq, Nat.testBit_two_pow_mul_add _ (Nat.mod_lt _ (Nat.two_pow_pos lo))]
  split
  · next h => rw [if_neg (by omega), Nat.testBit_mod_two_pow, decide_eq_true h, Bool.true_and]
  · next h =>
    rw [Nat.testBit_two_pow_mul_add _ (Nat.mod_lt _ (Nat.two_pow_pos n))]
    split
    · next h2 => rw [if_pos (by omega), Nat.testBit_mod_two_pow, decide_eq_true h2, Bool.true_and]
    · next h2 =>
      rw [if_neg (by omega), Nat.testBit_div_two_pow, Nat.testBit_div_two_pow]
      congr 1
      omega

/-- A field reads what was put there. -/
theorem fieldOf_nput_self (e lo n v : Nat) : fieldOf (nput e lo n v) lo n = v % 2 ^ n := by
  apply Nat.eq_of_testBit_eq
  intro i
  rw [testBit_fieldOf, testBit_nput, Nat.testBit_mod_two_pow]
  by_cases h : i < n
  · rw [if_pos (by omega), Nat.add_sub_cancel_left]
  · simp [h]

/-- A field apart from the one replaced reads as before. -/
theorem fieldOf_nput_apart (e lo n v : Nat) {p m : Nat} (h : p + m ≤ lo ∨ lo + n ≤ p) :
    fieldOf (nput e lo n v) p m = fieldOf e p m := by
  apply Nat.eq_of_testBit_eq
  intro i
  rw [testBit_fieldOf, testBit_fieldOf, testBit_nput]
  by_cases hi : i < m
  · rw [if_neg (by omega)]
  · simp [hi]

theorem nput_lt {e lo n k : Nat} (v : Nat) (he : e < 2 ^ k) (h : lo + n ≤ k) : nput e lo n v < 2 ^ k := by
  apply Nat.lt_pow_two_of_testBit
  intro i hi
  rw [testBit_nput, if_neg (by omega)]
  exact Nat.testBit_lt_two_pow (lt_of_lt_of_le he (Nat.pow_le_pow_right (by norm_num) hi))

/-! Entries of 64 bytes (R74). -/

theorem viewRest_eq {e : Nat} (he : e < 2 ^ 512) :
    viewRest e = [fieldOf e 0 192, fieldOf e 224 26, fieldOf e 254 18, fieldOf e 297 87, fieldOf e 480 32] := by
  have h0 : e % 2 ^ 192 = fieldOf e 0 192 := by rw [fieldOf, pow_zero, Nat.div_one]
  have h4 : e / 2 ^ 480 = fieldOf e 480 32 := by
    rw [fieldOf, Nat.mod_eq_of_lt]
    rw [(by norm_num : 512 = 32 + 480), pow_add] at he
    exact (Nat.div_lt_iff_lt_mul (pow_pos two_pos _)).2 he
  rw [viewRest, h0, h4]
  rfl

theorem viewVersion_eq (e : Nat) : viewVersion e = fieldOf e 192 32 := rfl

theorem vShd_lt (e : Nat) : vShd e < 4 := Nat.mod_lt _ (by norm_num)

theorem vCur_lt (e : Nat) : vCur e < 4 := Nat.mod_lt _ (by norm_num)

/-- The entry in which PUBLISH has made the shadow current, before it chooses the next shadow (R78). -/
def swapped (e : Nat) : Nat :=
  nput (nput (nput (nput e 250 2 (vShd e)) 192 32 ((fieldOf e 192 32 + 1) % 2 ^ 32)) (384 + 32 * vShd e) 32
    ((fieldOf e 192 32 + 1) % 2 ^ 32)) 296 1 0

/-- An entry with SHD replaced (R78). -/
def shaded (e x : Nat) : Nat := nput e 252 2 x

/-- What PUBLISH makes of an entry with a shadow (R74, R78). -/
theorem swapped_fields {e : Nat} (he : e < 2 ^ 512) (hs : vShd e < 3) (shd : Nat) :
    let e2 := shaded (swapped e) shd
    e2 < 2 ^ 512 ∧ vCur e2 = vShd e ∧ viewVersion e2 = (viewVersion e + 1) % 2 ^ 32 ∧ vLv e2 (vShd e) = viewVersion e2 ∧
    (∀ f, f < 3 → f ≠ vShd e → vLv e2 f = vLv e f) ∧ (∀ f, f < 3 → vSpin e2 f = vSpin e f) ∧ e2 / 2 ^ 296 % 2 = 0 ∧
    viewRest e2 = viewRest e ∧ vShd e2 = shd % 4 := by
  intro e2
  have hlt : e2 < 2 ^ 512 :=
    nput_lt _ (nput_lt _ (nput_lt _ (nput_lt _ (nput_lt _ he (by omega)) (by omega)) (by omega)) (by omega)) (by omega)
  have hd : e2 / 2 ^ 296 % 2 = fieldOf e2 296 1 := rfl
  have hm : vShd e % 2 ^ 2 = vShd e := Nat.mod_eq_of_lt (vShd_lt e)
  have hv : (fieldOf e 192 32 + 1) % 2 ^ 32 % 2 ^ 32 = (fieldOf e 192 32 + 1) % 2 ^ 32 := Nat.mod_mod _ _
  rw [viewRest_eq hlt, viewRest_eq he, hd]
  simp only [viewVersion_eq, e2, shaded, swapped, vLv, vSpin]
  refine ⟨hlt, ?_, ?_, ?_, fun f hf hn => ?_, fun f hf => ?_, ?_, ?_, ?_⟩
  · simp (disch := omega) only [vCur, fieldOf_nput_apart, fieldOf_nput_self, hm]
  · simp (disch := omega) only [fieldOf_nput_apart, fieldOf_nput_self, hv]
  · simp (disch := omega) only [fieldOf_nput_apart, fieldOf_nput_self, hv]
  · simp (disch := omega) only [fieldOf_nput_apart]
  · simp (disch := omega) only [fieldOf_nput_apart]
  · simp (disch := omega) only [fieldOf_nput_apart, fieldOf_nput_self, Nat.zero_mod]
  · simp (disch := omega) only [fieldOf_nput_apart]
  · exact fieldOf_nput_self ..

/-- An entry with SPIN of a slot replaced (R80). -/
def spun (e sl n : Nat) : Nat := nput e (272 + 8 * sl) 8 n

theorem spun_fields {e : Nat} (he : e < 2 ^ 512) {sl n : Nat} (hs : sl < 3) (hn : n < 256) :
    spun e sl n < 2 ^ 512 ∧ vSpin (spun e sl n) sl = n ∧ (∀ f, f < 3 → f ≠ sl → vSpin (spun e sl n) f = vSpin e f) ∧
    vKind (spun e sl n) = vKind e ∧ vCur (spun e sl n) = vCur e ∧ vShd (spun e sl n) = vShd e ∧
    (∀ f, f < 3 → vList (spun e sl n) f = vList e f) ∧ viewVersion (spun e sl n) = viewVersion e ∧
    viewRest (spun e sl n) = viewRest e := by
  have hlt : spun e sl n < 2 ^ 512 := nput_lt _ he (by omega)
  have hm : n % 2 ^ 8 = n := Nat.mod_eq_of_lt hn
  rw [viewRest_eq hlt, viewRest_eq he]
  simp only [spun, vSpin, vKind, vCur, vShd, vList, viewVersion_eq]
  refine ⟨hlt, ?_, fun f hf hne => ?_, ?_, ?_, ?_, fun f hf => ?_, ?_, ?_⟩
  · rw [fieldOf_nput_self, hm]
  all_goals simp (disch := omega) only [fieldOf_nput_apart]

theorem shaded_fields {e : Nat} (he : e < 2 ^ 512) (x : Nat) :
    shaded e x < 2 ^ 512 ∧ vShd (shaded e x) = x % 4 ∧ (∀ f, f < 3 → vSpin (shaded e x) f = vSpin e f) ∧
    vKind (shaded e x) = vKind e ∧ vCur (shaded e x) = vCur e ∧ viewVersion (shaded e x) = viewVersion e ∧
    viewRest (shaded e x) = viewRest e := by
  have hlt : shaded e x < 2 ^ 512 := nput_lt _ he (by omega)
  rw [viewRest_eq hlt, viewRest_eq he]
  simp only [shaded, vSpin, vKind, vCur, viewVersion_eq]
  refine ⟨hlt, fieldOf_nput_self .., fun f hf => ?_, ?_, ?_, ?_, ?_⟩
  all_goals simp (disch := omega) only [fieldOf_nput_apart]

/-- The entry of a snapshot handle (R80). -/
def snapEntry (live sl ver pages : Nat) : Nat :=
  nput (nput (nput (nput (nput 0 248 2 2) 256 16 live) 297 2 sl) 192 32 ver) 224 24 pages

theorem snapEntry_fields {live sl ver : Nat} (hl : live < 65536) (hs : sl < 3) (hv : ver < 2 ^ 32) (e : Nat) :
    let q := snapEntry live sl ver (vPages e)
    q < 2 ^ 512 ∧ vKind q = 2 ∧ q / 2 ^ 256 % 2 ^ 16 = live ∧ q / 2 ^ 297 % 4 = sl ∧ viewVersion q = ver ∧
      vPages q = vPages e := by
  intro q
  have hlt : q < 2 ^ 512 := nput_lt _ (nput_lt _ (nput_lt _ (nput_lt _ (nput_lt _ (pow_pos two_pos _)
    (by omega)) (by omega)) (by omega)) (by omega)) (by omega)
  have hl' : live % 2 ^ 16 = live := Nat.mod_eq_of_lt hl
  have hs' : sl % 2 ^ 2 = sl := Nat.mod_eq_of_lt (by omega)
  have hv' : ver % 2 ^ 32 = ver := Nat.mod_eq_of_lt hv
  have hp' : vPages e % 2 ^ 24 = vPages e := Nat.mod_mod _ _
  have hh : q / 2 ^ 256 % 2 ^ 16 = fieldOf q 256 16 := rfl
  have hsl : q / 2 ^ 297 % 4 = fieldOf q 297 2 := rfl
  rw [hh, hsl, viewVersion_eq]
  simp only [q, snapEntry, vKind]
  refine ⟨hlt, ?_, ?_, ?_, ?_, ?_⟩
  · simp (disch := omega) only [fieldOf_nput_apart, fieldOf_nput_self, Nat.reducePow, Nat.reduceMod]
  · simp (disch := omega) only [fieldOf_nput_apart, fieldOf_nput_self, hl']
  · simp (disch := omega) only [fieldOf_nput_apart, fieldOf_nput_self, hs']
  · simp (disch := omega) only [fieldOf_nput_apart, fieldOf_nput_self, hv']
  · rw [vPages, fieldOf_nput_self, hp']

end Sys2Proof.Machine
end

section
/-! The view table at its home (03 R73 to R78): an entry is read where its address is translated, written there, and found
there again. -/

namespace Sys2Proof.Machine

open Sys2Proof.Claims

/-! A translation that a holder has (02 R35). -/

/-- A holder has the translation of an address to HBM with the hardware's own rights, for a write too. -/
structure Cached (s : State) (h : Holder) (asid : BitVec 13) (va : W64) (a : XAddr) : Prop where
  canon : isCanon va = true
  hit : ∃ t, (s.tlbOf h).find? (fun t => t.hits asid (va.toNat % 2 ^ 57)) = some t ∧ t.psz = a.psz ∧ t.leaf.toNat = a.leaf
  ans : s.xans va 0 true .write (some (a.psz, a.leaf)) = .ok a

/-- What an answer to a write says of its leaf. -/
theorem xans_ok {s : State} {va : W64} {priv : Bool} {need : Need} {l : Option (Nat × Nat)} {a : XAddr}
    (h : s.xans va 0 priv need l = .ok a) :
    l = some (a.psz, a.leaf) ∧ a.tgt = 0 ∧ fieldOf a.leaf 8 2 = 0 ∧ leafRights va a.leaf priv need = none ∧
      a.pa = entryAddr a.leaf + va.toNat % pageBytes a.psz ∧ s.inHbm a.pa = true := by
  cases l with
  | none => cases h
  | some p =>
    obtain ⟨psz, leaf⟩ := p
    simp only [State.xans] at h
    split at h
    · cases h
    next ht =>
    cases hr : leafRights va leaf priv need with
    | some f => rw [hr] at h; cases h
    | none =>
      rw [hr] at h
      simp only at h
      split at h
      · cases h
      · next hb =>
        cases h
        exact ⟨rfl, rfl, not_not.1 ht, hr, rfl, by simpa using hb⟩

/-- A leaf that may be written may be read. -/
theorem leafRights_read {va : W64} {leaf : Nat} {priv : Bool} (h : leafRights va leaf priv .write = none) :
    leafRights va leaf priv .read = none := by
  unfold leafRights at h ⊢
  split at h
  · cases h
  split at h
  · cases h
  · next h1 h2 => rw [if_neg h1, if_neg h2]

theorem xans_read {s : State} {va : W64} {priv : Bool} {l : Option (Nat × Nat)} {a : XAddr}
    (h : s.xans va 0 priv .write l = .ok a) : s.xans va 0 priv .read l = .ok a := by
  obtain ⟨rfl, ht, hf, hr, hp, hb⟩ := xans_ok h
  simp only [State.xans, hf, leafRights_read hr, ← hp, hb]
  simp [← ht]

theorem xlate_of_cached {s : State} {h : Holder} {asid : BitVec 13} {va : W64} {a : XAddr} (hc : Cached s h asid va a)
    {need : Need} (hn : need = .read ∨ need = .write) : s.xlate h asid va 0 true need = (.ok a, s) := by
  obtain ⟨hcan, ⟨t, hf, hp, hl⟩, ha⟩ := hc
  have hleaf : s.leafOf h asid (va.toNat % 2 ^ 57) = (some (a.psz, a.leaf), s) := by
    unfold State.leafOf
    rw [hf]
    simp only [hp, hl]
  rw [xlate_eq, hleaf]
  simp only [hcan, Bool.not_true, Bool.and_false, Bool.false_eq_true, if_false]
  rcases hn with rfl | rfl
  · rw [xans_read ha]
  · rw [ha]

theorem leNat_pread_lt (s : State) (tgt pa n : Nat) : leNat (s.pread tgt pa n) < 256 ^ n := by
  have hl : (s.pread tgt pa n).length = n := by
    induction n generalizing pa with
    | zero => rfl
    | succ n ih => simp [State.pread, ih]
  simpa [hl] using leNat_lt (s.pread tgt pa n)

/-- The leaf that a walk finds is a table entry of 64 bits. -/
theorem walkFrom_lt (s : State) (va lvl tab psz e : Nat) (h : s.walkFrom va lvl tab = some (psz, e)) : e < 2 ^ 64 := by
  have hp : ∀ a, s.pnum 0 a 8 < 2 ^ 64 := fun a => leNat_pread_lt s 0 a 8
  induction lvl generalizing tab with
  | zero =>
    simp only [State.walkFrom] at h
    split at h
    · cases h; exact hp _
    · cases h
  | succ lvl ih =>
    simp only [State.walkFrom] at h
    rw [Option.ite_none_right_eq_some] at h
    obtain ⟨-, h⟩ := h
    split at h
    · obtain ⟨-, h⟩ := Option.ite_none_right_eq_some.1 h
      cases h
      exact hp _
    · exact ih _ (Option.ite_none_right_eq_some.1 h).2

theorem walk_lt {s : State} {asid : BitVec 13} {va psz e : Nat} (h : s.walk asid va = some (psz, e)) : e < 2 ^ 64 := by
  simp only [State.walk] at h
  split at h
  · exact walkFrom_lt s va 4 _ psz e h
  · cases h

theorem tlbOf_setTlb (s : State) (h : Holder) (l : List TlbEntry) : (s.setTlb h l).tlbOf h = l := by
  cases h <;> simp [State.setTlb, State.tlbOf]

/-- After a lookup that finds a leaf the holder has it. -/
theorem leafOf_hit {s : State} {h : Holder} {asid : BitVec 13} {va psz leaf : Nat}
    (hl : (s.leafOf h asid va).1 = some (psz, leaf)) :
    ∃ t, ((s.leafOf h asid va).2.tlbOf h).find? (fun t => t.hits asid va) = some t ∧ t.psz = psz ∧ t.leaf.toNat = leaf := by
  unfold State.leafOf at hl ⊢
  split at hl
  · next t ht => cases hl; exact ⟨t, ht, rfl, rfl⟩
  · simp only at hl ⊢
    split at hl
    · cases hl
    · next p e hw =>
      cases hl
      simp only [tlbOf_setTlb]
      have hpos : 0 < pageBytes psz := by unfold pageBytes; split <;> norm_num
      have hcap : ∃ n, h.cap = n + 1 := by cases h <;> exact ⟨_, rfl⟩
      obtain ⟨n, hcap⟩ := hcap
      rw [hcap, List.take_succ_cons, List.find?_cons_of_pos]
      · refine ⟨_, rfl, rfl, ?_⟩
        rw [BitVec.toNat_ofNat, Nat.mod_eq_of_lt (walk_lt hw)]
      · simp [TlbEntry.hits, hpos]

theorem inHbm_looked {s t : State} (h : Looked s t) (pa : Nat) : t.inHbm pa = s.inHbm pa := by
  obtain ⟨-, -, -, -, -, -, -, -, -, hd⟩ := h.kept
  unfold State.inHbm Die.chans
  rw [hd]

theorem xans_congr {s t : State} (h : ∀ pa, t.inHbm pa = s.inHbm pa) (va : W64) (tgt : Nat) (priv : Bool) (need : Need)
    (l : Option (Nat × Nat)) : t.xans va tgt priv need l = s.xans va tgt priv need l := by
  cases l with
  | none => rfl
  | some p => simp only [State.xans, h]

/-- An address that translates for a write: the lookup of its leaf leaves a holder that has it. -/
theorem cached_of_xlate {s : State} {h : Holder} {asid : BitVec 13} {va : W64} {a : XAddr}
    (hx : (s.xlate h asid va 0 true .write).1 = .ok a) :
    ∃ u, s.xlate h asid va 0 true .read = (.ok a, u) ∧ Cached u h asid va a ∧ Looked s u := by
  rw [xlate_eq] at hx
  split at hx
  · cases hx
  next hcan =>
  split at hx
  · cases hx
  next hsup =>
  have hl := leafOf_looked s h asid (va.toNat % 2 ^ 57)
  obtain ⟨hs, -⟩ := xans_ok hx
  refine ⟨(s.leafOf h asid (va.toNat % 2 ^ 57)).2, ?_, ⟨by simpa using hcan, leafOf_hit hs, ?_⟩, hl⟩
  · rw [xlate_eq, if_neg hcan, if_neg hsup, xans_read hx]
  · rw [xans_congr (inHbm_looked hl), ← hs]; exact hx

/-- A translation stays where the holder's list and the channels in service stay. -/
theorem Cached.congr {s t : State} {h : Holder} {asid : BitVec 13} {va : W64} {a : XAddr} (hc : Cached s h asid va a)
    (ht : t.tlbOf h = s.tlbOf h) (hb : ∀ pa, t.inHbm pa = s.inHbm pa) : Cached t h asid va a :=
  ⟨hc.canon, by rw [ht]; exact hc.hit, by rw [xans_congr hb]; exact hc.ans⟩

/-! An entry at its home (R73). -/

/-- The entry of a handle stands in HBM at an address that the link die has the translation of, and no page is on the move. -/
structure Homed (s : State) (cx h : Nat) (a : XAddr) (e : Nat) : Prop where
  pos : 0 < h
  still : NotMigrating s
  cached : Cached s .link (s.ctx cx).asid ((s.ctx cx).viewAddr h) a
  bytes : leNat (mread s.hbm a.pa 64) = e

theorem Homed.lt {s : State} {cx h e : Nat} {a : XAddr} (hh : Homed s cx h a e) : e < 2 ^ 512 := by
  have := leNat_mread_lt s.hbm a.pa 64
  rw [hh.bytes, show (256 : Nat) = 2 ^ 8 by norm_num, ← pow_mul] at this
  exact this

theorem Homed.tgt {s : State} {cx h e : Nat} {a : XAddr} (hh : Homed s cx h a e) : a.tgt = 0 := (xans_ok hh.cached.ans).2.1

theorem viewEntry_of_xlate {s u : State} {cx h : Nat} {a : XAddr} (hp : 0 < h) (hs : NotMigrating u) (ht : a.tgt = 0)
    (hx : s.xlate .link (s.ctx cx).asid ((s.ctx cx).viewAddr h) 0 true .read = (.ok a, u)) :
    s.viewEntry cx h = (some (leNat (mread u.hbm a.pa 64)), u.l2range 0 a.pa 64 0 false) := by
  unfold State.viewEntry State.vnum State.vread
  rw [if_neg (by omega), hx]
  simp only [ht, pread_of_still hs]
  rfl

theorem Homed.viewEntry {s : State} {cx h e : Nat} {a : XAddr} (hh : Homed s cx h a e) :
    s.viewEntry cx h = (some e, s.l2range 0 a.pa 64 0 false) := by
  rw [viewEntry_of_xlate hh.pos hh.still hh.tgt (xlate_of_cached hh.cached (.inl rfl)), hh.bytes]

theorem Homed.viewIs {s : State} {cx h e : Nat} {a : XAddr} (hh : Homed s cx h a e) : ViewIs s cx h e :=
  ⟨hh.pos, by rw [hh.viewEntry], a, by rw [xlate_of_cached hh.cached (.inr rfl)]⟩

/-- An entry stays where the memory, the link die's translations, the contexts and the channels in service stay. -/
theorem Homed.congr {s t : State} {cx h e : Nat} {a : XAddr} (hh : Homed s cx h a e) (hs : NotMigrating t)
    (hl : t.link.tlb = s.link.tlb) (hx : t.ctxs = s.ctxs) (hb : ∀ pa, t.inHbm pa = s.inHbm pa)
    (hm : mread t.hbm a.pa 64 = mread s.hbm a.pa 64) : Homed t cx h a e := by
  have hc : t.ctx cx = s.ctx cx := by simp only [State.ctx, hx]
  exact ⟨hh.pos, hs, by rw [hc]; exact hh.cached.congr hl hb, by rw [hm, hh.bytes]⟩

/-! What reads and writes of the view table leave alone. -/

/-- Entries of the view table have been read and written through the link die: translations looked up, bytes of HBM, and the
entries that the translation caches hold have changed, and no bound slot. -/
structure ViewsOnly (s t : State) : Prop where
  rest : { t with
    cores := s.cores
    dies := s.dies
    stks := s.stks
    maps := s.maps
    hbm := s.hbm
    link := { t.link with tlb := s.link.tlb, views := s.link.views } } = s
  core : ∀ k, { t.core k with views := [] } = { s.core k with views := [] }
  pins : ∀ cx, t.pinLists cx = s.pinLists cx

theorem ViewsOnly.refl (s : State) : ViewsOnly s s := ⟨rfl, fun _ => rfl, fun _ => rfl⟩

theorem ViewsOnly.trans {s t u : State} (h : ViewsOnly s t) (k : ViewsOnly t u) : ViewsOnly s u := by
  refine ⟨?_, fun c => (k.core c).trans (h.core c), fun c => (k.pins c).trans (h.pins c)⟩
  have e := congrArg (fun (x : State) => { x with
    cores := s.cores
    dies := s.dies
    stks := s.stks
    maps := s.maps
    hbm := s.hbm
    link := { x.link with tlb := s.link.tlb, views := s.link.views } }) k.rest
  exact e.trans h.rest

theorem ViewsOnly.copyPins {s t : State} (h : ViewsOnly s t) (cx l slot : Nat) : t.copyPins cx l slot = s.copyPins cx l slot := by
  unfold State.copyPins
  rw [h.pins]

theorem ViewsOnly.pinsOf {s t : State} (h : ViewsOnly s t) (cx l e slot : Nat) : t.pins cx l e slot = s.pins cx l e slot := by
  unfold State.pins
  rw [h.copyPins]

theorem ViewsOnly.freeSlot {s t : State} (h : ViewsOnly s t) (cx l e a b : Nat) :
    t.freeSlot cx l e a b = s.freeSlot cx l e a b := by
  unfold State.freeSlot
  simp only [h.pinsOf]

/-- A lookup through the link die leaves the cores alone. -/
theorem viewsOnly_of_looked {s t : State} (h : Looked s t) (hc : t.cores = s.cores) : ViewsOnly s t := by
  have hlink : { t.link with tlb := s.link.tlb } = s.link := (congrArg State.link h.rest :)
  have ht : t.teams = s.teams := (congrArg State.teams h.rest :)
  have e := congrArg (fun (x : State) => { x with
    hbm := s.hbm
    link := { x.link with views := s.link.views } }) h.rest
  refine ⟨e, fun k => by simp only [State.core, hc], fun cx => ?_⟩
  have h1 : t.link.copies = s.link.copies := (congrArg Link.copies hlink :)
  have h2 : t.link.colls = s.link.colls := (congrArg Link.colls hlink :)
  simp only [State.pinLists, hc, ht, h1, h2]

theorem leafOf_link_cores (s : State) (asid : BitVec 13) (va : Nat) : (s.leafOf .link asid va).2.cores = s.cores := by
  have hw : (s.walkL2 asid va).cores = s.cores := (congrArg State.cores (walkL2_lined s asid va).rest :)
  unfold State.leafOf
  split
  · rfl
  · simp only
    split
    · exact hw
    · show ((s.walkL2 asid va).noteMap _).cores = _
      unfold State.noteMap
      simp only
      split <;> exact hw

theorem xlate_link_cores (s : State) (asid : BitVec 13) (va : W64) (tgt : Nat) (priv : Bool) (need : Need) :
    (s.xlate .link asid va tgt priv need).2.cores = s.cores := by
  rw [xlate_eq]
  split
  · rfl
  split
  · rfl
  · exact leafOf_link_cores ..

theorem viewsOnly_l2range (s : State) (tgt pa n cls : Nat) (wr : Bool) : ViewsOnly s (s.l2range tgt pa n cls wr) :=
  viewsOnly_of_looked (l2range_lined s tgt pa n cls wr).looked
    (congrArg State.cores (l2range_lined s tgt pa n cls wr).rest :)

theorem viewsOnly_dropViews (s : State) (p : Nat → Nat → Bool) : ViewsOnly s (s.dropViews p) := by
  refine ⟨rfl, fun k => ?_, fun cx => ?_⟩
  · unfold State.dropViews State.core
    simp only
    rw [tget_map (fun (c : Core) => { c with views := c.views.filter (fun e => !p e.1 e.2.1) }) rfl]
  · simp [State.pinLists, State.dropViews, List.flatMap_map]

theorem Homed.l2range {s : State} {cx h e : Nat} {a : XAddr} (hh : Homed s cx h a e) (tgt pa n cls : Nat) (wr : Bool) :
    Homed (s.l2range tgt pa n cls wr) cx h a e := by
  have hl := l2range_lined s tgt pa n cls wr
  refine hh.congr (hl.still hh.still) ?_ ?_ (inHbm_looked hl.looked) ?_
  · exact (congrArg (fun x => x.link.tlb) hl.rest :)
  · exact (congrArg State.ctxs hl.rest :)
  · rw [(congrArg State.hbm hl.rest :)]

/-- An entry that can be read and written is looked up, and stands at its home from then on. -/
theorem homed_of_viewIs {s : State} {cx h e : Nat} (hs : NotMigrating s) (hv : ViewIs s cx h e) :
    ∃ a u, s.viewEntry cx h = (some e, u.l2range 0 a.pa 64 0 false) ∧
      s.xlate .link (s.ctx cx).asid ((s.ctx cx).viewAddr h) 0 true .read = (.ok a, u) ∧ Homed u cx h a e ∧ ViewsOnly s u := by
  obtain ⟨hp, he, a, ha⟩ := hv
  obtain ⟨u, hx, hc, hl⟩ := cached_of_xlate ha
  have hu := viewEntry_of_xlate hp (hl.still hs) (xans_ok hc.ans).2.1 hx
  obtain ⟨-, -, -, hctx, -⟩ := hl.kept
  have hcx : u.ctx cx = s.ctx cx := by simp only [State.ctx, hctx]
  have hb : leNat (mread u.hbm a.pa 64) = e := by rw [hu] at he; exact Option.some.inj he
  refine ⟨a, u, hb ▸ hu, hx, ⟨hp, hl.still hs, by rw [hcx]; exact hc, hb⟩, viewsOnly_of_looked hl ?_⟩
  have := xlate_link_cores s (s.ctx cx).asid ((s.ctx cx).viewAddr h) 0 true .read
  rwa [hx] at this

/-- An entry whose translation the link die has stands at its home. -/
theorem homed_of_cached {s : State} {cx h e : Nat} (hs : NotMigrating s) (hv : ViewIs s cx h e) (hc : ViewCached s cx h) :
    ∃ a, Homed s cx h a e := by
  obtain ⟨a, u, -, hx, hh, -⟩ := homed_of_viewIs hs hv
  have : u = s := by rw [ViewCached, hx] at hc; exact hc
  exact ⟨a, this ▸ hh⟩

/-! Writes (R78, R81). -/

theorem Homed.setView_eq {s : State} {cx h e : Nat} {a : XAddr} (hh : Homed s cx h a e) (v : Nat) :
    s.setView cx h v = (({ s with hbm := mwrite s.hbm a.pa (leBytes 64 v) } : State).l2range 0 a.pa 64 0 true).dropViews
      (fun c n => decide (c = cx) && decide (n = h)) := by
  unfold State.setView State.vwrite
  rw [xlate_of_cached hh.cached (.inr rfl)]
  simp only [hh.tgt, pwrite_of_still hh.still, length_leBytes]

theorem Homed.setView_only {s : State} {cx h e : Nat} {a : XAddr} (hh : Homed s cx h a e) (v : Nat) :
    ViewsOnly s (s.setView cx h v) := by
  rw [hh.setView_eq]
  have h0 : ViewsOnly s { s with hbm := mwrite s.hbm a.pa (leBytes 64 v) } := ⟨rfl, fun _ => rfl, fun _ => rfl⟩
  exact (h0.trans (viewsOnly_l2range _ _ _ _ _ _)).trans (viewsOnly_dropViews _ _)

/-- A write of an entry leaves one that it does not overlap where it was. -/
theorem Homed.setView_apart {s : State} {cx h e k q : Nat} {a b : XAddr} (hh : Homed s cx h a e) (hk : Homed s cx k b q)
    (hd : b.pa + 64 ≤ a.pa ∨ a.pa + 64 ≤ b.pa) (v : Nat) : Homed (s.setView cx h v) cx k b q := by
  rw [hh.setView_eq]
  have h0 : Homed { s with hbm := mwrite s.hbm a.pa (leBytes 64 v) } cx k b q :=
    hk.congr hk.still rfl rfl (fun _ => rfl) (mread_mwrite_out _ _ (by rw [length_leBytes]; exact hd))
  exact (h0.l2range 0 a.pa 64 0 true).congr (h0.l2range 0 a.pa 64 0 true).still rfl rfl (fun _ => rfl) rfl

/-- An entry written is the entry found. -/
theorem Homed.setView {s : State} {cx h e : Nat} {a : XAddr} (hh : Homed s cx h a e) {v : Nat} (hv : v < 2 ^ 512) :
    Homed (s.setView cx h v) cx h a v := by
  rw [hh.setView_eq]
  have hw : Homed { s with hbm := mwrite s.hbm a.pa (leBytes 64 v) } cx h a v := by
    refine ⟨hh.pos, hh.still, hh.cached.congr rfl fun _ => rfl, ?_⟩
    have hv' : v < 256 ^ 64 := by rw [show (256 : Nat) = 2 ^ 8 by norm_num, ← pow_mul]; exact hv
    rw [mread_mwrite_leBytes, leNat_leBytes 64 v hv']
  exact (hw.l2range 0 a.pa 64 0 true).congr (hw.l2range 0 a.pa 64 0 true).still rfl rfl (fun _ => rfl) rfl

/-- Two entries of a table of whole entries are one or apart. -/
theorem Homed.apart {s : State} {cx h k e q : Nat} {a b : XAddr} (hh : Homed s cx h a e) (hk : Homed s cx k b q)
    (hv : (s.ctx cx).vtbase.toNat % 64 = 0) (hne : e ≠ q) : b.pa + 64 ≤ a.pa ∨ a.pa + 64 ≤ b.pa := by
  have h64 : ∀ {h e a}, Homed s cx h a e → a.pa % 64 = 0 := by
    intro h e a hh
    obtain ⟨-, -, -, -, hp, -⟩ := xans_ok hh.cached.ans
    have hva : ((s.ctx cx).viewAddr h).toNat % 64 = 0 := by
      rw [Ctx.viewAddr, BitVec.toNat_add, BitVec.toNat_ofNat]
      omega
    have hpg : pageBytes a.psz % 64 = 0 := by unfold pageBytes; split <;> norm_num
    have hm : ((s.ctx cx).viewAddr h).toNat % pageBytes a.psz % 64 = 0 := by
      rw [Nat.mod_mod_of_dvd _ (Nat.dvd_of_mod_eq_zero hpg)]; exact hva
    rw [hp, entryAddr]
    omega
  have hn : a.pa ≠ b.pa := fun he => hne (by rw [← hh.bytes, ← hk.bytes, he])
  have h1 := h64 hh
  have h2 := h64 hk
  omega

end Sys2Proof.Machine
end

section
/-! Entries of the view table in states that differ elsewhere, and instructions of a group whose body works outside the
groups (06 R135, 15 R399). -/

namespace Sys2Proof.Machine

open Sys2Proof.Claims Sys2Proof.Safety

/-! A lookup in states that differ elsewhere. -/

/-- Two states with the same pages: HBM, the tables' base, the contexts, the link die's translations and the channels in
service. -/
structure SamePages (s t : State) : Prop where
  stks : t.stks = s.stks
  hbm : t.hbm = s.hbm
  base : t.astbase = s.astbase
  ctxs : t.ctxs = s.ctxs
  tlb : t.link.tlb = s.link.tlb
  dies : t.dies = s.dies

theorem SamePages.still {s t : State} (h : SamePages s t) (hs : NotMigrating s) : NotMigrating t := by
  intro k hk
  rw [h.stks] at hk
  exact hs k hk

theorem SamePages.inHbm {s t : State} (h : SamePages s t) (pa : Nat) : t.inHbm pa = s.inHbm pa := by
  unfold State.inHbm Die.chans State.die
  rw [h.dies]

theorem SamePages.walkFrom {s t : State} (h : SamePages s t) (hs : NotMigrating s) (va lvl tab : Nat) :
    t.walkFrom va lvl tab = s.walkFrom va lvl tab := by
  have hp : ∀ a, t.pnum 0 a 8 = s.pnum 0 a 8 := fun a => by
    rw [State.pnum, State.pnum, pread_of_still hs, pread_of_still (h.still hs), State.image, State.image, h.hbm]
  induction lvl generalizing tab with
  | zero => simp only [State.walkFrom, hp, h.inHbm]
  | succ lvl ih => simp only [State.walkFrom, hp, h.inHbm, ih]

theorem SamePages.walk {s t : State} (h : SamePages s t) (hs : NotMigrating s) (asid : BitVec 13) (va : Nat) :
    t.walk asid va = s.walk asid va := by
  simp only [State.walk, State.pnum, pread_of_still hs, pread_of_still (h.still hs), State.image, h.hbm, h.base, h.inHbm,
    h.walkFrom hs]

/-- The leaf that a lookup finds: the holder's, or else the walk's. -/
theorem leafOf_fst (s : State) (h : Holder) (asid : BitVec 13) (va : Nat) :
    (s.leafOf h asid va).1 =
      (((s.tlbOf h).find? (fun t => t.hits asid va)).map (fun t => (t.psz, t.leaf.toNat))).or (s.walk asid va) := by
  unfold State.leafOf
  cases (s.tlbOf h).find? (fun t => t.hits asid va) with
  | some t => rfl
  | none => cases s.walk asid va <;> rfl

theorem SamePages.xlate {s t : State} (h : SamePages s t) (hs : NotMigrating s) (asid : BitVec 13) (va : W64) (tgt : Nat)
    (priv : Bool) (need : Need) : (t.xlate .link asid va tgt priv need).1 = (s.xlate .link asid va tgt priv need).1 := by
  have hl : (t.leafOf .link asid (va.toNat % 2 ^ 57)).1 = (s.leafOf .link asid (va.toNat % 2 ^ 57)).1 := by
    simp only [leafOf_fst, State.tlbOf, h.tlb, h.walk hs]
  rw [xlate_eq, xlate_eq, hl, xans_congr h.inHbm]
  split
  · rfl
  · split <;> rfl

/-- An entry is in its place in every state with the same pages. -/
theorem SamePages.viewIs {s t : State} (h : SamePages s t) (hs : NotMigrating s) {cx k e : Nat} (hv : ViewIs s cx k e) :
    ViewIs t cx k e := by
  obtain ⟨b, u, -, hx, hh, -⟩ := homed_of_viewIs hs hv
  obtain ⟨hp, -, a, ha⟩ := hv
  have hc : t.ctx cx = s.ctx cx := by simp only [State.ctx, h.ctxs]
  have ha' : (t.xlate .link (t.ctx cx).asid ((t.ctx cx).viewAddr k) 0 true .write).1 = .ok a := by
    rw [h.xlate hs, hc, ha]
  obtain ⟨v, hv', hvc, hvl⟩ := cached_of_xlate ha'
  obtain ⟨_, hw, -, hwl⟩ := cached_of_xlate ha
  rw [hx] at hw
  cases hw
  obtain ⟨-, -, -, -, hum, -⟩ := hwl.kept
  obtain ⟨-, -, -, -, hvm, -⟩ := hvl.kept
  refine ⟨hp, ?_, b, ha'⟩
  rw [viewEntry_of_xlate hp (hvl.still (h.still hs)) (xans_ok hvc.ans).2.1 hv', hvm, h.hbm, ← hum, hh.bytes]

theorem samePages_of_outside {l : List Src} {s t : State} (h : Outside l s t) : SamePages s t :=
  ⟨(congrArg State.stks h.1 :), (congrArg State.hbm h.1 :), (congrArg State.astbase h.1 :), (congrArg State.ctxs h.1 :),
    (congrArg (fun x => x.link.tlb) h.1 :), (congrArg State.dies h.1 :)⟩

theorem Outside.tileByte {l : List Src} {s t : State} (h : Outside l s t) (side : Bool) (co b : Nat) :
    tileByte t side co b = tileByte s side co b := by
  have hd : (t.core co).side = (s.core co).side := (congrArg Core.side (h.2.1 co) :)
  have ht : (t.core co).tile = (s.core co).tile := (congrArg Core.tile (h.2.1 co) :)
  rw [Claims.tileByte, Claims.tileByte, hd, ht]

/-! An instruction of a group that works on a unit. -/

/-- An instruction whose body leaves every group alone and retires: its group has moved on, and outside the groups the body's
state stands. -/
theorem run_unit {len : Nat} {s x y : State} {sels : List Sel} {dests : List DReg} {body : State → Res}
    (hr : Runs s sels dests x) (hb : body x = .ok y) (hg : y.groups = x.groups) (hc : y.cur = x.cur) :
    ∃ t, run len s sels dests body = .next t ∧ Outside (sels.map (fun a => a.src)) y t ∧
      Moved (sels.map (fun a => a.src)) s x t len ∧ OthersKept s t := by
  obtain ⟨hr, harm⟩ := hr
  obtain ⟨ha, -, -⟩ := ready_ok hr
  have hcur : y.cur = s.cur := hc.trans ha.only.cur
  have hgrp : ∀ k, y.grp k = x.grp k := fun k => by simp only [State.grp, hg]
  have hyg : y.g = { s.g with r := { s.g.r with exm := x.g.r.exm } } := by
    rw [State.g, hgrp, hc]
    exact ha.g
  have hya : y.g.y.stepArmed = false := by rw [hyg]; exact harm
  refine ⟨_, run_ok hr hb hya, ?_⟩
  generalize sels.map (fun a => a.src) = l
  have hlive : y.g.live = s.g.live := by rw [hyg]
  have hsys : y.g.sys = s.g.sys := by rw [hyg]
  have hy : y.g.y = s.g.y := by rw [hyg]
  have h0 : y.g.s0 = s.g.s0 := by rw [hyg]
  have h1 : y.g.s1 = s.g.s1 := by rw [hyg]
  have hp := popSrcs_popped l y
  obtain ⟨hout, hoth, -, hz⟩ := retireG_frame (y.popSrcs l) ((y.popSrcs l).g.r.pc + BitVec.ofNat 64 len)
  obtain ⟨hpo, hpk, hpg, hpn⟩ := hp.frame
  have hsk := hp.sys
  have hclk := hp.clkh
  rw [hsys] at hsk hclk
  unfold GroupKept at hpg
  unfold NothingSent at hpn
  rw [hlive, hy, h0, h1] at hpg
  rw [hy] at hpn
  have hr : (y.popSrcs l).g.r = { s.g.r with exm := x.g.r.exm } := by rw [hp.r, hyg]
  unfold Moved GroupKept NothingSent SysKept
  rw [hz]
  refine ⟨by simpa using outside_trans hpo hout, ⟨hpg, hpn, ⟨?_, hclk⟩, ?_, ?_, ?_, rfl, rfl, rfl⟩, fun k hk => ?_⟩
  · exact (congrArg (fun (z : SysRegs) => { z with fpflags := 0, srcnt := 0 }) hsk :)
  · exact (congrArg SysRegs.fpflags hsk :)
  · exact (congrArg SysRegs.srcnt hsk :)
  · show ({ (y.popSrcs l).g.r with pc := (y.popSrcs l).g.r.pc + BitVec.ofNat 64 len } : Regs) = _
    rw [hr]
  · rw [hoth k (by rw [hp.cur, hcur]; exact hk), hpk k (by rw [hcur]; exact hk), hgrp, ha.only.2 k hk]

/-! Traps (16 R411). -/

theorem only_modGrp {s : State} {k : Nat} (f : Group → Group) (h : k = s.cur) : Only s (s.modGrp k f) := by
  subst h
  exact only_modG s f

theorem giveBack_of_no_undo (s : State) (gk : Nat) (h : (s.grp gk).y.undo = none) : s.giveBack gk = s := by
  unfold State.giveBack
  rw [h]

/-- A group outside a handler takes a trap into it. -/
theorem trapGrp_enters {s : State} {gk : Nat} {epc : W64} {t : Trap} (hu : (s.grp gk).y.undo = none)
    (hm : (s.grp gk).sys.hm = false) (h18 : t.cause ≠ 0x18) (h1a : t.cause ≠ 0x1A) (h1b : t.cause ≠ 0x1B) :
    s.trapGrp gk epc t = s.modGrp gk (fun g => g.enter t (s.codeOff gk epc) (s.ctxG gk).tvec) := by
  unfold State.trapGrp
  rw [giveBack_of_no_undo s gk hu]
  simp only [h18, h1a, h1b, hm, if_false, Bool.or_self, Bool.false_and, Bool.false_eq_true, decide_false]

/-- What a group's turn at the scheduler and its entry into the handler leave behind. -/
theorem entered_turnDone {s : State} (he : Enters s) (t : Trap) (h18 : t.cause ≠ 0x18) (h1a : t.cause ≠ 0x1A)
    (h1b : t.cause ≠ 0x1B) :
    Entered [] s ((s.turnDone s.cur).trapGrp s.cur s.g.r.pc t) t.cause t.sub t.val t.mask s.g.r.exm s.g.r.pc := by
  obtain ⟨hm, -, hu⟩ := he
  obtain ⟨hout, hoth, hcur, hg⟩ := turnDone_frame s
  have hgc : (s.turnDone s.cur).grp s.cur = { s.g with y := { s.g.y with issuedAt := s.clock } } := by
    rw [← hg, State.g, hcur]
  have hteam : ∀ k, (s.turnDone s.cur).teamG k = s.teamG k := fun k => hout.2.2.2 (by simp) (teamOf k)
  have hcb : (s.turnDone s.cur).launchG s.cur = s.l := by
    have : (s.turnDone s.cur).launches = s.launches := (congrArg State.launches hout.1 :)
    rw [State.l, State.launchG, State.launchG, hteam, State.launch, State.launch, this]
  have htv : (s.turnDone s.cur).ctxG s.cur = s.x := by
    have : (s.turnDone s.cur).ctxs = s.ctxs := (congrArg State.ctxs hout.1 :)
    rw [State.x, State.ctxG, State.ctxG, State.ctxNoG, State.ctxNoG, hteam, State.ctx, State.ctx, this]
  have hoff : (s.turnDone s.cur).codeOff s.cur s.g.r.pc = (s.g.r.pc - s.l.cb).truncate 32 := by rw [State.codeOff, hcb]
  rw [trapGrp_enters (by rw [hgc]; exact hu) (by rw [hgc]; exact hm) h18 h1a h1b, hoff, htv]
  have ho : Only (s.turnDone s.cur) ((s.turnDone s.cur).modGrp s.cur
      (fun g => g.enter t ((s.g.r.pc - s.l.cb).truncate 32) s.x.tvec)) := only_modGrp _ hcur.symm
  have hv : ((s.turnDone s.cur).modGrp s.cur (fun g => g.enter t ((s.g.r.pc - s.l.cb).truncate 32) s.x.tvec)).g =
      ({ s.g with y := { s.g.y with issuedAt := s.clock } } : Group).enter t ((s.g.r.pc - s.l.cb).truncate 32) s.x.tvec := by
    rw [← hgc]
    show State.grp _ ((s.turnDone s.cur).modGrp s.cur _).cur = _
    rw [ho.cur, hcur, State.modGrp_grp_ite, if_pos rfl]
  unfold Entered RegistersOnly GroupKept NothingSent
  rw [hv]
  exact ⟨⟨by simpa using outside_trans hout (ho.outside []), othersKept_trans hoth ho.2 hcur,
    ⟨rfl, fun _ _ => ⟨rfl, rfl⟩, fun _ => rfl, rfl, rfl, rfl, rfl, rfl⟩, rfl, rfl⟩, rfl, fun _ => rfl, rfl, rfl⟩

/-- An instruction whose body traps: its group has entered its handler, and no source has been popped (06 R135). -/
theorem run_trap {len : Nat} {s x u : State} {sels : List Sel} {dests : List DReg} {body : State → Res} {t : Trap}
    (hr : s.ready sels dests = .ok x) (hb : body x = .trap t u) (he : Enters s) (h18 : t.cause ≠ 0x18)
    (h1a : t.cause ≠ 0x1A) (h1b : t.cause ≠ 0x1B) :
    ∃ v, run len s sels dests body = .next v ∧
      Entered [] s v t.cause t.sub t.val t.mask s.g.r.exm s.g.r.pc :=
  ⟨_, by simp only [run, hr, hb, Res.settle, finish], entered_turnDone he t h18 h1a h1b⟩

end Sys2Proof.Machine
end

section
/-! PUBLISH (03 R78; 07 R173). -/

namespace Sys2Proof.Machine

open Sys2Proof.Claims Sys2Proof.Safety

/-- The one slot besides two others is the free one, if it has pages and no pin. -/
theorem freeSlot_eq (s : State) (cx h e : Nat) {a b f : Nat} (ha : a < 3) (hb : b < 3) (hf : f < 3) (hab : a ≠ b) (hfa : f ≠ a)
    (hfb : f ≠ b) : (s.freeSlot cx h e a b).getD 3 = if vList e f ≠ 0 ∧ s.pins cx h e f = 0 then f else 3 := by
  have hp : ∀ g < 3, ¬ g = f → (decide (g ≠ a) && decide (g ≠ b) && decide (vList e g ≠ 0) && decide (s.pins cx h e g = 0)) = false := by
    intro g hg hne
    have : g = a ∨ g = b := by omega
    rcases this with rfl | rfl <;> simp
  unfold State.freeSlot
  split
  · next hc =>
    rw [List.find?_range_eq_some.2 ⟨by simp [hfa, hfb, hc.1, hc.2], List.mem_range.2 hf, fun j hj => ?_⟩]
    · rfl
    · rw [hp j (by omega) (by omega)]; rfl
  · next hc =>
    rw [List.find?_eq_none.2 fun g hg => ?_]
    · rfl
    · by_cases hgf : g = f
      · subst hgf
        simpa [hfa, hfb] using hc
      · rw [hp g (List.mem_range.1 hg) hgf]; simp

/-- A slot that nothing pins is not pinned in the swapped entry either; slot 3 is none, and its bits hold DIRTY, which the swap
clears. -/
theorem vSpin_swapped {e f : Nat} (h : vSpin e f = 0) (hf : f < 4) (hs : vShd e < 3) : vSpin (swapped e) f = 0 := by
  unfold vSpin at h ⊢
  apply Nat.eq_of_testBit_eq
  intro i
  have hi := congrArg (fun z => z.testBit i) h
  simp only [testBit_fieldOf] at hi
  simp only [testBit_fieldOf, swapped, testBit_nput]
  by_cases h8 : i < 8
  · split
    · simp
    · rw [if_neg (by omega), if_neg (by omega), if_neg (by omega)]
      exact hi
  · simp [h8]

theorem swapped_vList {e f : Nat} (hf : f < 3) : vList (swapped e) f = vList e f := by
  simp (disch := omega) only [vList, swapped, fieldOf_nput_apart]

theorem pins_swapped (s : State) (cx h : Nat) {e f : Nat} (hf : f < 3) (hs : vShd e < 3) :
    s.pins cx h (swapped e) f = s.pins cx h e f := by
  have : vSpin (swapped e) f = vSpin e f := by simp (disch := omega) only [vSpin, swapped, fieldOf_nput_apart]
  rw [State.pins, State.pins, this]

/-- The shadow that PUBLISH chooses: the old current slot, the free one, or none (R78). -/
def State.nextShadow (s : State) (cx h e : Nat) : Nat :=
  if s.pins cx h (swapped e) (vCur e) = 0 then vCur e else (s.freeSlot cx h (swapped e) (vShd e) (vCur e)).getD 3

/-- What PUBLISH leaves of an entry that it can publish. -/
theorem publish_homed {x : State} {cx h e : Nat} (hm : NotMigrating x) (hv : ViewIs x cx h e) (hok : vOk e = true)
    (hk : vKind e = 1) (hsh : vShd e ≠ 3) :
    ∃ y a, x.publish cx h = some y ∧ Homed y cx h a (shaded (swapped e) (x.nextShadow cx h e)) ∧ ViewsOnly x y := by
  obtain ⟨a, u, he, -, hh, ho⟩ := homed_of_viewIs hm hv
  have hu := hh.l2range 0 a.pa 64 0 false
  have hou := ho.trans (viewsOnly_l2range u 0 a.pa 64 0 false)
  generalize u.l2range 0 a.pa 64 0 false = u at he hu hou
  have hlt := (swapped_fields hu.lt (by have := vShd_lt e; omega) (x.nextShadow cx h e)).1
  refine ⟨_, a, ?_, hu.setView hlt, hou.trans (hu.setView_only _)⟩
  unfold State.publish
  rw [he]
  simp only [hok, hk, hsh]
  rw [if_neg (by simp), hou.pinsOf, hou.freeSlot]
  rfl

/-- The copies that a group waits for before it publishes (R78). -/
def State.copiesSeen (s : State) : List CopyCmd :=
  s.cores.flatMap (fun k => k.2.copies) ++ s.link.copies ++ s.t.saveCopies.map (fun p => p.1)

theorem Only.pages {s t : State} (h : Only s t) : SamePages s t := samePages_of_outside (h.outside [])

/-- A state that differs in its groups alone has the same pins. -/
theorem Only.pins {s t : State} (h : Only s t) (cx l e slot : Nat) : t.pins cx l e slot = s.pins cx l e slot := by
  have hc : t.cores = s.cores := (congrArg State.cores h.1 :)
  have ht : t.teams = s.teams := (congrArg State.teams h.1 :)
  have hl : t.link = s.link := (congrArg State.link h.1 :)
  simp only [State.pins, State.copyPins, State.pinLists, hc, ht, hl]

theorem Only.t {s t : State} (h : Only s t) : t.t = s.t := by
  have ht : t.teams = s.teams := (congrArg State.teams h.1 :)
  simp only [State.t, State.teamG, State.team, ht, h.cur]

theorem Only.copiesSeen {s t : State} (h : Only s t) : t.copiesSeen = s.copiesSeen := by
  have hc : t.cores = s.cores := (congrArg State.cores h.1 :)
  have hl : t.link = s.link := (congrArg State.link h.1 :)
  simp only [State.copiesSeen, hc, hl, h.t]

theorem ViewsOnly.tileByte {s t : State} (h : ViewsOnly s t) (side : Bool) (co b : Nat) :
    tileByte t side co b = tileByte s side co b := by
  have hd : (t.core co).side = (s.core co).side := (congrArg Core.side (h.core co) :)
  have ht : (t.core co).tile = (s.core co).tile := (congrArg Core.tile (h.core co) :)
  rw [Claims.tileByte, Claims.tileByte, hd, ht]

/-- PUBLISH where nothing holds it up. -/
theorem execPublish_ok {s x y : State} {sc : Scope} {a : Sel} {h : Nat} (hr : Runs s [a] [] x)
    (hh : h = (x.laneVal a.src 0).toNat) (h0 : h ≠ 0) (h6 : h < 65536)
    (hc : ∀ c ∈ s.copiesSeen, c.gk = some s.cur → c.shadows h = false) (hrel : s.released sc = true)
    (hp : x.publish s.t.ctx h = some y) (ho : ViewsOnly x y) :
    ∃ t, execPublish sc a s = .next t ∧ Outside [a.src] y t ∧ Moved [a.src] s x t 4 ∧ OthersKept s t := by
  obtain ⟨hox, hgx⟩ := (ready_ok hr.1).1
  have hn : x.copiesSeen.any (fun c => decide (c.gk = some x.cur) && c.shadows h) = false := by
    rw [hox.copiesSeen, hox.cur, List.any_eq_false]
    intro c hm hcs
    simp only [Bool.and_eq_true, decide_eq_true_eq] at hcs
    rw [hc c hm hcs.1] at hcs
    cases hcs.2
  have hrx : x.released sc = true := by
    rw [← hrel, State.released, State.released, hgx]
  refine run_unit (body := fun x =>
    let h := (x.uniVal a.src).toNat
    let fault := Res.trap (Trap.mk2 0xE (BitVec.ofNat 64 h)) x
    if h = 0 ∨ 65536 ≤ h then fault
    else if x.copiesSeen.any (fun c => decide (c.gk = some x.cur) && c.shadows h) then .block .view x
    else if !x.released sc then .block .stores x
    else match x.publish x.t.ctx h with
      | none => fault
      | some y => .ok y) hr ?_ (congrArg State.groups ho.rest :) (congrArg State.cur ho.rest :)
  have hu : (x.uniVal a.src).toNat = h := hh.symm
  simp only [hu, hn, hrx, hox.t, hp]
  rw [if_neg (by omega)]
  rfl

end Sys2Proof.Machine

namespace Sys2Proof.Claims

open Sys2Proof.Machine Sys2Proof.Safety

/-- PUBLISH of a live view with a shadow. -/
theorem publish_swaps (s x : State) (sc : Scope) (a : Sel) (h e cx : Nat) (hr : Runs s [a] [] x)
    (hh : h = (x.laneVal a.src 0).toNat) (h6 : h < 65536) (hcx : cx = s.t.ctx) (hm : NotMigrating s) (hv : ViewIs s cx h e)
    (hok : vOk e = true) (hk : vKind e = 1) (hsh : vShd e ≠ 3)
    (hcore : ∀ k ∈ s.cores, ∀ c ∈ k.2.copies, c.gk = some s.cur → c.shadows h = false)
    (hlink : ∀ c ∈ s.link.copies, c.gk = some s.cur → c.shadows h = false)
    (hsave : ∀ p ∈ s.t.saveCopies, p.1.gk = some s.cur → p.1.shadows h = false) (hrel : s.released sc = true) :
    ∃ (t : State) (e2 : Nat), exec (.publish sc a) s = .next t ∧ ViewIs t cx h e2 ∧
      vCur e2 = vShd e ∧ viewVersion e2 = (viewVersion e + 1) % 2 ^ 32 ∧ vLv e2 (vShd e) = viewVersion e2 ∧
      (∀ f, f < 3 → f ≠ vShd e → vLv e2 f = vLv e f) ∧ (∀ f, f < 3 → vSpin e2 f = vSpin e f) ∧
      e2 / 2 ^ 296 % 2 = 0 ∧ viewRest e2 = viewRest e ∧ (s.pins cx h e (vCur e) = 0 → vShd e2 = vCur e) ∧
      (0 < s.pins cx h e (vCur e) → vCur e < 3 → vCur e ≠ vShd e → ∀ f, f < 3 → f ≠ vCur e → f ≠ vShd e →
        vShd e2 = if vList e f ≠ 0 ∧ s.pins cx h e f = 0 then f else 3) ∧
      Moved [a.src] s x t 4 ∧ OthersKept s t ∧ (∀ side co b, tileByte t side co b = tileByte s side co b) := by
  have hox := (ready_ok hr.1).1.only
  have hs3 : vShd e < 3 := by have := vShd_lt e; omega
  obtain ⟨y, b, hp, hh2, ho⟩ := publish_homed (hox.pages.still hm) (hox.pages.viewIs hm hv) hok hk hsh
  have hlt : e < 2 ^ 512 := by obtain ⟨_, _, -, -, hh, -⟩ := homed_of_viewIs hm hv; exact hh.lt
  obtain ⟨t, ht, hout, hmoved, hoth⟩ := execPublish_ok hr hh (by have := hv.1; omega) h6 (fun c hc => by
    simp only [State.copiesSeen, List.mem_append, List.mem_flatMap, List.mem_map] at hc
    rcases hc with (⟨k, hk, hc⟩ | hc) | ⟨p, hp, rfl⟩
    exacts [hcore k hk c hc, hlink c hc, hsave p hp]) hrel (hcx ▸ hp) ho
  obtain ⟨-, hcur, hver, hlv, hlvs, hspin, hdirty, hrest, hshd⟩ :=
    swapped_fields hlt hs3 (x.nextShadow cx h e)
  refine ⟨t, _, ht, (samePages_of_outside hout).viewIs hh2.still hh2.viewIs, hcur, hver, hlv, hlvs, hspin, hdirty, hrest,
    fun h0 => ?_, fun h0 hc3 hcs f hf hfc hfs => ?_, hmoved, hoth, fun side co i => ?_⟩
  · have hz : x.pins cx h (swapped e) (vCur e) = 0 := by
      obtain ⟨hsp, hcp⟩ := Nat.add_eq_zero_iff.1 h0
      rw [hox.pins, State.pins, vSpin_swapped hsp (vCur_lt e) hs3, hcp]
    rw [hshd, State.nextShadow, if_pos hz, Nat.mod_eq_of_lt (vCur_lt e)]
  · have hnz : x.pins cx h (swapped e) (vCur e) ≠ 0 := by
      rw [hox.pins, pins_swapped s cx h hc3 hs3]
      omega
    rw [hshd, State.nextShadow, if_neg hnz, freeSlot_eq x cx h _ hs3 hc3 hf (Ne.symm hcs) hfs hfc, hox.pins, pins_swapped s cx h hf hs3,
      swapped_vList hf]
    split <;> omega
  · rw [Outside.tileByte hout, ho.tileByte]
    exact Outside.tileByte (hox.outside []) side co i

/-- PUBLISH of no handle. -/
theorem publish_faults (s x : State) (sc : Scope) (a : Sel) (h : Nat) (hr : Runs s [a] [] x) (he : Enters s)
    (hh : h = (x.laneVal a.src 0).toNat) (hbad : h = 0 ∨ 65536 ≤ h) :
    ∃ t, exec (.publish sc a) s = .next t ∧ Entered [] s t 0xE 0 (BitVec.ofNat 64 h) 0 s.g.r.exm s.g.r.pc := by
  refine run_trap (t := Trap.mk2 0xE (BitVec.ofNat 64 h)) (u := x) hr.1 ?_ he (by simp [Trap.mk2]) (by simp [Trap.mk2]) (by simp [Trap.mk2])
  have hu : (x.uniVal a.src).toNat = h := hh.symm
  simp only [hu]
  rw [if_pos hbad]

end Sys2Proof.Claims
end

section
/-! Snapshots open and close (03 R80). -/

namespace Sys2Proof.Machine

open Sys2Proof.Claims Sys2Proof.Safety

/-- The first slot of a version that can be pinned is the one taken. -/
theorem snapSlot_eq {e ver sl : Nat} (hs : sl < 3) (hv : vLv e sl = ver) (hb : ∀ f, f < sl → vLv e f ≠ ver)
    (hc : sl = vCur e ∨ 0 < vSpin e sl ∨ sl = vShd e ∧ e / 2 ^ 296 % 2 = 0) : snapSlot e ver = some sl := by
  have hc' : sl = vCur e ∨ 0 < vSpin e sl ∨ sl = vShd e ∧ fieldOf e 296 1 = 0 := hc
  refine List.find?_range_eq_some.2 ⟨?_, List.mem_range.2 hs, fun j hj => by simp [hb j hj]⟩
  simpa [hv, or_assoc] using hc'

/-- The entry of a live view that a snapshot of a slot leaves (R80). -/
def State.snapped (s : State) (cx h e sl : Nat) : Nat :=
  let e1 := spun e sl (vSpin e sl + 1)
  if sl = vShd e then shaded e1 ((s.freeSlot cx h e1 (vCur e) sl).getD 3) else e1

theorem snapped_fields (s : State) (cx h : Nat) {e sl : Nat} (he : e < 2 ^ 512) (hs : sl < 3) (hn : vSpin e sl < 255) :
    let e2 := s.snapped cx h e sl
    e2 < 2 ^ 512 ∧ vSpin e2 sl = vSpin e sl + 1 ∧ vCur e2 = vCur e ∧ (sl ≠ vShd e → vShd e2 = vShd e) ∧
      (sl = vShd e → sl ≠ vCur e → vCur e < 3 → ∀ f, f < 3 → f ≠ vCur e → f ≠ sl →
        vShd e2 = if vList e f ≠ 0 ∧ s.pins cx h e f = 0 then f else 3) ∧
      viewVersion e2 = viewVersion e ∧ viewRest e2 = viewRest e ∧ (∀ f, f < 3 → f ≠ sl → vSpin e2 f = vSpin e f) := by
  intro e2
  obtain ⟨hlt, hspin, hspins, -, hcur, hshd, hlist, hver, hrest⟩ := spun_fields he hs (n := vSpin e sl + 1) (by omega)
  by_cases hc : sl = vShd e
  · obtain ⟨hlt2, hshd2, hspin2, -, hcur2, hver2, hrest2⟩ :=
      shaded_fields hlt ((s.freeSlot cx h (spun e sl (vSpin e sl + 1)) (vCur e) sl).getD 3)
    have h2 : e2 = shaded (spun e sl (vSpin e sl + 1)) ((s.freeSlot cx h (spun e sl (vSpin e sl + 1)) (vCur e) sl).getD 3) :=
      if_pos hc
    rw [h2]
    refine ⟨hlt2, by rw [hspin2 sl hs, hspin], hcur2.trans hcur, fun h => absurd hc h, fun _ hne hc3 f hf hfc hfs => ?_,
      hver2.trans hver, hrest2.trans hrest, fun f hf hne => by rw [hspin2 f hf, hspins f hf hne]⟩
    rw [hshd2, freeSlot_eq s cx h _ hc3 hs hf (Ne.symm hne) hfc hfs, State.pins, hspins f hf hfs, hlist f hf, ← State.pins]
    split <;> omega
  · have h2 : e2 = spun e sl (vSpin e sl + 1) := if_neg hc
    rw [h2]
    exact ⟨hlt, hspin, hcur, fun _ => hshd, fun h => absurd h hc, hver, hrest, hspins⟩

/-- An entry read: it and any other stay where they are. -/
theorem Homed.read {s : State} {cx h e : Nat} {a : XAddr} (hh : Homed s cx h a e) :
    ∃ t, s.viewEntry cx h = (some e, t) ∧ ViewsOnly s t ∧
      ∀ {k q : Nat} {b : XAddr}, Homed s cx k b q → Homed t cx k b q :=
  ⟨_, hh.viewEntry, viewsOnly_l2range .., fun hk => hk.l2range ..⟩

/-- What an opened snapshot leaves (R80). -/
theorem openSnap_homed {s : State} {cx handle live ver e old sl : Nat} {a b : XAddr} (ha : Homed s cx live a e)
    (hb : Homed s cx handle b old) (hd : b.pa + 64 ≤ a.pa ∨ a.pa + 64 ≤ b.pa) (hk : vKind e = 1) (ho : vKind old = 0)
    (hn : vSpin e sl < 255) (hs : sl < 3) (hsl : snapSlot e ver = some sl)
    (hq : snapEntry live sl ver (vPages e) < 2 ^ 512) :
    Homed (s.openSnap cx handle live ver) cx live a (s.snapped cx live e sl) ∧
      Homed (s.openSnap cx handle live ver) cx handle b (snapEntry live sl ver (vPages e)) ∧
      ViewsOnly s (s.openSnap cx handle live ver) := by
  obtain ⟨u, hu, hou, hkeep⟩ := ha.read
  obtain ⟨v, hv, hov, hkeep2⟩ := (hkeep hb).read
  have hav := hkeep2 (hkeep ha)
  have hbv := hkeep2 (hkeep hb)
  have h2 := (snapped_fields s cx live ha.lt hs hn).1
  have heq : s.openSnap cx handle live ver =
      (v.setView cx live (s.snapped cx live e sl)).setView cx handle (snapEntry live sl ver (vPages e)) := by
    have hp : s.snapHandle cx handle = handle := by
      rw [State.snapHandle, if_pos (by have := hb.pos; omega)]
    unfold State.openSnap
    simp only [hp, hu, hv, hsl]
    rw [if_neg (by omega)]
    rfl
  have hbw := hav.setView_apart hbv hd (s.snapped cx live e sl)
  rw [heq]
  exact ⟨hbw.setView_apart (hav.setView h2) hd.symm _, hbw.setView hq,
    ((hou.trans hov).trans (hav.setView_only _)).trans (hbw.setView_only _)⟩

/-- A slot that gives up a pin: it becomes the shadow where there was none and nothing pins it (R78). -/
theorem Homed.slotIdle {s : State} {cx h e : Nat} {a : XAddr} (hh : Homed s cx h a e) (hk : vKind e = 1) (sl : Nat) :
    Homed (s.slotIdle cx h sl) cx h a
        (if vShd e = 3 ∧ sl ≠ vCur e ∧ s.pins cx h e sl = 0 then shaded e sl else e) ∧
      ViewsOnly s (s.slotIdle cx h sl) ∧ ∀ {k q : Nat} {b : XAddr}, Homed s cx k b q →
        b.pa + 64 ≤ a.pa ∨ a.pa + 64 ≤ b.pa → Homed (s.slotIdle cx h sl) cx k b q := by
  obtain ⟨u, hu, hou, hkeep⟩ := hh.read
  have hhu := hkeep hh
  unfold State.slotIdle
  simp only [hu, hk, true_and, hou.pinsOf]
  split
  · exact ⟨hhu.setView (shaded_fields hh.lt sl).1, hou.trans (hhu.setView_only _),
      fun hb hd => hhu.setView_apart (hkeep hb) hd _⟩
  · exact ⟨hhu, hou, fun hb _ => hkeep hb⟩

/-- What a closed snapshot leaves (R80). -/
theorem closeSnap_homed {s : State} {cx handle live e q sl : Nat} {a b : XAddr} (ha : Homed s cx live a e)
    (hb : Homed s cx handle b q) (hd : b.pa + 64 ≤ a.pa ∨ a.pa + 64 ≤ b.pa) (hk : vKind e = 1) (hq : vKind q = 2)
    (hl : fieldOf q 256 16 = live) (hsl : fieldOf q 297 2 = sl) (hs : sl < 3) (hp : 0 < vSpin e sl) :
    let e1 := spun e sl (vSpin e sl - 1)
    Homed (s.closeSnap cx handle) cx live a
        (if vShd e = 3 ∧ sl ≠ vCur e ∧ vSpin e sl = 1 ∧ s.copyPins cx live sl = 0 then shaded e1 sl else e1) ∧
      Homed (s.closeSnap cx handle) cx handle b (nput q 248 2 0) ∧ ViewsOnly s (s.closeSnap cx handle) := by
  intro e1
  obtain ⟨u, hu, hou, hkeep⟩ := hb.read
  have hq2 : nput q 248 2 0 < 2 ^ 512 := nput_lt _ hb.lt (by omega)
  have hlow : vSpin e sl - 1 < 256 := by
    have : vSpin e sl < 2 ^ 8 := Nat.mod_lt _ (by norm_num)
    omega
  obtain ⟨hlt, hspin, -, hkind, hcur, hshd, -⟩ := spun_fields ha.lt hs hlow
  have hbw := (hkeep hb).setView hq2
  have haw := (hkeep hb).setView_apart (hkeep ha) hd.symm (nput q 248 2 0)
  have how := hou.trans ((hkeep hb).setView_only (nput q 248 2 0))
  obtain ⟨w, hw, howw, hkeepw⟩ := haw.read
  have hax := (hkeepw haw).setView hlt
  have hbx := (hkeepw haw).setView_apart (hkeepw hbw) hd e1
  have hox := (how.trans howw).trans ((hkeepw haw).setView_only e1)
  obtain ⟨h1, h2, h3⟩ := hax.slotIdle (hkind.trans hk) sl
  have heq : s.closeSnap cx handle = (w.setView cx live e1).slotIdle cx live sl := by
    unfold State.closeSnap
    simp only [hu, hq, hl, hsl, hw, ne_eq, not_true, if_false]
    rfl
  have hc : (vShd e1 = 3 ∧ sl ≠ vCur e1 ∧ (w.setView cx live e1).pins cx live e1 sl = 0) ↔
      (vShd e = 3 ∧ sl ≠ vCur e ∧ vSpin e sl = 1 ∧ s.copyPins cx live sl = 0) := by
    rw [hshd, hcur, hox.pinsOf, State.pins, hspin]
    omega
  rw [if_congr hc rfl rfl] at h1
  rw [heq]
  exact ⟨h1, h3 hbx hd, hox.trans h2⟩

end Sys2Proof.Machine

namespace Sys2Proof.Claims

open Sys2Proof.Machine

/-- Settles O38: each request in terms of the entries that it reads and writes at their home. -/
theorem views : Obligations.Views := by
  unfold Obligations.Views
  refine ⟨fun s x sc a h e cx hr hh h6 hcx hm hv hok hk hsh hcore hlink hsave hrel =>
      publish_swaps s x sc a h e cx hr hh h6 hcx hm hv hok hk hsh hcore hlink hsave hrel,
    fun s x sc a h hr he hh hbad => publish_faults s x sc a h hr he hh hbad, ?_, ?_⟩
  · intro s cx handle live ver e old sl hm hvt _ hl hver hv hvc hw hwc _ hk ho hn hs hlv hlvs hc
    obtain ⟨a, ha⟩ := homed_of_cached hm hv hvc
    obtain ⟨b, hb⟩ := homed_of_cached hm hw hwc
    have hd := ha.apart hb hvt (by rintro rfl; omega)
    obtain ⟨hqlt, hqk, hql, hqs, hqv, hqp⟩ := snapEntry_fields hl hs hver e
    obtain ⟨h1, h2, h3⟩ := openSnap_homed ha hb hd hk ho hn hs (snapSlot_eq hs hlv hlvs hc) hqlt
    obtain ⟨-, hspin, hcur, hshd, hthird, hvv, hrest, hspins⟩ := snapped_fields s cx live ha.lt hs hn
    exact ⟨_, _, _, rfl, h1.viewIs, hspin, hcur, hshd, hthird, hvv, hrest, hspins, h2.viewIs, hqk, hql, hqs, hqv, hqp,
      (congrArg State.groups h3.rest :), h3.core⟩
  · intro s cx handle live e q sl hm hvt _ _ hv hvc hw hwc hq hl hsl hk hs hp
    obtain ⟨a, ha⟩ := homed_of_cached hm hv hvc
    obtain ⟨b, hb⟩ := homed_of_cached hm hw hwc
    have hd := ha.apart hb hvt (by rintro rfl; omega)
    obtain ⟨h1, h2, h3⟩ := closeSnap_homed ha hb hd hk hq hl hsl hs hp
    have hlow : vSpin e sl - 1 < 256 := by
      have : vSpin e sl < 2 ^ 8 := Nat.mod_lt _ (by norm_num)
      omega
    obtain ⟨hlt, hspin, -, -, hcur, hshd, -, -, hrest⟩ := spun_fields ha.lt hs hlow
    obtain ⟨-, hshd2, hspin2, -, hcur2, -, hrest2⟩ := shaded_fields hlt sl
    have hq2 : vKind (nput q 248 2 0) = 0 := fieldOf_nput_self ..
    refine ⟨_, _, _, rfl, h1.viewIs, ?_, ?_, ?_, ?_, h2.viewIs, hq2, (congrArg State.groups h3.rest :), h3.core⟩
    · split
      · rw [hspin2 sl hs, hspin]
      · exact hspin
    · split
      · exact hcur2.trans hcur
      · exact hcur
    · split
      · rw [hshd2]; omega
      · exact hshd
    · split
      · exact hrest2.trans hrest
      · exact hrest

end Sys2Proof.Claims
end

section
/-! Elements that an engine reads and writes (03 R50 to R53): from a place that is one access, and in tile memory. -/

namespace Sys2Proof.Machine

open Sys2Proof.Claims

/-! Elements of whole bytes, each at one place. -/

theorem spans_of_bytes (sd : ESide) (i j : Nat) (h : 8 ≤ eWidth sd.rc) :
    sd.spans i j = ([(elemAddr (rSpace sd.rc) sd.base (rStr1 sd.rc) (rStr0 sd.rc) i j, eWidth sd.rc / 8)], 0) := by
  unfold ESide.spans
  rw [if_pos h]

/-- One span read. -/
theorem eSpans_one {s u v : State} {ag : EngAg} {sd : ESide} {wr : Bool} {va : W64} {n : Nat} {p : Place} {bs : List Byte}
    (hp : s.ePlace ag sd va n wr = (.ok p, u)) (hr : u.placeRead ag sd sd.swz p n = (.ok bs, v)) :
    s.eSpans ag sd wr [(va, n)] = (.ok bs, v) := by
  simp only [State.eSpans, hp, hr, List.append_nil]

/-- An element read from one place. -/
theorem eGet_place {s u v : State} {ag : EngAg} {sd : ESide} {i j w : Nat} {p : Place} {bs : List Byte} (hw : eWidth sd.rc = 8 * w)
    (h0 : 0 < w) (hp : s.ePlace ag sd (elemAddr (rSpace sd.rc) sd.base (rStr1 sd.rc) (rStr0 sd.rc) i j) w false = (.ok p, u))
    (hr : u.placeRead ag sd sd.swz p w = (.ok bs, v)) (hl : bs.length = w) : s.eGet ag sd i j = (.ok (leNat bs), v) := by
  have hd : eWidth sd.rc / 8 = w := by omega
  have hf : fieldOf (leNat bs) 0 (eWidth sd.rc) = leNat bs := by
    rw [fieldOf, pow_zero, Nat.div_one, hw, pow_mul]
    exact Nat.mod_eq_of_lt (hl ▸ leNat_lt bs)
  unfold State.eGet
  rw [spans_of_bytes _ _ _ (by omega), hd]
  simp only [eSpans_one hp hr, hf]

/-- An element written to one place. -/
theorem ePut_place {s u v : State} {ag : EngAg} {sd : ESide} {i j w code : Nat} {p : Place} (hw : eWidth sd.rc = 8 * w)
    (h0 : 0 < w) (hro : rRo sd.rc = false)
    (hp : s.ePlace ag sd (elemAddr (rSpace sd.rc) sd.base (rStr1 sd.rc) (rStr0 sd.rc) i j) w true = (.ok p, u))
    (hr : u.placeWrite ag sd (rSwz sd.rc) p (leBytes w code) = (.ok (), v)) : s.ePut ag sd i j code = (.ok (), v) := by
  have hd : eWidth sd.rc / 8 = w := by omega
  have ht : (leBytes w code).take w = leBytes w code := List.take_of_length_le (by rw [length_leBytes])
  unfold State.ePut
  rw [spans_of_bytes _ _ _ (by omega), hd]
  simp only [hro, Bool.false_eq_true, if_false]
  rw [if_pos (by omega), hd]
  simp only [State.eStore, hp, ht, hr]

/-! Tile memory (04 R97 to R105). -/

/-- No bits of an address in a segment are exchanged under mode 0 (04 R104). -/
theorem swizzle_zero (x : Nat) : swizzle 0 x = x := by
  simp only [swizzle, if_true]
  omega

theorem tphys_plain (s : State) (c a : Nat) : s.tphys (some 0) (.data c a) = .data c a := by
  simp only [State.tphys, swizzle_zero]
  congr 1
  omega

/-- Bytes read through places that are where they say. -/
theorem flatMap_tread (s : State) (f : TLoc → TLoc) (c a n : Nat) (h : ∀ b, a ≤ b → b < a + n → f (.data c b) = .data c b) :
    (List.range n).flatMap (fun i => s.tread (f ((TLoc.data c a).add i)) 1) = mread (s.core c).tile a n := by
  induction n with
  | zero => rfl
  | succ n ih =>
    rw [List.range_succ, List.flatMap_append, ih fun b h1 h2 => h b h1 (by omega)]
    have hn : f ((TLoc.data c a).add n) = .data c (a + n) := h (a + n) (by omega) (by omega)
    have happ : ∀ (m : Memory) (b k : Nat), mread m b (k + 1) = mread m b k ++ [mget m (b + k)] := by
      intro m b k
      induction k generalizing b with
      | zero => rfl
      | succ k ihk =>
        rw [mread, ihk (b + 1), mread, show b + 1 + k = b + (k + 1) by omega]
        rfl
    rw [happ]
    simp only [List.flatMap_cons, List.flatMap_nil, List.append_nil, hn]
    rfl

/-- Bytes have been written into tile memory at one place, and nothing else has changed (03 R62). -/
structure Wrote (s t : State) (c a : Nat) (bs : List Byte) : Prop where
  rest : { t with cores := [] } = { s with cores := [] }
  core : ∀ k, { t.core k with tile := [] } = { s.core k with tile := [] }
  tile : ∀ k, (t.core k).tile = if k = c then mwrite (s.core c).tile a bs else (s.core k).tile

theorem wrote_fold (c a : Nat) (bs : List Byte) (s : State) (i : Nat) :
    Wrote s ((bs.zipIdx i).foldl (fun st b => st.twrite (st.tphys (some 0) ((TLoc.data c a).add b.2)) [b.1]) s) c (a + i) bs := by
  induction bs generalizing s i with
  | nil => exact ⟨rfl, fun _ => rfl, fun k => by split <;> simp [*, mwrite]⟩
  | cons b bs ih =>
    rw [List.zipIdx_cons, List.foldl_cons]
    have hp : s.tphys (some 0) ((TLoc.data c a).add i) = .data c (a + i) := tphys_plain s c (a + i)
    rw [hp]
    obtain ⟨h1, h2, h3⟩ := ih (s.twrite (.data c (a + i)) [b]) (i + 1)
    refine ⟨h1, fun k => (h2 k).trans ?_, fun k => (h3 k).trans ?_⟩
    · rw [State.twrite, State.modCore_core_ite]
      split
      · next h => rw [h]
      · rfl
    · split
      · simp only [State.twrite, State.modCore_core]
        rfl
      · next h => rw [State.twrite, State.modCore_core_ne _ _ h]

/-- Where an element of tile memory lies. -/
theorem ePlace_tile {s : State} {ag : EngAg} {sd : ESide} {tk n : Nat} {va : W64} {wr : Bool} (hs : rSpace sd.rc = 0)
    (ht : ag.team = some tk) (hv : va.toNat + n ≤ (s.launch (s.team tk).launch).visible) :
    s.ePlace ag sd va n wr = (.ok (.tile (.data (s.team tk).core ((s.team tk).base * 4096 + va.toNat))), s) := by
  have hl : s.localLoc tk 0 va.toNat n = some (.data (s.team tk).core ((s.team tk).base * 4096 + va.toNat)) := by
    simp only [State.localLoc, State.tileLoc, if_true, hv]
  unfold State.ePlace
  rw [hs]
  simp only [ht, hl]

theorem placeRead_tile {s : State} {ag : EngAg} {sd : ESide} {swz : Option Nat} {c a n : Nat} (hb : (s.core c).badSegs = [])
    (hp : ∀ b, a ≤ b → b < a + n → s.tphys swz (.data c b) = .data c b) :
    s.placeRead ag sd swz (.tile (.data c a)) n = (.ok (mread (s.core c).tile a n), s) := by
  unfold State.placeRead
  have : s.tileBad (.data c a) n = false := by simp [State.tileBad, hb]
  simp only [this, Bool.false_eq_true, if_false, flatMap_tread s (s.tphys swz) c a n hp]

theorem placeWrite_tile (s : State) (ag : EngAg) (sd : ESide) (c a : Nat) (bs : List Byte) :
    ∃ t, s.placeWrite ag sd 0 (.tile (.data c a)) bs = (.ok (), t) ∧ Wrote s t c a bs :=
  ⟨_, rfl, wrote_fold c a bs s 0⟩

end Sys2Proof.Machine
end

section
/-! One element of a copy command with tags off (03 R50, R54, R61, R62). -/

namespace Sys2Proof.Machine

open Sys2Proof.Claims

/-- A command that has moved `j` elements of a row on, `b` destination bits each. -/
def CopyCmd.along (c : CopyCmd) (b j : Nat) (fl : List (Nat × W32)) : CopyCmd :=
  { c with
    rd := if c.usesS then j else 0
    wr := j
    bytes := c.bytes + b * j
    filling := fl }

/-- An element written where no tag is kept and no view is bound: the segments noted alone change the command. -/
theorem cPut_ok {s v : State} {ag : EngAg} {c : CopyCmd} {sd : ESide} {p : Nat × Nat} {code : Nat}
    (hput : s.ePut ag sd p.1 p.2 code = (.ok (), v)) (hpin : sd.pin = none) (htw : c.tagw = 2) :
    ∃ fl, s.cPut ag c sd (some p) code = (none, v, { c with bytes := c.bytes + eWidth sd.rc, filling := fl }) := by
  have ht : ∀ b, ({ c with bytes := b } : CopyCmd).tagw = 2 := fun _ => htw
  refine ⟨(v.cFirst ag c p).2.filling, ?_⟩
  simp only [State.cPut, hput, hpin, State.pinDirty, State.cFirst, ht, if_true]
  rfl

/-- The source of an element read: where the command has a source, the element counts as read. -/
theorem cRead_src {s u : State} {ag : EngAg} {c : CopyCmd} {i j code : Nat} {p : Nat × Nat} (hu : c.usesS = true)
    (hx : c.srcIx i j = .ok (some p)) (hg : s.eGet ag c.src p.1 p.2 = (.ok code, u)) :
    s.cRead ag c i j = (.ok code, u, { c with rd := c.rd + 1 }) := by
  simp only [State.cRead, hu, hx, State.cGet, hg, Bool.not_true, Bool.false_eq_true, if_false]

theorem cRead_fill (s : State) (ag : EngAg) {c : CopyCmd} (i j : Nat) (hu : c.usesS = false) :
    s.cRead ag c i j = (.ok (c.word 1 % 2 ^ eWidth c.d), s, c) := by
  simp only [State.cRead, hu, Bool.not_false, if_true]

/-- An element whose value takes nothing from the destination's old one. -/
theorem cElem_put {s u v : State} {ag : EngAg} {c : CopyCmd} {t : Tcb} {scale o i j r code val : Nat}
    {sx : Option (Nat × Nat)} {p : Nat × Nat} (hk4 : c.kind ≠ 4) (hk5 : c.kind ≠ 5)
    (hread : s.cRead ag c i j = (.ok code, u, { c with rd := r }))
    (hsx : (if c.usesS then c.srcIx i j else .ok none) = .ok sx) (hd : c.dstIx o i j = .ok (some p))
    (hconv : ({ c with rd := r } : CopyCmd).convert t scale (c.elemRnd t.seed i j (some p)) code (some p) = (val, { c with rd := r }))
    (hput : u.ePut ag c.dst p.1 p.2 val = (.ok (), v)) (hpin : c.dst.pin = none) (htw : c.tagw = 2) :
    ∃ fl, s.cElem ag c t scale o i j =
      (none, v, { c with rd := r, wr := c.wr + 1, bytes := c.bytes + eWidth c.d, filling := fl }) := by
  obtain ⟨fl, hfl⟩ := cPut_ok (c := { c with rd := r }) hput hpin htw
  refine ⟨fl, ?_⟩
  unfold State.cElem
  simp only [hread, hsx, hd, hconv]
  rw [hfl]
  rfl

/-- An element of REDUCE: the sum with the old word (R61). -/
theorem cElem_reduce {s u v w : State} {ag : EngAg} {c : CopyCmd} {t : Tcb} {scale o i j r code old : Nat}
    {sx : Option (Nat × Nat)} {p : Nat × Nat} (hk4 : c.kind = 4) (hsp : rSpace c.d ≠ 2) (hro : rRo c.d = false)
    (hread : s.cRead ag c i j = (.ok code, u, { c with rd := r }))
    (hsx : (if c.usesS then c.srcIx i j else .ok none) = .ok sx) (hd : c.dstIx o i j = .ok (some p))
    (hold : u.eGet ag c.dst p.1 p.2 = (.ok old, w))
    (hput : w.ePut ag c.dst p.1 p.2 (reduceVal (rFmt c.d) c.rm (c.elemRnd t.seed i j (some p)) old code) = (.ok (), v))
    (hpin : c.dst.pin = none) (htw : c.tagw = 2) :
    ∃ fl, s.cElem ag c t scale o i j =
      (none, v, { c with rd := r, wr := c.wr + 1, bytes := c.bytes + eWidth c.d, filling := fl }) := by
  obtain ⟨fl, hfl⟩ := cPut_ok (c := { c with rd := r }) hput hpin htw
  have hh : u.cHome ag c.dst (some p) = u := by
    have : ¬ rSpace c.dst.rc = 2 := hsp
    unfold State.cHome
    split
    · next h => rw [if_neg this]
    · rfl
  have hconv : ({ c with rd := r } : CopyCmd).convert t scale (c.elemRnd t.seed i j (some p)) code (some p) =
      (code, { c with rd := r }) := by
    have hk : ({ c with rd := r } : CopyCmd).kind = 4 := hk4
    simp only [CopyCmd.convert, hk]
  refine ⟨fl, ?_⟩
  unfold State.cElem
  simp only [hread, hsx, hd, hconv, hk4, hro, hh, State.cGet, hold]
  rw [if_neg (by simp), hfl]
  rfl

/-- Elements in order, each of which goes well. -/
theorem cElems_range {ag : EngAg} {t : Tcb} {scale o i : Nat} (P : Nat → State → CopyCmd → Prop) {m : Nat}
    (hstep : ∀ j s c, j < m → P j s c → ∃ s2 c2, s.cElem ag c t scale o i j = (none, s2, c2) ∧ P (j + 1) s2 c2)
    {s : State} {c : CopyCmd} (h0 : P 0 s c) :
    ∃ s2 c2, s.cElems ag c t scale o i (List.range m) = (none, s2, c2) ∧ P m s2 c2 := by
  induction m with
  | zero => exact ⟨s, c, rfl, h0⟩
  | succ m ih =>
    obtain ⟨s2, c2, h2, hP⟩ := ih fun j s c hj => hstep j s c (by omega)
    obtain ⟨s3, c3, h3, hQ⟩ := hstep m s2 c2 (by omega) hP
    refine ⟨s3, c3, ?_, hQ⟩
    unfold State.cElems at h2 ⊢
    rw [List.range_succ, List.foldl_append, h2]
    exact h3

end Sys2Proof.Machine
end

section
/-! A piece that is one row (03 R45, R50, R62): a command with tags off, no scales, no views and no peers. -/

namespace Sys2Proof.Machine

open Sys2Proof.Claims

/-! What the fields of a one-row command say (R48, R50). -/

/-- A command that has not begun, of one row of `m` elements, with tags off and RM 0. -/
structure RowCmd (c : CopyCmd) (gk kind m : Nat) : Prop where
  gk : c.gk = some gk
  pstw : c.pstw = false
  pos : c.pos = 0
  sat : c.sat = 0
  kind : c.kind = kind
  tagw : c.tagw = 2
  tagr : 2 ≤ c.tagr
  rm : c.rm = .rne
  n1 : c.n1 = 1
  total : c.total = 1
  coord : c.coord 0 = (0, 0, 0)
  runLen : c.runLen 0 = m
  ro : rRo c.d = false
  dst : ∀ j, j < m → c.dstIx 0 0 j = .ok (some (0, c.word 3 + j))

theorem rowCmd_of_oneRow {s : State} {n id gk kind m : Nat} {c : CopyCmd} (h : OneRow s n id gk c kind m) :
    RowCmd c gk kind m := by
  obtain ⟨-, -, hgk, hp, hpos, hsat, -, -, -, hkind, htw, htr, hrm, h4, hn0, hm0, hm, hn1, hout, hro, hx1, hx0⟩ := h
  have hk : c.kind = kind := by rw [CopyCmd.kind, hp]; simpa [fieldOf] using hkind
  have h0 : c.n0 = m := by rw [CopyCmd.n0, hp]; exact hn0
  have h1 : c.n1 = 1 := by rw [CopyCmd.n1, hp]; simpa [fieldOf] using hn1
  have hj : c.nj = 1 := by rw [CopyCmd.nj, h0]; omega
  have hr : fieldOf (c.word 0) 20 3 = 0 := hrm
  have ho : c.nout = 1 := by
    rw [CopyCmd.nout, hk]
    split
    · next h3 => exact hout h3
    · rfl
  refine ⟨hgk, hp, hpos, hsat, hk, ?_, ?_, ?_, h1, ?_, ?_, ?_, hro, fun j hj => ?_⟩
  · rw [CopyCmd.tagw, hgk, hp]; exact htw
  · rw [CopyCmd.tagr, hgk]; exact htr
  · rw [CopyCmd.rm, hr]; rfl
  · rw [CopyCmd.total, ho, h1, hj]
  · simp only [CopyCmd.coord, h1, hj]
  · rw [CopyCmd.runLen, h0, hj]; omega
  · have h3 : c.word 3 + j < rExt0 c.d := by omega
    simp only [CopyCmd.dstIx, hp, h4, pairOf, check, hx1, h3, zero_mul, add_zero, if_true, Bool.false_eq_true, if_false]

theorem srcIx_of_row {c : CopyCmd} {m j : Nat} (hp : c.pstw = false) (h2 : c.word 2 = 0) (hx1 : 0 < rExt1 c.s)
    (hx0 : c.word 1 + m ≤ rExt0 c.s) (hj : j < m) : c.srcIx 0 j = .ok (some (0, c.word 1 + j)) := by
  have h1 : c.word 1 + j < rExt0 c.s := by omega
  simp only [CopyCmd.srcIx, hp, h2, pairOf, check, hx1, h1, add_zero, if_true, Bool.false_eq_true, if_false]

/-! Metadata alone (R62). -/

/-- Nothing but metadata words of segments has changed. -/
structure MetaOnly (s t : State) : Prop where
  rest : { t with cores := [] } = { s with cores := [] }
  core : ∀ k, { t.core k with mdw := [] } = { s.core k with mdw := [] }

theorem MetaOnly.refl (s : State) : MetaOnly s s := ⟨rfl, fun _ => rfl⟩

theorem MetaOnly.trans {s t u : State} (h : MetaOnly s t) (k : MetaOnly t u) : MetaOnly s u :=
  ⟨k.rest.trans h.rest, fun c => (k.core c).trans (h.core c)⟩

theorem metaOnly_setSegMeta (s : State) (k : Nat) (m : W32) : MetaOnly s (s.setSegMeta k m) := by
  refine ⟨rfl, fun c => ?_⟩
  rw [State.setSegMeta, State.setMeta, State.modCore_core_ite]
  split
  · next h => rw [h]
  · rfl

theorem metaOnly_foldl {α : Type} (f : State → α → State) (hf : ∀ s x, MetaOnly s (f s x)) (l : List α) (s : State) :
    MetaOnly s (l.foldl f s) := by
  induction l generalizing s with
  | nil => exact .refl s
  | cons x l ih => exact (hf s x).trans (ih (f s x))

/-- A command that has moved its last byte, with tags off, leaves stamps behind and no tag. -/
theorem cSettle_last {s : State} {ag : EngAg} {c : CopyCmd} (ht : 2 ≤ c.tagr) :
    ∃ t fl rd, s.cSettle ag c = (t, { c with filling := fl, reading := rd }) ∧ MetaOnly s t := by
  refine ⟨_, _, _, rfl, ?_⟩
  rw [if_neg (by omega)]
  exact metaOnly_foldl _ (fun st f => metaOnly_setSegMeta st ..) _ s

/-! The steps of a piece that find nothing to do. -/

theorem peers_of_plain {c : CopyCmd} (hd : rSpace c.d ≠ 5) (hs : c.usesS = true → rSpace c.s ≠ 5) : c.peers = [] := by
  unfold CopyCmd.peers
  rw [if_neg (by simpa using hs), if_neg hd]
  rfl

theorem cBind_of_plain (s : State) (h : Holder) {c : CopyCmd} {l : List (BitVec 256 × Bool)} (hl : ∀ r ∈ l, rSpace r.1 ≠ 7) :
    s.cBind h c l = (.inr true, s, c) := by
  induction l with
  | nil => rfl
  | cons r l ih =>
    have := hl r List.mem_cons_self
    rw [State.cBind, if_pos (.inl this)]
    exact ih fun x hx => hl x (List.mem_cons_of_mem r hx)

theorem cRuns_of_end (s : State) (ag : EngAg) {c : CopyCmd} (t : Tcb) (k : Nat) (h : c.total ≤ c.pos) :
    s.cRuns ag c t k = (s, c) := by
  cases k with
  | zero => rfl
  | succ k => rw [State.cRuns, if_pos h]

/-! The piece. -/

theorem RowCmd.active {c : CopyCmd} {gk kind m : Nat} (h : RowCmd c gk kind m) (g : Option (Nat × W64)) :
    RowCmd { c with st := .active, gather := g } gk kind m :=
  ⟨h.gk, h.pstw, h.pos, h.sat, h.kind, h.tagw, h.tagr, h.rm, h.n1, h.total, h.coord, h.runLen, h.ro, h.dst⟩

/-- A run without scales is its elements (R50). -/
theorem cRun_plain (s : State) (ag : EngAg) {c : CopyCmd} (t : Tcb) (k : Nat) (hfd : isBlock (rFmt c.d) = false)
    (hs : (c.usesS && isBlock (rFmt c.s)) = false) :
    s.cRun ag c t k = s.cElems ag c t 0 (c.coord k).1 (c.coord k).2.1
      ((List.range (c.runLen k)).map (fun j => (c.coord k).2.2 + j)) := by
  unfold State.cRun
  simp only [hfd, hs, Bool.false_eq_true, and_false, if_false]

/-- The run of a one-row command is its elements. -/
theorem cStep_row {s t : State} {ag : EngAg} {c c2 : CopyCmd} {gk kind m : Nat} (h : RowCmd c gk kind m)
    (hfd : isBlock (rFmt c.d) = false) (hfs : c.usesS = true → isBlock (rFmt c.s) = false)
    (hd7 : rSpace c.d ≠ 7) (hs7 : c.usesS = true → rSpace c.s ≠ 7)
    (hel : s.cElems ag { c with rd := 0, wr := 0 } Tcb.null 0 0 0 (List.range m) = (none, t, c2)) :
    s.cStep ag c Tcb.null = (none, true, t, c2) := by
  have hb : s.cBind ag.h c c.viewRecs = (.inr true, s, c) := by
    refine cBind_of_plain s ag.h fun r hr => ?_
    simp only [CopyCmd.viewRecs, h.pstw, Bool.false_eq_true, if_false, List.append_nil, List.mem_append] at hr
    rcases hr with hr | hr
    · rw [List.mem_singleton.1 hr]; exact hd7
    · split at hr
      · next hu => rw [List.mem_singleton.1 hr]; exact hs7 hu
      · cases hr
  have hm : s.cMark ag c 0 = { c with rd := 0, wr := 0 } := by
    have htr := h.tagr
    simp only [State.cMark, htr, if_true, List.filter_nil, List.append_nil]
  have hjs : (List.range (c.runLen 0)).map (fun j => (c.coord 0).2.2 + j) = List.range m := by
    rw [h.runLen, h.coord]
    simp
  have hs : (c.usesS && isBlock (rFmt c.s)) = false := by
    cases hu : c.usesS with
    | false => rfl
    | true => rw [hfs hu]; rfl
  have hrun : s.cRun ag { c with rd := 0, wr := 0 } Tcb.null 0 = (none, t, c2) := by
    refine (cRun_plain s ag (c := { c with rd := 0, wr := 0 }) Tcb.null 0 hfd hs).trans ?_
    show s.cElems ag _ Tcb.null 0 (c.coord 0).1 (c.coord 0).2.1
      ((List.range (c.runLen 0)).map (fun j => (c.coord 0).2.2 + j)) = _
    rw [hjs, h.coord, hel]
  unfold State.cStep
  rw [hb]
  dsimp only
  rw [h.pos, hm, hrun]

/-- What becomes of a command whose last byte has landed without error. -/
structure Landed (c d : CopyCmd) : Prop where
  id : d.id = c.id
  st : d.st = .done
  cls : d.cls = 0
  detail : d.detail = 0
  bytes : d.bytes = c.bytes
  gd : d.gd = c.gd
  gk : d.gk = c.gk

theorem cLast_landed (s : State) {c : CopyCmd} (h : c.sat = 0) : Landed c (s.cLast c) :=
  ⟨rfl, rfl, rfl, by show min c.sat 0xFFFF = 0; rw [h]; rfl, rfl, rfl, rfl⟩

/-- A piece that ends its command: the row's elements, the stamps, and the end. -/
theorem cPiece_row {s s1 t : State} {ag : EngAg} {gk kind m : Nat} {c c1 c2 : CopyCmd} (h : RowCmd c gk kind m)
    (h1 : RowCmd c1 gk kind m) (hact : c2.st = .active) (htot : c2.total = 1) (htag : 2 ≤ c2.tagr) (hsat : c2.sat = 0)
    (hfd : isBlock (rFmt c.d) = false) (hpeer : c1.peers = []) (hper : 0 < c.perPiece)
    (htcb : kind = 2 → rTcb c.d = 0) (htab : s.cTable ag c 0 = (none, s1, c1))
    (hstep : s1.cStep ag c1 Tcb.null = (none, true, t, c2)) :
    ∃ t2 c3, MetaOnly t t2 ∧ s.cPiece ag c = (t2, c3) ∧ Landed c2 c3 := by
  obtain ⟨k, hk⟩ : ∃ k, c.perPiece = k + 1 := ⟨c.perPiece - 1, by omega⟩
  have htr : (if c.kind = 2 ∨ c.rm = .sr then s.tcb ag.h c.ctx (rTcb c.d) else (Tcb.null, s)) = (Tcb.null, s) := by
    split
    · next hc =>
      have : c.kind = 2 := hc.resolve_right (by rw [h.rm]; decide)
      rw [htcb (h.kind ▸ this)]
      rfl
    · rfl
  have hfit : s.cScalesFit ag c = true := by simp [State.cScalesFit, hfd]
  have hready : s1.cReady ag c1 c1.pos = true := by simp [State.cReady, h1.tagw, h1.tagr]
  have hans : s1.cAnswer c1 = (none, s1) := by simp [State.cAnswer, hpeer]
  have hcp : s1.cPeer c1 = none := by simp [State.cPeer, hpeer]
  obtain ⟨t2, fl, rd, hset, hmeta⟩ := cSettle_last (s := t) (ag := ag) (c := { c2 with pos := c1.pos + 1, rd := 0, wr := 0 }) htag
  have hruns : s.cRuns ag c Tcb.null c.perPiece =
      (t2, { c2 with pos := c1.pos + 1, rd := 0, wr := 0, filling := fl, reading := rd }) := by
    rw [hk, State.cRuns, if_neg (by rw [h.total, h.pos]; omega)]
    have hc0 : (c.coord c.pos).1 = 0 := by rw [h.pos, h.coord]
    simp only [hc0, htab, hcp, hready, hans, hstep, hset, Bool.not_true, Bool.false_eq_true, if_false]
    exact cRuns_of_end _ _ _ _ (by show c2.total ≤ c1.pos + 1; omega)
  refine ⟨t2, t2.cLast { c2 with pos := c1.pos + 1, rd := 0, wr := 0, filling := fl, reading := rd }, hmeta, ?_, ?_⟩
  · have hrule : Tcb.null.rule ≠ 2 := by decide
    unfold State.cPiece
    rw [htr]
    dsimp only
    rw [if_neg (fun hc => hrule hc.2.2.1), if_neg (fun hc => by rw [hfit] at hc; cases hc.2), hruns,
      if_neg (by show c2.st ≠ .done; rw [hact]; decide), if_pos (by show c2.total ≤ c1.pos + 1; omega)]
  · exact ⟨rfl, rfl, rfl, (cLast_landed t2 hsat).detail, rfl, rfl, rfl⟩

/-! The piece as the engine takes it. -/

theorem cmdOf_putCmd {s t : State} {e : Eng} {id : Nat} {c d : CopyCmd} (h : s.cmdOf e id = some c) (ht : t.cmdsOf e = s.cmdsOf e)
    (hd : d.id = c.id) : (t.putCmd e d).cmdOf e id = some d := by
  have hc : c.id = id := by simpa using List.find?_some h
  unfold State.cmdOf at h
  rw [State.cmdOf, State.putCmd, cmdsOf_setCmds_self, ht]
  generalize s.cmdsOf e = l at h
  induction l with
  | nil => cases h
  | cons x l ih =>
    rw [List.map_cons, List.find?_cons]
    by_cases hx : x.id = id
    · rw [if_pos (by omega), decide_eq_true (by omega)]
    · rw [List.find?_cons, decide_eq_false hx] at h
      rw [if_neg (by omega), decide_eq_false hx]
      exact ih h

/-- A row whose elements all go well: the command is done (R45, R62). -/
theorem piece_row {s s1 t : State} {n id gk kind m r w b : Nat} {g : Option (Nat × W64)} {fl : List (Nat × W32)} {c : CopyCmd}
    (h : OneRow s n id gk c kind m) (hfd : isBlock (rFmt c.d) = false) (hfs : c.usesS = true → isBlock (rFmt c.s) = false)
    (hd5 : rSpace c.d ≠ 5) (hd7 : rSpace c.d ≠ 7) (hs5 : c.usesS = true → rSpace c.s ≠ 5) (hs7 : c.usesS = true → rSpace c.s ≠ 7)
    (hper : 0 < c.perPiece) (htcb : kind = 2 → rTcb c.d = 0)
    (htab : s.cTable (copyAg (.core n) c) { c with st := .active } 0 = (none, s1, { c with st := .active, gather := g }))
    (hel : s1.cElems (copyAg (.core n) c) { c with st := .active, gather := g, rd := 0, wr := 0 } Tcb.null 0 0 0 (List.range m) =
      (none, t, { c with st := .active, gather := g, rd := r, wr := w, bytes := b, filling := fl }))
    (hcop : t.cmdsOf (.core n) = s.cmdsOf (.core n)) :
    ∃ t2 c3, exec (.copyPiece (.core n) id) s = .next (t2.putCmd (.core n) c3) ∧ MetaOnly t t2 ∧
      (t2.putCmd (.core n) c3).cmdOf (.core n) id = some c3 ∧
      c3.st = .done ∧ c3.cls = 0 ∧ c3.detail = 0 ∧ c3.bytes = b ∧ c3.gd = c.gd ∧ c3.gk = c.gk := by
  have hr := rowCmd_of_oneRow h
  obtain ⟨hcmd, hact, -⟩ := h
  have hstep := cStep_row (ag := copyAg (.core n) c) (hr.active g) hfd hfs hd7 hs7 hel
  obtain ⟨t2, c3, hmeta, hp, hl⟩ := cPiece_row (c := { c with st := .active })
    (c2 := { c with st := .active, gather := g, rd := r, wr := w, bytes := b, filling := fl })
    ⟨hr.gk, hr.pstw, hr.pos, hr.sat, hr.kind, hr.tagw, hr.tagr, hr.rm, hr.n1, hr.total, hr.coord, hr.runLen, hr.ro, hr.dst⟩
    (hr.active g) rfl hr.total hr.tagr hr.sat hfd (peers_of_plain (c := { c with st := .active, gather := g }) hd5 hs5)
    hper htcb htab hstep
  have hc2 : t2.cmdsOf (.core n) = s.cmdsOf (.core n) := by
    rw [← hcop]
    exact (congrArg Core.copies (hmeta.core n) :)
  refine ⟨t2, c3, ?_, hmeta, cmdOf_putCmd hcmd hc2 hl.id, hl.st, hl.cls, hl.detail, hl.bytes, hl.gd, hl.gk⟩
  show Host.Outcome.next (s.piece (.core n) id) = _
  unfold State.piece
  simp only [hcmd, hact, if_true, hp]

end Sys2Proof.Machine
end

section
/-! Rows of a team's tile memory (03 R50, R62; 04 R97 to R105). -/

namespace Sys2Proof.Machine

open Sys2Proof.Claims

/-! What stays while bytes are written. -/

/-- Nothing but the bytes of tile memory has changed. -/
structure TileOnly (s t : State) : Prop where
  rest : { t with cores := [] } = { s with cores := [] }
  core : ∀ k, { t.core k with tile := [] } = { s.core k with tile := [] }

theorem TileOnly.refl (s : State) : TileOnly s s := ⟨rfl, fun _ => rfl⟩

theorem TileOnly.trans {s t u : State} (h : TileOnly s t) (k : TileOnly t u) : TileOnly s u :=
  ⟨k.rest.trans h.rest, fun c => (k.core c).trans (h.core c)⟩

theorem Wrote.only {s t : State} {c a : Nat} {bs : List Byte} (h : Wrote s t c a bs) : TileOnly s t := ⟨h.rest, h.core⟩

/-- Two states in which the teams, their launches, and the metadata and error marks of tile memory are the same. -/
structure SameTiles (s t : State) : Prop where
  teams : t.teams = s.teams
  launches : t.launches = s.launches
  mdw : ∀ k, (t.core k).mdw = (s.core k).mdw
  badSegs : ∀ k, (t.core k).badSegs = (s.core k).badSegs

theorem TileOnly.same {s t : State} (h : TileOnly s t) : SameTiles s t :=
  ⟨(congrArg State.teams h.rest :), (congrArg State.launches h.rest :), fun k => (congrArg Core.mdw (h.core k) :),
    fun k => (congrArg Core.badSegs (h.core k) :)⟩

theorem SameTiles.team {s t : State} (h : SameTiles s t) (k : Nat) : t.team k = s.team k := by
  simp only [State.team, h.teams]

theorem SameTiles.launch {s t : State} (h : SameTiles s t) (k : Nat) : t.launch k = s.launch k := by
  simp only [State.launch, h.launches]

theorem SameTiles.stamped {s t : State} (h : SameTiles s t) (p : TLoc) : t.stamped p = s.stamped p := by
  cases p with
  | data c a => simp only [State.stamped, Core.meta1, h.mdw]
  | side c a => rfl

/-- A row's bytes are where its record says, whatever bytes have changed. -/
theorem rowAt_kept {s t : State} (h : SameTiles s t) {tk : Nat} {rc : BitVec 256} {base : W64} {fmt w o m a : Nat}
    (hr : RowAt s tk rc base fmt w o m a) : RowAt t tk rc base fmt w o m a := by
  obtain ⟨h1, h2, h3, h4, h5, h6, h7, h8, h9⟩ := hr
  unfold RowAt
  rw [h.team, h.launch, h.badSegs]
  exact ⟨h1, h2, h3, h4, h5, h6, h7, h8, fun b hb1 hb2 => (h.stamped _).trans (h9 b hb1 hb2)⟩

/-! One element of a row. -/

/-- The address of an element of row 0. -/
theorem elemAddr_row {s : State} {tk : Nat} {rc : BitVec 256} {base : W64} {fmt w o m a j : Nat}
    (hr : RowAt s tk rc base fmt w o m a) (hj : j < m) :
    let va := elemAddr (rSpace rc) base (rStr1 rc) (rStr0 rc) 0 (o + j)
    va.toNat + w ≤ (s.launch (s.team tk).launch).visible ∧ (s.team tk).base * 4096 + va.toNat = a + w * j := by
  obtain ⟨hs, -, -, hst, ha, hv, hl, -⟩ := hr
  have hm : w * (o + j) + w ≤ w * (o + m) := by
    rw [← Nat.mul_succ]
    exact Nat.mul_le_mul_left w (by omega)
  have hva : (elemAddr (rSpace rc) base (rStr1 rc) (rStr0 rc) 0 (o + j)).toNat = base.toNat + w * (o + j) := by
    rw [elemAddr, hs, hst, if_neg (by omega), BitVec.toNat_add, BitVec.toNat_ofNat, Nat.zero_mul, Nat.zero_add, Nat.mul_comm (o + j) w]
    omega
  simp only [hva]
  refine ⟨by omega, ?_⟩
  rw [ha, Nat.mul_add]
  omega

/-- An element of a row read. -/
theorem eGet_row {s : State} {ag : EngAg} {sd : ESide} {tk fmt w o m a j : Nat}
    (hr : RowAt s tk sd.rc sd.base fmt w o m a) (ht : ag.team = some tk) (hw : fmtBits fmt = some (8 * w)) (h0 : 0 < w)
    (hj : j < m) :
    s.eGet ag sd 0 (o + j) = (.ok (leNat (mread (s.core (s.team tk).core).tile (a + w * j) w)), s) := by
  obtain ⟨hv, hp⟩ := elemAddr_row hr hj
  obtain ⟨hs, hf, hz, -, -, -, -, hbad, hst⟩ := hr
  have hwid : eWidth sd.rc = 8 * w := by rw [eWidth, hf, hw]; rfl
  have hm : w * j + w ≤ w * m := by
    rw [← Nat.mul_succ]
    exact Nat.mul_le_mul_left w hj
  have hpl := ePlace_tile (wr := false) hs ht hv
  rw [hp] at hpl
  refine eGet_place hwid h0 hpl (placeRead_tile hbad fun b hb1 hb2 => ?_) (length_mread ..)
  unfold ESide.swz
  split
  · rw [hz, tphys_plain]
  · exact hst b (by omega) (by omega)

/-- An element of a row written. -/
theorem ePut_row {s : State} {ag : EngAg} {sd : ESide} {tk fmt w o m a j : Nat} (code : Nat)
    (hr : RowAt s tk sd.rc sd.base fmt w o m a) (ht : ag.team = some tk) (hw : fmtBits fmt = some (8 * w)) (h0 : 0 < w)
    (hro : rRo sd.rc = false) (hj : j < m) :
    ∃ t, s.ePut ag sd 0 (o + j) code = (.ok (), t) ∧ Wrote s t (s.team tk).core (a + w * j) (leBytes w code) := by
  obtain ⟨hv, hp⟩ := elemAddr_row hr hj
  obtain ⟨hs, hf, hz, -⟩ := hr
  have hwid : eWidth sd.rc = 8 * w := by rw [eWidth, hf, hw]; rfl
  have hpl := ePlace_tile (wr := true) hs ht hv
  rw [hp] at hpl
  obtain ⟨t, hwr, hd⟩ := placeWrite_tile s ag sd (s.team tk).core (a + w * j) (leBytes w code)
  exact ⟨t, ePut_place hwid h0 hro hpl (by rw [hz]; exact hwr), hd⟩

/-! A row, element by element. -/

/-- The first `j` elements of a row at byte `a` of core `co` hold `val`, and nothing else has changed. -/
structure RowDone (s t : State) (co a w : Nat) (val : Nat → List Byte) (j : Nat) : Prop where
  only : TileOnly s t
  other : ∀ k b, ¬ (k = co ∧ a ≤ b ∧ b < a + w * j) → mget (t.core k).tile b = mget (s.core k).tile b
  put : ∀ i, i < j → mread (t.core co).tile (a + w * i) w = val i

theorem RowDone.start (s : State) (co a w : Nat) (val : Nat → List Byte) : RowDone s s co a w val 0 :=
  ⟨.refl s, fun _ _ _ => rfl, fun _ h => absurd h (Nat.not_lt_zero _)⟩

theorem RowDone.step {s t u : State} {co a w j : Nat} {val : Nat → List Byte} (h : RowDone s t co a w val j)
    (hw : Wrote t u co (a + w * j) (val j)) (hl : (val j).length = w) : RowDone s u co a w val (j + 1) := by
  have hs : w * (j + 1) = w * j + w := Nat.mul_succ w j
  refine ⟨h.only.trans hw.only, fun k b hb => ?_, fun i hi => ?_⟩
  · rw [hw.tile k]
    split
    · next hk =>
      subst hk
      have hb' : ¬ (a ≤ b ∧ b < a + w * (j + 1)) := fun h => hb ⟨rfl, h.1, h.2⟩
      rw [mget_mwrite_out _ _ _ _ (by omega)]
      exact h.other k b fun hc => hb ⟨rfl, hc.2.1, by omega⟩
    · next hk => exact h.other k b fun hc => hk hc.1
  · rw [hw.tile co, if_pos rfl]
    by_cases hij : i = j
    · subst hij
      have := mread_mwrite (val i) (t.core co).tile (a + w * i)
      rwa [hl] at this
    · have hlt : i < j := by omega
      have : w * i + w ≤ w * j := by
        rw [← Nat.mul_succ]
        exact Nat.mul_le_mul_left w hlt
      rw [mread_mwrite_out _ _ (by omega), h.put i hlt]

theorem along_zero (c : CopyCmd) (b : Nat) : c.along b 0 c.filling = { c with rd := 0, wr := 0 } := by
  unfold CopyCmd.along
  simp

/-- A row whose elements all reach tile memory. -/
theorem piece_tile_row {s s1 : State} {n id gk kind m fmt w at0 : Nat} {g : Option (Nat × W64)} {c : CopyCmd}
    {val : Nat → List Byte} (h : OneRow s n id gk c kind m) (hfd : isBlock (rFmt c.d) = false)
    (hfs : c.usesS = true → isBlock (rFmt c.s) = false) (hs5 : c.usesS = true → rSpace c.s ≠ 5)
    (hs7 : c.usesS = true → rSpace c.s ≠ 7) (hw : fmtBits fmt = some (8 * w)) (h0 : 0 < w) (h64 : w ≤ 8)
    (htcb : kind = 2 → rTcb c.d = 0) (hd : RowAt s (gk / 64) c.d (rBase c.d) fmt w (c.word 3) m at0)
    (htab : s.cTable (copyAg (.core n) c) { c with st := .active } 0 = (none, s1, { c with st := .active, gather := g }))
    (hs1 : s1 = s) (hval : ∀ j, (val j).length = w)
    (hstep : ∀ j t fl, j < m → RowDone s t (s.team (gk / 64)).core at0 w val j → ∃ u fl2,
      t.cElem (copyAg (.core n) c) (({ c with st := .active, gather := g } : CopyCmd).along (8 * w) j fl) Tcb.null 0 0 0 j =
        (none, u, ({ c with st := .active, gather := g } : CopyCmd).along (8 * w) (j + 1) fl2) ∧
      Wrote t u (s.team (gk / 64)).core (at0 + w * j) (val j)) :
    ∃ t : State, exec (.copyPiece (.core n) id) s = .next t ∧ PieceDone t n id c (8 * w * m) ∧
      (∀ j, j < m → t.tread (.data (s.team (gk / 64)).core (at0 + w * j)) w = val j) ∧
      TileElse s t (s.team (gk / 64)).core at0 (w * m) ∧ { t with cores := [] } = { s with cores := [] } := by
  subst hs1
  have hdf : rFmt c.d = fmt := hd.2.1
  have hds : rSpace c.d = 0 := hd.1
  have hper : 0 < c.perPiece := by
    have hp := (rowCmd_of_oneRow h).pstw
    have hb : c.dbits = 8 * w := by rw [CopyCmd.dbits, hp, eWidth, hdf, hw]; rfl
    rw [CopyCmd.perPiece, hb]
    exact Nat.div_pos (by omega) (by omega)
  obtain ⟨t, c2, hel, hrow, fl, rfl⟩ := cElems_range (ag := copyAg (.core n) c) (t := Tcb.null) (scale := 0) (o := 0) (i := 0)
    (fun j t d => RowDone s1 t (s1.team (gk / 64)).core at0 w val j ∧
      ∃ fl, d = ({ c with st := .active, gather := g } : CopyCmd).along (8 * w) j fl)
    (m := m) (fun j t d hj hP => by
      obtain ⟨hrow, fl, rfl⟩ := hP
      obtain ⟨u, fl2, hu, hwr⟩ := hstep j t fl hj hrow
      exact ⟨u, _, hu, hrow.step hwr (hval j), fl2, rfl⟩)
    (⟨.start .., c.filling, rfl⟩)
  rw [show c.filling = ({ c with st := .active, gather := g } : CopyCmd).filling from rfl, along_zero] at hel
  obtain ⟨t2, c3, hex, hmeta, hcmd, hst, hcls, hdet, hby, hgd, hgk⟩ := piece_row h hfd hfs (by omega) (by omega) hs5 hs7 hper htcb
    htab hel (congrArg Core.copies (hrow.only.core n) :)
  have htile : ∀ k, ((t2.putCmd (.core n) c3).core k).tile = (t.core k).tile := fun k =>
    (congrArg Core.tile (setCmds_core t2 (.core n) _ k) :).trans (congrArg Core.tile (hmeta.core k) :)
  have hside : ∀ k, ((t2.putCmd (.core n) c3).core k).side = (s1.core k).side := fun k =>
    (congrArg Core.side (setCmds_core t2 (.core n) _ k) :).trans
      ((congrArg Core.side (hmeta.core k) :).trans (congrArg Core.side (hrow.only.core k) :))
  refine ⟨_, hex, ⟨c3, hcmd, hst, hcls, hdet, hby, hgd, hgk⟩, fun j hj => ?_, fun side k b hb => ?_, ?_⟩
  · rw [State.tread, htile]
    exact hrow.put j hj
  · cases side with
    | true => simp only [tileByte, hside, if_true]
    | false =>
      simp only [tileByte, htile, Bool.false_eq_true, if_false]
      exact hrow.other k b fun hc => hb ⟨rfl, hc⟩
  · exact hmeta.rest.trans hrow.only.rest

end Sys2Proof.Machine
end

section
/-! COPY, FILL, CONVERT, GATHER and REDUCE of a row of tile memory (03 R52, R54, R61). -/

namespace Sys2Proof.Machine

open Sys2Proof.Claims

/-! Values. -/

/-- Rounding to nearest uses no random bits (05 R129). -/
theorem narrow_rne (f : FFmt) (r : Nat) (v : FVal) : narrow f .rne r v = narrow f .rne 0 v := by
  cases v <;> rfl

theorem fAdd_rne (f : FFmt) (r a b : Nat) : fAdd f .rne r a b = fAdd f .rne 0 a b := by
  unfold fAdd finishF
  rw [narrow_rne]

/-- A word is copied as it is by a kind that converts nothing. -/
theorem convert_plain {c : CopyCmd} {t : Tcb} {scale rnd code : Nat} {dx : Option (Nat × Nat)} (h2 : c.kind ≠ 2) (h5 : c.kind ≠ 5) :
    c.convert t scale rnd code dx = (code, c) := by
  unfold CopyCmd.convert
  split
  · next h => exact absurd h h2
  · next h => exact absurd h h5
  · rfl

/-- An FP32 word that becomes BF16 (R54, R58): its narrowing, no AMAX and no saturation. -/
theorem convert_bf16 {c : CopyCmd} {scale rnd code : Nat} {dx : Option (Nat × Nat)} (hk : c.kind = 2) (hs : rFmt c.s = 8)
    (hd : rFmt c.d = 0x0A) (hr : c.rm = .rne) :
    c.convert Tcb.null scale rnd code dx = ((narrow bf16 .rne 0 (unpack fp32 code)).bits, c) := by
  have hv : eVal 8 scale code = unpack fp32 code := rfl
  have hn : narrowRule 0x0A Tcb.null .rne rnd (unpack fp32 code) = narrow bf16 .rne 0 (unpack fp32 code) :=
    narrow_rne bf16 rnd _
  have ht : c.tracks = false := by
    unfold CopyCmd.tracks
    rw [hd]
    simp [isBlock]
  unfold CopyCmd.convert
  rw [hk]
  simp only [hs, hd, hr, hv, hn, ht]
  simp

/-! Steps of a row. -/

theorem along_step (c : CopyCmd) (b j : Nat) (fl fl2 : List (Nat × W32)) :
    ({ c.along b j fl with
      rd := if c.usesS then j + 1 else 0
      wr := (c.along b j fl).wr + 1
      bytes := (c.along b j fl).bytes + b
      filling := fl2 } : CopyCmd) = c.along b (j + 1) fl2 := by
  simp only [CopyCmd.along, Nat.mul_succ, Nat.add_assoc]

/-- The bytes of a row that a write elsewhere has left. -/
theorem RowDone.mread_out {s t : State} {co a w j k b n : Nat} {val : Nat → List Byte} (h : RowDone s t co a w val j)
    (hd : b + n ≤ a ∨ a + w * j ≤ b) : mread (t.core k).tile b n = mread (s.core k).tile b n :=
  mread_congr fun i hi => h.other k (b + i) fun hc => by omega

/-- A step of a row whose element takes nothing from the destination. -/
theorem step_put {s t : State} {n gk m fmt w at0 j code v : Nat} {c : CopyCmd} {fl : List (Nat × W32)}
    {sx : Option (Nat × Nat)} (hgk : c.gk = some gk) (hk4 : c.kind ≠ 4) (hk5 : c.kind ≠ 5) (htw : c.tagw = 2)
    (hro : rRo c.d = false) (hw : fmtBits fmt = some (8 * w)) (h0 : 0 < w) (hj : j < m)
    (hd : RowAt s (gk / 64) c.d (rBase c.d) fmt w (c.word 3) m at0) (hst : TileOnly s t)
    (hdx : c.dstIx 0 0 j = .ok (some (0, c.word 3 + j)))
    (hsx : (if c.usesS then c.srcIx 0 j else .ok none) = .ok sx)
    (hread : t.cRead (copyAg (.core n) c) (c.along (8 * w) j fl) 0 j =
      (.ok code, t, { c.along (8 * w) j fl with rd := if c.usesS then j + 1 else 0 }))
    (hconv : ∀ (d : CopyCmd) r x, d.kind = c.kind → d.s = c.s → d.d = c.d → d.rm = c.rm →
      d.convert Tcb.null 0 r code x = (v, d)) :
    ∃ u fl2, t.cElem (copyAg (.core n) c) (c.along (8 * w) j fl) Tcb.null 0 0 0 j = (none, u, c.along (8 * w) (j + 1) fl2) ∧
      Wrote t u (s.team (gk / 64)).core (at0 + w * j) (leBytes w v) := by
  have hag : (copyAg (.core n) c).team = some (gk / 64) := by
    show c.gk.map teamOf = _
    rw [hgk]
    rfl
  have hds : rSpace c.d = 0 := hd.1
  have hwid : eWidth c.d = 8 * w := by rw [eWidth, hd.2.1, hw]; rfl
  have hpin : (c.along (8 * w) j fl).dst.pin = none := by
    show c.pin c.d = none
    rw [CopyCmd.pin, if_neg (by omega)]
  obtain ⟨u, hput, hwr⟩ := ePut_row (sd := c.dst) v (rowAt_kept hst.same hd) hag hw h0 hro hj
  obtain ⟨fl2, hel⟩ := cElem_put (c := c.along (8 * w) j fl) (t := Tcb.null) (scale := 0) hk4 hk5 hread hsx hdx
    (hconv _ _ _ rfl rfl rfl rfl) hput hpin htw
  refine ⟨u, fl2, hel.trans ?_, by rw [← hst.same.team]; exact hwr⟩
  show (none, u, _) = _
  rw [show eWidth (c.along (8 * w) j fl).d = 8 * w from hwid, along_step]

/-- A step of REDUCE: the sum with the old word (R61). -/
theorem step_reduce {s t : State} {n gk m at0 j code old : Nat} {c : CopyCmd} {fl : List (Nat × W32)}
    {sx : Option (Nat × Nat)} (hgk : c.gk = some gk) (hk4 : c.kind = 4) (htw : c.tagw = 2) (hrm : c.rm = .rne)
    (hro : rRo c.d = false) (hj : j < m) (hd : RowAt s (gk / 64) c.d (rBase c.d) 8 4 (c.word 3) m at0) (hst : TileOnly s t)
    (hdx : c.dstIx 0 0 j = .ok (some (0, c.word 3 + j)))
    (hsx : (if c.usesS then c.srcIx 0 j else .ok none) = .ok sx)
    (hread : t.cRead (copyAg (.core n) c) (c.along 32 j fl) 0 j =
      (.ok code, t, { c.along 32 j fl with rd := if c.usesS then j + 1 else 0 }))
    (hold : leNat (mread (t.core (s.team (gk / 64)).core).tile (at0 + 4 * j) 4) = old) :
    ∃ u fl2, t.cElem (copyAg (.core n) c) (c.along 32 j fl) Tcb.null 0 0 0 j = (none, u, c.along 32 (j + 1) fl2) ∧
      Wrote t u (s.team (gk / 64)).core (at0 + 4 * j) (leBytes 4 (fAdd fp32 .rne 0 old code).bits) := by
  have hag : (copyAg (.core n) c).team = some (gk / 64) := by
    show c.gk.map teamOf = _
    rw [hgk]
    rfl
  have hds : rSpace c.d = 0 := hd.1
  have hdf : rFmt c.d = 8 := hd.2.1
  have hwid : eWidth c.d = 32 := by rw [eWidth, hdf]; rfl
  have hpin : (c.along 32 j fl).dst.pin = none := by
    show c.pin c.d = none
    rw [CopyCmd.pin, if_neg (by omega)]
  have hsum : ∀ r, reduceVal (rFmt c.d) c.rm r old code = (fAdd fp32 .rne 0 old code).bits := fun r => by
    rw [hdf, hrm, reduceVal, if_neg (by decide), if_pos rfl, fAdd_rne]
  have hget := eGet_row (sd := c.dst) (rowAt_kept hst.same hd) hag rfl (by omega) hj
  rw [hst.same.team, hold] at hget
  obtain ⟨u, hput, hwr⟩ := ePut_row (sd := c.dst) (fAdd fp32 .rne 0 old code).bits (rowAt_kept hst.same hd) hag rfl (by omega) hro hj
  obtain ⟨fl2, hel⟩ := cElem_reduce (c := c.along 32 j fl) (t := Tcb.null) (scale := 0) hk4 (by show rSpace c.d ≠ 2; omega) hro hread
    hsx hdx hget ((congrArg (t.ePut _ _ _ _) (hsum _)).trans hput) hpin htw
  refine ⟨u, fl2, hel.trans ?_, by rw [← hst.same.team]; exact hwr⟩
  show (none, u, _) = _
  rw [show eWidth (c.along 32 j fl).d = 32 from hwid, along_step]

end Sys2Proof.Machine

namespace Sys2Proof.Claims

open Sys2Proof.Machine

/-- A FILL of a row of tile memory (03 R54). -/
theorem fill_row (s : State) (n id gk m at0 : Nat) (c : CopyCmd) (h : OneRow s n id gk c 1 m)
    (hd : RowAt s (gk / 64) c.d (rBase c.d) 2 4 (c.word 3) m at0) :
    ∃ t : State, exec (.copyPiece (.core n) id) s = .next t ∧ PieceDone t n id c (32 * m) ∧
      (∀ j, j < m → t.tread (.data (s.team (gk / 64)).core (at0 + 4 * j)) 4 = leBytes 4 (c.word 1)) ∧
      TileElse s t (s.team (gk / 64)).core at0 (4 * m) ∧ { t with cores := [] } = { s with cores := [] } := by
  have hr := rowCmd_of_oneRow h
  have hus : c.usesS = false := by simp [CopyCmd.usesS, hr.kind]
  have hdf : rFmt c.d = 2 := hd.2.1
  have htab : s.cTable (copyAg (.core n) c) { c with st := .active } 0 = (none, s, { c with st := .active, gather := c.gather }) := by
    unfold State.cTable
    rw [if_pos (by show c.kind ≠ 3; rw [hr.kind]; decide)]
  refine piece_tile_row h (by rw [hdf]; rfl) (fun hc => absurd hc (by simp [hus])) (fun hc => absurd hc (by simp [hus]))
    (fun hc => absurd hc (by simp [hus])) rfl (by omega) (by omega) (fun hc => absurd hc (by omega)) hd htab rfl
    (fun _ => length_leBytes ..) fun j t fl hj hrow => ?_
  have hcode : c.word 1 % 2 ^ eWidth c.d = c.word 1 := by
    rw [eWidth, hdf]
    exact Nat.mod_eq_of_lt (c.w.getD 1 0).isLt
  have hread : t.cRead (copyAg (.core n) c) (({ c with st := .active } : CopyCmd).along 32 j fl) 0 j = (.ok (c.word 1), t,
      { ({ c with st := .active } : CopyCmd).along 32 j fl with rd := if c.usesS then j + 1 else 0 }) := by
    refine (cRead_fill t _ (c := ({ c with st := .active } : CopyCmd).along 32 j fl) 0 j hus).trans ?_
    show (Except.ok (c.word 1 % 2 ^ eWidth c.d), t, _) = _
    have hu : ({ c with st := .active } : CopyCmd).usesS = false := hus
    simp only [hcode, CopyCmd.along, hus, hu, Bool.false_eq_true, if_false]
  exact step_put (c := { c with st := .active }) (sx := none) hr.gk (by show c.kind ≠ 4; rw [hr.kind]; decide)
    (by show c.kind ≠ 5; rw [hr.kind]; decide) hr.tagw hr.ro rfl (by omega) hj hd hrow.only (hr.dst j hj)
    (if_neg (by show ¬ c.usesS = true; rw [hus]; decide)) hread fun d r x hk _ _ _ =>
      convert_plain (by rw [hk]; show c.kind ≠ 2; rw [hr.kind]; decide) (by rw [hk]; show c.kind ≠ 5; rw [hr.kind]; decide)

/-- The kinds whose elements the statement names. -/
theorem elementOf_cases {kind fmt w : Nat} {f : Nat → Nat → List Byte} (h : elementOf kind = some (fmt, w, f)) :
    (kind = 0 ∨ kind = 3) ∧ fmt = 8 ∧ w = 4 ∧ f = (fun v _ => leBytes 4 v) ∨
    kind = 2 ∧ fmt = 0x0A ∧ w = 2 ∧ f = (fun v _ => leBytes 2 (narrow bf16 .rne 0 (unpack fp32 v)).bits) ∨
    kind = 4 ∧ fmt = 8 ∧ w = 4 ∧ f = (fun v old => leBytes 4 (fAdd fp32 .rne 0 old v).bits) := by
  unfold elementOf at h
  split at h
  all_goals cases h
  · exact .inl ⟨.inl rfl, rfl, rfl, rfl⟩
  · exact .inr (.inl ⟨rfl, rfl, rfl, rfl⟩)
  · exact .inl ⟨.inr rfl, rfl, rfl, rfl⟩
  · exact .inr (.inr ⟨rfl, rfl, rfl, rfl⟩)

theorem rSpace_tableRec (t : BitVec 256) : rSpace (tableRec t) = rSpace t := by
  have hlt : nput t.toNat 205 11 0 < 2 ^ 256 := nput_lt 0 t.isLt (by omega)
  have ht : (tableRec t).toNat = nput t.toNat 205 11 0 := by
    rw [tableRec, BitVec.toNat_ofNat, Nat.mod_eq_of_lt hlt]
  unfold rSpace bfield
  rw [ht]
  exact fieldOf_nput_apart _ _ _ _ (by omega)

/-- A table entry that is read (R52). The reader `E` stands for `eSpans`, so that its arithmetic on the record stays folded. -/
theorem cTable_read {s u : State} {ag : EngAg} {c : CopyCmd} {o x : Nat} {bs : List Byte}
    {E : ESide → Bool → List (W64 × Nat) → Except EErr (List Byte) × State} (hE : s.eSpans ag = E) (hk : c.kind = 3)
    (hg : (c.gather.map (fun g => g.1)) ≠ some o) (hch : check o (rExt0 c.t) (rBchk c.t) = .idx x)
    (hsp : E ⟨tableRec c.t, rBase c.t, none, 0⟩ false [(elemAddr (rSpace c.t) (rBase c.t) 0 8 0 x, 8)] = (.ok bs, u))
    (ha : ¬ leNat bs % (if eWidth c.s < 8 then 4 else eWidth c.s / 8) ≠ 0) :
    s.cTable ag c o = (none, u, { c with gather := some (o, BitVec.ofNat 64 (leNat bs)) }) := by
  unfold State.cTable
  rw [hE, if_neg (not_not.2 hk), if_neg hg, hch]
  simp only [hsp]
  rw [if_neg ha]

/-- The base that a GATHER of one outer index reads from its table (03 R52). -/
theorem cTable_gather {s : State} {n gk tab : Nat} {c : CopyCmd} {base : W64} (hgk : c.gk = some gk) (hk : c.kind = 3)
    (hg : c.gather = none) (hs : eWidth c.s = 32)
    (hr : RowAt s (gk / 64) c.t (rBase c.t) (rFmt c.t) (rStr0 c.t) 0 1 tab) (h8 : 8 ≤ rStr0 c.t) (hx : 0 < rExt0 c.t)
    (hb : base.toNat = leNat (s.tread (.data (s.team (gk / 64)).core tab) 8)) (h4 : base.toNat % 4 = 0) :
    s.cTable (copyAg (.core n) c) c 0 = (none, s, { c with gather := some (0, base) }) := by
  obtain ⟨hts, -, -, -, hta, htv, htl, hbad, hst⟩ := hr
  have hag : (copyAg (.core n) c).team = some (gk / 64) := by
    show c.gk.map teamOf = _
    rw [hgk]
    rfl
  have hva : elemAddr (rSpace c.t) (rBase c.t) 0 8 0 0 = rBase c.t := by
    rw [elemAddr, hts, if_neg (by omega), Nat.zero_mul, Nat.add_zero, BitVec.add_zero]
  have hpl := ePlace_tile (s := s) (sd := ⟨tableRec c.t, rBase c.t, none, 0⟩) (n := 8) (va := rBase c.t) (wr := false)
    ((rSpace_tableRec c.t).trans hts) hag (by omega)
  rw [show (s.team (gk / 64)).base * 4096 + (rBase c.t).toNat = tab by omega] at hpl
  have hrd := placeRead_tile (s := s) (ag := copyAg (.core n) c) (sd := ⟨tableRec c.t, rBase c.t, none, 0⟩) (swz := none) (n := 8)
    (a := tab) hbad fun b h1 h2 => hst b h1 (by omega)
  obtain ⟨bs, hsp, hbs⟩ : ∃ bs, s.eSpans (copyAg (.core n) c) ⟨tableRec c.t, rBase c.t, none, 0⟩ false
      [(elemAddr (rSpace c.t) (rBase c.t) 0 8 0 0, 8)] = (.ok bs, s) ∧ leNat bs = base.toNat :=
    ⟨_, by rw [hva]; exact eSpans_one hpl hrd, hb.symm⟩
  have hch : check 0 (rExt0 c.t) (rBchk c.t) = .idx 0 := if_pos hx
  have ha : ¬ leNat bs % (if eWidth c.s < 8 then 4 else eWidth c.s / 8) ≠ 0 := by
    rw [hbs, hs]
    exact not_not.2 h4
  rw [cTable_read rfl hk (by simp [hg]) hch hsp ha, hbs, BitVec.ofNat_toNat, BitVec.setWidth_eq]

/-- A row moved from tile memory to tile memory (03 R52, R54, R61). -/
theorem move_row (s : State) (n id gk kind m fmt w src at0 : Nat) (f : Nat → Nat → List Byte) (base : W64) (c : CopyCmd)
    (g : Option (Nat × W64)) (h : OneRow s n id gk c kind m) (hel : elementOf kind = some (fmt, w, f)) (h2 : c.word 2 = 0)
    (hx1 : 0 < rExt1 c.s) (hx0 : c.word 1 + m ≤ rExt0 c.s) (htcb : kind = 2 → rTcb c.d = 0)
    (htab : s.cTable (copyAg (.core n) c) { c with st := .active } 0 = (none, s, { c with st := .active, gather := g }))
    (hbase : ({ c with st := .active, gather := g } : CopyCmd).src.base = base)
    (hs : RowAt s (gk / 64) c.s base 8 4 (c.word 1) m src)
    (hd : RowAt s (gk / 64) c.d (rBase c.d) fmt w (c.word 3) m at0) (hov : src + 4 * m ≤ at0 ∨ at0 + w * m ≤ src) :
    let word := fun (a : Nat) => leNat (s.tread (.data (s.team (gk / 64)).core a) 4)
    ∃ t : State, exec (.copyPiece (.core n) id) s = .next t ∧ PieceDone t n id c (8 * w * m) ∧
      (∀ j, j < m → t.tread (.data (s.team (gk / 64)).core (at0 + w * j)) w = f (word (src + 4 * j)) (word (at0 + w * j))) ∧
      TileElse s t (s.team (gk / 64)).core at0 (w * m) ∧ { t with cores := [] } = { s with cores := [] } := by
  intro word
  have hr := rowCmd_of_oneRow h
  have hus : c.usesS = true := by
    have : kind ≠ 1 := by rintro rfl; cases hel
    simp [CopyCmd.usesS, hr.kind, this]
  have hsf : rFmt c.s = 8 := hs.2.1
  have hss : rSpace c.s = 0 := hs.1
  have hdf : rFmt c.d = fmt := hd.2.1
  have hag : (copyAg (.core n) c).team = some (gk / 64) := by
    show c.gk.map teamOf = _
    rw [hr.gk]
    rfl
  have hread : ∀ j t fl val, j < m → RowDone s t (s.team (gk / 64)).core at0 w val j →
      t.cRead (copyAg (.core n) c) (({ c with st := .active, gather := g } : CopyCmd).along (8 * w) j fl) 0 j =
        (.ok (word (src + 4 * j)), t, { ({ c with st := .active, gather := g } : CopyCmd).along (8 * w) j fl with
          rd := if c.usesS then j + 1 else 0 }) := by
    intro j t fl val hj hrow
    have hwj : w * j ≤ w * m := Nat.mul_le_mul_left w (by omega)
    have hget := eGet_row (sd := ({ c with st := .active, gather := g } : CopyCmd).src) (by rw [hbase]; exact rowAt_kept hrow.only.same hs)
      hag rfl (by omega) hj
    rw [hrow.only.same.team, hrow.mread_out (by omega)] at hget
    refine (cRead_src (c := ({ c with st := .active, gather := g } : CopyCmd).along (8 * w) j fl) hus
      (srcIx_of_row hr.pstw h2 hx1 hx0 hj) hget).trans ?_
    have hu : ({ c with st := .active, gather := g } : CopyCmd).usesS = true := hus
    simp only [CopyCmd.along, hus, hu, if_true]
    rfl
  have hsx : ∀ j, j < m → (if c.usesS then c.srcIx 0 j else .ok none) = .ok (some (0, c.word 1 + j)) := fun j hj => by
    rw [if_pos hus, srcIx_of_row hr.pstw h2 hx1 hx0 hj]
  have hfm : isBlock fmt = false ∧ fmtBits fmt = some (8 * w) ∧ 0 < w ∧ w ≤ 8 ∧ ∀ a b, (f a b).length = w := by
    obtain ⟨-, rfl, rfl, rfl⟩ | ⟨-, rfl, rfl, rfl⟩ | ⟨-, rfl, rfl, rfl⟩ := elementOf_cases hel
    all_goals exact ⟨rfl, rfl, by omega, by omega, fun _ _ => length_leBytes ..⟩
  obtain ⟨hblk, hbits, hw0, hw8, hlen⟩ := hfm
  refine piece_tile_row h (by rw [hdf, hblk]) (fun _ => by rw [hsf]; rfl) (fun _ => by omega) (fun _ => by omega) hbits hw0 hw8
    htcb hd htab rfl (fun j => hlen _ _) fun j t fl hj hrow => ?_
  obtain ⟨hk, rfl, rfl, rfl⟩ | ⟨hk, rfl, rfl, rfl⟩ | ⟨hk, rfl, rfl, rfl⟩ := elementOf_cases hel
  · have hkind : c.kind = 0 ∨ c.kind = 3 := by rw [hr.kind]; exact hk
    exact step_put (c := { c with st := .active, gather := g }) hr.gk (by show c.kind ≠ 4; omega) (by show c.kind ≠ 5; omega)
      hr.tagw hr.ro rfl (by omega) hj hd hrow.only (hr.dst j hj) (hsx j hj) (hread j t fl _ hj hrow) fun d r x hdk _ _ _ =>
        convert_plain (by rw [hdk]; show c.kind ≠ 2; omega) (by rw [hdk]; show c.kind ≠ 5; omega)
  · exact step_put (c := { c with st := .active, gather := g }) hr.gk (by show c.kind ≠ 4; rw [hr.kind]; omega)
      (by show c.kind ≠ 5; rw [hr.kind]; omega) hr.tagw hr.ro rfl (by omega) hj hd hrow.only (hr.dst j hj) (hsx j hj)
      (hread j t fl _ hj hrow) fun d r x hdk hds hdd hdr =>
        convert_bf16 (hdk.trans (hr.kind.trans hk)) (by rw [hds]; exact hsf) (by rw [hdd]; exact hdf) (hdr.trans hr.rm)
  · refine step_reduce (c := { c with st := .active, gather := g }) hr.gk (hr.kind.trans hk) hr.tagw hr.rm hr.ro hj hd hrow.only
      (hr.dst j hj) (hsx j hj) (hread j t fl _ hj hrow) ?_
    rw [hrow.mread_out (by omega)]
    rfl

end Sys2Proof.Claims
end

section
/-! Accesses of an engine to a coherent segment of its die's scratchpad (04 R91, R92) and to HBM (02 R41, 04 R82). -/

namespace Sys2Proof.Machine

open Sys2Proof.Claims

/-! The scratchpad. -/

/-- A request at a home: of the dies, the directories alone have changed. -/
structure DirsOnly (s t : State) : Prop where
  only : SegsOnly s t
  die : ∀ d, { t.die d with dir := [] } = { s.die d with dir := [] }

theorem DirsOnly.trans {s t u : State} (h : DirsOnly s t) (k : DirsOnly t u) : DirsOnly s u :=
  ⟨h.only.trans k.only, fun d => (k.die d).trans (h.die d)⟩

theorem DirsOnly.spad {s t : State} (h : DirsOnly s t) (d : Nat) : (t.die d).spad = (s.die d).spad :=
  (congrArg Die.spad (h.die d) :)

theorem dirsOnly_of_dies {s t : State} (h : SegsOnly s t) (hd : t.dies = s.dies) : DirsOnly s t :=
  ⟨h, fun d => by simp only [State.die, hd]⟩

theorem dirsOnly_modDie (s : State) (d : Nat) (f : Die → Die) (hf : { f (s.die d) with dir := [] } = { s.die d with dir := [] }) :
    DirsOnly s (s.modDie d f) := by
  refine ⟨segsOnly_modDie s d f, fun j => ?_⟩
  rw [State.modDie_die_ite]
  split
  · next h => rw [h, hf]
  · rfl

theorem length_keepSegsAll (p : SegCopy → Bool) (cs : List Nat) (s : State) (j : Nat) :
    ((s.keepSegsAll p cs).core j).segs.length ≤ (s.core j).segs.length := by
  induction cs generalizing s with
  | nil => exact le_refl _
  | cons c cs ih =>
    refine (ih (s.keepSegs p c)).trans ?_
    rw [State.keepSegs, State.modCore_core_ite]
    split
    · next h => subst h; exact List.length_filter_le ..
    · exact le_refl _

/-- Room in a core's segment cache for a coherent segment: it is not full, and holds no software-managed copy of it. -/
structure Room (s : State) (core seg : Nat) : Prop where
  len : (s.core core).segs.length < 128
  soft : ∀ v ∈ (s.core core).segs, v.seg = seg → v.soft = false

theorem Room.keepSegsAll {s : State} {core seg : Nat} (h : Room s core seg) (p : SegCopy → Bool) (cs : List Nat) :
    Room (s.keepSegsAll p cs) core seg :=
  ⟨lt_of_le_of_lt (length_keepSegsAll p cs s core) h.len, fun v hv => h.soft v ((mem_keepSegsAll p cs s core v).1 hv).1⟩

theorem Room.modDie {s : State} {core seg : Nat} (h : Room s core seg) (d : Nat) (f : Die → Die) :
    Room (s.modDie d f) core seg := ⟨h.len, h.soft⟩

theorem useSeg_room {s : State} {core seg : Nat} (h : Room s core seg) :
    SegsOnly s (s.useSeg core seg false) ∧ (s.useSeg core seg false).dies = s.dies := by
  unfold State.useSeg
  split
  · next c hc =>
    have hcs : c.soft = false := h.soft c (List.mem_of_find?_eq_some hc) (by simpa using List.find?_some hc)
    rw [if_pos hcs]
    exact ⟨segsOnly_modCore s core (fun l => c :: l.filter (fun x => decide (x.seg ≠ seg))), rfl⟩
  · unfold State.fillSeg
    have := h.len
    rw [if_neg (by omega)]
    exact ⟨segsOnly_modCore s core (fun l => ⟨seg, false, [], [], []⟩ :: l), rfl⟩

/-- A segment in no U episode is not changed by its end. -/
theorem combineSeg_room {s : State} {core seg : Nat} (d : Nat) (h : Room s core seg) (hu : ∀ o, s.dirAt d seg ≠ .u o) :
    DirsOnly s (s.combineSeg d seg) ∧ Room (s.combineSeg d seg) core seg := by
  rw [combineSeg_eq]
  refine ⟨(dirsOnly_of_dies (keepSegsAll_dropped seg _ _ s).only (keepSegsAll_dies ..)).trans
    (dirsOnly_modDie _ _ _ ?_), (h.keepSegsAll _ _).modDie _ _⟩
  rw [combine_of_not_u]
  intro o
  rw [← State.dirAt, keepSegsAll_dirAt]
  exact hu o

/-- A directory entry replaced, and the segment most recently used. -/
theorem useDir_room {s : State} {core seg : Nat} (h : Room s core seg) (d : Nat) (x : DirSt) :
    DirsOnly s ((s.modDie d (fun y => { y with dir := tset DirSt.i y.dir seg x })).useSeg core seg false) := by
  obtain ⟨h1, h2⟩ := useSeg_room (h.modDie d (fun y => { y with dir := tset DirSt.i y.dir seg x }))
  exact (dirsOnly_modDie s d _ rfl).trans (dirsOnly_of_dies h1 h2)

theorem dirRead_home {s : State} {core seg : Nat} (h : Room s core seg) (hu : ∀ o, s.dirAt (dieOf core) seg ≠ .u o) :
    DirsOnly s (s.dirRead core seg) := by
  obtain ⟨h1, h2⟩ := combineSeg_room (dieOf core) h hu
  exact h1.trans (useDir_room h2 _ _)

theorem dirWrite_home {s : State} {core seg : Nat} (h : Room s core seg) (hu : ∀ o, s.dirAt (dieOf core) seg ≠ .u o) :
    DirsOnly s (s.dirWrite core seg) := by
  obtain ⟨h1, h2⟩ := combineSeg_room (dieOf core) h hu
  refine h1.trans (DirsOnly.trans ?_ (useDir_room (h2.keepSegsAll _ _) _ _))
  exact dirsOnly_of_dies (keepSegsAll_dropped seg _ _ _).only (keepSegsAll_dies ..)

/-- What HomeSeg says of a segment that a core is to use. -/
theorem room_of_homeSeg {s : State} {n a : Nat} (h : HomeSeg s n a) :
    Room s n (a / 4096) ∧ (s.die (dieOf n)).soft (a / 4096) = false ∧ ∀ o, s.dirAt (dieOf n) (a / 4096) ≠ .u o := by
  obtain ⟨h1, h2, h3, h4⟩ := h
  exact ⟨⟨h1, h4⟩, h2, h3⟩

/-- An engine's read of a coherent segment gives its home's bytes (04 R92). -/
theorem spadRead_home {s : State} {n a : Nat} (k : Nat) (h : HomeSeg s n a) :
    ∃ t, s.spadRead n a k = (mread (s.die (n / 96)).spad a k, t) ∧ DirsOnly s t := by
  obtain ⟨hr, hs, hu⟩ := room_of_homeSeg h
  have hd := dirRead_home hr hu
  refine ⟨s.dirRead n (a / 4096), ?_, hd⟩
  unfold State.spadRead
  simp only [hs, Bool.false_eq_true, if_false, hd.spad]
  rfl

/-- An engine's write of a coherent segment reaches its home (04 R91, R92). -/
theorem spadEngine_home {s : State} {n a : Nat} (bs : List Byte) (h : HomeSeg s n a) :
    SegsOnly s (s.spadEngine n a bs) ∧ ((s.spadEngine n a bs).die (n / 96)).spad = mwrite (s.die (n / 96)).spad a bs := by
  obtain ⟨hr, hs, hu⟩ := room_of_homeSeg h
  have hd := dirWrite_home hr hu
  have heq : s.spadEngine n a bs = (s.dirWrite n (a / 4096)).modDie (dieOf n) (fun d => { d with spad := mwrite d.spad a bs }) := by
    unfold State.spadEngine State.spadWrite
    simp only [hs, Bool.false_eq_true, if_false]
  rw [heq]
  refine ⟨hd.only.trans (segsOnly_modDie ..), ?_⟩
  show (State.die _ (dieOf n)).spad = _
  rw [State.modDie_die, hd.spad]
  rfl

/-! HBM. -/

/-- Four bytes are one piece where no page is on the move. -/
theorem pieces_of_still {s : State} (h : NotMigrating s) (tgt pa : Nat) : s.pieces tgt pa 4 = [(pa, 4, tgt, pa)] := by
  have hj : ∀ L, pa ≤ L → L ≤ pa + 4 → joinPiece [(pa, L - pa, tgt, pa)] (L, pa + 4 - L, tgt, L) = [(pa, 4, tgt, pa)] := by
    intro L h1 h2
    have h4 : L - pa + (pa + 4 - L) = 4 := by omega
    unfold joinPiece
    simp only [h4]
    rw [if_pos ⟨trivial, by omega, by decide⟩]
  unfold State.pieces lineCut
  rw [if_neg (by omega)]
  obtain hc | hc : (pa + 4 - 1) / 256 - pa / 256 + 1 = 1 ∨ (pa + 4 - 1) / 256 - pa / 256 + 1 = 2 := by omega
  · have h1 : max pa ((pa / 256 + 0) * 256) = pa := by omega
    have h2 : min (pa + 4) ((pa / 256 + 0 + 1) * 256) - pa = 4 := by omega
    rw [hc]
    simp only [List.range_one, List.map_cons, List.map_nil, h1, h2, served_of_still h]
    rfl
  · have h1 : max pa ((pa / 256 + 0) * 256) = pa := by omega
    have h2 : min (pa + 4) ((pa / 256 + 0 + 1) * 256) = (pa / 256 + 1) * 256 := by omega
    have h3 : max pa ((pa / 256 + 1) * 256) = (pa / 256 + 1) * 256 := Nat.max_eq_right (by omega)
    have h4 : min (pa + 4) ((pa / 256 + 1 + 1) * 256) = pa + 4 := Nat.min_eq_left (by omega)
    rw [hc]
    simp only [show List.range 2 = [0, 1] from rfl, List.map_cons, List.map_nil, h1, h2, h3, h4, served_of_still h]
    exact congrArg List.reverse (hj ((pa / 256 + 1) * 256) (by omega) (by omega))

/-- HBM read by an engine, where no page is on the move. -/
theorem physRead_still {s : State} (h : NotMigrating s) (job : BitVec 16) (side cls pa : Nat) (hb : s.pbad 0 pa 4 = false) :
    s.physRead job side cls 0 (s.pieces 0 pa 4) = (.ok (mread s.hbm pa 4), s.l2range 0 pa 4 cls false) := by
  rw [pieces_of_still h]
  simp only [State.physRead, hb, pread_of_still h, Bool.false_eq_true, if_false, List.append_nil]
  rfl

theorem physWrite_still {s : State} (h : NotMigrating s) (job : BitVec 16) (side cls pa : Nat) {bs : List Byte} (hl : bs.length = 4) :
    s.physWrite job side cls 0 (s.pieces 0 pa bs.length) bs =
      (.ok (), ({ s with hbm := mwrite s.hbm pa bs } : State).l2range 0 pa 4 cls true) := by
  have ht : bs.take 4 = bs := List.take_of_length_le (by omega)
  rw [hl, pieces_of_still h]
  simp only [State.physWrite, ht, hl, pwrite_of_still h]
  rfl

theorem pbad_looked {s t : State} (h : Looked s t) (hs : NotMigrating s) (tgt pa n : Nat) : t.pbad tgt pa n = s.pbad tgt pa n := by
  have hf : ∀ d, (t.die d).failed = (s.die d).failed := fun d => (congrArg Die.failed (h.die d) :)
  have hr : ∀ d, (t.die d).retired = (s.die d).retired := fun d => (congrArg Die.retired (h.die d) :)
  have he : t.ecc = s.ecc := (congrArg State.ecc h.rest :)
  simp only [State.pbad, served_of_still hs, served_of_still (h.still hs), he, State.onFailed, hf, State.place, Die.chans, Die.cmap, hr]

end Sys2Proof.Machine
end

section
/-! Commands of one element to and from the scratchpad and HBM (03 R50, R53). -/

namespace Sys2Proof.Machine

open Sys2Proof.Claims

/-- Of a state that a piece's accesses have left, the engine has changed metadata words and its list of commands alone. -/
structure Noted (s t : State) : Prop where
  rest : { t with cores := [] } = { s with cores := [] }
  core : ∀ k, { t.core k with mdw := [], copies := [] } = { s.core k with mdw := [], copies := [] }

theorem noted_putCmd {s t : State} (h : MetaOnly s t) (n : Nat) (c : CopyCmd) : Noted s (t.putCmd (.core n) c) :=
  ⟨h.rest, fun k => (congrArg (fun (x : Core) => { x with mdw := [] }) (setCmds_core t (.core n) _ k) :).trans
    (congrArg (fun (x : Core) => { x with copies := [] }) (h.core k) :)⟩

theorem Noted.die {s t : State} (h : Noted s t) (d : Nat) : t.die d = s.die d := by
  have : t.dies = s.dies := (congrArg State.dies h.rest :)
  simp only [State.die, this]

theorem Noted.tile {s t : State} (h : Noted s t) (k : Nat) : (t.core k).tile = (s.core k).tile := (congrArg Core.tile (h.core k) :)

theorem Noted.tileByte {s t : State} (h : Noted s t) (side : Bool) (k b : Nat) : tileByte t side k b = tileByte s side k b := by
  have hs : (t.core k).side = (s.core k).side := (congrArg Core.side (h.core k) :)
  rw [Claims.tileByte, Claims.tileByte, h.tile, hs]

/-- A command of one element that goes well. -/
theorem piece_one {s v : State} {n id gk kind r b : Nat} {fl : List (Nat × W32)} {c : CopyCmd} (h : OneRow s n id gk c kind 1)
    (hk2 : kind ≠ 2) (hk3 : kind ≠ 3) (hfd : rFmt c.d = 2 ∨ rFmt c.d = 8) (hfs : c.usesS = true → rFmt c.s = 8)
    (hd : rSpace c.d ≠ 5 ∧ rSpace c.d ≠ 7) (hs : c.usesS = true → rSpace c.s ≠ 5 ∧ rSpace c.s ≠ 7)
    (hel : s.cElem (copyAg (.core n) c) { c with st := .active, rd := 0, wr := 0 } Tcb.null 0 0 0 0 =
      (none, v, { c with st := .active, rd := r, wr := 1, bytes := b, filling := fl }))
    (hcop : v.cmdsOf (.core n) = s.cmdsOf (.core n)) :
    ∃ t c3, exec (.copyPiece (.core n) id) s = .next t ∧ Noted v t ∧ t.cmdOf (.core n) id = some c3 ∧
      c3.st = .done ∧ c3.cls = 0 ∧ c3.detail = 0 ∧ c3.bytes = b ∧ c3.gd = c.gd ∧ c3.gk = c.gk := by
  have hr := rowCmd_of_oneRow h
  have hper : 0 < c.perPiece := by
    have hb : c.dbits = 32 := by
      rw [CopyCmd.dbits, hr.pstw, eWidth]
      rcases hfd with hf | hf <;> rw [hf] <;> rfl
    rw [CopyCmd.perPiece, hb]
    decide
  have htab : s.cTable (copyAg (.core n) c) { c with st := .active } 0 = (none, s, { c with st := .active, gather := c.gather }) := by
    unfold State.cTable
    rw [if_pos (by show c.kind ≠ 3; rw [hr.kind]; exact hk3)]
  obtain ⟨t2, c3, hex, hmeta, hcmd, hrest⟩ := piece_row (m := 1) (g := c.gather) (t := v) h
    (by rcases hfd with hf | hf <;> rw [hf] <;> rfl) (fun hu => by rw [hfs hu]; rfl) hd.1 hd.2 (fun hu => (hs hu).1)
    (fun hu => (hs hu).2) hper (fun h2 => absurd h2 hk2) htab hel hcop
  exact ⟨_, c3, hex, noted_putCmd hmeta n c3, hcmd, hrest⟩

/-- The address of an element of row 0, four bytes each. -/
theorem elemAddr_word (rc : BitVec 256) (base : W64) (k : Nat) (h5 : rSpace rc ≠ 5) (hst : rStr0 rc = 4) :
    elemAddr (rSpace rc) base (rStr1 rc) (rStr0 rc) 0 k = base + BitVec.ofNat 64 (4 * k) := by
  rw [elemAddr, if_neg h5, hst, Nat.zero_mul, Nat.zero_add, Nat.mul_comm]

/-- A FILL of one element. -/
theorem piece_fill_one {s v : State} {n id gk : Nat} {c : CopyCmd} (h : OneRow s n id gk c 1 1) (hf : rFmt c.d = 2)
    (hd : rSpace c.d ≠ 5 ∧ rSpace c.d ≠ 7)
    (hput : s.ePut (copyAg (.core n) c) c.dst 0 (c.word 3) (c.word 1) = (.ok (), v))
    (hcop : v.cmdsOf (.core n) = s.cmdsOf (.core n)) :
    ∃ t, exec (.copyPiece (.core n) id) s = .next t ∧ PieceDone t n id c 32 ∧ Noted v t := by
  have hr := rowCmd_of_oneRow h
  have hus : c.usesS = false := by simp [CopyCmd.usesS, hr.kind]
  have hwid : eWidth c.d = 32 := by rw [eWidth, hf]; rfl
  have hpin : c.dst.pin = none := by
    show c.pin c.d = none
    rw [CopyCmd.pin, if_neg hd.2]
  have hcode : c.word 1 % 2 ^ eWidth c.d = c.word 1 := by
    rw [hwid]
    exact Nat.mod_eq_of_lt (c.w.getD 1 0).isLt
  have hread : s.cRead (copyAg (.core n) c) { c with st := .active, rd := 0, wr := 0 } 0 0 =
      (.ok (c.word 1), s, { c with st := .active, rd := 0, wr := 0 }) :=
    (cRead_fill s _ (c := { c with st := .active, rd := 0, wr := 0 }) 0 0 hus).trans
      (congrArg (fun x => (Except.ok x, s, ({ c with st := .active, rd := 0, wr := 0 } : CopyCmd))) hcode)
  have hdx := hr.dst 0 (by omega)
  obtain ⟨fl, hel⟩ := cElem_put (c := { c with st := .active, rd := 0, wr := 0 }) (t := Tcb.null) (scale := 0) (r := 0)
    (sx := none) (by show c.kind ≠ 4; rw [hr.kind]; decide) (by show c.kind ≠ 5; rw [hr.kind]; decide) hread
    (if_neg (by show ¬ c.usesS = true; rw [hus]; decide)) hdx
    (convert_plain (by show c.kind ≠ 2; rw [hr.kind]; decide) (by show c.kind ≠ 5; rw [hr.kind]; decide)) hput hpin hr.tagw
  obtain ⟨t, c3, hex, hn, hcmd, hst, hcls, hdet, hby, hgd, hgk⟩ := piece_one h (by decide) (by decide) (.inl hf)
    (fun hu => absurd hu (by rw [hus]; decide)) hd (fun hu => absurd hu (by rw [hus]; decide)) hel hcop
  refine ⟨t, hex, ⟨c3, hcmd, hst, hcls, hdet, hby.trans ?_, hgd, hgk⟩, hn⟩
  show c.bytes + eWidth c.d = _
  rw [hwid]

/-- A COPY of one element. -/
theorem piece_copy_one {s u v : State} {n id gk code : Nat} {c : CopyCmd} (h : OneRow s n id gk c 0 1) (h2 : c.word 2 = 0)
    (hx1 : 0 < rExt1 c.s) (hx0 : c.word 1 < rExt0 c.s) (hfs : rFmt c.s = 8) (hfd : rFmt c.d = 8)
    (hs : rSpace c.s ≠ 5 ∧ rSpace c.s ≠ 7) (hd : rSpace c.d ≠ 5 ∧ rSpace c.d ≠ 7)
    (hget : s.eGet (copyAg (.core n) c) c.src 0 (c.word 1) = (.ok code, u))
    (hput : u.ePut (copyAg (.core n) c) c.dst 0 (c.word 3) code = (.ok (), v))
    (hcop : v.cmdsOf (.core n) = s.cmdsOf (.core n)) :
    ∃ t, exec (.copyPiece (.core n) id) s = .next t ∧ PieceDone t n id c 32 ∧ Noted v t := by
  have hr := rowCmd_of_oneRow h
  have hus : c.usesS = true := by simp [CopyCmd.usesS, hr.kind]
  have hwid : eWidth c.d = 32 := by rw [eWidth, hfd]; rfl
  have hpin : c.dst.pin = none := by
    show c.pin c.d = none
    rw [CopyCmd.pin, if_neg hd.2]
  have hsx := srcIx_of_row (m := 1) (j := 0) hr.pstw h2 hx1 (by omega) (by omega)
  have hread : s.cRead (copyAg (.core n) c) { c with st := .active, rd := 0, wr := 0 } 0 0 =
      (.ok code, u, { c with st := .active, rd := 1, wr := 0 }) :=
    cRead_src (c := { c with st := .active, rd := 0, wr := 0 }) hus hsx hget
  obtain ⟨fl, hel⟩ := cElem_put (c := { c with st := .active, rd := 0, wr := 0 }) (t := Tcb.null) (scale := 0) (r := 1)
    (sx := some (0, c.word 1 + 0)) (by show c.kind ≠ 4; rw [hr.kind]; decide) (by show c.kind ≠ 5; rw [hr.kind]; decide) hread
    ((if_pos hus).trans hsx) (hr.dst 0 (by omega))
    (convert_plain (by show c.kind ≠ 2; rw [hr.kind]; decide) (by show c.kind ≠ 5; rw [hr.kind]; decide)) hput hpin hr.tagw
  obtain ⟨t, c3, hex, hn, hcmd, hst, hcls, hdet, hby, hgd, hgk⟩ := piece_one h (by decide) (by decide) (.inr hfd)
    (fun _ => hfs) hd (fun _ => hs) hel hcop
  refine ⟨t, hex, ⟨c3, hcmd, hst, hcls, hdet, hby.trans ?_, hgd, hgk⟩, hn⟩
  show c.bytes + eWidth c.d = _
  rw [hwid]

end Sys2Proof.Machine
end

section
/-! One element to and from a scratchpad segment at its home and HBM (O37, third and fourth clause). -/

namespace Sys2Proof.Machine

open Sys2Proof.Claims

/-! Places. -/

theorem ePlace_spad {s : State} {ag : EngAg} {sd : ESide} {va : W64} {k : Nat} {wr : Bool} (hs : rSpace sd.rc = 2)
    (hle : va.toNat + k ≤ spadBytes) (hok : s.spadOk ag.die (s.ctx ag.cx).asid va.toNat = true) :
    s.ePlace ag sd va k wr = (.ok (.spad ag.die va.toNat), s) := by
  unfold State.ePlace
  simp only [hs, hok, if_true]
  rw [if_neg (by omega)]

theorem ePlace_hbm {s u : State} {ag : EngAg} {sd : ESide} {va : W64} {k : Nat} {wr : Bool} {x : XAddr} (hs : rSpace sd.rc = 3)
    (hx : s.xlate ag.h (s.ctx ag.cx).asid va 0 ag.priv (if wr then .write else .read) = (.ok x, u)) (ht : x.tgt = 0) :
    s.ePlace ag sd va k wr = (.ok (.phys 0 x.pa), u) := by
  have h3 : spaceTgt 3 = 0 := rfl
  unfold State.ePlace
  simp only [hs, h3, hx, ht]

/-! What the accesses leave of tile memory. -/

theorem segsOnly_sameTiles {s t : State} (h : SegsOnly s t) : SameTiles s t :=
  ⟨(congrArg State.teams h.rest :), (congrArg State.launches h.rest :), fun k => (congrArg Core.mdw (h.core k) :),
    fun k => (congrArg Core.badSegs (h.core k) :)⟩

theorem looked_sameTiles {s t : State} (h : Looked s t) : SameTiles s t :=
  ⟨(congrArg State.teams h.rest :), (congrArg State.launches h.rest :), fun k => (congrArg Core.mdw (h.core k) :),
    fun k => (congrArg Core.badSegs (h.core k) :)⟩

theorem segsOnly_tileByte {s t : State} (h : SegsOnly s t) (side : Bool) (k b : Nat) : tileByte t side k b = tileByte s side k b := by
  have hd : (t.core k).side = (s.core k).side := (congrArg Core.side (h.core k) :)
  have ht : (t.core k).tile = (s.core k).tile := (congrArg Core.tile (h.core k) :)
  rw [tileByte, tileByte, hd, ht]

theorem looked_tileByte {s t : State} (h : Looked s t) (side : Bool) (k b : Nat) : tileByte t side k b = tileByte s side k b := by
  have hd : (t.core k).side = (s.core k).side := (congrArg Core.side (h.core k) :)
  have ht : (t.core k).tile = (s.core k).tile := (congrArg Core.tile (h.core k) :)
  rw [tileByte, tileByte, hd, ht]

end Sys2Proof.Machine

namespace Sys2Proof.Claims

open Sys2Proof.Machine

/-- A FILL of one element of the scratchpad. -/
theorem fill_spad (s : State) (n id gk a : Nat) (c : CopyCmd) (h : OneRow s n id gk c 1 1) (hf : rFmt c.d = 2) (hst : rStr0 c.d = 4)
    (hs : rSpace c.d = 2) (ha : a = (rBase c.d + BitVec.ofNat 64 (4 * c.word 3)).toNat) (hle : a + 4 ≤ spadBytes)
    (hok : s.spadOk (n / 96) (s.ctx c.ctx).asid a = true) (hh : HomeSeg s n a) :
    ∃ t : State, exec (.copyPiece (.core n) id) s = .next t ∧ PieceDone t n id c 32 ∧
      mread (t.die (n / 96)).spad a 4 = leBytes 4 (c.word 1) ∧ t.hbm = s.hbm ∧ t.groups = s.groups ∧
      (∀ y, y < a ∨ a + 4 ≤ y → mget (t.die (n / 96)).spad y = mget (s.die (n / 96)).spad y) ∧
      ∀ side k b, tileByte t side k b = tileByte s side k b := by
  have hro := (rowCmd_of_oneRow h).ro
  have hva := elemAddr_word c.d (rBase c.d) (c.word 3) (by omega) hst
  have hpl := ePlace_spad (s := s) (ag := copyAg (.core n) c) (sd := c.dst) (k := 4) (wr := true)
    (va := elemAddr (rSpace c.d) (rBase c.d) (rStr1 c.d) (rStr0 c.d) 0 (c.word 3)) hs (by rw [hva, ← ha]; exact hle)
    (by rw [hva, ← ha]; exact hok)
  obtain ⟨hv, hspad⟩ := spadEngine_home (leBytes 4 (c.word 1)) hh
  have hput : s.ePut (copyAg (.core n) c) c.dst 0 (c.word 3) (c.word 1) = (.ok (), s.spadEngine n a (leBytes 4 (c.word 1))) := by
    refine ePut_place (sd := c.dst) (w := 4) (by show eWidth c.d = _; rw [eWidth, hf]; rfl) (by omega) hro hpl ?_
    rw [hva, ← ha]
    rfl
  obtain ⟨t, hex, hdone, hn⟩ := piece_fill_one h hf (by omega) hput (congrArg Core.copies (hv.core n) :)
  have hlen : (leBytes 4 (c.word 1)).length = 4 := length_leBytes ..
  refine ⟨t, hex, hdone, ?_, (congrArg State.hbm hn.rest :).trans hv.kept.2.2.1, (congrArg State.groups hn.rest :).trans hv.kept.1,
    fun y hy => ?_, fun side k b => (hn.tileByte side k b).trans (segsOnly_tileByte hv side k b)⟩
  · rw [hn.die, hspad, mread_mwrite_leBytes]
  · rw [hn.die, hspad, mget_mwrite_out _ _ _ _ (by omega)]

/-- A FILL of one element of HBM. -/
theorem fill_hbm (s : State) (n id gk : Nat) (c : CopyCmd) (x : XAddr) (u : State) (h : OneRow s n id gk c 1 1) (hf : rFmt c.d = 2)
    (hst : rStr0 c.d = 4) (hs : rSpace c.d = 3)
    (hx : s.xlate (.copy n) (s.ctx c.ctx).asid (rBase c.d + BitVec.ofNat 64 (4 * c.word 3)) 0 c.priv .write = (.ok x, u))
    (ht : x.tgt = 0) (hm : NotMigrating s) :
    ∃ t : State, exec (.copyPiece (.core n) id) s = .next t ∧ PieceDone t n id c 32 ∧
      mread t.hbm x.pa 4 = leBytes 4 (c.word 1) ∧ t.groups = s.groups ∧
      (∀ y, y < x.pa ∨ x.pa + 4 ≤ y → mget t.hbm y = mget s.hbm y) ∧ ∀ side k b, tileByte t side k b = tileByte s side k b := by
  have hro := (rowCmd_of_oneRow h).ro
  have hva := elemAddr_word c.d (rBase c.d) (c.word 3) (by omega) hst
  have hu : Looked s u := by
    have := xlate_looked s (.copy n) (s.ctx c.ctx).asid (rBase c.d + BitVec.ofNat 64 (4 * c.word 3)) 0 c.priv .write
    rwa [hx] at this
  have hpl := ePlace_hbm (s := s) (ag := copyAg (.core n) c) (sd := c.dst) (k := 4) (wr := true)
    (va := elemAddr (rSpace c.d) (rBase c.d) (rStr1 c.d) (rStr0 c.d) 0 (c.word 3)) hs (by rw [hva]; exact hx) ht
  have hlen : (leBytes 4 (c.word 1)).length = 4 := length_leBytes ..
  have hwr := physWrite_still (hu.still hm) (u.ctx c.ctx).fjob 1 (rCache c.d) x.pa hlen
  have hput := ePut_place (sd := c.dst) (w := 4) (by show eWidth c.d = _; rw [eWidth, hf]; rfl) (by omega) hro hpl hwr
  have hl := l2range_lined { u with hbm := mwrite u.hbm x.pa (leBytes 4 (c.word 1)) } 0 x.pa 4 (rCache c.d) true
  generalize State.l2range { u with hbm := mwrite u.hbm x.pa (leBytes 4 (c.word 1)) } 0 x.pa 4 (rCache c.d) true = v at hput hl
  have hcore : v.cores = u.cores := (congrArg State.cores hl.rest :)
  have hvk : ∀ k, v.core k = u.core k := fun k => by simp only [State.core, hcore]
  obtain ⟨hgr, -, -, -, hhbm, -, -, htile, hcop, -⟩ := hu.kept
  have hvm : v.hbm = mwrite s.hbm x.pa (leBytes 4 (c.word 1)) := by rw [← hhbm]; exact (congrArg State.hbm hl.rest :)
  obtain ⟨t, hex, hdone, hn⟩ := piece_fill_one h hf (by omega) hput (by show (v.core n).copies = _; rw [hvk]; exact hcop n)
  have hth : t.hbm = v.hbm := (congrArg State.hbm hn.rest :)
  refine ⟨t, hex, hdone, ?_, (congrArg State.groups hn.rest :).trans ((congrArg State.groups hl.rest :).trans hgr),
    fun y hy => ?_, fun side k b => ?_⟩
  · rw [hth, hvm, mread_mwrite_leBytes]
  · rw [hth, hvm, mget_mwrite_out _ _ _ _ (by omega)]
  · rw [hn.tileByte, ← looked_tileByte hu, tileByte, tileByte, hvk]

end Sys2Proof.Claims
end

section
/-! A COPY of one element into tile memory, and a row moved (O37, second and fourth clause). -/

namespace Sys2Proof.Machine

/-- Where the elements of a source lie: a GATHER's at the base that its table has given (R52). -/
theorem src_base_plain {c : CopyCmd} (hk : c.kind ≠ 3) : c.src.base = rBase c.s := if_neg hk

theorem src_base_gather {c : CopyCmd} {o : Nat} {base : W64} (hk : c.kind = 3) (hg : c.gather = some (o, base)) :
    c.src.base = base := by
  rw [CopyCmd.src, hg]
  exact if_pos hk

/-- The address of an element of row 0 of a source that is not gathered. -/
theorem srcAddr_word {c : CopyCmd} (hk : c.kind ≠ 3) (h5 : rSpace c.s ≠ 5) (hst : rStr0 c.s = 4) (k : Nat) :
    elemAddr (rSpace c.src.rc) c.src.base (rStr1 c.src.rc) (rStr0 c.src.rc) 0 k = rBase c.s + BitVec.ofNat 64 (4 * k) := by
  rw [src_base_plain hk]
  exact elemAddr_word c.s (rBase c.s) k h5 hst

end Sys2Proof.Machine

namespace Sys2Proof.Claims

open Sys2Proof.Machine

/-- A command that has not begun has read no base. -/
theorem gather_of_oneRow {s : State} {n id gk kind m : Nat} {c : CopyCmd} (h : OneRow s n id gk c kind m) : c.gather = none := by
  obtain ⟨-, -, -, -, -, -, -, -, hg, -⟩ := h
  exact hg

/-- A row moved from tile memory to tile memory, a GATHER's base read from its table (03 R52, R54, R61). -/
theorem move_row_based (s : State) (n id gk kind m fmt w src at0 : Nat) (f : Nat → Nat → List Byte) (base : W64) (c : CopyCmd)
    (h : OneRow s n id gk c kind m) (hel : elementOf kind = some (fmt, w, f)) (h2 : c.word 2 = 0)
    (hx1 : 0 < rExt1 c.s) (hx0 : c.word 1 + m ≤ rExt0 c.s) (htcb : kind = 2 → rTcb c.d = 0)
    (hbase : if kind = 3 then
      ∃ tab, RowAt s (gk / 64) c.t (rBase c.t) (rFmt c.t) (rStr0 c.t) 0 1 tab ∧ 8 ≤ rStr0 c.t ∧ 0 < rExt0 c.t ∧
        base.toNat = leNat (s.tread (.data (s.team (gk / 64)).core tab) 8) ∧ base.toNat % 4 = 0
    else base = rBase c.s)
    (hs : RowAt s (gk / 64) c.s base 8 4 (c.word 1) m src)
    (hd : RowAt s (gk / 64) c.d (rBase c.d) fmt w (c.word 3) m at0) (hov : src + 4 * m ≤ at0 ∨ at0 + w * m ≤ src) :
    let word := fun (a : Nat) => leNat (s.tread (.data (s.team (gk / 64)).core a) 4)
    ∃ t : State, exec (.copyPiece (.core n) id) s = .next t ∧ PieceDone t n id c (8 * w * m) ∧
      (∀ j, j < m → t.tread (.data (s.team (gk / 64)).core (at0 + w * j)) w = f (word (src + 4 * j)) (word (at0 + w * j))) ∧
      TileElse s t (s.team (gk / 64)).core at0 (w * m) ∧ { t with cores := [] } = { s with cores := [] } := by
  have hr := rowCmd_of_oneRow h
  by_cases hk : kind = 3
  · rw [if_pos hk] at hbase
    obtain ⟨tab, htr, h8, hx, hb, h4⟩ := hbase
    have hga := gather_of_oneRow h
    have hwid : eWidth c.s = 32 := by rw [eWidth, hs.2.1]; rfl
    have htab := cTable_gather (n := n) (c := { c with st := .active }) hr.gk (hr.kind.trans hk) hga hwid htr h8 hx hb h4
    refine move_row s n id gk kind m fmt w src at0 f base c (some (0, base)) h hel h2 hx1 hx0 htcb htab ?_ hs hd hov
    exact src_base_gather (hr.kind.trans hk) rfl
  · rw [if_neg hk] at hbase
    have htab : s.cTable (copyAg (.core n) c) { c with st := .active } 0 = (none, s, { c with st := .active, gather := c.gather }) := by
      unfold State.cTable
      rw [if_pos (by show c.kind ≠ 3; rw [hr.kind]; exact hk)]
    refine move_row s n id gk kind m fmt w src at0 f base c c.gather h hel h2 hx1 hx0 htcb htab ?_ hs hd hov
    exact (src_base_plain (by show c.kind ≠ 3; rw [hr.kind]; exact hk)).trans hbase.symm

/-- A COPY of one element whose bytes an engine has read from elsewhere. -/
theorem copy_one {s u : State} {n id gk at0 : Nat} {c : CopyCmd} {bytes : List Byte} (h : OneRow s n id gk c 0 1)
    (h2 : c.word 2 = 0) (hx1 : 0 < rExt1 c.s) (hx0 : c.word 1 < rExt0 c.s) (hfs : rFmt c.s = 8)
    (hd : RowAt s (gk / 64) c.d (rBase c.d) 8 4 (c.word 3) 1 at0) (hs : rSpace c.s ≠ 5 ∧ rSpace c.s ≠ 7)
    (hlen : bytes.length = 4) (hget : s.eGet (copyAg (.core n) c) c.src 0 (c.word 1) = (.ok (leNat bytes), u))
    (hsame : SameTiles s u) (hcop : u.cmdsOf (.core n) = s.cmdsOf (.core n)) (hhbm : u.hbm = s.hbm) (hgr : u.groups = s.groups)
    (htile : ∀ side k b, tileByte u side k b = tileByte s side k b) :
    ∃ t : State, exec (.copyPiece (.core n) id) s = .next t ∧ PieceDone t n id c 32 ∧
      t.tread (.data (s.team (gk / 64)).core at0) 4 = bytes ∧ TileElse s t (s.team (gk / 64)).core at0 4 ∧
      t.hbm = s.hbm ∧ t.groups = s.groups := by
  have hr := rowCmd_of_oneRow h
  have hag : (copyAg (.core n) c).team = some (gk / 64) := by
    show c.gk.map teamOf = _
    rw [hr.gk]
    rfl
  have hds : rSpace c.d = 0 := hd.1
  have hdf : rFmt c.d = 8 := hd.2.1
  obtain ⟨v, hput, hwr⟩ := ePut_row (sd := c.dst) (j := 0) (leNat bytes) (rowAt_kept hsame hd) hag rfl (by omega) hr.ro (by omega)
  rw [hsame.team, ← hlen, leBytes_leNat] at hwr
  obtain ⟨t, hex, hdone, hn⟩ := piece_copy_one h h2 hx1 hx0 hfs hdf hs (by omega) hget hput
    ((congrArg Core.copies (hwr.core n) :).trans hcop)
  refine ⟨t, hex, hdone, ?_, fun side k b hb => ?_, (congrArg State.hbm hn.rest :).trans ((congrArg State.hbm hwr.rest :).trans hhbm),
    (congrArg State.groups hn.rest :).trans ((congrArg State.groups hwr.rest :).trans hgr)⟩
  · have := mread_mwrite bytes (u.core (s.team (gk / 64)).core).tile (at0 + 4 * 0)
    rw [State.tread, hn.tile, hwr.tile, if_pos rfl, ← hlen]
    exact this
  · rw [hn.tileByte, ← htile]
    cases side with
    | true =>
      have hside : (v.core k).side = (u.core k).side := (congrArg Core.side (hwr.core k) :)
      simp only [tileByte, hside, if_true]
    | false =>
      simp only [tileByte, hwr.tile, Bool.false_eq_true, if_false]
      split
      · next hk =>
        have hout : ¬ (at0 ≤ b ∧ b < at0 + 4) := fun hin => hb ⟨rfl, hk, hin⟩
        rw [mget_mwrite_out _ _ _ _ (by omega), hk]
      · rfl

/-- A COPY of one element of the scratchpad. -/
theorem copy_spad {s : State} {n id gk at0 : Nat} {c : CopyCmd} {va : W64} (h : OneRow s n id gk c 0 1)
    (h2 : c.word 2 = 0) (hx1 : 0 < rExt1 c.s) (hx0 : c.word 1 < rExt0 c.s) (hfs : rFmt c.s = 8) (hst : rStr0 c.s = 4)
    (hd : RowAt s (gk / 64) c.d (rBase c.d) 8 4 (c.word 3) 1 at0) (hva : va = rBase c.s + BitVec.ofNat 64 (4 * c.word 1))
    (hs : rSpace c.s = 2) (hle : va.toNat + 4 ≤ spadBytes) (hok : s.spadOk (n / 96) (s.ctx c.ctx).asid va.toNat = true)
    (hh : HomeSeg s n va.toNat) :
    ∃ t : State, exec (.copyPiece (.core n) id) s = .next t ∧ PieceDone t n id c 32 ∧
      t.tread (.data (s.team (gk / 64)).core at0) 4 = mread (s.die (n / 96)).spad va.toNat 4 ∧
      TileElse s t (s.team (gk / 64)).core at0 4 ∧ t.hbm = s.hbm ∧ t.groups = s.groups := by
  have haddr := srcAddr_word (c := c) (by rw [(rowCmd_of_oneRow h).kind]; decide) (by omega) hst (c.word 1)
  rw [← hva] at haddr
  have hpl := ePlace_spad (s := s) (ag := copyAg (.core n) c) (sd := c.src) (k := 4) (wr := false) (va := va) hs hle hok
  obtain ⟨u, hread, hdirs⟩ := spadRead_home 4 hh
  have hget : s.eGet (copyAg (.core n) c) c.src 0 (c.word 1) = (.ok (leNat (mread (s.die (n / 96)).spad va.toNat 4)), u) := by
    refine eGet_place (sd := c.src) (w := 4) (by show eWidth c.s = _; rw [eWidth, hfs]; rfl) (by omega)
      (p := .spad (n / 96) va.toNat) (u := s) ?_ ?_ (length_mread ..)
    · rw [haddr]
      exact hpl
    · show (Except.ok (s.spadRead n va.toNat 4).1, (s.spadRead n va.toNat 4).2) = _
      rw [hread]
  obtain ⟨hgr, -, hhbm, -⟩ := hdirs.only.kept
  exact copy_one h h2 hx1 hx0 hfs hd (by omega) (length_mread ..) hget (segsOnly_sameTiles hdirs.only)
    (congrArg Core.copies (hdirs.only.core n) :) hhbm hgr (segsOnly_tileByte hdirs.only)

/-- A COPY of one element of HBM. -/
theorem copy_hbm {s u : State} {n id gk at0 : Nat} {c : CopyCmd} {va : W64} {x : XAddr} (h : OneRow s n id gk c 0 1)
    (h2 : c.word 2 = 0) (hx1 : 0 < rExt1 c.s) (hx0 : c.word 1 < rExt0 c.s) (hfs : rFmt c.s = 8) (hst : rStr0 c.s = 4)
    (hd : RowAt s (gk / 64) c.d (rBase c.d) 8 4 (c.word 3) 1 at0) (hva : va = rBase c.s + BitVec.ofNat 64 (4 * c.word 1))
    (hs : rSpace c.s = 3) (hx : s.xlate (.copy n) (s.ctx c.ctx).asid va 0 c.priv .read = (.ok x, u)) (ht : x.tgt = 0)
    (hm : NotMigrating s) (hb : s.pbad 0 x.pa 4 = false) :
    ∃ t : State, exec (.copyPiece (.core n) id) s = .next t ∧ PieceDone t n id c 32 ∧
      t.tread (.data (s.team (gk / 64)).core at0) 4 = mread s.hbm x.pa 4 ∧
      TileElse s t (s.team (gk / 64)).core at0 4 ∧ t.hbm = s.hbm ∧ t.groups = s.groups := by
  have hu : Looked s u := by
    have := xlate_looked s (.copy n) (s.ctx c.ctx).asid va 0 c.priv .read
    rwa [hx] at this
  have haddr := srcAddr_word (c := c) (by rw [(rowCmd_of_oneRow h).kind]; decide) (by omega) hst (c.word 1)
  rw [← hva] at haddr
  have hpl := ePlace_hbm (s := s) (ag := copyAg (.core n) c) (sd := c.src) (k := 4) (wr := false) (va := va) hs hx ht
  have hrd := physRead_still (hu.still hm) (u.ctx c.ctx).fjob c.src.side (rCache c.s) x.pa
    ((pbad_looked hu hm 0 x.pa 4).trans hb)
  have hv := hu.trans (l2range_lined u 0 x.pa 4 (rCache c.s) false).looked
  obtain ⟨hgr, -, -, -, hhbm, -⟩ := hv.kept
  obtain ⟨-, -, -, -, huh, -⟩ := hu.kept
  have hget : s.eGet (copyAg (.core n) c) c.src 0 (c.word 1) =
      (.ok (leNat (mread s.hbm x.pa 4)), u.l2range 0 x.pa 4 (rCache c.s) false) := by
    refine eGet_place (sd := c.src) (w := 4) (by show eWidth c.s = _; rw [eWidth, hfs]; rfl) (by omega)
      (p := .phys 0 x.pa) (u := u) ?_ (by rw [← huh]; exact hrd) (length_mread ..)
    rw [haddr]
    exact hpl
  exact copy_one h h2 hx1 hx0 hfs hd (by omega) (length_mread ..) hget (looked_sameTiles hv)
    (congrArg Core.copies (hv.core n) :) hhbm hgr (looked_tileByte hv)

end Sys2Proof.Claims
end

section
/-! The end of a copy command (03 R64 to R71): groups that are woken, the status, Q3 and path 4. -/

namespace Sys2Proof.Machine

open Sys2Proof.Claims

/-! Groups that are marked able to issue. -/

/-- A group, its readiness to issue left out of account. -/
def Group.readied (g : Group) : Group := { g with y := { g.y with status := .ready } }

/-- Of `s`, the groups' readiness to issue alone has changed. -/
structure Woken (s t : State) : Prop where
  rest : { t with groups := [] } = { s with groups := [] }
  grp : ∀ k, (t.grp k).readied = (s.grp k).readied

theorem Woken.refl (s : State) : Woken s s := ⟨rfl, fun _ => rfl⟩

theorem Woken.trans {s t u : State} (h : Woken s t) (k : Woken t u) : Woken s u :=
  ⟨k.rest.trans h.rest, fun j => (k.grp j).trans (h.grp j)⟩

theorem woken_poke (s : State) (k : Nat) : Woken s (s.poke k) := by
  refine ⟨rfl, fun j => ?_⟩
  rw [State.poke, State.modGrp_grp_ite]
  split
  · next h =>
    subst h
    split <;> rfl
  · rfl

theorem woken_pokes (l : List Nat) (s : State) : Woken s (l.foldl State.poke s) := by
  induction l generalizing s with
  | nil => exact .refl s
  | cons k l ih => exact (woken_poke s k).trans (ih _)

/-- A group changed after and before others are woken. -/
theorem Woken.modGrp {s t : State} (h : Woken s t) (k : Nat) (f : Group → Group)
    (hf : ∀ g g2 : Group, g2.readied = g.readied → (f g2).readied = (f g).readied) : Woken (s.modGrp k f) (t.modGrp k f) := by
  refine ⟨h.rest, fun j => ?_⟩
  rw [State.modGrp_grp_ite, State.modGrp_grp_ite]
  split
  · exact hf _ _ (h.grp k)
  · exact h.grp j

theorem Woken.r {s t : State} (h : Woken s t) (k : Nat) : (t.grp k).r = (s.grp k).r := (congrArg Group.r (h.grp k) :)
theorem Woken.q3 {s t : State} (h : Woken s t) (k : Nat) : (t.grp k).y.q3 = (s.grp k).y.q3 :=
  (congrArg (fun g => g.y.q3) (h.grp k) :)
theorem Woken.paths {s t : State} (h : Woken s t) (k : Nat) : (t.grp k).y.paths = (s.grp k).y.paths :=
  (congrArg (fun g => g.y.paths) (h.grp k) :)

/-! What a command's end does to its group. -/

/-- The group of a command that ends without a data error: its status register, Q3 and path 4 (R65, R66, R68). -/
def CopyCmd.notify (c : CopyCmd) (g : Group) : Group :=
  { g with
    r := (g.r.setG c.gd c.status).markG c.gd false
    y := { g.y with
      q3 := if c.qen then g.y.q3 ++ [c.q3] else g.y.q3
      paths := tset 0 g.y.paths 4 (g.y.path 4 - 1) } }

/-- The status written, where no data error has to be told. -/
theorem writeStatus_woken (s : State) (gk n : Nat) (v : W32) :
    Woken (s.modGrp gk (fun g => { g with r := (g.r.setG n v).markG n false })) (s.writeStatus gk n v none) := woken_poke _ gk

theorem decPath_woken {s t : State} (h : Woken s t) (gk p : Nat) :
    Woken (s.modGrp gk (fun g => { g with y := g.y.setPath p (g.y.path p - 1) })) (t.decPath gk p) := by
  refine (h.modGrp gk _ fun g g2 hg => ?_).trans (woken_poke _ gk)
  show ({ g2.readied with y := g2.readied.y.setPath p (g2.readied.y.path p - 1) } : Group) =
    { g.readied with y := g.readied.y.setPath p (g.readied.y.path p - 1) }
  rw [hg]

/-- A Q3 entry appended where QEN asks (R68). -/
def CopyCmd.queued (c : CopyCmd) (s : State) (gk : Nat) : State :=
  if c.qen then s.modGrp gk (fun g => { g with y := { g.y with q3 := g.y.q3 ++ [c.q3] } }) else s

theorem queued_woken {s t : State} (h : Woken s t) (c : CopyCmd) (gk : Nat) : Woken (c.queued s gk) (c.queued t gk) := by
  unfold CopyCmd.queued
  split
  · refine h.modGrp gk _ fun g g2 hg => ?_
    show ({ g2.readied with y := { g2.readied.y with q3 := g2.readied.y.q3 ++ [c.q3] } } : Group) =
      { g.readied with y := { g.readied.y with q3 := g.readied.y.q3 ++ [c.q3] } }
    rw [hg]
  · exact h

/-- Status, Q3 and path 4 one after another. -/
theorem notify_woken (s : State) (c : CopyCmd) (gk : Nat) :
    Woken (s.modGrp gk c.notify) ((c.queued (s.writeStatus gk c.gd c.status none) gk).decPath gk 4) := by
  refine Woken.trans ⟨?_, fun k => ?_⟩ (decPath_woken (queued_woken (writeStatus_woken s gk c.gd c.status) c gk) gk 4)
  · unfold CopyCmd.queued
    split <;> rfl
  · unfold CopyCmd.queued
    by_cases hk : k = gk
    · subst hk
      by_cases hq : c.qen = true
      · simp only [hq, if_true, State.modGrp_grp, CopyCmd.notify]
        rfl
      · simp only [hq, Bool.false_eq_true, if_false, State.modGrp_grp, CopyCmd.notify]
        rfl
    · split
      · simp only [State.modGrp_grp_ne _ _ hk]
      · simp only [State.modGrp_grp_ne _ _ hk]

/-- No team of a core has commands still to come back. -/
def Settled (s : State) : Prop := ∀ p ∈ s.teams, p.2.st = .resident → p.2.saveCopies = []

theorem settled_of_teams {s t : State} (h : Settled s) (ht : t.teams = s.teams) : Settled t := by
  unfold Settled
  rw [ht]
  exact h

theorem refill_settled {s : State} (h : Settled s) : s.refill = s := by
  have hf : s.teams.filter (fun (t : Nat × Team) => t.2.st == .resident && !t.2.saveCopies.isEmpty) = [] := by
    refine List.filter_eq_nil_iff.2 fun p hp hc => ?_
    obtain ⟨h1, h2⟩ : p.2.st = .resident ∧ p.2.saveCopies ≠ [] := by simpa using hc
    exact h2 (h p hp h1)
  rw [State.refill, hf]
  rfl

theorem setCmds_teams (s : State) (e : Eng) (l : List CopyCmd) : (s.setCmds e l).teams = s.teams := by
  cases e <;> rfl

theorem setCmds_grp (s : State) (e : Eng) (l : List CopyCmd) (k : Nat) : (s.setCmds e l).grp k = s.grp k := by
  cases e <;> rfl

/-- The last act of a group's command. -/
theorem cWrite_woken {s : State} {e : Eng} {c : CopyCmd} {gk : Nat} (hs : Settled s) (hg : c.gk = some gk) (hb : c.bound = [])
    (h5 : c.cls ≠ 5) :
    Woken ((s.setCmds e ((s.cmdsOf e).filter (fun x => decide (x.id ≠ c.id)))).modGrp gk c.notify) (s.cWrite e c) := by
  have hr : (s.setCmds e ((s.cmdsOf e).filter (fun x => decide (x.id ≠ c.id)))).refill.unpin c.ctx c.bound =
      s.setCmds e ((s.cmdsOf e).filter (fun x => decide (x.id ≠ c.id))) := by
    rw [hb, refill_settled (settled_of_teams hs (setCmds_teams ..))]
    rfl
  unfold State.cWrite
  simp only [hr, hg, if_neg h5]
  generalize s.setCmds e ((s.cmdsOf e).filter (fun x => decide (x.id ≠ c.id))) = u
  have hn := notify_woken u c gk
  cases e with
  | core n => exact hn.trans (woken_pokes _ _)
  | link => exact hn

end Sys2Proof.Machine
end

section
/-! Requeueing, completion, release and a full Q3 (03 R45, R60, R64 to R68; O37, fifth to seventh clause). -/

namespace Sys2Proof.Machine

open Sys2Proof.Claims

theorem setG_rest (r : Regs) (n : Nat) (v : W32) : { r.setG n v with g := [], hg := [] } = { r with g := [], hg := [] } := by
  unfold Regs.setG
  split <;> rfl

/-- The registers of a group that a command's end has left. -/
theorem notify_r (c : CopyCmd) (g : Group) :
    (∀ n, (c.notify g).r.getG n = if n = c.gd then c.status else g.r.getG n) ∧ (c.notify g).r.emptyG c.gd = false ∧
      { (c.notify g).r with g := [], hg := [], gEmpty := 0 } = { g.r with g := [], hg := [], gEmpty := 0 } := by
  refine ⟨fun n => ?_, ?_, ?_⟩
  · have hm : ((g.r.setG c.gd c.status).markG c.gd false).getG n = (g.r.setG c.gd c.status).getG n := by
      unfold Regs.markG
      split <;> rfl
    exact hm.trans (Regs.getG_setG ..)
  · show ((g.r.setG c.gd c.status).markG c.gd false).emptyG c.gd = false
    rw [emptyG_markG]
    split
    · rfl
    · next h =>
      have : ¬ c.gd < 64 := fun hl => h ⟨rfl, hl⟩
      simp [Regs.emptyG, this]
  · exact (congrArg (fun (x : Regs) => { x with g := [], hg := [] }) (markG_rest (g.r.setG c.gd c.status) c.gd false) :).trans
      (congrArg (fun (x : Regs) => { x with gEmpty := 0 }) (setG_rest g.r c.gd c.status) :)

/-- Where Q3 has room, a command ends with its last act. -/
theorem cEnd_room {s : State} {e : Eng} {c : CopyCmd} {gk : Nat} (hg : c.gk = some gk)
    (hroom : c.qen = true → (s.grp gk).y.q3.length < 16) : s.cEnd e c = s.cWrite e c := by
  unfold State.cEnd
  rw [hg]
  refine if_neg fun hc => ?_
  obtain ⟨hq, hl⟩ := (Bool.and_eq_true _ _).mp hc
  have := hroom hq
  have := of_decide_eq_true hl
  omega

/-- The cores' state apart from their lists of copies. -/
theorem cEnd_core {s : State} {e : Eng} {c : CopyCmd} {gk : Nat} (hs : Settled s) (hg : c.gk = some gk)
    (hb : c.bound = []) (h5 : c.cls ≠ 5) (hroom : c.qen = true → (s.grp gk).y.q3.length < 16) (k : Nat) :
    { (s.cEnd e c).core k with copies := [] } = { s.core k with copies := [] } := by
  have hw := cWrite_woken (e := e) hs hg hb h5
  rw [cEnd_room hg hroom]
  generalize s.cWrite e c = t at hw
  have hcores : t.cores = (s.setCmds e ((s.cmdsOf e).filter (fun x => decide (x.id ≠ c.id)))).cores := (congrArg State.cores hw.rest :)
  simp only [State.core, hcores]
  exact setCmds_core s e _ k

/-- What the end of a group's command leaves (03 R65 to R68), where Q3 has room. -/
theorem copyEnds_cEnd {s : State} {e : Eng} {c : CopyCmd} {gk : Nat} (hs : Settled s) (hg : c.gk = some gk)
    (hb : c.bound = []) (h5 : c.cls ≠ 5) (hroom : c.qen = true → (s.grp gk).y.q3.length < 16) :
    CopyEnds s (s.cEnd e c) e c gk := by
  have hcore := cEnd_core (e := e) hs hg hb h5 hroom
  have hw := cWrite_woken (e := e) hs hg hb h5
  rw [cEnd_room hg hroom] at hcore ⊢
  generalize s.cWrite e c = t at hw hcore
  generalize hl : (s.cmdsOf e).filter (fun x => decide (x.id ≠ c.id)) = l at hw
  have hgk : ((s.setCmds e l).modGrp gk c.notify).grp gk = c.notify (s.grp gk) := by
    rw [State.modGrp_grp, setCmds_grp]
  have hne : ∀ k, k ≠ gk → ((s.setCmds e l).modGrp gk c.notify).grp k = s.grp k := fun k hk => by
    rw [State.modGrp_grp_ne _ _ hk, setCmds_grp]
  have hcores : t.cores = (s.setCmds e l).cores := (congrArg State.cores hw.rest :)
  have hlink : t.link = (s.setCmds e l).link := (congrArg State.link hw.rest :)
  have hcmds : t.cmdsOf e = (s.setCmds e l).cmdsOf e := by
    cases e with
    | core n => simp only [State.cmdsOf, State.core, hcores]
    | link => simp only [State.cmdsOf, hlink]
  have hmem := setCmds_rest s e l
  obtain ⟨hget, hemp, hrest⟩ := notify_r c (s.grp gk)
  refine ⟨by rw [hcmds, cmdsOf_setCmds_self, hl], fun n => ?_, ?_, ?_, ?_, ?_, fun k hk => ?_,
    (congrArg State.hbm hw.rest :).trans (congrArg State.hbm hmem :), (congrArg State.pool hw.rest :).trans (congrArg State.pool hmem :),
    (congrArg State.host hw.rest :).trans (congrArg State.host hmem :), (congrArg State.peer hw.rest :).trans (congrArg State.peer hmem :),
    fun side co b => ?_⟩
  · rw [hw.r, hgk, hget]
    rfl
  · rw [hw.r, hgk, hemp]
  · rw [GSync.path, hw.paths, hgk]
    exact tget_tset_self _ _ _
  · rw [hw.q3, hgk]
    show (if c.qen then (s.grp gk).y.q3 ++ [c.q3] else (s.grp gk).y.q3) = _
    have hq : c.q3 = BitVec.ofNat 32 (2048 + c.cls % 8 * 256 + c.ctag % 256) := by
      rw [CopyCmd.q3]
      congr 1
      omega
    split
    · rw [hq]
    · rw [List.append_nil]
  · rw [hw.r, hgk, hrest]
  · rw [hw.r, hw.q3, hw.paths, hne k hk]
    exact ⟨rfl, rfl, rfl⟩
  · have htile : (t.core co).tile = (s.core co).tile := (congrArg Core.tile (hcore co) :)
    have hside : (t.core co).side = (s.core co).side := (congrArg Core.side (hcore co) :)
    rw [tileByte, tileByte, htile, hside]

/-! AMAX raised (03 R60). -/

/-- Groups and teams stay as bytes of memory are written. -/
theorem pwrite_kept (s : State) (tgt pa : Nat) (bs : List Byte) :
    (s.pwrite tgt pa bs).groups = s.groups ∧ (s.pwrite tgt pa bs).teams = s.teams := by
  induction bs generalizing s pa with
  | nil => exact ⟨rfl, rfl⟩
  | cons b bs ih =>
    obtain ⟨h1, h2⟩ := ih (s.pset tgt pa b) (pa + 1)
    have hset : ∀ (k : Nat) (m : Memory), (s.setImage k m).groups = s.groups ∧ (s.setImage k m).teams = s.teams := by
      intro k m
      unfold State.setImage
      split <;> exact ⟨rfl, rfl⟩
    obtain ⟨h3, h4⟩ := hset (s.served tgt pa).1 (mset (s.image (s.served tgt pa).1) (s.served tgt pa).2 b)
    exact ⟨h1.trans h3, h2.trans h4⟩

theorem vread_looked (s : State) (h : Holder) (asid : BitVec 13) (va : W64) (tgt : Nat) (priv : Bool) (n : Nat) :
    Looked s (s.vread h asid va tgt priv n).2 := by
  have hx := xlate_looked s h asid va tgt priv .read
  unfold State.vread
  simp only
  split
  · exact hx
  · exact hx.trans (l2range_lined ..).looked

theorem vwrite_kept (s : State) (h : Holder) (asid : BitVec 13) (va : W64) (tgt : Nat) (priv : Bool) (bs : List Byte) :
    (s.vwrite h asid va tgt priv bs).2.groups = s.groups ∧ (s.vwrite h asid va tgt priv bs).2.teams = s.teams := by
  obtain ⟨hg, ht, -⟩ := (xlate_looked s h asid va tgt priv .write).kept
  unfold State.vwrite
  simp only
  split
  · exact ⟨hg, ht⟩
  · next a _ =>
    have hl := l2range_lined (State.pwrite (s.xlate h asid va tgt priv .write).2 a.tgt a.pa bs) a.tgt a.pa bs.length 0 true
    obtain ⟨hpg, hpt⟩ := pwrite_kept (s.xlate h asid va tgt priv .write).2 a.tgt a.pa bs
    exact ⟨(congrArg State.groups hl.rest :).trans (hpg.trans hg), (congrArg State.teams hl.rest :).trans (hpt.trans ht)⟩

theorem raiseAmax_kept (s : State) (h : Holder) (cx i : Nat) (v : W32) :
    (s.raiseAmax h cx i v).groups = s.groups ∧ (s.raiseAmax h cx i v).teams = s.teams := by
  obtain ⟨hg, ht, -⟩ := (vread_looked s h (s.ctx cx).asid ((s.ctx cx).tcbAddr i) 0 true 4).kept
  unfold State.raiseAmax
  split
  · exact ⟨rfl, rfl⟩
  · simp only
    split
    · exact ⟨hg, ht⟩
    · obtain ⟨hwg, hwt⟩ := vwrite_kept (s.vread h (s.ctx cx).asid ((s.ctx cx).tcbAddr i) 0 true 4).2 h (s.ctx cx).asid
        ((s.ctx cx).tcbAddr i) 0 true _
      exact ⟨hwg.trans hg, hwt.trans ht⟩

/-- A raise that reads and writes its block. -/
theorem raiseAmax_eq {s u w : State} {h : Holder} {cx i : Nat} {v : W32} {bs : List Byte} {x : Except XFault XAddr} (hi : i ≠ 0)
    (hr : s.vread h (s.ctx cx).asid ((s.ctx cx).tcbAddr i) 0 true 4 = (.ok bs, u))
    (hw : u.vwrite h (s.ctx cx).asid ((s.ctx cx).tcbAddr i) 0 true (leBytes 4 (amaxUpd (BitVec.ofNat 32 (leNat bs)) v).toNat) =
      (x, w)) : s.raiseAmax h cx i v = w := by
  simp only [State.raiseAmax, if_neg hi, hr, hw]

theorem cAmax_kept (s : State) (e : Eng) (c : CopyCmd) : (s.cAmax e c).groups = s.groups ∧ (s.cAmax e c).teams = s.teams := by
  unfold State.cAmax
  split
  · exact raiseAmax_kept ..
  · exact ⟨rfl, rfl⟩

/-- When a command raises AMAX. -/
theorem cAmax_eq (s : State) (e : Eng) (c : CopyCmd) :
    s.cAmax e c = if c.kind = 2 ∧ (rFmt c.d = 0x0B ∨ rFmt c.d = 0x0C ∨ isBlock (rFmt c.d) = true) ∧
      (0 < c.pos ∨ 0 < c.rd ∨ c.amax ≠ 0) then s.raiseAmax (engHolder e) c.ctx (rTcb c.d) c.amax else s := by
  unfold State.cAmax CopyCmd.tracks
  congr 1
  simp only [Bool.and_eq_true, Bool.or_eq_true, decide_eq_true_eq, beq_iff_eq, or_assoc, and_assoc]

theorem grp_of_groups {s t : State} (h : t.groups = s.groups) (k : Nat) : t.grp k = s.grp k := by
  simp only [State.grp, h]

end Sys2Proof.Machine

namespace Sys2Proof.Claims

open Sys2Proof.Machine

/-- An active command whose tags are not ready goes to the tail (03 R45). -/
theorem tag_requeue (s : State) (e : Eng) (id : Nat) (c : CopyCmd) (h : s.cmdOf e id = some c) (hst : c.st = .active)
    (hp : c.pos < c.total) (hr : s.cReady (copyAg e c) c c.pos = false) :
    ∃ t, exec (.copyTagRequeue e id) s = .next t ∧
      t.cmdsOf e = (s.cmdsOf e).filter (fun x => decide (x.id ≠ id)) ++ [{ c with st := .queued }] ∧
      (∀ k, { t.core k with copies := [] } = { s.core k with copies := [] }) ∧
      { t with cores := [], link := { t.link with copies := s.link.copies } } = { s with cores := [] } := by
  refine ⟨s.setCmds e _, ?_, cmdsOf_setCmds_self .., setCmds_core s e _, setCmds_rest s e _⟩
  show execCopyTagRequeue e id s = _
  unfold execCopyTagRequeue
  rw [h]
  exact congrArg Host.Outcome.next (if_pos ⟨hst, hp, hr⟩)

/-- The completion of a command without a follow-on (03 R60, R65 to R68). -/
theorem completion_ends (s : State) (e : Eng) (gk : Nat) (c : CopyCmd) (hg : c.gk = some gk) (hb : c.bound = []) (h5 : c.cls ≠ 5)
    (hs : Settled s) (hroom : c.qen = true → (s.grp gk).y.q3.length < 16) (h : s.cmdOf e c.id = some c) (hst : c.st = .done)
    (hf : c.follow = false ∨ c.cls ≠ 0) :
    let keeps := c.kind = 2 ∧ (rFmt c.d = 0x0B ∨ rFmt c.d = 0x0C ∨ isBlock (rFmt c.d) = true) ∧
      (0 < c.pos ∨ 0 < c.rd ∨ c.amax ≠ 0)
    ∃ t z, exec (.copyCompletion e c.id) s = .next t ∧ CopyEnds z t e c gk ∧ z.groups = s.groups ∧
      (¬ keeps → z = s) ∧ (keeps → z = s.raiseAmax (engHolder e) c.ctx (rTcb c.d) c.amax) := by
  intro keeps
  obtain ⟨hzg, hzt⟩ := cAmax_kept s e c
  have hfol : (s.cAmax e c).cFollow e c = (s.cAmax e c).cEnd e { c with follow := false } := by
    have hb : (c.follow && c.cls == 0) = false := by
      rcases hf with hf | hf
      · rw [hf]; rfl
      · simp [hf]
    unfold State.cFollow
    rw [hb]
  refine ⟨(s.cAmax e c).cFollow e c, s.cAmax e c, ?_, ?_, hzg, fun hk => (cAmax_eq s e c).trans (if_neg hk), fun hk => (cAmax_eq s e c).trans (if_pos hk)⟩
  · show execCopyCompletion e c.id s = _
    unfold execCopyCompletion
    rw [h]
    exact congrArg Host.Outcome.next (if_pos hst)
  · rw [hfol]
    exact copyEnds_cEnd (c := { c with follow := false }) (settled_of_teams hs hzt) hg hb h5
      (by rw [grp_of_groups hzg]; exact hroom)

/-- The release of a completion that was held for a place in Q3 (03 R68). -/
theorem release_ends (s : State) (e : Eng) (gk : Nat) (c : CopyCmd) (hg : c.gk = some gk) (hb : c.bound = []) (h5 : c.cls ≠ 5)
    (hs : Settled s) (hroom : c.qen = true → (s.grp gk).y.q3.length < 16) (he : e ∈ s.engines) (hh : s.q3Held e gk = some c)
    (ho : ∀ e2 ∈ s.engines, e2 ≠ e → s.q3Held e2 gk = none) :
    ∃ t, exec (.q3HeldRelease gk) s = .next t ∧ CopyEnds s t e c gk := by
  have hfind : s.engines.findSome? (fun e => (s.q3Held e gk).map (fun c => (e, c))) = some (e, c) := by
    generalize s.engines = l at he ho
    induction l with
    | nil => cases he
    | cons x l ih =>
      rw [List.findSome?_cons]
      by_cases hx : x = e
      · rw [hx, hh]
        rfl
      · rw [ho x (List.mem_cons_self ..) hx]
        exact ih ((List.mem_cons.1 he).resolve_left (Ne.symm hx)) fun e2 h2 => ho e2 (List.mem_cons_of_mem _ h2)
  refine ⟨s.cEnd e c, ?_, copyEnds_cEnd hs hg hb h5 hroom⟩
  show execQ3HeldRelease gk s = _
  unfold execQ3HeldRelease
  rw [hfind]

/-- A completion that finds Q3 full is held (03 R68). -/
theorem completion_holds (s : State) (e : Eng) (gk : Nat) (c : CopyCmd) (h : s.cmdOf e c.id = some c) (hst : c.st = .done)
    (hg : c.gk = some gk) (hk : c.kind ≠ 2) (hf : c.follow = false) (hq : c.qen = true) (hl : 16 ≤ (s.grp gk).y.q3.length) :
    ∃ t, exec (.copyCompletion e c.id) s = .next t ∧ t.cmdOf e c.id = some { c with st := .held } ∧ t.groups = s.groups := by
  have ham : s.cAmax e c = s := (cAmax_eq s e c).trans (if_neg fun hc => hk hc.1)
  have hfol : s.cFollow e c = s.putCmd e { c with follow := false, st := .held } := by
    unfold State.cFollow State.cEnd
    rw [hf, hg]
    have hfull : (c.qen && decide (16 ≤ (s.grp gk).y.q3.length)) = true := by rw [hq, decide_eq_true hl]; rfl
    exact if_pos hfull
  have hc : ({ c with follow := false, st := .held } : CopyCmd) = { c with st := .held } := by rw [← hf]
  refine ⟨s.putCmd e { c with st := .held }, ?_, cmdOf_putCmd h rfl rfl, ?_⟩
  · show execCopyCompletion e c.id s = _
    unfold execCopyCompletion
    rw [h, ← hc, ← hfol]
    simp only [ham]
    exact congrArg Host.Outcome.next (if_pos hst)
  · exact (congrArg State.groups (setCmds_rest s e _) :)

/-- AMAX of a control block raised at its home (03 R60, 05 R124). -/
theorem raise_amax (s : State) (h : Holder) (cx i : Nat) (v : W32) (a b : XAddr) (u w : State) :
    let va := (s.ctx cx).tcbbase + BitVec.ofNat 64 (64 * i)
    let old := leNat (mread s.hbm a.pa 4)
    (i = 0 → s.raiseAmax h cx i v = s) ∧
    (i ≠ 0 → s.xlate h (s.ctx cx).asid va 0 true .read = (.ok a, u) →
      (u.l2range 0 a.pa 4 0 false).xlate h (s.ctx cx).asid va 0 true .write = (.ok b, w) → a.tgt = 0 → b.tgt = 0 →
      b.pa = a.pa → NotMigrating s →
      mread (s.raiseAmax h cx i v).hbm a.pa 4 = leBytes 4 (if old ≤ 0x7F800000 ∧ v.toNat ≤ old then old else v.toNat) ∧
      ∀ y, y < a.pa ∨ a.pa + 4 ≤ y → mget (s.raiseAmax h cx i v).hbm y = mget s.hbm y) := by
  intro va old
  refine ⟨fun hi => if_pos hi, fun hi hx hx2 hat hbt hpa hm => ?_⟩
  have hu : Looked s u := by
    have := xlate_looked s h (s.ctx cx).asid va 0 true .read
    rwa [hx] at this
  have hw : Looked s w := by
    have := xlate_looked (u.l2range 0 a.pa 4 0 false) h (s.ctx cx).asid va 0 true .write
    rw [hx2] at this
    exact (hu.trans (l2range_lined u 0 a.pa 4 0 false).looked).trans this
  obtain ⟨-, -, -, -, hhu, -⟩ := hu.kept
  obtain ⟨-, -, -, -, hhw, -⟩ := hw.kept
  have hread : u.pread 0 a.pa 4 = mread s.hbm a.pa 4 := by
    rw [pread_of_still (hu.still hm), ← hhu]
    rfl
  have hnew : (amaxUpd (BitVec.ofNat 32 old) v).toNat = if old ≤ 0x7F800000 ∧ v.toNat ≤ old then old else v.toNat := by
    have hlt : old < 2 ^ 32 := leNat_mread_lt s.hbm a.pa 4
    have ho : (BitVec.ofNat 32 old).toNat = old := by rw [BitVec.toNat_ofNat, Nat.mod_eq_of_lt hlt]
    unfold amaxUpd
    rw [ho]
    split
    · exact ho
    · rfl
  have heq : s.raiseAmax h cx i v = ({ w with hbm := mwrite w.hbm a.pa (leBytes 4 (amaxUpd (BitVec.ofNat 32 old) v).toNat) } : State).l2range
      0 a.pa 4 0 true := by
    have hrd : s.vread h (s.ctx cx).asid va 0 true 4 = (.ok (mread s.hbm a.pa 4), u.l2range 0 a.pa 4 0 false) := by
      simp only [State.vread, hx, hat, hread]
    have hwr : (u.l2range 0 a.pa 4 0 false).vwrite h (s.ctx cx).asid va 0 true (leBytes 4 (amaxUpd (BitVec.ofNat 32 old) v).toNat) =
        (.ok b, ({ w with hbm := mwrite w.hbm a.pa (leBytes 4 (amaxUpd (BitVec.ofNat 32 old) v).toNat) } : State).l2range
          0 a.pa 4 0 true) := by
      simp only [State.vwrite, hx2, hbt, hpa, pwrite_of_still (hw.still hm), length_leBytes]
    exact raiseAmax_eq hi hrd hwr
  have hl := l2range_lined { w with hbm := mwrite w.hbm a.pa (leBytes 4 (amaxUpd (BitVec.ofNat 32 old) v).toNat) } 0 a.pa 4 0 true
  have hh : (s.raiseAmax h cx i v).hbm = mwrite s.hbm a.pa (leBytes 4 (amaxUpd (BitVec.ofNat 32 old) v).toNat) := by
    rw [heq, ← hhw]
    exact (congrArg State.hbm hl.rest :)
  have hlen : ∀ x, (leBytes 4 x).length = 4 := fun x => length_leBytes ..
  rw [hh, hnew]
  exact ⟨mread_mwrite_leBytes .., fun y hy => mget_mwrite_out _ _ _ _ (by rw [hlen]; omega)⟩

end Sys2Proof.Claims
end

section
/-! The follow-on of a copy command (03 R64, 09 R226), and O37. -/

namespace Sys2Proof.Machine

open Sys2Proof.Claims

/-! What a team's own changes leave. -/

theorem settled_modTeam {s : State} (h : Settled s) (tk : Nat) (f : Team → Team) (hst : (f (s.team tk)).st = (s.team tk).st)
    (hsv : (f (s.team tk)).saveCopies = (s.team tk).saveCopies) : Settled (s.modTeam tk f) := by
  intro p hp hr
  rcases mem_tset hp with rfl | hp
  · show (f (s.team tk)).saveCopies = []
    rw [hsv]
    rw [hst] at hr
    rcases tget_mem Team.reset s.teams tk with hd | hm
    · rw [State.team, hd]
      rfl
    · exact h _ hm hr
  · exact h p hp hr

/-- A source read changes no team but for Q2 of its own. -/
theorem popSrc_settled {s : State} (h : Settled s) (x : Src) : Settled (s.popSrc x) := by
  have hq2 := settled_modTeam h (teamOf s.cur) (fun t => { t with q2 := t.q2.tail }) rfl rfl
  unfold State.popSrc
  split
  · exact h
  split
  · split
    · exact h
    · exact h
    · exact hq2
    · exact h
  · split
    · exact h
    · exact h
  · exact h

/-- A source read takes from Q3 at most. -/
theorem popSrc_q3 (s : State) (x : Src) : (s.popSrc x).g.y.q3.length ≤ s.g.y.q3.length := by
  by_cases hx : Src.q 3 ∈ [x]
  · rw [← List.mem_singleton.1 hx]
    unfold State.popSrc
    split
    · exact le_refl _
    · show (s.modY _).g.y.q3.length ≤ _
      rw [State.modY, State.g, State.modG_cur, State.modG_grp]
      exact s.g.y.q3.length_tail ▸ Nat.sub_le _ _
  · obtain ⟨-, -, hg, -⟩ := (popSrc_popped s x).frame
    obtain ⟨-, -, hq, -⟩ := hg
    rw [hq hx]

/-- What a follow-on word's issue leaves: its group has read one source. -/
theorem followOp_reads {s u : State} {gk : Nat} {w : W32} {op : TileOp} (h : s.followOp gk w = some (op, u)) :
    ∃ x : Src, u = { ({ s with cur := gk } : State).popSrc x with cur := s.cur } := by
  unfold State.followOp at h
  split at h
  · next acc g x _ =>
    obtain ⟨-, h⟩ := Option.ite_none_right_eq_some.1 h
    exact ⟨x.src, (congrArg Prod.snd (Option.some.inj h) :).symm⟩
  · cases h

/-- The state of the machine that a follow-on's issue leaves as it was. -/
structure Followed (s u : State) (gk : Nat) : Prop where
  settled : Settled s → Settled u
  queue : ∀ k, (u.core k).queue = (s.core k).queue
  team : (u.teamG gk).core = (s.teamG gk).core ∧ (u.teamG gk).tileNo = (s.teamG gk).tileNo
  q3 : (u.grp gk).y.q3.length ≤ (s.grp gk).y.q3.length

theorem followOp_followed {s u : State} {gk : Nat} {w : W32} {op : TileOp} (h : s.followOp gk w = some (op, u)) :
    Followed s u gk := by
  obtain ⟨x, rfl⟩ := followOp_reads h
  have hp := popSrc_popped { s with cur := gk } x
  obtain ⟨⟨-, hcore, hteam, -⟩, -⟩ := hp.frame
  have hq := popSrc_q3 { s with cur := gk } x
  have hcur : (({ s with cur := gk } : State).popSrc x).cur = gk := hp.cur
  refine ⟨fun hs => popSrc_settled (s := { s with cur := gk }) hs x, fun k => (congrArg Core.queue (hcore k) :),
    ⟨(congrArg Team.core (hteam (teamOf gk)) :), (congrArg Team.tileNo (hteam (teamOf gk)) :)⟩, ?_⟩
  rw [State.g, hcur] at hq
  exact hq

end Sys2Proof.Machine

namespace Sys2Proof.Claims

open Sys2Proof.Machine

/-- A command's end, seen from before its tile instruction entered the queue. -/
theorem copyEnds_of_enqueue {u t : State} {e : Eng} {c : CopyCmd} {gk : Nat} {op : TileOp}
    (h : CopyEnds (u.enqueue gk op) t e c gk) : CopyEnds u t e c gk := by
  have hcore : ∀ k, { (u.enqueue gk op).core k with queue := [] } = { u.core k with queue := [] } := fun k => by
    unfold State.enqueue
    rw [State.modTeam_core, State.modCore_core_ite]
    split
    · next hk => rw [hk]
    · rfl
  have hcmds : (u.enqueue gk op).cmdsOf e = u.cmdsOf e := by
    cases e with
    | core n => exact (congrArg Core.copies (hcore n) :)
    | link => rfl
  obtain ⟨h1, h2, h3, h4, h5, h6, h7, h8, h9, h10, h11, h12⟩ := h
  refine ⟨by rw [h1, hcmds], h2, h3, h4, h5, h6, h7, h8, h9, h10, h11, fun side co b => (h12 side co b).trans ?_⟩
  have htile : ((u.enqueue gk op).core co).tile = (u.core co).tile := (congrArg Core.tile (hcore co) :)
  have hside : ((u.enqueue gk op).core co).side = (u.core co).side := (congrArg Core.side (hcore co) :)
  rw [tileByte, tileByte, htile, hside]

/-- A held follow-on enters the array queue, and its command ends (03 R64). -/
theorem follow_on_ends (s : State) (e : Eng) (gk : Nat) (c : CopyCmd) (hg : c.gk = some gk) (hb : c.bound = [])
    (hs : Settled s) (hroom : c.qen = true → (s.grp gk).y.q3.length < 16) (w : W32) (op : TileOp) (u : State)
    (h : s.cmdOf e c.id = some c) (hst : c.st = .held) (hf : c.follow = true) (hc : c.cls = 0) (hw : c.fword = some w)
    (hq : s.queueFull (gk / 64) = false) (hop : s.followOp gk w = some (op, u)) :
    ∃ t, exec (.followOnFire e c.id) s = .next t ∧ CopyEnds u t e c gk ∧
      (t.core (s.coreNoG gk)).queue = (s.core (s.coreNoG gk)).queue ++
        [⟨gk / 64, gk % 64, op, (s.team (gk / 64)).tileNo, false⟩] := by
  have hu := followOp_followed hop
  obtain ⟨hco, hno⟩ := hu.team
  have hset : Settled (u.enqueue gk op) :=
    settled_modTeam (s := u.modCore (u.coreNoG gk) _) (hu.settled hs) (teamOf gk) (fun t => { t with tileNo := t.tileNo + 1 }) rfl rfl
  have hq3 : c.qen = true → ((u.enqueue gk op).grp gk).y.q3.length < 16 := fun hq => lt_of_le_of_lt hu.q3 (hroom hq)
  have h5 : c.cls ≠ 5 := by omega
  have hfol : s.cFollow e c = (u.enqueue gk op).cEnd e { c with follow := false } := by
    have hfire : (c.follow && c.cls == 0) = true := by simp [hf, hc]
    unfold State.cFollow
    rw [hfire, hg]
    dsimp only
    rw [hw]
    dsimp only
    rw [if_neg fun hx => Bool.false_ne_true (hq.symm.trans hx.1), hop]
  refine ⟨s.cFollow e c, ?_, ?_, ?_⟩
  · show execFollowOnFire e c.id s = _
    unfold execFollowOnFire
    rw [h]
    exact congrArg Host.Outcome.next (if_pos ⟨hst, hf, by rw [hg]; exact congrArg some hq⟩)
  · rw [hfol]
    exact copyEnds_of_enqueue (copyEnds_cEnd (c := { c with follow := false }) hset hg hb h5 hq3)
  · have hk := (congrArg Core.queue (cEnd_core (e := e) (c := { c with follow := false }) hset hg hb h5 hq3 (s.coreNoG gk)) :)
    rw [hfol]
    refine Eq.trans hk ?_
    have hcn : u.coreNoG gk = s.coreNoG gk := hco
    show ((u.enqueue gk op).core (s.coreNoG gk)).queue = _
    unfold State.enqueue
    rw [hcn, State.modTeam_core, State.modCore_core, hu.queue, hno]
    rfl

/-- Settles O37: the rows of tile memory, the single elements of the scratchpad and HBM, and the ends of commands. -/
theorem copyEngine : Obligations.CopyEngine := by
  refine ⟨fill_row, fun s n id gk kind m fmt w src at0 f base c h hel h2 hx1 hx0 htcb hb hs hd hov =>
      move_row_based s n id gk kind m fmt w src at0 f base c h hel h2 hx1 hx0 htcb hb hs hd hov,
    fun s n id gk a c h hf hst => ⟨fun hs ha hle hok hh => fill_spad s n id gk a c h hf hst hs ha hle hok hh,
      fun x u hs hx ht hm => fill_hbm s n id gk c x u h hf hst hs hx ht hm⟩,
    fun s n id gk at0 c h h2 hx1 hx0 hfs hst hd bytes hsrc => ?_, tag_requeue,
    fun s e gk c hg hb h5 hs hroom => ⟨completion_ends s e gk c hg hb h5 hs hroom, release_ends s e gk c hg hb h5 hs hroom,
      follow_on_ends s e gk c hg hb hs hroom⟩,
    completion_holds, raise_amax⟩
  rcases hsrc with ⟨hs, hle, hok, hh, rfl⟩ | ⟨hs, x, u, hx, ht, hm, -, hb, rfl⟩
  · exact copy_spad h h2 hx1 hx0 hfs hst hd rfl hs hle hok hh
  · exact copy_hbm h h2 hx1 hx0 hfs hst hd rfl hs hx ht hm hb

end Sys2Proof.Claims
end

section
/-! A long-latency write that lands (05 R111, R114; O16): the group that it leaves, the registers that a producer
writes, and the two shapes of a write. -/

namespace Sys2Proof.Machine

open Sys2Proof.Claims Sys2Proof.Safety

/-! The rest of the machine. -/

/-- Of `s`, one group alone has changed. -/
structure GroupOnly (gk : Nat) (s t : State) : Prop where
  rest : { t with groups := [] } = { s with groups := [] }
  others : ∀ k, k ≠ gk → t.grp k = s.grp k

theorem groupOnly_modGrp (s : State) (gk : Nat) (f : Group → Group) : GroupOnly gk s (s.modGrp gk f) :=
  ⟨rfl, fun _ h => s.modGrp_grp_ne f h⟩

theorem GroupOnly.trans {gk : Nat} {s t u : State} (h : GroupOnly gk s t) (k : GroupOnly gk t u) : GroupOnly gk s u :=
  ⟨k.rest.trans h.rest, fun j hj => (k.others j hj).trans (h.others j hj)⟩

theorem groupOnly_poke (s : State) (gk : Nat) : GroupOnly gk s (s.poke gk) := groupOnly_modGrp ..

/-- A waiting group marked able to issue changes in its status alone. -/
theorem poke_grp (s : State) (gk : Nat) :
    ∃ w, (s.poke gk).grp gk = { s.grp gk with y := { (s.grp gk).y with status := w } } := by
  rw [State.poke, State.modGrp_grp]
  split
  · exact ⟨_, rfl⟩
  · exact ⟨_, rfl⟩

/-! The landing. -/

/-- The errors that a write leaves for the readers of its registers (03 R71). -/
def Pending.errs (p : Pending) : List (List DReg × RegErr) :=
  match p.err with
  | none => []
  | some e => [(p.dests.map Dest.reg, e)]

/-- The path counters once a write that they count has landed. -/
def Pending.uncounted (p : Pending) (paths : Tbl Nat) : Tbl Nat :=
  match p.path with
  | some k => tset 0 paths k (tget 0 paths k - 1)
  | none => paths

theorem tget_uncounted (p : Pending) (paths : Tbl Nat) (k : Nat) :
    tget 0 (p.uncounted paths) k = if p.path = some k then tget 0 paths k - 1 else tget 0 paths k := by
  unfold Pending.uncounted
  cases p.path with
  | none => simp
  | some j =>
    rw [tget_tset]
    by_cases h : k = j
    · subst h; simp
    · simp [h, Ne.symm h]

/-- A group in which the `i`th write on its way has landed; `w` is the status it is left in. -/
def Group.landed (g : Group) (p : Pending) (i : Nat) (w : GStatus) : Group :=
  { g with
    r := p.dests.foldl Regs.deliver g.r
    y := { g.y with
      pend := g.y.pend.eraseIdx i
      errs := g.y.errs ++ p.errs
      paths := p.uncounted g.y.paths
      status := w } }

theorem flag_eq (y : GSync) (p : Pending) : y.flag p.dests p.err = { y with errs := y.errs ++ p.errs } := by
  unfold GSync.flag Pending.errs
  cases p.err <;> simp

theorem deliverTo_grp (s : State) (gk : Nat) (p : Pending) :
    ∃ w, (s.deliverTo gk p.dests p.err).grp gk =
      { s.grp gk with
        r := p.dests.foldl Regs.deliver (s.grp gk).r
        y := { (s.grp gk).y with errs := (s.grp gk).y.errs ++ p.errs, status := w } } := by
  unfold State.deliverTo
  obtain ⟨w, hw⟩ := poke_grp
    (s.modGrp gk (fun g => { g with r := p.dests.foldl Regs.deliver g.r, y := g.y.flag p.dests p.err })) gk
  rw [State.modGrp_grp, flag_eq] at hw
  exact ⟨w, hw⟩

theorem decPath_grp (s : State) (gk k : Nat) :
    ∃ w, (s.decPath gk k).grp gk =
      { s.grp gk with
        y := { (s.grp gk).y with
          paths := tset 0 (s.grp gk).y.paths k (tget 0 (s.grp gk).y.paths k - 1)
          status := w } } := by
  unfold State.decPath
  obtain ⟨w, hw⟩ := poke_grp (s.modGrp gk (fun g => { g with y := g.y.setPath k (g.y.path k - 1) })) gk
  rw [State.modGrp_grp] at hw
  exact ⟨w, hw⟩

/-- What the landing of a write on its way leaves behind. -/
theorem deliver_landed {s : State} {gk i : Nat} {p : Pending} (h : (s.grp gk).y.pend[i]? = some p) :
    GroupOnly gk s (s.deliver gk i) ∧ ∃ w, (s.deliver gk i).grp gk = (s.grp gk).landed p i w := by
  unfold State.deliver
  rw [h]
  dsimp only
  have h1 := groupOnly_modGrp s gk (fun g => { g with y := { g.y with pend := g.y.pend.eraseIdx i } })
  have hg1 := s.modGrp_grp gk (fun g => { g with y := { g.y with pend := g.y.pend.eraseIdx i } })
  generalize s.modGrp gk (fun g => { g with y := { g.y with pend := g.y.pend.eraseIdx i } }) = s1 at h1 hg1 ⊢
  have h2 : GroupOnly gk s1 (s1.deliverTo gk p.dests p.err) := (groupOnly_modGrp ..).trans (groupOnly_poke ..)
  obtain ⟨w, hg2⟩ := deliverTo_grp s1 gk p
  generalize s1.deliverTo gk p.dests p.err = s2 at h2 hg2 ⊢
  rw [hg1] at hg2
  cases hp : p.path with
  | none => exact ⟨h1.trans h2, w, by rw [hg2, Group.landed, Pending.uncounted, hp]⟩
  | some k =>
    have h3 : GroupOnly gk s2 (s2.decPath gk k) := (groupOnly_modGrp ..).trans (groupOnly_poke ..)
    obtain ⟨v, hg3⟩ := decPath_grp s2 gk k
    rw [hg2] at hg3
    exact ⟨(h1.trans h2).trans h3, v, by rw [hg3, Group.landed, Pending.uncounted, hp]⟩

theorem deliver_of_none {s : State} {gk i : Nat} (h : (s.grp gk).y.pend.length ≤ i) : s.deliver gk i = s := by
  unfold State.deliver
  rw [List.getElem?_eq_none h]

/-! The registers. -/

theorem emptyV_markV (r : Regs) (n m : Nat) (e : Bool) (hm : m < 128) :
    (r.markV n e).vEmpty.getLsbD m = if m = n then e else r.vEmpty.getLsbD m := by
  unfold Regs.markV
  by_cases h : m = n
  · subst h; cases e <;> simp [hm]
  · cases e <;> simp [hm, h]

theorem getV_markV (r : Regs) (n m k : Nat) (e : Bool) : (r.markV n e).getV m k = r.getV m k := rfl

/-- The writes of consecutive V registers from `d` up, under a mask. -/
def vBlock (d : Nat) (mask : BitVec 16) (vals : List (List W32)) : List Dest :=
  vals.zipIdx.map (fun v => Dest.v (d + v.2) mask v.1)

theorem vBlock_cons (d : Nat) (mask : BitVec 16) (x : List W32) (vals : List (List W32)) :
    vBlock d mask (x :: vals) = Dest.v d mask x :: vBlock (d + 1) mask vals := by
  unfold vBlock
  rw [List.zipIdx_cons', List.map_cons, List.map_map]
  simp [Function.comp_def, Nat.add_assoc, Nat.add_comm 1]

/-- V registers written by their producer: the lanes of the mask take their values. -/
theorem deliver_vBlock_getV (mask : BitVec 16) (vals : List (List W32)) (d : Nat) (r : Regs) (q k : Nat) (hk : k < 16) :
    ((vBlock d mask vals).foldl Regs.deliver r).getV q k =
      if d ≤ q ∧ q < d + vals.length ∧ mask.getLsbD k = true then (vals.getD (q - d) []).getD k 0 else r.getV q k := by
  induction vals generalizing d r with
  | nil => exact (if_neg (by simp; omega)).symm
  | cons x vals ih =>
    have hw : (r.deliver (.v d mask x)).getV q k = if q = d ∧ mask.getLsbD k = true then x.getD k 0 else r.getV q k := by
      rw [Regs.deliver, getV_markV, Regs.writeV_getV _ _ _ _ _ _ hk]
    rw [vBlock_cons, List.foldl_cons, ih, hw]
    by_cases hm : mask.getLsbD k = true
    · rcases Nat.lt_trichotomy q d with h | h | h
      · simp [hm, show ¬ d + 1 ≤ q by omega, show ¬ d ≤ q by omega, show q ≠ d by omega]
      · subst h; simp [hm]
      · obtain ⟨j, rfl⟩ := Nat.exists_eq_add_of_lt h
        simp [hm, show d + j + 1 - d = j + 1 by omega, show d + j + 1 - (d + 1) = j by omega,
          show d ≤ d + j + 1 by omega, show d + j + 1 ≠ d by omega,
          show (d + j + 1 < d + 1 + vals.length ↔ j < vals.length) by omega,
          show (d + j + 1 < d + (vals.length + 1) ↔ j < vals.length) by omega]
    · simp [hm]

theorem deliver_vBlock_vEmpty (mask : BitVec 16) (vals : List (List W32)) (d : Nat) (r : Regs) (q : Nat) (hq : q < 128) :
    ((vBlock d mask vals).foldl Regs.deliver r).vEmpty.getLsbD q =
      if d ≤ q ∧ q < d + vals.length then false else r.vEmpty.getLsbD q := by
  induction vals generalizing d r with
  | nil => exact (if_neg (by simp)).symm
  | cons x vals ih =>
    have hw : (r.deliver (.v d mask x)).vEmpty.getLsbD q = if q = d then false else r.vEmpty.getLsbD q := by
      rw [Regs.deliver, emptyV_markV _ _ _ _ hq, Regs.writeV_vEmpty]
    rw [vBlock_cons, List.foldl_cons, ih, hw, List.length_cons]
    rcases Nat.lt_trichotomy q d with h | rfl | h
    · simp [show ¬ d + 1 ≤ q by omega, show ¬ d ≤ q by omega, show q ≠ d by omega]
    · simp
    · simp [show d + 1 ≤ q by omega, show d ≤ q by omega, show q ≠ d by omega,
        show (q < d + 1 + vals.length ↔ q < d + (vals.length + 1)) by omega]

theorem deliver_vBlock_rest (mask : BitVec 16) (vals : List (List W32)) (d : Nat) (r : Regs) :
    { (vBlock d mask vals).foldl Regs.deliver r with v := [], vEmpty := 0 } = { r with v := [], vEmpty := 0 } := by
  induction vals generalizing d r with
  | nil => rfl
  | cons x vals ih =>
    rw [vBlock_cons, List.foldl_cons, ih]
    simp [Regs.deliver]

/-- The uniform register written by its producer holds the value and is full. -/
theorem deliver_g (r : Regs) (n : Nat) (v : W32) :
    (∀ q, (r.deliver (.g n v)).getG q = if q = n then v else r.getG q) ∧
      (∀ q, (r.deliver (.g n v)).emptyG q = if q = n then false else r.emptyG q) ∧
      { r.deliver (.g n v) with g := [], hg := [], gEmpty := 0 } = { r with g := [], hg := [], gEmpty := 0 } := by
  refine ⟨fun q => ?_, fun q => ?_, ?_⟩
  · have hm : (r.deliver (.g n v)).getG q = (r.setG n v).getG q := by simp [Regs.deliver, Regs.getG]
    exact hm.trans (Regs.getG_setG ..)
  · have he : (r.setG n v).emptyG q = r.emptyG q := by simp [Regs.emptyG]
    rw [Regs.deliver, emptyG_markG, he]
    by_cases hq : q < 64
    · simp [hq]
    · simp [hq, Regs.emptyG]
  · exact (congrArg (fun (x : Regs) => { x with g := [], hg := [] }) (markG_rest (r.setG n v) n false) :).trans
      (congrArg (fun (x : Regs) => { x with gEmpty := 0 }) (setG_rest r n v) :)

end Sys2Proof.Machine

namespace Sys2Proof.Claims

open Sys2Proof.Machine

/-- Beside the registers, what the landing of `p` from between `l` and `rest` leaves: the write is off the list and its
path, its error is kept for a reader, and nothing else has changed. -/
def Arrived (s t : State) (gk : Nat) (l rest : List Pending) (p : Pending) : Prop :=
  (t.grp gk).sys = (s.grp gk).sys ∧ (t.grp gk).y.pend = l ++ rest ∧
  (∀ k, (t.grp gk).y.path k = if p.path = some k then (s.grp gk).y.path k - 1 else (s.grp gk).y.path k) ∧
  (t.grp gk).y.errs = (s.grp gk).y.errs ++ p.errs ∧
  { (t.grp gk).y with pend := [], paths := [], errs := [], status := .ready } =
    { (s.grp gk).y with pend := [], paths := [], errs := [], status := .ready } ∧
  (t.grp gk).s0 = (s.grp gk).s0 ∧ (t.grp gk).s1 = (s.grp gk).s1 ∧
  (∀ k, k ≠ gk → t.grp k = s.grp k) ∧ { t with groups := [] } = { s with groups := [] }

/-- LONG_LATENCY_WRITE of a write that stands in the list. -/
theorem longLatencyWrite_arrives {s : State} {gk : Nat} {l rest : List Pending} {p : Pending}
    (h : (s.grp gk).y.pend = l ++ p :: rest) :
    ∃ t, exec (.longLatencyWrite gk l.length) s = .next t ∧ Arrived s t gk l rest p ∧
      (t.grp gk).r = p.dests.foldl Regs.deliver (s.grp gk).r := by
  obtain ⟨⟨hrest, hothers⟩, w, hg⟩ := deliver_landed (s := s) (gk := gk) (i := l.length) (p := p) (by rw [h]; simp)
  refine ⟨s.deliver gk l.length, rfl, ?_, by rw [hg]; rfl⟩
  unfold Arrived
  rw [hg]
  refine ⟨rfl, ?_, fun k => tget_uncounted p _ k, rfl, rfl, rfl, rfl, hothers, hrest⟩
  show (s.grp gk).y.pend.eraseIdx l.length = l ++ rest
  rw [h, List.eraseIdx_append_of_length_le le_rfl, Nat.sub_self, List.eraseIdx_cons_zero]

/-- Settles O16: the landing beside the registers, and the registers of each of the two shapes of a write. -/
theorem longLatencyLands : Obligations.LongLatencyLands := by
  refine ⟨fun s gk d mask vals p l rest _ hp h => ?_, fun s gk r v p l rest _ hp h => ?_,
    fun s gk i h => congrArg Host.Outcome.next (deliver_of_none h)⟩
  · obtain ⟨t, ht, harr, hr⟩ := longLatencyWrite_arrives h
    rw [show p.dests = vBlock d mask vals from hp] at hr
    refine ⟨t, ht, harr, ?_⟩
    rw [hr]
    exact ⟨fun q k => deliver_vBlock_getV mask vals d _ q k, fun q => deliver_vBlock_vEmpty mask vals d _ q,
      deliver_vBlock_rest mask vals d _⟩
  · obtain ⟨t, ht, harr, hr⟩ := longLatencyWrite_arrives h
    rw [hp] at hr
    refine ⟨t, ht, harr, ?_⟩
    rw [hr]
    exact deliver_g _ r v

end Sys2Proof.Claims
end

section
/-! Empty registers (05 R112, R113; O20): what readiness says of them, an instruction that they hold up, and the
instructions whose sources and destination a statement names. -/

namespace Sys2Proof.Machine

open Sys2Proof.Claims Sys2Proof.Safety

/-! A change of the current group alone keeps what the group belongs to. -/

theorem Only.l {s y : State} (h : Only s y) : y.l = s.l := by
  have hl : y.launches = s.launches := (congrArg State.launches h.1 :)
  show y.launch y.t.launch = s.launch s.t.launch
  rw [h.t, State.launch, State.launch, hl]

theorem Only.x {s y : State} (h : Only s y) : y.x = s.x := by
  have hc : y.ctxs = s.ctxs := (congrArg State.ctxs h.1 :)
  show y.ctx y.t.ctx = s.ctx s.t.ctx
  rw [h.t, State.ctx, State.ctx, hc]

/-- EXM set to what it is, as a refused instruction sets it (06 R135). -/
def State.reExm (s : State) : State := s.modR (fun r => { r with exm := s.g.r.exm })

theorem only_reExm (s : State) : Only s s.reExm := only_modG s _

theorem reExm_g (s : State) : s.reExm.g = s.g := s.modG_g _

theorem registersOnly_of_same {s y : State} (h : Only s y) (hg : y.g = s.g) : RegistersOnly [] s y := by
  unfold RegistersOnly GroupKept NothingSent
  rw [hg]
  exact ⟨h.outside [], h.2, ⟨rfl, fun _ _ => ⟨rfl, rfl⟩, fun _ => rfl, rfl, rfl, rfl, rfl, rfl⟩, rfl, rfl⟩

theorem entered_of_same {s y t : State} {cause sub : Nat} {val epc : W64} {mask exm : BitVec 16} (h : Only s y)
    (hg : y.g = s.g) (ht : Entered [] y t cause sub val mask exm epc) : Entered [] s t cause sub val mask exm epc := by
  unfold Entered at ht ⊢
  rw [hg, h.l, h.x] at ht
  exact ⟨registersOnly_trans (registersOnly_of_same h hg) ht.1 h.cur, ht.2⟩

/-! Readiness of an instruction with an empty register. -/

theorem ready_emptyDest {s : State} {d : DReg} (sels : List Sel) (h : s.destEmpty d = true) :
    s.ready sels [d] = .error (.block .short s) := by
  simp [State.ready, h]

theorem ready_emptySource {s : State} {d : DReg} {sels : List Sel} {x : Sel} (hd : s.destEmpty d = false)
    (hx : sels.find? (fun a => s.srcEmpty a.src) = some x) :
    s.ready sels [d] = if x.t then .error (.trap (Trap.mk2 4 (BitVec.ofNat 64 x.code)) s)
      else .error (.block (s.waitOf x.src) s) := by
  simp [State.ready, hd, hx]

/-! What becomes of it. -/

/-- The group at issue waits, with its registers, streams, counters and everything outside it as they were. -/
def HeldUp (s t : State) (w : Wait) : Prop :=
  Outside [] s t ∧ OthersKept s t ∧ t.g.r = s.g.r ∧ t.g.sys = s.g.sys ∧ t.g.s0 = s.g.s0 ∧ t.g.s1 = s.g.s1 ∧
    t.g.y.paths = s.g.y.paths ∧ t.g.y.q3 = s.g.y.q3 ∧ t.g.y.status = .waiting w

theorem sysRegs_ext_clkh {a b : SysRegs} (h : { a with clkh := 0 } = { b with clkh := 0 }) (hc : a.clkh = b.clkh) :
    a = b :=
  (congrArg (fun (z : SysRegs) => { z with clkh := a.clkh }) h :).trans (by rw [hc])

/-- Is a wait one of the four that are a sleep in Invar mode (15 R404)? -/
def Wait.sleeps (w : Wait) : Bool := w == .barrier || w == .cluster || w == .object || w == .monitor

theorem wait_heldUp {s y : State} (h : Only s y) (hg : y.g = s.g) {w : Wait} (hw : w.sleeps = false) :
    HeldUp s (y.wait w) w := by
  obtain ⟨⟨hr, hsys, hclk, hstr, hsent, hq3, hst⟩, hoth, hout⟩ := wait_waits y w hw []
  rw [hg] at hr hsys hclk hstr hq3
  obtain ⟨h0, h1⟩ := hstr (by simp) (by simp)
  have hp : (y.wait w).g.y.paths = s.g.y.paths := hsent.1.trans (by rw [hg])
  exact ⟨by simpa using outside_trans (h.outside []) hout, othersKept_trans h.2 hoth h.cur, hr,
    sysRegs_ext_clkh hsys (hclk (by simp)), h0, h1, hp, hq3 (by simp), hst⟩

theorem waitOf_sleeps (s : State) (x : Src) : (s.waitOf x).sleeps = false := by
  unfold State.waitOf
  cases x with
  | q n => dsimp only; split <;> rfl
  | v _ | g _ | const _ | special _ => dsimp only; split <;> rfl

/-- An instruction that readiness blocks waits. -/
theorem run_blocked {len : Nat} {s : State} {sels : List Sel} {dests : List DReg} {w : Wait} (body : State → Res)
    (hr : s.ready sels dests = .error (.block w s)) (hw : w.sleeps = false) :
    ∃ t, run len s sels dests body = .next t ∧ HeldUp s t w := by
  refine ⟨s.reExm.wait w, ?_, wait_heldUp (only_reExm s) (reExm_g s) hw⟩
  rw [run, hr]
  rfl

/-- An instruction that readiness refuses enters the handler. -/
theorem run_refused {len : Nat} {s : State} {sels : List Sel} {dests : List DReg} {t : Trap} (body : State → Res)
    (hr : s.ready sels dests = .error (.trap t s)) (he : Enters s) (h18 : t.cause ≠ 0x18) (h1a : t.cause ≠ 0x1A)
    (h1b : t.cause ≠ 0x1B) :
    ∃ v, run len s sels dests body = .next v ∧ Entered [] s v t.cause t.sub t.val t.mask s.g.r.exm s.g.r.pc := by
  have hey : Enters s.reExm := by
    obtain ⟨hm, hdbg, hu⟩ := he
    have hx : s.reExm.ctxG s.reExm.cur = s.ctxG s.cur := (only_reExm s).x
    unfold Enters
    rw [reExm_g, hx]
    exact ⟨hm, hdbg, hu⟩
  have hrun : run len s sels dests body =
      .next ((s.reExm.turnDone s.reExm.cur).trapGrp s.reExm.cur s.reExm.g.r.pc t) := by
    rw [run, hr]
    rfl
  have hv := entered_of_same (only_reExm s) (reExm_g s) (entered_turnDone hey t h18 h1a h1b)
  rw [reExm_g] at hrun hv
  exact ⟨_, hrun, hv⟩

/-! The instructions that the statement names, as runs of their sources into their destination. -/

theorem exec_intLane {i : Instr} {d : BitVec 7} {sels : List Sel} {val : State → Nat → W32}
    (h : intLane i = some (d, sels, val)) (s : State) : ∃ body, exec i s = run 4 s sels [.v d.toNat] body := by
  unfold intLane at h
  extract_lets at h
  split at h
  all_goals cases h
  all_goals exact ⟨_, rfl⟩

theorem exec_fltLane {i : Instr} {d : BitVec 7} {sels : List Sel} {mode : State → Option RMode}
    {f : State → RMode → Nat → Nat → FRes} (h : fltLane i = some (d, sels, mode, f)) (s : State) :
    ∃ body, exec i s = run 4 s sels [.v d.toNat] body := by
  unfold fltLane at h
  dsimp only at h
  split at h
  all_goals cases h
  all_goals exact ⟨_, rfl⟩

theorem uniSels_eq (b : UOpd) : uniSels b = b.sels := by cases b <;> rfl

theorem uniBytes_eq (b : UOpd) : uniBytes b = uLen b := by cases b <;> rfl

theorem exec_uniWrite {i : Instr} {d : BitVec 6} {sels : List Sel} {len : Nat} {val : State → W32}
    (h : uniWrite i = some (d, sels, len, val)) (s : State) : ∃ body, exec i s = run len s sels [.g (uniReg s d)] body := by
  rw [← gn_eq_uniReg]
  unfold uniWrite at h
  extract_lets at h
  simp only [uniSels_eq, uniBytes_eq] at h
  split at h
  all_goals cases h
  all_goals exact ⟨_, rfl⟩

/-- An instruction whose one destination is empty waits, whatever its sources hold (R113). -/
theorem run_emptyDest {len : Nat} {s : State} {d : DReg} (sels : List Sel) (body : State → Res) (h : s.destEmpty d = true) :
    ∃ t, run len s sels [d] body = .next t ∧ HeldUp s t .short :=
  run_blocked body (ready_emptyDest sels h) rfl

/-- An instruction with an empty source (R112): the first in field order decides between trap and wait. -/
theorem run_emptySource {len : Nat} {s : State} {d : DReg} {sels : List Sel} {x : Sel} (body : State → Res)
    (hd : s.destEmpty d = false) (hx : sels.find? (fun a => s.srcEmpty a.src) = some x) :
    (x.t = true → Enters s → ∃ t, run len s sels [d] body = .next t ∧
      Entered [] s t 4 0 (BitVec.ofNat 64 (x.src.code + 256)) 0 s.g.r.exm s.g.r.pc) ∧
    (x.t = false → ∃ t, run len s sels [d] body = .next t ∧ HeldUp s t (s.waitOf x.src)) := by
  have hr := ready_emptySource hd hx
  constructor
  · intro ht he
    have hc : x.code = x.src.code + 256 := by simp [Sel.code, ht]
    rw [if_pos ht, hc] at hr
    obtain ⟨v, hv, hent⟩ := run_refused (len := len) body hr he (by simp [Trap.mk2]) (by simp [Trap.mk2])
      (by simp [Trap.mk2])
    exact ⟨v, hv, hent⟩
  · intro ht
    rw [if_neg (by simp [ht])] at hr
    exact run_blocked body hr (waitOf_sleeps s x.src)

theorem destEmpty_uni (s : State) (n : Nat) : s.destEmpty (.g n) = (decide (n < 64) && s.g.r.gEmpty.getLsbD n) := rfl

/-- Each instruction that the statement names is a run of its sources into one destination, empty or not. -/
theorem exec_named {i : Instr} {sels : List Sel} {s : State} {e : Bool}
    (h : (∃ d val, intLane i = some (d, sels, val) ∧ s.destEmpty (.v d.toNat) = e) ∨
      (∃ d mode f, fltLane i = some (d, sels, mode, f) ∧ s.destEmpty (.v d.toNat) = e) ∨
      (∃ d len val, uniWrite i = some (d, sels, len, val) ∧ s.destEmpty (.g (uniReg s d)) = e)) :
    ∃ len d body, exec i s = run len s sels [d] body ∧ s.destEmpty d = e := by
  rcases h with ⟨d, val, hi, hd⟩ | ⟨d, mode, f, hi, hd⟩ | ⟨d, len, val, hi, hd⟩
  · obtain ⟨body, he⟩ := exec_intLane hi s
    exact ⟨4, _, body, he, hd⟩
  · obtain ⟨body, he⟩ := exec_fltLane hi s
    exact ⟨4, _, body, he, hd⟩
  · obtain ⟨body, he⟩ := exec_uniWrite hi s
    exact ⟨len, _, body, he, hd⟩

end Sys2Proof.Machine

namespace Sys2Proof.Claims

open Sys2Proof.Machine

/-- Settles O20: each instruction named is a run of its sources into one destination, which an empty register holds up. -/
theorem emptyRegisters : Obligations.EmptyRegisters := by
  refine ⟨fun i sels s hi x hx => ?_, fun i sels s hi => ?_⟩
  · have full : ∀ n, 64 ≤ n ∨ s.g.r.gEmpty.getLsbD n = false → s.destEmpty (.g n) = false := fun n hn => by
      rw [destEmpty_uni]
      rcases hn with hn | hn
      · rw [decide_eq_false (by omega), Bool.false_and]
      · rw [hn, Bool.and_false]
    obtain ⟨len, d, body, he, hd⟩ := exec_named (e := false)
      (hi.imp_right (Or.imp_right fun ⟨d, len, val, h, hn⟩ => ⟨d, len, val, h, full _ hn⟩))
    obtain ⟨htrap, hwait⟩ := run_emptySource (len := len) body hd hx
    rw [he]
    refine ⟨htrap, fun ht => ?_⟩
    obtain ⟨t, hrun, hout, hoth, hr, hsys, h0, h1, hpaths, hq3, hst⟩ := hwait ht
    exact ⟨t, hrun, hout, hoth, hr, hsys, h0, h1, hpaths, hq3, _, hst⟩
  · have empty : ∀ n, n < 64 → s.g.r.gEmpty.getLsbD n = true → s.destEmpty (.g n) = true := fun n hn he => by
      rw [destEmpty_uni, decide_eq_true hn, he, Bool.true_and]
    obtain ⟨len, d, body, he, hd⟩ := exec_named (e := true)
      (hi.imp_right (Or.imp_right fun ⟨d, len, val, h, hn, he⟩ => ⟨d, len, val, h, empty _ hn he⟩))
    rw [he]
    exact run_emptyDest sels body hd

end Sys2Proof.Claims
end

section
/-! The end of an instruction that retires: what its sources adopt, what its pops leave, and an instruction that writes one
uniform register (14 R350). -/

namespace Sys2Proof.Machine

open Sys2Proof.Claims Sys2Proof.Safety

/-! Sources that adopt no mask. -/

theorem srcFault_same {s y : State} {a : Src} (h : s.srcFault a = .ok y) (h0 : a ≠ .q 0) (h1 : a ≠ .q 1) : y = s := by
  unfold State.srcFault at h
  split at h
  · cases h; rfl
  · cases a with
    | q n =>
      have hn : ∀ n : BitVec 2, Src.q n ≠ .q 0 → Src.q n ≠ .q 1 → n = 2 ∨ n = 3 := by decide
      rcases hn n h0 h1 with rfl | rfl
      · change (if _ then _ else Except.ok s) = _ at h
        split at h
        · cases h
        · cases h; rfl
      · cases h; rfl
    | v _ | g _ | const _ | special _ =>
      simp only at h
      split at h
      · cases h
      · cases h; rfl

theorem srcFaults_same {l : List Src} {s y : State} (h : s.srcFaults l = .ok y) (h0 : .q 0 ∉ l) (h1 : .q 1 ∉ l) :
    y = s := by
  induction l generalizing s with
  | nil => cases h; rfl
  | cons a l ih =>
    rw [List.mem_cons, not_or] at h0 h1
    unfold State.srcFaults at h
    split at h
    · cases h
    · next z hz =>
      cases srcFault_same hz (Ne.symm h0.1) (Ne.symm h1.1)
      exact ih h h0.2 h1.2

/-- An instruction that reads no replayed stream runs on the state that it meets (10 R260). -/
theorem ready_same {s x : State} {sels : List Sel} {dests : List DReg} (h : s.ready sels dests = .ok x)
    (h0 : .q 0 ∉ sels.map (fun a => a.src)) (h1 : .q 1 ∉ sels.map (fun a => a.src)) : x = s := by
  unfold State.ready at h
  split at h
  · cases h
  · split at h
    · split at h <;> cases h
    · split at h
      · cases h
      · exact srcFaults_same h h0 h1

/-! What the pops and the retirement of an instruction leave of the state that its body leaves. -/

/-- The end of an instruction of `len` bytes with sources `l` whose body leaves `y`. -/
def State.ended (y : State) (l : List Src) (len : Nat) : State :=
  (y.popSrcs l).retireG ((y.popSrcs l).g.r.pc + BitVec.ofNat 64 len)

theorem ended_frame (y : State) (l : List Src) (len : Nat) :
    RegistersOnly l y (y.ended l len) ∧ (y.ended l len).cur = y.cur ∧
      (y.ended l len).g.r = { y.g.r with pc := y.g.r.pc + BitVec.ofNat 64 len } ∧
      { (y.ended l len).g.sys with clkh := 0 } = { y.g.sys with clkh := 0 } ∧
      (.special 7 ∉ l → (y.ended l len).g.sys.clkh = y.g.sys.clkh) := by
  have hp := popSrcs_popped l y
  obtain ⟨hpo, hpk, hpg, hpn⟩ := hp.frame
  obtain ⟨hout, hoth, hcur, hg⟩ := retireG_frame (y.popSrcs l) ((y.popSrcs l).g.r.pc + BitVec.ofNat 64 len)
  rw [← State.ended] at hout hoth hcur hg
  unfold RegistersOnly GroupKept NothingSent
  rw [hg]
  refine ⟨⟨by simpa using outside_trans hpo hout, othersKept_trans hpk hoth hp.cur, hpg, hpn⟩, hcur.trans hp.cur, ?_,
    hp.sys, hp.clkh⟩
  rw [← hp.r]
  rfl

/-- An instruction that writes one uniform register and does nothing else (14 R350). -/
theorem run_uniDone {len : Nat} {s x : State} {sels : List Sel} {d : BitVec 6} {v : W32} {body : State → Res}
    (hr : Runs s sels [.g (uniReg s d)] x) (hb : body x = .ok (x.setU (x.gn d) v)) :
    ∃ t, run len s sels [s.dg d] body = .next t ∧ UniDone (sels.map (fun a => a.src)) s x t len d v := by
  obtain ⟨hready, harm⟩ := hr
  rw [← gn_eq_uniReg] at hready
  obtain ⟨ha, -, -⟩ := ready_ok hready
  have hgn : x.gn d = uniReg s d := by
    rw [← gn_eq_uniReg, State.gn, State.gn, ha.g]
    rfl
  rw [hgn] at hb
  have hyg : (x.setU (uniReg s d) v).g =
      { s.g with
        r := { s.g.r with exm := x.g.r.exm }.setG (uniReg s d) v
        y := s.g.y.unflag (.g (uniReg s d)) } := by
    rw [State.setU, State.modG_g, ha.g]
  have hya : (x.setU (uniReg s d) v).g.y.stepArmed = false := by rw [hyg]; exact harm
  obtain ⟨t, ht, hout, hoth, -, hrt, hsys, hclk, hkept, hsent, -, -⟩ :=
    run_only (len := len) hready hb (only_modG _ _) hya
  unfold GroupKept at hkept
  unfold NothingSent at hsent
  rw [hyg] at hrt hsys hclk hkept hsent
  refine ⟨t, ht, ⟨hout, hoth, hkept, hsent⟩, ⟨?_, hclk⟩, ?_, ?_, fun h0 h1 => ?_, fun n => ?_, ?_⟩
  · exact (congrArg (fun (z : SysRegs) => { z with fpflags := 0, srcnt := 0 }) hsys :)
  · exact (congrArg SysRegs.fpflags hsys :)
  · exact (congrArg SysRegs.srcnt hsys :)
  · rw [ready_same hready h0 h1]
  · rw [hrt]
    exact Regs.getG_setG { s.g.r with exm := x.g.r.exm } (uniReg s d) n v
  · rw [hrt]
    have h := setG_rest { s.g.r with exm := x.g.r.exm } (uniReg s d) v
    simp only [Regs.setG_pc]
    exact (congrArg (fun (r : Regs) => { r with pc := s.g.r.pc + BitVec.ofNat 64 len }) h :)

end Sys2Proof.Machine
end

section
/-! System registers (05 R116 to R119; 16 R409; O10): their values by number, who may name them, and a write. -/

namespace Sys2Proof.Machine

open Sys2Proof.Claims Sys2Proof.Safety

/-! Words of registers. -/

theorem getLsbD_words (a b : W32) (i : Nat) :
    (a ++ b : W64).getLsbD i = if i < 32 then b.getLsbD i else a.getLsbD (i - 32) := BitVec.getLsbD_append

theorem getLsbD_image (a : BitVec 20) (b : W32) (i : Nat) :
    (a ++ b : BitVec 52).getLsbD i = if i < 32 then b.getLsbD i else a.getLsbD (i - 32) := BitVec.getLsbD_append

theorem lo_setWordHalf (c : W64) (hi : Bool) (v : W32) :
    (setWordHalf c hi v).truncate 32 = if hi then (c.truncate 32 : W32) else v := by
  cases hi <;> ext i h <;> simp [setWordHalf, getLsbD_words, h]

theorem hi_setWordHalf (c : W64) (hi : Bool) (v : W32) :
    (setWordHalf c hi v >>> 32).truncate 32 = if hi then v else ((c >>> 32).truncate 32 : W32) := by
  cases hi <;> ext i h <;> simp [setWordHalf, getLsbD_words, h]

theorem wordHalf_eq (c : W64) (hi : Bool) :
    wordHalf c hi = if hi then ((c >>> 32).truncate 32 : W32) else c.truncate 32 := by
  cases hi <;> ext i h <;> simp [wordHalf]

theorem lo_image (a : BitVec 20) (b : W32) : ((a ++ b : BitVec 52).setWidth 32 : W32) = b := by
  ext i h
  simp [getLsbD_image, h]

theorem hi_image (a : BitVec 20) (b : W32) : (((a ++ b : BitVec 52) >>> 32).setWidth 32 : W32) = a.setWidth 32 := by
  ext i h
  simp [getLsbD_image]

theorem setWidth_extract_image (a : BitVec 52) : ((a.extractLsb' 32 20).setWidth 32 : W32) = (a >>> 32).setWidth 32 := by
  ext i h
  simp only [BitVec.getElem_setWidth, BitVec.getLsbD_extractLsb', BitVec.getLsbD_ushiftRight]
  by_cases hb : i < 20
  · simp [hb]
  · simp [hb, BitVec.getLsbD_of_ge a (32 + i) (by omega)]

/-- The low bits of a word, extended again. -/
theorem setWidth_low (v : W32) (n : Nat) (hn : n ≤ 32) :
    (v.setWidth n).setWidth 32 = v &&& BitVec.ofNat 32 (2 ^ n - 1) := by
  have hp : 2 ^ n ≤ 2 ^ 32 := Nat.pow_le_pow_right (by omega) hn
  have h0 : 0 < 2 ^ n := Nat.two_pow_pos n
  apply BitVec.eq_of_toNat_eq
  rw [BitVec.toNat_and, BitVec.toNat_ofNat, Nat.mod_eq_of_lt (by omega), Nat.and_two_pow_sub_one_eq_mod,
    BitVec.toNat_setWidth, BitVec.toNat_setWidth, Nat.mod_eq_of_lt ((Nat.mod_lt _ h0).trans_le hp)]

theorem setWidth_low2 (v : W32) : (v.setWidth 2).setWidth 32 = v &&& 0x3 := setWidth_low v 2 (by omega)
theorem setWidth_low16 (v : W32) : (v.setWidth 16).setWidth 32 = v &&& 0xFFFF := setWidth_low v 16 (by omega)
theorem setWidth_low20 (v : W32) : (v.setWidth 20).setWidth 32 = v &&& 0xFFFFF := setWidth_low v 20 (by omega)

theorem and_two (v : W32) : v &&& 2#32 = if v.getLsbD 1 then 2 else 0 := BitVec.and_twoPow v 1

theorem fieldOf_low3 (v : W32) : fieldOf v.toNat 0 3 = v.toNat &&& 7 := by
  have h := Nat.and_two_pow_sub_one_eq_mod v.toNat 3
  simpa [fieldOf] using h.symm

/-! The list of system registers, of the parts of the state that they stand in. -/

/-- TSTAT (16 R411). -/
def statWord (hm ss : Bool) : W32 := (if hm then 1 else 0) + (if ss then 2 else 0)

/-- The context's number with its privilege (16 R409). -/
def ctxWord (sup : Bool) (n : Nat) : W32 := BitVec.ofNat 32 ((if sup then 65536 else 0) + n % 65536)

theorem statWord_eq (hm ss : Bool) : BitVec.ofNat 32 (2 * ss.toNat + hm.toNat) = statWord hm ss := by
  cases hm <;> cases ss <;> rfl

theorem ctxWord_eq (sup : Bool) (n : Nat) : BitVec.ofNat 32 (sup.toNat * 65536 + n % 65536) = ctxWord sup n := by
  cases sup <;> rfl

/-- The system registers of a group with registers `y`, in the context `c` of number `n`. -/
def sysList (y : SysRegs) (c : Ctx) (n : Nat) : List (Nat × W32) :=
  let lo := fun (v : W64) => (v.truncate 32 : W32)
  let hi := fun (v : W64) => ((v >>> 32).truncate 32 : W32)
  [(0x000, y.fpflags), (0x001, y.rmode), (0x002, y.srkey), (0x003, y.srcnt),
   (0x100, lo c.tvec), (0x101, hi c.tvec), (0x102, y.tcause), (0x103, y.tepc), (0x104, lo y.taddr), (0x105, hi y.taddr),
   (0x106, y.tmask.zeroExtend 32), (0x107, y.texm.zeroExtend 32), (0x10C, statWord y.hm y.ss),
   (0x110, ctxWord c.sup n), (0x111, c.asid.zeroExtend 32),
   (0x112, lo c.vtbase), (0x113, hi c.vtbase), (0x114, lo c.tcbbase), (0x115, hi c.tcbbase), (0x116, lo c.ctbase),
   (0x117, hi c.ctbase), (0x118, lo c.qtbase), (0x119, hi c.qtbase), (0x11A, c.fjob.zeroExtend 32),
   (0x11B, c.dbg.zeroExtend 32), (0x120, y.accxfer), (0x121, y.accimg.truncate 32), (0x122, (y.accimg >>> 32).truncate 32)]

theorem sysRegs_eq (x : State) : sysRegs x = sysList x.g.sys x.x x.t.ctx := rfl

theorem statWord_write (hm ss : Bool) (w : W32) : (statWord hm ss &&& 1#32) ||| (w &&& 2#32) = statWord hm w[1] := by
  rw [and_two, BitVec.getLsbD_eq_getElem (by omega)]
  cases hm <;> cases ss <;> cases w[1] <;> rfl

@[simp] theorem modSys_sys (x : State) (f : SysRegs → SysRegs) : (x.modSys f).g.sys = f x.g.sys := by
  rw [State.modSys_eq, State.modG_g]
@[simp] theorem modSys_x (x : State) (f : SysRegs → SysRegs) : (x.modSys f).x = x.x := rfl
@[simp] theorem modSys_t (x : State) (f : SysRegs → SysRegs) : (x.modSys f).t = x.t := rfl
@[simp] theorem modX_g (x : State) (f : Ctx → Ctx) : (x.modX f).g = x.g := rfl
@[simp] theorem modX_x (x : State) (f : Ctx → Ctx) : (x.modX f).x = f x.x := State.modCtx_ctx ..
@[simp] theorem modX_t (x : State) (f : Ctx → Ctx) : (x.modX f).t = x.t := rfl

/-- What a write to number `k` leaves in a register. -/
def written (k : Nat) (w : W32) (p : Nat × W32) : Nat × W32 := (p.1, if k = p.1 then sysStored p.1 p.2 w else p.2)

/-- A write leaves its number's register as `sysStored` says, and every other as it was. -/
theorem sysRegs_sysWrite (x : State) (k : Nat) (w : W32) :
    sysRegs (x.sysWrite k w) = (sysRegs x).map (written k w) := by
  rw [sysRegs_eq, sysRegs_eq]
  unfold State.sysWrite
  split
  case h_27 => simp_all [sysList, written, sysStored]
  all_goals simp [sysList, written, sysStored, lo_setWordHalf, hi_setWordHalf, lo_image, hi_image, setWidth_extract_image,
    setWidth_low2, setWidth_low16, setWidth_low20, fieldOf_low3, statWord_write, -BitVec.truncate_eq_setWidth]

/-! What a number names, and who may name it (R116, R372, R408). -/

theorem sysRead_of_mem {x : State} {n : Nat} {v : W32} (h : (n, v) ∈ sysRegs x) : x.sysRead n = some v := by
  rw [sysRegs_eq] at h
  simp only [sysList, List.mem_cons, List.not_mem_nil, or_false, Prod.mk.injEq] at h
  obtain h | h | h | h | h | h | h | h | h | h | h | h | h | h | h | h | h | h | h | h | h | h | h | h | h | h | h | h := h
  all_goals
    obtain ⟨rfl, rfl⟩ := h
    simp [State.sysRead, wordHalf_eq, setWidth_extract_image, statWord_eq, ctxWord_eq]

theorem sysRead_of_not_mem {x : State} {n : Nat} (h : n ∉ (sysRegs x).map (fun p => p.1)) : x.sysRead n = none := by
  rw [sysRegs_eq] at h
  unfold State.sysRead
  split
  case h_29 => rfl
  all_goals exact absurd (by simp [sysList]) h

theorem sysCheck_of_not_mem {x : State} {n : Nat} (h : n ∉ (sysRegs x).map (fun p => p.1)) :
    x.sysCheck n = some (Trap.mk2 1 0) := by
  rw [State.sysCheck, sysRead_of_not_mem h]
  rfl

theorem sysCheck_of_mem {x : State} {n : Nat} (h : n ∈ (sysRegs x).map (fun p => p.1)) :
    x.sysCheck n = if 0x100 ≤ n ∧ x.priv = false then some (Trap.mk2 2 0) else none := by
  obtain ⟨⟨_, v⟩, hv, rfl⟩ := List.mem_map.1 h
  rw [State.sysCheck, sysRead_of_mem hv]
  rfl

/-- A register that may be named is past both checks. -/
theorem sysCheck_of_sysMay {x : State} {n : Nat} (h : sysMay x n) : x.sysCheck n = none := by
  obtain ⟨hn, hmay⟩ := h
  have hp : x.priv = (x.g.sys.hm || x.x.sup) := rfl
  rw [sysCheck_of_mem hn, hp]
  rcases hmay with h | h | h
  · rw [if_neg (by omega)]
  · simp [h]
  · simp [h]

/-- A register that may not be named, though it is assigned, is privileged. -/
theorem sysCheck_of_not_sysMay {x : State} {n : Nat} (hn : n ∈ (sysRegs x).map (fun p => p.1)) (h : ¬ sysMay x n) :
    x.sysCheck n = some (Trap.mk2 2 0) := by
  have hp : x.priv = (x.g.sys.hm || x.x.sup) := rfl
  simp only [sysMay, hn, true_and, not_or, Bool.not_eq_true, Nat.not_lt] at h
  obtain ⟨hpriv, hm, hsup⟩ := h
  rw [sysCheck_of_mem hn, if_pos ⟨hpriv, by rw [hp, hm, hsup]; rfl⟩]

/-! A write of a system register. -/

/-- Of `x`, the group's system registers and its context alone have changed. -/
structure SysOnly (x y : State) : Prop where
  rest : { y with groups := [], ctxs := [] } = { x with groups := [], ctxs := [] }
  others : ∀ j, j ≠ x.cur → y.grp j = x.grp j
  g : y.g = { x.g with sys := y.g.sys }
  ctxs : ∀ c, c ≠ x.t.ctx → y.ctx c = x.ctx c

theorem SysOnly.refl (x : State) : SysOnly x x := ⟨rfl, fun _ _ => rfl, rfl, fun _ _ => rfl⟩

theorem sysOnly_modSys (x : State) (f : SysRegs → SysRegs) : SysOnly x (x.modSys f) :=
  ⟨rfl, (only_modG x _).2, by rw [State.modSys_eq, State.modG_g], fun _ _ => rfl⟩

theorem sysOnly_modX (x : State) (f : Ctx → Ctx) : SysOnly x (x.modX f) :=
  ⟨rfl, fun _ _ => rfl, rfl, fun _ h => State.modCtx_ctx_ne x f h⟩

theorem sysWrite_sysOnly (x : State) (k : Nat) (w : W32) : SysOnly x (x.sysWrite k w) := by
  unfold State.sysWrite
  split
  case h_5 | h_6 | h_14 | h_15 | h_16 | h_17 | h_18 | h_19 | h_20 | h_21 | h_22 | h_23 => exact sysOnly_modX x _
  case h_27 => exact .refl x
  all_goals exact sysOnly_modSys x _

theorem sysRegs_of_adopted {s x : State} (h : Adopted s x) : sysRegs x = sysRegs s := by
  rw [sysRegs_eq, sysRegs_eq, h.g, h.only.x, h.only.t]

/-- The pops and the retirement leave the system registers alone. -/
theorem sysRegs_ended (y : State) (l : List Src) (len : Nat) : sysRegs (y.ended l len) = sysRegs y := by
  obtain ⟨⟨hout, -, -, -⟩, hcur, -, hsys, -⟩ := ended_frame y l len
  have hctxs : (y.ended l len).ctxs = y.ctxs := (congrArg State.ctxs hout.1 :)
  have ht : (y.ended l len).t.ctx = y.t.ctx := by
    show ((y.ended l len).team (teamOf (y.ended l len).cur)).ctx = (y.team (teamOf y.cur)).ctx
    rw [hcur]
    exact (congrArg Team.ctx (hout.2.2.1 (teamOf y.cur)) :)
  have hx : (y.ended l len).x = y.x := by
    show (y.ended l len).ctx (y.ended l len).t.ctx = y.ctx y.t.ctx
    rw [ht, State.ctx, State.ctx, hctxs]
  have hl : ∀ (z : SysRegs) c n, sysList z c n = sysList { z with clkh := 0 } c n := fun _ _ _ => rfl
  rw [sysRegs_eq, sysRegs_eq, hx, ht, hl, hsys, ← hl]

/-- What an instruction leaves whose body has written a system register of `x`, the contexts aside. -/
theorem ended_sysOnly {s x y : State} (hx : Adopted s x) (hy : SysOnly x y) (l : List Src) (len : Nat) :
    RegistersOnly l s { y.ended l len with ctxs := s.ctxs } ∧
      (y.ended l len).g.r = { s.g.r with exm := x.g.r.exm, pc := s.g.r.pc + BitVec.ofNat 64 len } ∧
      ∀ c, c ≠ s.t.ctx → (y.ended l len).ctx c = s.ctx c := by
  obtain ⟨⟨hout, hoth, hkept, hsent⟩, hcur, hr, -, -⟩ := ended_frame y l len
  have hyc : y.cur = s.cur := (congrArg State.cur hy.rest :).trans hx.only.cur
  have hyg : y.g = { s.g with r := { s.g.r with exm := x.g.r.exm }, sys := y.g.sys } := hy.g.trans (by rw [hx.g])
  have hys : { { y with ctxs := s.ctxs } with groups := [] } = { s with groups := [] } :=
    ((congrArg (fun (z : State) => { z with ctxs := s.ctxs }) hy.rest :).trans
      (congrArg (fun (z : State) => { z with ctxs := s.ctxs }) hx.only.1 :) :)
  have hyo : Only s { y with ctxs := s.ctxs } :=
    ⟨hys, fun j hj => (hy.others j (by rw [hx.only.cur]; exact hj)).trans (hx.only.2 j hj)⟩
  have hto : Outside l { y with ctxs := s.ctxs } { y.ended l len with ctxs := s.ctxs } :=
    ⟨(congrArg (fun (z : State) => { z with ctxs := s.ctxs }) hout.1 :), hout.2⟩
  unfold GroupKept at hkept
  unfold NothingSent at hsent
  rw [hyg] at hkept hsent hr
  refine ⟨⟨by simpa using outside_trans (hyo.outside []) hto, ?_, hkept, hsent⟩, hr, fun c hc => ?_⟩
  · exact othersKept_trans hyo.2 (fun j hj => hoth j hj) hyc
  · have hctxs : (y.ended l len).ctxs = y.ctxs := (congrArg State.ctxs hout.1 :)
    rw [State.ctx, hctxs]
    have hxt : x.ctx c = s.ctx c := by
      have : x.ctxs = s.ctxs := (congrArg State.ctxs hx.only.1 :)
      rw [State.ctx, State.ctx, this]
    exact (hy.ctxs c (by rw [hx.only.t]; exact hc)).trans hxt

end Sys2Proof.Machine
end

section
/-! SRD and SWR of the number that their operand reads as (14 R372; O10), and a state in which that is not the number in the
operand's register. -/

namespace Sys2Proof.Claims

open Sys2Proof.Machine Sys2Proof.Safety

/-- The cause with which a number is refused: an unassigned one is illegal, a privileged one privileged (R116, R372). -/
def Refused (x : State) (k cause : Nat) : Prop :=
  k ∉ (sysRegs x).map (fun p => p.1) ∧ cause = 1 ∨ k ∈ (sysRegs x).map (fun p => p.1) ∧ ¬ sysMay x k ∧ cause = 2

theorem Refused.sysCheck {x : State} {k c : Nat} (h : Refused x k c) :
    (c = 1 ∨ c = 2) ∧ x.sysCheck k = some ⟨c, 0, 0, 0⟩ := by
  rcases h with ⟨hk, rfl⟩ | ⟨hk, hmay, rfl⟩
  · exact ⟨.inl rfl, sysCheck_of_not_mem hk⟩
  · exact ⟨.inr rfl, sysCheck_of_not_sysMay hk hmay⟩

section
variable {s x : State} {d n : BitVec 6} {a : Sel}

/-! SRD of the number that its source reads as. -/

theorem srd_reads (hr : Runs s [a] [.g (uniReg s d)] x) {v : W32} (hv : ((x.uniVal a.src).toNat, v) ∈ sysRegs x)
    (hmay : sysMay x (x.uniVal a.src).toNat) :
    ∃ t, exec (.srd d a) s = .next t ∧ UniDone [a.src] s x t 4 d v :=
  run_uniDone hr (by simp only [sysCheck_of_sysMay hmay, sysRead_of_mem hv, Option.getD_some])

theorem srd_refused (hr : Runs s [a] [.g (uniReg s d)] x) (he : Enters s) {c : Nat}
    (hn : Refused x (x.uniVal a.src).toNat c) :
    ∃ t, exec (.srd d a) s = .next t ∧ Entered [] s t c 0 0 0 s.g.r.exm s.g.r.pc := by
  obtain ⟨hready, -⟩ := hr
  obtain ⟨hc, hk⟩ := hn.sysCheck
  rw [← gn_eq_uniReg] at hready
  exact run_trap (t := ⟨c, 0, 0, 0⟩) (u := x) hready (by simp only [hk]) he (by dsimp only; omega) (by dsimp only; omega)
    (by dsimp only; omega)

/-! SWR of the number that its register reads as. -/

theorem swr_writes (hr : Runs s [a, ⟨.g n, false⟩] [] x) {k : Nat} (hk : (x.uniVal (.g n)).toNat = k) (hmay : sysMay x k)
    (hacc : k ≠ 0x120) :
    ∃ t, exec (.swr n a) s = .next t ∧
      (∀ m v, (m, v) ∈ sysRegs s → (m, if m = k then sysStored m v (x.uniVal a.src) else v) ∈ sysRegs t) ∧
      t.g.r = { s.g.r with exm := x.g.r.exm, pc := s.g.r.pc + 4 } ∧
      (∀ c, c ≠ s.t.ctx → t.ctx c = s.ctx c) ∧
      RegistersOnly [a.src] s { t with ctxs := s.ctxs } := by
  obtain ⟨hready, harm⟩ := hr
  obtain ⟨ha, -, -⟩ := ready_ok hready
  have hy := sysWrite_sysOnly x k (x.uniVal a.src)
  have hya : (x.sysWrite k (x.uniVal a.src)).g.y.stepArmed = false := by rw [hy.g, ha.g]; exact harm
  obtain ⟨hframe, hregs, hctx⟩ := ended_sysOnly ha hy [a.src] 4
  have hpop : ∀ z : State, z.popSrcs [a.src, .g n] = z.popSrcs [a.src] := fun z => by simp [State.popSrcs, popSrc_g]
  refine ⟨(x.sysWrite k (x.uniVal a.src)).ended [a.src] 4, ?_, fun m v hm => ?_, hregs, hctx, hframe⟩
  · show execSwr n a s = _
    change s.ready [a, blk (.g n)] [] = _ at hready
    rw [execSwr, run_ok hready (by simp only [hk, sysCheck_of_sysMay hmay, if_neg hacc]) hya]
    exact congrArg (fun (z : State) => Host.Outcome.next (z.retireG (z.g.r.pc + 4))) (hpop _)
  · rw [sysRegs_ended, sysRegs_sysWrite, sysRegs_of_adopted ha]
    refine List.mem_map.2 ⟨(m, v), hm, ?_⟩
    simp only [written, eq_comm]

theorem swr_refused (hr : Runs s [a, ⟨.g n, false⟩] [] x) (he : Enters s) {c : Nat}
    (hn : Refused x (x.uniVal (.g n)).toNat c) :
    ∃ t, exec (.swr n a) s = .next t ∧ Entered [] s t c 0 0 0 s.g.r.exm s.g.r.pc := by
  obtain ⟨hready, -⟩ := hr
  obtain ⟨hc, hk⟩ := hn.sysCheck
  exact run_trap (t := ⟨c, 0, 0, 0⟩) (u := x) hready (by simp only [hk]) he (by dsimp only; omega) (by dsimp only; omega)
    (by dsimp only; omega)

end

/-- A group whose notes of a waiting instruction (06 R138) hold a value of G0, 3, that is not G0's, 0. A wait notes what
its specials and queues read, never a register, so no run reaches it; the statement asks it of every state. -/
def noted : State :=
  { State.reset with
    groups := [(0, { Group.reset with y := { GSync.reset with sampled := [(.g 0, [3])] } })] }

theorem noted_runs : Runs noted [⟨.const 1, false⟩, ⟨.g 0, false⟩] [] noted := ⟨rfl, rfl⟩

theorem srcnt_of_mem {x : State} {v : W32} (h : (0x003, v) ∈ sysRegs x) : v = x.g.sys.srcnt := by
  simpa [sysRegs] using h

/-- SWR of 1 through G0 writes SRCNT, the register of the noted number. -/
theorem noted_swr : ∃ t, exec (.swr 0 ⟨.const 1, false⟩) noted = .next t ∧ t.g.sys.srcnt = 1 := by
  obtain ⟨t, ht, hregs, -⟩ := swr_writes (k := 3) noted_runs (by decide) ⟨by decide, .inl (by decide)⟩ (by decide)
  exact ⟨t, ht, (srcnt_of_mem (hregs 3 0 (by decide))).symm⟩

/-- Refutes O10: SWR reads its number as any source is read, a value noted by a waiting instruction before the register's
own (`swr_writes`), and in the state `noted` the two differ: FPFLAGS is named by G0, SRCNT is written. Of the number that
is read, `srd_reads`, `srd_refused`, `swr_writes` and `swr_refused` hold in every state. -/
theorem not_systemRegisters : ¬ Obligations.SystemRegisters := by
  rintro ⟨-, hswr⟩
  obtain ⟨hwrite, -, -⟩ := hswr noted noted 0 ⟨.const 1, false⟩ noted_runs
  obtain ⟨t, ht, hregs, -⟩ := hwrite 0x000 rfl ⟨by decide, .inl (by decide)⟩ (by decide)
  have hkept : (0x003, 0) ∈ sysRegs t := hregs 0x003 0 (by decide)
  obtain ⟨u, hu, hone⟩ := noted_swr
  cases ht.symm.trans hu
  have hzero := srcnt_of_mem hkept
  rw [hone] at hzero
  exact absurd hzero (by decide)

end Sys2Proof.Claims
end

section
/-! Codes of operands (06 R136 to R144): each table of the decoder and the encoder's are inverse to each other. -/

namespace Sys2Proof

theorem fieldOf_lt (w lo n : Nat) : fieldOf w lo n < 2 ^ n := Nat.mod_lt _ (Nat.two_pow_pos n)

/-- A field read as a bit vector of its width. -/
theorem ofNat_fieldOf_eq_iff {w lo n : Nat} {v : BitVec n} :
    BitVec.ofNat n (fieldOf w lo n) = v ↔ fieldOf w lo n = v.toNat := by
  rw [← BitVec.toNat_inj, BitVec.toNat_ofNat, Nat.mod_eq_of_lt (fieldOf_lt w lo n)]

theorem toNat_ofNat_fieldOf (w lo n : Nat) : (BitVec.ofNat n (fieldOf w lo n)).toNat = fieldOf w lo n :=
  (ofNat_fieldOf_eq_iff.1 rfl).symm

/-! Sources and selectors (R136, R139). -/

theorem Src.code_lt (s : Src) : s.code < 256 := by
  cases s <;> simp only [Src.code] <;> omega

theorem Sel.code_lt (s : Sel) : s.code < 512 := by
  have := s.src.code_lt
  unfold Sel.code
  split <;> omega

theorem code_of_decSrc {c : Nat} {s : Src} (h : decSrc c = some s) : s.code = c := by
  unfold decSrc at h
  split_ifs at h <;> cases h <;> simp only [Src.code, BitVec.toNat_ofNat] <;> omega

theorem decSrc_code (s : Src) : decSrc s.code = some s := by
  unfold decSrc
  cases s with
  | v r => simp [Src.code, show r.toNat < 0x80 by omega]
  | g r => simp [Src.code, show 0x80 + r.toNat < 0xC0 by omega]
  | const c => simp [Src.code, show ¬ 0xC0 + c.toNat < 0x80 by omega, show 0xC0 + c.toNat < 0xE0 by omega]
  | special c =>
    simp [Src.code, show ¬ 0xE0 + c.toNat < 0x80 by omega, show ¬ 0xE0 + c.toNat < 0xC0 by omega,
      show 0xE0 + c.toNat < 0xF0 by omega]
  | q n =>
    simp [Src.code, show ¬ 0xF0 + n.toNat < 0x80 by omega, show ¬ 0xF0 + n.toNat < 0xC0 by omega,
      show ¬ 0xF0 + n.toNat < 0xE0 by omega, show 0xF0 + n.toNat < 0xF4 by omega]

theorem decSrc_eq_some {c : Nat} {s : Src} : decSrc c = some s ↔ c = s.code :=
  ⟨fun h => (code_of_decSrc h).symm, fun h => h ▸ decSrc_code s⟩

theorem decSel_eq_some {c : Nat} {s : Sel} : decSel c = some s ↔ c % 512 = s.code := by
  unfold decSel
  obtain ⟨a, t⟩ := s
  have ha := a.code_lt
  constructor
  · intro h
    split at h
    · next b hb =>
      cases h
      rw [Sel.code, ← decSrc_eq_some.1 hb]
      simp only [decide_eq_true_eq]
      split <;> omega
    · cases h
  · intro h
    have hc : c % 256 = a.code := by simp only [Sel.code] at h; split at h <;> omega
    rw [decSrc_eq_some.2 hc]
    simp only [Sel.code] at h
    cases t <;> simp_all <;> omega

/-! Tables of names. -/

theorem decScope_eq_some {c : Nat} {k : Scope} : decScope c = some k ↔ c = k.code := by
  constructor
  · unfold decScope; split <;> rintro ⟨⟩ <;> rfl
  · rintro rfl; cases k <;> rfl

theorem decHint_eq_some {c : Nat} {k : Hint} : decHint c = some k ↔ c = k.code := by
  constructor
  · unfold decHint; split <;> rintro ⟨⟩ <;> rfl
  · rintro rfl; cases k <;> rfl

theorem decRMode_eq_some {c : Nat} {k : RMode} : decRMode c = some k ↔ c = k.code := by
  constructor
  · unfold decRMode; split <;> rintro ⟨⟩ <;> rfl
  · rintro rfl; cases k <;> rfl

theorem decAOp_eq_some {c : Nat} {k : AOp} : decAOp c = some k ↔ c = k.code := by
  constructor
  · unfold decAOp; split <;> rintro ⟨⟩ <;> rfl
  · rintro rfl; cases k <;> rfl

theorem decBField_eq_some {c : Nat} {k : BField} : decBField c = some k ↔ c = k.code := by
  constructor
  · unfold decBField; split <;> rintro ⟨⟩ <;> rfl
  · rintro rfl; cases k <;> rfl

theorem decCvt_code : ∀ k : CvtOp, decCvt k.code = some k
  | .f32bf16 h | .f32f16 h => by cases h <;> rfl
  | .f32e4m3 k | .f32e5m2 k | .f32s8 k => by revert k; decide
  | .f32e2m1 n => by revert n; decide
  | .f32s32 | .f32u32 | .s32f32 | .u32f32 | .bf16f32 | .f16f32 | .e4m3f32 | .e5m2f32 | .f32e3m2 | .f32e2m3 | .e3m2f32
  | .e2m3f32 | .e2m1f32 | .s8f32 => rfl

theorem decCvt_eq_some {c : Nat} {k : CvtOp} : decCvt c = some k ↔ c = k.code := by
  constructor
  · unfold decCvt; split <;> rintro ⟨⟩ <;> rfl
  · rintro rfl; exact decCvt_code k

theorem decAbo_eq_some {c : Nat} {k : Abo} : decAbo c = some k ↔ c = k.code := by
  unfold decAbo
  constructor
  · intro h
    split_ifs at h <;> cases h
    · assumption
    · simp only [Abo.code, BitVec.toNat_ofNat]; omega
  · rintro rfl
    cases k with
    | none => rfl
    | obj k => simp [Abo.code, show 1 + k.toNat ≤ 8 by omega]

/-- The conditions that a compare opcode accepts (R143). -/
def condOk (gcmp fp : Bool) (k : Cond) : Bool := if gcmp then k.uniOk else if fp then k.fpOk else k.intOk

theorem decCond_eq_some {g : Bool} {c : Nat} {k : Cond} :
    decCond g c = some k ↔ c = k.code ∧ condOk g true k = true := by
  constructor
  · unfold decCond
    cases g <;> split <;> rintro ⟨⟩ <;> exact ⟨rfl, rfl⟩
  · rintro ⟨rfl, h⟩
    revert h
    cases g <;> cases k <;> decide

theorem decCondOf_eq_some {g f : Bool} {c : Nat} {k : Cond} :
    decCondOf g f c = some k ↔ c = k.code ∧ condOk g f k = true := by
  have hk : condOk g f k = true ↔ condOk g true k = true ∧ (f = true ∨ k ≠ .ord ∧ k ≠ .uno) := by
    cases g <;> cases f <;> cases k <;> decide
  rw [hk, ← and_assoc, ← decCond_eq_some]
  unfold decCondOf
  generalize decCond g c = r
  split
  · cases f <;> grind
  · cases f <;> grind
  · grind

end Sys2Proof
end

section
/-! The fields of instruction words (06 R140 to R142). -/

namespace Sys2Proof

/-- The set bit `s` and the opcode of a first word (R134, R140, R141). -/
structure Head (w s op : Nat) : Prop where
  lt : w < 2 ^ 32
  set : fieldOf w 31 1 = s
  op : fieldOf w 25 6 = op

/-- An LA, LM or LX first word by its fields (R140). -/
structure LaneWord (w op d a b : Nat) : Prop extends Head w 0 op where
  d : fieldOf w 18 7 = d
  a : fieldOf w 9 9 = a
  b : fieldOf w 0 9 = b

theorem laneWord_encLA {op d a b : Nat} (hop : op < 64) (hd : d < 128) (ha : a < 512) (hb : b < 512) :
    LaneWord (encLA op d a b) op d a b := by
  constructor
  · constructor <;> simp only [encLA, fieldOf] <;> omega
  all_goals simp only [encLA, fieldOf]; omega

theorem LaneWord.eq_encLA {w op d a b : Nat} (h : LaneWord w op d a b) : encLA op d a b = w := by
  obtain ⟨⟨hlt, hs, rfl⟩, rfl, rfl, rfl⟩ := h
  simp only [encLA, fieldOf] at *
  omega

/-- An LC word, or GCMP's, by its fields (R140, 14 R352). -/
structure CompareWord (w s op c g a b : Nat) : Prop extends Head w s op where
  c : fieldOf w 21 4 = c
  g : fieldOf w 16 5 = g
  a : fieldOf w 8 8 = a
  b : fieldOf w 0 8 = b

theorem compareWord_encLC {s op c g a b : Nat} (hs : s < 2) (hop : op < 64) (hc : c < 16) (hg : g < 32) (ha : a < 256)
    (hb : b < 256) : CompareWord (2 ^ 31 * s + encLC op c g a b) s op c g a b := by
  constructor
  · constructor <;> simp only [encLC, fieldOf] <;> omega
  all_goals simp only [encLC, fieldOf]; omega

theorem CompareWord.eq_encLC {w s op c g a b : Nat} (h : CompareWord w s op c g a b) :
    2 ^ 31 * s + encLC op c g a b = w := by
  obtain ⟨⟨hlt, rfl, rfl⟩, rfl, rfl, rfl, rfl⟩ := h
  simp only [encLC, fieldOf] at *
  omega

/-- A GA or GE word by its fields (R141). -/
structure UniWord (w op d a b x : Nat) : Prop extends Head w 1 op where
  d : fieldOf w 19 6 = d
  a : fieldOf w 10 9 = a
  b : fieldOf w 1 9 = b
  x : fieldOf w 0 1 = x

theorem uniWord_encGA {op d a b x : Nat} (hop : op < 64) (hd : d < 64) (ha : a < 512) (hb : b < 512) (hx : x < 2) :
    UniWord (encGA op d a b x) op d a b x := by
  constructor
  · constructor <;> simp only [encGA, fieldOf] <;> omega
  all_goals simp only [encGA, fieldOf]; omega

theorem UniWord.eq_encGA {w op d a b x : Nat} (h : UniWord w op d a b x) : encGA op d a b x = w := by
  obtain ⟨⟨hlt, hs, rfl⟩, rfl, rfl, rfl, rfl⟩ := h
  simp only [encGA, fieldOf] at *
  omega

/-- A GB word by its fields (R141). -/
structure BranchWord (w op c p h : Nat) : Prop extends Head w 1 op where
  c : fieldOf w 19 6 = c
  p : fieldOf w 2 17 = p
  h : fieldOf w 0 2 = h

theorem branchWord_encGB {op c p h : Nat} (hop : op < 64) (hc : c < 64) (hp : p < 2 ^ 17) (hh : h < 4) :
    BranchWord (encGB op c p h) op c p h := by
  constructor
  · constructor <;> simp only [encGB, fieldOf] <;> omega
  all_goals simp only [encGB, fieldOf]; omega

theorem BranchWord.eq_encGB {w op c p h : Nat} (hw : BranchWord w op c p h) : encGB op c p h = w := by
  obtain ⟨⟨hlt, hs, rfl⟩, rfl, rfl, rfl⟩ := hw
  simp only [encGB, fieldOf] at *
  omega

/-! One word or two (R134). -/

/-- The words that a first word and the one after it make: both, or the first alone. -/
def wordsOf (w x : Nat) : List Nat := if twoWords w then [w, x] else [w]

theorem Head.wordsOf_lane {w op : Nat} (h : Head w 0 op) (x : Nat) :
    wordsOf w x = if 0x35 ≤ op ∧ op ≤ 0x3E then [w, x] else [w] := by
  simp [wordsOf, twoWords, h.set, h.op]

theorem Head.wordsOf_uni {w op : Nat} (h : Head w 1 op) (x : Nat) :
    wordsOf w x = if bIsSource op = true ∧ fieldOf w 0 10 = 1 then [w, x] else [w] := by
  simp [wordsOf, twoWords, h.set, h.op]

section
variable {w op d a b c g p x : Nat}

theorem LaneWord.words1 (h : LaneWord w op d a b) (hop : op < 0x35) : [encLA op d a b] = wordsOf w x := by
  rw [h.eq_encLA, h.wordsOf_lane, if_neg (by omega)]

theorem LaneWord.words2 (h : LaneWord w op d a b) (hop : 0x35 ≤ op ∧ op ≤ 0x3E) : [encLA op d a b, x] = wordsOf w x := by
  rw [h.eq_encLA, h.wordsOf_lane, if_pos hop]

theorem CompareWord.words_lane (h : CompareWord w 0 op c g a b) (hop : op < 0x35) :
    [encLC op c g a b] = wordsOf w x := by
  have he : encLC op c g a b = w := by simpa using h.eq_encLC
  rw [he, h.wordsOf_lane, if_neg (by omega)]

theorem CompareWord.words_uni (h : CompareWord w 1 op c g a b) (hop : bIsSource op = false) :
    [2 ^ 31 + encLC op c g a b] = wordsOf w x := by
  have he : 2 ^ 31 + encLC op c g a b = w := by simpa using h.eq_encLC
  rw [he, h.wordsOf_uni, if_neg (by simp [hop])]

theorem UniWord.words (h : UniWord w op d a b 0) (hop : bIsSource op = false) : [encGA op d a b 0] = wordsOf w x := by
  rw [h.eq_encGA, h.wordsOf_uni, if_neg (by simp [hop])]

theorem BranchWord.words {k : Nat} (h : BranchWord w op c p k) (hop : bIsSource op = false) :
    [encGB op c p k] = wordsOf w x := by
  rw [h.eq_encGB, h.wordsOf_uni, if_neg (by simp [hop])]

end

/-! Fields of fields. -/

/-- A field put together from a high and a low part. -/
theorem fieldOf_split (w lo m n : Nat) : fieldOf w lo (m + n) = fieldOf w (lo + m) n * 2 ^ m + fieldOf w lo m := by
  unfold fieldOf
  rw [pow_add, pow_add, Nat.mod_mul, Nat.div_div_eq_div_mul, mul_comm (2 ^ m), add_comm]

theorem fieldOf_split_eq {w lo m n h l : Nat} (hl : l < 2 ^ m) :
    fieldOf w lo (m + n) = h * 2 ^ m + l ↔ fieldOf w (lo + m) n = h ∧ fieldOf w lo m = l := by
  have high : ∀ {q r : Nat}, r < 2 ^ m → (q * 2 ^ m + r) / 2 ^ m = q := fun hr => by
    rw [mul_comm, Nat.mul_add_div (Nat.two_pow_pos m), Nat.div_eq_of_lt hr, Nat.add_zero]
  rw [fieldOf_split]
  constructor
  · intro e
    have hq := congrArg (· / 2 ^ m) e
    simp only [high (fieldOf_lt w lo m), high hl] at hq
    exact ⟨hq, by rw [hq] at e; exact Nat.add_left_cancel e⟩
  · rintro ⟨rfl, rfl⟩
    rfl

/-- A field whose value fits its low part. -/
theorem fieldOf_pad_eq {w lo m n v : Nat} (hv : v < 2 ^ m) :
    fieldOf w lo (m + n) = v ↔ fieldOf w (lo + m) n = 0 ∧ fieldOf w lo m = v := by
  simpa using fieldOf_split_eq (h := 0) hv

/-- A field whose high part is zero is its low part, read as a bit vector. -/
theorem fieldOf_eq_ofNat {w lo m n : Nat} (h : fieldOf w (lo + m) n = 0) :
    fieldOf w lo (m + n) = (BitVec.ofNat m (fieldOf w lo m)).toNat := by
  rw [toNat_ofNat_fieldOf, fieldOf_split, h, Nat.zero_mul, Nat.zero_add]

end Sys2Proof
end

section
/-! The lane set (06 R140, R145): what each of its decoders accepts, said of the fields of the words. -/

namespace Sys2Proof

variable {w x : Nat} {i : Instr}

theorem decOrder_eq {n : Nat} (h : n < 4) {o : Order} : decOrder n = o ↔ n = o.code := by
  interval_cases n <;> cases o <;> decide

theorem decOrder_fieldOf {lo : Nat} {o : Order} : decOrder (fieldOf w lo 2) = o ↔ fieldOf w lo 2 = o.code :=
  decOrder_eq (fieldOf_lt w lo 2)

theorem decXMode_eq {n : Nat} (h : n < 4) {m : XMode} : decXMode n = m ↔ n = m.code := by
  interval_cases n <;> cases m <;> decide

theorem Order.code_lt (o : Order) : o.code < 4 := by cases o <;> decide
theorem Scope.code_lt (sc : Scope) : sc.code < 8 := by cases sc <;> decide
theorem XMode.code_lt (m : XMode) : m.code < 4 := by cases m <;> decide
theorem RMode.code_lt (m : RMode) : m.code < 8 := by cases m <;> decide
theorem AOp.code_lt (op : AOp) : op.code < 32 := by cases op <;> decide
theorem Abo.code_lt (a : Abo) : a.code < 16 := by cases a <;> simp only [Abo.code] <;> omega
theorem Cond.code_lt (c : Cond) : c.code < 16 := by cases c <;> decide
theorem CvtOp.code_lt (op : CvtOp) : op.code < 64 := by
  cases op with
  | f32bf16 h | f32f16 h => cases h <;> decide
  | f32e4m3 k | f32e5m2 k | f32e2m1 k | f32s8 k => simp only [CvtOp.code]; omega
  | _ => decide

theorem decSel_fieldOf {lo : Nat} {s : Sel} : decSel (fieldOf w lo 9) = some s ↔ fieldOf w lo 9 = s.code := by
  rw [decSel_eq_some, Nat.mod_eq_of_lt (show _ < 512 from fieldOf_lt w lo 9)]

theorem aOf_eq_some {a : Sel} : aOf w = some a ↔ fieldOf w 9 9 = a.code := decSel_fieldOf

theorem bOf_eq_some {b : Sel} : bOf w = some b ↔ fieldOf w 0 9 = b.code := decSel_fieldOf

theorem dOf_eq {d : BitVec 7} : dOf w = d ↔ fieldOf w 18 7 = d.toNat := ofNat_fieldOf_eq_iff

theorem firstErr_eq_none {l : List (Bool × Illegal)} : firstErr l = none ↔ ∀ p ∈ l, p.1 = true := by
  induction l with
  | nil => simp [firstErr]
  | cons p l ih => cases hp : p.1 <;> simp [firstErr, hp, ih]

theorem decIf_ok_iff {l : List (Bool × Illegal)} {j : Instr} : decIf l j = .ok i ↔ (∀ p ∈ l, p.1 = true) ∧ i = j := by
  rw [← firstErr_eq_none, decIf]
  split <;> simp [*, eq_comm]

theorem decLA2_ok_iff {mk : BitVec 7 → Sel → Sel → Instr} :
    decLA2 mk w = .ok i ↔ ∃ d a b, i = mk d a b ∧
      fieldOf w 18 7 = d.toNat ∧ fieldOf w 9 9 = a.code ∧ fieldOf w 0 9 = b.code := by
  simp only [← aOf_eq_some, ← bOf_eq_some, ← dOf_eq, decLA2]
  constructor
  · intro h
    split at h
    · next a b ha hb => cases h; exact ⟨_, a, b, rfl, rfl, ha, hb⟩
    · cases h
  · rintro ⟨d, a, b, rfl, rfl, ha, hb⟩
    rw [ha, hb]

theorem decLA1_ok_iff {mk : BitVec 7 → Sel → Instr} :
    decLA1 mk w = .ok i ↔ ∃ d a, i = mk d a ∧ fieldOf w 18 7 = d.toNat ∧ fieldOf w 9 9 = a.code := by
  simp only [← aOf_eq_some, ← dOf_eq, decLA1]
  constructor
  · intro h
    split at h
    · next a ha => cases h; exact ⟨_, a, rfl, rfl, ha⟩
    · cases h
  · rintro ⟨d, a, rfl, rfl, ha⟩
    rw [ha]

theorem decLC_ok_iff {fp : Bool} {mk : Cond → BitVec 5 → Src → Src → Instr} :
    decLC fp mk w = .ok i ↔ ∃ c g a b, i = mk c g a b ∧ condOk false fp c = true ∧
      fieldOf w 21 4 = c.code ∧ fieldOf w 16 5 = g.toNat ∧ fieldOf w 8 8 = a.code ∧ fieldOf w 0 8 = b.code := by
  simp only [← decSrc_eq_some, ← ofNat_fieldOf_eq_iff, decLC]
  constructor
  · intro h
    split at h
    · cases h
    · next c hc =>
      split at h
      · next a b ha hb =>
        cases h
        obtain ⟨hc, hok⟩ := decCondOf_eq_some.1 hc
        exact ⟨c, _, a, b, rfl, hok, hc, rfl, ha, hb⟩
      · cases h
  · rintro ⟨c, g, a, b, rfl, hok, hc, rfl, ha, hb⟩
    rw [decCondOf_eq_some.2 ⟨hc, hok⟩, ha, hb]

theorem decLM_ok_iff {mk : BitVec 7 → Sel → BitVec 4 → Scope → Order → Instr} :
    decLM mk w = .ok i ↔ ∃ d a k sc o, i = mk d a k sc o ∧ fieldOf w 18 7 = d.toNat ∧ fieldOf w 9 9 = a.code ∧
      fieldOf w 5 4 = k.toNat ∧ fieldOf w 2 3 = sc.code ∧ fieldOf w 0 2 = o.code := by
  simp only [← aOf_eq_some, ← ofNat_fieldOf_eq_iff, ← decScope_eq_some, ← decOrder_fieldOf, decLM, dOf]
  constructor
  · intro h
    split at h
    · next a sc ha hsc => cases h; exact ⟨_, a, _, sc, _, rfl, rfl, ha, rfl, hsc, rfl⟩
    all_goals cases h
  · rintro ⟨d, a, k, sc, o, rfl, rfl, ha, rfl, hsc, rfl⟩
    rw [ha, hsc]

/-- The code of a V register with its T bit, as QSCL, QCVT and RDLANE name it. -/
def vCode (a : BitVec 7) (t : Bool) : Nat := a.toNat + (if t then 256 else 0)

theorem vCode_lt (a : BitVec 7) (t : Bool) : vCode a t < 512 := by
  unfold vCode
  split <;> omega

theorem vOf_eq_some {c : Nat} (hc : c < 512) {a : BitVec 7} {t : Bool} : vOf c = some (a, t) ↔ c = vCode a t := by
  unfold vOf vCode
  constructor
  · intro h
    split_ifs at h
    cases h
    simp only [BitVec.toNat_ofNat, decide_eq_true_eq]
    split <;> omega
  · rintro rfl
    have : (BitVec.ofNat 7 (a.toNat + 256)) = a := by
      apply BitVec.eq_of_toNat_eq
      rw [BitVec.toNat_ofNat]
      omega
    cases t <;> simp [this, show a.toNat % 256 < 128 by omega, show a.toNat / 256 = 0 by omega]

theorem decQ_ok_iff {mk : BitVec 7 → BitVec 7 → Bool → Sel → Instr} :
    decQ mk w = .ok i ↔ ∃ d a t b, i = mk d a t b ∧
      fieldOf w 18 7 = d.toNat ∧ fieldOf w 9 9 = vCode a t ∧ fieldOf w 0 9 = b.code := by
  simp only [← vOf_eq_some (show _ < 512 from fieldOf_lt w 9 9), ← bOf_eq_some, ← dOf_eq, decQ]
  constructor
  · intro h
    split at h
    · next a t b ha hb => cases h; exact ⟨_, a, t, b, rfl, rfl, ha, hb⟩
    · cases h
  · rintro ⟨d, a, t, b, rfl, rfl, ha, hb⟩
    rw [ha, hb]

/-! The code of an LA word's B field where it is put together from parts. -/

theorem fieldOf_scopeCode {k sc o : Nat} (hsc : sc < 8) (ho : o < 4) :
    fieldOf w 0 9 = k * 32 + sc * 4 + o ↔ fieldOf w 5 4 = k ∧ fieldOf w 2 3 = sc ∧ fieldOf w 0 2 = o := by
  simp only [fieldOf]
  omega

theorem fieldOf_modeCode {m f : Nat} (hm : m < 4) (hf : f < 16) :
    fieldOf w 0 9 = m * 16 + f ↔ fieldOf w 6 3 = 0 ∧ fieldOf w 4 2 = m ∧ fieldOf w 0 4 = f := by
  simp only [fieldOf]
  omega

theorem fieldOf_cvtCode {m op : Nat} (hop : op < 64) :
    fieldOf w 0 9 = m * 64 + op ↔ fieldOf w 6 3 = m ∧ fieldOf w 0 6 = op := by
  simp only [fieldOf]
  omega

theorem decXRED1_ok_iff {mk : XMode → BitVec 7 → Sel → Instr} :
    decXRED1 mk w = .ok i ↔ ∃ m d a, i = mk m d a ∧
      fieldOf w 6 3 = 0 ∧ fieldOf w 4 2 = m.code ∧ fieldOf w 18 7 = d.toNat ∧ fieldOf w 9 9 = a.code := by
  simp only [← decXMode_eq (show fieldOf w 4 2 < 4 from fieldOf_lt w 4 2), decXRED1]
  constructor
  · intro h
    split_ifs at h with hz
    obtain ⟨d, a, rfl, hd, ha⟩ := decLA1_ok_iff.1 h
    exact ⟨_, d, a, rfl, hz, rfl, hd, ha⟩
  · rintro ⟨m, d, a, rfl, hz, rfl, hd, ha⟩
    rw [if_pos hz]
    exact decLA1_ok_iff.2 ⟨d, a, rfl, hd, ha⟩

theorem decCVT_ok_iff :
    decCVT w = .ok i ↔ ∃ op m d a, i = .cvt op m d a ∧
      fieldOf w 6 3 = m.code ∧ fieldOf w 0 6 = op.code ∧ fieldOf w 18 7 = d.toNat ∧ fieldOf w 9 9 = a.code := by
  simp only [← decRMode_eq_some, ← decCvt_eq_some, decCVT]
  constructor
  · intro h
    split at h
    · next op m hop hm =>
      obtain ⟨d, a, rfl, hd, ha⟩ := decLA1_ok_iff.1 h
      exact ⟨op, m, d, a, rfl, hm, hop, hd, ha⟩
    · cases h
  · rintro ⟨op, m, d, a, rfl, hm, hop, hd, ha⟩
    rw [hop, hm]
    exact decLA1_ok_iff.2 ⟨d, a, rfl, hd, ha⟩

end Sys2Proof
end

section
/-! The lane set's instructions of two words (06 R140): the fields of their extension words, and what their decoders
accept. -/

namespace Sys2Proof

variable {w x : Nat} {i : Instr}

/-! ATOM and RED (07 R162). -/

theorem atomExt_iff (hx : x < 2 ^ 32) {c : Sel} {o : Order} {sc : Scope} {op : AOp} {k : BitVec 4} :
    c.code * 2 ^ 18 + o.code * 2 ^ 16 + sc.code * 2 ^ 13 + op.code * 2 ^ 8 + k.toNat = x ↔
      (fieldOf x 27 5 = 0 ∧ fieldOf x 4 4 = 0) ∧ fieldOf x 18 9 = c.code ∧ fieldOf x 16 2 = o.code ∧
        fieldOf x 13 3 = sc.code ∧ fieldOf x 8 5 = op.code ∧ fieldOf x 0 4 = k.toNat := by
  have hc := c.code_lt
  have ho := o.code_lt
  have hsc := sc.code_lt
  have hop := op.code_lt
  simp only [fieldOf]
  omega

theorem decATOM_ok_iff (hx : x < 2 ^ 32) :
    decATOM w x = .ok i ↔ ∃ op d a b c k sc o, i = .atom op d a b c k sc o ∧
      fieldOf w 18 7 = d.toNat ∧ fieldOf w 9 9 = a.code ∧ fieldOf w 0 9 = b.code ∧
      c.code * 2 ^ 18 + o.code * 2 ^ 16 + sc.code * 2 ^ 13 + op.code * 2 ^ 8 + k.toNat = x := by
  simp only [atomExt_iff hx, ← decSel_fieldOf, ← decOrder_fieldOf, ← decScope_eq_some,
    ← decAOp_eq_some, ← ofNat_fieldOf_eq_iff, decATOM, dOf, aOf, bOf]
  constructor
  · intro h
    split at h
    · next a b c op sc ha hb hc hop hsc =>
      obtain ⟨hz, rfl⟩ := decIf_ok_iff.1 h
      exact ⟨op, _, a, b, c, _, sc, _, rfl, rfl, ha, hb, by simpa using hz, hc, rfl, hsc, hop, rfl⟩
    all_goals cases h
  · rintro ⟨op, d, a, b, c, k, sc, o, rfl, rfl, ha, hb, hz, hc, rfl, hsc, hop, rfl⟩
    rw [ha, hb, hc, hop, hsc]
    exact decIf_ok_iff.2 ⟨by simpa using hz, rfl⟩

theorem redExt_iff (hx : x < 2 ^ 32) {o : Order} {sc : Scope} {op : AOp} {k : BitVec 4} :
    o.code * 2 ^ 16 + sc.code * 2 ^ 13 + op.code * 2 ^ 8 + k.toNat = x ↔
      (fieldOf x 27 5 = 0 ∧ fieldOf x 18 9 = 0 ∧ fieldOf x 4 4 = 0) ∧ fieldOf x 16 2 = o.code ∧
        fieldOf x 13 3 = sc.code ∧ fieldOf x 8 5 = op.code ∧ fieldOf x 0 4 = k.toNat := by
  have ho := o.code_lt
  have hsc := sc.code_lt
  have hop := op.code_lt
  simp only [fieldOf]
  omega

theorem decRED_ok_iff (hx : x < 2 ^ 32) :
    decRED w x = .ok i ↔ ∃ op a b k sc o, i = .red op a b k sc o ∧
      fieldOf w 18 7 = 0 ∧ fieldOf w 9 9 = a.code ∧ fieldOf w 0 9 = b.code ∧
      o.code * 2 ^ 16 + sc.code * 2 ^ 13 + op.code * 2 ^ 8 + k.toNat = x := by
  simp only [redExt_iff hx, ← decSel_fieldOf, ← decOrder_fieldOf, ← decScope_eq_some,
    ← decAOp_eq_some, ← ofNat_fieldOf_eq_iff, decRED, aOf, bOf]
  constructor
  · intro h
    split at h
    · next a b op sc ha hb hop hsc =>
      obtain ⟨hz, rfl⟩ := decIf_ok_iff.1 h
      obtain ⟨h27, h18, h4, hd⟩ : fieldOf x 27 5 = 0 ∧ fieldOf x 18 9 = 0 ∧ fieldOf x 4 4 = 0 ∧ fieldOf w 18 7 = 0 := by
        simpa using hz
      exact ⟨op, a, b, _, sc, _, rfl, hd, ha, hb, ⟨h27, h18, h4⟩, rfl, hsc, hop, rfl⟩
    all_goals cases h
  · rintro ⟨op, a, b, k, sc, o, rfl, hd, ha, hb, hz, rfl, hsc, hop, rfl⟩
    rw [ha, hb, hop, hsc]
    exact decIf_ok_iff.2 ⟨by simpa [hd] using hz, rfl⟩

/-! PUT, RATOM and RACC (11 R280). -/

theorem putExt_iff (hx : x < 2 ^ 32) {abo : Abo} {n : BitVec 2} {k : BitVec 4} :
    abo.code * 2 ^ 28 + n.toNat * 2 ^ 6 + k.toNat = x ↔
      (fieldOf x 27 1 = 0 ∧ fieldOf x 18 9 = 0 ∧ fieldOf x 14 4 = 0 ∧ fieldOf x 13 1 = 0 ∧ fieldOf x 8 5 = 0 ∧
        fieldOf x 4 2 = 0) ∧ fieldOf x 28 4 = abo.code ∧ fieldOf x 6 2 = n.toNat ∧ fieldOf x 0 4 = k.toNat := by
  have := abo.code_lt
  simp only [fieldOf]
  omega

theorem putFlagExt_iff (hx : x < 2 ^ 32) {abo : Abo} {f k : BitVec 4} {n : BitVec 2} :
    abo.code * 2 ^ 28 + 2 ^ 27 + f.toNat * 2 ^ 14 + n.toNat * 2 ^ 6 + k.toNat = x ↔
      (fieldOf x 27 1 = 1 ∧ fieldOf x 18 9 = 0 ∧ fieldOf x 13 1 = 0 ∧ fieldOf x 8 5 = 0 ∧ fieldOf x 4 2 = 0) ∧
        fieldOf x 28 4 = abo.code ∧ fieldOf x 14 4 = f.toNat ∧ fieldOf x 6 2 = n.toNat ∧ fieldOf x 0 4 = k.toNat := by
  have := abo.code_lt
  simp only [fieldOf]
  omega

theorem decPUT_ok_iff (hx : x < 2 ^ 32) :
    decPUT w x = .ok i ↔
      (∃ d a n k abo, i = .put d a n k none abo ∧
        fieldOf w 18 7 = d.toNat ∧ fieldOf w 9 9 = a.code ∧ fieldOf w 0 9 = 0 ∧
        abo.code * 2 ^ 28 + n.toNat * 2 ^ 6 + k.toNat = x) ∨
      ∃ d a n k f b abo, i = .put d a n k (some (f, b)) abo ∧
        fieldOf w 18 7 = d.toNat ∧ fieldOf w 9 9 = a.code ∧ fieldOf w 0 9 = b.code ∧
        abo.code * 2 ^ 28 + 2 ^ 27 + f.toNat * 2 ^ 14 + n.toNat * 2 ^ 6 + k.toNat = x := by
  simp only [putExt_iff hx, putFlagExt_iff hx, ← decSel_fieldOf, ← decAbo_eq_some, ← ofNat_fieldOf_eq_iff, decPUT, dOf,
    aOf, bOf]
  constructor
  · intro h
    split at h
    · next a b abo ha hb habo =>
      obtain ⟨hz, rfl⟩ := decIf_ok_iff.1 h
      simp only [List.forall_mem_cons, decide_eq_true_eq] at hz
      obtain ⟨h18, h13, h8, h4, hfl, -⟩ := hz
      by_cases hf : fieldOf x 27 1 = 1
      · rw [if_pos hf]
        exact .inr ⟨_, a, _, _, _, b, abo, rfl, rfl, ha, hb, ⟨hf, h18, h13, h8, h4⟩, habo, rfl, rfl, rfl⟩
      · rw [if_neg hf]
        obtain ⟨h14, h0⟩ := hfl.resolve_left hf
        have h27 : fieldOf x 27 1 = 0 := by
          have := fieldOf_lt x 27 1
          omega
        exact .inl ⟨_, a, _, _, abo, rfl, rfl, ha, h0, ⟨h27, h18, h14, h13, h8, h4⟩, habo, rfl, rfl⟩
    all_goals cases h
  · rintro (⟨d, a, n, k, abo, rfl, rfl, ha, hb, ⟨h27, h18, h14, h13, h8, h4⟩, habo, rfl, rfl⟩ |
      ⟨d, a, n, k, f, b, abo, rfl, rfl, ha, hb, ⟨h27, h18, h13, h8, h4⟩, habo, rfl, rfl, rfl⟩)
    · have hb' : decSel (fieldOf w 0 9) = some .zero := by rw [hb]; rfl
      rw [ha, hb', habo]
      exact decIf_ok_iff.2 ⟨by simp [h18, h13, h8, h4, h14, hb], by simp [h27]⟩
    · rw [ha, hb, habo]
      exact decIf_ok_iff.2 ⟨by simp [h18, h13, h8, h4, h27], by simp [h27]⟩

/-- RATOM's extension word, whose bit 13 says whether it has a destination. -/
def ratomExt (abo : Abo) (c : Sel) (op : AOp) (k : BitVec 4) : Option (BitVec 7) → Nat
  | none => abo.code * 2 ^ 28 + c.code * 2 ^ 18 + op.code * 2 ^ 8 + k.toNat
  | some _ => abo.code * 2 ^ 28 + c.code * 2 ^ 18 + 2 ^ 13 + op.code * 2 ^ 8 + k.toNat

theorem ratomExt_iff (hx : x < 2 ^ 32) {abo : Abo} {c : Sel} {op : AOp} {k : BitVec 4} {ret : Option (BitVec 7)} :
    ratomExt abo c op k ret = x ↔
      (fieldOf x 27 1 = 0 ∧ fieldOf x 14 4 = 0 ∧ fieldOf x 6 2 = 0 ∧ fieldOf x 4 2 = 0) ∧
        fieldOf x 13 1 = (if ret.isSome then 1 else 0) ∧
        fieldOf x 28 4 = abo.code ∧ fieldOf x 18 9 = c.code ∧ fieldOf x 8 5 = op.code ∧ fieldOf x 0 4 = k.toNat := by
  have := abo.code_lt
  have := c.code_lt
  have := op.code_lt
  cases ret <;> simp only [ratomExt, fieldOf, Option.isSome, if_true, if_false, Bool.false_eq_true] <;> omega

theorem decRATOM_ok_iff (hx : x < 2 ^ 32) :
    decRATOM w x = .ok i ↔ ∃ op ret a b c k abo, i = .ratom op ret a b c k abo ∧
      fieldOf w 18 7 = (ret.getD 0).toNat ∧ fieldOf w 9 9 = a.code ∧ fieldOf w 0 9 = b.code ∧
      ratomExt abo c op k ret = x := by
  simp only [ratomExt_iff hx, ← decSel_fieldOf, ← decAbo_eq_some, ← decAOp_eq_some, ← ofNat_fieldOf_eq_iff, decRATOM, dOf,
    aOf, bOf]
  constructor
  · intro h
    split at h
    · next a b c op abo ha hb hc hop habo =>
      obtain ⟨hz, rfl⟩ := decIf_ok_iff.1 h
      simp only [List.forall_mem_cons, decide_eq_true_eq] at hz
      obtain ⟨h27, h14, h6, h4, hret, -⟩ := hz
      refine ⟨op, _, a, b, c, _, abo, rfl, ?_, ha, hb, ⟨h27, h14, h6, h4⟩, ?_, habo, hc, hop, rfl⟩
      · split
        · rfl
        · next hr => rw [hret.resolve_left hr]; rfl
      · have := fieldOf_lt x 13 1
        split
        · assumption
        · dsimp; omega
    all_goals cases h
  · rintro ⟨op, ret, a, b, c, k, abo, rfl, hd, ha, hb, ⟨h27, h14, h6, h4⟩, h13, habo, hc, hop, rfl⟩
    rw [ha, hb, hc, hop, habo]
    refine decIf_ok_iff.2 ⟨?_, ?_⟩
    · cases ret with
      | none => simpa [h27, h14, h6, h4] using .inr (ofNat_fieldOf_eq_iff.1 hd)
      | some d => simp_all
    · cases ret <;> simp_all

theorem raccExt_iff (hx : x < 2 ^ 32) {abo : Abo} {n : BitVec 2} {k : BitVec 4} :
    abo.code * 2 ^ 28 + n.toNat * 2 ^ 6 + k.toNat = x ↔
      (fieldOf x 8 20 = 0 ∧ fieldOf x 4 2 = 0) ∧ fieldOf x 28 4 = abo.code ∧ fieldOf x 6 2 = n.toNat ∧
        fieldOf x 0 4 = k.toNat := by
  have := abo.code_lt
  simp only [fieldOf]
  omega

theorem decRACC_ok_iff (hx : x < 2 ^ 32) :
    decRACC w x = .ok i ↔ ∃ d a n k abo, i = .racc d a n k abo ∧
      fieldOf w 18 7 = d.toNat ∧ fieldOf w 9 9 = a.code ∧ fieldOf w 0 9 = 0 ∧
      abo.code * 2 ^ 28 + n.toNat * 2 ^ 6 + k.toNat = x := by
  simp only [raccExt_iff hx, ← decSel_fieldOf, ← decAbo_eq_some, ← ofNat_fieldOf_eq_iff, decRACC, dOf, aOf]
  constructor
  · intro h
    split at h
    · next a abo ha habo =>
      obtain ⟨hz, rfl⟩ := decIf_ok_iff.1 h
      simp only [List.forall_mem_cons, decide_eq_true_eq] at hz
      obtain ⟨hb, h8, h4, -⟩ := hz
      exact ⟨_, a, _, _, abo, rfl, rfl, ha, hb, ⟨h8, h4⟩, habo, rfl, rfl⟩
    all_goals cases h
  · rintro ⟨d, a, n, k, abo, rfl, rfl, ha, hb, ⟨h8, h4⟩, habo, rfl, rfl⟩
    rw [ha, habo]
    exact decIf_ok_iff.2 ⟨by simp [hb, h8, h4], rfl⟩

/-! SEL (08 R193), SPST and SPLD (07 R166). -/

theorem decide_flag_eq {lo : Nat} {b : Bool} : decide (fieldOf w lo 1 = 1) = b ↔ fieldOf w lo 1 = if b then 1 else 0 := by
  have := fieldOf_lt w lo 1
  cases b
  · simp only [decide_eq_false_iff_not, Bool.false_eq_true, if_false]
    omega
  · simp

theorem selExt_iff (hx : x < 2 ^ 32) {c : Sel} {inv : Bool} :
    c.code + (if inv then 512 else 0) = x ↔
      fieldOf x 10 22 = 0 ∧ fieldOf x 0 9 = c.code ∧ fieldOf x 9 1 = if inv then 1 else 0 := by
  have := c.code_lt
  cases inv <;> simp only [fieldOf, if_true, if_false, Bool.false_eq_true] <;> omega

theorem decSEL_ok_iff (hx : x < 2 ^ 32) :
    decSEL w x = .ok i ↔ ∃ d a b c inv, i = .sel d a b c inv ∧
      fieldOf w 18 7 = d.toNat ∧ fieldOf w 9 9 = a.code ∧ fieldOf w 0 9 = b.code ∧
      c.code + (if inv then 512 else 0) = x := by
  simp only [selExt_iff hx, ← decide_flag_eq, ← decSel_fieldOf, ← ofNat_fieldOf_eq_iff, decSEL, dOf, aOf, bOf]
  constructor
  · intro h
    split at h
    · next a b c ha hb hc =>
      obtain ⟨hz, rfl⟩ := decIf_ok_iff.1 h
      exact ⟨_, a, b, c, _, rfl, rfl, ha, hb, by simpa using hz, hc, rfl⟩
    · cases h
  · rintro ⟨d, a, b, c, inv, rfl, rfl, ha, hb, hz, hc, rfl⟩
    rw [ha, hb, hc]
    exact decIf_ok_iff.2 ⟨by simpa using hz, rfl⟩

theorem spExt_iff (hx : x < 2 ^ 32) {n : BitVec 4} {off : BitVec 16} :
    n.toNat * 2 ^ 16 + off.toNat = x ↔
      fieldOf x 20 12 = 0 ∧ fieldOf x 16 4 = n.toNat ∧ fieldOf x 0 16 = off.toNat := by
  simp only [fieldOf]
  omega

theorem fieldOf_ab_zero : fieldOf w 0 18 = 0 ↔ fieldOf w 9 9 = 0 ∧ fieldOf w 0 9 = 0 := by
  simp only [fieldOf]
  omega

theorem decSP_ok_iff (hx : x < 2 ^ 32) {mk : BitVec 7 → BitVec 4 → BitVec 16 → Instr} :
    decSP mk w x = .ok i ↔ ∃ d n off, i = mk d n off ∧
      fieldOf w 18 7 = d.toNat ∧ fieldOf w 9 9 = 0 ∧ fieldOf w 0 9 = 0 ∧ n.toNat * 2 ^ 16 + off.toNat = x := by
  simp only [spExt_iff hx, ← ofNat_fieldOf_eq_iff, decSP, decIf_ok_iff, fieldOf_ab_zero, List.forall_mem_cons,
    decide_eq_true_eq, dOf]
  constructor
  · rintro ⟨⟨⟨ha, hb⟩, h20, -⟩, rfl⟩
    exact ⟨_, _, _, rfl, rfl, ha, hb, h20, rfl, rfl⟩
  · rintro ⟨d, n, off, rfl, rfl, ha, hb, h20, rfl, rfl⟩
    exact ⟨⟨⟨ha, hb⟩, h20, by simp⟩, rfl⟩

/-! TREC and TPOP (10 R250). -/

/-- KIND, N and SUB of TREC, as they stand in its extension word. -/
def TrecKind.code : TrecKind → Nat
  | .value n => n.toNat * 2 ^ 6
  | .lvalue f => 2 ^ 8 + 2 ^ 6 + f.toNat * 2 ^ 4
  | .index => 2 * 2 ^ 8

/-- The fields of an extension word that say what TREC records. -/
def TrecKind.In (x : Nat) : TrecKind → Prop
  | .value n => fieldOf x 8 2 = 0 ∧ fieldOf x 4 2 = 0 ∧ BitVec.ofNat 2 (fieldOf x 6 2) = n
  | .lvalue f => fieldOf x 8 2 = 1 ∧ fieldOf x 6 2 = 1 ∧ BitVec.ofNat 2 (fieldOf x 4 2) = f
  | .index => fieldOf x 8 2 = 2 ∧ fieldOf x 4 4 = 0

theorem trecExt_iff (hx : x < 2 ^ 32) {k : TrecKind} {s : BitVec 1} :
    k.code + s.toNat = x ↔ (fieldOf x 10 22 = 0 ∧ fieldOf x 1 3 = 0) ∧ k.In x ∧ fieldOf x 0 1 = s.toNat := by
  cases k <;> simp only [TrecKind.code, TrecKind.In, ofNat_fieldOf_eq_iff] <;> simp only [fieldOf] <;> omega

theorem decTREC_ok_iff (hx : x < 2 ^ 32) :
    decTREC w x = .ok i ↔ ∃ d k s, i = .trec d k s ∧
      fieldOf w 18 7 = d.toNat ∧ fieldOf w 9 9 = 0 ∧ fieldOf w 0 9 = 0 ∧ k.code + s.toNat = x := by
  simp only [trecExt_iff hx, ← ofNat_fieldOf_eq_iff, decTREC, dOf]
  constructor
  · intro h
    split at h
    case h_1 hk | h_2 hk | h_3 hk =>
      simp only [decIf_ok_iff, List.forall_mem_append, List.forall_mem_cons, decide_eq_true_eq, fieldOf_ab_zero] at h
      obtain ⟨⟨⟨⟨ha, hb⟩, h10, h1, -⟩, hf, -⟩, rfl⟩ := h
      exact ⟨_, _, _, rfl, rfl, ha, hb, ⟨h10, h1⟩, by simp [TrecKind.In, hk, hf], rfl⟩
    · cases h
  · rintro ⟨d, k, s, rfl, rfl, ha, hb, ⟨h10, h1⟩, hk, rfl⟩
    cases k with
    | value n =>
      obtain ⟨h8, hf, rfl⟩ := hk
      rw [h8]
      exact decIf_ok_iff.2 ⟨by simp [fieldOf_ab_zero, ha, hb, h10, h1, hf], rfl⟩
    | lvalue f =>
      obtain ⟨h8, hf, rfl⟩ := hk
      rw [h8]
      exact decIf_ok_iff.2 ⟨by simp [fieldOf_ab_zero, ha, hb, h10, h1, hf], rfl⟩
    | index =>
      obtain ⟨h8, hf⟩ := hk
      rw [h8]
      exact decIf_ok_iff.2 ⟨by simp [fieldOf_ab_zero, ha, hb, h10, h1, hf], rfl⟩

/-- KIND and N of TPOP, as they stand in its extension word. -/
def TpopKind.code : TpopKind → Nat
  | .value n => n.toNat * 2 ^ 6
  | .index => 2 * 2 ^ 8

/-- The fields of an extension word that say what TPOP accepts. -/
def TpopKind.In (x : Nat) : TpopKind → Prop
  | .value n => fieldOf x 8 2 = 0 ∧ BitVec.ofNat 2 (fieldOf x 6 2) = n
  | .index => fieldOf x 8 2 = 2 ∧ fieldOf x 6 2 = 0

theorem tpopExt_iff (hx : x < 2 ^ 32) {k : TpopKind} {s : BitVec 1} :
    k.code + s.toNat = x ↔ (fieldOf x 10 22 = 0 ∧ fieldOf x 1 5 = 0) ∧ k.In x ∧ fieldOf x 0 1 = s.toNat := by
  cases k <;> simp only [TpopKind.code, TpopKind.In, ofNat_fieldOf_eq_iff] <;> simp only [fieldOf] <;> omega

theorem decTPOP_ok_iff (hx : x < 2 ^ 32) :
    decTPOP w x = .ok i ↔ ∃ d k s, i = .tpop d k s ∧
      fieldOf w 18 7 = d.toNat ∧ fieldOf w 9 9 = 0 ∧ fieldOf w 0 9 = 0 ∧ k.code + s.toNat = x := by
  simp only [tpopExt_iff hx, ← ofNat_fieldOf_eq_iff, decTPOP, dOf]
  constructor
  · intro h
    split at h
    · next hk =>
      simp only [decIf_ok_iff, List.forall_mem_cons, decide_eq_true_eq, fieldOf_ab_zero] at h
      obtain ⟨⟨⟨ha, hb⟩, h10, h1, -⟩, rfl⟩ := h
      exact ⟨_, _, _, rfl, rfl, ha, hb, ⟨h10, h1⟩, ⟨hk, rfl⟩, rfl⟩
    · next hk =>
      simp only [decIf_ok_iff, List.forall_mem_append, List.forall_mem_cons, decide_eq_true_eq, fieldOf_ab_zero] at h
      obtain ⟨⟨⟨⟨ha, hb⟩, h10, h1, -⟩, hf, -⟩, rfl⟩ := h
      exact ⟨_, _, _, rfl, rfl, ha, hb, ⟨h10, h1⟩, ⟨hk, hf⟩, rfl⟩
    · cases h
  · rintro ⟨d, k, s, rfl, rfl, ha, hb, ⟨h10, h1⟩, hk, rfl⟩
    cases k with
    | value n =>
      obtain ⟨h8, rfl⟩ := hk
      rw [h8]
      exact decIf_ok_iff.2 ⟨by simp [fieldOf_ab_zero, ha, hb, h10, h1], rfl⟩
    | index =>
      obtain ⟨h8, hf⟩ := hk
      rw [h8]
      exact decIf_ok_iff.2 ⟨by simp [fieldOf_ab_zero, ha, hb, h10, h1, hf], rfl⟩

end Sys2Proof
end

section
/-! The uniform set (06 R141, R145): what each of its decoders accepts, said of the fields of the words. -/

namespace Sys2Proof

variable {w x : Nat} {i : Instr}

theorem decWCond_eq {n : Nat} (h : n < 4) {c : WCond} : decWCond n = c ↔ n = c.code := by
  interval_cases n <;> cases c <;> decide

theorem WCond.code_lt (c : WCond) : c.code < 4 := by cases c <;> decide
theorem Hint.code_lt (h : Hint) : h.code < 4 := by cases h <;> decide
theorem BField.code_lt (f : BField) : f.code < 8 := by cases f <;> decide

theorem gdOf_eq {d : BitVec 6} : gdOf w = d ↔ fieldOf w 19 6 = d.toNat := ofNat_fieldOf_eq_iff

theorem gaOf_eq_some {a : Sel} : gaOf w = some a ↔ fieldOf w 10 9 = a.code := decSel_fieldOf

/-- B of a GA or GE word where it is a source selector (R142). -/
theorem gbOf_ok_iff {b : UOpd} :
    gbOf w x = .ok b ↔ (∃ s, b = .sel s ∧ fieldOf w 0 1 = 0 ∧ fieldOf w 1 9 = s.code) ∨
      b = .imm (BitVec.ofNat 32 x) ∧ fieldOf w 0 1 = 1 ∧ fieldOf w 1 9 = 0 := by
  have hlt := fieldOf_lt w 0 1
  unfold gbOf
  constructor
  · intro h
    split_ifs at h with hx hb
    · cases h
      exact .inr ⟨rfl, hx, hb⟩
    · split at h
      · next s hs =>
        cases h
        exact .inl ⟨s, rfl, by omega, decSel_fieldOf.1 hs⟩
      · cases h
  · rintro (⟨s, rfl, hx, hs⟩ | ⟨rfl, hx, hb⟩)
    · rw [if_neg (by omega), decSel_fieldOf.2 hs]
    · rw [if_pos hx, if_pos hb]

/-- A GA or GE word with its B operand, by its fields: one word, or two with an imm32 (R142). -/
structure OperandWord (w x op d a : Nat) (b : UOpd) : Prop extends Head w 1 op where
  x_lt : x < 2 ^ 32
  d : fieldOf w 19 6 = d
  a : fieldOf w 10 9 = a
  b : gbOf w x = .ok b

theorem OperandWord.words {op d a : Nat} {b : UOpd} (h : OperandWord w x op d a b) (hop : bIsSource op = true) :
    encGAB op d a b = wordsOf w x := by
  obtain ⟨hw, hx, hd, ha, hb⟩ := h
  rcases gbOf_ok_iff.1 hb with ⟨s, rfl, h0, hs⟩ | ⟨rfl, h0, hz⟩
  · have h10 : fieldOf w 0 10 ≠ 1 := by
      simp only [fieldOf] at *
      omega
    rw [encGAB, (UniWord.mk hw hd ha hs h0).eq_encGA, hw.wordsOf_uni, if_neg (by simp [h10])]
  · have h10 : fieldOf w 0 10 = 1 := by
      simp only [fieldOf] at *
      omega
    rw [encGAB, (UniWord.mk hw hd ha hz h0).eq_encGA, hw.wordsOf_uni, if_pos ⟨hop, h10⟩, BitVec.toNat_ofNat,
      Nat.mod_eq_of_lt hx]

/-! Decoders of a whole format. -/

theorem decGA3_ok_iff {mk : BitVec 6 → Sel → UOpd → Instr} :
    decGA3 mk w x = .ok i ↔ ∃ d a b, i = mk d a b ∧
      fieldOf w 19 6 = d.toNat ∧ fieldOf w 10 9 = a.code ∧ gbOf w x = .ok b := by
  simp only [← gaOf_eq_some, ← gdOf_eq, decGA3]
  constructor
  · intro h
    split at h
    · next a b ha hb => cases h; exact ⟨_, a, b, rfl, rfl, ha, hb⟩
    all_goals cases h
  · rintro ⟨d, a, b, rfl, rfl, ha, hb⟩
    rw [ha, hb]

theorem decGAB_ok_iff {mk : Sel → UOpd → Dec} :
    decGAB mk w x = .ok i ↔ ∃ a b, mk a b = .ok i ∧ fieldOf w 10 9 = a.code ∧ gbOf w x = .ok b := by
  simp only [← gaOf_eq_some, decGAB]
  constructor
  · intro h
    split at h
    · next a b ha hb => exact ⟨a, b, h, ha, hb⟩
    all_goals cases h
  · rintro ⟨a, b, h, ha, hb⟩
    rw [ha, hb]
    exact h

theorem decGB1_ok_iff {mk : UOpd → Dec} :
    decGB1 mk w x = .ok i ↔ ∃ b, mk b = .ok i ∧ fieldOf w 10 9 = 0 ∧ gbOf w x = .ok b := by
  unfold decGB1
  constructor
  · intro h
    split_ifs at h with ha
    split at h
    · next b hb => exact ⟨b, h, ha, hb⟩
    · cases h
  · rintro ⟨b, h, ha, hb⟩
    rw [if_pos ha, hb]
    exact h

theorem decGA1_ok_iff {mk : Sel → Dec} :
    decGA1 mk w = .ok i ↔ ∃ a, mk a = .ok i ∧ fieldOf w 10 9 = a.code := by
  simp only [← gaOf_eq_some, decGA1]
  constructor
  · intro h
    split at h
    · next a ha => exact ⟨a, h, ha⟩
    · cases h
  · rintro ⟨a, h, ha⟩
    rw [ha]
    exact h

theorem decGB_ok_iff {mk : BitVec 6 → BitVec 17 → Hint → Dec} :
    decGB mk w = .ok i ↔ ∃ c p h, mk c p h = .ok i ∧
      fieldOf w 19 6 = c.toNat ∧ fieldOf w 2 17 = p.toNat ∧ fieldOf w 0 2 = h.code := by
  simp only [← decHint_eq_some, ← ofNat_fieldOf_eq_iff, decGB, gdOf]
  constructor
  · intro h
    split at h
    · next k hk => exact ⟨_, _, k, h, rfl, rfl, hk⟩
    · cases h
  · rintro ⟨c, p, k, h, rfl, rfl, hk⟩
    rw [hk]
    exact h

/-- The A field of a GE word is the code of a G register with T = 0 (R141). -/
theorem fieldOf_gcode {g : BitVec 6} : fieldOf w 10 9 = 0x80 + g.toNat ↔ fieldOf w 16 3 = 2 ∧ gcOf w = g :=
  (fieldOf_split_eq (m := 6) (n := 3) (h := 2) g.isLt).trans (and_congr_right' ofNat_fieldOf_eq_iff.symm)

theorem bxZero_all : (∀ p ∈ bxZero w, p.1 = true) ↔ fieldOf w 1 9 = 0 ∧ fieldOf w 0 1 = 0 := by
  simp [bxZero, and_comm]

theorem decGE0_ok_iff {l : List (Bool × Illegal)} {j : Instr} :
    decGE0 l j w = .ok i ↔ i = j ∧ (∀ p ∈ l, p.1 = true) ∧
      fieldOf w 10 9 = 0x80 + (gcOf w).toNat ∧ fieldOf w 1 9 = 0 ∧ fieldOf w 0 1 = 0 := by
  simp only [decGE0, decIf_ok_iff, List.forall_mem_cons, List.forall_mem_append, bxZero_all, fieldOf_gcode, geA,
    decide_eq_true_eq]
  tauto

theorem decGEB_ok_iff {l : List (Bool × Illegal)} {mk : UOpd → Instr} :
    decGEB l mk w x = .ok i ↔ ∃ b, i = mk b ∧ (∀ p ∈ l, p.1 = true) ∧
      fieldOf w 10 9 = 0x80 + (gcOf w).toNat ∧ gbOf w x = .ok b := by
  simp only [fieldOf_gcode, and_true, decGEB]
  constructor
  · intro h
    split at h
    · next b hb =>
      simp only [decIf_ok_iff, List.forall_mem_cons, geA, decide_eq_true_eq] at h
      obtain ⟨⟨hg, hl⟩, rfl⟩ := h
      exact ⟨b, rfl, hl, hg, hb⟩
    · cases h
  · rintro ⟨b, rfl, hl, hg, hb⟩
    rw [hb]
    exact decIf_ok_iff.2 ⟨List.forall_mem_cons.2 ⟨by simp [geA, hg], hl⟩, rfl⟩

theorem decTapeS_ok_iff {l : List (Bool × Illegal)} {mk : BitVec 1 → BitVec 6 → Instr} :
    decTapeS l mk w = .ok i ↔ ∃ s d, i = mk s d ∧ (∀ p ∈ l, p.1 = true) ∧
      fieldOf w 19 6 = d.toNat ∧ fieldOf w 10 9 = s.toNat := by
  have hs : ∀ s : BitVec 1, fieldOf w 10 9 = s.toNat ↔ fieldOf w 11 8 = 0 ∧ fieldOf w 10 1 = s.toNat := fun s =>
    fieldOf_pad_eq (m := 1) (n := 8) s.isLt
  simp only [hs, ← ofNat_fieldOf_eq_iff, decTapeS, decIf_ok_iff, List.forall_mem_cons, decide_eq_true_eq, gdOf]
  constructor
  · rintro ⟨⟨hz, hl⟩, rfl⟩
    exact ⟨_, _, rfl, hl, rfl, hz, rfl⟩
  · rintro ⟨s, d, rfl, hl, rfl, hz, rfl⟩
    exact ⟨⟨hz, hl⟩, rfl⟩

/-! Decoders of one opcode. -/

theorem decGCMP_ok_iff :
    decGCMP w = .ok i ↔ ∃ c d a b, i = .gcmp c d a b ∧ condOk true false c = true ∧
      fieldOf w 21 4 = c.code ∧ fieldOf w 16 5 = d.toNat ∧ fieldOf w 8 8 = a.code ∧ fieldOf w 0 8 = b.code := by
  simp only [← decSrc_eq_some, ← ofNat_fieldOf_eq_iff, decGCMP]
  constructor
  · intro h
    split at h
    · cases h
    · next c hc =>
      split at h
      · next a b ha hb =>
        cases h
        obtain ⟨hc, hok⟩ := decCondOf_eq_some.1 hc
        exact ⟨c, _, a, b, rfl, hok, hc, rfl, ha, hb⟩
      · cases h
  · rintro ⟨c, d, a, b, rfl, hok, hc, rfl, ha, hb⟩
    rw [decCondOf_eq_some.2 ⟨hc, hok⟩, ha, hb]

theorem decRDLANE_ok_iff :
    decRDLANE w x = .ok i ↔ ∃ d a t b, i = .rdlane d a t b ∧
      fieldOf w 19 6 = d.toNat ∧ fieldOf w 10 9 = vCode a t ∧ gbOf w x = .ok b := by
  simp only [← vOf_eq_some (show _ < 512 from fieldOf_lt w 10 9), ← gdOf_eq, decRDLANE]
  constructor
  · intro h
    split at h
    · next a t b ha hb => cases h; exact ⟨_, a, t, b, rfl, rfl, ha, hb⟩
    all_goals cases h
  · rintro ⟨d, a, t, b, rfl, rfl, ha, hb⟩
    rw [ha, hb]

theorem fenceCode_iff {f : Nat} (hf : f < 4) {o : Order} {sc : Scope} :
    fieldOf w 1 9 = f * 32 + o.code * 8 + sc.code ↔
      (fieldOf w 8 2 = 0 ∧ fieldOf w 6 2 = f) ∧ fieldOf w 4 2 = o.code ∧ fieldOf w 1 3 = sc.code := by
  have := o.code_lt
  have := sc.code_lt
  simp only [fieldOf]
  omega

theorem fieldOf_da_zero : fieldOf w 10 15 = 0 ↔ fieldOf w 19 6 = 0 ∧ fieldOf w 10 9 = 0 :=
  fieldOf_pad_eq (m := 9) (n := 6) (Nat.two_pow_pos 9)

/-- FENCE and FENCE.FLUSH (07 R171): bit 5 of the B field tells them apart. -/
theorem decFENCE_ok_iff :
    decFENCE w = .ok i ↔ ∃ o sc, (i = .fence o sc ∧ fieldOf w 1 9 = 0 * 32 + o.code * 8 + sc.code ∨
        i = .fenceFlush o sc ∧ fieldOf w 1 9 = 1 * 32 + o.code * 8 + sc.code) ∧
      fieldOf w 19 6 = 0 ∧ fieldOf w 10 9 = 0 ∧ fieldOf w 0 1 = 0 := by
  simp only [fenceCode_iff (show 0 < 4 by decide), fenceCode_iff (show 1 < 4 by decide), ← decOrder_fieldOf,
    ← decScope_eq_some, decFENCE]
  constructor
  · intro h
    split at h
    · cases h
    · next sc hsc =>
      split at h
      · next hf =>
        simp only [decIf_ok_iff, List.forall_mem_cons, decide_eq_true_eq, fieldOf_da_zero] at h
        obtain ⟨⟨⟨hd, ha⟩, hx, hz, -⟩, rfl⟩ := h
        exact ⟨_, sc, .inl ⟨rfl, ⟨hz, hf⟩, rfl, hsc⟩, hd, ha, hx⟩
      · next hf =>
        simp only [decIf_ok_iff, List.forall_mem_cons, decide_eq_true_eq, fieldOf_da_zero] at h
        obtain ⟨⟨⟨hd, ha⟩, hx, hz, -⟩, rfl⟩ := h
        exact ⟨_, sc, .inr ⟨rfl, ⟨hz, hf⟩, rfl, hsc⟩, hd, ha, hx⟩
      · cases h
  · rintro ⟨o, sc, ⟨rfl, ⟨hz, hf⟩, rfl, hsc⟩ | ⟨rfl, ⟨hz, hf⟩, rfl, hsc⟩, hd, ha, hx⟩
    all_goals
      simp only [hsc, hf]
      exact decIf_ok_iff.2 ⟨by simp [fieldOf_da_zero, hd, ha, hx, hz], rfl⟩

theorem decPUBLISH_ok_iff :
    decPUBLISH w = .ok i ↔ ∃ sc a, i = .publish sc a ∧
      fieldOf w 19 6 = 0 ∧ fieldOf w 10 9 = a.code ∧ fieldOf w 1 9 = sc.code ∧ fieldOf w 0 1 = 0 := by
  have hb : ∀ sc : Scope, fieldOf w 1 9 = sc.code ↔ fieldOf w 4 6 = 0 ∧ fieldOf w 1 3 = sc.code := fun sc =>
    fieldOf_pad_eq (m := 3) (n := 6) sc.code_lt
  simp only [hb, ← gaOf_eq_some, ← decScope_eq_some, decPUBLISH]
  constructor
  · intro h
    split at h
    · next a sc ha hsc =>
      simp only [decIf_ok_iff, List.forall_mem_cons, decide_eq_true_eq] at h
      obtain ⟨⟨hd, hx, hz, -⟩, rfl⟩ := h
      exact ⟨sc, a, rfl, hd, ha, ⟨hz, hsc⟩, hx⟩
    all_goals cases h
  · rintro ⟨sc, a, rfl, hd, ha, ⟨hz, hsc⟩, hx⟩
    rw [ha, hsc]
    exact decIf_ok_iff.2 ⟨by simp [hd, hx, hz], rfl⟩

theorem abarCode_iff {f : Nat} (hf : f < 4) {k : BitVec 3} :
    fieldOf w 19 6 = k.toNat + f * 8 ↔ (fieldOf w 24 1 = 0 ∧ fieldOf w 22 2 = f) ∧ fieldOf w 19 3 = k.toNat := by
  simp only [fieldOf]
  omega

/-- ABAR's three members (14 R364): bits 22 and 23 tell them apart. -/
theorem decABAR_ok_iff {b : UOpd} :
    decABAR w b = .ok i ↔ ∃ k, i = .abarAdd k b ∧ fieldOf w 19 6 = k.toNat + 0 * 8 ∨
      i = .abarSub k b ∧ fieldOf w 19 6 = k.toNat + 1 * 8 ∨ i = .abarSet k b ∧ fieldOf w 19 6 = k.toNat + 2 * 8 := by
  simp only [abarCode_iff (show 0 < 4 by decide), abarCode_iff (show 1 < 4 by decide),
    abarCode_iff (show 2 < 4 by decide), ← ofNat_fieldOf_eq_iff, decABAR]
  constructor
  · intro h
    split_ifs at h with hz
    split at h
    · next hf => cases h; exact ⟨_, .inl ⟨rfl, ⟨hz, hf⟩, rfl⟩⟩
    · next hf => cases h; exact ⟨_, .inr (.inl ⟨rfl, ⟨hz, hf⟩, rfl⟩)⟩
    · next hf => cases h; exact ⟨_, .inr (.inr ⟨rfl, ⟨hz, hf⟩, rfl⟩)⟩
    · cases h
  · rintro ⟨k, ⟨rfl, ⟨hz, hf⟩, rfl⟩ | ⟨rfl, ⟨hz, hf⟩, rfl⟩ | ⟨rfl, ⟨hz, hf⟩, rfl⟩⟩
    all_goals simp only [if_pos hz, hf]

theorem decBSET_ok_iff :
    decBSET w x = .ok i ↔ ∃ k b, (i = .bsetAdd k b ∧ fieldOf w 10 9 = 8 ∨
        ∃ f, i = .bset k f b ∧ fieldOf w 10 9 = f.code) ∧ fieldOf w 19 6 = k.toNat ∧ gbOf w x = .ok b := by
  have hd : ∀ k : BitVec 4, fieldOf w 19 6 = k.toNat ↔ fieldOf w 23 2 = 0 ∧ fieldOf w 19 4 = k.toNat := fun k =>
    fieldOf_pad_eq (m := 4) (n := 2) k.isLt
  simp only [hd, ← ofNat_fieldOf_eq_iff, ← decBField_eq_some, decBSET]
  constructor
  · intro h
    split at h
    · cases h
    · next b hb =>
      split_ifs at h with ha
      · simp only [decIf_ok_iff, List.forall_mem_cons, decide_eq_true_eq] at h
        obtain ⟨⟨hz, -⟩, rfl⟩ := h
        exact ⟨_, b, .inl ⟨rfl, ha⟩, ⟨hz, rfl⟩, hb⟩
      · split at h
        · next f hf =>
          simp only [decIf_ok_iff, List.forall_mem_cons, decide_eq_true_eq] at h
          obtain ⟨⟨hz, -⟩, rfl⟩ := h
          exact ⟨_, b, .inr ⟨f, rfl, hf⟩, ⟨hz, rfl⟩, hb⟩
        · cases h
  · rintro ⟨k, b, hi, ⟨hz, rfl⟩, hb⟩
    rw [hb]
    rcases hi with ⟨rfl, ha⟩ | ⟨f, rfl, hf⟩
    · simp only [if_pos ha]
      exact decIf_ok_iff.2 ⟨by simp [hz], rfl⟩
    · have := f.code_lt
      have ha : fieldOf w 10 9 ≠ 8 := by rw [decBField_eq_some.1 hf]; omega
      simp only [if_neg ha, hf]
      exact decIf_ok_iff.2 ⟨by simp [hz], rfl⟩

end Sys2Proof
end

section
/-! Encoding undoes decoding (O5): what the decoder of a lane opcode answers encodes to the words that it was read from. -/

namespace Sys2Proof

variable {w x : Nat} {i : Instr}

theorem decLA1_words {mk : BitVec 7 → Sel → Instr} {op b : Nat} (hw : Head w 0 op) (hop : op < 0x35)
    (hb : fieldOf w 0 9 = b) (he : ∀ d a, encode (mk d a) = [encLA op d.toNat a.code b])
    (h : decLA1 mk w = .ok i) : encode i = wordsOf w x := by
  obtain ⟨d, a, rfl, hd, ha⟩ := decLA1_ok_iff.1 h
  rw [he]
  exact (LaneWord.mk hw hd ha hb).words1 hop

theorem decIUN_words (hw : Head w 0 0x15) (h : decIUN w = .ok i) : encode i = wordsOf w x := by
  unfold decIUN at h
  split at h
  case h_13 => cases h
  all_goals exact decLA1_words hw (by decide) ‹_› (fun _ _ => rfl) h

theorem decFUN_words (hw : Head w 0 0x26) (h : decFUN w = .ok i) : encode i = wordsOf w x := by
  unfold decFUN at h
  split at h
  case h_16 => cases h
  all_goals exact decLA1_words hw (by decide) ‹_› (fun _ _ => rfl) h

theorem decXRED_words (hw : Head w 0 0x1E) (h : decXRED w = .ok i) : encode i = wordsOf w x := by
  unfold decXRED at h
  split at h
  case h_12 => cases h
  all_goals
    obtain ⟨m, d, a, rfl, hz, hm, hd, ha⟩ := decXRED1_ok_iff.1 h
    exact (LaneWord.mk hw hd ha ((fieldOf_modeCode m.code_lt (by decide)).2 ⟨hz, hm, ‹_›⟩)).words1 (by decide)

theorem decLane_words (hlt : w < 2 ^ 32) (hx : x < 2 ^ 32) (hs : fieldOf w 31 1 = 0) (h : decLane w x = .ok i) :
    encode i = wordsOf w x := by
  have head : ∀ {op}, fieldOf w 25 6 = op → Head w 0 op := fun hop => ⟨hlt, hs, hop⟩
  unfold decLane at h
  split at h
  -- an arm's number is its opcode plus 1
  -- LC words
  case h_19 hop | h_20 hop | h_21 hop =>
    obtain ⟨c, g, a, b, rfl, -, hc, hg, ha, hb⟩ := decLC_ok_iff.1 h
    exact (CompareWord.mk (head hop) hc hg ha hb).words_lane (by decide)
  -- LA words whose B field is a code
  case h_22 hop => exact decIUN_words (head hop) h
  case h_31 hop => exact decXRED_words (head hop) h
  case h_32 hop =>
    split_ifs at h with hb
    exact decLA1_words (head hop) (by decide) hb (fun _ _ => rfl) h
  case h_39 hop => exact decFUN_words (head hop) h
  case h_45 hop =>
    obtain ⟨op, m, d, a, rfl, hm, hc, hd, ha⟩ := decCVT_ok_iff.1 h
    exact (LaneWord.mk (head hop) hd ha ((fieldOf_cvtCode op.code_lt).2 ⟨hm, hc⟩)).words1 (by decide)
  case h_46 hop | h_47 hop =>
    obtain ⟨d, a, t, b, rfl, hd, ha, hb⟩ := decQ_ok_iff.1 h
    exact (LaneWord.mk (head hop) hd ha hb).words1 (by decide)
  -- LM words
  case h_50 hop | h_51 hop | h_52 hop | h_53 hop =>
    obtain ⟨d, a, k, sc, o, rfl, hd, ha, hk, hsc, ho⟩ := decLM_ok_iff.1 h
    exact (LaneWord.mk (head hop) hd ha ((fieldOf_scopeCode sc.code_lt o.code_lt).2 ⟨hk, hsc, ho⟩)).words1 (by decide)
  -- LX words
  case h_54 hop =>
    obtain ⟨op, d, a, b, c, k, sc, o, rfl, hd, ha, hb, rfl⟩ := (decATOM_ok_iff hx).1 h
    exact (LaneWord.mk (head hop) hd ha hb).words2 (by decide)
  case h_55 hop =>
    obtain ⟨op, a, b, k, sc, o, rfl, hd, ha, hb, rfl⟩ := (decRED_ok_iff hx).1 h
    exact (LaneWord.mk (head hop) hd ha hb).words2 (by decide)
  case h_56 hop =>
    obtain ⟨d, a, n, k, abo, rfl, hd, ha, hb, rfl⟩ | ⟨d, a, n, k, f, b, abo, rfl, hd, ha, hb, rfl⟩ := (decPUT_ok_iff hx).1 h
    all_goals exact (LaneWord.mk (head hop) hd ha hb).words2 (by decide)
  case h_57 hop =>
    obtain ⟨op, ret, a, b, c, k, abo, rfl, hd, ha, hb, rfl⟩ := (decRATOM_ok_iff hx).1 h
    cases ret <;> exact (LaneWord.mk (head hop) hd ha hb).words2 (by decide)
  case h_58 hop =>
    obtain ⟨d, a, n, k, abo, rfl, hd, ha, hb, rfl⟩ := (decRACC_ok_iff hx).1 h
    exact (LaneWord.mk (head hop) hd ha hb).words2 (by decide)
  case h_59 hop =>
    obtain ⟨d, a, b, c, inv, rfl, hd, ha, hb, rfl⟩ := (decSEL_ok_iff hx).1 h
    exact (LaneWord.mk (head hop) hd ha hb).words2 (by decide)
  case h_60 hop | h_61 hop =>
    obtain ⟨d, n, off, rfl, hd, ha, hb, rfl⟩ := (decSP_ok_iff hx).1 h
    exact (LaneWord.mk (head hop) hd ha hb).words2 (by decide)
  case h_62 hop =>
    obtain ⟨d, k, s, rfl, hd, ha, hb, rfl⟩ := (decTREC_ok_iff hx).1 h
    cases k <;> exact (LaneWord.mk (head hop) hd ha hb).words2 (by decide)
  case h_63 hop =>
    obtain ⟨d, k, s, rfl, hd, ha, hb, rfl⟩ := (decTPOP_ok_iff hx).1 h
    cases k <;> exact (LaneWord.mk (head hop) hd ha hb).words2 (by decide)
  case h_64 => cases h
  -- LA words with two sources
  all_goals
    next hop =>
      obtain ⟨d, a, b, rfl, hd, ha, hb⟩ := decLA2_ok_iff.1 h
      exact (LaneWord.mk (head hop) hd ha hb).words1 (by decide)

end Sys2Proof
end

section
/-! Encoding undoes decoding (O5): what the decoder of a uniform opcode answers encodes to the words that it was read from. -/

namespace Sys2Proof

variable {w x : Nat} {i : Instr}

theorem toNat_gdOf (w : Nat) : fieldOf w 19 6 = (gdOf w).toNat := (toNat_ofNat_fieldOf w 19 6).symm

theorem decGUN_words (hw : Head w 1 0x0F) (h : decGUN w = .ok i) : encode i = wordsOf w x := by
  unfold decGUN at h
  split_ifs at h with hx
  have h0 : fieldOf w 0 1 = 0 := by
    have := fieldOf_lt w 0 1
    omega
  split at h
  case h_7 => cases h
  all_goals
    next hb =>
      obtain ⟨a, h, ha⟩ := decGA1_ok_iff.1 h
      cases h
      exact (UniWord.mk hw (toNat_gdOf w) ha hb h0).words (by decide)

theorem decSYS_words (hw : Head w 1 0x27) (h : decSYS w = .ok i) : encode i = wordsOf w x := by
  unfold decSYS at h
  split at h
  -- neither D nor A
  case h_1 hb | h_2 hb | h_4 hb | h_5 hb | h_8 hb =>
    simp only [decIf_ok_iff, List.forall_mem_cons, decide_eq_true_eq] at h
    obtain ⟨⟨h0, hd, ha, -⟩, rfl⟩ := h
    exact (UniWord.mk hw hd ha hb h0).words (by decide)
  -- A alone
  case h_3 hb | h_12 hb =>
    obtain ⟨a, h, ha⟩ := decGA1_ok_iff.1 h
    simp only [decIf_ok_iff, List.forall_mem_cons, decide_eq_true_eq] at h
    obtain ⟨⟨h0, hd, -⟩, rfl⟩ := h
    exact (UniWord.mk hw hd ha hb h0).words (by decide)
  -- D and A
  case h_6 hb | h_7 hb =>
    obtain ⟨a, h, ha⟩ := decGA1_ok_iff.1 h
    simp only [decIf_ok_iff, List.forall_mem_cons, decide_eq_true_eq] at h
    obtain ⟨⟨h0, -⟩, rfl⟩ := h
    exact (UniWord.mk hw (toNat_gdOf w) ha hb h0).words (by decide)
  -- D alone
  case h_9 hb | h_10 hb =>
    simp only [decIf_ok_iff, List.forall_mem_cons, decide_eq_true_eq] at h
    obtain ⟨⟨h0, ha, -⟩, rfl⟩ := h
    exact (UniWord.mk hw (toNat_gdOf w) ha hb h0).words (by decide)
  -- a command block
  case h_11 hb =>
    simp only [decIf_ok_iff, List.forall_mem_cons, decide_eq_true_eq] at h
    obtain ⟨⟨h0, hd, hg, -⟩, rfl⟩ := h
    exact (UniWord.mk hw hd (fieldOf_gcode.2 ⟨hg, rfl⟩) hb h0).words (by decide)
  case h_13 => cases h

theorem decUni_words (hlt : w < 2 ^ 32) (hx : x < 2 ^ 32) (hs : fieldOf w 31 1 = 1) (h : decUni w x = .ok i) :
    encode i = wordsOf w x := by
  have head : ∀ {op}, fieldOf w 25 6 = op → Head w 1 op := fun hop => ⟨hlt, hs, hop⟩
  unfold decUni at h
  split at h
  -- an arm's number is its opcode plus 1
  -- GA words with D, A and B
  case h_1 hop | h_2 hop | h_3 hop | h_4 hop | h_5 hop | h_6 hop | h_7 hop | h_8 hop | h_9 hop | h_10 hop | h_11 hop |
      h_12 hop | h_13 hop | h_19 hop | h_20 hop | h_21 hop | h_56 hop =>
    obtain ⟨d, a, b, rfl, hd, ha, hb⟩ := decGA3_ok_iff.1 h
    exact (OperandWord.mk (head hop) hx hd ha hb).words (by decide)
  -- GA words with D and B
  case h_14 hop | h_18 hop =>
    obtain ⟨b, h, ha, hb⟩ := decGB1_ok_iff.1 h
    cases h
    exact (OperandWord.mk (head hop) hx (toNat_gdOf w) ha hb).words (by decide)
  case h_15 hop =>
    obtain ⟨c, d, a, b, rfl, -, hc, hd, ha, hb⟩ := decGCMP_ok_iff.1 h
    exact (CompareWord.mk (head hop) hc hd ha hb).words_uni (by decide)
  case h_16 hop => exact decGUN_words (head hop) h
  case h_17 hop =>
    obtain ⟨d, a, t, b, rfl, hd, ha, hb⟩ := decRDLANE_ok_iff.1 h
    exact (OperandWord.mk (head hop) hx hd ha hb).words (by decide)
  -- SPADJ, FENCE, PUBLISH
  case h_22 hop =>
    obtain ⟨b, h, ha, hb⟩ := decGB1_ok_iff.1 h
    simp only [decIf_ok_iff, List.forall_mem_cons, decide_eq_true_eq] at h
    obtain ⟨⟨hd, -⟩, rfl⟩ := h
    exact (OperandWord.mk (head hop) hx hd ha hb).words (by decide)
  case h_23 hop =>
    obtain ⟨o, sc, ⟨rfl, hb⟩ | ⟨rfl, hb⟩, hd, ha, h0⟩ := decFENCE_ok_iff.1 h
    · rw [Nat.zero_mul, Nat.zero_add] at hb
      exact (UniWord.mk (head hop) hd ha hb h0).words (by decide)
    · exact (UniWord.mk (head hop) hd ha hb h0).words (by decide)
  case h_24 hop =>
    obtain ⟨sc, a, rfl, hd, ha, hb, h0⟩ := decPUBLISH_ok_iff.1 h
    exact (UniWord.mk (head hop) hd ha hb h0).words (by decide)
  -- branches
  case h_25 hop =>
    obtain ⟨c, p, k, h, hc, hp, hk⟩ := decGB_ok_iff.1 h
    simp only [decIf_ok_iff, List.forall_mem_cons, beq_iff_eq] at h
    obtain ⟨⟨rfl, -⟩, rfl⟩ := h
    exact (BranchWord.mk (head hop) hc hp hk).words (by decide)
  case h_26 hop | h_27 hop | h_28 hop | h_29 hop | h_30 hop | h_31 hop | h_32 hop =>
    obtain ⟨c, p, k, h, hc, hp, hk⟩ := decGB_ok_iff.1 h
    cases h
    exact (BranchWord.mk (head hop) hc hp hk).words (by decide)
  -- barriers and waits
  case h_33 hop =>
    obtain ⟨a, h, ha⟩ := decGA1_ok_iff.1 h
    simp only [decIf_ok_iff, List.forall_mem_cons, bxZero_all, decide_eq_true_eq] at h
    obtain ⟨⟨hz, hb, h0⟩, rfl⟩ := h
    exact (UniWord.mk (head hop) (fieldOf_eq_ofNat (m := 3) (n := 3) hz) ha hb h0).words (by decide)
  case h_34 hop =>
    simp only [decIf_ok_iff, List.forall_mem_cons, bxZero_all, decide_eq_true_eq, fieldOf_da_zero] at h
    obtain ⟨⟨⟨hd, ha⟩, hb, h0⟩, rfl⟩ := h
    exact (UniWord.mk (head hop) hd ha hb h0).words (by decide)
  case h_35 hop =>
    obtain ⟨b, h, ha, hb⟩ := decGB1_ok_iff.1 h
    obtain ⟨k, ⟨rfl, hd⟩ | ⟨rfl, hd⟩ | ⟨rfl, hd⟩⟩ := decABAR_ok_iff.1 h
    all_goals exact (OperandWord.mk (head hop) hx hd ha hb).words (by decide)
  case h_36 hop =>
    obtain ⟨b, h, ha, hb⟩ := decGB1_ok_iff.1 h
    simp only [decIf_ok_iff, List.forall_mem_cons, decide_eq_true_eq] at h
    obtain ⟨⟨hz, -⟩, rfl⟩ := h
    exact (OperandWord.mk (head hop) hx (fieldOf_eq_ofNat (m := 3) (n := 3) hz) ha hb).words (by decide)
  case h_37 hop =>
    obtain ⟨a, b, h, ha, hb⟩ := decGAB_ok_iff.1 h
    cases h
    have hd : fieldOf w 19 6 = (decWCond (fieldOf w 23 2)).code * 16 + (BitVec.ofNat 4 (fieldOf w 19 4)).toNat := by
      rw [← (decWCond_eq (fieldOf_lt w 23 2)).1 rfl, toNat_ofNat_fieldOf]
      exact fieldOf_split w 19 4 2
    exact (OperandWord.mk (head hop) hx hd ha hb).words (by decide)
  case h_38 hop =>
    obtain ⟨a, h, ha⟩ := decGA1_ok_iff.1 h
    simp only [decIf_ok_iff, List.forall_mem_cons, decide_eq_true_eq] at h
    obtain ⟨⟨hd, h0, hz, -⟩, rfl⟩ := h
    exact (UniWord.mk (head hop) hd ha (fieldOf_eq_ofNat (m := 3) (n := 6) hz) h0).words (by decide)
  case h_39 hop =>
    obtain ⟨rfl, hl, ha, hb, h0⟩ := decGE0_ok_iff.1 h
    simp only [List.forall_mem_cons, decide_eq_true_eq] at hl
    exact (UniWord.mk (head hop) hl.1 ha hb h0).words (by decide)
  case h_40 hop => exact decSYS_words (head hop) h
  -- tape
  case h_41 hop =>
    obtain ⟨a, h, ha⟩ := decGA1_ok_iff.1 h
    simp only [decIf_ok_iff, List.forall_mem_cons, bxZero_all, decide_eq_true_eq] at h
    obtain ⟨⟨hz, hb, h0⟩, rfl⟩ := h
    exact (UniWord.mk (head hop) (fieldOf_eq_ofNat (m := 1) (n := 5) hz) ha hb h0).words (by decide)
  case h_42 hop | h_44 hop | h_45 hop =>
    obtain ⟨s, d, rfl, hl, hd, ha⟩ := decTapeS_ok_iff.1 h
    obtain ⟨hb, h0⟩ := bxZero_all.1 hl
    exact (UniWord.mk (head hop) hd ha hb h0).words (by decide)
  case h_43 hop =>
    split at h
    · next b hb =>
      obtain ⟨s, d, rfl, -, hd, ha⟩ := decTapeS_ok_iff.1 h
      exact (OperandWord.mk (head hop) hx hd ha hb).words (by decide)
    · cases h
  -- GE words with D and a command block
  case h_46 hop | h_47 hop | h_48 hop | h_60 hop | h_61 hop | h_62 hop | h_63 hop =>
    obtain ⟨rfl, -, ha, hb, h0⟩ := decGE0_ok_iff.1 h
    exact (UniWord.mk (head hop) (toNat_gdOf w) ha hb h0).words (by decide)
  -- GE words that name accumulators
  case h_49 hop | h_52 hop | h_53 hop =>
    obtain ⟨b, rfl, hl, ha, hb⟩ := decGEB_ok_iff.1 h
    simp only [List.forall_mem_cons, decide_eq_true_eq] at hl
    exact (OperandWord.mk (head hop) hx (fieldOf_eq_ofNat (m := 2) (n := 4) hl.1) ha hb).words (by decide)
  case h_50 hop =>
    obtain ⟨b, rfl, hl, ha, hb⟩ := decGEB_ok_iff.1 h
    simp only [List.forall_mem_cons, decide_eq_true_eq] at hl
    have hd : fieldOf w 19 6 = (BitVec.ofNat 2 (fieldOf w 21 2)).toNat * 4 + (BitVec.ofNat 2 (fieldOf w 19 2)).toNat := by
      rw [toNat_ofNat_fieldOf, toNat_ofNat_fieldOf]
      have hz := hl.1
      simp only [fieldOf] at *
      omega
    exact (OperandWord.mk (head hop) hx hd ha hb).words (by decide)
  case h_51 hop | h_54 hop =>
    obtain ⟨rfl, hl, ha, hb, h0⟩ := decGE0_ok_iff.1 h
    simp only [List.forall_mem_cons, decide_eq_true_eq] at hl
    exact (UniWord.mk (head hop) (fieldOf_eq_ofNat (m := 2) (n := 4) hl.1) ha hb h0).words (by decide)
  case h_55 hop =>
    obtain ⟨b, rfl, -, ha, hb⟩ := decGEB_ok_iff.1 h
    exact (OperandWord.mk (head hop) hx (toNat_gdOf w) ha hb).words (by decide)
  -- buffer records and CFIRE
  case h_57 hop =>
    obtain ⟨a, b, h, ha, hb⟩ := decGAB_ok_iff.1 h
    simp only [decIf_ok_iff, List.forall_mem_cons, decide_eq_true_eq] at h
    obtain ⟨⟨hz, -⟩, rfl⟩ := h
    exact (OperandWord.mk (head hop) hx (fieldOf_eq_ofNat (m := 4) (n := 2) hz) ha hb).words (by decide)
  case h_58 hop =>
    obtain ⟨k, b, ⟨rfl, ha⟩ | ⟨f, rfl, ha⟩, hd, hb⟩ := decBSET_ok_iff.1 h
    all_goals exact (OperandWord.mk (head hop) hx hd ha hb).words (by decide)
  case h_59 hop =>
    simp only [decIf_ok_iff, List.forall_mem_cons, decide_eq_true_eq] at h
    obtain ⟨⟨ha, h0, hz, -⟩, rfl⟩ := h
    exact (UniWord.mk (head hop) (toNat_gdOf w) ha (fieldOf_eq_ofNat (m := 4) (n := 5) hz) h0).words (by decide)
  case h_64 hop =>
    obtain ⟨a, b, h, ha, hb⟩ := decGAB_ok_iff.1 h
    simp only [decIf_ok_iff, List.forall_mem_cons, decide_eq_true_eq] at h
    obtain ⟨⟨hd, -⟩, rfl⟩ := h
    exact (OperandWord.mk (head hop) hx hd ha hb).words (by decide)
  case h_65 => cases h

/-! Both sets. -/

/-- What the opcode tables answer for a first word and the one after it, before the checks of its operands (R147). -/
def decodeSet (w x : Nat) : Dec := if fieldOf w 31 1 = 0 then decLane w x else decUni w x

theorem decodeWords_ok_iff : decodeWords w x = .ok i ↔ decodeSet w x = .ok i ∧ i.wf = true := by
  unfold decodeWords decodeSet Instr.wf
  generalize (if fieldOf w 31 1 = 0 then decLane w x else decUni w x) = r
  cases r with
  | error e => simp
  | ok j =>
    cases hj : j.wfErr with
    | none =>
      simp only [hj, Except.ok.injEq, iff_self_and]
      rintro rfl
      rw [hj, Option.isNone_none]
    | some e =>
      simp only [hj, reduceCtorEq, Except.ok.injEq, false_iff]
      rintro ⟨rfl, hwf⟩
      rw [hj] at hwf
      cases hwf

theorem decodeSet_words (hw : w < 2 ^ 32) (hx : x < 2 ^ 32) (h : decodeSet w x = .ok i) : encode i = wordsOf w x := by
  unfold decodeSet at h
  split at h
  · next hs => exact decLane_words hw hx hs h
  · next hs =>
    have := fieldOf_lt w 31 1
    exact decUni_words hw hx (by omega) h

end Sys2Proof

namespace Sys2Proof.Claims

/-- Settles O5, opcode by opcode: the fields that a decoder reads and those that it holds to be zero are the whole word. -/
theorem encodeDecode : Obligations.EncodeDecode := fun w x i hw hx _ h => by
  obtain ⟨hset, hwf⟩ := decodeWords_ok_iff.1 h
  exact ⟨hwf, decodeSet_words hw hx hset⟩

end Sys2Proof.Claims
end

section
/-! Decoding undoes encoding (O4): for each constructor of a word, the fields of its encoding, from which the opcode's decoder
answers it. -/

namespace Sys2Proof

/-- An instruction's words, below 2^32, are what a fetch finds (R134), and their opcode's decoder answers it. -/
def Reads (i : Instr) : Prop :=
  ∃ w x, w < 2 ^ 32 ∧ x < 2 ^ 32 ∧ (twoWords w = false → x = 0) ∧ encode i = wordsOf w x ∧ decodeSet w x = .ok i

variable {i : Instr} {op d a b : Nat}

theorem decodeSet_lane {w x : Nat} (h : fieldOf w 31 1 = 0) : decodeSet w x = decLane w x := if_pos h

theorem decodeSet_uni {w x : Nat} (h : fieldOf w 31 1 = 1) : decodeSet w x = decUni w x := if_neg (by omega)

theorem reads_LA (he : encode i = [encLA op d a b]) (hop : op < 0x35) (hd : d < 128) (ha : a < 512) (hb : b < 512)
    (hdec : ∀ w, LaneWord w op d a b → decLane w 0 = .ok i) : Reads i := by
  have hw := laneWord_encLA (show op < 64 by omega) hd ha hb
  exact ⟨_, 0, hw.lt, by decide, fun _ => rfl, he.trans (hw.words1 hop), (decodeSet_lane hw.set).trans (hdec _ hw)⟩

theorem reads_LX {x : Nat} (he : encode i = [encLA op d a b, x]) (hop : 0x35 ≤ op ∧ op ≤ 0x3E) (hd : d < 128)
    (ha : a < 512) (hb : b < 512) (hx : x < 2 ^ 32)
    (hdec : x < 2 ^ 32 → ∀ w, LaneWord w op d a b → decLane w x = .ok i) :
    Reads i := by
  have hw := laneWord_encLA (show op < 64 by omega) hd ha hb
  refine ⟨_, x, hw.lt, hx, fun h => ?_, he.trans (hw.words2 hop), (decodeSet_lane hw.set).trans (hdec hx _ hw)⟩
  simp [twoWords, hw.set, hw.op, hop] at h

theorem reads_LC {c g : Nat} (he : encode i = [encLC op c g a b]) (hop : op < 0x35) (hc : c < 16) (hg : g < 32)
    (ha : a < 256) (hb : b < 256) (hdec : ∀ w, CompareWord w 0 op c g a b → decLane w 0 = .ok i) : Reads i := by
  have hw := compareWord_encLC (s := 0) (by decide) (show op < 64 by omega) hc hg ha hb
  exact ⟨_, 0, hw.lt, by decide, fun _ => rfl, he.trans (hw.words_lane hop), (decodeSet_lane hw.set).trans (hdec _ hw)⟩

theorem reads_GCMP {c g : Nat} (he : encode i = [2 ^ 31 + encLC op c g a b]) (hop : op < 64)
    (hsrc : bIsSource op = false) (hc : c < 16) (hg : g < 32) (ha : a < 256) (hb : b < 256)
    (hdec : ∀ w, CompareWord w 1 op c g a b → decUni w 0 = .ok i) : Reads i := by
  have hw := compareWord_encLC (s := 1) (by decide) hop hc hg ha hb
  exact ⟨_, 0, hw.lt, by decide, fun _ => rfl, he.trans (hw.words_uni hsrc), (decodeSet_uni hw.set).trans (hdec _ hw)⟩

theorem reads_uni (he : encode i = [encGA op d a b 0]) (hop : op < 64) (hsrc : bIsSource op = false)
    (hd : d < 64) (ha : a < 512) (hb : b < 512) (hdec : ∀ w, UniWord w op d a b 0 → decUni w 0 = .ok i) : Reads i := by
  have hw := uniWord_encGA hop hd ha hb (show 0 < 2 by decide)
  exact ⟨_, 0, hw.lt, by decide, fun _ => rfl, he.trans (hw.words hsrc), (decodeSet_uni hw.set).trans (hdec _ hw)⟩

theorem reads_branch {c p k : Nat} (he : encode i = [encGB op c p k]) (hop : op < 64) (hsrc : bIsSource op = false)
    (hc : c < 64) (hp : p < 2 ^ 17) (hk : k < 4) (hdec : ∀ w, BranchWord w op c p k → decUni w 0 = .ok i) : Reads i := by
  have hw := branchWord_encGB hop hc hp hk
  exact ⟨_, 0, hw.lt, by decide, fun _ => rfl, he.trans (hw.words hsrc), (decodeSet_uni hw.set).trans (hdec _ hw)⟩

theorem exists_operandWord (hop : op < 64) (hsrc : bIsSource op = true) (hd : d < 64) (ha : a < 512) (b : UOpd) :
    ∃ w x, OperandWord w x op d a b ∧ (twoWords w = false → x = 0) := by
  cases b with
  | sel s =>
    have hw := uniWord_encGA hop hd ha s.code_lt (show 0 < 2 by decide)
    exact ⟨_, 0, ⟨hw.toHead, by decide, hw.d, hw.a, gbOf_ok_iff.2 (.inl ⟨s, rfl, hw.x, hw.b⟩)⟩, fun _ => rfl⟩
  | imm v =>
    have hw := uniWord_encGA hop hd ha (show 0 < 512 by decide) (show 1 < 2 by decide)
    refine ⟨_, v.toNat, ⟨hw.toHead, v.isLt, hw.d, hw.a, gbOf_ok_iff.2 (.inr ⟨by simp, hw.x, hw.b⟩)⟩, fun h => ?_⟩
    have h10 := (fieldOf_split_eq (m := 1) (n := 9) (h := 0) (l := 1) (by decide)).2 ⟨hw.b, hw.x⟩
    simp [twoWords, hw.set, hw.op, hsrc, h10] at h

theorem reads_operand {b : UOpd} (he : encode i = encGAB op d a b) (hop : op < 64) (hsrc : bIsSource op = true)
    (hd : d < 64) (ha : a < 512) (hdec : ∀ w x, OperandWord w x op d a b → decUni w x = .ok i) : Reads i := by
  obtain ⟨w, x, hw, hz⟩ := exists_operandWord hop hsrc hd ha b
  exact ⟨w, x, hw.lt, hw.x_lt, hz, he.trans (hw.words hsrc), (decodeSet_uni hw.set).trans (hdec w x hw)⟩

theorem ok_of_errs {ok : Bool} {e : Illegal} {r : Option Illegal} (h : (errs [(ok, e)] r).isNone = true) : ok = true := by
  cases ok
  · cases h
  · rfl

/-! Lane words whose fields are put together from several operands. -/

theorem reads_cvt (op : CvtOp) (m : RMode) (d : BitVec 7) (a : Sel) : Reads (.cvt op m d a) := by
  have hop := op.code_lt
  have hm := m.code_lt
  refine reads_LA rfl (by decide) d.isLt a.code_lt (by omega) fun w hw => ?_
  obtain ⟨hm, hop⟩ := (fieldOf_cvtCode op.code_lt).1 hw.b
  rw [decLane, hw.op]
  exact decCVT_ok_iff.2 ⟨op, m, d, a, rfl, hm, hop, hw.d, hw.a⟩

theorem reads_atom (op : AOp) (d : BitVec 7) (a b c : Sel) (k : BitVec 4) (sc : Scope) (o : Order) :
    Reads (.atom op d a b c k sc o) := by
  have hc := c.code_lt
  have ho := o.code_lt
  have hsc := sc.code_lt
  have hop := op.code_lt
  refine reads_LX rfl (by decide) d.isLt a.code_lt b.code_lt (by omega) fun hx w hw => ?_
  rw [decLane, hw.op]
  exact (decATOM_ok_iff hx).2 ⟨op, d, a, b, c, k, sc, o, rfl, hw.d, hw.a, hw.b, rfl⟩

theorem reads_red (op : AOp) (a b : Sel) (k : BitVec 4) (sc : Scope) (o : Order) : Reads (.red op a b k sc o) := by
  have ho := o.code_lt
  have hsc := sc.code_lt
  have hop := op.code_lt
  refine reads_LX rfl (by decide) (by decide) a.code_lt b.code_lt (by omega) fun hx w hw => ?_
  rw [decLane, hw.op]
  exact (decRED_ok_iff hx).2 ⟨op, a, b, k, sc, o, rfl, hw.d, hw.a, hw.b, rfl⟩

theorem reads_put (d : BitVec 7) (a : Sel) (n : BitVec 2) (k : BitVec 4) (f : Option (BitVec 4 × Sel)) (abo : Abo) :
    Reads (.put d a n k f abo) := by
  have habo := abo.code_lt
  cases f with
  | none =>
    refine reads_LX rfl (by decide) d.isLt a.code_lt (by decide) (by omega) fun hx w hw => ?_
    rw [decLane, hw.op]
    exact (decPUT_ok_iff hx).2 (.inl ⟨d, a, n, k, abo, rfl, hw.d, hw.a, hw.b, rfl⟩)
  | some f =>
    obtain ⟨f, b⟩ := f
    refine reads_LX rfl (by decide) d.isLt a.code_lt b.code_lt (by omega) fun hx w hw => ?_
    rw [decLane, hw.op]
    exact (decPUT_ok_iff hx).2 (.inr ⟨d, a, n, k, f, b, abo, rfl, hw.d, hw.a, hw.b, rfl⟩)

theorem reads_ratom (op : AOp) (ret : Option (BitVec 7)) (a b c : Sel) (k : BitVec 4) (abo : Abo) :
    Reads (.ratom op ret a b c k abo) := by
  have habo := abo.code_lt
  have hc := c.code_lt
  have hop := op.code_lt
  cases ret with
  | none =>
    refine reads_LX rfl (by decide) (by decide) a.code_lt b.code_lt (by omega) fun hx w hw => ?_
    rw [decLane, hw.op]
    exact (decRATOM_ok_iff hx).2 ⟨op, none, a, b, c, k, abo, rfl, hw.d, hw.a, hw.b, rfl⟩
  | some d =>
    refine reads_LX rfl (by decide) d.isLt a.code_lt b.code_lt (by omega) fun hx w hw => ?_
    rw [decLane, hw.op]
    exact (decRATOM_ok_iff hx).2 ⟨op, some d, a, b, c, k, abo, rfl, hw.d, hw.a, hw.b, rfl⟩

theorem reads_racc (d : BitVec 7) (a : Sel) (n : BitVec 2) (k : BitVec 4) (abo : Abo) : Reads (.racc d a n k abo) := by
  have habo := abo.code_lt
  refine reads_LX rfl (by decide) d.isLt a.code_lt (by decide) (by omega) fun hx w hw => ?_
  rw [decLane, hw.op]
  exact (decRACC_ok_iff hx).2 ⟨d, a, n, k, abo, rfl, hw.d, hw.a, hw.b, rfl⟩

theorem reads_sel (d : BitVec 7) (a b c : Sel) (inv : Bool) : Reads (.sel d a b c inv) := by
  have hc := c.code_lt
  refine reads_LX rfl (by decide) d.isLt a.code_lt b.code_lt (by split <;> omega) fun hx w hw => ?_
  rw [decLane, hw.op]
  exact (decSEL_ok_iff hx).2 ⟨d, a, b, c, inv, rfl, hw.d, hw.a, hw.b, rfl⟩

theorem reads_trec (d : BitVec 7) (k : TrecKind) (s : BitVec 1) : Reads (.trec d k s) := by
  refine reads_LX (x := k.code + s.toNat) (by cases k <;> rfl) (by decide) d.isLt (by decide) (by decide)
    (by cases k <;> simp only [TrecKind.code] <;> omega) fun hx w hw => ?_
  rw [decLane, hw.op]
  exact (decTREC_ok_iff hx).2 ⟨d, k, s, rfl, hw.d, hw.a, hw.b, rfl⟩

theorem reads_tpop (d : BitVec 7) (k : TpopKind) (s : BitVec 1) : Reads (.tpop d k s) := by
  refine reads_LX (x := k.code + s.toNat) (by cases k <;> rfl) (by decide) d.isLt (by decide) (by decide)
    (by cases k <;> simp only [TpopKind.code] <;> omega) fun hx w hw => ?_
  rw [decLane, hw.op]
  exact (decTPOP_ok_iff hx).2 ⟨d, k, s, rfl, hw.d, hw.a, hw.b, rfl⟩

/-! Uniform words whose fields are put together from several operands, or that leave bits at zero. -/

theorem reads_abwait (k : BitVec 3) (b : UOpd) : Reads (.abwait k b) := by
  refine reads_operand rfl (by decide) (by decide) (by omega) (by decide) fun w x hw => ?_
  obtain ⟨hz, hk⟩ := (fieldOf_pad_eq (m := 3) (n := 3) k.isLt).1 hw.d
  obtain rfl := ofNat_fieldOf_eq_iff.2 hk
  rw [decUni, hw.op]
  exact decGB1_ok_iff.2 ⟨b, decIf_ok_iff.2 ⟨by simpa using hz, rfl⟩, hw.a, hw.b⟩

theorem reads_waitc (c : WCond) (k : BitVec 4) (a : Sel) (b : UOpd) : Reads (.waitc c k a b) := by
  have hc := c.code_lt
  refine reads_operand rfl (by decide) (by decide) (by omega) a.code_lt fun w x hw => ?_
  obtain ⟨hc, hk⟩ := (fieldOf_split_eq (m := 4) (n := 2) k.isLt).1 hw.d
  obtain rfl := (decWCond_eq (fieldOf_lt w 23 2)).2 hc
  obtain rfl := ofNat_fieldOf_eq_iff.2 hk
  rw [decUni, hw.op]
  exact decGAB_ok_iff.2 ⟨a, b, rfl, hw.a, hw.b⟩

theorem reads_tdual (e f : BitVec 2) (g : BitVec 6) (b : UOpd) : Reads (.tdual e f g b) := by
  refine reads_operand rfl (by decide) (by decide) (by omega) (by omega) fun w x hw => ?_
  obtain ⟨hf, he⟩ := (fieldOf_split_eq (m := 2) (n := 4) e.isLt).1 hw.d
  obtain ⟨hz, hf⟩ := (fieldOf_pad_eq (m := 2) (n := 2) f.isLt).1 hf
  obtain rfl := ofNat_fieldOf_eq_iff.2 he
  obtain rfl := ofNat_fieldOf_eq_iff.2 hf
  obtain ⟨-, rfl⟩ := fieldOf_gcode.1 hw.a
  rw [decUni, hw.op]
  exact decGEB_ok_iff.2 ⟨b, rfl, by simpa using hz, hw.a, hw.b⟩

theorem reads_bld (k : BitVec 4) (a : Sel) (b : UOpd) : Reads (.bld k a b) := by
  refine reads_operand rfl (by decide) (by decide) (by omega) a.code_lt fun w x hw => ?_
  obtain ⟨hz, hk⟩ := (fieldOf_pad_eq (m := 4) (n := 2) k.isLt).1 hw.d
  obtain rfl := ofNat_fieldOf_eq_iff.2 hk
  rw [decUni, hw.op]
  exact decGAB_ok_iff.2 ⟨a, b, decIf_ok_iff.2 ⟨by simpa using hz, rfl⟩, hw.a, hw.b⟩

theorem reads_bar (n : BitVec 3) (a : Sel) : Reads (.bar n a) := by
  refine reads_uni rfl (by decide) (by decide) (by omega) a.code_lt (by decide) fun w hw => ?_
  obtain ⟨hz, hn⟩ := (fieldOf_pad_eq (m := 3) (n := 3) n.isLt).1 hw.d
  obtain rfl := ofNat_fieldOf_eq_iff.2 hn
  rw [decUni, hw.op]
  exact decGA1_ok_iff.2 ⟨a, decIf_ok_iff.2 ⟨by simpa [bxZero, hw.b, hw.x] using hz, rfl⟩, hw.a⟩

theorem reads_waitn (p : BitVec 3) (a : Sel) : Reads (.waitn p a) := by
  refine reads_uni rfl (by decide) (by decide) (by decide) a.code_lt (by omega) fun w hw => ?_
  obtain ⟨hz, hp⟩ := (fieldOf_pad_eq (m := 3) (n := 6) p.isLt).1 hw.b
  obtain rfl := ofNat_fieldOf_eq_iff.2 hp
  rw [decUni, hw.op]
  exact decGA1_ok_iff.2 ⟨a, decIf_ok_iff.2 ⟨by simpa [hw.d, hw.x] using hz, rfl⟩, hw.a⟩

theorem reads_tbrk (s : BitVec 1) (a : Sel) : Reads (.tbrk s a) := by
  refine reads_uni rfl (by decide) (by decide) (by omega) a.code_lt (by decide) fun w hw => ?_
  obtain ⟨hz, hs⟩ := (fieldOf_pad_eq (m := 1) (n := 5) s.isLt).1 hw.d
  obtain rfl := ofNat_fieldOf_eq_iff.2 hs
  rw [decUni, hw.op]
  exact decGA1_ok_iff.2 ⟨a, decIf_ok_iff.2 ⟨by simpa [bxZero, hw.b, hw.x] using hz, rfl⟩, hw.a⟩

theorem reads_bxlate (d : BitVec 6) (k : BitVec 4) : Reads (.bxlate d k) := by
  refine reads_uni rfl (by decide) (by decide) d.isLt (by decide) (by omega) fun w hw => ?_
  obtain ⟨hz, hk⟩ := (fieldOf_pad_eq (m := 4) (n := 5) k.isLt).1 hw.b
  obtain rfl := ofNat_fieldOf_eq_iff.2 hk
  obtain rfl := gdOf_eq.2 hw.d
  rw [decUni, hw.op]
  exact decIf_ok_iff.2 ⟨by simpa [hw.a, hw.x] using hz, rfl⟩

theorem reads_fence (o : Order) (sc : Scope) : Reads (.fence o sc) := by
  have ho := o.code_lt
  have hsc := sc.code_lt
  refine reads_uni rfl (by decide) (by decide) (by decide) (by decide) (by omega) fun w hw => ?_
  rw [decUni, hw.op]
  exact decFENCE_ok_iff.2 ⟨o, sc, .inl ⟨rfl, by rw [hw.b, Nat.zero_mul, Nat.zero_add]⟩, hw.d, hw.a, hw.x⟩

theorem reads_fenceFlush (o : Order) (sc : Scope) : Reads (.fenceFlush o sc) := by
  have ho := o.code_lt
  have hsc := sc.code_lt
  refine reads_uni rfl (by decide) (by decide) (by decide) (by decide) (by omega) fun w hw => ?_
  rw [decUni, hw.op]
  exact decFENCE_ok_iff.2 ⟨o, sc, .inr ⟨rfl, hw.b⟩, hw.d, hw.a, hw.x⟩

theorem reads_publish (sc : Scope) (a : Sel) : Reads (.publish sc a) := by
  have hsc := sc.code_lt
  refine reads_uni rfl (by decide) (by decide) (by decide) a.code_lt (by omega) fun w hw => ?_
  rw [decUni, hw.op]
  exact decPUBLISH_ok_iff.2 ⟨sc, a, rfl, hw.d, hw.a, hw.b, hw.x⟩

theorem reads_tmark (s : BitVec 1) (d : BitVec 6) (b : UOpd) : Reads (.tmark s d b) := by
  refine reads_operand rfl (by decide) (by decide) d.isLt (by omega) fun w x hw => ?_
  rw [decUni, hw.op]
  simp only [hw.b]
  exact decTapeS_ok_iff.2 ⟨s, d, rfl, by simp, hw.d, hw.a⟩

theorem reads_rdlane (d : BitVec 6) (a : BitVec 7) (t : Bool) (b : UOpd) : Reads (.rdlane d a t b) := by
  refine reads_operand rfl (by decide) (by decide) d.isLt (vCode_lt a t) fun w x hw => ?_
  rw [decUni, hw.op]
  exact decRDLANE_ok_iff.2 ⟨d, a, t, b, rfl, hw.d, hw.a, hw.b⟩

theorem reads_tlbi (g : BitVec 6) : Reads (.tlbi g) := by
  refine reads_uni rfl (by decide) (by decide) (by decide) (by omega) (by decide) fun w hw => ?_
  obtain ⟨hg, rfl⟩ := fieldOf_gcode.1 hw.a
  rw [decUni, hw.op]
  show decSYS w = _
  rw [decSYS, hw.b]
  exact decIf_ok_iff.2 ⟨by simp [hw.d, hw.x, hg], rfl⟩

theorem reads_topen (g : BitVec 6) : Reads (.topen g) := by
  refine reads_uni rfl (by decide) (by decide) (by decide) (by omega) (by decide) fun w hw => ?_
  obtain ⟨-, rfl⟩ := fieldOf_gcode.1 hw.a
  rw [decUni, hw.op]
  exact decGE0_ok_iff.2 ⟨rfl, by simp [hw.d], hw.a, hw.b, hw.x⟩

theorem reads_bset (k : BitVec 4) (f : BField) (b : UOpd) : Reads (.bset k f b) := by
  have hf := f.code_lt
  refine reads_operand rfl (by decide) (by decide) (by omega) (by omega) fun w x hw => ?_
  rw [decUni, hw.op]
  exact decBSET_ok_iff.2 ⟨k, b, .inr ⟨f, rfl, hw.a⟩, hw.d, hw.b⟩

/-! Every constructor. -/

/-- Every well-formed instruction that a word encodes is read from its words. Well-formedness matters to the compares alone,
which share codes of conditions that not every one of them accepts (R143). -/
theorem reads_of_wf {i : Instr} (hwf : i.wf = true) (hne : encode i ≠ []) : Reads i := by
  cases i
  -- LA words
  case iadd d a b | isub d a b | imul d a b | imulh d a b | imulhu d a b | imad d a b | imin d a b | imax d a b |
      umin d a b | umax d a b | and d a b | or d a b | xor d a b | andn d a b | shl d a b | shr d a b | sar d a b |
      rot d a b | bfe d a b | bfi d a b | clmul d a b | clmulh d a b | shfl d a b | shflx d a b | shflu d a b |
      shfld d a b | fadd d a b | fsub d a b | fmul d a b | ffma d a b | fmin d a b | fmax d a b | b2add d a b |
      b2mul d a b | b2fma d a b | b2max d a b | b2min d a b | qexp d a b | rnd d a b =>
    refine reads_LA rfl (by decide) d.isLt a.code_lt b.code_lt fun w hw => ?_
    rw [decLane, hw.op]
    exact decLA2_ok_iff.2 ⟨d, a, b, rfl, hw.d, hw.a, hw.b⟩
  case popc d a | clz d a | ctz d a | brev d a | bswap d a | sext8 d a | sext16 d a | zext8 d a | zext16 d a | not d a |
      neg d a | abs d a =>
    refine reads_LA rfl (by decide) d.isLt a.code_lt (by decide) fun w hw => ?_
    rw [decLane, hw.op]
    show decIUN w = _
    rw [decIUN, hw.b]
    exact decLA1_ok_iff.2 ⟨d, a, rfl, hw.d, hw.a⟩
  case fabs d a | fneg d a | frcp d a | frsq d a | fsqrt d a | fexp2 d a | flog2 d a | fsin d a | fcos d a | ftanh d a |
      ffrac d a | frnde d a | ftrunc d a | ffloor d a | fceil d a =>
    refine reads_LA rfl (by decide) d.isLt a.code_lt (by decide) fun w hw => ?_
    rw [decLane, hw.op]
    show decFUN w = _
    rw [decFUN, hw.b]
    exact decLA1_ok_iff.2 ⟨d, a, rfl, hw.d, hw.a⟩
  case mov d a =>
    refine reads_LA rfl (by decide) d.isLt a.code_lt (by decide) fun w hw => ?_
    rw [decLane, hw.op]
    exact (if_pos hw.b).trans (decLA1_ok_iff.2 ⟨d, a, rfl, hw.d, hw.a⟩)
  case xredAdd m d a | xredMin m d a | xredMax m d a | xredUmin m d a | xredUmax m d a | xredAnd m d a | xredOr m d a |
      xredXor m d a | xredFadd m d a | xredFmin m d a | xredFmax m d a =>
    have hm := m.code_lt
    refine reads_LA rfl (by decide) d.isLt a.code_lt (by omega) fun w hw => ?_
    obtain ⟨hz, hm, hf⟩ := (fieldOf_modeCode m.code_lt (by decide)).1 hw.b
    rw [decLane, hw.op]
    show decXRED w = _
    rw [decXRED, hf]
    exact decXRED1_ok_iff.2 ⟨m, d, a, rfl, hz, hm, hw.d, hw.a⟩
  case cvt op m d a => exact reads_cvt op m d a
  case qscl d a t b | qcvt d a t b =>
    refine reads_LA rfl (by decide) d.isLt (vCode_lt a t) b.code_lt fun w hw => ?_
    rw [decLane, hw.op]
    exact decQ_ok_iff.2 ⟨d, a, t, b, rfl, hw.d, hw.a, hw.b⟩
  -- LM words
  case ldl d a k sc o | stl d a k sc o | ldv d a k sc o | stv d a k sc o =>
    have hsc := sc.code_lt
    have ho := o.code_lt
    refine reads_LA rfl (by decide) d.isLt a.code_lt (by omega) fun w hw => ?_
    obtain ⟨hk, hsc, ho⟩ := (fieldOf_scopeCode sc.code_lt o.code_lt).1 hw.b
    rw [decLane, hw.op]
    exact decLM_ok_iff.2 ⟨d, a, k, sc, o, rfl, hw.d, hw.a, hk, hsc, ho⟩
  -- LC words
  case icmp c g a b | ucmp c g a b | fcmp c g a b =>
    refine reads_LC rfl (by decide) c.code_lt g.isLt a.code_lt b.code_lt fun w hw => ?_
    rw [decLane, hw.op]
    exact decLC_ok_iff.2 ⟨c, g, a, b, rfl, ok_of_errs hwf, hw.c, hw.g, hw.a, hw.b⟩
  -- LX words
  case atom op d a b c k sc o => exact reads_atom op d a b c k sc o
  case red op a b k sc o => exact reads_red op a b k sc o
  case put d a n k f abo => exact reads_put d a n k f abo
  case ratom op ret a b c k abo => exact reads_ratom op ret a b c k abo
  case racc d a n k abo => exact reads_racc d a n k abo
  case sel d a b c inv => exact reads_sel d a b c inv
  case spst d n off | spld d n off =>
    refine reads_LX rfl (by decide) d.isLt (by decide) (by decide) (by omega) fun hx w hw => ?_
    rw [decLane, hw.op]
    exact (decSP_ok_iff hx).2 ⟨d, n, off, rfl, hw.d, hw.a, hw.b, rfl⟩
  case trec d k s => exact reads_trec d k s
  case tpop d k s => exact reads_tpop d k s
  -- GA words with a B operand
  case gadd d a b | gsub d a b | gmul d a b | gmulh d a b | gand d a b | gor d a b | gxor d a b | gandn d a b |
      gshl d a b | gshr d a b | gsar d a b | gmin d a b | gmax d a b | mand d a b | mandn d a b | mor d a b |
      ttag d a b =>
    refine reads_operand rfl (by decide) (by decide) d.isLt a.code_lt fun w x hw => ?_
    rw [decUni, hw.op]
    exact decGA3_ok_iff.2 ⟨d, a, b, rfl, hw.d, hw.a, hw.b⟩
  case gmov d b | mset d b =>
    refine reads_operand rfl (by decide) (by decide) d.isLt (by decide) fun w x hw => ?_
    obtain rfl := gdOf_eq.2 hw.d
    rw [decUni, hw.op]
    exact decGB1_ok_iff.2 ⟨b, rfl, hw.a, hw.b⟩
  case rdlane d a t b => exact reads_rdlane d a t b
  case spadj b =>
    refine reads_operand rfl (by decide) (by decide) (by decide) (by decide) fun w x hw => ?_
    rw [decUni, hw.op]
    exact decGB1_ok_iff.2 ⟨b, decIf_ok_iff.2 ⟨by simp [hw.d], rfl⟩, hw.a, hw.b⟩
  case abarAdd k b =>
    refine reads_operand rfl (by decide) (by decide) (by omega) (by decide) fun w x hw => ?_
    rw [decUni, hw.op]
    exact decGB1_ok_iff.2 ⟨b, decABAR_ok_iff.2 ⟨k, .inl ⟨rfl, hw.d⟩⟩, hw.a, hw.b⟩
  case abarSub k b =>
    refine reads_operand rfl (by decide) (by decide) (by omega) (by decide) fun w x hw => ?_
    rw [decUni, hw.op]
    exact decGB1_ok_iff.2 ⟨b, decABAR_ok_iff.2 ⟨k, .inr (.inl ⟨rfl, hw.d⟩)⟩, hw.a, hw.b⟩
  case abarSet k b =>
    refine reads_operand rfl (by decide) (by decide) (by omega) (by decide) fun w x hw => ?_
    rw [decUni, hw.op]
    exact decGB1_ok_iff.2 ⟨b, decABAR_ok_iff.2 ⟨k, .inr (.inr ⟨rfl, hw.d⟩)⟩, hw.a, hw.b⟩
  case abwait k b => exact reads_abwait k b
  case waitc c k a b => exact reads_waitc c k a b
  case tmark s d b => exact reads_tmark s d b
  case tmma e g b | tsta e g b | tlda e g b =>
    refine reads_operand rfl (by decide) (by decide) (by omega) (by omega) fun w x hw => ?_
    obtain ⟨hz, he⟩ := (fieldOf_pad_eq (m := 2) (n := 4) e.isLt).1 hw.d
    obtain rfl := ofNat_fieldOf_eq_iff.2 he
    obtain ⟨-, rfl⟩ := fieldOf_gcode.1 hw.a
    rw [decUni, hw.op]
    exact decGEB_ok_iff.2 ⟨b, rfl, by simpa using hz, hw.a, hw.b⟩
  case tdual e f g b => exact reads_tdual e f g b
  case tmaxr d g b =>
    refine reads_operand rfl (by decide) (by decide) d.isLt (by omega) fun w x hw => ?_
    obtain rfl := gdOf_eq.2 hw.d
    obtain ⟨-, rfl⟩ := fieldOf_gcode.1 hw.a
    rw [decUni, hw.op]
    exact decGEB_ok_iff.2 ⟨b, rfl, by simp, hw.a, hw.b⟩
  case bld k a b => exact reads_bld k a b
  case bset k f b => exact reads_bset k f b
  case bsetAdd k b =>
    refine reads_operand rfl (by decide) (by decide) (by omega) (by decide) fun w x hw => ?_
    rw [decUni, hw.op]
    exact decBSET_ok_iff.2 ⟨k, b, .inl ⟨rfl, hw.a⟩, hw.d, hw.b⟩
  case cfire a b =>
    refine reads_operand rfl (by decide) (by decide) (by decide) a.code_lt fun w x hw => ?_
    rw [decUni, hw.op]
    exact decGAB_ok_iff.2 ⟨a, b, decIf_ok_iff.2 ⟨by simp [hw.d], rfl⟩, hw.a, hw.b⟩
  -- GA words without one
  case gcmp c d a b =>
    refine reads_GCMP rfl (by decide) (by decide) c.code_lt d.isLt a.code_lt b.code_lt fun w hw => ?_
    rw [decUni, hw.op]
    exact decGCMP_ok_iff.2 ⟨c, d, a, b, rfl, ok_of_errs hwf, hw.c, hw.g, hw.a, hw.b⟩
  case gpopc d a | gclz d a | gctz d a | gnot d a | gneg d a | gbrev d a =>
    refine reads_uni rfl (by decide) (by decide) d.isLt a.code_lt (by decide) fun w hw => ?_
    obtain rfl := gdOf_eq.2 hw.d
    rw [decUni, hw.op]
    show decGUN w = _
    rw [decGUN, if_neg (by rw [hw.x]; decide), hw.b]
    exact decGA1_ok_iff.2 ⟨a, rfl, hw.a⟩
  case fence o sc => exact reads_fence o sc
  case fenceFlush o sc => exact reads_fenceFlush o sc
  case publish sc a => exact reads_publish sc a
  case bar n a => exact reads_bar n a
  case cbar =>
    refine reads_uni rfl (by decide) (by decide) (by decide) (by decide) (by decide) fun w hw => ?_
    rw [decUni, hw.op]
    exact decIf_ok_iff.2 ⟨by simp [fieldOf_da_zero, bxZero, hw.d, hw.a, hw.b, hw.x], rfl⟩
  case waitn p a => exact reads_waitn p a
  case tbrk s a => exact reads_tbrk s a
  case tbpop s d | trev s d | tclose s d =>
    refine reads_uni rfl (by decide) (by decide) d.isLt (by omega) (by decide) fun w hw => ?_
    rw [decUni, hw.op]
    exact decTapeS_ok_iff.2 ⟨s, d, rfl, bxZero_all.2 ⟨hw.b, hw.x⟩, hw.d, hw.a⟩
  case bxlate d k => exact reads_bxlate d k
  -- GE words without one
  case topen g => exact reads_topen g
  case bcopy d g | bcopym d g | pstw d g | send d g | rpost d g | rprobe d g | rcancel d g =>
    refine reads_uni rfl (by decide) (by decide) d.isLt (by omega) (by decide) fun w hw => ?_
    obtain rfl := gdOf_eq.2 hw.d
    obtain ⟨-, rfl⟩ := fieldOf_gcode.1 hw.a
    rw [decUni, hw.op]
    exact decGE0_ok_iff.2 ⟨rfl, by simp, hw.a, hw.b, hw.x⟩
  case tprom e g | tzero e g =>
    refine reads_uni rfl (by decide) (by decide) (by omega) (by omega) (by decide) fun w hw => ?_
    obtain ⟨hz, he⟩ := (fieldOf_pad_eq (m := 2) (n := 4) e.isLt).1 hw.d
    obtain rfl := ofNat_fieldOf_eq_iff.2 he
    obtain ⟨-, rfl⟩ := fieldOf_gcode.1 hw.a
    rw [decUni, hw.op]
    exact decGE0_ok_iff.2 ⟨rfl, by simpa using hz, hw.a, hw.b, hw.x⟩
  -- GB words
  case bra p k =>
    refine reads_branch rfl (by decide) (by decide) (by decide) p.isLt k.code_lt fun w hw => ?_
    rw [decUni, hw.op]
    exact decGB_ok_iff.2 ⟨0, p, k, decIf_ok_iff.2 ⟨by simp, rfl⟩, hw.c, hw.p, hw.h⟩
  case bez c p k | bnz c p k | bmz c p k | bmnz c p k | call c p k | jmpr c p k | loop c p k =>
    refine reads_branch rfl (by decide) (by decide) c.isLt p.isLt k.code_lt fun w hw => ?_
    rw [decUni, hw.op]
    exact decGB_ok_iff.2 ⟨c, p, k, rfl, hw.c, hw.p, hw.h⟩
  -- SYS
  case nop | exit | brkpt | yield | eret =>
    refine reads_uni rfl (by decide) (by decide) (by decide) (by decide) (by decide) fun w hw => ?_
    rw [decUni, hw.op]
    show decSYS w = _
    rw [decSYS, hw.b]
    exact decIf_ok_iff.2 ⟨by simp [hw.d, hw.a, hw.x], rfl⟩
  case trap a | tacq a =>
    refine reads_uni rfl (by decide) (by decide) (by decide) a.code_lt (by decide) fun w hw => ?_
    rw [decUni, hw.op]
    show decSYS w = _
    rw [decSYS, hw.b]
    exact decGA1_ok_iff.2 ⟨a, decIf_ok_iff.2 ⟨by simp [hw.d, hw.x], rfl⟩, hw.a⟩
  case srd d a | swr d a =>
    refine reads_uni rfl (by decide) (by decide) d.isLt a.code_lt (by decide) fun w hw => ?_
    obtain rfl := gdOf_eq.2 hw.d
    rw [decUni, hw.op]
    show decSYS w = _
    rw [decSYS, hw.b]
    exact decGA1_ok_iff.2 ⟨a, decIf_ok_iff.2 ⟨by simp [hw.x], rfl⟩, hw.a⟩
  case genfence d | rtswap d =>
    refine reads_uni rfl (by decide) (by decide) d.isLt (by decide) (by decide) fun w hw => ?_
    obtain rfl := gdOf_eq.2 hw.d
    rw [decUni, hw.op]
    show decSYS w = _
    rw [decSYS, hw.b]
    exact decIf_ok_iff.2 ⟨by simp [hw.a, hw.x], rfl⟩
  case tlbi g => exact reads_tlbi g
  -- steps that no word encodes
  all_goals exact absurd rfl hne

/-- A first word and the one after it, as memory holds them, decode as the words do. -/
theorem decode_wordsOf {w x : Nat} {i : Instr} (hw : w < 2 ^ 32) (hx : x < 2 ^ 32) (hz : twoWords w = false → x = 0)
    (h : decodeWords w x = .ok i) (rest : List Byte) :
    decode ((wordsOf w x).flatMap (leBytes 4) ++ rest) = some (.ok (i, 4 * (wordsOf w x).length)) := by
  have hwb : leNat (leBytes 4 w) = w := Machine.leNat_leBytes 4 w hw
  have hxb : leNat (leBytes 4 x) = x := Machine.leNat_leBytes 4 x hx
  cases ht : twoWords w with
  | false =>
    have hs : (wordsOf w x).flatMap (leBytes 4) = leBytes 4 w := by simp [wordsOf, ht]
    rw [hz ht] at h
    rw [hs]
    simp only [leBytes] at hwb ⊢
    simp [decode, hwb, ht, h, wordsOf]
  | true =>
    have hs : (wordsOf w x).flatMap (leBytes 4) = leBytes 4 w ++ leBytes 4 x := by simp [wordsOf, ht]
    rw [hs]
    simp only [leBytes] at hwb hxb ⊢
    simp [decode, hwb, hxb, ht, h, wordsOf]

end Sys2Proof

namespace Sys2Proof.Claims

/-- Settles O4: `reads_of_wf` for the words, `decode_wordsOf` for the bytes. -/
theorem decodeEncode : Obligations.DecodeEncode := fun i hwf hne => by
  obtain ⟨w, x, hw, hx, hz, he, hset⟩ := reads_of_wf hwf hne
  have hdec : decodeWords w x = .ok i := decodeWords_ok_iff.2 ⟨hset, hwf⟩
  have hbytes := decode_wordsOf hw hx hz hdec
  rw [encodeBytes, he]
  cases ht : twoWords w with
  | false =>
    obtain rfl := hz ht
    rw [show wordsOf w 0 = [w] by simp [wordsOf, ht]] at hbytes ⊢
    exact ⟨by simpa using hw, by simp [ht], hdec, hbytes⟩
  | true =>
    rw [show wordsOf w x = [w, x] by simp [wordsOf, ht]] at hbytes ⊢
    exact ⟨by simpa using ⟨hw, hx⟩, by simp [ht], hdec, hbytes⟩

/-- Settles O3: each word's fields, read off. -/
theorem wordsDecode : Obligations.WordsDecode := ⟨rfl, rfl, rfl, rfl, rfl, rfl, rfl, rfl⟩

end Sys2Proof.Claims
end

section
/-! A table of stack controllers in canonical form keeps its migration entries, and memory its bytes, under accesses of the
L2 (02 R40, R41; 04 R82). -/

namespace Sys2Proof.Machine

open Sys2Proof.Safety Sys2Proof.Claims

section
variable {α β : Type} {d : α}

theorem tdel_of_lt {k : Nat} {m : Tbl α} (h : ∀ p ∈ m, k < p.1) : tdel k m = m := by
  induction m with
  | nil => rfl
  | cons p m ih =>
    obtain ⟨hp, hm⟩ := List.forall_mem_cons.1 h
    rw [tdel, if_neg (by omega), ih hm]

theorem tins_of_lt {k : Nat} {v : α} {m : Tbl α} (h : ∀ p ∈ m, k < p.1) : tins k v m = (k, v) :: m := by
  cases m with
  | nil => rfl
  | cons p m => rw [tins, if_pos (h p List.mem_cons_self)]

theorem tget_of_lt {k : Nat} {m : Tbl α} (h : ∀ p ∈ m, k < p.1) : tget d m k = d := by
  rw [← tdel_of_lt h, tget_tdel_self]

variable [DecidableEq α]

/-- What a canonical table lists, entry after entry, where an entry is put that lists the same. -/
theorem flatMap_tset {f : α → List β} {m : Tbl α} {k : Nat} {v : α} (hm : twf d m = true) (hd : f d = [])
    (hv : f v = f (tget d m k)) : (tset d m k v).flatMap (fun p => f p.2) = m.flatMap (fun p => f p.2) := by
  induction m with
  | nil =>
    rw [tget_nil, hd] at hv
    unfold tset
    split <;> simp [tdel, tins, hv]
  | cons p m ih =>
    obtain ⟨i, w⟩ := p
    obtain ⟨-, hi, hm⟩ := twf_cons.1 hm
    rcases lt_trichotomy k i with hk | rfl | hk
    · have hlt : ∀ p ∈ (i, w) :: m, k < p.1 := List.forall_mem_cons.2 ⟨hk, fun p hp => hk.trans (hi p hp)⟩
      rw [tget_of_lt hlt, hd] at hv
      unfold tset
      rw [tdel_of_lt hlt]
      split
      · rfl
      · rw [tins_of_lt hlt, List.flatMap_cons, hv, List.nil_append]
    · rw [tget, if_pos rfl] at hv
      unfold tset
      rw [tdel, if_pos rfl, tdel_of_lt hi]
      split
      · next h => rw [List.flatMap_cons, ← hv, h, hd, List.nil_append]
      · rw [tins_of_lt hi, List.flatMap_cons, List.flatMap_cons, hv]
    · rw [tget, if_neg (by omega)] at hv
      have hput : tset d ((i, w) :: m) k v = (i, w) :: tset d m k v := by
        simp only [tset, tdel, if_neg hk.ne', tins, if_neg hk.not_gt]
        split <;> rfl
      rw [hput, List.flatMap_cons, List.flatMap_cons, ih hm hv]

end

/-- The table of stack controllers is in canonical form. -/
def StksCanon (s : State) : Prop := twf Stack.reset s.stks = true

/-- L2 lines alone have changed, and the migration entries are as before, in the same order. -/
structure SameMoves (s t : State) : Prop where
  lined : Lined s t
  canon : StksCanon t
  moves : t.stks.flatMap (fun k => k.2.mig) = s.stks.flatMap (fun k => k.2.mig)

theorem SameMoves.refl {s : State} (h : StksCanon s) : SameMoves s s := ⟨.refl s, h, rfl⟩

theorem SameMoves.trans {s t u : State} (h : SameMoves s t) (k : SameMoves t u) : SameMoves s u :=
  ⟨h.lined.trans k.lined, k.canon, k.moves.trans h.moves⟩

theorem SameMoves.foldl {γ : Type} (f : State → γ → State) (hf : ∀ s x, StksCanon s → SameMoves s (f s x)) (l : List γ)
    (s : State) (h : StksCanon s) : SameMoves s (l.foldl f s) := by
  induction l generalizing s with
  | nil => exact .refl h
  | cons x l ih => exact (hf s x h).trans (ih _ (hf s x h).canon)

theorem l2touch_sameMoves (s : State) (pa cls : Nat) (wr : Bool) (h : StksCanon s) : SameMoves s (s.l2touch pa cls wr) :=
  ⟨l2touch_lined s pa cls wr, twf_tset _ _ h, flatMap_tset (f := Stack.mig) h rfl rfl⟩

theorem l2range_sameMoves (s : State) (tgt pa n cls : Nat) (wr : Bool) (h : StksCanon s) :
    SameMoves s (s.l2range tgt pa n cls wr) := by
  unfold State.l2range
  split
  · exact .refl h
  · refine SameMoves.foldl _ (fun st a hst => ?_) _ s h
    simp only
    split
    · exact l2touch_sameMoves _ _ _ _ hst
    · exact .refl hst

/-- Bytes of memory are read alike before and after. -/
theorem SameMoves.pread {s t : State} (h : SameMoves s t) (tgt pa n : Nat) : t.pread tgt pa n = s.pread tgt pa n := by
  have himage : ∀ k, t.image k = s.image k := fun k => by
    rw [← h.lined.rest]
    rfl
  have hbyte : ∀ pa, t.pbyte tgt pa = s.pbyte tgt pa := fun pa => by
    rw [State.pbyte, State.pbyte, State.served, State.served, h.moves, himage]
  induction n generalizing pa with
  | zero => rfl
  | succ n ih => rw [State.pread, State.pread, hbyte, ih]

theorem setTlb_stks (s : State) (h : Holder) (l : List TlbEntry) : (s.setTlb h l).stks = s.stks := by cases h <;> rfl

theorem noteMap_stks (s : State) (t : TlbEntry) : (s.noteMap t).stks = s.stks := by
  unfold State.noteMap
  simp only
  split <;> rfl

theorem xlate_canon {s : State} (h : StksCanon s) (ho : Holder) (asid : BitVec 13) (va : W64) (tgt : Nat) (priv : Bool)
    (need : Need) : StksCanon (s.xlate ho asid va tgt priv need).2 := by
  have hwalk : StksCanon (s.walkL2 asid (va.toNat % 2 ^ 57)) :=
    (SameMoves.foldl _ (fun st _ hst => l2range_sameMoves st _ _ _ _ _ hst) _ s h).canon
  rw [xlate_eq]
  split
  · exact h
  split
  · exact h
  unfold State.leafOf
  split
  · exact h
  simp only
  split
  · exact hwalk
  · unfold StksCanon
    rw [setTlb_stks, noteMap_stks]
    exact hwalk

end Sys2Proof.Machine
end

section
/-! A turn of the group at issue (15 R397): its fetch and what follows from it (06 R134, R147, R148). -/

namespace Sys2Proof.Machine

open Sys2Proof.Safety Sys2Proof.Claims

section
variable {s u : State} (hp : s.phys.powered = true) (ha : s.agenda = []) (hu : u = s.tick.turnTo s.tick.cur)
  (hc : u.canIssue u.cur = true)
include hp ha hu hc

theorem step_of_fetch {v : State} {i : Instr} (h : u.fetch = (.ok i, v)) : step s = exec i v := by
  have hp' : s.tick.phys.powered = true := hp
  have ha' : s.tick.agenda = [] := ha
  subst hu
  simp only [step, ha', hp', if_true, State.issue, hc, h]

theorem step_of_fetch_trap {v : State} {t : Trap} (h : u.fetch = (.error t, v)) : step s = finish 0 (.trap t v) := by
  have hp' : s.tick.phys.powered = true := hp
  have ha' : s.tick.agenda = [] := ha
  subst hu
  simp only [step, ha', hp', if_true, State.issue, hc, h]

end

/-- A word of the code as its fetch leaves memory: in a canonical state what stands there afterwards is what was read. -/
theorem fetchWord_of_fetched {u v : State} {va : W64} {a : XAddr} (hs : StksCanon u) (h : Fetched u va a v) :
    u.fetchWord va = (some (leNat (v.pread 0 a.pa 4)), v) ∧ StksCanon v := by
  obtain ⟨y, hx, rfl⟩ := h
  have hy : StksCanon y := by simpa only [hx] using xlate_canon hs (.core u.cn) u.x.asid va 0 u.priv .fetch
  have hv := l2range_sameMoves y 0 a.pa 4 0 false hy
  refine ⟨?_, hv.canon⟩
  simp only [State.fetchWord, hx, State.pnum, hv.pread]

theorem fetchWord_of_fault {u v : State} {va : W64} {f : XFault}
    (h : u.xlate (.core u.cn) u.x.asid va 0 u.priv .fetch = (.error f, v)) : u.fetchWord va = (none, v) := by
  simp only [State.fetchWord, h]

theorem fetch_of_misaligned {u : State} (h : u.g.r.pc.toNat % 4 ≠ 0) : u.fetch = (.error (.mk2 3 u.g.r.pc), u) := by
  simp only [State.fetch, if_pos h]

theorem fetch_of_missed {u v : State} (h : u.g.r.pc.toNat % 4 = 0) (hw : u.fetchWord u.g.r.pc = (none, v)) :
    u.fetch = (.error (.mk2 3 u.g.r.pc), v) := by
  simp only [State.fetch, if_neg (not_not_intro h), hw]

theorem fetch_of_word {u v : State} {w : Nat} (h : u.g.r.pc.toNat % 4 = 0) (hw : u.fetchWord u.g.r.pc = (some w, v))
    (ht : twoWords w = false) :
    u.fetch = ((decodeWords w 0).mapError (fun _ => Trap.mk2 1 0), v) := by
  simp only [State.fetch, if_neg (not_not_intro h), hw, ht, Bool.false_eq_true, if_false]
  cases decodeWords w 0 <;> rfl

theorem fetch_of_words {u v v2 : State} {w x : Nat} (h : u.g.r.pc.toNat % 4 = 0)
    (hw : u.fetchWord u.g.r.pc = (some w, v)) (ht : twoWords w = true) (hx : v.fetchWord (u.g.r.pc + 4) = (some x, v2)) :
    u.fetch = ((decodeWords w x).mapError (fun _ => Trap.mk2 1 0), v2) := by
  simp only [State.fetch, if_neg (not_not_intro h), hw, ht, if_true, hx]
  cases decodeWords w x <;> rfl

/-- Lookups leave a group as it was, outside its handler or in it. -/
theorem Looked.cur_g {u v : State} (h : Looked u v) : v.cur = u.cur ∧ v.g = u.g := by
  have hc : v.cur = u.cur := (congrArg State.cur h.rest :)
  refine ⟨hc, ?_⟩
  rw [State.g, State.g, State.grp, State.grp, hc, h.kept.1]

theorem Looked.enters {u v : State} (h : Looked u v) (he : Enters u) : Enters v := by
  obtain ⟨hc, hg⟩ := h.cur_g
  obtain ⟨-, hteams, -, hctxs, -⟩ := h.kept
  have hx : v.ctxG v.cur = u.ctxG u.cur := by
    simp only [State.ctxG, State.ctx, State.ctxNoG, State.teamG, State.team, hc, hteams, hctxs]
  unfold Enters at he ⊢
  rw [hg, hx]
  exact he

theorem looked_of_fetched {u v : State} {va : W64} {a : XAddr} (h : Fetched u va a v) : Looked u v := by
  obtain ⟨y, hx, rfl⟩ := h
  have hy := xlate_looked u (.core u.cn) u.x.asid va 0 u.priv .fetch
  rw [hx] at hy
  exact hy.trans (l2range_lined y 0 a.pa 4 0 false).looked

/-- A trap of cause `n` at the fetch enters the handler (16 R411). -/
theorem finish_trap_enters {v : State} {n : Nat} (val : W64) (he : Enters v) (hn : n < 0x18) :
    ∃ z, finish 0 (.trap (.mk2 n val) v) = .next z ∧ Entered [] v z n 0 val 0 v.g.r.exm v.g.r.pc :=
  ⟨_, rfl, entered_turnDone he (.mk2 n val) (show n ≠ 0x18 by omega) (show n ≠ 0x1A by omega) (show n ≠ 0x1B by omega)⟩

end Sys2Proof.Machine
end

section
/-! O1 and O6: a step runs what its fetch read. In canonical states that is the word that stands in memory afterwards; in a
state whose table of stack controllers lists a number twice it need not be. -/

namespace Sys2Proof.Claims

open Sys2Proof.Machine Sys2Proof.Safety

section
variable {s u v : State} {a : XAddr} (hp : s.phys.powered = true) (ha : s.agenda = [])
  (hu : u = s.tick.turnTo s.tick.cur) (hc : u.canIssue u.cur = true)
include hp ha hu hc

/-- O1 where the table of stack controllers is canonical. -/
theorem stepRunsDecoded_of_canon (hs : StksCanon u) (hpc : u.g.r.pc.toNat % 4 = 0) (hf : Fetched u u.g.r.pc a v)
    {i : Instr} {x : Nat} {v2 : State}
    (h2 : if twoWords (leNat (v.pread 0 a.pa 4)) then
        ∃ b : XAddr, Fetched v (u.g.r.pc + 4) b v2 ∧ x = leNat (v2.pread 0 b.pa 4)
      else x = 0 ∧ v2 = v)
    (hd : decodeWords (leNat (v.pread 0 a.pa 4)) x = .ok i) : step s = exec i v2 := by
  obtain ⟨hw, hv⟩ := fetchWord_of_fetched hs hf
  refine step_of_fetch hp ha hu hc ?_
  cases ht : twoWords (leNat (v.pread 0 a.pa 4)) with
  | false =>
    obtain ⟨rfl, rfl⟩ : x = 0 ∧ v2 = v := by simpa [ht] using h2
    rw [fetch_of_word hpc hw ht, hd]
    rfl
  | true =>
    obtain ⟨b, hb, rfl⟩ : ∃ b : XAddr, Fetched v (u.g.r.pc + 4) b v2 ∧ x = leNat (v2.pread 0 b.pa 4) := by
      simpa [ht] using h2
    rw [fetch_of_words hpc hw ht (fetchWord_of_fetched hv hb).1, hd]
    rfl

/-- O6's first clause: a pc that is no multiple of 4 (R134, R148). -/
theorem fetch_misaligned_enters (he : Enters u) (hpc : u.g.r.pc.toNat % 4 ≠ 0) :
    ∃ t, step s = .next t ∧ Entered [] u t 3 0 u.g.r.pc 0 u.g.r.exm u.g.r.pc := by
  rw [step_of_fetch_trap hp ha hu hc (fetch_of_misaligned hpc)]
  exact finish_trap_enters _ he (by decide)

/-- O6's second clause: a page that cannot be fetched (R134, R148). -/
theorem fetch_fault_enters (he : Enters u) {f : XFault} (hpc : u.g.r.pc.toNat % 4 = 0)
    (hx : u.xlate (.core u.cn) u.x.asid u.g.r.pc 0 u.priv .fetch = (.error f, v)) :
    ∃ t, step s = .next t ∧ Entered [] v t 3 0 u.g.r.pc 0 v.g.r.exm u.g.r.pc := by
  have hl : Looked u v := by simpa only [hx] using xlate_looked u (.core u.cn) u.x.asid u.g.r.pc 0 u.priv .fetch
  rw [step_of_fetch_trap hp ha hu hc (fetch_of_missed hpc (fetchWord_of_fault hx)), ← hl.cur_g.2]
  exact finish_trap_enters _ (hl.enters he) (by decide)

/-- O6's third clause where the table of stack controllers is canonical: a word that does not decode (R147). -/
theorem fetch_illegal_enters_of_canon (hs : StksCanon u) (he : Enters u) (hpc : u.g.r.pc.toNat % 4 = 0)
    (hf : Fetched u u.g.r.pc a v) {e : Illegal} (ht : twoWords (leNat (v.pread 0 a.pa 4)) = false)
    (hd : decodeWords (leNat (v.pread 0 a.pa 4)) 0 = .error e) :
    ∃ t, step s = .next t ∧ Entered [] v t 1 0 0 0 v.g.r.exm v.g.r.pc := by
  have hfetch := fetch_of_word hpc (fetchWord_of_fetched hs hf).1 ht
  rw [hd] at hfetch
  rw [step_of_fetch_trap hp ha hu hc hfetch]
  exact finish_trap_enters _ ((looked_of_fetched hf).enters he) (by decide)

end

/-! A state whose table is not canonical. -/

/-- The move of the code page, all its lines copied from frame 0x10000 to frame 0x20000 (02 R41). -/
def codeMove : Mig :=
  { st := .moving, old := 0x10000, otgt := 0, new := 0x20000, ntgt := 0, big := false, prog := 256, run := true,
    asked := none, tlb := none }

/-- A booted module whose table of stack controllers lists number 0 twice, the move of its code page with the second; the
words `old` and `new` stand in the two frames. The fetch reads `new` and writes the controller's L2 line, by which the
second entry is gone, so that `old` stands where `new` was read. -/
def listedTwice (old new : Nat) : State :=
  { State.reset.boot with
    stks := [(0, Stack.reset), (0, { Stack.reset with mig := [(0, codeMove)] })]
    hbm := mput (mput [] 0x10000 4 old) 0x20000 4 new }

/-- The module at its group's turn. -/
def twiceTurn (old new : Nat) : State := (listedTwice old new).tick.turnTo (listedTwice old new).tick.cur

/-- The code page's translation of the pc, and the state that its lookup leaves. -/
def twiceLookup (old new : Nat) : Except XFault XAddr × State :=
  (twiceTurn old new).xlate (.core (twiceTurn old new).cn) (twiceTurn old new).x.asid (twiceTurn old new).g.r.pc 0
    (twiceTurn old new).priv .fetch

/-- The module when its word has been fetched. -/
def twiceFetched (old new : Nat) : State := (twiceLookup old new).2.l2range 0 0x10000 4 0 false

/-- The pc that a step leaves. -/
def pcAfter (r : Host.Outcome State Fault Refusal) : Option W64 :=
  match r with
  | .next t => some t.g.r.pc
  | _ => none

/-- NOP. -/
def nopWord : Nat := 0xCE000000
/-- A word of a reserved opcode of the lane set. -/
def illegalWord : Nat := 0x7E000000

theorem fetched_twice {old new : Nat} (h : (twiceLookup old new).1 = .ok ⟨0, 0x10000, 0, 0x1000B⟩) :
    Fetched (twiceTurn old new) (twiceTurn old new).g.r.pc ⟨0, 0x10000, 0, 0x1000B⟩ (twiceFetched old new) :=
  ⟨_, Prod.ext h rfl, rfl⟩

/-- Refutes O1: in `listedTwice nopWord illegalWord` NOP stands at the pc when the fetch is over, but the fetch has read the
reserved word, and the group takes the illegal-instruction trap. Where the table of stack controllers lists its
keys in canonical form the statement holds: `stepRunsDecoded_of_canon`. -/
theorem not_stepRunsDecoded : ¬ Obligations.StepRunsDecoded := by
  intro h
  have hword : nopWord = leNat ((twiceFetched nopWord illegalWord).pread 0 0x10000 4) := by decide +kernel
  have hstep : step (listedTwice nopWord illegalWord) = exec .nop (twiceFetched nopWord illegalWord) :=
    h (listedTwice nopWord illegalWord) (twiceTurn nopWord illegalWord) (twiceFetched nopWord illegalWord) .nop nopWord 0
      ⟨0, 0x10000, 0, 0x1000B⟩ (by decide +kernel) rfl rfl (by decide +kernel) (by decide +kernel)
      (fetched_twice (by decide +kernel)) hword _ (by rw [if_neg (by decide)]; exact ⟨rfl, rfl⟩) rfl
  have htrap : pcAfter (step (listedTwice nopWord illegalWord)) = some 0 := by decide +kernel
  have hnop : pcAfter (exec .nop (twiceFetched nopWord illegalWord)) = some 0x10004 := by decide +kernel
  rw [hstep, hnop] at htrap
  exact absurd htrap (by decide)

/-- Refutes O6 by its third clause: in `listedTwice illegalWord nopWord` the reserved word stands at the pc when the fetch is
over, but the fetch has read NOP, and the group retires it. The first two clauses hold in every state
(`fetch_misaligned_enters`, `fetch_fault_enters`), the third where the table of stack controllers is canonical
(`fetch_illegal_enters_of_canon`). -/
theorem not_fetchTraps : ¬ Obligations.FetchTraps := by
  intro h
  obtain ⟨-, -, hillegal⟩ := h (listedTwice illegalWord nopWord) (twiceTurn illegalWord nopWord) (by decide +kernel) rfl rfl
    (by decide +kernel) ⟨by decide +kernel, by decide +kernel, by decide +kernel⟩
  have hword : leNat ((twiceFetched illegalWord nopWord).pread 0 0x10000 4) = illegalWord := by decide +kernel
  obtain ⟨t, ht, -, -, -, hr, -⟩ := hillegal ⟨0, 0x10000, 0, 0x1000B⟩ (twiceFetched illegalWord nopWord) .opcode
    (by decide +kernel) (fetched_twice (by decide +kernel)) (by rw [hword]; decide) (by rw [hword]; rfl)
  have hnop : pcAfter (step (listedTwice illegalWord nopWord)) = some 0x10004 := by decide +kernel
  have htvec : ((twiceFetched illegalWord nopWord).x.tvec.truncate 57 : BitVec 57).signExtend 64 = 0 := by decide +kernel
  have hzero : pcAfter (.next t) = some 0 := by rw [pcAfter, hr, htvec]
  rw [ht, hzero] at hnop
  exact absurd hnop (by decide)

end Sys2Proof.Claims
end

section
/-! Instructions whose body changes the registers of the group at issue alone, and SPADJ (07 R168; O26). -/

namespace Sys2Proof.Machine

open Sys2Proof.Claims Sys2Proof.Safety

theorem Adopted.r {s x : State} (h : Adopted s x) : x.g.r = { s.g.r with exm := x.g.r.exm } := (congrArg Group.r h.g :)

theorem Adopted.y {s x : State} (h : Adopted s x) : x.g.y = s.g.y := (congrArg Group.y h.g :)

theorem Adopted.sys {s x : State} (h : Adopted s x) : x.g.sys = s.g.sys := (congrArg Group.sys h.g :)

/-- An instruction of `len` bytes that changes the registers of its group by `f` and retires. -/
theorem run_modR {len : Nat} {s x : State} {sels : List Sel} {dests : List DReg} {f : Regs → Regs} {body : State → Res}
    (hr : Runs s sels dests x) (hb : body x = .ok (x.modR f)) :
    ∃ t, run len s sels dests body = .next t ∧ RegistersOnly (sels.map (fun a => a.src)) s t ∧
      SysKept (sels.map (fun a => a.src)) s t ∧ t.g.sys.fpflags = s.g.sys.fpflags ∧ t.g.sys.srcnt = s.g.sys.srcnt ∧
      t.g.r = { f { s.g.r with exm := x.g.r.exm } with
        pc := (f { s.g.r with exm := x.g.r.exm }).pc + BitVec.ofNat 64 len } := by
  obtain ⟨hready, harm⟩ := hr
  obtain ⟨ha, -, -⟩ := ready_ok hready
  have hg : (x.modR f).g = { s.g with r := f { s.g.r with exm := x.g.r.exm } } := by
    rw [State.modR_eq, State.modG_g, ha.g]
  obtain ⟨t, ht, hout, hoth, -, hrt, hsys, hclk, hkept, hsent, -⟩ :=
    run_only (len := len) hready hb (only_modG _ _) (by rw [hg]; exact harm)
  unfold GroupKept at hkept
  unfold NothingSent at hsent
  rw [hg] at hrt hsys hclk hkept hsent
  exact ⟨t, ht, ⟨hout, hoth, hkept, hsent⟩,
    ⟨(congrArg (fun (z : SysRegs) => { z with fpflags := 0, srcnt := 0 }) hsys :), hclk⟩,
    (congrArg SysRegs.fpflags hsys :), (congrArg SysRegs.srcnt hsys :), hrt⟩

/-- Is a cause one of those that a trap into the handler has no other effect for (16 R411, R418, R420)? -/
def entersOnly (cause : Nat) : Bool := cause != 0x18 && cause != 0x1A && cause != 0x1B

/-- An instruction whose body raises a trap of such a cause enters the handler (16 R411). -/
theorem run_raises {len c : Nat} {v : W64} {s x u : State} {sels : List Sel} {dests : List DReg} {body : State → Res}
    (hr : s.ready sels dests = .ok x) (hb : body x = .trap (Trap.mk2 c v) u) (he : Enters s) (hc : entersOnly c = true) :
    ∃ t, run len s sels dests body = .next t ∧ Entered [] s t c 0 v 0 s.g.r.exm s.g.r.pc := by
  simp only [entersOnly, Bool.and_eq_true, bne_iff_ne] at hc
  obtain ⟨⟨h18, h1a⟩, h1b⟩ := hc
  obtain ⟨t, ht, hent⟩ := run_trap (len := len) hr hb he h18 h1a h1b
  exact ⟨t, ht, hent⟩

end Sys2Proof.Machine

namespace Sys2Proof.Claims

open Sys2Proof.Machine Sys2Proof.Safety

theorem encode_spadj_imm (w : W32) : encode (.spadj (.imm w)) = [2 ^ 31 + 0x15 * 2 ^ 25 + 1, w.toNat] := rfl

theorem encode_spadj_sel (a : Sel) : encode (.spadj (.sel a)) = [2 ^ 31 + 0x15 * 2 ^ 25 + 2 * a.code] := by
  simp only [encode, encGAB, encGA]
  congr 1
  omega

section
variable {s x : State} {b : UOpd}

/-- The sum that SPADJ forms, exactly. -/
def spillSum (s x : State) (b : UOpd) : Int := s.g.r.spp.toNat + (uniOpd x b).toInt

/-- Does a spill pointer stay within the spill size, at a multiple of 4 (07 R168)? -/
def SpillFits (s : State) (sum : Int) : Prop := 0 ≤ sum ∧ sum ≤ s.l.ss ∧ sum % 4 = 0

theorem spillFits_iff (s : State) (sum : Int) : ¬ SpillFits s sum ↔ sum < 0 ∨ s.l.ss < sum ∨ sum % 4 ≠ 0 := by
  unfold SpillFits
  omega

/-- SPADJ is a run of its operand, with a sum that is the same whatever mask its source has adopted. -/
theorem exec_spadj (hr : s.ready (uniSels b) [] = .ok x) : ∃ body, exec (.spadj b) s = run (uniBytes b) s (uniSels b) [] body ∧
    (SpillFits s (spillSum s x b) →
      body x = .ok (x.modR (fun r => { r with spp := BitVec.ofInt 32 (spillSum s x b) }))) ∧
    (¬ SpillFits s (spillSum s x b) → body x = .trap (Trap.mk2 0xC (BitVec.ofInt 64 (spillSum s x b))) x) := by
  obtain ⟨ha, -, -⟩ := ready_ok hr
  have hl : x.l.ss = s.l.ss := by rw [ha.only.l]
  have hsum : (x.g.r.spp.toNat : Int) + (x.uval b).toInt = spillSum s x b := by
    rw [ha.r]
    cases b <;> rfl
  rw [uniSels_eq, uniBytes_eq]
  refine ⟨_, rfl, fun h => ?_, fun h => ?_⟩
  · simp only [hsum, hl]
    exact if_neg ((spillFits_iff s _).not.1 (not_not.2 h))
  · simp only [hsum, hl]
    exact if_pos ((spillFits_iff s _).1 h)

end

/-- Settles O26: the words, the sum within the spill size, and the trap. -/
theorem spillPointer : Obligations.SpillPointer := by
  refine ⟨encode_spadj_imm, fun a _ => encode_spadj_sel a, fun s x b hr => ?_⟩
  obtain ⟨body, he, hfits, htrap⟩ := exec_spadj hr.1
  rw [he]
  refine ⟨fun h0 hss h4 => ?_, fun h henter => ?_⟩
  · obtain ⟨t, ht, hregs, hsys, -, -, hrt⟩ := run_modR (len := uniBytes b) hr (hfits ⟨h0, hss, h4⟩)
    exact ⟨t, ht, hregs, hsys, hrt⟩
  · exact run_raises hr.1 (htrap ((spillFits_iff s _).2 h)) henter rfl

end Sys2Proof.Claims
end

section
/-! What an instruction that waits leaves of the state that its body leaves (05 R115, 06 R138, 15 R398), and the cores that
the end of an instruction leaves alone. -/

namespace Sys2Proof.Machine

open Sys2Proof.Claims Sys2Proof.Safety

/-! Cores. -/

theorem popSrc_cores (s : State) (x : Src) : (s.popSrc x).cores = s.cores := by
  unfold State.popSrc
  split
  · rfl
  · split
    · split <;> rfl
    · split <;> rfl
    · rfl

theorem popSrcs_cores (l : List Src) (s : State) : (s.popSrcs l).cores = s.cores := by
  induction l generalizing s with
  | nil => rfl
  | cons x l ih => exact (ih (s.popSrc x)).trans (popSrc_cores s x)

theorem cn_of_outside {l : List Src} {s t : State} (h : Outside l s t) (hc : t.cur = s.cur) : t.cn = s.cn := by
  unfold State.cn State.coreNoG State.teamG
  rw [hc]
  exact (congrArg Team.core (h.2.2.1 (teamOf s.cur)) :)

theorem retireG_core_ne (s : State) (pc : W64) {c : Nat} (h : c ≠ s.cn) : (s.retireG pc).core c = s.core c := by
  rw [State.cn] at h
  unfold State.retireG State.turnDone
  simp only
  split
  · rw [State.modG_core, State.modQuad, State.modCore_core_ne _ _ h, State.modCore_core_ne _ _ h]
    rfl
  · rfl

theorem ended_core_ne (y : State) (l : List Src) (len : Nat) {c : Nat} (h : c ≠ y.cn) : (y.ended l len).core c = y.core c := by
  have hp := popSrcs_popped l y
  rw [State.ended, retireG_core_ne _ _ (by rwa [cn_of_outside hp.frame.1 hp.cur]), State.core, popSrcs_cores]
  rfl

/-- The end of an instruction in its group: able to issue, and with no progress of a wait. -/
theorem ended_y (y : State) (l : List Src) (len : Nat) : (y.ended l len).g.y.status = .ready ∧
    (y.ended l len).g.y.arrived = false ∧ (y.ended l len).g.y.woken = false ∧
    (y.ended l len).g.y.relFence = y.g.y.relFence := by
  obtain ⟨-, -, -, hg⟩ := retireG_frame (y.popSrcs l) ((y.popSrcs l).g.r.pc + BitVec.ofNat 64 len)
  rw [State.ended, hg]
  exact ⟨rfl, rfl, rfl, (congrArg GSync.relFence (popSrcs_popped l y).y :)⟩

/-! Sources that a waiting instruction has read (06 R138). -/

/-- Between `y` and `t` an instruction that waits has read its sources `l`: their queues have popped, CLK has latched its
upper half, and the values are kept. -/
structure Sampled (l : List Src) (y t : State) : Prop where
  cur : t.cur = y.cur
  out : Outside l y t
  cores : t.cores = y.cores
  others : OthersKept y t
  r : t.g.r = y.g.r
  sys : { t.g.sys with clkh := 0 } = { y.g.sys with clkh := 0 }
  clkh : .special 7 ∉ l → t.g.sys.clkh = y.g.sys.clkh
  streams : .q 0 ∉ l → .q 1 ∉ l → t.g.s0 = y.g.s0 ∧ t.g.s1 = y.g.s1
  sync : { t.g.y with q3 := [], sampled := [], undo := none } = { y.g.y with q3 := [], sampled := [], undo := none }
  q3 : .q 3 ∉ l → t.g.y.q3 = y.g.y.q3

theorem sampleSrcs_sampled (y s x : State) (l : List Src) : Sampled l y (y.sampleSrcs s x l) := by
  unfold State.sampleSrcs
  simp only
  split
  · exact ⟨rfl, (Only.refl y).outside l, rfl, fun _ _ => rfl, rfl, rfl, fun _ => rfl, fun _ _ => ⟨rfl, rfl⟩, rfl, fun _ => rfl⟩
  · have hp := popSrcs_popped l y
    obtain ⟨hout, hoth, ⟨-, hstr, hq3, -⟩, -⟩ := hp.frame
    generalize l.filter (fun x_1 => onceRead x_1 && (x.sample x_1 0).isNone) = new
    have hm := only_modG (y.popSrcs l) (fun g => { g with y := { g.y with
      sampled := g.y.sampled ++ new.map (fun z => (z, (List.range 16).map (x.freshVal z)))
      undo := g.y.undo.or (some (s.undoOf l)) } })
    have hg := (y.popSrcs l).modG_g (fun g => { g with y := { g.y with
      sampled := g.y.sampled ++ new.map (fun z => (z, (List.range 16).map (x.freshVal z)))
      undo := g.y.undo.or (some (s.undoOf l)) } })
    rw [State.modY_eq]
    refine ⟨hp.cur, by simpa using outside_trans hout (hm.outside []), popSrcs_cores l y, othersKept_trans hoth hm.2 hp.cur,
      ?_, ?_, fun h => ?_, fun h0 h1 => ?_, ?_, fun h => ?_⟩ <;> rw [hg]
    · exact hp.r
    · exact hp.sys
    · exact hp.clkh h
    · exact hstr h0 h1
    · exact (congrArg (fun (z : GSync) => { z with sampled := [], undo := none }) hp.y :)
    · exact hq3 h

/-! The wait. -/

/-- Between `s` and `t` the group at issue has begun a wait that is no sleep: its status and its core's scheduling positions
have changed (15 R398). -/
structure Began (s t : State) (w : Wait) : Prop where
  cur : t.cur = s.cur
  out : Outside [] s t
  core : ∀ c, c ≠ s.cn → t.core c = s.core c
  others : OthersKept s t
  g : t.g = { s.g with y := { s.g.y with status := .waiting w } }

theorem leaveActive_core_ne (s : State) (gk : Nat) {c : Nat} (h : c ≠ s.coreNoG gk) :
    (s.leaveActive gk).core c = s.core c := by
  unfold State.leaveActive
  simp only
  repeat' split
  · rfl
  · exact State.modCore_core_ne _ _ h
  · rfl

theorem wait_began (s : State) {w : Wait} (hw : w.sleeps = false) : Began s (s.wait w) w := by
  have h1 : Only s (s.modY (fun y => { y with status := .waiting w })) := only_modG s _
  have hg : (s.modY (fun y => { y with status := .waiting w })).g =
      { s.g with y := { s.g.y with status := .waiting w } } := s.modG_g _
  unfold Wait.sleeps at hw
  unfold State.wait
  rw [hw, Bool.and_false, if_neg (by simp)]
  simp only
  split
  · obtain ⟨hout, hgr, hcur⟩ := leaveActive_frame (s.modY (fun y => { y with status := .waiting w })) s.cur
    have hgrp : ∀ k, ((s.modY (fun y => { y with status := .waiting w })).leaveActive s.cur).grp k =
        (s.modY (fun y => { y with status := .waiting w })).grp k := fun k => by simp only [State.grp, hgr]
    refine ⟨hcur, by simpa using outside_trans (h1.outside []) hout, fun c hc => ?_, fun k hk => (hgrp k).trans (h1.2 k hk), ?_⟩
    · exact leaveActive_core_ne _ _ hc
    · rw [State.g, hgrp, hcur]; exact hg
  · exact ⟨rfl, h1.outside [], fun _ _ => rfl, h1.2, hg⟩

/-- The state in which an instruction with sources `l` waits whose body leaves `y`: `s` is the state that the instruction met,
and `x` the one that its sources are read from. -/
def State.held (y s x : State) (l : List Src) (w : Wait) : State := (y.sampleSrcs s x l).wait w

theorem run_held {len : Nat} {s x y : State} {sels : List Sel} {dests : List DReg} {body : State → Res} {w : Wait}
    (hr : s.ready sels dests = .ok x) (hb : body x = .block w y) :
    run len s sels dests body = .next (y.held s x (sels.map (fun a => a.src)) w) := by
  simp only [run, hr, hb, Res.settle, finish, State.held]

/-- Between `y`, which a body left, and `t` an instruction with sources `l` has come to wait. -/
structure Held (l : List Src) (y t : State) (w : Wait) : Prop where
  cur : t.cur = y.cur
  out : Outside l y t
  others : OthersKept y t
  core : ∀ c, c ≠ y.cn → t.core c = y.core c
  sync : { t.g.y with q3 := [], sampled := [], undo := none } =
    { y.g.y with q3 := [], sampled := [], undo := none, status := .waiting w }
  waits : Waits l y t w false

theorem held_held (y s x : State) (l : List Src) {w : Wait} (hw : w.sleeps = false) : Held l y (y.held s x l w) w := by
  have h := sampleSrcs_sampled y s x l
  have k := wait_began (y.sampleSrcs s x l) hw
  rw [← State.held] at k
  generalize y.held s x l w = t at k
  have hsync := congrArg (fun (z : GSync) => { z with status := .waiting w }) h.sync
  refine ⟨k.cur.trans h.cur, by simpa using outside_trans h.out k.out, othersKept_trans h.others k.others h.cur,
    fun c hc => ?_, by rw [k.g]; exact hsync, ?_⟩
  · rw [k.core c (by rwa [cn_of_outside h.out h.cur])]
    simp only [State.core, h.cores]
  · unfold Waits NothingSent
    rw [k.g]
    exact ⟨h.r, h.sys, h.clkh, h.streams, ⟨(congrArg GSync.paths h.sync :), (congrArg GSync.pend h.sync :)⟩, h.q3, rfl⟩

end Sys2Proof.Machine
end

section
/-! WAITN, FENCE and FENCE.FLUSH (07 R170 to R172; 11 R288; 13 R338, R340; O29). -/

namespace Sys2Proof.Machine

open Sys2Proof.Claims Sys2Proof.Safety

/-! The end of an instruction whose body leaves its group's registers alone. -/

theorem run_ends {len : Nat} {s x y : State} {sels : List Sel} {dests : List DReg} {body : State → Res}
    (hr : s.ready sels dests = .ok x) (hb : body x = .ok y) (hy : y.g.y.stepArmed = false) :
    run len s sels dests body = .next (y.ended (sels.map (fun a => a.src)) len) := run_ok hr hb hy

theorem ended_kept {s y : State} (l : List Src) (len : Nat) (hk : GroupKept [] s y) : GroupKept l s (y.ended l len) := by
  obtain ⟨⟨-, -, h, -⟩, -⟩ := ended_frame y l len
  exact groupKept_trans hk h

theorem ended_sys {s y : State} (l : List Src) (len : Nat) (hsys : y.g.sys = s.g.sys) :
    SysKept l s (y.ended l len) ∧ (y.ended l len).g.sys.fpflags = s.g.sys.fpflags ∧
      (y.ended l len).g.sys.srcnt = s.g.sys.srcnt := by
  obtain ⟨-, -, -, h, hc⟩ := ended_frame y l len
  rw [hsys] at h hc
  exact ⟨⟨(congrArg (fun (z : SysRegs) => { z with fpflags := 0, srcnt := 0 }) h :), hc⟩, (congrArg SysRegs.fpflags h :),
    (congrArg SysRegs.srcnt h :)⟩

theorem ended_moved {s x y : State} (l : List Src) (len : Nat) (hr : y.g.r = { s.g.r with exm := x.g.r.exm })
    (hsys : y.g.sys = s.g.sys) (hk : GroupKept [] s y) (hn : NothingSent s y) : Moved l s x (y.ended l len) len := by
  obtain ⟨⟨-, -, -, hp, hq⟩, -, hr', -⟩ := ended_frame y l len
  obtain ⟨hst, harr, hw, -⟩ := ended_y y l len
  obtain ⟨hs, hfl, hcnt⟩ := ended_sys l len hsys
  refine ⟨ended_kept l len hk, ⟨hp.trans hn.1, hq.trans hn.2⟩, hs, hfl, hcnt, ?_, hst, harr, hw⟩
  rw [hr', hr]

/-! Counters (R169, R288). -/

theorem waitPaths_clear {s : State} {paths : List Nat} (sels : List Sel) (body : State → Res)
    (h : s.g.y.fabErr paths = none) : waitPaths s paths sels body = run 4 s sels [] body := by
  unfold waitPaths
  rw [h]
  split
  · next heq => cases heq
  · rfl

theorem clearFab_g (s : State) (seven : Bool) :
    (s.clearFab seven).g = { s.g with y := if seven then s.g.y.clear7 else { s.g.y with fab3 := none } } := s.modG_g _

theorem only_clearFab (s : State) (seven : Bool) : Only s (s.clearFab seven) := only_modG s _

theorem clearFab_y (s : State) (seven : Bool) : (s.clearFab seven).g.y.fab3 = (if seven then s.g.y.fab3 else none) ∧
    (s.clearFab seven).g.y.fab7 = (if seven then none else s.g.y.fab7) ∧ (s.clearFab seven).g.y.undo = s.g.y.undo := by
  rw [clearFab_g]
  cases seven <;> exact ⟨rfl, rfl, rfl⟩

/-- A wait on a path with an outstanding failure enters the handler, the entry cleared. -/
theorem waitPaths_fails {s x : State} {paths : List Nat} {sels : List Sel} {seven : Bool} {e : FabErr} (body : State → Res)
    (hr : s.ready sels [] = .ok x) (he : Enters s) (h : s.g.y.fabErr paths = some (seven, e)) :
    ∃ t, waitPaths s paths sels body = .next t ∧
      Entered [] (s.clearFab seven) t 0x14 e.code e.addr 0 s.g.r.exm s.g.r.pc := by
  have ho := only_clearFab s seven
  have hg := clearFab_g s seven
  have hey : Enters (s.clearFab seven) := by
    obtain ⟨hm, hdbg, hu⟩ := he
    have hx : (s.clearFab seven).ctxG (s.clearFab seven).cur = s.ctxG s.cur := ho.x
    unfold Enters
    rw [(clearFab_y s seven).2.2, hx, hg]
    exact ⟨hm, hdbg, hu⟩
  have hent := entered_turnDone hey ⟨0x14, e.code, e.addr, 0⟩ (by simp) (by simp) (by simp)
  have hw : waitPaths s paths sels body = .next (((s.clearFab seven).turnDone (s.clearFab seven).cur).trapGrp
      (s.clearFab seven).cur (s.clearFab seven).g.r.pc ⟨0x14, e.code, e.addr, 0⟩) := by
    unfold waitPaths
    rw [hr, h]
    rfl
  have hrr : (s.clearFab seven).g.r = s.g.r := by rw [hg]
  refine ⟨_, hw, ?_⟩
  rw [← hrr]
  exact hent

theorem released_iff {s : State} {sc : Scope} : s.released sc = true ↔ ∀ p ∈ fencePaths sc, s.g.y.path p = 0 := by
  simp [State.released]

theorem released_congr {s t : State} (h : t.g.y = s.g.y) (sc : Scope) : t.released sc = s.released sc := by
  unfold State.released
  rw [h]

/-! FENCE. -/

theorem teamRel_eq (o : Order) (sc : Scope) : teamRel o sc =
    ((decide (sc = .team) || decide (sc = .rteam)) && (decide (o = .rel) || decide (o = .acqRel))) := by
  cases o <;> cases sc <;> rfl

theorem only_fenceDone (s : State) (o : Order) (sc : Scope) : Only s (s.fenceDone o sc) := by
  unfold State.fenceDone
  split
  · exact only_modG s _
  · exact .refl s

/-- A FENCE done notes its release, and that is all. -/
theorem fenceDone_g (s : State) (o : Order) (sc : Scope) :
    (s.fenceDone o sc).g = { s.g with y := { s.g.y with relFence := s.g.y.relFence || teamRel o sc } } := by
  unfold State.fenceDone
  split
  · next h => rw [State.modY_eq, State.modG_g, h, Bool.or_true]
  · next h => rw [Bool.not_eq_true] at h; rw [h, Bool.or_false]

theorem fenceDone_moved (s y : State) (o : Order) (sc : Scope) (hg : y.g = s.g) :
    Moved [] s s ((y.fenceDone o sc).ended [] 4) 4 := by
  have h := fenceDone_g y o sc
  rw [hg] at h
  refine ended_moved [] 4 ?_ ?_ ?_ ?_
  · rw [h]
  · rw [h]
  · unfold GroupKept; rw [h]; exact ⟨rfl, fun _ _ => ⟨rfl, rfl⟩, fun _ => rfl, rfl, rfl, rfl, rfl, rfl⟩
  · unfold NothingSent; rw [h]; exact ⟨rfl, rfl⟩

theorem ready_nil (s : State) : s.ready [] [] = .ok s := rfl

/-! FENCE.FLUSH (R172). -/

/-- May the group of an address space that runs on a core write this copy back (04 R90)? -/
def State.mine (s : State) (core : Nat) (asid : BitVec 13) (c : SegCopy) : Bool :=
  c.soft && s.spadOk (dieOf core) asid (c.seg * 4096)

/-- Dirty bytes of software-managed copies have been written back or dropped: of the dies, the scratchpads and the writer
identifiers alone have changed, of the cores their segment caches. -/
structure Flushed (s t : State) : Prop where
  only : SegsOnly s t
  die : ∀ d, { t.die d with spad := [], writers := [] } = { s.die d with spad := [], writers := [] }

theorem Flushed.refl (s : State) : Flushed s s := ⟨.refl s, fun _ => rfl⟩

theorem Flushed.trans {s t u : State} (h : Flushed s t) (k : Flushed t u) : Flushed s u :=
  ⟨h.only.trans k.only, fun d => (k.die d).trans (h.die d)⟩

theorem Flushed.groups {s t : State} (h : Flushed s t) : t.groups = s.groups := h.only.kept.1

theorem Flushed.mine {s t : State} (h : Flushed s t) (core : Nat) (asid : BitVec 13) (c : SegCopy) :
    t.mine core asid c = s.mine core asid c := by
  have hd : (t.die (dieOf core)).sprgn = (s.die (dieOf core)).sprgn := (congrArg Die.sprgn (h.die (dieOf core)) :)
  simp only [State.mine, State.spadOk, Die.region, hd]

theorem writeBack_flushed (s : State) (core : Nat) (c : SegCopy) :
    Flushed s (s.modDie (dieOf core) (fun d => d.writeBack core c (fun _ => true))) := by
  refine ⟨segsOnly_modDie s _ _, fun d => ?_⟩
  rw [State.modDie_die_ite]
  split
  · next h => rw [h]; rfl
  · rfl

theorem writeBacks_flushed (core : Nat) (l : List SegCopy) (s : State) :
    Flushed s (l.foldl (fun st c => st.modDie (dieOf core) (fun d => d.writeBack core c (fun _ => true))) s) ∧
      (l.foldl (fun st c => st.modDie (dieOf core) (fun d => d.writeBack core c (fun _ => true))) s).cores = s.cores := by
  induction l generalizing s with
  | nil => exact ⟨.refl s, rfl⟩
  | cons c l ih =>
    obtain ⟨h, hc⟩ := ih (s.modDie (dieOf core) (fun d => d.writeBack core c (fun _ => true)))
    exact ⟨(writeBack_flushed s core c).trans h, hc⟩

/-- The copies that a flush of some of them leaves: without those when they are dropped, with no dirty byte in them
otherwise. -/
def keptSegs (drop : Bool) (flushed segs : List SegCopy) : List SegCopy :=
  if drop then segs.filter (fun c => !flushed.contains c)
  else segs.map (fun c => if flushed.contains c then { c with dirty := [] } else c)

/-- The copies of a core after a flush. -/
def State.flushedSegs (s : State) (core : Nat) (asid : BitVec 13) (drop : Bool) : List SegCopy :=
  keptSegs drop ((s.core core).segs.filter (s.mine core asid)) (s.core core).segs

theorem flushSpad_flushed (s : State) (core : Nat) (asid : BitVec 13) (drop : Bool) :
    Flushed s (s.flushSpad core asid drop) ∧ ((s.flushSpad core asid drop).core core).segs = s.flushedSegs core asid drop := by
  obtain ⟨h, hc⟩ := writeBacks_flushed core ((s.core core).segs.filter (s.mine core asid)) s
  generalize hu : ((s.core core).segs.filter (s.mine core asid)).foldl
    (fun st c => st.modDie (dieOf core) (fun d => d.writeBack core c (fun _ => true))) s = u at h hc
  have he : s.flushSpad core asid drop = u.modCore core (fun co => { co with
      segs := keptSegs drop ((s.core core).segs.filter (s.mine core asid)) co.segs }) := by
    rw [← hu]
    rfl
  rw [he]
  refine ⟨h.trans ⟨segsOnly_modCore u core (keptSegs drop _), fun _ => rfl⟩, ?_⟩
  rw [State.modCore_core, State.core, hc]
  rfl

/-- After a release no copy of the group's own has a dirty byte. -/
theorem flushedSegs_release {s : State} {core : Nat} {asid : BitVec 13} {c : SegCopy}
    (hc : c ∈ s.flushedSegs core asid false) (hm : s.mine core asid c = true) : c.dirty = [] := by
  obtain ⟨x, hx, rfl⟩ := List.mem_map.1 hc
  by_cases h : ((s.core core).segs.filter (s.mine core asid)).contains x
  · simp only [h, if_true]
  · simp only [h] at hm
    exact absurd (List.contains_iff_mem.2 (List.mem_filter.2 ⟨hx, hm⟩)) h

/-- After an acquire no copy of the group's own is left. -/
theorem flushedSegs_acquire {s : State} {core : Nat} {asid : BitVec 13} {c : SegCopy}
    (hc : c ∈ s.flushedSegs core asid true) : s.mine core asid c = false := by
  obtain ⟨hx, hn⟩ := List.mem_filter.1 hc
  by_contra hm
  rw [Bool.not_eq_false] at hm
  simp [List.mem_filter, hx, hm] at hn

/-- What a FENCE.FLUSH flushes before its path counters are looked at, and after. -/
def State.flushRel (s : State) (o : Order) : State := if isRel o then s.flushSpad s.cn s.x.asid false else s

/-- What a FENCE.FLUSH that may go on flushes. -/
def State.flushAll (s : State) (o : Order) : State :=
  if isAcq o then (s.flushRel o).flushSpad (s.flushRel o).cn (s.flushRel o).x.asid true else s.flushRel o

theorem flushRel_flushed (s : State) (o : Order) : Flushed s (s.flushRel o) := by
  unfold State.flushRel
  split
  · exact (flushSpad_flushed ..).1
  · exact .refl s

theorem flushAll_flushed (s : State) (o : Order) : Flushed s (s.flushAll o) := by
  unfold State.flushAll
  split
  · exact (flushRel_flushed s o).trans (flushSpad_flushed ..).1
  · exact flushRel_flushed s o

theorem Flushed.g {s t : State} (h : Flushed s t) : t.g = s.g ∧ t.cur = s.cur ∧ t.cn = s.cn ∧ t.x = s.x := by
  have hc : t.cur = s.cur := (congrArg State.cur h.only.rest :)
  have ht : t.teams = s.teams := (congrArg State.teams h.only.rest :)
  have hx : t.ctxs = s.ctxs := (congrArg State.ctxs h.only.rest :)
  refine ⟨?_, hc, ?_, ?_⟩
  · simp only [State.g, State.grp, h.groups, hc]
  · simp only [State.cn, State.coreNoG, State.teamG, State.team, hc, ht]
  · simp only [State.x, State.ctxG, State.ctxNoG, State.teamG, State.team, State.ctx, hc, ht, hx]

/-- What a FENCE.FLUSH leaves of the group's own copies in its core's segment cache. -/
theorem flushAll_segs {s : State} {o : Order} {c : SegCopy} (hc : c ∈ ((s.flushAll o).core s.cn).segs)
    (hm : s.mine s.cn s.x.asid c = true) : (isRel o = true → c.dirty = []) ∧ isAcq o = false := by
  have hr := flushRel_flushed s o
  obtain ⟨-, -, hcn, hx⟩ := hr.g
  unfold State.flushAll at hc
  split at hc
  · next ha =>
    rw [hcn, hx, (flushSpad_flushed ..).2] at hc
    rw [← hr.mine, flushedSegs_acquire hc] at hm
    cases hm
  · next ha =>
    refine ⟨fun ho => ?_, by simpa using ha⟩
    unfold State.flushRel at hc
    rw [if_pos ho, (flushSpad_flushed ..).2] at hc
    exact flushedSegs_release hc hm

end Sys2Proof.Machine

namespace Sys2Proof.Claims

open Sys2Proof.Machine Sys2Proof.Safety

section
variable {s x : State} {p : BitVec 3} {a : Sel} {o : Order} {sc : Scope}

/-! WAITN (R170). -/

theorem waitn_goes (hr : Runs s [a] [] x) (hf : s.g.y.fabErr [p.toNat] = none)
    (hp : s.g.y.path p.toNat ≤ (x.laneVal a.src 0).toNat) :
    ∃ t, exec (.waitn p a) s = .next t ∧ RegistersOnly [a.src] s t ∧ Moved [a.src] s x t 4 := by
  obtain ⟨ha, -, -⟩ := ready_ok hr.1
  obtain ⟨t, ht, hout, hm, hoth⟩ := run_unit (len := 4)
    (body := fun x => if x.g.y.path p.toNat ≤ (x.uniVal a.src).toNat then .ok x else .block .counter x)
    hr (if_pos (by rw [ha.y]; exact hp)) rfl rfl
  refine ⟨t, (waitPaths_clear _ _ hf).trans ht, ⟨?_, hoth, hm.1, hm.2.1⟩, hm⟩
  simpa using outside_trans (ha.only.outside []) hout

theorem waits_of_held {l : List Src} {t : State} {w : Wait} (ha : Adopted s x) (he : s.g.r.exm = x.g.r.exm)
    (h : Held l x t w) : Waits l s t w false ∧ OthersKept s t ∧ Outside l s t := by
  have hg : x.g = s.g := by rw [ha.g, ← he]
  have hw := h.waits
  unfold Waits NothingSent at hw ⊢
  rw [hg] at hw
  exact ⟨hw, othersKept_trans ha.only.2 h.others ha.only.cur, by simpa using outside_trans (ha.only.outside []) h.out⟩

theorem waitn_waits (hr : Runs s [a] [] x) (hf : s.g.y.fabErr [p.toNat] = none)
    (hp : (x.laneVal a.src 0).toNat < s.g.y.path p.toNat) (he : s.g.r.exm = x.g.r.exm) :
    ∃ t, exec (.waitn p a) s = .next t ∧ Waits [a.src] s t .counter false ∧ OthersKept s t ∧ Outside [a.src] s t := by
  obtain ⟨ha, -, -⟩ := ready_ok hr.1
  have hb : ¬ x.g.y.path p.toNat ≤ (x.uniVal a.src).toNat := by rw [ha.y]; exact Nat.not_le.2 hp
  have hrun := run_held (len := 4) (w := .counter)
    (body := fun x => if x.g.y.path p.toNat ≤ (x.uniVal a.src).toNat then .ok x else .block .counter x) hr.1 (if_neg hb)
  exact ⟨_, (waitPaths_clear _ _ hf).trans hrun, waits_of_held ha he (held_held x s x [a.src] rfl)⟩

/-! FENCE (R172). -/

theorem fence_goes (harm : s.g.y.stepArmed = false) (hf : s.g.y.fabErr (fencePaths sc) = none)
    (hp : ∀ p ∈ fencePaths sc, s.g.y.path p = 0) :
    ∃ t, exec (.fence o sc) s = .next t ∧ RegistersOnly [] s t ∧ Moved [] s s t 4 ∧
      t.g.y.relFence = (s.g.y.relFence || teamRel o sc) := by
  have hg := fenceDone_g s o sc
  have hrun := run_ends (len := 4) (body := fun x => if x.released sc then .ok (x.fenceDone o sc) else .block .counter x)
    (ready_nil s) (if_pos (released_iff.2 hp)) (by rw [hg]; exact harm)
  have hm := fenceDone_moved s s o sc rfl
  obtain ⟨⟨hout, hoth, -⟩, -⟩ := ended_frame (s.fenceDone o sc) [] 4
  have ho := only_fenceDone s o sc
  refine ⟨_, (waitPaths_clear _ _ hf).trans hrun, ⟨?_, othersKept_trans ho.2 hoth ho.cur, hm.1, hm.2.1⟩, hm, ?_⟩
  · exact outside_trans (ho.outside []) hout
  · exact (ended_y _ _ _).2.2.2.trans (by rw [hg])

theorem fence_waits (hf : s.g.y.fabErr (fencePaths sc) = none) (hp : ∃ p ∈ fencePaths sc, s.g.y.path p ≠ 0) :
    ∃ t, exec (.fence o sc) s = .next t ∧ Waits [] s t .counter false ∧ OthersKept s t ∧ Outside [] s t := by
  have hb : ¬ s.released sc = true := fun h => by
    obtain ⟨p, hm, hne⟩ := hp
    exact hne (released_iff.1 h p hm)
  have hrun := run_held (len := 4) (w := .counter)
    (body := fun x => if x.released sc then .ok (x.fenceDone o sc) else .block .counter x) (ready_nil s) (if_neg hb)
  exact ⟨_, (waitPaths_clear _ _ hf).trans hrun, waits_of_held (.refl s) rfl (held_held s s s [] rfl)⟩

theorem fenceFlush_goes (harm : s.g.y.stepArmed = false) (hf : s.g.y.fabErr (fencePaths sc) = none)
    (hp : ∀ p ∈ fencePaths sc, s.g.y.path p = 0) :
    ∃ t, exec (.fenceFlush o sc) s = .next t ∧ Moved [] s s t 4 ∧ OthersKept s t ∧
      { t with groups := [], cores := [], dies := [] } = { s with groups := [], cores := [], dies := [] } ∧
      (∀ side co b, tileByte t side co b = tileByte s side co b) ∧
      ∀ c ∈ (t.core s.cn).segs, s.mine s.cn s.x.asid c = true → (isRel o = true → c.dirty = []) ∧ isAcq o = false := by
  have hr := flushRel_flushed s o
  have hw := flushAll_flushed s o
  have hg := fenceDone_g (s.flushAll o) o sc
  rw [hw.g.1] at hg
  have hgo : (s.flushRel o).released sc = true := by
    rw [released_congr (by rw [hr.g.1] : (s.flushRel o).g.y = s.g.y)]
    exact released_iff.2 hp
  have hrun := run_ends (len := 4) (s := s) (y := (s.flushAll o).fenceDone o sc)
    (body := fun x =>
      if (x.flushRel o).released sc then .ok ((x.flushAll o).fenceDone o sc) else .block .counter (x.flushRel o))
    (ready_nil s) (if_pos hgo) (by rw [hg]; exact harm)
  have ho := only_fenceDone (s.flushAll o) o sc
  obtain ⟨⟨hout, hoth, -⟩, -⟩ := ended_frame ((s.flushAll o).fenceDone o sc) [] 4
  have hall : Outside [] (s.flushAll o) _ := outside_trans (ho.outside []) hout
  refine ⟨((s.flushAll o).fenceDone o sc).ended [] 4, (waitPaths_clear _ _ hf).trans hrun,
      fenceDone_moved s _ o sc hw.g.1, fun k hk => ?_, ?_, fun side co b => ?_,
    fun c hc hm => ?_⟩
  · have hk' : k ≠ (s.flushAll o).cur := by rwa [hw.g.2.1]
    rw [othersKept_trans ho.2 hoth ho.cur k hk', State.grp, hw.groups]
    rfl
  · have h1 := congrArg (fun (z : State) => { z with groups := [], cores := [], dies := [] }) hw.only.rest
    have h2 := congrArg (fun (z : State) => { z with dies := [] }) ho.1
    have h3 := retireG_rest (((s.flushAll o).fenceDone o sc).popSrcs [])
      ((((s.flushAll o).fenceDone o sc).popSrcs []).g.r.pc + BitVec.ofNat 64 4)
    have h4 := congrArg (fun (z : State) => { z with dies := [] }) h3
    have h5 := congrArg (fun (z : State) => { z with groups := [], cores := [], dies := [] }) h2
    exact (h4.trans h5).trans h1
  · rw [Outside.tileByte hall, segsOnly_tileByte hw.only]
  · rw [(congrArg Core.segs (hall.2.1 s.cn) :)] at hc
    exact flushAll_segs hc hm

end

/-- Settles O29: each wait and each flush by the paths that it waits on. -/
theorem counterWaits : Obligations.CounterWaits := by
  refine ⟨fun sc => by cases sc <;> rfl, fun s x p a hr hf => ⟨waitn_goes hr hf, waitn_waits hr hf⟩,
    fun s o sc harm hf => ⟨fun hp => ⟨?_, ?_⟩, fence_waits hf⟩, fun s i sels paths seven e x hi hr he hf => ?_⟩
  · obtain ⟨t, ht, hregs, hm, hrel⟩ := fence_goes (o := o) harm hf hp
    exact ⟨t, ht, hregs, hm, by rw [hrel, teamRel_eq]⟩
  · obtain ⟨t, ht, hm, hoth, hrest, htile, hsegs⟩ := fenceFlush_goes (o := o) harm hf hp
    refine ⟨t, ht, hm, hoth, hrest, htile, fun c hc hmine => ?_⟩
    obtain ⟨hd, ha⟩ := hsegs c hc hmine
    cases o <;> simp_all [isRel, isAcq]
  · have hx : ∃ body, exec i s = waitPaths s paths sels body := by
      rcases hi with ⟨p, a, rfl, rfl, rfl⟩ | ⟨o, sc, rfl | rfl, rfl, rfl⟩ <;> exact ⟨_, rfl⟩
    obtain ⟨body, hx⟩ := hx
    have ho := only_clearFab s seven
    obtain ⟨h3, h7, -⟩ := clearFab_y s seven
    obtain ⟨t, ht, ⟨hout, hoth, ⟨-, -, -, hf3, hf7, -⟩, -⟩, hsys, -, hregs, -⟩ := waitPaths_fails body hr he hf
    rw [ho.l, ho.x, show (s.clearFab seven).g.r = s.g.r by rw [clearFab_g]] at *
    rw [hx]
    refine ⟨t, ht, othersKept_trans ho.2 hoth ho.cur, outside_trans (ho.outside []) hout, (congrArg SysRegs.tcause hsys :),
      (congrArg SysRegs.taddr hsys :), (congrArg SysRegs.tepc hsys :), (congrArg SysRegs.hm hsys :),
      (congrArg SysRegs.texm hsys :), ?_, ?_, hf3.trans h3, hf7.trans h7⟩ <;> rw [hregs]

end Sys2Proof.Claims
end

section
/-! TTAG (07 R177, R178; 04 R99; O35). -/

namespace Sys2Proof.Machine

open Sys2Proof.Claims Sys2Proof.Safety

/-! The checks and the path counters read nothing of the group but its counters. -/

theorem Only.cores {s t : State} (h : Only s t) : t.cores = s.cores := (congrArg State.cores h.1 :)

theorem Only.core {s t : State} (h : Only s t) (c : Nat) : t.core c = s.core c := by rw [State.core, State.core, h.cores]

theorem Only.team {s t : State} (h : Only s t) (k : Nat) : t.team k = s.team k := by
  have ht : t.teams = s.teams := (congrArg State.teams h.1 :)
  rw [State.team, State.team, ht]

theorem Only.cn {s t : State} (h : Only s t) : t.cn = s.cn := (congrArg Team.core h.t :)

theorem Only.ttagErr {s t : State} (h : Only s t) (tk : Nat) (a b : W32) : t.ttagErr tk a b = s.ttagErr tk a b := by
  have hl : t.launches = s.launches := (congrArg State.launches h.1 :)
  have hsb : t.ttagSb tk b = s.ttagSb tk b := funext fun i => by
    simp only [State.ttagSb, State.partner, h.team, h.core]
  unfold State.ttagErr
  rw [State.launch, State.launch, h.team, hl, hsb]

/-! Metadata words under a TTAG. -/

/-- The bits of a metadata word that the operand `v` of a TTAG replaces: bits 11 to 9 by SBE, KEEP by KE, STAMP
by SE and TAG by TE (R177). -/
def tagPicks (v : W32) (j : Nat) : Bool :=
  if 9 ≤ j ∧ j ≤ 11 then v.getLsbD 15 else if j = 8 then v.getLsbD 14
  else if 2 ≤ j ∧ j ≤ 7 then v.getLsbD 13 else if j ≤ 1 then v.getLsbD 12 else false

theorem getLsbD_ite_mask (c : Bool) (m : W32) (j : Nat) : (if c = true then m else 0).getLsbD j = (c && m.getLsbD j) := by
  cases c <;> simp

/-- The bits of the four field masks (02 R36). -/
theorem fieldMask_bits : ∀ j < 32, (0xE00 : W32).getLsbD j = decide (9 ≤ j ∧ j ≤ 11) ∧
    (0x100 : W32).getLsbD j = decide (j = 8) ∧ (0xFC : W32).getLsbD j = decide (2 ≤ j ∧ j ≤ 7) ∧
    (0x3 : W32).getLsbD j = decide (j ≤ 1) := by decide

theorem ttagMask_bit (v : W32) {j : Nat} (hj : j < 32) : (ttagMask v).getLsbD j = tagPicks v j := by
  obtain ⟨hsb, hk, hst, ht⟩ := fieldMask_bits j hj
  simp only [ttagMask, BitVec.getLsbD_or, getLsbD_ite_mask, hsb, hk, hst, ht, tagPicks]
  rcases (by omega : (9 ≤ j ∧ j ≤ 11) ∨ j = 8 ∨ (2 ≤ j ∧ j ≤ 7) ∨ j ≤ 1 ∨ 12 ≤ j) with h | h | h | h | h
  · simp [h, show j ≠ 8 by omega, show ¬ j ≤ 7 by omega, show ¬ j ≤ 1 by omega]
  · simp [h]
  · simp [h, show ¬ 9 ≤ j by omega, show j ≠ 8 by omega, show ¬ j ≤ 1 by omega]
  · simp [h, show ¬ 9 ≤ j by omega, show j ≠ 8 by omega, show ¬ 2 ≤ j by omega]
  · simp [show ¬ j ≤ 11 by omega, show j ≠ 8 by omega, show ¬ j ≤ 7 by omega, show ¬ j ≤ 1 by omega]

/-- The selected bits come from the operand, the others stay. -/
theorem ttagNew_bit (v m : W32) {j : Nat} (hj : j < 32) :
    (ttagNew v m).getLsbD j = if tagPicks v j then v.getLsbD j else m.getLsbD j := by
  rw [← ttagMask_bit v hj]
  simp only [ttagNew, BitVec.getLsbD_or, BitVec.getLsbD_and, BitVec.getLsbD_not, hj, decide_true, Bool.true_and]
  cases (ttagMask v).getLsbD j <;> simp

/-- Between `s` and `t` the metadata words of `m` segments of core `c` from `lo` on have been replaced under the operand `v`,
and nothing else has changed. -/
structure Tagged (c : Nat) (v : W32) (s t : State) (lo m : Nat) : Prop where
  only : MetaOnly s t
  core : ∀ k, k ≠ c → t.core k = s.core k
  words : ∀ k, (t.core c).meta1 k =
    if lo ≤ k ∧ k < lo + m then ttagNew v ((s.core c).meta1 k) else (s.core c).meta1 k

theorem tagged_none (c : Nat) (v : W32) (s : State) (lo : Nat) : Tagged c v s s lo 0 :=
  ⟨.refl s, fun _ _ => rfl, fun k => by rw [if_neg (by omega)]⟩

theorem metaOnly_setMeta (s : State) (c k : Nat) (w : W32) : MetaOnly s (s.setMeta c k w) := by
  refine ⟨rfl, fun j => ?_⟩
  rw [State.setMeta, State.modCore_core_ite]
  split
  · next h => rw [h]
  · rfl

theorem meta1_setMeta (s : State) (c k j : Nat) (w : W32) :
    ((s.setMeta c k w).core c).meta1 j = if j = k then w else (s.core c).meta1 j := by
  rw [State.setMeta, State.modCore_core]
  exact tget_tset ..

/-- One segment more at the low end. -/
theorem Tagged.cons {c : Nat} {v : W32} {s t : State} {lo m : Nat}
    (h : Tagged c v (s.setMeta c lo (ttagNew v ((s.core c).meta1 lo))) t (lo + 1) m) : Tagged c v s t lo (m + 1) := by
  refine ⟨(metaOnly_setMeta ..).trans h.only, fun k hk => (h.core k hk).trans (State.modCore_core_ne _ _ hk), fun k => ?_⟩
  rw [h.words, meta1_setMeta]
  rcases (by omega : k = lo ∨ (lo + 1 ≤ k ∧ k < lo + 1 + m) ∨ (k < lo ∨ lo + 1 + m ≤ k)) with hk | hk | hk
  · rw [if_neg (by omega), if_pos hk, if_pos (by omega), hk]
  · rw [if_pos hk, if_neg (by omega), if_pos (by omega)]
  · rw [if_neg (by omega), if_neg (by omega), if_neg (by omega)]

/-- A TTAG's run over `n` segments stops at the first that is FILLING: those before it are done, and the first one's old
word has been taken (R178). -/
theorem ttagRun_tagged (c base : Nat) (v : W32) (n : Nat) (s : State) (i : Nat) (w : W32) :
    ∃ m t, s.ttagRun c base v i w n = (i + m, if i = 0 ∧ m ≠ 0 then (s.core c).meta1 base else w, t) ∧
      Tagged c v s t (base + i) m ∧ m ≤ n ∧ (∀ j, j < m → mTag ((s.core c).meta1 (base + (i + j))) ≠ 1) ∧
      (m < n → mTag ((s.core c).meta1 (base + (i + m))) = 1) := by
  induction n generalizing s i w with
  | zero => exact ⟨0, s, by simp [State.ttagRun], tagged_none .., le_rfl, by simp, by simp⟩
  | succ n ih =>
    by_cases hf : mTag ((s.core c).meta1 (base + i)) = 1
    · exact ⟨0, s, by simp [State.ttagRun, hf], tagged_none .., by simp, by simp, fun _ => hf⟩
    · obtain ⟨m, t, hr, ht, hm, hd, hs⟩ := ih (s.setMeta c (base + i) (ttagNew v ((s.core c).meta1 (base + i)))) (i + 1)
        (if i = 0 then (s.core c).meta1 (base + i) else w)
      have hword : ∀ j, ((s.setMeta c (base + i) (ttagNew v ((s.core c).meta1 (base + i)))).core c).meta1 (base + (i + 1 + j)) =
          (s.core c).meta1 (base + (i + (j + 1))) := fun j => by
        rw [meta1_setMeta, if_neg (by omega), show i + 1 + j = i + (j + 1) by omega]
      refine ⟨m + 1, t, ?_, ht.cons, by omega, fun j hj => ?_, fun hn => ?_⟩
      · rw [State.ttagRun]
        simp only [hf, if_false, hr, Nat.succ_ne_zero, false_and]
        by_cases hi : i = 0
        · subst hi; simp [Nat.add_comm]
        · simp only [hi, if_false, false_and, Prod.mk.injEq, and_true]; omega
      · cases j with
        | zero => exact hf
        | succ j => rw [← hword]; exact hd j (by omega)
      · rw [← hword]; exact hs (by omega)

end Sys2Proof.Machine

namespace Sys2Proof.Claims

open Sys2Proof.Machine Sys2Proof.Safety

/-- What a TTAG leaves alone between `s` and `t` that has done `m` segments from `seg` on. -/
def TagsElsewhere (s t : State) (seg m : Nat) : Prop := OthersKept s t ∧
  (∀ k, k < seg ∨ seg + m ≤ k → (t.core s.cn).meta1 k = (s.core s.cn).meta1 k) ∧ (∀ c, c ≠ s.cn → t.core c = s.core c) ∧
  (∀ c, { t.core c with mdw := [], turn := 0, quads := [] } = { s.core c with mdw := [], turn := 0, quads := [] }) ∧
  { t with groups := [], teams := [], cores := [] } = { s with groups := [], teams := [], cores := [] }

/-- Between `s` and `t` an instruction has adopted EXM, tagged `m` segments, changed its group and ended or begun to wait. -/
theorem tagsElsewhere_of {s x u y t : State} {v : W32} {seg m : Nat} {l : List Src} (ha : Only s x)
    (hu : Tagged s.cn v x u seg m) (ho : Only u y) (hout : Outside l y t) (hoth : OthersKept y t)
    (hcore : ∀ c, c ≠ y.cn → t.core c = y.core c) : TagsElsewhere s t seg m ∧
      ∀ k, (t.core s.cn).meta1 k =
        if seg ≤ k ∧ k < seg + m then ttagNew v ((s.core s.cn).meta1 k) else (s.core s.cn).meta1 k := by
  have hcur : u.cur = x.cur := (congrArg State.cur hu.only.rest :)
  have hteams : u.teams = x.teams := (congrArg State.teams hu.only.rest :)
  have hcn : y.cn = s.cn := by
    rw [ho.cn, ← ha.cn]
    simp only [State.cn, State.coreNoG, State.teamG, State.team, hcur, hteams]
  have hmdw : ∀ c, (t.core c).mdw = (u.core c).mdw := fun c => by
    rw [← ho.core]
    exact (congrArg Core.mdw (hout.2.1 c) :)
  have hword : ∀ k, (t.core s.cn).meta1 k =
      if seg ≤ k ∧ k < seg + m then ttagNew v ((s.core s.cn).meta1 k) else (s.core s.cn).meta1 k := fun k => by
    rw [← ha.core, ← hu.words, Core.meta1, Core.meta1, hmdw]
  refine ⟨⟨fun k hk => ?_, fun k hk => ?_, fun c hc => ?_, fun c => ?_, ?_⟩, hword⟩
  · have hky : k ≠ u.cur := by rwa [hcur, ha.cur]
    have hg : u.groups = x.groups := (congrArg State.groups hu.only.rest :)
    rw [hoth k (by rwa [ho.cur]), ho.2 k hky, ← ha.2 k hk, State.grp, State.grp, hg]
  · rw [hword, if_neg (by omega)]
  · rw [hcore c (by rwa [hcn]), ho.core, hu.core c hc, ha.core]
  · have h1 := congrArg (fun (z : Core) => { z with mdw := [] }) (hout.2.1 c)
    have h2 := congrArg (fun (z : Core) => { z with turn := 0, quads := [] }) (hu.only.core c)
    rw [ho.core] at h1
    rw [ha.core] at h2
    exact h1.trans h2
  · have h1 := congrArg (fun (z : State) => { z with teams := [], cores := [] }) ho.1
    have h2 := congrArg (fun (z : State) => { z with groups := [], teams := [] }) hu.only.rest
    have h3 := congrArg (fun (z : State) => { z with teams := [], cores := [] }) ha.1
    exact ((hout.1.trans h1).trans h2).trans h3

section
variable {s x : State} {d : BitVec 6} {a : Sel} {b : UOpd} {v : W32} {o n : Nat}

/-- What TTAG does once its sources are read. -/
def ttagBody (x : State) (d : BitVec 6) (av v : W32) : Res :=
  match (if (x.g.y.ttag.getD (0, 0)).1 = 0 then x.ttagErr (teamOf x.cur) av v else none) with
  | some t => .trap t x
  | none =>
    if v.getLsbD 12 && !x.released .team then .block .stores x
    else
      let p := x.g.y.ttag.getD (0, 0)
      let r := x.ttagRun x.cn (x.t.base + av.toNat / 4096) v p.1 p.2 (ttagN v - p.1)
      if r.1 < ttagN v then .block .engine (r.2.2.modY (fun y => { y with ttag := some (r.1, r.2.1) }))
      else .ok (r.2.2.setU (x.gn d) r.2.1)

theorem exec_ttag (s : State) (d : BitVec 6) (a : Sel) (b : UOpd) : exec (.ttag d a b) s =
    run (uniBytes b) s (a :: uniSels b) [.g (s.gn d)] (fun x => ttagBody x d (x.laneVal a.src 0) (uniOpd x b)) := by
  rw [uniSels_eq, uniBytes_eq]
  cases b <;> rfl

/-- The body of a TTAG that has not begun and that its checks stop. -/
theorem ttagBody_err (ha : Adopted s x) (ht : s.g.y.ttag = none) {av : W32} {t : Trap}
    (he : s.ttagErr (s.cur / 64) av v = some t) : ttagBody x d av v = .trap t x := by
  have hx : x.ttagErr (teamOf x.cur) av v = some t := by
    rw [ha.only.ttagErr, ha.only.cur]
    exact he
  simp only [ttagBody, ha.y, ht, Option.getD_none, if_true, hx]

/-- The body of a TTAG that has not begun and that its checks let go: the segments up to the first that is FILLING are
done. -/
theorem ttagBody_runs (ha : Adopted s x) (ht : s.g.y.ttag = none) {av : W32} (he : s.ttagErr (s.cur / 64) av v = none)
    (hrel : v.getLsbD 12 = true → s.released .team = true) : ∃ m u, Tagged s.cn v x u (s.t.base + av.toNat / 4096) m ∧
      m ≤ ttagN v ∧ (∀ i, i < m → mTag ((s.core s.cn).meta1 (s.t.base + av.toNat / 4096 + i)) ≠ 1) ∧
      (m < ttagN v → mTag ((s.core s.cn).meta1 (s.t.base + av.toNat / 4096 + m)) = 1) ∧
      ttagBody x d av v =
        if m < ttagN v then .block .engine (u.modY (fun y => { y with
          ttag := some (m, if m = 0 then 0 else (s.core s.cn).meta1 (s.t.base + av.toNat / 4096)) }))
        else .ok (u.setU (x.gn d) (if m = 0 then 0 else (s.core s.cn).meta1 (s.t.base + av.toNat / 4096))) := by
  have hx : x.ttagErr (teamOf x.cur) av v = none := by
    rw [ha.only.ttagErr, ha.only.cur]
    exact he
  have hr : ¬ (v.getLsbD 12 && !x.released .team) = true := by
    rw [released_congr ha.y]
    cases h : v.getLsbD 12
    · simp
    · simp [hrel h]
  obtain ⟨m, u, hrun, hu, hm, hd, hs⟩ := ttagRun_tagged s.cn (s.t.base + av.toNat / 4096) v (ttagN v) x 0 0
  simp only [Nat.zero_add, Nat.add_zero, true_and] at hrun hu hd hs
  rw [ha.only.core] at hrun
  refine ⟨m, u, hu, hm, fun i hi => by rw [← ha.only.core]; exact hd i hi, fun h => by rw [← ha.only.core]; exact hs h, ?_⟩
  simp only [ttagBody, ha.y, ht, Option.getD_none, if_true, hx, if_neg hr, ha.only.cn, ha.only.t, Nat.sub_zero, hrun,
    ite_not]

/-- The words that a TTAG leaves in its segments, bit by bit. -/
theorem tagged_bits {t : State} {seg m : Nat} (hw : ∀ k, (t.core s.cn).meta1 k =
      if seg ≤ k ∧ k < seg + m then ttagNew v ((s.core s.cn).meta1 k) else (s.core s.cn).meta1 k) (i j : Nat) (hi : i < m)
    (hj : j < 32) : ((t.core s.cn).meta1 (seg + i)).getLsbD j =
      if tagPicks v j then v.getLsbD j else ((s.core s.cn).meta1 (seg + i)).getLsbD j := by
  rw [hw, if_pos (by omega), ttagNew_bit v _ hj]

/-- A TTAG that meets no FILLING segment ends: it writes the first segment's old word to its destination. -/
theorem ttag_goes (hr : Runs s (a :: uniSels b) [.g (uniReg s d)] x) (ht : s.g.y.ttag = none)
    (he : s.ttagErr (s.cur / 64) (x.laneVal a.src 0) (uniOpd x b) = none)
    (hrel : (uniOpd x b).getLsbD 12 = true → s.released .team = true) {seg : Nat}
    (hseg : seg = s.t.base + (x.laneVal a.src 0).toNat / 4096)
    (hf : ∀ i, i < ttagN (uniOpd x b) → mTag ((s.core s.cn).meta1 (seg + i)) ≠ 1) :
    let srcs := a.src :: (uniSels b).map (fun a => a.src)
    ∃ t, exec (.ttag d a b) s = .next t ∧ TagsElsewhere s t seg (ttagN (uniOpd x b)) ∧
      (∀ i j, i < ttagN (uniOpd x b) → j < 32 → ((t.core s.cn).meta1 (seg + i)).getLsbD j =
        if tagPicks (uniOpd x b) j then (uniOpd x b).getLsbD j else ((s.core s.cn).meta1 (seg + i)).getLsbD j) ∧
      GroupKept srcs s t ∧ NothingSent s t ∧ SysKept srcs s t ∧
      (∀ k, t.g.r.getG k = if k = uniReg s d then (s.core s.cn).meta1 seg else s.g.r.getG k) ∧
      { t.g.r with g := [], hg := [] } =
        { s.g.r with g := [], hg := [], exm := x.g.r.exm, pc := s.g.r.pc + BitVec.ofNat 64 (uniBytes b) } := by
  subst hseg
  obtain ⟨hready, harm⟩ := hr
  obtain ⟨ha, -, -⟩ := ready_ok hready
  obtain ⟨m, u, hu, hm, -, hstop, hbody⟩ := ttagBody_runs (d := d) ha ht he hrel
  have hmn : m = ttagN (uniOpd x b) := by
    by_contra h
    exact hf m (by omega) (hstop (by omega))
  subst hmn
  rw [if_neg (lt_irrefl _), if_neg (by simp [ttagN])] at hbody
  have hgn : x.gn d = uniReg s d := by
    rw [← gn_eq_uniReg, State.gn, State.gn, ha.g]
    rfl
  rw [hgn] at hbody
  rw [← gn_eq_uniReg] at hready
  have hug : u.g = x.g := by
    have hc : u.cur = x.cur := (congrArg State.cur hu.only.rest :)
    have hg : u.groups = x.groups := (congrArg State.groups hu.only.rest :)
    rw [State.g, State.g, State.grp, State.grp, hc, hg]
  have hyg : (u.setU (uniReg s d) ((s.core s.cn).meta1 (s.t.base + (x.laneVal a.src 0).toNat / 4096))).g = { s.g with
      r := { s.g.r with exm := x.g.r.exm }.setG (uniReg s d)
        ((s.core s.cn).meta1 (s.t.base + (x.laneVal a.src 0).toNat / 4096))
      y := s.g.y.unflag (.g (uniReg s d)) } := by
    rw [State.setU, State.modG_g, hug, ha.g]
  have hrun := run_ends (len := uniBytes b)
    (body := fun x => ttagBody x d (x.laneVal a.src 0) (uniOpd x b)) hready hbody (by rw [hyg]; exact harm)
  rw [← exec_ttag] at hrun
  generalize hy : u.setU (uniReg s d) _ = y at hrun hyg
  have ho : Only u y := by rw [← hy]; exact only_modG _ _
  have hkept : GroupKept [] s y := by
    unfold GroupKept; rw [hyg]; exact ⟨rfl, fun _ _ => ⟨rfl, rfl⟩, fun _ => rfl, rfl, rfl, rfl, rfl, rfl⟩
  obtain ⟨⟨hout, hoth, -, hp, hq⟩, -, hrt, -⟩ := ended_frame y ((a :: uniSels b).map (fun a => a.src)) (uniBytes b)
  obtain ⟨hels, hw⟩ := tagsElsewhere_of ha.only hu ho hout hoth (fun c hc => ended_core_ne y _ _ hc)
  have hsys := ended_sys (s := s) ((a :: uniSels b).map (fun a => a.src)) (uniBytes b) (by rw [hyg] : y.g.sys = s.g.sys)
  rw [hyg] at hrt hp hq
  refine ⟨_, hrun, hels, tagged_bits hw, ended_kept _ _ hkept, ⟨hp, hq⟩, hsys.1, fun k => ?_, ?_⟩
  · rw [hrt]
    exact Regs.getG_setG { s.g.r with exm := x.g.r.exm } (uniReg s d) k _
  · rw [hrt]
    simp only [Regs.setG_pc]
    exact (congrArg (fun (r : Regs) => { r with pc := s.g.r.pc + BitVec.ofNat 64 (uniBytes b) })
      (setG_rest { s.g.r with exm := x.g.r.exm } (uniReg s d) _) :)

/-- A TTAG that meets a FILLING segment waits there. -/
theorem ttag_waits (hr : Runs s (a :: uniSels b) [.g (uniReg s d)] x) (ht : s.g.y.ttag = none)
    (he : s.ttagErr (s.cur / 64) (x.laneVal a.src 0) (uniOpd x b) = none)
    (hrel : (uniOpd x b).getLsbD 12 = true → s.released .team = true) {seg m : Nat}
    (hseg : seg = s.t.base + (x.laneVal a.src 0).toNat / 4096) (hm : m < ttagN (uniOpd x b))
    (hd : ∀ i, i < m → mTag ((s.core s.cn).meta1 (seg + i)) ≠ 1) (hf : mTag ((s.core s.cn).meta1 (seg + m)) = 1)
    (hexm : s.g.r.exm = x.g.r.exm) :
    ∃ t, exec (.ttag d a b) s = .next t ∧ TagsElsewhere s t seg m ∧
      (∀ i j, i < m → j < 32 → ((t.core s.cn).meta1 (seg + i)).getLsbD j =
        if tagPicks (uniOpd x b) j then (uniOpd x b).getLsbD j else ((s.core s.cn).meta1 (seg + i)).getLsbD j) ∧
      t.g.r = s.g.r ∧ (.special 7 ∉ a.src :: (uniSels b).map (fun a => a.src) → t.g.sys = s.g.sys) ∧
      t.g.y.status = .waiting .engine ∧ t.g.y.ttag = some (m, if m = 0 then 0 else (s.core s.cn).meta1 seg) := by
  subst hseg
  obtain ⟨hready, -⟩ := hr
  obtain ⟨ha, -, -⟩ := ready_ok hready
  obtain ⟨j, u, hu, hj, hjd, hstop, hbody⟩ := ttagBody_runs (d := d) ha ht he hrel
  have hjm : j = m := by
    rcases lt_trichotomy j m with h | h | h
    · exact absurd (hstop (by omega)) (hd j h)
    · exact h
    · exact absurd hf (hjd m h)
  subst hjm
  rw [if_pos hm] at hbody
  rw [← gn_eq_uniReg] at hready
  have hrun := run_held (len := uniBytes b)
    (body := fun x => ttagBody x d (x.laneVal a.src 0) (uniOpd x b)) hready hbody
  rw [← exec_ttag] at hrun
  have hug : u.g = s.g := by
    have hc : u.cur = x.cur := (congrArg State.cur hu.only.rest :)
    have hg : u.groups = x.groups := (congrArg State.groups hu.only.rest :)
    have hxg := ha.g
    rw [← hexm] at hxg
    rw [State.g, State.grp, hc, hg]
    exact hxg
  generalize hy : u.modY _ = y at hrun
  have hyg : y.g = { s.g with y := { s.g.y with
      ttag := some (j, if j = 0 then 0 else (s.core s.cn).meta1 (s.t.base + (x.laneVal a.src 0).toNat / 4096)) } } := by
    rw [← hy, State.modY_eq, State.modG_g, hug]
  have ho : Only u y := by rw [← hy]; exact only_modG _ _
  have hh := held_held y s x ((a :: uniSels b).map (fun a => a.src)) (w := .engine) rfl
  obtain ⟨hels, hw⟩ := tagsElsewhere_of ha.only hu ho hh.out hh.others hh.core
  obtain ⟨hrt, hsys, hclk, -, -, -, hst⟩ := hh.waits
  have htt := (congrArg GSync.ttag hh.sync :)
  rw [hyg] at hrt hsys hclk htt
  refine ⟨_, hrun, hels, tagged_bits hw, hrt, fun h7 => sysRegs_ext_clkh hsys (hclk h7), hst, htt⟩

/-- A TTAG that a check stops enters the handler. -/
theorem ttag_raises (hr : Runs s (a :: uniSels b) [.g (uniReg s d)] x) (ht : s.g.y.ttag = none) {c : Nat} {e : W64}
    (herr : s.ttagErr (s.cur / 64) (x.laneVal a.src 0) (uniOpd x b) = some (Trap.mk2 c e)) (he : Enters s)
    (hc : entersOnly c = true) : ∃ t, exec (.ttag d a b) s = .next t ∧ Entered [] s t c 0 e 0 s.g.r.exm s.g.r.pc := by
  obtain ⟨hready, -⟩ := hr
  obtain ⟨ha, -, -⟩ := ready_ok hready
  rw [← gn_eq_uniReg] at hready
  rw [exec_ttag]
  exact run_raises hready (ttagBody_err ha ht herr) he hc

end

theorem mTag_eq (w : W32) : mTag w = w.toNat % 4 := by
  simp [mTag, fieldOf]

theorem ttagN_eq (v : W32) : ttagN v = v.toNat / 2 ^ 16 % 2 ^ 9 + 1 := rfl

/-- Settles O35: the run over the segments, to its end or to a FILLING one, and the first two checks. -/
theorem segmentTags : Obligations.SegmentTags := by
  intro s x d a b v o n hr ho hv hn ht
  subst ho hv
  rw [← ttagN_eq] at hn
  subst hn
  refine ⟨fun he hrel => ⟨fun hf => ?_, fun m hm hd hf hexm => ?_⟩, fun h henter => ?_, fun h hpast henter => ?_⟩
  · exact ttag_goes hr ht he hrel rfl (fun i hi => by rw [mTag_eq]; exact hf i hi)
  · exact ttag_waits hr ht he hrel rfl hm (fun i hi => by rw [mTag_eq]; exact hd i hi) (by rw [mTag_eq]; exact hf) hexm
  · refine ttag_raises hr ht (e := BitVec.ofNat 64 _) ?_ henter rfl
    rw [State.ttagErr, if_pos h, BitVec.ofNat_toNat]
  · refine ttag_raises hr ht (e := BitVec.ofNat 64 _) ?_ henter rfl
    have hvis : (s.launch (s.team (s.cur / 64)).launch).visible = s.l.visible := rfl
    rw [State.ttagErr, if_neg (not_not.2 h), hvis, if_pos (by omega), BitVec.ofNat_toNat]

end Sys2Proof.Claims
end

section
/-! Buffer records set, and translated by BXLATE (07 R179 to R181; 02 R36; O34). -/

namespace Sys2Proof.Machine

open Sys2Proof.Claims Sys2Proof.Safety

/-! A walk and a read of tile memory read nothing of the groups. -/

theorem Only.tread {s x : State} (h : Only s x) (p : TLoc) (n : Nat) : x.tread p n = s.tread p n := by
  cases p <;> simp only [State.tread, h.core]

theorem Only.pnum {s t : State} (h : Only s t) (tgt pa n : Nat) : t.pnum tgt pa n = s.pnum tgt pa n := by
  have hs : t.stks = s.stks := (congrArg State.stks h.1 :)
  have hi : ∀ k, t.image k = s.image k := fun k =>
    (congrArg (fun (z : State) => z.image k) h.1 :)
  have hbyte : ∀ pa, t.pbyte tgt pa = s.pbyte tgt pa := fun pa => by
    rw [State.pbyte, State.pbyte, State.served, State.served, hs, hi]
  have hread : t.pread tgt pa n = s.pread tgt pa n := by
    induction n generalizing pa with
    | zero => rfl
    | succ n ih => rw [State.pread, State.pread, hbyte, ih]
  rw [State.pnum, State.pnum, hread]

theorem Only.inHbm {s t : State} (h : Only s t) (pa : Nat) : t.inHbm pa = s.inHbm pa :=
  (congrArg (fun (z : State) => z.inHbm pa) h.1 :)

theorem Only.walkFrom {s t : State} (h : Only s t) (va lvl tab : Nat) : t.walkFrom va lvl tab = s.walkFrom va lvl tab := by
  induction lvl generalizing tab with
  | zero => simp only [State.walkFrom, h.pnum, h.inHbm]
  | succ lvl ih => simp only [State.walkFrom, h.pnum, h.inHbm, ih]

theorem Only.walk {s t : State} (h : Only s t) (asid : BitVec 13) (va : Nat) : t.walk asid va = s.walk asid va := by
  have hb : t.astbase = s.astbase := (congrArg State.astbase h.1 :)
  simp only [State.walk, h.pnum, h.inHbm, h.walkFrom, hb]

/-- A translation's answer does not depend on the groups. -/
theorem Only.xlate {s t : State} (h : Only s t) (ho : Holder) (asid : BitVec 13) (va : W64) (tgt : Nat) (priv : Bool)
    (need : Need) : (t.xlate ho asid va tgt priv need).1 = (s.xlate ho asid va tgt priv need).1 := by
  have ht : t.tlbOf ho = s.tlbOf ho := (congrArg (fun (z : State) => z.tlbOf ho) h.1 :)
  have hl : (t.leafOf ho asid (va.toNat % 2 ^ 57)).1 = (s.leafOf ho asid (va.toNat % 2 ^ 57)).1 := by
    rw [leafOf_fst, leafOf_fst, ht, h.walk]
  rw [xlate_eq, xlate_eq, hl, xans_congr h.inHbm]
  split
  · rfl
  · split <;> rfl

/-! What a core's translation changes outside the groups. -/

/-- Between `s` and `t` a core's translations, L2 lines, the pages noted as mapped, the frames that no pin applies to, free
values and the group at issue alone have changed. -/
structure Xlated (s t : State) : Prop where
  rest : { t with groups := [], cores := [], dies := [], stks := [], maps := [], free := 0 } =
    { s with groups := [], cores := [], dies := [], stks := [], maps := [], free := 0 }
  core : ∀ c, { t.core c with tlb := [] } = { s.core c with tlb := [] }
  die : ∀ d, { t.die d with nopin := [] } = { s.die d with nopin := [] }
  others : OthersKept s t

theorem Xlated.cur {s t : State} (h : Xlated s t) : t.cur = s.cur := (congrArg State.cur h.rest :)

theorem Xlated.trans {s t u : State} (h : Xlated s t) (k : Xlated t u) : Xlated s u :=
  ⟨k.rest.trans h.rest, fun c => (k.core c).trans (h.core c), fun d => (k.die d).trans (h.die d),
    othersKept_trans h.others k.others h.cur⟩

theorem Only.xlated {s t : State} (h : Only s t) : Xlated s t := by
  have hd : t.dies = s.dies := (congrArg State.dies h.1 :)
  refine ⟨?_, fun c => by rw [h.core], fun d => by rw [State.die, hd]; rfl, h.2⟩
  exact (congrArg (fun (z : State) => { z with cores := [], dies := [], stks := [], maps := [], free := 0 }) h.1 :)

theorem Xlated.refl (s : State) : Xlated s s := (Only.refl s).xlated

theorem draw_xlated (s : State) : Xlated s s.draw.2 := ⟨rfl, fun _ => rfl, fun _ => rfl, fun _ _ => rfl⟩

theorem Lined.xlated {s t : State} (h : Lined s t) : Xlated s t := by
  have hc : t.cores = s.cores := (congrArg State.cores h.rest :)
  have hd : t.dies = s.dies := (congrArg State.dies h.rest :)
  have hg : t.groups = s.groups := (congrArg State.groups h.rest :)
  refine ⟨?_, fun c => by simp only [State.core, hc], fun d => by simp only [State.die, hd],
    fun k _ => by simp only [State.grp, hg]⟩
  exact (congrArg (fun (z : State) => { z with groups := [], cores := [], dies := [], stks := [], maps := [], free := 0 })
    h.rest :)

theorem modDie_xlated (s : State) (d : Nat) (f : Die → Die)
    (hf : { f (s.die d) with nopin := [] } = { s.die d with nopin := [] }) : Xlated s (s.modDie d f) := by
  refine ⟨rfl, fun _ => rfl, fun j => ?_, fun _ _ => rfl⟩
  rw [State.modDie_die_ite]
  split
  · next h => rw [h, hf]
  · rfl

theorem noteMap_xlated (s : State) (t : TlbEntry) : Xlated s (s.noteMap t) := by
  have hm : ∀ (u : State) (l : List TlbEntry), Xlated u { u with maps := l } := fun _ _ =>
    ⟨rfl, fun _ => rfl, fun _ => rfl, fun _ _ => rfl⟩
  unfold State.noteMap
  simp only
  split
  · exact (modDie_xlated s _ _ rfl).trans (hm _ _)
  · exact hm s _

theorem setTlb_core_xlated (s : State) (n : Nat) (l : List TlbEntry) : Xlated s (s.setTlb (.core n) l) := by
  refine ⟨rfl, fun c => ?_, fun _ => rfl, fun _ _ => rfl⟩
  rw [State.setTlb, State.modCore_core_ite]
  split
  · next h => rw [h]
  · rfl

theorem leafOf_core_xlated (s : State) (n : Nat) (asid : BitVec 13) (va : Nat) :
    Xlated s (s.leafOf (.core n) asid va).2 := by
  unfold State.leafOf
  split
  · exact .refl s
  · simp only
    split
    · exact (walkL2_lined s asid va).xlated
    · exact ((walkL2_lined s asid va).xlated.trans (noteMap_xlated _ _)).trans (setTlb_core_xlated _ _ _)

theorem xlate_core_xlated (s : State) (n : Nat) (asid : BitVec 13) (va : W64) (tgt : Nat) (priv : Bool) (need : Need) :
    Xlated s (s.xlate (.core n) asid va tgt priv need).2 := by
  rw [xlate_eq]
  split
  · exact .refl s
  split
  · exact .refl s
  · exact leafOf_core_xlated ..

/-- What a lookup keeps of the group at issue and of where it runs. -/
theorem Looked.g {s t : State} (h : Looked s t) : t.cur = s.cur ∧ t.g = s.g ∧ t.cn = s.cn ∧ t.x = s.x := by
  have hc : t.cur = s.cur := (congrArg State.cur h.rest :)
  obtain ⟨hg, ht, -, hx, -⟩ := h.kept
  refine ⟨hc, ?_, ?_, ?_⟩
  · simp only [State.g, State.grp, hg, hc]
  · simp only [State.cn, State.coreNoG, State.teamG, State.team, hc, ht]
  · simp only [State.x, State.ctxG, State.ctxNoG, State.teamG, State.team, State.ctx, hc, ht, hx]

/-! A translation made again (02 R35, R36). -/

theorem leafOf_again {s : State} {h : Holder} {asid : BitVec 13} {va psz leaf : Nat}
    (hl : (s.leafOf h asid va).1 = some (psz, leaf)) :
    (s.leafOf h asid va).2.leafOf h asid va = (some (psz, leaf), (s.leafOf h asid va).2) := by
  obtain ⟨t, hf, hp, hle⟩ := leafOf_hit hl
  generalize (s.leafOf h asid va).2 = u at hf ⊢
  unfold State.leafOf
  rw [hf, ← hp, ← hle]

/-- The rights to read of an access that has them stay with the hardware's own. -/
theorem leafRights_priv {va : W64} {leaf : Nat} {priv : Bool} (h : leafRights va leaf priv .read = none) :
    leafRights va leaf true .read = none := by
  unfold leafRights at h ⊢
  split at h
  · cases h
  split at h
  · cases h
  · next h2 => rw [if_neg (by simp), if_neg h2]

theorem xans_priv {s : State} {va : W64} {tgt : Nat} {priv : Bool} {l : Option (Nat × Nat)} {a : XAddr}
    (h : s.xans va tgt priv .read l = .ok a) : s.xans va tgt true .read l = .ok a ∧ ∃ psz leaf, l = some (psz, leaf) := by
  cases l with
  | none => cases h
  | some p =>
    refine ⟨?_, p.1, p.2, rfl⟩
    obtain ⟨psz, leaf⟩ := p
    simp only [State.xans] at h ⊢
    split at h
    · cases h
    next ht =>
    rw [if_neg ht]
    cases hr : leafRights va leaf priv .read with
    | some f => rw [hr] at h; cases h
    | none => rw [hr] at h; rw [leafRights_priv hr]; exact h

/-- A translation for a read that succeeds succeeds again with the hardware's own rights, from the holder. -/
theorem xlate_again {s : State} {h : Holder} {asid : BitVec 13} {va : W64} {tgt : Nat} {priv : Bool} {a : XAddr}
    (hx : (s.xlate h asid va tgt priv .read).1 = .ok a) :
    (s.xlate h asid va tgt priv .read).2.xlate h asid va tgt true .read =
      (.ok a, (s.xlate h asid va tgt priv .read).2) := by
  have hs := xlate_eq s h asid va tgt priv .read
  rw [hs] at hx
  split at hx
  · cases hx
  next hcan =>
  split at hx
  · cases hx
  next hsup =>
  rw [if_neg hcan, if_neg hsup] at hs
  obtain ⟨ha, psz, leaf, hl⟩ := xans_priv hx
  rw [hs, xlate_eq, if_neg hcan, if_neg (by simp), leafOf_again hl, xans_congr (inHbm_looked (leafOf_looked ..)), ← hl, ha]

end Sys2Proof.Machine

namespace Sys2Proof.Claims

open Sys2Proof.Machine Sys2Proof.Safety

/-! BXLATE. -/

/-- The word of BXLATE for a leaf (R181). -/
theorem bxWord_eq (psz leaf : Nat) : bxWord psz (fieldOf leaf 8 2) (fieldOf leaf 2 1) (fieldOf leaf 3 1) 0 =
    BitVec.ofNat 32 (1 + leaf / 2 ^ 3 % 2 * 2 ^ 4 + leaf / 2 ^ 2 % 2 * 2 ^ 5 + leaf / 2 ^ 8 % 4 * 2 ^ 6 + psz % 4 * 2 ^ 8) := by
  simp only [bxWord, fieldOf]
  congr 1
  omega

/-- DONE and CLASS of a word of BXLATE. -/
theorem bxWord_low (psz tgt w x cls : Nat) (h : cls < 8) : (bxWord psz tgt w x cls).toNat % 16 = 1 + 2 * cls := by
  simp only [bxWord, BitVec.toNat_ofNat]
  omega

theorem bxClass_lt (f : XFault) : f.bxClass < 8 := by cases f <;> simp [XFault.bxClass]

/-- DONE and CLASS where the fields of the leaf are free values. -/
theorem free_low (v : W32) (f : XFault) :
    ((v &&& 0x3F0) ||| BitVec.ofNat 32 (f.bxClass * 2 + 1)).toNat % 16 = 1 + 2 * f.bxClass := by
  have hlt := bxClass_lt f
  have hv : (v &&& 0x3F0 : W32).toNat % 16 = 0 := by
    rw [BitVec.toNat_and, show (16 : Nat) = 2 ^ 4 from rfl, Nat.and_mod_two_pow]
    exact Nat.and_zero _
  rw [BitVec.toNat_or, show (16 : Nat) = 2 ^ 4 from rfl, Nat.or_mod_two_pow, BitVec.toNat_ofNat]
  norm_num at hv ⊢
  rw [hv, Nat.zero_or]
  omega

/-- Between `s` and `t` a core has translated, and of the group at issue the BT of record `k` alone has changed. -/
structure BtOnly (k : Nat) (s t : State) : Prop where
  xlated : Xlated s t
  g : { t.g with r := { t.g.r with bt := [] } } = { s.g with r := { s.g.r with bt := [] } }
  bt : ∀ j, j ≠ k → t.g.r.getBT j = s.g.r.getBT j

theorem BtOnly.trans {k : Nat} {s t u : State} (h : BtOnly k s t) (j : BtOnly k t u) : BtOnly k s u :=
  ⟨h.xlated.trans j.xlated, j.g.trans h.g, fun n hn => (j.bt n hn).trans (h.bt n hn)⟩

theorem btOnly_setBT (s : State) (k : Nat) (v : BT) : BtOnly k s (s.modR (fun r => r.setBT k v)) := by
  refine ⟨(only_modG s _).xlated, ?_, fun j hj => ?_⟩
  · rw [State.modR_eq, State.modG_g]; rfl
  · rw [State.modR_eq, State.modG_g]; exact tget_tset_ne _ _ hj

theorem btOnly_of_g {k : Nat} {s t : State} (h : Xlated s t) (hg : t.g = s.g) : BtOnly k s t :=
  ⟨h, by rw [hg], fun _ _ => by rw [hg]⟩

section
variable {s : State} {k : Nat} {tgt : Nat}

/-- The translation of BXLATE of record `k`: the BT is invalid by then. -/
def bxAnswer (s : State) (k tgt : Nat) : Except XFault XAddr × State :=
  (s.modR (fun r => r.setBT k BT.reset)).xlate (.core s.cn) s.x.asid (rBase (s.g.r.getB k)) tgt s.priv .read

theorem bxAnswer_btOnly (s : State) (k tgt : Nat) : BtOnly k s (bxAnswer s k tgt).2 ∧
    (bxAnswer s k tgt).2.g.r.getBT k = BT.reset ∧ (bxAnswer s k tgt).2.g.r.getB k = s.g.r.getB k ∧
    (bxAnswer s k tgt).2.cn = s.cn ∧ (bxAnswer s k tgt).2.x = s.x := by
  have ho : Only s (s.modR (fun r => r.setBT k BT.reset)) := only_modG s _
  obtain ⟨-, hg, hcn, hx⟩ := (xlate_looked (s.modR (fun r => r.setBT k BT.reset)) (.core s.cn) s.x.asid (rBase (s.g.r.getB k))
    tgt s.priv .read).g
  refine ⟨(btOnly_setBT s k BT.reset).trans (btOnly_of_g (xlate_core_xlated ..) hg), ?_, ?_, hcn.trans ho.cn, hx.trans ho.x⟩
  · rw [bxAnswer, hg, State.modR_eq, State.modG_g]
    exact tget_tset_self (d := BT.reset) s.g.r.bt k BT.reset
  · rw [bxAnswer, hg, State.modR_eq, State.modG_g]
    rfl

theorem bxAnswer_fst (s : State) (k tgt : Nat) : (bxAnswer s k tgt).1 =
    (s.xlate (.core s.cn) s.x.asid (rBase (s.g.r.getB k)) tgt s.priv .read).1 := by
  have ho : Only s (s.modR (fun r => r.setBT k BT.reset)) := only_modG s _
  rw [bxAnswer, ho.xlate]

/-- The spaces that BXLATE translates, and their targets (R181). -/
theorem translated_space {sp : Nat} (h : (sp, tgt) ∈ [(3, 0), (4, 1), (6, 2)]) :
    ¬(sp ≠ 3 ∧ sp ≠ 4 ∧ sp ≠ 6) ∧ spaceTgt sp = tgt := by
  simp only [List.mem_cons, Prod.mk.injEq, List.not_mem_nil, or_false] at h
  rcases h with ⟨rfl, rfl⟩ | ⟨rfl, rfl⟩ | ⟨rfl, rfl⟩ <;> exact ⟨by simp, rfl⟩

/-- BXLATE of an address that translates: the leaf's fields, and a valid BT with the physical address. -/
theorem bxlate_ok (hsp : (rSpace (s.g.r.getB k), tgt) ∈ [(3, 0), (4, 1), (6, 2)]) {a : XAddr}
    (hx : (s.xlate (.core s.cn) s.x.asid (rBase (s.g.r.getB k)) tgt s.priv .read).1 = .ok a) :
    ∃ u, s.bxlate k = (bxWord a.psz (fieldOf a.leaf 8 2) (fieldOf a.leaf 2 1) (fieldOf a.leaf 3 1) 0, u) ∧ BtOnly k s u ∧
      (u.g.r.getBT k).valid = true ∧ (u.g.r.getBT k).pa = BitVec.ofNat 52 a.pa := by
  obtain ⟨hne, ht⟩ := translated_space hsp
  rw [← bxAnswer_fst] at hx
  obtain ⟨hb, hr, hrec, hcn, hctx⟩ := bxAnswer_btOnly s k tgt
  have hagain : (bxAnswer s k tgt).2.xlate (.core s.cn) s.x.asid (rBase (s.g.r.getB k)) tgt true .read =
      (.ok a, (bxAnswer s k tgt).2) := xlate_again hx
  refine ⟨(bxAnswer s k tgt).2.fillBT k tgt, ?_, ?_⟩
  · simp only [State.bxlate, if_neg hne, ht]
    rw [bxAnswer] at hx ⊢
    simp only [hx]
  · unfold State.fillBT
    rw [hr, if_neg (by simp [BT.reset])]
    simp only [hrec, hcn, hctx, hagain]
    refine ⟨hb.trans (btOnly_setBT _ k _), ?_⟩
    rw [State.modR_eq, State.modG_g]
    simp only [Regs.getBT, Regs.setBT, tget_tset_self, and_self]

/-- BXLATE of an address that does not translate: CLASS tells why, and the BT is invalid. -/
theorem bxlate_error (hsp : (rSpace (s.g.r.getB k), tgt) ∈ [(3, 0), (4, 1), (6, 2)]) {f : XFault}
    (hx : (s.xlate (.core s.cn) s.x.asid (rBase (s.g.r.getB k)) tgt s.priv .read).1 = .error f) :
    ∃ w u, s.bxlate k = (w, u) ∧ BtOnly k s u ∧ u.g.r.getBT k = BT.reset ∧ w.toNat % 16 = 1 + 2 * f.bxClass := by
  obtain ⟨hne, ht⟩ := translated_space hsp
  rw [← bxAnswer_fst] at hx
  obtain ⟨hb, hr, -⟩ := bxAnswer_btOnly s k tgt
  obtain ⟨-, hlg, -⟩ :=
    (leafOf_looked (bxAnswer s k tgt).2 (.core s.cn) s.x.asid ((rBase (s.g.r.getB k)).toNat % 2 ^ 57)).g
  have hl := leafOf_core_xlated (bxAnswer s k tgt).2 s.cn s.x.asid ((rBase (s.g.r.getB k)).toNat % 2 ^ 57)
  simp only [State.bxlate, if_neg hne, ht]
  rw [← bxAnswer, hx]
  simp only
  split
  · exact ⟨_, _, rfl, hb.trans (btOnly_of_g (draw_xlated _) rfl), hr, free_low ..⟩
  · exact ⟨_, _, rfl, hb.trans (btOnly_of_g hl hlg), by rw [hlg]; exact hr, bxWord_low _ _ _ _ _ (bxClass_lt f)⟩

/-- What BXLATE leaves alone between `s` and `t` (R181). -/
def BxFrame (s t : State) (d : BitVec 6) (k : Nat) : Prop :=
  (∀ n, n ≠ uniReg s d → t.g.r.getG n = s.g.r.getG n) ∧ (∀ j, j ≠ k → t.g.r.getBT j = s.g.r.getBT j) ∧
  { t.g.r with g := [], hg := [], bt := [] } = { s.g.r with g := [], hg := [], bt := [], pc := s.g.r.pc + 4 } ∧
  OthersKept s t ∧ (∀ c, { t.die c with nopin := [] } = { s.die c with nopin := [] }) ∧
  { t with groups := [], cores := [], dies := [], stks := [], maps := [], free := 0 } =
    { s with groups := [], cores := [], dies := [], stks := [], maps := [], free := 0 } ∧
  ∀ c, { t.core c with tlb := [], turn := 0, quads := [] } = { s.core c with tlb := [], turn := 0, quads := [] }

theorem exec_bxlate {d : BitVec 6} {k : BitVec 4} {w : W32} {u : State} (hr : Runs s [] [.g (uniReg s d)] s)
    (hb : s.bxlate k.toNat = (w, u)) (hu : BtOnly k.toNat s u) : ∃ t, exec (.bxlate d k) s = .next t ∧
      BxFrame s t d k.toNat ∧ t.g.r.getG (uniReg s d) = w ∧ t.g.r.getBT k.toNat = u.g.r.getBT k.toNat := by
  obtain ⟨hready, harm⟩ := hr
  rw [← gn_eq_uniReg] at hready ⊢
  unfold BxFrame
  rw [← gn_eq_uniReg]
  have hyg : (u.setU (s.gn d) w).g = { u.g with r := u.g.r.setG (s.gn d) w, y := u.g.y.unflag (.g (s.gn d)) } := by
    rw [State.setU, State.modG_g]
  have hya : (u.setU (s.gn d) w).g.y.stepArmed = false := by
    rw [hyg]
    exact (congrArg (fun (z : Group) => z.y.stepArmed) hu.g).trans harm
  have hrun := run_ends (len := 4) (body := fun x => let r := x.bxlate k.toNat; .ok (r.2.setU (x.gn d) r.1)) hready
    (by simp only [hb]) hya
  obtain ⟨⟨hout, hoth, -⟩, -, hrt, -⟩ := ended_frame (u.setU (s.gn d) w) [] 4
  have ho : Only u (u.setU (s.gn d) w) := only_modG u _
  have hx := hu.xlated.trans ho.xlated
  have hrest := retireG_rest (u.setU (s.gn d) w) ((u.setU (s.gn d) w).g.r.pc + 4)
  rw [hyg] at hrt
  have hset := setG_rest u.g.r (s.gn d) w
  have hur := (congrArg Group.r hu.g :)
  refine ⟨(u.setU (s.gn d) w).ended [] 4, hrun, ⟨fun n hn => ?_, fun j hj => ?_, ?_, othersKept_trans hx.others hoth hx.cur,
    fun c => ?_, ?_, fun c => ?_⟩, ?_, ?_⟩
  · rw [hrt, ← show u.g.r.getG n = s.g.r.getG n from (congrArg (fun (z : Regs) => z.getG n) hur :)]
    exact (Regs.getG_setG u.g.r (s.gn d) n w).trans (if_neg hn)
  · rw [hrt, ← hu.bt j hj]
    exact (congrArg (fun (z : Regs) => z.getBT j) hset :)
  · rw [hrt]
    simp only [Regs.setG_pc]
    have h1 := congrArg (fun (z : Regs) => { z with bt := [], pc := u.g.r.pc + 4 }) hset
    have h2 := congrArg (fun (z : Regs) => { z with g := [], hg := [], pc := z.pc + 4 }) hur
    exact h1.trans h2
  · have hd : ((u.setU (s.gn d) w).ended [] 4).dies = u.dies := (congrArg State.dies hout.1 :)
    rw [State.die, hd]
    exact hu.xlated.die c
  · exact (congrArg (fun (z : State) => { z with dies := [], stks := [], maps := [], free := 0 }) hrest).trans hx.rest
  · have h1 := congrArg (fun (z : Core) => { z with tlb := [] }) (hout.2.1 c)
    exact h1.trans (congrArg (fun (z : Core) => { z with turn := 0, quads := [] }) (hx.core c))
  · rw [hrt]
    exact (Regs.getG_setG u.g.r (s.gn d) _ w).trans (if_pos rfl)
  · rw [hrt]
    exact (congrArg (fun (z : Regs) => z.getBT k.toNat) hset :)

end

/-! BLD and BSET. -/

section
variable {s x : State} {k : BitVec 4} {a : Sel} {b : UOpd} {sels : List Sel}

/-- An instruction that sets a buffer record and does nothing else. -/
theorem run_recordSet {len : Nat} {dests : List DReg} {body : State → Res} {v : BitVec 256} (hr : Runs s sels dests x)
    {f : Regs → Regs} (hb : body x = .ok (x.modR f))
    (hf : f { s.g.r with exm := x.g.r.exm } = { s.g.r with exm := x.g.r.exm }.setB k.toNat v) :
    ∃ t, run len s sels dests body = .next t ∧
      RecordSet (sels.map (fun a => a.src)) s x t len k.toNat v := by
  obtain ⟨t, ht, hregs, hsys, hfl, hcnt, hrt⟩ := run_modR (len := len) hr hb
  rw [hf] at hrt
  refine ⟨t, ht, hregs, hsys, hfl, hcnt, fun j => ?_, fun j => ?_, ?_⟩ <;> rw [hrt]
  · exact tget_tset (d := (0 : BitVec 256)) ..
  · exact tget_tset (d := BT.reset) s.g.r.bt k.toNat j BT.reset
  · rfl

/-- The place of a read of tile memory below the visible size, outside any stream's staging. -/
theorem lread_tile {o n : Nat} (hv : o + n ≤ x.l.visible) (hs : x.inStaging (.data x.cn (x.t.base * 4096 + o)) n = false)
    (strong : Bool) : x.lread 0 o n strong = (x.tread (.data x.cn (x.t.base * 4096 + o)) n, x) := by
  have hl : x.localLoc (teamOf x.cur) 0 o n = some (.data x.cn (x.t.base * 4096 + o)) := if_pos hv
  simp only [State.lread, hl, hs, Bool.false_eq_true, if_false, show ¬ (0 : Nat) = 2 by decide]

/-- What BLD does once its sources are read: `o` is the offset. -/
def bldBody (k : BitVec 4) (x : State) (o : Nat) : Res :=
  if o % 32 ≠ 0 then .trap (Trap.mk2 0xA (BitVec.ofNat 64 o)) x
  else if x.l.visible < o + 32 then .trap (Trap.mk2 8 (BitVec.ofNat 64 o)) x
  else
    let r := x.lread 0 o 32 false
    .ok (r.2.modR (fun g => g.setB k.toNat (BitVec.ofNat 256 (leNat r.1))))

theorem exec_bld (s : State) (k : BitVec 4) (a : Sel) (b : UOpd) : exec (.bld k a b) s =
    run (uniBytes b) s (a :: uniSels b) [] (fun x => bldBody k x (x.laneVal a.src 0 + uniOpd x b).toNat) := by
  rw [uniSels_eq, uniBytes_eq]
  cases b <;> rfl

theorem bld_sets (hr : Runs s (a :: uniSels b) [] x) {o : Nat} (ho : o = (x.laneVal a.src 0 + uniOpd x b).toNat)
    (ha : o % 32 = 0) (hv : o + 32 ≤ s.l.visible) (hs : x.inStaging (.data s.cn (s.t.base * 4096 + o)) 32 = false) :
    ∃ t, exec (.bld k a b) s = .next t ∧ RecordSet (a.src :: (uniSels b).map (fun a => a.src)) s x t (uniBytes b) k.toNat
      (BitVec.ofNat 256 (leNat (s.tread (.data s.cn (s.t.base * 4096 + o)) 32))) := by
  obtain ⟨⟨hon, -⟩, -, -⟩ := ready_ok hr.1
  rw [← hon.cn, ← hon.t] at hs ⊢
  rw [← hon.l] at hv
  rw [exec_bld, ← hon.tread]
  have hbody : bldBody k x o = .ok (x.modR (fun g => g.setB k.toNat (BitVec.ofNat 256
      (leNat (x.tread (.data x.cn (x.t.base * 4096 + o)) 32))))) := by
    rw [bldBody, if_neg (not_not.2 ha), if_neg (by omega), lread_tile hv hs]
  rw [ho] at hbody
  exact run_recordSet hr hbody (by rw [ho])

theorem bld_raises (hr : Runs s (a :: uniSels b) [] x) {o c : Nat} (ho : o = (x.laneVal a.src 0 + uniOpd x b).toNat)
    (he : Enters s) (hb : bldBody k x o = .trap (Trap.mk2 c (BitVec.ofNat 64 o)) x) (hc : entersOnly c = true) :
    ∃ t, exec (.bld k a b) s = .next t ∧ Entered [] s t c 0 (BitVec.ofNat 64 o) 0 s.g.r.exm s.g.r.pc := by
  rw [exec_bld]
  subst ho
  exact run_raises hr.1 hb he hc

/-! The bits of a record with a field replaced. -/

theorem getLsbD_put (r : BitVec 256) (lo n v i : Nat) (h : lo + n ≤ 256) :
    (BitVec.ofNat 256 (nput r.toNat lo n v)).getLsbD i = if lo ≤ i ∧ i < lo + n then v.testBit (i - lo) else r.getLsbD i := by
  rw [BitVec.getLsbD_ofNat, testBit_nput]
  by_cases hi : i < 256
  · simp [hi, BitVec.getLsbD]
  · have hn : ¬ (lo ≤ i ∧ i < lo + n) := by omega
    rw [if_neg hn, if_neg hn, BitVec.getLsbD_of_ge r i (by omega), decide_eq_false hi, Bool.false_and]

theorem fieldLow_eq (f : BField) : BField.lo f = fieldLow f := by cases f <;> rfl

theorem fieldLow_le (f : BField) : fieldLow f + 32 ≤ 256 := by cases f <;> decide

/-- BASE is the low 64 bits of a record. -/
theorem rBase_put (r : BitVec 256) (v : W64) : rBase (BitVec.ofNat 256 (nput r.toNat 0 64 v.toNat)) = v := by
  ext i hi
  rw [rBase, BitVec.getElem_extractLsb', getLsbD_put r 0 64 v.toNat _ (by norm_num), if_pos (by omega)]
  simp [BitVec.getElem_eq_testBit_toNat]

theorem exec_bset (s : State) (k : BitVec 4) (f : BField) (b : UOpd) : exec (.bset k f b) s =
    run (uniBytes b) s (uniSels b) [] (fun x => .ok (x.modR (fun g => g.setB k.toNat
      (BitVec.ofNat 256 (nput (g.getB k.toNat).toNat (BField.lo f) 32 (uniOpd x b).toNat))))) := by
  rw [uniSels_eq, uniBytes_eq]
  cases b <;> rfl

theorem exec_bsetAdd (s : State) (k : BitVec 4) (b : UOpd) : exec (.bsetAdd k b) s =
    run (uniBytes b) s (uniSels b) [] (fun x => .ok (x.modR (fun g => g.setB k.toNat (BitVec.ofNat 256
      (nput (g.getB k.toNat).toNat 0 64 (rBase (g.getB k.toNat) + (uniOpd x b).signExtend 64).toNat))))) := by
  rw [uniSels_eq, uniBytes_eq]
  cases b <;> rfl

end

/-- Settles O34: the three ways to set a record, and BXLATE by the outcome of its translation. -/
theorem recordsAndTranslation : Obligations.RecordsAndTranslation := by
  refine ⟨⟨fun s x k a b o hr ho => ⟨fun p ha hv hp hs => ?_, fun ha he => ?_, fun ha hv he => ?_⟩,
    fun s x k f b hr => ⟨?_, ?_⟩⟩,
    fun s d k rc hr hrc => ⟨fun h3 h4 h6 => ?_, fun tgt hsp => ⟨fun a hx => ?_, fun f hx => ?_⟩⟩⟩
  · subst hp
    exact bld_sets hr ho ha hv hs
  · exact bld_raises hr ho he (if_pos ha) rfl
  · obtain ⟨⟨hon, -⟩, -, -⟩ := ready_ok hr.1
    refine bld_raises hr ho he ?_ rfl
    rw [bldBody, if_neg (not_not.2 ha), if_pos (by rwa [hon.l])]
  · obtain ⟨t, ht, hset⟩ := run_recordSet (k := k) (len := uniBytes b)
      (body := fun x => .ok (x.modR (fun g => g.setB k.toNat
        (BitVec.ofNat 256 (nput (g.getB k.toNat).toNat (BField.lo f) 32 (uniOpd x b).toNat))))) hr rfl rfl
    refine ⟨t, _, (exec_bset ..).trans ht, hset, fun i => ?_⟩
    rw [fieldLow_eq]
    exact getLsbD_put _ _ _ _ i (fieldLow_le f)
  · obtain ⟨t, ht, hset⟩ := run_recordSet (k := k) (len := uniBytes b)
      (body := fun x => .ok (x.modR (fun g => g.setB k.toNat (BitVec.ofNat 256
        (nput (g.getB k.toNat).toNat 0 64 (rBase (g.getB k.toNat) + (uniOpd x b).signExtend 64).toNat))))) hr rfl rfl
    refine ⟨t, _, (exec_bsetAdd ..).trans ht, hset, rBase_put .., fun i hi => ?_⟩
    exact (getLsbD_put _ 0 64 _ i (by norm_num)).trans (if_neg (by omega))
  · subst hrc
    have hb : s.bxlate k.toNat = (bxWord 3 3 0 0 0, s) := if_pos ⟨h3, h4, h6⟩
    exact run_uniDone (body := fun x => .ok ((x.bxlate k.toNat).2.setU (x.gn d) (x.bxlate k.toNat).1)) hr (by simp only [hb]; rfl)
  · subst hrc
    obtain ⟨u, hb, hu, hv, hpa⟩ := bxlate_ok hsp hx
    obtain ⟨t, ht, hf, hw, hbt⟩ := exec_bxlate hr hb hu
    exact ⟨t, ht, hf, hw.trans (bxWord_eq ..), by rw [hbt]; exact hv, by rw [hbt]; exact hpa⟩
  · subst hrc
    obtain ⟨w, u, hb, hu, hv, hw⟩ := bxlate_error hsp hx
    obtain ⟨t, ht, hf, hwt, hbt⟩ := exec_bxlate hr hb hu
    refine ⟨t, ht, hf, by rw [hbt, hv]; rfl, ?_⟩
    rw [hwt, hw]
    cases f <;> rfl

end Sys2Proof.Claims
end

section
/-! Writes of bytes one after another, stores to tile memory (04 R97, R100, R101), and long-latency writes that begin
(05 R111). -/

namespace Sys2Proof.Machine

open Sys2Proof.Claims Sys2Proof.Safety

/-! Writes in order: of memories `ι`, each write has a memory, an address and its bytes. -/

/-- Does a write reach byte `b` of memory `i`? -/
def Hits {ι : Type} (w : ι × Nat × List Byte) (i : ι) (b : Nat) : Prop := w.1 = i ∧ w.2.1 ≤ b ∧ b < w.2.1 + w.2.2.length

/-- The bytes `g` are the bytes `f` after the writes `l`, in order. -/
structure Written {ι : Type} (f : ι → Nat → Byte) (l : List (ι × Nat × List Byte)) (g : ι → Nat → Byte) : Prop where
  out : ∀ i b, (∀ w ∈ l, ¬ Hits w i b) → g i b = f i b
  last : ∀ l1 w l2, l = l1 ++ w :: l2 → ∀ j (hj : j < w.2.2.length), (∀ v ∈ l2, ¬ Hits v w.1 (w.2.1 + j)) →
    g w.1 (w.2.1 + j) = w.2.2[j]

section
variable {ι : Type} {f g h : ι → Nat → Byte} {l m : List (ι × Nat × List Byte)} {w : ι × Nat × List Byte}

theorem Written.nil (f : ι → Nat → Byte) : Written f [] f := ⟨fun _ _ _ => rfl, fun l1 w l2 h => by simp at h⟩

/-- One write. -/
theorem written_one (ho : ∀ i b, ¬ Hits w i b → g i b = f i b)
    (hi : ∀ j (hj : j < w.2.2.length), g w.1 (w.2.1 + j) = w.2.2[j]) : Written f [w] g := by
  refine ⟨fun i b h => ho i b (h w (by simp)), fun l1 v l2 h j hj _ => ?_⟩
  cases l1 with
  | nil => cases h; exact hi j hj
  | cons a l1 => simp at h

theorem Written.append (hf : Written f l g) (hg : Written g m h) : Written f (l ++ m) h := by
  refine ⟨fun i b hn => ?_, fun l1 w l2 he j hj hn => ?_⟩
  · rw [hg.out i b (fun w hw => hn w (by simp [hw])), hf.out i b (fun w hw => hn w (by simp [hw]))]
  · rcases List.append_eq_append_iff.1 he with ⟨a, rfl, hm⟩ | ⟨a, hl, hm⟩
    · exact hg.last a w l2 hm j hj hn
    · cases a with
      | nil => exact hg.last [] w l2 hm.symm j hj hn
      | cons x a =>
        obtain ⟨rfl, rfl⟩ := List.cons.inj hm
        rw [hg.out _ _ (fun v hv => hn v (by simp [hv]))]
        exact hf.last l1 w a hl j hj (fun v hv => hn v (by simp [hv]))

/-- A list that holds a write has a last occurrence of it. -/
theorem exists_last_of_mem {α : Type} {a : α} {l : List α} (h : a ∈ l) : ∃ l1 l2, l = l1 ++ a :: l2 ∧ a ∉ l2 := by
  obtain ⟨as, bs, he, hn⟩ := List.eq_append_cons_of_mem (List.mem_reverse.2 h)
  refine ⟨bs.reverse, as.reverse, ?_, by simpa using hn⟩
  rw [← List.reverse_reverse l, he]
  simp

/-- A byte that only one write reaches reads as that write left it. -/
theorem Written.mem (hf : Written f l g) (hw : w ∈ l) {j : Nat} (hj : j < w.2.2.length)
    (hn : ∀ v ∈ l, Hits v w.1 (w.2.1 + j) → v = w) : g w.1 (w.2.1 + j) = w.2.2[j] := by
  obtain ⟨l1, l2, he, hni⟩ := exists_last_of_mem hw
  refine hf.last l1 w l2 he j hj (fun v hv hh => hni ?_)
  rw [← hn v (by simp [he, hv]) hh]
  exact hv

end

theorem mread_eq_of_bytes {m : Memory} {a : Nat} {bs : List Byte} (h : ∀ j (hj : j < bs.length), mget m (a + j) = bs[j]) :
    mread m a bs.length = bs := by
  have hc : mread m a bs.length = mread (mwrite m a bs) a bs.length :=
    mread_congr fun i hi => by rw [h i hi, mget_mwrite_in _ _ _ _ hi]
  rw [hc, mread_mwrite]

/-! Tile memory: the data and the side band of each core. -/

/-- The bytes of tile memory, by side band and core. -/
def tileView (s : State) (q : Bool × Nat) (b : Nat) : Byte := tileByte s q.1 q.2 b

/-- The memory and the offset of a place. -/
def TLoc.mem : TLoc → Bool × Nat
  | .data c _ => (false, c)
  | .side c _ => (true, c)

/-- The offset of a place in its memory. -/
def TLoc.off : TLoc → Nat
  | .data _ a => a
  | .side _ a => a

/-- Bytes written at a place, as a write of a tile memory. -/
def TLoc.write (p : TLoc) (bs : List Byte) : (Bool × Nat) × Nat × List Byte := (p.mem, p.off, bs)

theorem covers_iff (p : TLoc) (bs : List Byte) (side : Bool) (co b : Nat) :
    covers p bs.length side co b ↔ Hits (p.write bs) (side, co) b := by
  cases p <;> simp only [covers, Hits, TLoc.write, TLoc.mem, TLoc.off, Prod.mk.injEq, and_assoc, eq_comm (a := side)]

/-- A place that reads back the bytes of a write. -/
theorem tread_eq_of_bytes {s : State} {p : TLoc} {bs : List Byte}
    (h : ∀ j (hj : j < bs.length), tileView s p.mem (p.off + j) = bs[j]) : s.tread p bs.length = bs := by
  cases p <;> exact mread_eq_of_bytes h

/-- Between `s` and `t` the current core, or any thread, has stored to tile memory: bytes of tile memory, stamps, and whether
a stream's staging has lost its contents have changed, and nothing else. -/
structure Stored (s t : State) : Prop where
  rest : { t with groups := [], cores := [] } = { s with groups := [], cores := [] }
  grp : ∀ k, { t.grp k with s0 := Stream.reset, s1 := Stream.reset } = { s.grp k with s0 := Stream.reset, s1 := Stream.reset }
  core : ∀ c, { t.core c with tile := [], side := [], mdw := [] } = { s.core c with tile := [], side := [], mdw := [] }

theorem Stored.refl (s : State) : Stored s s := ⟨rfl, fun _ => rfl, fun _ => rfl⟩

theorem Stored.trans {s t u : State} (h : Stored s t) (k : Stored t u) : Stored s u :=
  ⟨k.rest.trans h.rest, fun c => (k.grp c).trans (h.grp c), fun c => (k.core c).trans (h.core c)⟩

theorem Stored.here {s t : State} (h : Stored s t) : t.cur = s.cur ∧ t.cn = s.cn ∧ t.t = s.t ∧ t.l = s.l := by
  have hc : t.cur = s.cur := (congrArg State.cur h.rest :)
  have ht : t.teams = s.teams := (congrArg State.teams h.rest :)
  have hl : t.launches = s.launches := (congrArg State.launches h.rest :)
  refine ⟨hc, ?_, ?_, ?_⟩
  · simp only [State.cn, State.coreNoG, State.teamG, State.team, hc, ht]
  · simp only [State.t, State.teamG, State.team, hc, ht]
  · simp only [State.l, State.launchG, State.launch, State.teamG, State.team, hc, ht, hl]

theorem modCore_stored (s : State) (c : Nat) (f : Core → Core)
    (hf : { f (s.core c) with tile := [], side := [], mdw := [] } = { s.core c with tile := [], side := [], mdw := [] }) :
    Stored s (s.modCore c f) := by
  refine ⟨rfl, fun _ => rfl, fun j => ?_⟩
  rw [State.modCore_core_ite]
  split
  · next h => rw [h, hf]
  · rfl

/-- Groups whose streams alone have changed. -/
theorem mapGroups_stored (s : State) (f : Nat × Group → Nat × Group) (h1 : ∀ p, (f p).1 = p.1)
    (h2 : ∀ p, { (f p).2 with s0 := Stream.reset, s1 := Stream.reset } = { p.2 with s0 := Stream.reset, s1 := Stream.reset }) :
    Stored s { s with groups := s.groups.map f } := by
  refine ⟨rfl, fun k => ?_, fun _ => rfl⟩
  show ({ tget Group.reset (s.groups.map f) k with s0 := Stream.reset, s1 := Stream.reset } : Group) = _
  unfold State.grp
  induction s.groups with
  | nil => rfl
  | cons p l ih =>
    obtain ⟨i, v⟩ := p
    have hi := h1 (i, v)
    have hv := h2 (i, v)
    rw [List.map_cons]
    generalize f (i, v) = q at hi hv
    obtain ⟨j, u⟩ := q
    cases hi
    simp only [tget]
    split
    · exact hv
    · exact ih

/-- A core whose data bytes a thread has stored to: the segments' stamps are 0 (04 R100). -/
def Core.stored (a : Nat) (bs : List Byte) (co : Core) : Core :=
  { co with
    tile := mwrite co.tile a bs
    mdw := ((List.range ((a + bs.length - 1) / 4096 - a / 4096 + 1)).map (fun i => a / 4096 + i)).foldl
      (fun m g => tset 0 m g (mSetStamp (tget 0 m g) 0)) co.mdw }

theorem tstore_data_cores (s : State) (c a : Nat) (bs : List Byte) :
    (s.tstore (.data c a) bs).cores = (s.modCore c (Core.stored a bs)).cores := rfl

theorem tstore_stored (s : State) (p : TLoc) (bs : List Byte) : Stored s (s.tstore p bs) := by
  cases p with
  | side c a => exact modCore_stored s c (fun co => { co with side := mwrite co.side a bs }) rfl
  | data c a =>
    refine (modCore_stored s c (Core.stored a bs) rfl).trans (mapGroups_stored _ _ (fun p => ?_) (fun p => ?_))
    · split <;> rfl
    · split <;> rfl

/-- The memory of a side band or of the data of a core. -/
def tileMem (s : State) (q : Bool × Nat) : Memory := if q.1 then (s.core q.2).side else (s.core q.2).tile

theorem tileMem_tstore (s : State) (p : TLoc) (bs : List Byte) (q : Bool × Nat) :
    tileMem (s.tstore p bs) q = if q = p.mem then mwrite (tileMem s q) p.off bs else tileMem s q := by
  obtain ⟨side, j⟩ := q
  cases p with
  | data c a =>
    have h : (s.tstore (.data c a) bs).core j = if j = c then Core.stored a bs (s.core c) else s.core j := by
      rw [State.core, tstore_data_cores]
      exact s.modCore_core_ite ..
    simp only [tileMem, TLoc.mem, TLoc.off, Prod.mk.injEq, h]
    by_cases hj : j = c
    · subst hj; cases side <;> simp [Core.stored]
    · cases side <;> simp [hj]
  | side c a =>
    have h : (s.tstore (.side c a) bs).core j =
        if j = c then { s.core c with side := mwrite (s.core c).side a bs } else s.core j := s.modCore_core_ite ..
    simp only [tileMem, TLoc.mem, TLoc.off, Prod.mk.injEq, h]
    by_cases hj : j = c
    · subst hj; cases side <;> simp
    · cases side <;> simp [hj]

theorem tstore_written (s : State) (p : TLoc) (bs : List Byte) :
    Written (tileView s) [p.write bs] (tileView (s.tstore p bs)) := by
  refine written_one (fun q b hn => ?_) (fun j hj => ?_)
  · show mget (tileMem (s.tstore p bs) q) b = mget (tileMem s q) b
    rw [tileMem_tstore]
    split
    · next h =>
      refine mget_mwrite_out _ _ _ _ ?_
      simp only [Hits, TLoc.write, h, true_and, not_and] at hn
      omega
    · rfl
  · show mget (tileMem (s.tstore p bs) p.mem) (p.off + j) = bs[j]
    rw [tileMem_tstore, if_pos rfl]
    exact mget_mwrite_in _ _ _ _ hj

/-! Long-latency writes (05 R111). -/

/-- What readers met of the old values of some registers is gone. -/
def GSync.unflags (y : GSync) (ds : List Dest) : GSync := ds.foldl (fun y d => y.unflag d.reg) y

theorem unflags_rest (ds : List Dest) (y : GSync) : { y.unflags ds with errs := [] } = { y with errs := [] } := by
  unfold GSync.unflags
  induction ds generalizing y with
  | nil => rfl
  | cons d ds ih => exact (ih (y.unflag d.reg)).trans rfl

theorem markDests_keep (ds : List Dest) (r : Regs) (e : BitVec 16) :
    ds.foldl Regs.markDest { r with exm := e } = { ds.foldl Regs.markDest r with exm := e } ∧
      (ds.foldl Regs.markDest r).pc = r.pc := by
  induction ds generalizing r with
  | nil => exact ⟨rfl, rfl⟩
  | cons d ds ih =>
    have hd : Regs.markDest { r with exm := e } d = { r.markDest d with exm := e } := by
      cases d with
      | v n m vs => rfl
      | g n v => simp only [Regs.markDest, Regs.markG]; split <;> rfl
    have hp : (r.markDest d).pc = r.pc := by
      cases d with
      | v n m vs => rfl
      | g n v => exact Regs.markG_pc r n true
    obtain ⟨h1, h2⟩ := ih (r.markDest d)
    exact ⟨by rw [List.foldl_cons, hd, h1, List.foldl_cons], h2.trans hp⟩

/-- The beginning of a long-latency write that no path counts. -/
theorem produce_g (s : State) (ds : List Dest) : (s.produce ⟨ds, none, none⟩).g = { s.g with
    r := ds.foldl Regs.markDest s.g.r
    y := { s.g.y.unflags ds with pend := (s.g.y.unflags ds).pend ++ [⟨ds, none, none⟩] } } := by
  have h : s.produce ⟨ds, none, none⟩ = (s.modG (fun g => { g with y := g.y.unflags ds })).modG (fun g =>
      { g with r := ds.foldl Regs.markDest g.r, y := { g.y with pend := g.y.pend ++ [⟨ds, none, none⟩] } }) := rfl
  rw [h, State.modG_g, State.modG_g]

theorem only_produce (s : State) (ds : List Dest) : Only s (s.produce ⟨ds, none, none⟩) :=
  (only_modG s (fun g => { g with y := g.y.unflags ds })).trans (only_modG _ _)

/-- An instruction that begins one long-latency write that no path counts, and does nothing else. -/
theorem run_produces {len : Nat} {s x : State} {sels : List Sel} {dests : List DReg} {ds : List Dest} {body : State → Res}
    (hr : Runs s sels dests x) (hb : body x = .ok (x.produce ⟨ds, none, none⟩)) :
    ∃ t, run len s sels dests body = .next t ∧
      Producing (sels.map (fun a => a.src)) s x t len ds none s.g.sys.fpflags := by
  obtain ⟨hready, harm⟩ := hr
  obtain ⟨ha, -, -⟩ := ready_ok hready
  have hg := produce_g x ds
  rw [ha.g] at hg
  have hy := unflags_rest ds s.g.y
  generalize hu : s.g.y.unflags ds = y at hy hg
  have hya : (x.produce ⟨ds, none, none⟩).g.y.stepArmed = false := by
    rw [hg]
    exact (congrArg GSync.stepArmed hy :).trans harm
  obtain ⟨t, ht, hout, hoth, -, hrt, hsys, hclk, hkept, ⟨hpaths, hpend⟩, -, -⟩ := run_only (len := len) hready hb
    (only_produce x ds) hya
  obtain ⟨hexm, hpc⟩ := markDests_keep ds s.g.r x.g.r.exm
  unfold GroupKept at hkept
  rw [hg] at hrt hsys hclk hkept hpaths hpend
  obtain ⟨hlive, hstr, hq3, h3, h7, hpk, hqs, hsn⟩ := hkept
  refine ⟨t, ht, hout, hoth, ⟨hlive, hstr, fun h => (hq3 h).trans (congrArg GSync.q3 hy :), h3.trans (congrArg GSync.fab3 hy :),
    h7.trans (congrArg GSync.fab7 hy :), hpk.trans (congrArg GSync.parked hy :), hqs.trans (congrArg GSync.qsel hy :),
    hsn.trans (congrArg GSync.sends hy :)⟩, ⟨?_, hclk⟩, ?_, ?_, fun h0 h1 => by rw [ready_same hready h0 h1], ?_, fun p => ?_, ?_⟩
  · exact (congrArg (fun (z : SysRegs) => { z with fpflags := 0, srcnt := 0 }) hsys :)
  · exact (congrArg SysRegs.fpflags hsys :)
  · exact (congrArg SysRegs.srcnt hsys :)
  · rw [hpend, ← show y.pend = s.g.y.pend from (congrArg GSync.pend hy :)]
  · rw [if_neg (by simp), GSync.path, hpaths]
    exact (congrArg (fun (z : GSync) => z.path p) hy :)
  · rw [hrt]
    simp only [hexm, hpc]

end Sys2Proof.Machine
end

section
/-! The spill stack (07 R166, R167; 04 R98; O25). -/

namespace Sys2Proof.Machine

open Sys2Proof.Claims Sys2Proof.Safety

/-- Reads of V registers pop nothing. -/
theorem popSrcs_lanes (l : List Src) (s : State) (h : ∀ a ∈ l, ∃ d, a = .v d) : s.popSrcs l = s := by
  induction l generalizing s with
  | nil => rfl
  | cons a l ih =>
    obtain ⟨d, rfl⟩ := h a (by simp)
    have hd : s.popSrc (.v d) = s := by
      unfold State.popSrc
      split <;> rfl
    show (s.popSrc (.v d)).popSrcs l = s
    rw [hd]
    exact ih s (fun a ha => h a (by simp [ha]))

theorem mem_actThreads {s : State} {th : Nat} : th ∈ s.actThreads ↔ th < 16 ∧ s.g.r.exm.getLsbD th = true := by
  simp [State.actThreads, Group.act]

end Sys2Proof.Machine

namespace Sys2Proof.Claims

open Sys2Proof.Machine Sys2Proof.Safety

/-- Word `th` of register `k` of a spill at region byte `b`: its place and its bytes. -/
def spillWord (s : State) (b : Nat) (lane : Nat → Nat → W32) (k th : Nat) : (Bool × Nat) × Nat × List Byte :=
  (TLoc.data s.cn (s.spillAt (b + 64 * k + 4 * th))).write (leBytes 4 (lane k th).toNat)

theorem length_spillWord (s : State) (b : Nat) (lane : Nat → Nat → W32) (k th : Nat) :
    (spillWord s b lane k th).2.2.length = 4 := length_leBytes ..

/-- One register of the threads `ts` is stored. -/
theorem spill1_written (s : State) (b k : Nat) (lane : Nat → W32) (ts : List Nat) :
    Stored s (s.spill1 b k ts lane) ∧
      Written (tileView s) (ts.map (spillWord s b (fun _ => lane) k)) (tileView (s.spill1 b k ts lane)) := by
  have hfold : ∀ (ts : List Nat) (u : State), Stored u (ts.foldl (fun st t =>
        st.tstore (.data s.cn (s.spillAt (b + 64 * k + 4 * t))) (leBytes 4 (lane t).toNat)) u) ∧
      Written (tileView u) (ts.map (spillWord s b (fun _ => lane) k)) (tileView (ts.foldl (fun st t =>
        st.tstore (.data s.cn (s.spillAt (b + 64 * k + 4 * t))) (leBytes 4 (lane t).toNat)) u)) := by
    intro ts
    induction ts with
    | nil => exact fun u => ⟨.refl u, .nil _⟩
    | cons t ts ih =>
      intro u
      obtain ⟨h1, h2⟩ := ih (u.tstore (.data s.cn (s.spillAt (b + 64 * k + 4 * t))) (leBytes 4 (lane t).toNat))
      exact ⟨(tstore_stored ..).trans h1, (tstore_written ..).append h2⟩
  exact hfold ts s

/-- The registers of `ks` are stored, one after another. -/
theorem spills_written (s : State) (b : Nat) (lane : Nat → Nat → W32) (ts ks : List Nat) :
    Stored s (ks.foldl (fun st k => st.spill1 b k ts (lane k)) s) ∧
      Written (tileView s) (ks.flatMap (fun k => ts.map (spillWord s b lane k)))
        (tileView (ks.foldl (fun st k => st.spill1 b k ts (lane k)) s)) := by
  have hfold : ∀ (ks : List Nat) (u : State), Stored s u → Stored s (ks.foldl (fun st k => st.spill1 b k ts (lane k)) u) ∧
      Written (tileView u) (ks.flatMap (fun k => ts.map (spillWord s b lane k)))
        (tileView (ks.foldl (fun st k => st.spill1 b k ts (lane k)) u)) := by
    intro ks
    induction ks with
    | nil => exact fun u hu => ⟨hu, .nil _⟩
    | cons k ks ih =>
      intro u hu
      obtain ⟨h1, h2⟩ := spill1_written u b k (lane k) ts
      obtain ⟨h3, h4⟩ := ih _ (hu.trans h1)
      obtain ⟨hc, hcn, ht, hl⟩ := hu.here
      have hw : spillWord u b (fun _ => lane k) k = spillWord s b lane k := funext fun th => by
        simp only [spillWord, hcn, State.spillAt, ht, hl, hc]
      rw [hw] at h2
      exact ⟨h3, h2.append h4⟩
  exact hfold ks s (.refl s)

section
variable {s : State} {d : BitVec 7} {nm1 : BitVec 4} {off : BitVec 16} {n b : Nat}

theorem mem_spillWords {lane : Nat → Nat → W32} {w : (Bool × Nat) × Nat × List Byte} :
    w ∈ (List.range n).flatMap (fun k => s.actThreads.map (spillWord s b lane k)) ↔
      ∃ k th, k < n ∧ th < 16 ∧ s.g.r.exm.getLsbD th = true ∧ w = spillWord s b lane k th := by
  simp only [List.mem_flatMap, List.mem_range, List.mem_map, mem_actThreads]
  constructor
  · rintro ⟨k, hk, th, ⟨ht, ha⟩, rfl⟩; exact ⟨k, th, hk, ht, ha, rfl⟩
  · rintro ⟨k, th, hk, ht, ha, rfl⟩; exact ⟨k, hk, th, ⟨ht, ha⟩, rfl⟩

/-- A byte that a word of a spill reaches. -/
theorem hits_spillWord {lane : Nat → Nat → W32} {k th : Nat} {q : Bool × Nat} {y : Nat} :
    Hits (spillWord s b lane k th) q y ↔ q = (false, s.cn) ∧ s.spillAt (b + 64 * k + 4 * th) ≤ y ∧
      y < s.spillAt (b + 64 * k + 4 * th) + 4 := by
  simp only [Hits, spillWord, TLoc.write, TLoc.mem, TLoc.off, length_leBytes, eq_comm (b := q)]

/-- The words of a spill stand apart. -/
theorem spillAt_apart {k th k' th' y : Nat} (ht : th < 16) (ht' : th' < 16)
    (h1 : s.spillAt (b + 64 * k + 4 * th) ≤ y) (h2 : y < s.spillAt (b + 64 * k + 4 * th) + 4)
    (h3 : s.spillAt (b + 64 * k' + 4 * th') ≤ y) (h4 : y < s.spillAt (b + 64 * k' + 4 * th') + 4) : k' = k ∧ th' = th := by
  simp only [State.spillAt] at h1 h2 h3 h4
  omega

theorem spillErr_eq (s : State) (n : Nat) (off : BitVec 16) (hb : b = s.g.r.spp.toNat + off.toNat) :
    s.spillErr n off = if s.l.ss < b + 64 * n then some (Trap.mk2 0xC (BitVec.ofNat 64 b)) else none := by
  subst hb
  rfl

/-- What SPST of `n` registers does once it is ready. -/
def spstBody (d : BitVec 7) (n : Nat) (off : BitVec 16) (x : State) : Res :=
  match x.spillErr n off with
  | some t => .trap t x
  | none =>
    if x.pathRoom 0 = false then .block .counter x
    else .ok ((List.range n).foldl (fun st i => st.spill1 (x.g.r.spp.toNat + off.toNat) i x.actThreads
      (x.g.r.getV (d.toNat + i))) x)

/-- SPST within the spill size. -/
theorem spst_stores (hn : n = nm1.toNat + 1) (hb : b = s.g.r.spp.toNat + off.toNat) (harm : s.g.y.stepArmed = false)
    (hfit : b + 64 * n ≤ s.l.ss) (hr : s.ready ((List.range n).map (fun i => ⟨.v (d + BitVec.ofNat 7 i), false⟩)) [] = .ok s)
    (hroom : s.g.y.path 0 < 65535) :
    ∃ t, exec (.spst d nm1 off) s = .next t ∧ t.g.r = { s.g.r with pc := s.g.r.pc + 8 } ∧ t.g.sys = s.g.sys ∧
      (∀ k th, k < n → th < 16 → s.g.r.exm.getLsbD th = true →
        t.tread (.data s.cn (s.spillAt (b + 64 * k + 4 * th))) 4 = leBytes 4 (s.g.r.getV (d.toNat + k) th).toNat) ∧
      (∀ side co y, ¬ (side = false ∧ co = s.cn ∧ ∃ k th, k < n ∧ th < 16 ∧ s.g.r.exm.getLsbD th = true ∧
        s.spillAt (b + 64 * k + 4 * th) ≤ y ∧ y < s.spillAt (b + 64 * k + 4 * th) + 4) →
          tileByte t side co y = tileByte s side co y) ∧
      (∀ k, k ≠ s.cur → (t.grp k).r = (s.grp k).r) ∧
      { t with groups := [], cores := [] } = { s with groups := [], cores := [] } := by
  obtain ⟨hst, hw⟩ := spills_written s b (fun k => s.g.r.getV (d.toNat + k)) s.actThreads (List.range n)
  generalize hy : (List.range n).foldl (fun st k => st.spill1 b k s.actThreads (s.g.r.getV (d.toNat + k))) s = y at hst hw
  have hbody : spstBody d n off s = .ok y := by
    rw [spstBody, spillErr_eq s n off hb, if_neg (by omega), ← hb, hy]
    simp [State.pathRoom, hroom]
  obtain ⟨hcur, -, -, -⟩ := hst.here
  have hyg : { y.g with s0 := Stream.reset, s1 := Stream.reset } = { s.g with s0 := Stream.reset, s1 := Stream.reset } := by
    rw [State.g, hcur]
    exact hst.grp s.cur
  have hrun := run_ends (len := 8) (body := spstBody d n off) hr hbody ((congrArg (fun (g : Group) => g.y.stepArmed) hyg :).trans harm)
  have hv : ∀ a ∈ ((List.range n).map (fun i => (⟨.v (d + BitVec.ofNat 7 i), false⟩ : Sel))).map (fun a => a.src),
      ∃ d, a = .v d := by
    simp only [List.map_map, List.mem_map]
    rintro a ⟨i, -, rfl⟩
    exact ⟨_, rfl⟩
  generalize ((List.range n).map (fun i => (⟨.v (d + BitVec.ofNat 7 i), false⟩ : Sel))).map (fun a => a.src) = l at hrun hv
  obtain ⟨⟨hout, hoth, -⟩, -, hrt, hsys, hclk⟩ := ended_frame y l 8
  have hpop : y.ended l 8 = y.retireG (y.g.r.pc + 8) := by
    rw [State.ended, popSrcs_lanes l y hv]
    rfl
  refine ⟨y.ended l 8, by subst hn; exact hrun, ?_, ?_, fun k th hk hth ha => ?_, fun side co z hz => ?_, fun k hk => ?_, ?_⟩
  · rw [hrt, ← show y.g.r = s.g.r from (congrArg Group.r hyg :)]
    rfl
  · rw [← show y.g.sys = s.g.sys from (congrArg Group.sys hyg :)]
    refine sysRegs_ext_clkh hsys (hclk fun h7 => ?_)
    obtain ⟨_, h⟩ := hv _ h7
    cases h
  · have hbytes := tread_eq_of_bytes (s := y.ended l 8) (p := .data s.cn (s.spillAt (b + 64 * k + 4 * th)))
      (bs := leBytes 4 (s.g.r.getV (d.toNat + k) th).toNat) (fun j hj => ?_)
    · rwa [length_leBytes] at hbytes
    · have hj4 : j < 4 := by rwa [length_leBytes] at hj
      show tileByte (y.ended l 8) _ _ _ = _
      rw [Outside.tileByte hout]
      refine hw.mem (mem_spillWords.2 ⟨k, th, hk, hth, ha, rfl⟩) (by rwa [length_spillWord]) (fun v hv hh => ?_)
      obtain ⟨k', th', -, hth', -, rfl⟩ := mem_spillWords.1 hv
      obtain ⟨-, h3, h4⟩ := hits_spillWord.1 hh
      obtain ⟨rfl, rfl⟩ := spillAt_apart (k := k) hth hth' (y := s.spillAt (b + 64 * k + 4 * th) + j) (by omega)
        (by omega) h3 h4
      rfl
  · rw [Outside.tileByte hout]
    refine hw.out (side, co) z (fun w hw hh => hz ?_)
    obtain ⟨k, th, hk, hth, ha, rfl⟩ := mem_spillWords.1 hw
    obtain ⟨hq, h3, h4⟩ := hits_spillWord.1 hh
    cases hq
    exact ⟨rfl, rfl, k, th, hk, hth, ha, h3, h4⟩
  · rw [hoth k (by rwa [hcur])]
    exact (congrArg Group.r (hst.grp k) :)
  · rw [hpop]
    exact (retireG_rest ..).trans hst.rest

end

/-- Settles O25: the spill range, SPST as writes at places apart, and SPLD as one write that begins. -/
theorem spillStack : Obligations.SpillStack := by
  intro s d nm1 off n b hn hd hb harm
  have hn' := hn
  refine ⟨fun hpast he hfull => ?_, fun hpast he hfree => ?_, fun hfit hfull hroom => ?_, fun hfit hfree => ?_⟩
  · subst hn
    refine run_raises (len := 8) (u := s) hfull ?_ he rfl
    rw [spillErr_eq s _ off hb, if_pos hpast]
  · subst hn
    refine run_raises (len := 8) (u := s) hfree ?_ he rfl
    rw [spillErr_eq s _ off hb, if_pos hpast]
  · exact spst_stores hn hb harm hfit hfull hroom
  · subst hn
    refine run_produces (len := 8) (sels := []) ⟨hfree, harm⟩ ?_
    rw [spillErr_eq s _ off hb, if_neg (by omega), hb]

end Sys2Proof.Claims
end

section
/-! The checks of a lane memory instruction (07 R154 to R156; 16 R410; O24). -/

namespace Sys2Proof.Machine

open Sys2Proof.Claims Sys2Proof.Safety

theorem maskOf_bit (p : Nat → Bool) {u : Nat} (hu : u < 16) : (maskOf p).getLsbD u = p u := by
  have hfold : ∀ n, n ≤ 16 → ∀ u < 16, ((List.range n).foldl (fun (m : BitVec 16) t =>
      if p t then m ||| BitVec.twoPow 16 t else m) 0).getLsbD u = (decide (u < n) && p u) := by
    intro n
    induction n with
    | zero => simp
    | succ n ih =>
      intro hn u hu
      rw [List.range_succ, List.foldl_append, List.foldl_cons, List.foldl_nil]
      have h := ih (by omega) u hu
      by_cases hp : p n = true
      · rw [if_pos hp, BitVec.getLsbD_or, h, BitVec.getLsbD_twoPow]
        by_cases hun : u = n
        · simp [hun, hp, show n < 16 by omega]
        · simp [Ne.symm hun, show u < n + 1 ↔ u < n by omega]
      · rw [if_neg hp, h]
        by_cases hun : u = n
        · simp [hun, hp]
        · simp [show u < n + 1 ↔ u < n by omega]
  have h := hfold 16 le_rfl u hu
  rwa [decide_eq_true hu, Bool.true_and] at h

/-! The first condition that some access fails. -/

section
variable {s : State} {k : LKind} {rc : BitVec 256} {idx : Nat → W32} {ws : List LWord}

/-- The failed access of a word, if it fails: its thread, the rank of the condition in R156, and TADDR. -/
def State.fails1 (s : State) (k : LKind) (rc : BitVec 256) (idx : Nat → W32) (w : LWord) : Option (Nat × Nat × W64) :=
  match s.check1 k rc (idx w.t) w.dj w.plus with
  | .error e => some (w.t, e)
  | .ok _ => none

theorem fails1_eq (w : LWord) (p : Nat × Nat × W64) : s.fails1 k rc idx w = some p ↔
    p.1 = w.t ∧ s.check1 k rc (idx w.t) w.dj w.plus = .error p.2 := by
  unfold State.fails1
  cases s.check1 k rc (idx w.t) w.dj w.plus with
  | error e =>
    simp only [Option.some.injEq, Except.error.injEq]
    exact ⟨fun h => h ▸ ⟨rfl, rfl⟩, fun ⟨h1, h2⟩ => Prod.ext h1.symm h2⟩
  | ok a => simp

theorem foldl_min_eq {α : Type} (f : α → Nat) (m : Nat) (l : List α) (i : Nat) (hi : m ≤ i) (hl : ∀ x ∈ l, m ≤ f x)
    (he : i = m ∨ ∃ x ∈ l, f x = m) : l.foldl (fun m x => min m (f x)) i = m := by
  induction l generalizing i with
  | nil => simpa using he
  | cons x l ih =>
    refine ih (min i (f x)) (le_min hi (hl x (by simp))) (fun y hy => hl y (by simp [hy])) ?_
    have hx := hl x (by simp)
    rcases he with rfl | ⟨y, hy, hm⟩
    · exact .inl (min_eq_left hx)
    · rcases List.mem_cons.1 hy with rfl | hy
      · exact .inl (by omega)
      · exact .inr ⟨y, hy, hm⟩

/-- The trap of a failed check: of the accesses that fail, those of the least rank tell (R156). -/
theorem checkAll_of_fails {m : Nat} (hmin : ∀ w ∈ ws, ∀ e, s.check1 k rc (idx w.t) w.dj w.plus = .error e → m ≤ e.1)
    (hex : ∃ w ∈ ws, ∃ v, s.check1 k rc (idx w.t) w.dj w.plus = .error (m, v)) : s.checkAll k rc idx ws =
      .error ⟨rankCause m, 0, ((((ws.filterMap (s.fails1 k rc idx)).filter (fun x => decide (x.2.1 = m))).head?).map
        (fun x => x.2.2)).getD 0, maskOf (fun t => ((ws.filterMap (s.fails1 k rc idx)).filter
          (fun x => decide (x.2.1 = m))).any (fun x => decide (x.1 = t)))⟩ := by
  have hmem : ∀ p ∈ ws.filterMap (s.fails1 k rc idx), m ≤ p.2.1 := fun p hp => by
    obtain ⟨w, hw, he⟩ := List.mem_filterMap.1 hp
    exact hmin w hw p.2 ((fails1_eq w p).1 he).2
  obtain ⟨w, hw, v, hv⟩ := hex
  have hin : (w.t, m, v) ∈ ws.filterMap (s.fails1 k rc idx) :=
    List.mem_filterMap.2 ⟨w, hw, (fails1_eq w _).2 ⟨rfl, hv⟩⟩
  unfold State.checkAll
  simp only
  generalize hb : List.filterMap _ _ = bad
  have hbad : bad = ws.filterMap (s.fails1 k rc idx) := by
    rw [← hb, List.filterMap_map]
    rfl
  rw [← hbad] at hmem hin ⊢
  cases bad with
  | nil => cases hin
  | cons b bs =>
    have hm : bs.foldl (fun m x => min m x.2.1) b.2.1 = m := by
      refine foldl_min_eq (fun x => x.2.1) m bs b.2.1 (hmem b (by simp)) (fun x hx => hmem x (by simp [hx])) ?_
      rcases List.mem_cons.1 hin with h | h
      · exact .inl (by rw [← h])
      · exact .inr ⟨_, h, rfl⟩
    simp only [hm]

/-- The trap of a failed check, by words: TADDR is that of the lowest thread that fails the condition of the least rank, TMASK
the threads that fail it. -/
theorem checkAll_least {m : Nat} (hs : ws.Pairwise (fun w v => w.t ≤ v.t))
    (hmin : ∀ w ∈ ws, ∀ e, s.check1 k rc (idx w.t) w.dj w.plus = .error e → m ≤ e.1)
    (hex : ∃ w ∈ ws, ∃ v, s.check1 k rc (idx w.t) w.dj w.plus = .error (m, v)) :
    ∃ w v mask, w ∈ ws ∧ s.check1 k rc (idx w.t) w.dj w.plus = .error (m, v) ∧
      (∀ u ∈ ws, (∃ v, s.check1 k rc (idx u.t) u.dj u.plus = .error (m, v)) → w.t ≤ u.t) ∧
      s.checkAll k rc idx ws = .error ⟨rankCause m, 0, v, mask⟩ ∧
      ∀ t < 16, mask.getLsbD t = true ↔ ∃ u ∈ ws, u.t = t ∧ ∃ v, s.check1 k rc (idx u.t) u.dj u.plus = .error (m, v) := by
  have hall := checkAll_of_fails hmin hex
  have hsorted : ((ws.filterMap (s.fails1 k rc idx)).filter (fun x => decide (x.2.1 = m))).Pairwise (fun x y => x.1 ≤ y.1) := by
    refine List.Pairwise.filter _ (List.Pairwise.filterMap _ (fun a a' h b hb b' hb' => ?_) hs)
    rw [((fails1_eq a b).1 hb).1, ((fails1_eq a' b').1 hb').1]
    exact h
  have hmem : ∀ p, p ∈ (ws.filterMap (s.fails1 k rc idx)).filter (fun x => decide (x.2.1 = m)) ↔
      ∃ u ∈ ws, u.t = p.1 ∧ p.2.1 = m ∧ s.check1 k rc (idx u.t) u.dj u.plus = .error p.2 := fun p => by
    simp only [List.mem_filter, List.mem_filterMap, fails1_eq, decide_eq_true_eq]
    constructor
    · rintro ⟨⟨u, hu, ht, he⟩, hm⟩; exact ⟨u, hu, ht.symm, hm, he⟩
    · rintro ⟨u, hu, ht, hm, he⟩; exact ⟨⟨u, hu, ht.symm, he⟩, hm⟩
  generalize (ws.filterMap (s.fails1 k rc idx)).filter (fun x => decide (x.2.1 = m)) = fs at hall hsorted hmem
  obtain ⟨w0, hw0, v0, he0⟩ := hex
  have h0 := (hmem (w0.t, m, v0)).2 ⟨w0, hw0, rfl, rfl, he0⟩
  cases fs with
  | nil => cases h0
  | cons p fs =>
    obtain ⟨w, hw, ht, hm, he⟩ := (hmem p).1 (by simp)
    obtain ⟨pt, pr, pv⟩ := p
    cases ht
    cases hm
    refine ⟨w, pv, _, hw, he, fun u hu ⟨v, hv⟩ => ?_, hall, fun t h16 => ?_⟩
    · rcases List.mem_cons.1 ((hmem (u.t, pr, v)).2 ⟨u, hu, rfl, rfl, hv⟩) with h | h
      · exact (congrArg Prod.fst h).ge
      · exact (List.pairwise_cons.1 hsorted).1 _ h
    · rw [maskOf_bit _ h16, List.any_eq_true]
      constructor
      · rintro ⟨q, hq, h⟩
        obtain ⟨u, hu, hut, hr, hv⟩ := (hmem q).1 hq
        refine ⟨u, hu, hut.trans (of_decide_eq_true h), q.2.2, ?_⟩
        rw [hv, ← hr]
      · rintro ⟨u, hu, rfl, v, hv⟩
        exact ⟨(u.t, pr, v), (hmem _).2 ⟨u, hu, rfl, rfl, hv⟩, by simp⟩

/-- A failed check is one of the causes 5 to 10, with SUB 0. -/
theorem checkAll_cause {t : Trap} (h : s.checkAll k rc idx ws = .error t) : 5 ≤ t.cause ∧ t.cause ≤ 10 := by
  have hr : ∀ r, 5 ≤ rankCause r ∧ rankCause r ≤ 10 := fun r => by
    unfold rankCause
    split <;> decide
  unfold State.checkAll at h
  simp only at h
  split at h
  · cases h
  · cases h
    exact hr _

/-! The conditions by rank. -/

theorem check1_space (h : 3 ≤ rSpace rc) (x : W32) (dj plus : Nat) : s.check1 k rc x dj plus = .error (1, rBase rc) :=
  if_pos h

theorem check1_format (h : rSpace rc < 3) (hf : rFmt rc ∉ k.fmts) (x : W32) (dj plus : Nat) :
    s.check1 k rc x dj plus = .error (2, BitVec.ofNat 64 (rFmt rc)) := by
  unfold State.check1
  rw [if_neg (by omega), if_pos (by simpa using hf)]

theorem check_bad (x ext : Nat) : check x ext 0 = if ext ≤ x then .bad else .idx x := by
  unfold check
  by_cases h : x < ext
  · rw [if_pos h, if_neg (by omega)]
  · rw [if_neg h]
    exact (if_pos (by omega)).symm

/-- The conditions after the bounds have a later rank. -/
theorem late_rank {α : Type} {a b c d : Prop} [Decidable a] [Decidable b] [Decidable c] [Decidable d] {v : W64} {r : α}
    {e : Nat × W64} (h : (if a then .error (4, v) else if b then .error (5, v) else if c then .error (5, v)
      else if d then .error (6, v) else .ok r : Except (Nat × W64) α) = .error e) : 4 ≤ e.1 := by
  split at h
  · cases h; exact le_rfl
  split at h
  · cases h; norm_num
  split at h
  · cases h; norm_num
  split at h
  · cases h; norm_num
  · cases h

/-- With BCHK 0 an index outside fails the bounds check, and one inside only a later one. -/
theorem check1_bounds (h : rSpace rc < 3) (hf : rFmt rc ∈ k.fmts) (hb : rBchk rc = 0) (x : W32) (dj plus : Nat) :
    (rExt0 rc ≤ x.toNat % 2 ^ 20 + dj ∨ rExt1 rc ≤ x.toNat / 2 ^ 20 →
      s.check1 k rc x dj plus = .error (3, x.zeroExtend 64)) ∧
    (¬ (rExt0 rc ≤ x.toNat % 2 ^ 20 + dj ∨ rExt1 rc ≤ x.toNat / 2 ^ 20) →
      ∀ e, s.check1 k rc x dj plus = .error e → 4 ≤ e.1) := by
  unfold State.check1
  rw [if_neg (by omega), if_neg (by simpa using hf), hb, check_bad, check_bad]
  refine ⟨fun ho => ?_, fun ho e => ?_⟩
  · by_cases h0 : rExt0 rc ≤ x.toNat % 2 ^ 20 + dj
    · rw [if_pos h0]
    · rw [if_neg h0, if_pos (ho.resolve_left h0)]
  · rw [not_or] at ho
    rw [if_neg ho.1, if_neg ho.2]
    exact late_rank

end

/-! The words of an instruction, in thread order. -/

theorem actThreads_sorted (s : State) : s.actThreads.Pairwise (fun a b => a ≤ b) :=
  (List.pairwise_le_range).filter _

theorem words1_sorted (s : State) : s.words1.Pairwise (fun w v => w.t ≤ v.t) := (actThreads_sorted s).map _ (fun _ _ h => h)

theorem words4_sorted (s : State) (n : Nat) : (s.words4 n).Pairwise (fun w v => w.t ≤ v.t) := by
  unfold State.words4
  refine List.pairwise_flatMap.2 ⟨fun t _ => ?_, (actThreads_sorted s).imp (fun {a b} h w hw v hv => ?_)⟩
  · exact List.pairwise_map.2 (List.pairwise_of_forall (fun _ _ => le_rfl))
  · obtain ⟨_, -, rfl⟩ := List.mem_map.1 hw
    obtain ⟨_, -, rfl⟩ := List.mem_map.1 hv
    exact h

theorem mem_words1 {s : State} {t : Nat} : (∃ w ∈ s.words1, w.t = t) ↔ t < 16 ∧ s.g.r.exm.getLsbD t = true := by
  rw [← mem_actThreads, State.words1]
  simp

theorem mem_words4 {s : State} {n t : Nat} : (∃ w ∈ s.words4 n, w.t = t) ↔ t < 16 ∧ s.g.r.exm.getLsbD t = true := by
  rw [← mem_actThreads, State.words4]
  simp only [List.mem_flatMap, List.mem_map, List.mem_range]
  constructor
  · rintro ⟨w, ⟨u, hu, k, -, rfl⟩, rfl⟩; exact hu
  · intro h; exact ⟨_, ⟨t, h, 0, by norm_num, rfl⟩, rfl⟩

end Sys2Proof.Machine

namespace Sys2Proof.Claims

open Sys2Proof.Machine Sys2Proof.Safety

section
variable {s x : State} {d : BitVec 7} {a b c : Sel} {op : AOp} {k : BitVec 4} {sc : Scope} {o : Order} {rc : BitVec 256}
  {i : Instr} {sels : List Sel} {dests : List DReg} {kind : LKind} {ws : List LWord} {len : Nat}

/-- The six lane memory instructions with a record `rc`: sources, destinations, what they ask of their accesses, their words
and their bytes. -/
def laneMems (x : State) (d : BitVec 7) (a b c : Sel) (op : AOp) (k : BitVec 4) (sc : Scope) (o : Order) (rc : BitVec 256) :
    List (Instr × List Sel × List DReg × LKind × List LWord × Nat) :=
  [(Instr.ldl d a k sc o, [a], [DReg.v d.toNat], loadKind (recBytes rc) o, x.words1, 4),
   (Instr.stl d a k sc o, [a, ⟨.v d, false⟩], [], storeKind (recBytes rc) o, x.words1, 4),
   (Instr.ldv d a k sc o, [a], (List.range 4).map (fun i => DReg.v (d.toNat + i)), load4Kind o, x.words4 (recBytes rc), 4),
   (Instr.stv d a k sc o, [a] ++ (List.range 4).map (fun i => ⟨.v (d + BitVec.ofNat 7 i), false⟩), [], store4Kind o,
     x.words4 (recBytes rc), 4),
   (Instr.red op a b k sc o, [a, b], [], atomKind o, x.words1, 8),
   (Instr.atom op d a b c k sc o, [a, b] ++ (if op = .cas then [c] else []), [DReg.v d.toNat], atomKind o, x.words1, 8)]

/-- What a load does once it is ready. -/
def loadBody (nw n : Nat) (k : LKind) (ws : State → List LWord) (d : BitVec 7) (a : Sel) (b : BitVec 4) (sc : Scope)
    (o : Order) (ext : BitVec 256 → W32 → W32) (x : State) : Res :=
  let rc := x.g.r.getB b.toNat
  let sp := rSpace rc
  match x.checkAll k rc (x.laneVal a.src) (ws x) with
  | .error t => .trap t x
  | .ok cs =>
    if sp ≠ 0 ∧ x.pathRoom (spacePath sp) = false then .block .counter x
    else match (if sp = 2 then x.checkedLine cs else none) with
    | some ad => .trap (Trap.mk2 0x17 (BitVec.ofNat 64 ad)) x
    | none =>
      let r := x.loads sp n (decide (o ≠ .plain)) cs
      let y := r.2.promotes sp o sc cs
      let val := fun i t => ext rc (loaded r.1 i t)
      let chk := sp = 2 ∧ cs.any (fun c => match c.at? with
        | some ad => (x.die (dieOf x.cn)).chk (ad / 4096)
        | none => false) = true
      if sp = 0 ∨ chk then
        .ok ((List.range nw).foldl (fun st i => st.setLanes (d + BitVec.ofNat 7 i) (val i)) y)
      else
        .ok (y.produce ⟨(List.range nw).map (fun i =>
          Dest.v (d.toNat + i) x.g.r.exm ((List.range 16).map (val i))), some (spacePath sp), none⟩)

/-- What a store does once it is ready. -/
def storeBody (n : Nat) (k : LKind) (ws : State → List LWord) (d : BitVec 7) (a : Sel) (b : BitVec 4) (sc : Scope)
    (o : Order) (x : State) : Res :=
  let rc := x.g.r.getB b.toNat
  let sp := rSpace rc
  match x.checkAll k rc (x.laneVal a.src) (ws x) with
  | .error t => .trap t x
  | .ok cs =>
    if isRel o && !x.released sc then .block .stores x
    else if x.pathRoom (spacePath sp) = false then .block .counter x
    else .ok ((x.stores sp n (decide (o ≠ .plain)) (teamRel o sc) (fun t i => x.g.r.getV (d.toNat + i) t) cs).count1 sp)

/-- What ATOM does once it is ready. -/
def atomBody (op : AOp) (d : BitVec 7) (a b c : Sel) (k : BitVec 4) (sc : Scope) (o : Order) (x : State) : Res :=
  let rc := x.g.r.getB k.toNat
  let sp := rSpace rc
  match x.checkAll (atomKind o) rc (x.laneVal a.src) x.words1 with
  | .error t => .trap t x
  | .ok cs =>
    if isRel o && !x.released sc then .block .stores x
    else if x.pathRoom (spacePath sp) = false then .block .counter x
    else
      let r := (x.promotes sp o sc cs).atoms sp op (teamRel o sc) (x.laneVal b.src) (x.laneVal c.src) cs
      .ok (r.2.setLanes d (loaded r.1 0))

/-- What RED does once it is ready. -/
def redBody (op : AOp) (a b : Sel) (k : BitVec 4) (sc : Scope) (o : Order) (x : State) : Res :=
  let rc := x.g.r.getB k.toNat
  let sp := rSpace rc
  match x.checkAll (atomKind o) rc (x.laneVal a.src) x.words1 with
  | .error t => .trap t x
  | .ok cs =>
    if isRel o && !x.released sc then .block .stores x
    else if x.pathRoom (spacePath sp) = false then .block .counter x
    else .ok ((x.reds sp op (teamRel o sc) (x.laneVal b.src) cs).count1 sp)

theorem exec_ldl (s : State) (d : BitVec 7) (a : Sel) (k : BitVec 4) (sc : Scope) (o : Order) :
    exec (.ldl d a k sc o) s = run 4 s [a] [.v d.toNat] (loadBody 1 (recBytes (s.g.r.getB k.toNat))
      (loadKind (recBytes (s.g.r.getB k.toNat)) o) State.words1 d a k sc o extend8) := rfl

theorem exec_ldv (s : State) (d : BitVec 7) (a : Sel) (k : BitVec 4) (sc : Scope) (o : Order) :
    exec (.ldv d a k sc o) s = run 4 s [a] ((List.range 4).map (fun i => DReg.v (d.toNat + i))) (loadBody 4 4
      (load4Kind o) (fun x => x.words4 (recBytes (s.g.r.getB k.toNat))) d a k sc o (fun _ v => v)) := rfl

theorem exec_stl (s : State) (d : BitVec 7) (a : Sel) (k : BitVec 4) (sc : Scope) (o : Order) :
    exec (.stl d a k sc o) s = run 4 s [a, ⟨.v d, false⟩] [] (storeBody (recBytes (s.g.r.getB k.toNat))
      (storeKind (recBytes (s.g.r.getB k.toNat)) o) State.words1 d a k sc o) := by
  have h : exec (.stl d a k sc o) s = run 4 s [a, ⟨.v (d + BitVec.ofNat 7 0), false⟩] [] (storeBody
      (recBytes (s.g.r.getB k.toNat)) (storeKind (recBytes (s.g.r.getB k.toNat)) o) State.words1 d a k sc o) := rfl
  rw [h, show d + BitVec.ofNat 7 0 = d from BitVec.add_zero d]

theorem exec_stv (s : State) (d : BitVec 7) (a : Sel) (k : BitVec 4) (sc : Scope) (o : Order) :
    exec (.stv d a k sc o) s = run 4 s ([a] ++ (List.range 4).map (fun i => ⟨.v (d + BitVec.ofNat 7 i), false⟩)) []
      (storeBody 4 (store4Kind o) (fun x => x.words4 (recBytes (s.g.r.getB k.toNat))) d a k sc o) := rfl

theorem exec_atom (s : State) (op : AOp) (d : BitVec 7) (a b c : Sel) (k : BitVec 4) (sc : Scope) (o : Order) :
    exec (.atom op d a b c k sc o) s = run 8 s ([a, b] ++ (if op = .cas then [c] else [])) [.v d.toNat]
      (atomBody op d a b c k sc o) := rfl

theorem exec_red (s : State) (op : AOp) (a b : Sel) (k : BitVec 4) (sc : Scope) (o : Order) :
    exec (.red op a b k sc o) s = run 8 s [a, b] [] (redBody op a b k sc o) := rfl

/-- A lane memory instruction is a run whose body raises what its checks find. -/
theorem laneMem_body (hrc : rc = s.g.r.getB k.toNat) (hx : x.g.r.getB k.toNat = rc)
    (hi : (i, sels, dests, kind, ws, len) ∈ laneMems x d a b c op k sc o rc) : ∃ body, exec i s = run len s sels dests body ∧
      ∀ t, x.checkAll kind rc (x.laneVal a.src) ws = .error t → body x = .trap t x := by
  simp only [laneMems, List.mem_cons, List.not_mem_nil, or_false, Prod.mk.injEq] at hi
  rcases hi with ⟨rfl, rfl, rfl, rfl, rfl, rfl⟩ | ⟨rfl, rfl, rfl, rfl, rfl, rfl⟩ | ⟨rfl, rfl, rfl, rfl, rfl, rfl⟩ |
    ⟨rfl, rfl, rfl, rfl, rfl, rfl⟩ | ⟨rfl, rfl, rfl, rfl, rfl, rfl⟩ | ⟨rfl, rfl, rfl, rfl, rfl, rfl⟩
  · exact ⟨_, exec_ldl .., fun t h => by rw [← hrc, loadBody, hx, h]⟩
  · exact ⟨_, exec_stl .., fun t h => by rw [← hrc, storeBody, hx, h]⟩
  · exact ⟨_, exec_ldv .., fun t h => by rw [← hrc, loadBody, hx, h]⟩
  · exact ⟨_, exec_stv .., fun t h => by rw [← hrc, storeBody, hx, h]⟩
  · exact ⟨_, exec_red .., fun t h => by rw [redBody, hx, h]⟩
  · exact ⟨_, exec_atom .., fun t h => by rw [atomBody, hx, h]⟩

/-- The words of the six, and their kinds' formats. -/
theorem laneMem_words (hi : (i, sels, dests, kind, ws, len) ∈ laneMems x d a b c op k sc o rc) :
    ws.Pairwise (fun w v => w.t ≤ v.t) ∧ ∀ u, (∃ w ∈ ws, w.t = u) ↔ u < 16 ∧ x.g.r.exm.getLsbD u = true := by
  simp only [laneMems, List.mem_cons, List.not_mem_nil, or_false, Prod.mk.injEq] at hi
  have h1 := words1_sorted x
  have h4 := words4_sorted x (recBytes rc)
  rcases hi with ⟨-, -, -, -, rfl, -⟩ | ⟨-, -, -, -, rfl, -⟩ | ⟨-, -, -, -, rfl, -⟩ | ⟨-, -, -, -, rfl, -⟩ |
    ⟨-, -, -, -, rfl, -⟩ | ⟨-, -, -, -, rfl, -⟩
  exacts [⟨h1, fun _ => mem_words1⟩, ⟨h1, fun _ => mem_words1⟩, ⟨h4, fun _ => mem_words4⟩, ⟨h4, fun _ => mem_words4⟩,
    ⟨h1, fun _ => mem_words1⟩, ⟨h1, fun _ => mem_words1⟩]

/-- A lane memory instruction that fails a check traps. -/
theorem laneMem_traps (hrc : rc = s.g.r.getB k.toNat) (he : Enters s)
    (hi : (i, sels, dests, kind, ws, len) ∈ laneMems x d a b c op k sc o rc) (hr : Runs s sels dests x) {tr : Trap}
    (ht : x.checkAll kind rc (x.laneVal a.src) ws = .error tr) :
    ∃ t, exec i s = .next t ∧ Entered [] s t tr.cause tr.sub tr.val tr.mask s.g.r.exm s.g.r.pc := by
  obtain ⟨ha, -, -⟩ := ready_ok hr.1
  obtain ⟨body, hex, hb⟩ := laneMem_body hrc (by rw [ha.r, hrc]; rfl) hi
  obtain ⟨h5, h10⟩ := checkAll_cause ht
  obtain ⟨t, ht, hent⟩ := run_trap (len := len) hr.1 (hb tr ht) he (by omega) (by omega) (by omega)
  exact ⟨t, hex.trans ht, hent⟩

/-- Where every access fails the same condition, that one tells, and TMASK is the active threads. -/
theorem checkAll_all {m : Nat} {v : W64} (hs : ws.Pairwise (fun w v => w.t ≤ v.t))
    (hw : ∀ u, (∃ w ∈ ws, w.t = u) ↔ u < 16 ∧ x.g.r.exm.getLsbD u = true) (hne : x.g.r.exm ≠ 0)
    (hall : ∀ (y : W32) dj plus, x.check1 kind rc y dj plus = .error (m, v)) :
    x.checkAll kind rc (x.laneVal a.src) ws = .error ⟨rankCause m, 0, v, x.g.r.exm⟩ := by
  obtain ⟨u, hu, hb⟩ : ∃ u < 16, x.g.r.exm.getLsbD u = true := by
    by_contra hn
    refine hne (BitVec.eq_of_getLsbD_eq fun u hu => ?_)
    simpa using fun hb => hn ⟨u, hu, hb⟩
  obtain ⟨w0, hw0, -⟩ := (hw u).2 ⟨hu, hb⟩
  obtain ⟨w, v', mask, -, hv, -, he, hm⟩ := checkAll_least (s := x) (k := kind) (rc := rc) (idx := x.laneVal a.src) (m := m) hs
    (fun w _ e he => by rw [hall] at he; cases he; exact le_rfl) ⟨w0, hw0, v, hall ..⟩
  rw [hall] at hv
  cases hv
  have hmask : mask = x.g.r.exm := BitVec.eq_of_getLsbD_eq fun t ht => by
    rw [Bool.eq_iff_iff, hm t ht]
    constructor
    · rintro ⟨u, hu, hut, -⟩; exact ((hw t).1 ⟨u, hu, hut⟩).2
    · intro hb
      obtain ⟨u, hu, hut⟩ := (hw t).2 ⟨ht, hb⟩
      exact ⟨u, hu, hut, v, hall ..⟩
  rw [he, hmask]

/-- Some word of a thread has its row or element outside the record. -/
def outside (rc : BitVec 256) (idx : Nat → W32) (ws : List LWord) (th : Nat) : Bool :=
  ws.any (fun w => decide (w.t = th) &&
    (decide (rExt0 rc ≤ (idx th).toNat % 2 ^ 20 + w.dj) || decide (rExt1 rc ≤ (idx th).toNat / 2 ^ 20)))

theorem outside_iff {idx : Nat → W32} {th : Nat} : outside rc idx ws th = true ↔ ∃ w ∈ ws, w.t = th ∧
    (rExt0 rc ≤ (idx th).toNat % 2 ^ 20 + w.dj ∨ rExt1 rc ≤ (idx th).toNat / 2 ^ 20) := by
  simp [outside]

/-- With BCHK 0 the threads with an index outside take the bounds fault, and the lowest of them gives TADDR. -/
theorem checkAll_bounds {idx : Nat → W32} (hs : ws.Pairwise (fun w v => w.t ≤ v.t)) (hsp : rSpace rc < 3)
    (hf : rFmt rc ∈ kind.fmts) (hb : rBchk rc = 0) {th : Nat} (ho : outside rc idx ws th = true)
    (hlow : ∀ u, u < th → outside rc idx ws u = false) : ∃ mask, x.checkAll kind rc idx ws =
      .error ⟨7, 0, (idx th).zeroExtend 64, mask⟩ ∧ ∀ u, u < 16 → mask.getLsbD u = outside rc idx ws u := by
  have hin := fun (y : W32) dj plus => check1_bounds (s := x) hsp hf hb y dj plus
  have hiff : ∀ (w : LWord) v, x.check1 kind rc (idx w.t) w.dj w.plus = .error (3, v) ↔
      (rExt0 rc ≤ (idx w.t).toNat % 2 ^ 20 + w.dj ∨ rExt1 rc ≤ (idx w.t).toNat / 2 ^ 20) ∧
        v = (idx w.t).zeroExtend 64 := fun w v => by
    obtain ⟨h1, h2⟩ := hin (idx w.t) w.dj w.plus
    constructor
    · intro h
      by_cases hc : rExt0 rc ≤ (idx w.t).toNat % 2 ^ 20 + w.dj ∨ rExt1 rc ≤ (idx w.t).toNat / 2 ^ 20
      · rw [h1 hc] at h
        cases h
        exact ⟨hc, rfl⟩
      · exact absurd (h2 hc _ h) (by norm_num)
    · rintro ⟨hc, rfl⟩
      exact h1 hc
  obtain ⟨w0, hw0, rfl, hc0⟩ := outside_iff.1 ho
  obtain ⟨w, v, mask, hw, hv, hleast, he, hm⟩ := checkAll_least (s := x) (k := kind) (rc := rc) (idx := idx) (m := 3) hs
    (fun w _ e hwe => by
      by_cases hc : rExt0 rc ≤ (idx w.t).toNat % 2 ^ 20 + w.dj ∨ rExt1 rc ≤ (idx w.t).toNat / 2 ^ 20
      · rw [(hin ..).1 hc] at hwe
        cases hwe
        exact le_rfl
      · exact ((hin ..).2 hc e hwe).trans' (by norm_num)) ⟨w0, hw0, _, (hiff w0 _).2 ⟨hc0, rfl⟩⟩
  obtain ⟨hcw, rfl⟩ := (hiff w v).1 hv
  have hwt : w.t = w0.t := by
    refine le_antisymm (hleast w0 hw0 ⟨_, (hiff w0 _).2 ⟨hc0, rfl⟩⟩) (not_lt.1 fun hlt => ?_)
    have := hlow w.t hlt
    rw [outside_iff.2 ⟨w, hw, rfl, hcw⟩] at this
    cases this
  refine ⟨mask, by rw [he, hwt]; rfl, fun u hu => ?_⟩
  rw [Bool.eq_iff_iff, hm u hu, outside_iff]
  constructor
  · rintro ⟨y, hy, rfl, v, hyv⟩; exact ⟨y, hy, rfl, ((hiff y v).1 hyv).1⟩
  · rintro ⟨y, hy, rfl, hc⟩; exact ⟨y, hy, rfl, _, (hiff y _).2 ⟨hc, rfl⟩⟩

end

/-- Settles O24: the trap of a failed check, by the least rank that an access fails. -/
theorem accessChecks : Obligations.AccessChecks := by
  intro s x d a b c op k sc o rc i sels dests kind ws len hrc he hi hr
  obtain ⟨hs, hw⟩ := laneMem_words hi
  refine ⟨fun tr htr => laneMem_traps hrc he hi hr htr, fun hne hsp => ?_, fun hne hsp hf => ?_,
    fun th hsp hf hb hth ho hlow => ?_⟩
  · obtain ⟨t, ht, hent⟩ := laneMem_traps hrc he hi hr (checkAll_all hs hw hne fun y dj plus => check1_space hsp y dj plus)
    exact ⟨t, ht, hent⟩
  · obtain ⟨t, ht, hent⟩ := laneMem_traps hrc he hi hr (checkAll_all hs hw hne fun y dj plus => check1_format hsp hf y dj plus)
    exact ⟨t, ht, hent⟩
  · obtain ⟨mask, hc, hm⟩ := checkAll_bounds (x := x) hs hsp hf hb ho hlow
    obtain ⟨t, ht, hent⟩ := laneMem_traps hrc he hi hr hc
    exact ⟨t, mask, ht, hent, hm⟩

end Sys2Proof.Claims
end

section
/-! What the accesses of threads to tile memory and to the die scratchpad leave alone (07 R154 to R165; 04 R91 to R97;
13 R338, R344, R345). -/

namespace Sys2Proof.Machine

open Sys2Proof.Claims Sys2Proof.Safety

/-! Accesses to the scratchpad change the dies and the cores' segment caches alone. -/

theorem fillSeg_segsOnly (s : State) (core seg : Nat) (soft : Bool) : SegsOnly s (s.fillSeg core seg soft) := by
  obtain ⟨bytes, he⟩ := fillSeg_eq s core seg soft
  have hroom : SegsOnly s (s.makeRoom core) := by
    unfold State.makeRoom
    split
    · split
      · exact (evictSeg_dropped ..).only
      · exact .refl s
    · exact .refl s
  rw [he]
  exact hroom.trans (segsOnly_modCore _ _ (fun l => ⟨seg, soft, bytes, [], []⟩ :: l))

theorem useSeg_segsOnly (s : State) (core seg : Nat) (soft : Bool) : SegsOnly s (s.useSeg core seg soft) := by
  unfold State.useSeg
  split
  · next c _ =>
    split
    · exact segsOnly_modCore s core (fun l => c :: l.filter (fun x => decide (x.seg ≠ seg)))
    · exact (evictSeg_dropped ..).only.trans (fillSeg_segsOnly ..)
  · exact fillSeg_segsOnly ..

theorem dirRead_segsOnly (s : State) (core seg : Nat) : SegsOnly s (s.dirRead core seg) := by
  rw [dirRead_eq]
  exact ((combineSeg_dropped ..).only.trans (segsOnly_modDie ..)).trans (useSeg_segsOnly ..)

theorem dirWrite_segsOnly (s : State) (core seg : Nat) : SegsOnly s (s.dirWrite core seg) := by
  rw [dirWrite_eq]
  refine (SegsOnly.trans ?_ (segsOnly_modDie ..)).trans (useSeg_segsOnly ..)
  exact (combineSeg_dropped s (dieOf core) seg).only.trans (keepSegsAll_dropped seg ..).only

theorem softSeg_segsOnly (s : State) (core a n : Nat) : SegsOnly s (s.softSeg core a n) :=
  (useSeg_segsOnly s core (a / 4096) true).trans (segsOnly_modCore _ core (fun l => l.map fun x =>
    if x.seg = a / 4096 then x.refill ((s.useSeg core (a / 4096) true).die (dieOf core)).spad a n else x))

theorem dropLine_segsOnly (s : State) (core a : Nat) : SegsOnly s (s.dropLine core a) := by
  unfold State.dropLine
  split
  · exact .refl s
  · exact (segsOnly_modDie ..).trans (segsOnly_modCore _ _ (fun l => l.map fun x =>
      if x.seg = a / 4096 then
        { x with
          dirty := x.dirty.filter (fun y => decide (y / 128 ≠ a / 128))
          gone := if x.gone.contains (a / 128) then x.gone else a / 128 :: x.gone }
      else x))

theorem spadRead_segsOnly (s : State) (core a n : Nat) : SegsOnly s (s.spadRead core a n).2 := by
  unfold State.spadRead
  simp only
  split
  · split <;> exact softSeg_segsOnly ..
  · exact dirRead_segsOnly ..

theorem spadReadS_segsOnly (s : State) (core a n : Nat) : SegsOnly s (s.spadReadS core a n).2 := by
  unfold State.spadReadS
  split
  · exact dropLine_segsOnly ..
  · exact spadRead_segsOnly ..

theorem spadWrite_segsOnly (s : State) (core a : Nat) (bs : List Byte) : SegsOnly s (s.spadWrite core a bs) := by
  unfold State.spadWrite
  simp only
  split
  · exact ((softSeg_segsOnly ..).trans (segsOnly_modCore _ _ (fun l => l.map fun x =>
      if x.seg = a / 4096 then x.put a bs else x))).trans (segsOnly_modDie ..)
  · exact (dirWrite_segsOnly ..).trans (segsOnly_modDie ..)

theorem spadWriteS_segsOnly (s : State) (core a : Nat) (bs : List Byte) : SegsOnly s (s.spadWriteS core a bs) := by
  unfold State.spadWriteS
  split
  · exact (dropLine_segsOnly ..).trans (segsOnly_modDie ..)
  · exact spadWrite_segsOnly ..

/-- What a RED finds: a U episode of another operation has ended (04 R93). -/
def State.redReady (s : State) (core seg : Nat) (op : AOp) : State :=
  match tget DirSt.i (s.die (dieOf core)).dir seg with
  | .u o => if o = op then s else s.combineSeg (dieOf core) seg
  | _ => s

/-- A RED performed: as an atomic on a segment that a core holds, otherwise into a partial. -/
def State.redDone (s : State) (core a : Nat) (op : AOp) (v : W32) : State :=
  match tget DirSt.i (s.die (dieOf core)).dir (a / 4096) with
  | .s _ | .o _ =>
    (s.dirWrite core (a / 4096)).modDie (dieOf core) (fun x =>
      { x with spad := mput x.spad a 4 (aop op (BitVec.ofNat 32 (mnum x.spad a 4)) v 0).toNat })
  | _ =>
    (s.modDie (dieOf core) (fun x =>
      { x with
        dir := tset DirSt.i x.dir (a / 4096) (.u op)
        parts := tset [] x.parts (a / 4096) (addPart (tget [] x.parts (a / 4096)) core (a % 4096) op v) })).useSeg core
          (a / 4096) false

theorem dirRed_eq (s : State) (core a : Nat) (op : AOp) (v : W32) :
    s.dirRed core a op v = (s.redReady core (a / 4096) op).redDone core a op v := rfl

theorem dirRed_segsOnly (s : State) (core a : Nat) (op : AOp) (v : W32) : SegsOnly s (s.dirRed core a op v) := by
  have h : SegsOnly s (s.redReady core (a / 4096) op) := by
    unfold State.redReady
    split
    · split
      · exact .refl s
      · exact (combineSeg_dropped ..).only
    · exact .refl s
  rw [dirRed_eq]
  generalize s.redReady core (a / 4096) op = u at h
  have hw : SegsOnly s (u.dirWrite core (a / 4096)) := h.trans (dirWrite_segsOnly u core (a / 4096))
  unfold State.redDone
  split
  · exact hw.trans (segsOnly_modDie ..)
  · exact hw.trans (segsOnly_modDie ..)
  · exact (h.trans (segsOnly_modDie ..)).trans (useSeg_segsOnly ..)

/-! The frame of an access. -/

/-- Between `s` and `t` threads have made accesses: memory of tiles and dies, segment caches, whether a stream's staging has
lost its contents, the notes on release writes (13 R344) and free values alone have changed. -/
structure Accessed (s t : State) : Prop where
  rest : { t with groups := [], cores := [], dies := [], rels := [], free := 0 } =
    { s with groups := [], cores := [], dies := [], rels := [], free := 0 }
  grp : ∀ k, { t.grp k with s0 := Stream.reset, s1 := Stream.reset } = { s.grp k with s0 := Stream.reset, s1 := Stream.reset }
  core : ∀ c, { t.core c with tile := [], side := [], mdw := [], segs := [] } =
    { s.core c with tile := [], side := [], mdw := [], segs := [] }

theorem Accessed.refl (s : State) : Accessed s s := ⟨rfl, fun _ => rfl, fun _ => rfl⟩

theorem Accessed.trans {s t u : State} (h : Accessed s t) (k : Accessed t u) : Accessed s u :=
  ⟨k.rest.trans h.rest, fun c => (k.grp c).trans (h.grp c), fun c => (k.core c).trans (h.core c)⟩

theorem Stored.accessed {s t : State} (h : Stored s t) : Accessed s t :=
  ⟨(congrArg (fun (z : State) => { z with dies := [], rels := [], free := 0 }) h.rest :), h.grp,
    fun c => (congrArg (fun (z : Core) => { z with segs := [] }) (h.core c) :)⟩

theorem SegsOnly.accessed {s t : State} (h : SegsOnly s t) : Accessed s t := by
  have hg : t.groups = s.groups := (congrArg State.groups h.rest :)
  refine ⟨?_, fun k => by rw [State.grp, State.grp, hg], fun c => ?_⟩
  · exact (congrArg (fun (z : State) => { z with groups := [], cores := [], dies := [], rels := [], free := 0 }) h.rest :)
  · exact (congrArg (fun (z : Core) => { z with tile := [], side := [], mdw := [] }) (h.core c) :)

theorem accessed_rels (s : State) (l : List ((Nat × Nat × Nat) × Option W32 × Nat × BitVec 13)) :
    Accessed s { s with rels := l } := ⟨rfl, fun _ => rfl, fun _ => rfl⟩

theorem noteRel_accessed (s : State) (sp a : Nat) (rel rmw : Bool) : Accessed s (s.noteRel sp a rel rmw) := accessed_rels s _

theorem freeBytes_accessed (n : Nat) (s : State) : Accessed s (s.freeBytes n).2 := by
  induction n generalizing s with
  | zero => exact .refl s
  | succ n ih =>
    have h : Accessed s s.draw.2 := ⟨rfl, fun _ => rfl, fun _ => rfl⟩
    exact h.trans (ih _)

theorem lread_accessed (s : State) (sp a n : Nat) (strong : Bool) : Accessed s (s.lread sp a n strong).2 := by
  unfold State.lread
  split
  · split
    · exact (spadReadS_segsOnly ..).accessed
    · exact (spadRead_segsOnly ..).accessed
  · split
    · exact .refl s
    · split
      · exact freeBytes_accessed ..
      · exact .refl s

theorem lwrite_accessed (s : State) (sp a : Nat) (bs : List Byte) (strong : Bool) :
    Accessed s (s.lwrite sp a bs strong) := by
  unfold State.lwrite
  split
  · split
    · exact (spadWriteS_segsOnly ..).accessed
    · exact (spadWrite_segsOnly ..).accessed
  · split
    · exact .refl s
    · exact (tstore_stored ..).accessed

theorem lrmw_accessed (s : State) (sp a : Nat) (f : W32 → W32) : Accessed s (s.lrmw sp a f).2 := by
  unfold State.lrmw
  simp only
  split
  · split
    · dsimp only
      exact ((dropLine_segsOnly s s.cn a).trans (segsOnly_modDie _ _ _)).accessed
    · dsimp only
      exact ((dirWrite_segsOnly s s.cn (a / 4096)).trans (segsOnly_modDie _ _ _)).accessed
  · exact (lread_accessed ..).trans (lwrite_accessed ..)

theorem promotes_accessed (s : State) (sp : Nat) (o : Order) (sc : Scope) (cs : List LAcc) :
    Accessed s (s.promotes sp o sc cs) := by
  have hfold : ∀ {α : Type} (f : State → α → State) (_ : ∀ s x, Accessed s (f s x)) (l : List α) (s : State),
      Accessed s (l.foldl f s) := fun f hf l => by
    induction l with
    | nil => exact fun s => .refl s
    | cons x l ih => exact fun s => (hf s x).trans (ih _)
  unfold State.promotes
  split
  · refine hfold _ (fun s a => ?_) _ _
    unfold State.promote
    exact hfold _ (fun s r => (flushSpad_flushed ..).1.only.accessed) _ _
  · exact .refl s

theorem stores_accessed (sp n : Nat) (strong rel : Bool) (val : Nat → Nat → W32) (cs : List LAcc) (s : State) :
    Accessed s (s.stores sp n strong rel val cs) := by
  induction cs generalizing s with
  | nil => exact .refl s
  | cons c cs ih =>
    unfold State.stores
    split
    · exact ih s
    · exact ((lwrite_accessed ..).trans (noteRel_accessed ..)).trans (ih _)

theorem atoms_accessed (sp : Nat) (op : AOp) (rel : Bool) (v c : Nat → W32) (cs : List LAcc) (s : State) :
    Accessed s (s.atoms sp op rel v c cs).2 := by
  induction cs generalizing s with
  | nil => exact .refl s
  | cons x cs ih =>
    unfold State.atoms
    split
    · exact ih s
    · exact ((lrmw_accessed ..).trans (noteRel_accessed ..)).trans (ih _)

theorem reds_accessed (sp : Nat) (op : AOp) (rel : Bool) (v : Nat → W32) (cs : List LAcc) (s : State) :
    Accessed s (s.reds sp op rel v cs) := by
  induction cs generalizing s with
  | nil => exact .refl s
  | cons x cs ih =>
    unfold State.reds
    split
    · exact ih s
    · next a _ =>
      simp only
      refine Accessed.trans (Accessed.trans ?_ (noteRel_accessed ..)) (ih _)
      split
      · exact (dirRed_segsOnly ..).accessed
      · exact lrmw_accessed ..

/-- Where the group at issue runs, its registers and its counters stay. -/
theorem Accessed.kept {s t : State} (h : Accessed s t) : t.cur = s.cur ∧ t.teams = s.teams ∧ t.launches = s.launches ∧
    t.cn = s.cn ∧ t.g.live = s.g.live ∧ t.g.r = s.g.r ∧ t.g.sys = s.g.sys ∧ t.g.y = s.g.y := by
  have hc : t.cur = s.cur := (congrArg State.cur h.rest :)
  have ht : t.teams = s.teams := (congrArg State.teams h.rest :)
  have hg := h.grp s.cur
  refine ⟨hc, ht, (congrArg State.launches h.rest :), ?_, ?_⟩
  · simp only [State.cn, State.coreNoG, State.teamG, State.team, hc, ht]
  · rw [State.g, hc]
    exact ⟨(congrArg Group.live hg :), (congrArg Group.r hg :), (congrArg Group.sys hg :), (congrArg Group.y hg :)⟩

/-- The places of addresses depend on the teams and launches alone. -/
theorem Accessed.localLoc {s t : State} (h : Accessed s t) (tk sp a n : Nat) :
    t.localLoc tk sp a n = s.localLoc tk sp a n := by
  obtain ⟨-, ht, hl, -⟩ := h.kept
  have hteam : ∀ k, t.team k = s.team k := fun k => by rw [State.team, State.team, ht]
  have hlaunch : ∀ k, t.launch k = s.launch k := fun k => by unfold State.launch; rw [hl]
  have htile : ∀ k a, t.tileLoc k a n = s.tileLoc k a n := fun k a => by
    simp only [State.tileLoc, hteam, hlaunch]
  have hrank : ∀ r, t.rankTeam tk r = s.rankTeam tk r := fun r => by
    simp only [State.rankTeam, hteam, hlaunch, ht]
  simp only [State.localLoc, State.clusterLoc, htile, hrank]

/-! The count of an access of space 1 (04 R107). -/

theorem only_count1 (s : State) (sp : Nat) : Only s (s.count1 sp) := by
  unfold State.count1
  split
  · exact (only_modG s (fun g => { g with y := { g.y with pend := g.y.pend ++ [⟨[], some 1, none⟩] } })).trans
      (only_modG _ (fun g => { g with y := g.y.setPath 1 (g.y.path 1 + 1) }))
  · exact .refl s

theorem count1_g (s : State) (sp : Nat) : (s.count1 sp).g = { s.g with y := { s.g.y with
    pend := s.g.y.pend ++ (if sp = 1 then [⟨[], some 1, none⟩] else [])
    paths := if sp = 1 then tset 0 s.g.y.paths 1 (s.g.y.path 1 + 1) else s.g.y.paths } } := by
  unfold State.count1
  by_cases h : sp = 1
  · have he : s.issuePend s.cur ⟨[], some 1, none⟩ =
        (s.modG (fun g => { g with y := { g.y with pend := g.y.pend ++ [⟨[], some 1, none⟩] } })).modG
          (fun g => { g with y := g.y.setPath 1 (g.y.path 1 + 1) }) := rfl
    rw [if_pos h, if_pos h, if_pos h, he, State.modG_g, State.modG_g]
    rfl
  · rw [if_neg h, if_neg h, if_neg h, List.append_nil]

end Sys2Proof.Machine
end

section
/-! Stores to tile memory, to cluster tile memory and to the die scratchpad (07 R158 to R161; 04 R91 to R93; 13 R339; O22). -/

namespace Sys2Proof.Machine

open Sys2Proof.Claims Sys2Proof.Safety

/-! What stores do not reach. -/

theorem lwrite_free (s : State) (sp a : Nat) (bs : List Byte) (strong : Bool) : (s.lwrite sp a bs strong).free = s.free := by
  unfold State.lwrite
  split
  · split
    · exact (congrArg State.free (spadWriteS_segsOnly s s.cn a bs).rest :)
    · exact (congrArg State.free (spadWrite_segsOnly s s.cn a bs).rest :)
  · split
    · rfl
    · next p _ => exact (congrArg State.free (tstore_stored s p bs).rest :)

theorem stores_free (sp n : Nat) (strong rel : Bool) (val : Nat → Nat → W32) (cs : List LAcc) (s : State) :
    (s.stores sp n strong rel val cs).free = s.free := by
  induction cs generalizing s with
  | nil => rfl
  | cons c cs ih =>
    unfold State.stores
    split
    · exact ih s
    · exact (ih _).trans (lwrite_free ..)

/-- Outside space 2 a thread's store to no place is dropped. -/
theorem lwrite_none {sp a : Nat} {s : State} {bs : List Byte} (h : sp ≠ 2)
    (hl : s.localLoc (teamOf s.cur) sp a bs.length = none) (strong : Bool) : s.lwrite sp a bs strong = s := by
  simp only [State.lwrite, if_neg h, hl]

/-- Outside space 2 a thread's store reaches tile memory alone. -/
theorem lwrite_some {sp a : Nat} {s : State} {bs : List Byte} {p : TLoc} (h : sp ≠ 2)
    (hl : s.localLoc (teamOf s.cur) sp a bs.length = some p) (strong : Bool) :
    s.lwrite sp a bs strong = s.tstore p bs := by
  simp only [State.lwrite, if_neg h, hl]

theorem lwrite_dies {sp : Nat} (h : sp ≠ 2) (s : State) (a : Nat) (bs : List Byte) (strong : Bool) :
    (s.lwrite sp a bs strong).dies = s.dies := by
  cases hl : s.localLoc (teamOf s.cur) sp a bs.length with
  | none => rw [lwrite_none h hl]
  | some p =>
    rw [lwrite_some h hl]
    exact (congrArg State.dies (tstore_stored s p bs).rest :)

theorem stores_dies {sp : Nat} (h : sp ≠ 2) (n : Nat) (strong rel : Bool) (val : Nat → Nat → W32) (cs : List LAcc)
    (s : State) : (s.stores sp n strong rel val cs).dies = s.dies := by
  induction cs generalizing s with
  | nil => rfl
  | cons c cs ih =>
    unfold State.stores
    split
    · exact ih s
    · exact (ih _).trans (lwrite_dies h ..)

/-- In space 2 no byte of tile memory changes. -/
theorem stores_tileByte (n : Nat) (strong rel : Bool) (val : Nat → Nat → W32) (cs : List LAcc) (s : State)
    (side : Bool) (co b : Nat) : tileByte (s.stores 2 n strong rel val cs) side co b = tileByte s side co b := by
  induction cs generalizing s with
  | nil => rfl
  | cons c cs ih =>
    unfold State.stores
    split
    · exact ih s
    · next a _ =>
      refine (ih _).trans ?_
      show tileByte (s.lwrite 2 a _ strong) side co b = _
      unfold State.lwrite
      rw [if_pos rfl]
      split
      · exact segsOnly_tileByte (spadWriteS_segsOnly ..) side co b
      · exact segsOnly_tileByte (spadWrite_segsOnly ..) side co b

/-! Stores to tile memory, in order. -/

/-- The write of an access to tile memory. -/
def storeWrite (x : State) (rc : BitVec 256) (n : Nat) (val : Nat → Nat → W32) (c : LAcc) :
    Option ((Bool × Nat) × Nat × List Byte) :=
  (placeOf x rc n c).map (fun p => p.write (leBytes n (val c.t c.k).toNat))

theorem lwrite_written {x s : State} {rc : BitVec 256} {n a : Nat} {val : Nat → Nat → W32} {c : LAcc} (hsp : rSpace rc ≠ 2)
    (hx : Accessed x s) (hc : c.at? = some a) (strong : Bool) : Written (tileView s) (storeWrite x rc n val c).toList
      (tileView (s.lwrite (rSpace rc) a (leBytes n (val c.t c.k).toNat) strong)) := by
  obtain ⟨hcur, -⟩ := hx.kept
  have hp : placeOf x rc n c =
      s.localLoc (teamOf s.cur) (rSpace rc) a (leBytes n (val c.t c.k).toNat).length := by
    rw [length_leBytes, hcur, hx.localLoc, placeOf, hc]
    rfl
  rw [storeWrite, hp]
  cases hl : s.localLoc (teamOf s.cur) (rSpace rc) a (leBytes n (val c.t c.k).toNat).length with
  | none =>
    rw [lwrite_none hsp hl]
    exact .nil _
  | some p =>
    rw [lwrite_some hsp hl]
    exact tstore_written ..

theorem stores_written {x : State} {rc : BitVec 256} {n : Nat} {val : Nat → Nat → W32} (hsp : rSpace rc ≠ 2)
    (strong rel : Bool) (cs : List LAcc) (s : State) (hx : Accessed x s) :
    Written (tileView s) (cs.filterMap (storeWrite x rc n val)) (tileView (s.stores (rSpace rc) n strong rel val cs)) := by
  induction cs generalizing s with
  | nil => exact .nil _
  | cons c cs ih =>
    unfold State.stores
    split
    · next hc =>
      have hnone : storeWrite x rc n val c = none := by simp [storeWrite, placeOf, hc]
      rw [List.filterMap_cons_none hnone]
      exact ih s hx
    · next a hc =>
      have h1 := lwrite_written (n := n) (val := val) hsp hx hc strong
      have h2 := ih ((s.lwrite (rSpace rc) a (leBytes n (val c.t c.k).toNat) strong).noteRel (rSpace rc) a rel false)
        (hx.trans ((lwrite_accessed ..).trans (noteRel_accessed ..)))
      have hl : (c :: cs).filterMap (storeWrite x rc n val) =
          (storeWrite x rc n val c).toList ++ cs.filterMap (storeWrite x rc n val) := by
        cases h : storeWrite x rc n val c <;> simp [h]
      rw [hl]
      exact h1.append h2

/-! Accesses to coherent segments at their homes (04 R91 to R93). -/

/-- Between `s` and `t` a core has made requests of at most `n` coherent segments: its cache has grown by no more than these,
its new copies are not software-managed, no U episode has begun, and no region register has changed. -/
structure HomeStep (core n : Nat) (s t : State) : Prop where
  len : (t.core core).segs.length ≤ (s.core core).segs.length + n
  old : ∀ v ∈ (t.core core).segs, v.soft = false ∨ v ∈ (s.core core).segs
  dir : ∀ k, (∀ o, s.dirAt (dieOf core) k ≠ .u o) → ∀ o, t.dirAt (dieOf core) k ≠ .u o
  region : ∀ d, (t.die d).sprgn = (s.die d).sprgn

theorem HomeStep.trans {core n m : Nat} {s t u : State} (h : HomeStep core n s t) (k : HomeStep core m t u) :
    HomeStep core (n + m) s u := by
  refine ⟨by have := h.len; have := k.len; omega, fun v hv => ?_, fun j hj => k.dir j (h.dir j hj),
    fun d => (k.region d).trans (h.region d)⟩
  exact (k.old v hv).elim .inl (h.old v)

theorem homeStep_of_dies {core n : Nat} {s t : State} (hd : t.dies = s.dies)
    (hl : (t.core core).segs.length ≤ (s.core core).segs.length + n)
    (ho : ∀ v ∈ (t.core core).segs, v.soft = false ∨ v ∈ (s.core core).segs) : HomeStep core n s t :=
  ⟨hl, ho, fun k hk => by simpa only [State.dirAt, State.die, hd] using hk, fun d => by simp only [State.die, hd]⟩

theorem homeStep_modDie (core : Nat) (s : State) (d : Nat) (f : Die → Die) (hr : (f (s.die d)).sprgn = (s.die d).sprgn)
    (hf : ∀ k, (∀ o, s.dirAt d k ≠ .u o) → ∀ o, tget DirSt.i (f (s.die d)).dir k ≠ .u o) :
    HomeStep core 0 s (s.modDie d f) := by
  refine ⟨le_rfl, fun v hv => .inr hv, fun k hk => ?_, fun j => ?_⟩
  · rw [dirAt_modDie]
    split
    · next h => rw [h] at hk; exact hf k hk
    · exact hk
  · rw [State.modDie_die_ite]
    split
    · next h => rw [h, hr]
    · rfl

theorem homeStep_spad (core : Nat) (s : State) (d a : Nat) (bs : List Byte) :
    HomeStep core 0 s (s.modDie d (fun x => { x with spad := mwrite x.spad a bs })) :=
  homeStep_modDie core s d _ rfl fun _ hk => hk

theorem homeStep_keepSegsAll (core : Nat) (s : State) (p : SegCopy → Bool) (cs : List Nat) :
    HomeStep core 0 s (s.keepSegsAll p cs) :=
  homeStep_of_dies (keepSegsAll_dies ..) (length_keepSegsAll ..) (fun _ hv => .inr ((mem_keepSegsAll ..).1 hv).1)

theorem homeStep_useSeg {core seg : Nat} {s : State} (h : Room s core seg) : HomeStep core 1 s (s.useSeg core seg false) := by
  refine homeStep_of_dies (useSeg_room h).2 ?_ ?_
  all_goals
    unfold State.useSeg
    split
  · next c hc =>
    rw [if_pos (h.soft c (List.mem_of_find?_eq_some hc) (by simpa using List.find?_some hc)), State.modCore_core]
    exact Nat.succ_le_succ (List.length_filter_le ..)
  · unfold State.fillSeg
    rw [if_neg (not_le.2 h.len)]
    simp only [State.modCore_core, List.length_cons, le_refl]
  · next c hc =>
    have hm := List.mem_of_find?_eq_some hc
    rw [if_pos (h.soft c hm (by simpa using List.find?_some hc)), State.modCore_core]
    intro v hv
    rcases List.mem_cons.1 hv with rfl | hv
    · exact .inr hm
    · exact .inr (List.mem_filter.1 hv).1
  · unfold State.fillSeg
    rw [if_neg (not_le.2 h.len)]
    simp only [State.modCore_core, List.mem_cons]
    rintro v (rfl | hv)
    · exact .inl rfl
    · exact .inr hv

/-- A write request of a coherent segment that is in no U episode. -/
theorem homeStep_dirWrite {core seg : Nat} {s : State} (h : Room s core seg) (hu : ∀ o, s.dirAt (dieOf core) seg ≠ .u o) :
    HomeStep core 1 s (s.dirWrite core seg) := by
  have hk : HomeStep core 0 s (s.combineSeg (dieOf core) seg) := by
    rw [combineSeg_eq]
    refine (homeStep_keepSegsAll core s _ _).trans (homeStep_modDie core _ _ _ ?_ fun k hk => ?_)
    · rw [combine_of_not_u _ _ fun o => by rw [← State.dirAt, keepSegsAll_dirAt]; exact hu o]
    · rw [combine_of_not_u _ _ fun o => by rw [← State.dirAt, keepSegsAll_dirAt]; exact hu o]
      exact hk
  have hr := (combineSeg_room (dieOf core) h hu).2
  rw [dirWrite_eq]
  refine ((hk.trans (homeStep_keepSegsAll core _ _ _)).trans (homeStep_modDie core _ _ _ rfl fun k hk o => ?_)).trans
    (homeStep_useSeg ((hr.keepSegsAll _ _).modDie _ _))
  rw [tget_tset]
  split
  · simp
  · exact hk o

/-- The bytes of the scratchpads, by die. -/
def spadView (s : State) (d y : Nat) : Byte := mget (s.die d).spad y

theorem spadView_modDie (s : State) (d a : Nat) (bs : List Byte) : Written (spadView s) [(d, a, bs)]
    (spadView (s.modDie d (fun x => { x with spad := mwrite x.spad a bs }))) := by
  refine written_one (fun j b hn => ?_) (fun j hj => ?_)
  · rw [spadView, State.modDie_die_ite]
    split
    · next h =>
      subst h
      simp only [Hits, true_and] at hn
      exact mget_mwrite_out _ _ _ _ (by omega)
    · rfl
  · rw [spadView, State.modDie_die]
    exact mget_mwrite_in _ _ _ _ hj

/-- An access that is at home finds room, and its segment coherent and in no U episode. -/
theorem atHome_head {s : State} {c : LAcc} {cs : List LAcc} {a : Nat} (h : AtHome s (c :: cs)) (hc : c.at? = some a) :
    Room s s.cn (a / 4096) ∧ (s.die (dieOf s.cn)).soft (a / 4096) = false ∧ ∀ o, s.dirAt (dieOf s.cn) (a / 4096) ≠ .u o := by
  obtain ⟨hl, hall⟩ := h
  obtain ⟨h1, h2, h3⟩ := hall c (by simp) a hc
  exact ⟨⟨by rw [List.length_cons] at hl; omega, h3⟩, h1, h2⟩

theorem atHome_tail {s : State} {c : LAcc} {cs : List LAcc} (h : AtHome s (c :: cs)) : AtHome s cs :=
  ⟨by have := h.1; rw [List.length_cons] at this; omega, fun x hx => h.2 x (by simp [hx])⟩

theorem atHome_step {s t : State} {c : LAcc} {cs : List LAcc} (h : AtHome s (c :: cs)) (ht : HomeStep s.cn 1 s t)
    (hcn : t.cn = s.cn) : AtHome t cs := by
  obtain ⟨hl, hall⟩ := h
  unfold AtHome
  rw [hcn]
  refine ⟨by have := ht.len; rw [List.length_cons] at hl; omega, fun x hx a ha => ?_⟩
  obtain ⟨h1, h2, h3⟩ := hall x (by simp [hx]) a ha
  refine ⟨?_, ht.dir _ h2, fun v hv hs => (ht.old v hv).elim id fun hv => h3 v hv hs⟩
  rw [← h1]
  simp only [Die.soft, Die.region, ht.region]

/-- A store to a coherent segment, strong or not: a write request, and the bytes at the home. -/
theorem lwrite_coherent {s : State} {a : Nat} (h : (s.die (dieOf s.cn)).soft (a / 4096) = false) (bs : List Byte)
    (strong : Bool) : s.lwrite 2 a bs strong =
      (s.dirWrite s.cn (a / 4096)).modDie (dieOf s.cn) (fun d => { d with spad := mwrite d.spad a bs }) := by
  have hn : ¬ (s.die (dieOf s.cn)).soft (a / 4096) = true := by rw [h]; exact Bool.false_ne_true
  have hw : s.spadWrite s.cn a bs =
      (s.dirWrite s.cn (a / 4096)).modDie (dieOf s.cn) (fun d => { d with spad := mwrite d.spad a bs }) := if_neg hn
  have hws : s.spadWriteS s.cn a bs = s.spadWrite s.cn a bs := if_neg hn
  have hl : s.lwrite 2 a bs strong = if strong then s.spadWriteS s.cn a bs else s.spadWrite s.cn a bs := if_pos rfl
  rw [hl, hws, ite_self, hw]

theorem Accessed.cn {s t : State} (h : Accessed s t) : t.cn = s.cn := by
  obtain ⟨-, -, -, hcn, -⟩ := h.kept
  exact hcn

/-- A store at its home: its bytes stand there. -/
theorem lwrite_home {s : State} {c : LAcc} {cs : List LAcc} {a : Nat} (h : AtHome s (c :: cs)) (hc : c.at? = some a)
    (bs : List Byte) (strong : Bool) : Written (spadView s) [(dieOf s.cn, a, bs)] (spadView (s.lwrite 2 a bs strong)) ∧
      AtHome (s.lwrite 2 a bs strong) cs := by
  obtain ⟨hr, hs, hu⟩ := atHome_head h hc
  have he := lwrite_coherent hs bs strong
  have hd := dirWrite_home hr hu
  have hv : spadView (s.dirWrite s.cn (a / 4096)) = spadView s := by
    funext d y
    rw [spadView, spadView, hd.spad]
  have hw := spadView_modDie (s.dirWrite s.cn (a / 4096)) (dieOf s.cn) a bs
  rw [hv, ← he] at hw
  refine ⟨hw, atHome_step h ?_ (lwrite_accessed s 2 a bs strong).cn⟩
  rw [he]
  exact (homeStep_dirWrite hr hu).trans (homeStep_spad ..)

/-- The write of an access to the scratchpad of a die. -/
def homeWrite (d n : Nat) (val : Nat → Nat → W32) (c : LAcc) : Option (Nat × Nat × List Byte) :=
  c.at?.map (fun a => (d, a, leBytes n (val c.t c.k).toNat))

theorem stores_home {n core : Nat} {val : Nat → Nat → W32} (strong rel : Bool) (cs : List LAcc) (s : State)
    (hcn : s.cn = core) (h : AtHome s cs) : Written (spadView s) (cs.filterMap (homeWrite (dieOf core) n val))
      (spadView (s.stores 2 n strong rel val cs)) := by
  induction cs generalizing s with
  | nil => exact .nil _
  | cons c cs ih =>
    unfold State.stores
    split
    · next hc =>
      have hnone : homeWrite (dieOf core) n val c = none := by simp [homeWrite, hc]
      rw [List.filterMap_cons_none hnone]
      exact ih s hcn (atHome_tail h)
    · next a hc =>
      obtain ⟨hw, hnext⟩ := lwrite_home h hc (leBytes n (val c.t c.k).toNat) strong
      have hcn' : (s.lwrite 2 a (leBytes n (val c.t c.k).toNat) strong).cn = core :=
        (lwrite_accessed s 2 a _ strong).cn.trans hcn
      have h2 := ih ((s.lwrite 2 a (leBytes n (val c.t c.k).toNat) strong).noteRel 2 a rel false) hcn' hnext
      have hsome : homeWrite (dieOf core) n val c = some (dieOf core, a, leBytes n (val c.t c.k).toNat) := by
        simp [homeWrite, hc]
      rw [List.filterMap_cons_some hsome]
      rw [hcn] at hw
      exact hw.append h2

end Sys2Proof.Machine
end

section
/-! STL and STV (07 R158 to R161; O22): the frame of a store, and its bytes. -/

namespace Sys2Proof.Machine

open Sys2Proof.Claims Sys2Proof.Safety

/-- The group at issue after accesses of an instruction that was ready: its registers as met, but for EXM as adopted. -/
theorem Accessed.g {s x u : State} (ha : Adopted s x) (hu : Accessed x u) :
    u.g.live = s.g.live ∧ u.g.r = { s.g.r with exm := x.g.r.exm } ∧ u.g.sys = s.g.sys ∧ u.g.y = s.g.y := by
  obtain ⟨-, -, -, -, hl, hr, hs, hy⟩ := hu.kept
  exact ⟨hl.trans (congrArg Group.live ha.g :), hr.trans ha.r, hs.trans ha.sys, hy.trans ha.y⟩

/-- A view of the whole machine that the accesses of one instruction leave alone. -/
theorem Accessed.outside {s x u : State} (ha : Only s x) (hu : Accessed x u) (hf : u.free = x.free) :
    { u with groups := [], cores := [], dies := [], rels := [] } = { s with groups := [], cores := [], dies := [], rels := [] } := by
  have h1 := congrArg (fun (z : State) => { z with free := u.free }) hu.rest
  have h2 := congrArg (fun (z : State) => { z with cores := [], dies := [], rels := [], free := u.free }) ha.1
  have h3 : u.free = s.free := hf.trans (congrArg State.free ha.1 :)
  refine (h1.trans h2).trans ?_
  rw [h3]

end Sys2Proof.Machine

namespace Sys2Proof.Claims

open Sys2Proof.Machine Sys2Proof.Safety

section
variable {s x u : State} {a : Sel} {d : BitVec 7} {k : BitVec 4} {sc : Scope} {o : Order} {rc : BitVec 256} {n : Nat}
  {cs : List LAcc} {l : List Src}

/-- The frame of a store whose body leaves `u` before its count: `l` are the instruction's sources, of which `a` alone may pop
or latch. -/
theorem storeFrame_ended (ha : Adopted s x) (hu : Accessed x u) (hf : u.free = x.free)
    (hd : rSpace rc < 2 → u.dies = x.dies) (ht : ∀ side co b,
      (rSpace rc < 2 → ∀ c ∈ cs, ∀ p, placeOf x rc n c = some p → ¬ covers p n side co b) →
        tileByte u side co b = tileByte x side co b) (h7 : .special 7 ∈ l → .special 7 ∈ [a.src]) :
    StoreFrame [a.src] s x ((u.count1 (rSpace rc)).ended l 4) 4 rc n cs := by
  obtain ⟨hlive, hr, hsys, hy⟩ := Accessed.g ha hu
  have ho := only_count1 u (rSpace rc)
  have hg := count1_g u (rSpace rc)
  generalize hyy : u.count1 (rSpace rc) = y at ho hg
  obtain ⟨⟨hout, hoth, -, hpaths, hpend⟩, -, hrt, -⟩ := ended_frame y l 4
  obtain ⟨⟨hsk, hclk⟩, hfl, hcnt⟩ := ended_sys (s := s) l 4 (by rw [hg]; exact hsys : y.g.sys = s.g.sys)
  have hcur : u.cur = s.cur := (congrArg State.cur hu.rest :).trans ha.only.cur
  have hteams : u.teams = s.teams := (congrArg State.teams hu.rest :).trans (congrArg State.teams ha.only.1 :)
  rw [hg] at hrt hpaths hpend
  rw [hr] at hrt
  rw [hy] at hpaths hpend
  refine ⟨hrt, ⟨hsk, fun h => hclk fun hm => h (h7 hm)⟩, hfl, hcnt, hpend, fun p => ?_, fun k hk => ?_, ?_, fun h2 j => ?_,
    fun k => ?_, fun co => ?_, fun side co b hc => ?_⟩
  · rw [GSync.path, hpaths]
    by_cases h1 : rSpace rc = 1
    · simp only [h1, if_true, tget_tset, true_and]
      rfl
    · simp only [h1, if_false, false_and]
      rfl
  · rw [hoth k (by rwa [ho.cur, hcur]), ho.2 k (by rwa [hcur]), ← ha.only.2 k hk]
    have h := hu.grp k
    exact ⟨(congrArg Group.r h :), (congrArg Group.sys h :), (congrArg Group.y h :)⟩
  · have h1 := congrArg (fun (z : State) => { z with dies := [], rels := [] }) hout.1
    have h2 := congrArg (fun (z : State) => { z with teams := [], cores := [], dies := [], rels := [] }) ho.1
    exact (h1.trans h2).trans (congrArg (fun (z : State) => { z with teams := [] }) (Accessed.outside ha.only hu hf))
  · have h1 : (y.ended l 4).dies = y.dies := (congrArg State.dies hout.1 :)
    have h3 : y.dies = u.dies := (congrArg State.dies ho.1 :)
    have h4 : x.dies = s.dies := (congrArg State.dies ha.only.1 :)
    rw [State.die, State.die, h1, h3, hd h2, h4]
  · rw [hout.2.2.1 k, ho.team, State.team, State.team, hteams]
  · have h1 := hout.2.1 co
    have h2 := hu.core co
    rw [ho.core] at h1
    rw [ha.only.core] at h2
    exact ⟨(congrArg Core.acc h1 :).trans (congrArg Core.acc h2 :), (congrArg Core.queue h1 :).trans (congrArg Core.queue h2 :)⟩
  · have h1 : tileByte y side co b = tileByte u side co b := by rw [tileByte, tileByte, ho.core]
    have h2 : tileByte x side co b = tileByte s side co b := by rw [tileByte, tileByte, ha.only.core]
    rw [Outside.tileByte hout, h1, ht side co b hc, h2]

/-- The bytes that an instruction's end leaves in tile memory and in the scratchpads. -/
theorem ended_views (u : State) (sp : Nat) (l : List Src) (len : Nat) :
    tileView ((u.count1 sp).ended l len) = tileView u ∧ spadView ((u.count1 sp).ended l len) = spadView u := by
  have ho := only_count1 u sp
  obtain ⟨⟨hout, -⟩, -⟩ := ended_frame (u.count1 sp) l len
  refine ⟨funext fun q => funext fun b => ?_, funext fun d => funext fun y => ?_⟩
  · rw [tileView, Outside.tileByte hout, tileByte, ho.core]
    rfl
  · have h1 : ((u.count1 sp).ended l len).dies = (u.count1 sp).dies := (congrArg State.dies hout.1 :)
    have h2 : (u.count1 sp).dies = u.dies := (congrArg State.dies ho.1 :)
    rw [spadView, State.die, h1, h2]
    rfl

/-- The word of an access that no later write of the instruction covers stands at its place. -/
theorem tread_of_written {t : State} {val : Nat → Nat → W32} {l r : List LAcc} {c : LAcc} {p : TLoc}
    (hw : Written (tileView s) (cs.filterMap (storeWrite x rc n val)) (tileView t)) (hcs : cs = l ++ c :: r)
    (hp : placeOf x rc n c = some p) (hlast : ∀ c2 ∈ r, ∀ p2, placeOf x rc n c2 = some p2 → ∀ side co b,
      covers p n side co b → ¬ covers p2 n side co b) : t.tread p n = leBytes n (val c.t c.k).toNat := by
  have hlen := length_leBytes n (val c.t c.k).toNat
  have hb := tread_eq_of_bytes (s := t) (p := p) (bs := leBytes n (val c.t c.k).toNat) (fun j hj => ?_)
  · rwa [hlen] at hb
  · have hsome : storeWrite x rc n val c = some (p.write (leBytes n (val c.t c.k).toNat)) := by rw [storeWrite, hp]; rfl
    rw [hcs, List.filterMap_append, List.filterMap_cons_some hsome] at hw
    refine hw.last _ _ _ rfl j hj (fun v hv hh => ?_)
    obtain ⟨c2, hc2, hv⟩ := List.mem_filterMap.1 hv
    obtain ⟨p2, hp2, rfl⟩ := Option.map_eq_some_iff.1 hv
    have hn := length_leBytes n (val c2.t c2.k).toNat
    have h1 := (covers_iff p2 (leBytes n (val c2.t c2.k).toNat) p.mem.1 p.mem.2 (p.off + j)).2 hh
    have h2 := (covers_iff p (leBytes n (val c.t c.k).toNat) p.mem.1 p.mem.2 (p.off + j)).2 ⟨rfl, Nat.le_add_right ..,
      Nat.add_lt_add_left hj _⟩
    rw [hn] at h1
    rw [hlen] at h2
    exact hlast c2 hc2 p2 hp2 _ _ _ h2 h1

/-- The same of a word at its home. -/
theorem mread_of_written {t : State} {val : Nat → Nat → W32} {l r : List LAcc} {c : LAcc} {dn ad : Nat}
    (hw : Written (spadView s) (cs.filterMap (homeWrite dn n val)) (spadView t)) (hcs : cs = l ++ c :: r)
    (hc : c.at? = some ad) (hlast : ∀ c2 ∈ r, ∀ a2, c2.at? = some a2 → a2 + n ≤ ad ∨ ad + n ≤ a2) :
    mread (t.die dn).spad ad n = leBytes n (val c.t c.k).toNat := by
  have hlen := length_leBytes n (val c.t c.k).toNat
  have hb := mread_eq_of_bytes (m := (t.die dn).spad) (a := ad) (bs := leBytes n (val c.t c.k).toNat) (fun j hj => ?_)
  · rwa [hlen] at hb
  · have hsome : homeWrite dn n val c = some (dn, ad, leBytes n (val c.t c.k).toNat) := by rw [homeWrite, hc]; rfl
    rw [hcs, List.filterMap_append, List.filterMap_cons_some hsome] at hw
    refine hw.last _ _ _ rfl j hj (fun v hv hh => ?_)
    obtain ⟨c2, hc2, hv⟩ := List.mem_filterMap.1 hv
    obtain ⟨a2, ha2, rfl⟩ := Option.map_eq_some_iff.1 hv
    obtain ⟨-, h1, h2⟩ := hh
    have hn := length_leBytes n (val c2.t c2.k).toNat
    simp only at h1 h2
    have := hlast c2 hc2 a2 ha2
    omega

/-- An instruction with an access has a good space. -/
theorem checkAll_space {kind : LKind} {idx : Nat → W32} {ws : List LWord} (h : x.checkAll kind rc idx ws = .ok cs)
    (hsp : 3 ≤ rSpace rc) : cs = [] := by
  cases ws with
  | nil => cases h; rfl
  | cons w ws =>
    rw [checkAll_of_fails (m := 1) (fun v _ e he => by rw [check1_space hsp] at he; cases he; exact le_rfl)
      ⟨w, by simp, _, check1_space hsp ..⟩] at h
    cases h

/-- STL and STV are runs of the same body. -/
theorem exec_store (four : Bool) (hrc : rc = s.g.r.getB k.toNat) (hn : n = if four then 4 else recBytes rc) :
    exec (if four then .stv d a k sc o else .stl d a k sc o) s =
      run 4 s ([a] ++ (List.range (if four then 4 else 1)).map (fun i => ⟨.v (d + BitVec.ofNat 7 i), false⟩)) []
        (storeBody n (if four then store4Kind o else storeKind n o)
          (fun x => if four then x.words4 (recBytes rc) else x.words1) d a k sc o) := by
  subst hrc hn
  cases four <;> rfl

theorem order_goes (h : o = .rel ∨ o = .acqRel → x.released sc = true) : (isRel o && !x.released sc) = false := by
  cases o <;> simp_all [isRel]

theorem path_goes {sp : Nat} (h : x.g.y.path (min sp 2) < 65535) : x.pathRoom (spacePath sp) = true := by
  have hs : spacePath sp = min sp 2 := by
    unfold spacePath
    split <;> omega
  rw [hs]
  exact decide_eq_true h

/-- A store that its checks, its order and its path let go. -/
theorem storeBody_ok {kind : LKind} {ws : State → List LWord} (hx : x.g.r.getB k.toNat = rc)
    (hc : x.checkAll kind rc (x.laneVal a.src) (ws x) = .ok cs) (hrel : o = .rel ∨ o = .acqRel → x.released sc = true)
    (hp : x.g.y.path (min (rSpace rc) 2) < 65535) : storeBody n kind ws d a k sc o x =
      .ok ((x.stores (rSpace rc) n (decide (o ≠ .plain)) (teamRel o sc) (fun t i => x.g.r.getV (d.toNat + i) t) cs).count1
        (rSpace rc)) := by
  rw [storeBody, hx, hc]
  simp only [order_goes hrel, path_goes hp, Bool.false_eq_true, Bool.true_eq_false, if_false]

end

/-- Settles O22: the writes of a store in order, to tile memory or to the home slices. -/
theorem stores : Obligations.Stores := by
  intro s x d a k sc o cs rc four n hrc hd hn hr hc hrel hp
  obtain ⟨hready, harm⟩ := hr
  obtain ⟨ha, -, -⟩ := ready_ok hready
  have hxb : x.g.r.getB k.toNat = rc := by rw [ha.r, hrc]; rfl
  have hbody := storeBody_ok (ws := fun x => if four then x.words4 (recBytes rc) else x.words1) (n := n) (d := d) hxb hc hrel
    (by rw [ha.y]; exact hp)
  have hval : ∀ i t, x.g.r.getV i t = s.g.r.getV i t := fun i t => by rw [ha.r]; rfl
  simp only [hval] at hbody
  generalize hl : ([a] ++ (List.range (if four then 4 else 1)).map (fun i => (⟨.v (d + BitVec.ofNat 7 i), false⟩ : Sel))).map
    (fun a => a.src) = l
  have h7 : .special 7 ∈ l → .special 7 ∈ [a.src] := by
    subst hl
    simp
  generalize hu : x.stores (rSpace rc) n (decide (o ≠ .plain)) (teamRel o sc) (fun t i => s.g.r.getV (d.toNat + i) t) cs = u
    at hbody
  have hacc : Accessed x u := by rw [← hu]; exact stores_accessed ..
  have hfree : u.free = x.free := by rw [← hu]; exact stores_free ..
  have hyarm : (u.count1 (rSpace rc)).g.y.stepArmed = false := by
    obtain ⟨-, -, -, hy⟩ := Accessed.g ha hacc
    rw [count1_g, hy]
    exact harm
  have hrun := run_ends (len := 4) hready hbody hyarm
  rw [hl, ← exec_store four hrc hn] at hrun
  obtain ⟨hview, hspad⟩ := ended_views u (rSpace rc) l 4
  have hlocal : rSpace rc ≠ 2 → Written (tileView x)
      (cs.filterMap (storeWrite x rc n (fun t i => s.g.r.getV (d.toNat + i) t))) (tileView u) := fun h2 => by
    rw [← hu]
    exact stores_written h2 _ _ cs x (.refl x)
  refine ⟨_, hrun, storeFrame_ended ha hacc hfree (fun h2 => ?_) (fun side co b hcov => ?_) h7, fun h2 l' r c p hcs hpl hlast =>
    ?_, fun h2 hhome => ?_⟩
  · rw [← hu]
    exact stores_dies (by omega) ..
  · by_cases h2 : rSpace rc = 2
    · rw [← hu, h2]
      exact stores_tileByte ..
    · refine (hlocal h2).out (side, co) b (fun w hw hh => ?_)
      obtain ⟨c, hcm, hwc⟩ := List.mem_filterMap.1 hw
      obtain ⟨p, hpl, rfl⟩ := Option.map_eq_some_iff.1 hwc
      have hlt : rSpace rc < 2 := by
        by_contra h3
        rw [checkAll_space hc (by omega)] at hcm
        cases hcm
      have h1 := (covers_iff p (leBytes n (s.g.r.getV (d.toNat + c.k) c.t).toNat) side co b).2 hh
      rw [length_leBytes] at h1
      exact hcov hlt c hcm p hpl h1
  · have hw := hlocal (by omega)
    rw [← hview] at hw
    exact tread_of_written hw hcs hpl hlast
  · have hw := stores_home (n := n) (val := fun t i => s.g.r.getV (d.toNat + i) t) (decide (o ≠ .plain)) (teamRel o sc) cs x
      ha.only.cn hhome
    rw [← h2, hu, ← hspad] at hw
    refine ⟨fun l' r c ad hcs hcat hlast => mread_of_written hw hcs hcat hlast, fun di y hy => ?_⟩
    have hout := hw.out di y (fun w hwm hh => ?_)
    · have hxs : spadView x di y = mget (s.die di).spad y := by
        have h4 : x.dies = s.dies := (congrArg State.dies ha.only.1 :)
        rw [spadView, State.die, h4]
        rfl
      rw [← hxs, ← hout]
      rfl
    · obtain ⟨c, hcm, hwc⟩ := List.mem_filterMap.1 hwm
      obtain ⟨ad, had, rfl⟩ := Option.map_eq_some_iff.1 hwc
      obtain ⟨hd, h1, h3⟩ := hh
      rw [length_leBytes] at h3
      simp only at hd h1 h3
      have := hy hd.symm c hcm ad had
      omega

end Sys2Proof.Claims
end

section
/-! ATOM and RED (07 R162 to R165; 04 R92, R93; O23): one word read, modified and written, at its place in tile memory or at its
home slice; a RED of a segment that no core holds opens a partial. -/

namespace Sys2Proof.Machine

open Sys2Proof.Claims Sys2Proof.Safety

/-- The members by their meanings (07 R162). -/
theorem aop_cases (op : AOp) (old v w : W32) : (op, aop op old v w) ∈
    [(AOp.add, old + v), (AOp.and, old &&& v), (AOp.or, old ||| v), (AOp.xor, old ^^^ v), (AOp.xchg, v),
      (AOp.min, if old.toInt ≤ v.toInt then old else v), (AOp.max, if old.toInt ≤ v.toInt then v else old),
      (AOp.umin, if old.toNat ≤ v.toNat then old else v), (AOp.umax, if old.toNat ≤ v.toNat then v else old),
      (AOp.cas, if old = w then v else old), (AOp.fadd, aop .fadd old v w), (AOp.fmin, aop .fmin old v w),
      (AOp.fmax, aop .fmax old v w), (AOp.b2add, aop .b2add old v w)] := by
  cases op <;> simp [aop, BitVec.sle_iff_toInt_le, BitVec.ule_iff_toNat_le]

/-! One read-modify-write. -/

/-- The word at a place of tile memory. -/
def State.tword (s : State) (p : TLoc) : W32 := BitVec.ofNat 32 (leNat (s.tread p 4))

/-- The word at an address of a die's scratchpad slices. -/
def State.spadWord (s : State) (d a : Nat) : W32 := BitVec.ofNat 32 (leNat (mread (s.die d).spad a 4))

theorem lrmw_local {s : State} {sp a : Nat} {p : TLoc} (h : sp ≠ 2) (hl : s.localLoc (teamOf s.cur) sp a 4 = some p)
    (hs : s.inStaging p 4 = false) (f : W32 → W32) :
    s.lrmw sp a f = (s.tword p, s.tstore p (leBytes 4 (f (s.tword p)).toNat)) := by
  have hr : s.lread sp a 4 true = (s.tread p 4, s) := by
    simp only [State.lread, if_neg h, hl, hs, Bool.false_eq_true, if_false]
  have hw := lwrite_some (s := s) (bs := leBytes 4 (f (s.tword p)).toNat) h (by rw [length_leBytes]; exact hl) true
  rw [← hw]
  simp only [State.lrmw, if_neg h, hr, State.tword]

/-- A read-modify-write of a coherent segment: a write request, then the word at the home. -/
theorem lrmw_coherent {s : State} {a : Nat} (h : (s.die (dieOf s.cn)).soft (a / 4096) = false) (f : W32 → W32) :
    s.lrmw 2 a f = ((s.dirWrite s.cn (a / 4096)).spadWord (dieOf s.cn) a,
      (s.dirWrite s.cn (a / 4096)).modDie (dieOf s.cn) (fun d =>
        { d with spad := mwrite d.spad a (leBytes 4 (f ((s.dirWrite s.cn (a / 4096)).spadWord (dieOf s.cn) a)).toNat) })) := by
  have hn : ¬ (s.die (dieOf s.cn)).soft (a / 4096) = true := by rw [h]; exact Bool.false_ne_true
  unfold State.lrmw
  rw [if_pos rfl]
  simp only [if_neg hn, State.spadWord, mnum, mput]

/-- A request that leaves the bytes at their homes, then a word written there. -/
theorem spadView_write {s y : State} (h : DirsOnly s y) (d a : Nat) (bs : List Byte) : Written (spadView s) [(d, a, bs)]
    (spadView (y.modDie d (fun x => { x with spad := mwrite x.spad a bs }))) := by
  have hv : spadView y = spadView s := by
    funext j b
    rw [spadView, spadView, h.spad]
  rw [← hv]
  exact spadView_modDie ..

theorem spadWord_eq {s y : State} (h : DirsOnly s y) (d a : Nat) : y.spadWord d a = s.spadWord d a := by
  rw [State.spadWord, State.spadWord, h.spad]

theorem lrmw_home {s : State} {c : LAcc} {cs : List LAcc} {a : Nat} (h : AtHome s (c :: cs)) (hc : c.at? = some a)
    (f : W32 → W32) : (s.lrmw 2 a f).1 = s.spadWord (dieOf s.cn) a ∧
      Written (spadView s) [(dieOf s.cn, a, leBytes 4 (f (s.spadWord (dieOf s.cn) a)).toNat)] (spadView (s.lrmw 2 a f).2) := by
  obtain ⟨hr, hs, hu⟩ := atHome_head h hc
  have hd := dirWrite_home hr hu
  rw [lrmw_coherent hs, spadWord_eq hd]
  exact ⟨rfl, spadView_write hd ..⟩

/-! A RED of a coherent segment that is in no U episode (04 R93). -/

theorem redReady_of_not_u {s : State} {core seg : Nat} (h : ∀ o, s.dirAt (dieOf core) seg ≠ .u o) (op : AOp) :
    s.redReady core seg op = s := by
  unfold State.redReady
  split
  · next o ho => exact absurd ho (h o)
  · rfl

/-- On a segment that a core holds a RED is an atomic. -/
theorem dirRed_held {s : State} {core a : Nat} (h : Room s core (a / 4096)) (hu : ∀ o, s.dirAt (dieOf core) (a / 4096) ≠ .u o)
    (hi : s.dirAt (dieOf core) (a / 4096) ≠ .i) (op : AOp) (v : W32) :
    Written (spadView s) [(dieOf core, a, leBytes 4 (aop op (s.spadWord (dieOf core) a) v 0).toNat)]
      (spadView (s.dirRed core a op v)) := by
  have hd := dirWrite_home h hu
  have hm : s.redDone core a op v = (s.dirWrite core (a / 4096)).modDie (dieOf core) (fun x =>
      { x with spad := mput x.spad a 4 (aop op (BitVec.ofNat 32 (mnum x.spad a 4)) v 0).toNat }) := by
    unfold State.redDone
    split
    · rfl
    · rfl
    · next hs ho =>
      refine absurd ?_ hi
      cases hx : s.dirAt (dieOf core) (a / 4096) with
      | i => rfl
      | s l => exact absurd hx (hs l)
      | o c => exact absurd hx (ho c)
      | u o => exact absurd hx (hu o)
  rw [dirRed_eq, redReady_of_not_u hu, hm, ← spadWord_eq hd]
  generalize s.dirWrite core (a / 4096) = y at hd
  have hv : y.modDie (dieOf core) (fun x =>
      { x with spad := mput x.spad a 4 (aop op (BitVec.ofNat 32 (mnum x.spad a 4)) v 0).toNat }) =
      y.modDie (dieOf core) (fun x =>
        { x with spad := mwrite x.spad a (leBytes 4 (aop op (y.spadWord (dieOf core) a) v 0).toNat) }) := rfl
  rw [hv]
  exact spadView_write hd ..

/-- On a segment that no core holds a RED opens a partial of its core. -/
theorem dirRed_open {s : State} {core a : Nat} (h : Room s core (a / 4096)) (hi : s.dirAt (dieOf core) (a / 4096) = .i)
    (hp : tget [] (s.die (dieOf core)).parts (a / 4096) = []) (op : AOp) (v : W32) :
    ((s.dirRed core a op v).die (dieOf core)).spad = (s.die (dieOf core)).spad ∧
    tget DirSt.i ((s.dirRed core a op v).die (dieOf core)).dir (a / 4096) = .u op ∧
    tget [] ((s.dirRed core a op v).die (dieOf core)).parts (a / 4096) = [(core, a % 4096, aop op (aopId op) v 0)] := by
  have hu : ∀ o, s.dirAt (dieOf core) (a / 4096) ≠ .u o := fun o => by rw [hi]; exact DirSt.noConfusion
  have hm : s.redDone core a op v = (s.modDie (dieOf core) (fun x =>
      { x with
        dir := tset DirSt.i x.dir (a / 4096) (.u op)
        parts := tset [] x.parts (a / 4096) (addPart (tget [] x.parts (a / 4096)) core (a % 4096) op v) })).useSeg core
          (a / 4096) false := by
    unfold State.redDone
    split
    · next hx => rw [State.dirAt, hx] at hi; cases hi
    · next hx => rw [State.dirAt, hx] at hi; cases hi
    · rfl
  rw [dirRed_eq, redReady_of_not_u hu, hm, State.die, (useSeg_room (h.modDie _ _)).2, ← State.die, State.modDie_die]
  refine ⟨rfl, by rw [tget_tset, if_pos rfl], ?_⟩
  simp only [tget_tset, if_true, hp, addPart, List.find?_nil, List.nil_append]

/-- A RED of one access. -/
theorem reds_one {c : LAcc} {a : Nat} (hc : c.at? = some a) (s : State) (sp : Nat) (op : AOp) (rel : Bool) (v : Nat → W32) :
    s.reds sp op rel v [c] = (if sp = 2 ∧ (s.die (dieOf s.cn)).soft (a / 4096) = false then s.dirRed s.cn a op (v c.t)
      else (s.lrmw sp a (fun old => aop op old (v c.t) 0)).2).noteRel sp a rel true := by
  simp only [State.reds, hc]

/-- An ATOM of one access. -/
theorem atoms_one {c : LAcc} {a : Nat} (hc : c.at? = some a) (s : State) (sp : Nat) (op : AOp) (rel : Bool) (v w : Nat → W32) :
    s.atoms sp op rel v w [c] = ([(c.t, 0, (s.lrmw sp a (fun old => aop op old (v c.t) (w c.t))).1)],
      (s.lrmw sp a (fun old => aop op old (v c.t) (w c.t))).2.noteRel sp a rel true) := by
  simp only [State.atoms, hc]

theorem promotes_of_not_rteam {s : State} {sp : Nat} {o : Order} {sc : Scope} (h : ¬(o = .acq ∨ o = .acqRel) ∨ sc ≠ .rteam)
    (cs : List LAcc) : s.promotes sp o sc cs = s := by
  unfold State.promotes
  refine if_neg ?_
  rintro ⟨hq, hr, -⟩
  refine h.elim (fun h => h ?_) (fun h => h hr)
  cases o <;> simp_all [isAcq]

/-- A lane write leaves everything of the registers but the lanes. -/
theorem Regs.writeV_rest (r : Regs) (n : Nat) (m : BitVec 16) (x : Nat → W32) :
    { r.writeV n m x with v := [] } = { r with v := [] } := by
  rw [Regs.mk.injEq]
  simp

end Sys2Proof.Machine

namespace Sys2Proof.Claims

open Sys2Proof.Machine Sys2Proof.Safety

section
variable {s x t : State} {rc : BitVec 256} {kind : LKind} {idx : Nat → W32} {ws : List LWord} {cs : List LAcc}

/-- Accesses that pass their checks are the words', in order. -/
theorem checkAll_threads (h : x.checkAll kind rc idx ws = .ok cs) : cs.map (fun c => c.t) = ws.map (fun w => w.t) := by
  unfold State.checkAll at h
  simp only at h
  split at h
  · cases h
    simp only [List.map_map]
    rfl
  · cases h

/-- A thread of an access is active. -/
theorem active_of_access {th : Nat} (h : x.checkAll kind rc idx x.words1 = .ok cs) (ht : cs.map (fun c => c.t) = [th]) :
    th < 16 ∧ x.g.r.exm.getLsbD th = true := by
  have hm : th ∈ x.words1.map (fun w => w.t) := by rw [← checkAll_threads h, ht]; exact List.mem_singleton.2 rfl
  exact mem_words1.1 (List.mem_map.1 hm)

/-- A word written at a place, and nothing else of tile memory. -/
theorem word_left {p : TLoc} {w : W32} (h : Written (tileView s) [p.write (leBytes 4 w.toNat)] (tileView t)) :
    t.tread p 4 = leBytes 4 w.toNat ∧ ∀ side co y, ¬ covers p 4 side co y → tileByte t side co y = tileByte s side co y := by
  refine ⟨?_, fun side co y hn => h.out (side, co) y fun v hv hh => hn ?_⟩
  · have hb := tread_eq_of_bytes (s := t) (p := p) (bs := leBytes 4 w.toNat) fun j hj =>
      h.last [] _ [] rfl j hj (fun v hv => absurd hv List.not_mem_nil)
    rwa [length_leBytes] at hb
  · rw [List.mem_singleton.1 hv] at hh
    have hc := (covers_iff p (leBytes 4 w.toNat) side co y).2 hh
    rwa [length_leBytes] at hc

/-- A word written at its home slice, and nothing else of that scratchpad. -/
theorem homeLeft_of_written {ad : Nat} {w : W32} (h : Written (spadView s) [(dieOf s.cn, ad, leBytes 4 w.toNat)] (spadView t)) :
    homeLeft s t ad w := by
  refine ⟨?_, fun y hy => h.out (dieOf s.cn) y fun v hv hh => ?_⟩
  · have hb := mread_eq_of_bytes (m := (t.die (dieOf s.cn)).spad) (a := ad) (bs := leBytes 4 w.toNat) fun j hj =>
      h.last [] _ [] rfl j hj (fun v hv => absurd hv List.not_mem_nil)
    rwa [length_leBytes] at hb
  · rw [List.mem_singleton.1 hv] at hh
    obtain ⟨-, h1, h2⟩ := hh
    rw [length_leBytes] at h2
    simp only at h1 h2
    omega

/-- What is adopted at the readiness test leaves every view of memory. -/
theorem adopted_views (ha : Adopted s x) : tileView x = tileView s ∧ spadView x = spadView s := by
  have hd : x.dies = s.dies := (congrArg State.dies ha.only.1 :)
  refine ⟨funext fun q => funext fun b => ?_, funext fun j => funext fun b => ?_⟩
  · rw [tileView, tileView, tileByte, tileByte, ha.only.core]
  · rw [spadView, spadView, State.die, State.die, hd]

section
variable {op : AOp} {d : BitVec 7} {a b c : Sel} {k : BitVec 4} {sc : Scope} {o : Order}

/-- An ATOM that its checks, its order and its path let go. -/
theorem atomBody_ok (hx : x.g.r.getB k.toNat = rc) (hc : x.checkAll (atomKind o) rc (x.laneVal a.src) x.words1 = .ok cs)
    (hrel : o = .rel ∨ o = .acqRel → x.released sc = true) (hp : x.g.y.path (min (rSpace rc) 2) < 65535) :
    atomBody op d a b c k sc o x =
      .ok (((x.promotes (rSpace rc) o sc cs).atoms (rSpace rc) op (teamRel o sc) (x.laneVal b.src) (x.laneVal c.src) cs).2.setLanes d
        (loaded ((x.promotes (rSpace rc) o sc cs).atoms (rSpace rc) op (teamRel o sc) (x.laneVal b.src) (x.laneVal c.src) cs).1 0)) := by
  rw [atomBody, hx, hc]
  simp only [order_goes hrel, path_goes hp, Bool.false_eq_true, Bool.true_eq_false, if_false]

theorem redBody_ok (hx : x.g.r.getB k.toNat = rc) (hc : x.checkAll (atomKind o) rc (x.laneVal a.src) x.words1 = .ok cs)
    (hrel : o = .rel ∨ o = .acqRel → x.released sc = true) (hp : x.g.y.path (min (rSpace rc) 2) < 65535) :
    redBody op a b k sc o x =
      .ok ((x.reds (rSpace rc) op (teamRel o sc) (x.laneVal b.src) cs).count1 (rSpace rc)) := by
  rw [redBody, hx, hc]
  simp only [order_goes hrel, path_goes hp, Bool.false_eq_true, Bool.true_eq_false, if_false]

/-- The end of an ATOM that has left `u` and read `f`: its registers and the views of memory. -/
theorem atom_ended {u : State} (ha : Adopted s x) (hu : Accessed x u) (d : BitVec 7) (f : Nat → W32) (l : List Src) :
    ((u.setLanes d f).ended l 8).g.r = { ({ s.g.r with exm := x.g.r.exm } : Regs).writeV d.toNat x.g.r.exm f with
      pc := s.g.r.pc + 8 } ∧
    tileView ((u.setLanes d f).ended l 8) = tileView u ∧ spadView ((u.setLanes d f).ended l 8) = spadView u := by
  obtain ⟨-, hr, -, -⟩ := Accessed.g ha hu
  obtain ⟨-, -, hrt, -⟩ := ended_frame (u.setLanes d f) l 8
  have hs : (u.setLanes d f).g.r = ({ s.g.r with exm := x.g.r.exm } : Regs).writeV d.toNat x.g.r.exm f := by
    rw [State.setLanes, State.modG_g, hr]
  rw [hs, Regs.writeV_pc] at hrt
  exact ⟨hrt, ended_views (u.setLanes d f) 0 l 8⟩

/-- The same of a RED. -/
theorem red_ended {u : State} (ha : Adopted s x) (hu : Accessed x u) (sp : Nat) (l : List Src) :
    ((u.count1 sp).ended l 8).g.r = { s.g.r with exm := x.g.r.exm, pc := s.g.r.pc + 8 } ∧
    tileView ((u.count1 sp).ended l 8) = tileView u ∧ ∀ j, ((u.count1 sp).ended l 8).die j = u.die j := by
  obtain ⟨-, hr, -, -⟩ := Accessed.g ha hu
  obtain ⟨⟨hout, -⟩, -, hrt, -⟩ := ended_frame (u.count1 sp) l 8
  have h1 : ((u.count1 sp).ended l 8).dies = (u.count1 sp).dies := (congrArg State.dies hout.1 :)
  have h2 : (u.count1 sp).dies = u.dies := (congrArg State.dies (only_count1 u sp).1 :)
  rw [count1_g, hr] at hrt
  exact ⟨hrt, (ended_views u sp l 8).1, fun j => by rw [State.die, State.die, h1, h2]⟩

end

/-! The one access of an instruction. -/

section
variable {op : AOp} {rel : Bool} {v w : Nat → W32} {c : LAcc} {th ad : Nat} {p : TLoc}

/-- A read-modify-write of tile memory. -/
theorem lrmw_written (hsp : rSpace rc < 2) (hp : placeOf x rc 4 c = some p) (hs : x.inStaging p 4 = false) :
    ∃ ad, c.at? = some ad ∧ ∀ f, (x.lrmw (rSpace rc) ad f).1 = x.tword p ∧
      Written (tileView x) [p.write (leBytes 4 (f (x.tword p)).toNat)] (tileView (x.lrmw (rSpace rc) ad f).2) := by
  obtain ⟨ad, hc, hl⟩ := Option.bind_eq_some_iff.1 hp
  refine ⟨ad, hc, fun f => ?_⟩
  rw [lrmw_local (by omega) hl hs]
  exact ⟨rfl, tstore_written ..⟩

theorem loaded_one (t : Nat) (v : W32) : loaded [(t, 0, v)] 0 t = v := by simp [loaded]

theorem atoms_tile (hsp : rSpace rc < 2) (hth : cs.map (fun c => c.t) = [th]) (hpl : ∀ c ∈ cs, placeOf x rc 4 c = some p)
    (hs : x.inStaging p 4 = false) : loaded (x.atoms (rSpace rc) op rel v w cs).1 0 th = x.tword p ∧
      Written (tileView x) [p.write (leBytes 4 (aop op (x.tword p) (v th) (w th)).toNat)]
        (tileView (x.atoms (rSpace rc) op rel v w cs).2) := by
  obtain ⟨c, rfl, rfl⟩ := List.map_eq_singleton_iff.1 hth
  obtain ⟨ad, hc, hrmw⟩ := lrmw_written hsp (hpl c (by simp)) hs
  rw [atoms_one hc, loaded_one]
  exact hrmw _

theorem atoms_home (hth : cs.map (fun c => c.t) = [th]) (had : ∀ c ∈ cs, c.at? = some ad) (h : AtHome x cs) :
    loaded (x.atoms 2 op rel v w cs).1 0 th = x.spadWord (dieOf x.cn) ad ∧
      Written (spadView x) [(dieOf x.cn, ad, leBytes 4 (aop op (x.spadWord (dieOf x.cn) ad) (v th) (w th)).toNat)]
        (spadView (x.atoms 2 op rel v w cs).2) := by
  obtain ⟨c, rfl, rfl⟩ := List.map_eq_singleton_iff.1 hth
  have hc := had c (by simp)
  rw [atoms_one hc, loaded_one]
  exact lrmw_home h hc _

theorem reds_tile (hsp : rSpace rc < 2) (hth : cs.map (fun c => c.t) = [th]) (hpl : ∀ c ∈ cs, placeOf x rc 4 c = some p)
    (hs : x.inStaging p 4 = false) : Written (tileView x) [p.write (leBytes 4 (aop op (x.tword p) (v th) 0).toNat)]
      (tileView (x.reds (rSpace rc) op rel v cs)) := by
  obtain ⟨c, rfl, rfl⟩ := List.map_eq_singleton_iff.1 hth
  obtain ⟨ad, hc, hrmw⟩ := lrmw_written hsp (hpl c (by simp)) hs
  rw [reds_one hc, if_neg (by omega)]
  exact (hrmw (fun old => aop op old (v c.t) 0)).2

theorem reds_home (hth : cs.map (fun c => c.t) = [th]) (had : ∀ c ∈ cs, c.at? = some ad) (h : AtHome x cs) :
    (tget DirSt.i (x.die (dieOf x.cn)).dir (ad / 4096) ≠ .i → Written (spadView x)
      [(dieOf x.cn, ad, leBytes 4 (aop op (x.spadWord (dieOf x.cn) ad) (v th) 0).toNat)] (spadView (x.reds 2 op rel v cs))) ∧
    (tget DirSt.i (x.die (dieOf x.cn)).dir (ad / 4096) = .i → tget [] (x.die (dieOf x.cn)).parts (ad / 4096) = [] →
      ((x.reds 2 op rel v cs).die (dieOf x.cn)).spad = (x.die (dieOf x.cn)).spad ∧
      tget DirSt.i ((x.reds 2 op rel v cs).die (dieOf x.cn)).dir (ad / 4096) = .u op ∧
      tget [] ((x.reds 2 op rel v cs).die (dieOf x.cn)).parts (ad / 4096) =
        [(x.cn, ad % 4096, aop op (aopId op) (v th) 0)]) := by
  obtain ⟨c, rfl, rfl⟩ := List.map_eq_singleton_iff.1 hth
  have hc := had c (by simp)
  obtain ⟨hr, hs, hu⟩ := atHome_head h hc
  rw [reds_one hc, if_pos ⟨rfl, hs⟩]
  exact ⟨fun hi => dirRed_held hr hu hi op _, fun hi hp => dirRed_open hr hi hp op _⟩

end

end

/-- Settles O23: a word is read, modified and written where its one access reaches. -/
theorem atomics : Obligations.Atomics := by
  intro s x op d a b c k sc o cs rc sels hrc hck hrel hpath
  refine ⟨aop_cases op, fun hsels hr => ?_, fun hcas hr => ?_⟩
  all_goals
    obtain ⟨hready, harm⟩ := hr
    obtain ⟨ha, -, -⟩ := ready_ok hready
    have hxb : x.g.r.getB k.toNat = rc := by rw [ha.r, hrc]; rfl
    have hp' : x.g.y.path (min (rSpace rc) 2) < 65535 := by rw [ha.y]; exact hpath
    obtain ⟨hvt, hvs⟩ := adopted_views ha
    have hcn : x.cn = s.cn := ha.only.cn
  · have hbody := atomBody_ok (op := op) (d := d) (b := b) (c := c) hxb hck hrel hp'
    generalize hq : (x.promotes (rSpace rc) o sc cs).atoms (rSpace rc) op (teamRel o sc) (x.laneVal b.src) (x.laneVal c.src) cs = q
      at hbody
    have hacc : Accessed x q.2 := by rw [← hq]; exact (promotes_accessed ..).trans (atoms_accessed ..)
    have hrun := run_ends (len := 8) hready hbody (by
      obtain ⟨-, -, -, hy⟩ := Accessed.g ha hacc
      rw [State.setLanes, State.modG_g, hy]
      exact harm)
    rw [hsels, ← exec_atom, ← hsels] at hrun
    obtain ⟨hregs, htile, hspad⟩ := atom_ended ha hacc d (loaded q.1 0) (sels.map (fun a => a.src))
    generalize (q.2.setLanes d (loaded q.1 0)).ended (sels.map (fun a => a.src)) 8 = t at hrun hregs htile hspad
    have hlane : ∀ r th, th < 16 → t.g.r.getV r th = if r = d.toNat ∧ x.g.r.exm.getLsbD th = true then loaded q.1 0 th else
        s.g.r.getV r th := fun r th h => by
      rw [hregs]
      exact Regs.writeV_getV _ _ _ _ _ _ h
    refine ⟨t, hrun, by rw [hregs], fun r th h hn => ?_, ?_, fun th p hsp hord hth hpl hst => ?_,
      fun th ad hsp hord hth had hhome => ?_⟩
    · rw [hlane r th h, if_neg]
      rintro ⟨h1, h2⟩
      exact hn.elim (fun h => h h1) (fun h => by rw [h2] at h; cases h)
    · rw [hregs]
      exact (congrArg (fun (z : Regs) => { z with pc := s.g.r.pc + 8 }) (Regs.writeV_rest _ _ _ _) :)
    · obtain ⟨hlt, hact⟩ := active_of_access hck hth
      rw [promotes_of_not_rteam hord] at hq
      obtain ⟨hold, hw⟩ := atoms_tile (op := op) (rel := teamRel o sc) (v := x.laneVal b.src) (w := x.laneVal c.src) hsp hth hpl hst
      rw [hq, hvt, ← htile] at hw
      rw [hq] at hold
      exact ⟨by rw [hlane _ _ hlt, if_pos ⟨rfl, hact⟩, hold]; rfl, word_left hw⟩
    · obtain ⟨hlt, hact⟩ := active_of_access hck hth
      rw [promotes_of_not_rteam hord, hsp] at hq
      obtain ⟨hold, hw⟩ := atoms_home (op := op) (rel := teamRel o sc) (v := x.laneVal b.src) (w := x.laneVal c.src) hth had hhome
      rw [hq, hvs, hcn, ← hspad] at hw
      rw [hq, hcn] at hold
      exact ⟨by rw [hlane _ _ hlt, if_pos ⟨rfl, hact⟩, hold]; rfl, homeLeft_of_written hw⟩
  · have hbody := redBody_ok (op := op) (b := b) hxb hck hrel hp'
    generalize hq : x.reds (rSpace rc) op (teamRel o sc) (x.laneVal b.src) cs = q at hbody
    have hacc : Accessed x q := by rw [← hq]; exact reds_accessed ..
    obtain ⟨-, -, -, hqy⟩ := Accessed.g ha hacc
    have hrun := run_ends (len := 8) hready hbody (by rw [count1_g, hqy]; exact harm)
    rw [← exec_red] at hrun
    obtain ⟨hregs, htile, hdies⟩ := red_ended ha hacc (rSpace rc) ([a, b].map (fun a => a.src))
    generalize (q.count1 (rSpace rc)).ended ([a, b].map (fun a => a.src)) 8 = t at hrun hregs htile hdies
    refine ⟨t, hrun, hregs, fun th p hsp hth hpl hst => ?_, fun th ad hsp hth had hhome => ?_⟩
    · have hw := reds_tile (op := op) (rel := teamRel o sc) (v := x.laneVal b.src) hsp hth hpl hst
      rw [hq, hvt, ← htile] at hw
      exact word_left hw
    · obtain ⟨hheld, hopen⟩ := reds_home (op := op) (rel := teamRel o sc) (v := x.laneVal b.src) hth had hhome
      have hxd : ∀ j, x.die j = s.die j := fun j => by
        have h1 : x.dies = s.dies := (congrArg State.dies ha.only.1 :)
        rw [State.die, State.die, h1]
      rw [← hsp, hq] at hheld hopen
      rw [hcn, hxd] at hopen
      rw [hcn, hxd, hvs, State.spadWord, hxd] at hheld
      have hspad : spadView t = spadView q := funext fun j => funext fun y => congrArg (fun (z : Die) => mget z.spad y) (hdies j)
      rw [← hdies] at hopen
      exact ⟨fun hi => homeLeft_of_written (hspad ▸ hheld hi), hopen⟩

end Sys2Proof.Claims
end

section
/-! Loads (07 R158, R159; 13 R344; O21): a load with acquire and release at RTEAM scope promotes a release as an acquire does. -/

namespace Sys2Proof.Claims

open Sys2Proof.Machine

/-- A record of one 32-bit word, the first of the tile memory of rank 0 of the cluster (SPACE 1). -/
def rankWord : BitVec 256 := BitVec.ofNat 256 (2 ^ 64 + 2 ^ 96 + 2 * 2 ^ 192 + 2 ^ 200)

/-- A launch record of one team, of two segments. -/
def oneTeam : List W32 := [0, 0, 0, 0x21103, 0, 0x00010001, 1]

/-- The word of `rankWord` was written by a release at TEAM scope from core 0, which holds byte 0 of the software-managed segment 0
of the die's scratchpad, dirty, with value 1. -/
def wordReleased : State :=
  { State.reset with
    launches := [(0, { Launch.reset with live := true, rcd := oneTeam })]
    teams := [(0, { Team.reset with st := .resident })]
    groups := [(0, { Group.reset with r := { Regs.reset with b := [(0, rankWord)] } })]
    cores := [(0, { Core.reset with segs := [⟨0, true, [(0, 1)], [0], []⟩] })]
    dies := [(0, { Die.reset with sprgn := [(0, BitVec.ofNat 64 (2 ^ 47 + 2 ^ 46 + 2 ^ 16))] })]
    rels := [((0, 0, 0), some 0, 0, 0)] }

/-- LDL of that word, with acquire and release at RTEAM scope. -/
def promotingLoad : Instr := .ldl 0 ⟨.const 0, false⟩ 0 .rteam .acqRel

/-- Byte 0 of the scratchpad of die 0, after a step. -/
def spadByteAfter (r : Host.Outcome State Fault Refusal) : Option Byte :=
  match r with
  | .next t => some (mget (t.die 0).spad 0)
  | _ => none

/-- Sixteen accesses, of all threads, to the word. -/
def wordAccesses : List LAcc := (List.range 16).map (fun t => ⟨t, 0, some 0⟩)

theorem wordReleased_checked : wordReleased.checkAll (loadKind (recBytes rankWord) .acqRel) rankWord
    (wordReleased.laneVal (.const 0)) wordReleased.words1 = .ok wordAccesses := by
  rfl

theorem wordReleased_outOfStaging : OutOfStaging wordReleased rankWord (recBytes rankWord) wordAccesses := by
  intro c hc p hp
  have hplace : ∀ c ∈ wordAccesses, placeOf wordReleased rankWord (recBytes rankWord) c = some (.data 0 0) := by decide +kernel
  rw [hplace c hc] at hp
  cases hp
  decide +kernel

/-- The load writes the dirty byte back. -/
theorem promotingLoad_spad : spadByteAfter (exec promotingLoad wordReleased) = some 1 := by decide +kernel

/-- Refutes O21 by its clause on space 1: the premise `¬(o = .acq ∧ sc = .rteam)` lets acquire-release at RTEAM scope through, an
order that no load encodes (R158) and that the model promotes as it does an acquire (`State.promotes`, 13 R344), so that
the die's scratchpad changes. -/
theorem not_loads : ¬ Obligations.Loads := by
  rintro ⟨-, hafar⟩
  obtain ⟨t, vals, hex, -, -, -, -, -, -, -, -, -, hnear, -⟩ := hafar wordReleased wordReleased 0 ⟨.const 0, false⟩ 0 .rteam .acqRel
    wordAccesses rankWord false rfl (.inl (by decide +kernel)) (by decide) ⟨rfl, rfl⟩ wordReleased_checked (by decide +kernel)
    (fun _ _ _ _ h => absurd h (by decide +kernel))
  obtain ⟨-, hdie⟩ := hnear (by decide +kernel) (by decide) wordReleased_outOfStaging
  have hbyte : some (mget (t.die 0).spad 0) = some 1 := by
    rw [← promotingLoad_spad]
    exact (congrArg spadByteAfter hex).symm
  rw [hdie 0] at hbyte
  exact absurd hbyte (by decide +kernel)

end Sys2Proof.Claims
end

section
/-! The values of the integer lane instructions (08 R187 to R195): each function of the model, by the bits and numbers of the
manual's tables. -/

namespace Sys2Proof.Machine

/-! Arithmetic (R187). -/

theorem mul_eq_ofNat (x y : W32) : x * y = BitVec.ofNat 32 (x.toNat * y.toNat) :=
  BitVec.eq_of_toNat_eq (by simp)

theorem mulh_eq (x y : W32) : mulh x y = BitVec.ofInt 32 (x.toInt * y.toInt / 2 ^ 32) := by
  have hmul : (x.signExtend 64 * y.signExtend 64) = BitVec.ofInt 64 (x.toInt * y.toInt) := by
    rw [BitVec.ofInt_mul]
    rfl
  refine BitVec.eq_of_toNat_eq ?_
  rw [mulh, hmul, BitVec.extractLsb'_toNat, BitVec.toNat_ofInt, BitVec.toNat_ofInt, Nat.shiftRight_eq_div_pow]
  generalize x.toInt * y.toInt = p
  omega

theorem mulhu_eq (x y : W32) : mulhu x y = BitVec.ofNat 32 (x.toNat * y.toNat / 2 ^ 32) := by
  have hx := x.isLt
  have hy := y.isLt
  have hlt : x.toNat * y.toNat < 2 ^ 32 * 2 ^ 32 := Nat.mul_lt_mul'' hx hy
  refine BitVec.eq_of_toNat_eq ?_
  simp only [mulhu, BitVec.extractLsb'_toNat, BitVec.toNat_mul, BitVec.truncate_eq_setWidth, BitVec.toNat_setWidth,
    Nat.shiftRight_eq_div_pow, BitVec.toNat_ofNat]
  rw [Nat.mod_eq_of_lt (show x.toNat < 2 ^ 64 by omega), Nat.mod_eq_of_lt (show y.toNat < 2 ^ 64 by omega)]
  omega

theorem smin_eq (x y : W32) : smin x y = if x.toInt ≤ y.toInt then x else y := by simp [smin, BitVec.sle_iff_toInt_le]

theorem smax_eq (x y : W32) : smax x y = if x.toInt ≤ y.toInt then y else x := by simp [smax, BitVec.sle_iff_toInt_le]

theorem umin_eq (x y : W32) : umin x y = if x.toNat ≤ y.toNat then x else y := by simp [umin, BitVec.ule]

theorem umax_eq (x y : W32) : umax x y = if x.toNat ≤ y.toNat then y else x := by simp [umax, BitVec.ule]

theorem zero_sub_eq_ofInt (x : W32) : 0 - x = BitVec.ofInt 32 (0 - x.toInt) := by
  rw [← BitVec.ofInt_toInt (x := 0 - x), Int.zero_sub, BitVec.ofInt_neg, BitVec.ofInt_toInt, BitVec.ofInt_toInt]
  simp

theorem absW_eq (x : W32) : absW x = BitVec.ofNat 32 x.toInt.natAbs := by
  refine BitVec.eq_of_toNat_eq ?_
  rw [absW, BitVec.toInt_eq_msb_cond]
  have := x.isLt
  split
  · simp
    omega
  · simp

/-! Bits and shifts (R187). -/

/-- A word given bit by bit. -/
theorem eq_ofFnLE {n : Nat} {v : BitVec n} {f : Fin n → Bool} (h : ∀ (k : Nat) (hk : k < n), v.getLsbD k = f ⟨k, hk⟩) :
    v = BitVec.ofFnLE f :=
  BitVec.eq_of_getLsbD_eq fun k hk => by rw [BitVec.getLsbD_ofFnLE, dif_pos hk, h k hk]

theorem and_eq_bits (x y : W32) : x &&& y = BitVec.ofFnLE (fun k : Fin 32 => x.getLsbD k && y.getLsbD k) :=
  eq_ofFnLE fun _ _ => BitVec.getLsbD_and

theorem or_eq_bits (x y : W32) : x ||| y = BitVec.ofFnLE (fun k : Fin 32 => x.getLsbD k || y.getLsbD k) :=
  eq_ofFnLE fun _ _ => BitVec.getLsbD_or

theorem xor_eq_bits (x y : W32) : x ^^^ y = BitVec.ofFnLE (fun k : Fin 32 => x.getLsbD k != y.getLsbD k) :=
  eq_ofFnLE fun _ _ => BitVec.getLsbD_xor

theorem not_eq_bits (x : W32) : ~~~x = BitVec.ofFnLE (fun k : Fin 32 => !x.getLsbD k) :=
  eq_ofFnLE fun k hk => by rw [BitVec.getLsbD_not, decide_eq_true hk, Bool.true_and]

theorem andn_eq_bits (x y : W32) : x &&& ~~~y = BitVec.ofFnLE (fun k : Fin 32 => x.getLsbD k && !y.getLsbD k) :=
  eq_ofFnLE fun k hk => by rw [BitVec.getLsbD_and, BitVec.getLsbD_not, decide_eq_true hk, Bool.true_and]

theorem shl_eq (x y : W32) : x <<< shAmt y = BitVec.ofNat 32 (x.toNat * 2 ^ (y.toNat % 32)) :=
  BitVec.eq_of_toNat_eq (by simp [shAmt, Nat.shiftLeft_eq])

theorem shr_eq (x y : W32) : x >>> shAmt y = BitVec.ofNat 32 (x.toNat / 2 ^ (y.toNat % 32)) :=
  BitVec.eq_of_toNat_eq (by
    rw [shAmt, BitVec.toNat_ushiftRight, Nat.shiftRight_eq_div_pow, BitVec.toNat_ofNat,
      Nat.mod_eq_of_lt (Nat.lt_of_le_of_lt (Nat.div_le_self ..) x.isLt)])

theorem sar_eq (x y : W32) : x.sshiftRight (shAmt y) = BitVec.ofInt 32 (x.toInt / 2 ^ (y.toNat % 32)) := by
  rw [← BitVec.ofInt_toInt (x := x.sshiftRight _), BitVec.toInt_sshiftRight, Int.shiftRight_eq_div_pow, shAmt]
  norm_cast

theorem rot_eq (x y : W32) :
    x.rotateLeft (shAmt y) = BitVec.ofFnLE (fun k : Fin 32 => x.getLsbD ((k + 32 - y.toNat % 32) % 32)) := by
  refine eq_ofFnLE fun k hk => ?_
  rw [BitVec.getLsbD_rotateLeft, shAmt, Nat.mod_mod]
  by_cases h : k < y.toNat % 32
  · simp only [h, decide_true, cond_true]
    congr 1
    omega
  · simp only [h, decide_false, cond_false, hk, decide_true, Bool.true_and]
    congr 1
    omega

/-! Unary functions (R189). -/

theorem popcount_eq (x : W32) :
    popcount x = BitVec.ofNat 32 (((List.range 32).filter (fun k => x.getLsbD k)).length) := by
  rw [popcount, List.countP_eq_length_filter]

/-- The leading zeros of a word that is not 0 end at its highest 1 bit. -/
theorem clz_eq (x : W32) :
    clz x = BitVec.ofNat 32 (((List.range 32).find? (fun k => x.getLsbD (31 - k))).getD 32) := by
  rw [clz]
  split
  · next h =>
    subst h
    rfl
  · next h =>
    have h0 : x.toNat ≠ 0 := fun h0 => h (BitVec.eq_of_toNat_eq h0)
    have hlog : Nat.log2 x.toNat < 32 := (Nat.log2_lt h0).2 x.isLt
    have hfind : (List.range 32).find? (fun k => x.getLsbD (31 - k)) = some (31 - Nat.log2 x.toNat) := by
      rw [List.find?_range_eq_some]
      refine ⟨?_, List.mem_range.2 (by omega), fun j hj => ?_⟩
      · rw [show 31 - (31 - Nat.log2 x.toNat) = Nat.log2 x.toNat by omega]
        exact Nat.testBit_log2 h0
      · have hlt : x.toNat < 2 ^ (31 - j) := (Nat.log2_lt h0).1 (by omega)
        simp [BitVec.getLsbD, Nat.testBit_lt_two_pow hlt]
    rw [hfind, Option.getD_some]

theorem brev_eq (x : W32) : brev x = BitVec.ofFnLE (fun k : Fin 32 => x.getLsbD (31 - k)) :=
  eq_ofFnLE fun k hk => by
    rw [brev, BitVec.getLsbD_reverse, BitVec.getMsbD, decide_eq_true hk, Bool.true_and]

theorem bswap_eq (x : W32) :
    bswap x = BitVec.ofFnLE (fun k : Fin 32 => x.getLsbD (8 * (3 - k / 8) + k % 8)) := by
  refine eq_ofFnLE fun k hk => ?_
  simp only [bswap, BitVec.getLsbD_append, BitVec.getLsbD_extractLsb']
  split_ifs
  · rw [decide_eq_true (by omega), Bool.true_and, show 24 + k = 8 * (3 - k / 8) + k % 8 by omega]
  · rw [decide_eq_true (by omega), Bool.true_and, show 16 + (k - 8) = 8 * (3 - k / 8) + k % 8 by omega]
  · rw [decide_eq_true (by omega), Bool.true_and, show 8 + (k - 8 - 8) = 8 * (3 - k / 8) + k % 8 by omega]
  · rw [decide_eq_true (by omega), Bool.true_and, show 0 + (k - 8 - 8 - 8) = 8 * (3 - k / 8) + k % 8 by omega]

theorem signExtend_truncate_eq {n : Nat} (hn : 0 < n) (h32 : n ≤ 32) (x : W32) :
    (x.truncate n).signExtend 32 = BitVec.ofFnLE (fun k : Fin 32 => x.getLsbD (min k (n - 1))) := by
  refine eq_ofFnLE fun k hk => ?_
  rw [BitVec.getLsbD_signExtend, decide_eq_true hk, Bool.true_and, BitVec.msb_eq_getLsbD_last]
  simp only [BitVec.truncate_eq_setWidth, BitVec.getLsbD_setWidth]
  split
  · next h => rw [decide_eq_true h, Bool.true_and, Nat.min_eq_left (by omega)]
  · rw [decide_eq_true (by omega), Bool.true_and, Nat.min_eq_right (by omega)]

theorem and_lowMask_eq (n : Nat) (x : W32) : x &&& lowMask n = BitVec.ofNat 32 (x.toNat % 2 ^ n) := by
  rw [lowMask, ← Nat.and_two_pow_sub_one_eq_mod, BitVec.ofNat_and, BitVec.ofNat_toNat, BitVec.setWidth_eq]

/-! Bit fields (R190). -/

theorem getLsbD_lowMask {k : Nat} (n : Nat) (hk : k < 32) : (lowMask n).getLsbD k = decide (k < n) := by
  rw [lowMask, BitVec.getLsbD_ofNat, Nat.testBit_two_pow_sub_one, decide_eq_true hk, Bool.true_and]

theorem fPos_eq (b : W32) : fPos b = b.toNat % 32 := by simp [fPos, fieldOf]

theorem fLen_eq (b : W32) : fLen b = min (b.toNat / 256 % 64) (32 - b.toNat % 32) := by rw [fLen, fPos_eq]; rfl

/-- Bit `k` of the field of `a` that `b` describes. -/
theorem getLsbD_field {a b : W32} {k : Nat} (hk : k < 32) :
    ((a >>> fPos b) &&& lowMask (fLen b)).getLsbD k = (decide (k < fLen b) && a.getLsbD (fPos b + k)) := by
  rw [BitVec.getLsbD_and, BitVec.getLsbD_ushiftRight, getLsbD_lowMask _ hk, Bool.and_comm]

/-- The sign of the field of `a` that `b` describes. -/
theorem getLsbD_field_last {a b : W32} (h : fLen b ≠ 0) :
    ((a >>> fPos b) &&& lowMask (fLen b)).getLsbD (fLen b - 1) = a.getLsbD (fPos b + fLen b - 1) := by
  have hlen : fLen b ≤ 32 := by unfold fLen; omega
  rw [getLsbD_field (by omega), decide_eq_true (by omega), Bool.true_and,
    show fPos b + (fLen b - 1) = fPos b + fLen b - 1 by omega]

theorem getLsbD_bfe {a b : W32} {k : Nat} (hk : k < 32) : (bfe a b).getLsbD k =
    if k < fLen b then a.getLsbD (fPos b + k)
    else decide (fLen b ≠ 0) && b.getLsbD 16 && a.getLsbD (fPos b + fLen b - 1) := by
  unfold bfe
  dsimp only
  split
  · next h =>
    obtain ⟨h0, h16, hs⟩ := h
    rw [getLsbD_field_last h0] at hs
    rw [BitVec.getLsbD_or, getLsbD_field hk, BitVec.getLsbD_not, getLsbD_lowMask _ hk, hs, h16]
    split <;> simp [*]
  · next h =>
    have hno : (decide (fLen b ≠ 0) && b.getLsbD 16 && a.getLsbD (fPos b + fLen b - 1)) = false := by
      by_contra hc
      simp only [Bool.not_eq_false, Bool.and_eq_true, decide_eq_true_eq] at hc
      exact h ⟨hc.1.1, hc.1.2, (getLsbD_field_last hc.1.1).trans hc.2⟩
    rw [getLsbD_field hk, hno]
    split <;> simp [*]

theorem getLsbD_bfi {a b d : W32} {k : Nat} (hk : k < 32) : (bfi a b d).getLsbD k =
    if fPos b ≤ k ∧ k < fPos b + fLen b then a.getLsbD (k - fPos b) else d.getLsbD k := by
  have hmask : (lowMask (fLen b) <<< fPos b).getLsbD k = decide (fPos b ≤ k ∧ k < fPos b + fLen b) := by
    rw [BitVec.getLsbD_shiftLeft, getLsbD_lowMask _ (by omega), Bool.eq_iff_iff]
    simp only [Bool.and_eq_true, decide_eq_true_eq, Bool.not_eq_true', decide_eq_false_iff_not]
    omega
  unfold bfi
  rw [BitVec.getLsbD_or, BitVec.getLsbD_and, BitVec.getLsbD_and, BitVec.getLsbD_not, hmask, BitVec.getLsbD_shiftLeft]
  split
  · next h => simp [h, hk]
  · next h => simp [h, hk]

theorem bfe_eq (a b : W32) : bfe a b =
    let pos := b.toNat % 32
    let n := min (b.toNat / 256 % 64) (32 - pos)
    BitVec.ofFnLE (fun k : Fin 32 =>
      if k.val < n then a.getLsbD (pos + k) else decide (n ≠ 0) && b.getLsbD 16 && a.getLsbD (pos + n - 1)) :=
  eq_ofFnLE fun k hk => by rw [getLsbD_bfe hk, fLen_eq, fPos_eq]

theorem bfi_eq (a b d : W32) : bfi a b d =
    let pos := b.toNat % 32
    let n := min (b.toNat / 256 % 64) (32 - pos)
    BitVec.ofFnLE (fun k : Fin 32 => if pos ≤ k ∧ k < pos + n then a.getLsbD (k - pos) else d.getLsbD k) :=
  eq_ofFnLE fun k hk => by rw [getLsbD_bfi hk, fLen_eq, fPos_eq]

/-! The carry-less product (R191). -/

/-- Parity of a count, one more element. -/
theorem countP_range_succ_odd (p : Nat → Bool) (n : Nat) :
    ((List.range (n + 1)).countP p % 2 == 1) = (((List.range n).countP p % 2 == 1) ^^ p n) := by
  rw [List.range_succ, List.countP_append, List.countP_singleton]
  rcases Nat.mod_two_eq_zero_or_one ((List.range n).countP p) with h | h <;> cases p n <;> simp [Nat.add_mod, h]

theorem countP_range_eq_of_le {p : Nat → Bool} {n m : Nat} (h : n ≤ m) (hp : ∀ k, n ≤ k → p k = false) :
    (List.range m).countP p = (List.range n).countP p := by
  obtain ⟨j, rfl⟩ := Nat.exists_eq_add_of_le h
  rw [List.range_add, List.countP_append, List.countP_map, Nat.add_eq_left, List.countP_eq_zero]
  intro k _
  simp [hp (n + k) (by omega)]

theorem countP_range_reflect (p : Nat → Bool) (n : Nat) :
    (List.range (n + 1)).countP p = (List.range (n + 1)).countP (fun k => p (n - k)) := by
  rw [← List.countP_reverse, List.range_eq_range', List.reverse_range', List.countP_map]
  simp [List.range_eq_range', Function.comp_def]

/-- Bit `k` of the carry-less product: the parity of the pairs of 1 bits whose places add up to `k` (R191). -/
theorem getLsbD_clmul {a b : W32} {k : Nat} (hk : k < 64) : (clmul a b).getLsbD k =
    (((List.range (k + 1)).filter (fun j => a.getLsbD j && b.getLsbD (k - j))).length % 2 == 1) := by
  have hfold (n : Nat) : ((List.range n).foldl (fun (p : W64) i => if b.getLsbD i then p ^^^ (a.zeroExtend 64 <<< i) else p)
      0).getLsbD k = ((List.range n).countP (fun i => b.getLsbD i && decide (i ≤ k) && a.getLsbD (k - i)) % 2 == 1) := by
    induction n with
    | zero => simp
    | succ n ih =>
      rw [countP_range_succ_odd, ← ih, List.range_succ, List.foldl_append, List.foldl_cons, List.foldl_nil]
      cases b.getLsbD n with
      | false => simp
      | true =>
        rw [if_pos rfl, BitVec.getLsbD_xor, BitVec.getLsbD_shiftLeft]
        by_cases hn : n ≤ k
        · simp [hk, hn, Nat.not_lt.2 hn, show k - n < 64 by omega]
        · simp [hk, hn, Nat.lt_of_not_le hn]
  have hsame : (List.range 32).countP (fun i => b.getLsbD i && decide (i ≤ k) && a.getLsbD (k - i)) =
      (List.range (k + 1)).countP (fun i => b.getLsbD i && decide (i ≤ k) && a.getLsbD (k - i)) := by
    rw [← countP_range_eq_of_le (show 32 ≤ 64 by omega) fun i hi => ?_,
      ← countP_range_eq_of_le (show k + 1 ≤ 64 by omega) fun i hi => ?_]
    · simp [show ¬ i ≤ k by omega]
    · simp [b.getLsbD_of_ge i hi]
  have hpairs : (List.range (k + 1)).countP (fun i => b.getLsbD i && decide (i ≤ k) && a.getLsbD (k - i)) =
      (List.range (k + 1)).countP (fun j => a.getLsbD j && b.getLsbD (k - j)) := by
    rw [countP_range_reflect (fun j => a.getLsbD j && b.getLsbD (k - j))]
    refine List.countP_congr fun i hi => ?_
    have hi' : i ≤ k := by simpa [Nat.lt_succ_iff] using hi
    rw [Nat.sub_sub_self hi', decide_eq_true hi', Bool.and_true, Bool.and_comm]
  rw [clmul, hfold, hsame, hpairs, List.countP_eq_length_filter]

theorem clmul_low_eq (x y : W32) : (clmul x y).extractLsb' 0 32 = BitVec.ofFnLE (fun k : Fin 32 =>
    ((List.range (k + 1)).filter (fun j => x.getLsbD j && y.getLsbD (k - j))).length % 2 == 1) :=
  eq_ofFnLE fun k hk => by
    rw [BitVec.getLsbD_extractLsb', decide_eq_true hk, Bool.true_and, Nat.zero_add, getLsbD_clmul (by omega)]

theorem clmul_high_eq (x y : W32) : (clmul x y).extractLsb' 32 32 = BitVec.ofFnLE (fun k : Fin 32 =>
    ((List.range (k + 33)).filter (fun j => x.getLsbD j && y.getLsbD (k + 32 - j))).length % 2 == 1) :=
  eq_ofFnLE fun k hk => by
    rw [BitVec.getLsbD_extractLsb', decide_eq_true hk, Bool.true_and, Nat.add_comm 32 k, getLsbD_clmul (by omega)]

end Sys2Proof.Machine
end

section
/-! What a lane instruction leaves: lanes of its destination, the flags of the active threads and SRCNT (05 R109, R117, R119;
08 R186). -/

namespace Sys2Proof.Machine

open Sys2Proof.Claims Sys2Proof.Safety

/-- The body of a lane instruction has taken `x` to `y`: the registers of its group apart, FPFLAGS and SRCNT are `fl` and
`cnt`, and what readers met of the old values may be gone. -/
structure LaneLeft (x y : State) (fl cnt : W32) : Prop where
  only : Only x y
  g : y.g = { x.g with
    r := y.g.r
    sys := { x.g.sys with fpflags := fl, srcnt := cnt }
    y := { x.g.y with errs := y.g.y.errs } }

theorem LaneLeft.refl (x : State) : LaneLeft x x x.g.sys.fpflags x.g.sys.srcnt := ⟨.refl x, rfl⟩

theorem LaneLeft.modG {x y : State} {fl cnt fl' cnt' : W32} (h : LaneLeft x y fl cnt) (f : Group → Group)
    (hf : ∀ g : Group, f g = { g with
      r := (f g).r
      sys := { g.sys with fpflags := (f g).sys.fpflags, srcnt := (f g).sys.srcnt }
      y := { g.y with errs := (f g).y.errs } })
    (hfl : (f y.g).sys.fpflags = fl') (hcnt : (f y.g).sys.srcnt = cnt') : LaneLeft x (y.modG f) fl' cnt' := by
  refine ⟨h.only.trans (only_modG y f), ?_⟩
  rw [State.modG_g, hf y.g, hfl, hcnt]
  rw [h.g]

theorem LaneLeft.setLanes {x y : State} {fl cnt : W32} (h : LaneLeft x y fl cnt) (d : BitVec 7) (f : Nat → W32) :
    LaneLeft x (y.setLanes d f) fl cnt :=
  h.modG _ (fun _ => rfl) (congrArg (fun g : Group => g.sys.fpflags) h.g :) (congrArg (fun g : Group => g.sys.srcnt) h.g :)

theorem LaneLeft.orFlags {x y : State} {fl cnt : W32} (h : LaneLeft x y fl cnt) (e : FFlags) :
    LaneLeft x (y.orFlags e) (fl ||| e.zeroExtend 32) cnt := by
  unfold State.orFlags
  exact h.modG _ (fun _ => rfl) (congrArg (fun g : Group => g.sys.fpflags ||| e.zeroExtend 32) h.g :)
    (congrArg (fun g : Group => g.sys.srcnt) h.g :)

theorem LaneLeft.countSr {x y : State} {fl cnt : W32} (h : LaneLeft x y fl cnt) (m : RMode) :
    LaneLeft x (y.countSr m) fl (if m = .sr then cnt + 1 else cnt) := by
  unfold State.countSr
  split
  · exact h.modG _ (fun _ => rfl) (congrArg (fun g : Group => g.sys.fpflags) h.g :)
      (congrArg (fun g : Group => g.sys.srcnt + 1) h.g :)
  · exact h

/-! The registers. -/

theorem setLanes_r (x : State) (d : BitVec 7) (f : Nat → W32) :
    (x.setLanes d f).g.r = x.g.r.writeV d.toNat x.g.r.exm f := by
  rw [State.setLanes, State.modG_g]

theorem orFlags_g (x : State) (e : FFlags) :
    (x.orFlags e).g = { x.g with sys := { x.g.sys with fpflags := x.g.sys.fpflags ||| e.zeroExtend 32 } } := by
  rw [State.orFlags, State.modSys_eq, State.modG_g]

theorem orFlags_r (x : State) (e : FFlags) : (x.orFlags e).g.r = x.g.r := by rw [orFlags_g]

theorem countSr_r (x : State) (m : RMode) : (x.countSr m).g.r = x.g.r := by
  unfold State.countSr
  split
  · rw [State.modSys_eq, State.modG_g]
  · rfl

/-! The end of the instruction. -/

/-- A lane instruction that retires: its group's registers are those that its body left, with the pc moved on. -/
theorem run_laneLeft {len : Nat} {s x y : State} {sels : List Sel} {dests : List DReg} {body : State → Res} {fl cnt : W32}
    (hr : Runs s sels dests x) (hb : body x = .ok y) (hy : LaneLeft x y fl cnt) :
    ∃ t, run len s sels dests body = .next t ∧ RegistersOnly (sels.map (fun a => a.src)) s t ∧
      SysKept (sels.map (fun a => a.src)) s t ∧ t.g.sys.fpflags = fl ∧ t.g.sys.srcnt = cnt ∧
      (.q 0 ∉ sels.map (fun a => a.src) → .q 1 ∉ sels.map (fun a => a.src) → x.g.r.exm = s.g.r.exm) ∧
      t.g.r = { y.g.r with pc := y.g.r.pc + BitVec.ofNat 64 len } := by
  obtain ⟨hready, harm⟩ := hr
  obtain ⟨ha, -, -⟩ := ready_ok hready
  have hg := hy.g
  rw [ha.g] at hg
  obtain ⟨t, ht, hout, hoth, -, hrt, hsys, hclk, hkept, hsent, -⟩ :=
    run_only (len := len) hready hb hy.only (by rw [hg]; exact harm)
  unfold GroupKept at hkept
  unfold NothingSent at hsent
  rw [hg] at hsys hclk hkept hsent
  exact ⟨t, ht, ⟨hout, hoth, hkept, hsent⟩,
    ⟨(congrArg (fun (z : SysRegs) => { z with fpflags := 0, srcnt := 0 }) hsys :), hclk⟩,
    (congrArg SysRegs.fpflags hsys :), (congrArg SysRegs.srcnt hsys :), fun h0 h1 => by rw [ready_same hready h0 h1], hrt⟩

/-- A lane instruction whose body leaves the lanes of one register. -/
theorem run_laneDone {len : Nat} {s x y : State} {sels : List Sel} {dests : List DReg} {body : State → Res} {d : BitVec 7}
    {f : Nat → W32} {fl cnt : W32} (hr : Runs s sels dests x) (hb : body x = .ok y) (hy : LaneLeft x y fl cnt)
    (hv : y.g.r = x.g.r.writeV d.toNat x.g.r.exm f) :
    ∃ t, run len s sels dests body = .next t ∧ LaneDone (sels.map (fun a => a.src)) s x t len d f fl cnt := by
  obtain ⟨t, ht, hframe, hsys, hfl, hcnt, hexm, hrt⟩ := run_laneLeft (len := len) hr hb hy
  obtain ⟨ha, -, -⟩ := ready_ok hr.1
  have hrest := Regs.writeV_rest x.g.r d.toNat x.g.r.exm f
  rw [hv] at hrt
  refine ⟨t, ht, hframe, hsys, hfl, hcnt, hexm, fun r k hk => ?_, ?_⟩
  · rw [hrt]
    have hx : x.g.r.getV r k = s.g.r.getV r k := by rw [ha.r]; rfl
    rw [← hx]
    exact Regs.writeV_getV _ _ _ _ _ _ hk
  · rw [hrt, Regs.writeV_pc]
    rw [ha.r] at hrest ⊢
    exact (congrArg (fun (z : Regs) => { z with pc := s.g.r.pc + BitVec.ofNat 64 len }) hrest :)

/-- A lane instruction without flags (08 R187 to R195). -/
theorem laneOp_done {s x : State} {sels : List Sel} {d : BitVec 7} (f : State → Nat → W32) (hr : Runs s sels [.v d.toNat] x) :
    ∃ t, laneOp d sels s f = .next t ∧
      LaneDone (sels.map (fun a => a.src)) s x t 4 d (f x) s.g.sys.fpflags s.g.sys.srcnt := by
  obtain ⟨ha, -, -⟩ := ready_ok hr.1
  rw [← ha.sys]
  exact run_laneDone hr rfl ((LaneLeft.refl x).setLanes d (f x)) (setLanes_r x d (f x))

end Sys2Proof.Machine
end

section
/-! Integer lane instructions (08 R187 to R195; O11): the lanes that each of them writes. -/

namespace Sys2Proof.Machine

open Sys2Proof.Claims

theorem lane1_eq (d : BitVec 7) (a : Sel) (s : State) {f g : W32 → W32} (h : ∀ x, f x = g x) :
    lane1 d a s f = laneOp d [a] s (fun x t => g (x.laneVal a.src t)) := by
  rw [funext h]
  rfl

theorem lane2_eq (d : BitVec 7) (a b : Sel) (s : State) {f g : W32 → W32 → W32} (h : ∀ x y, f x y = g x y) :
    lane2 d a b s f = laneOp d [a, b] s (fun x t => g (x.laneVal a.src t) (x.laneVal b.src t)) := by
  rw [funext₂ h]
  rfl

theorem lane3_eq (d : BitVec 7) (a b : Sel) (s : State) {f g : W32 → W32 → W32 → W32} (h : ∀ x y z, f x y z = g x y z) :
    lane3 d a b s f = laneOp d [a, b, ⟨.v d, false⟩] s
      (fun x t => g (x.laneVal a.src t) (x.laneVal b.src t) (x.g.r.getV d.toNat t)) := by
  rw [funext₃ h]
  rfl

/-- The tables of R187 to R195, row by row: an integer lane instruction writes the value that its row gives. -/
theorem exec_intLane_value {i : Instr} {d : BitVec 7} {sels : List Sel} {val : State → Nat → W32}
    (h : intLane i = some (d, sels, val)) (s : State) : exec i s = laneOp d sels s val := by
  cases i with
  | iadd d a b | isub d a b | imad d a b | ctz d a | mov d a | shfl d a b | shflx d a b | shflu d a b => cases h; rfl
  | imul d a b => cases h; exact (lane2_eq d a b s mul_eq_ofNat :)
  | imulh d a b => cases h; exact (lane2_eq d a b s mulh_eq :)
  | imulhu d a b => cases h; exact (lane2_eq d a b s mulhu_eq :)
  | imin d a b => cases h; exact (lane2_eq d a b s smin_eq :)
  | imax d a b => cases h; exact (lane2_eq d a b s smax_eq :)
  | umin d a b => cases h; exact (lane2_eq d a b s umin_eq :)
  | umax d a b => cases h; exact (lane2_eq d a b s umax_eq :)
  | and d a b => cases h; exact (lane2_eq d a b s and_eq_bits :)
  | or d a b => cases h; exact (lane2_eq d a b s or_eq_bits :)
  | xor d a b => cases h; exact (lane2_eq d a b s xor_eq_bits :)
  | andn d a b => cases h; exact (lane2_eq d a b s andn_eq_bits :)
  | shl d a b => cases h; exact (lane2_eq d a b s shl_eq :)
  | shr d a b => cases h; exact (lane2_eq d a b s shr_eq :)
  | sar d a b => cases h; exact (lane2_eq d a b s sar_eq :)
  | rot d a b => cases h; exact (lane2_eq d a b s rot_eq :)
  | popc d a => cases h; exact (lane1_eq d a s popcount_eq :)
  | clz d a => cases h; exact (lane1_eq d a s clz_eq :)
  | brev d a => cases h; exact (lane1_eq d a s brev_eq :)
  | bswap d a => cases h; exact (lane1_eq d a s bswap_eq :)
  | sext8 d a => cases h; exact (lane1_eq d a s (signExtend_truncate_eq (n := 8) (by omega) (by omega)) :)
  | sext16 d a => cases h; exact (lane1_eq d a s (signExtend_truncate_eq (n := 16) (by omega) (by omega)) :)
  | zext8 d a => cases h; exact (lane1_eq d a s (and_lowMask_eq 8) :)
  | zext16 d a => cases h; exact (lane1_eq d a s (and_lowMask_eq 16) :)
  | not d a => cases h; exact (lane1_eq d a s not_eq_bits :)
  | neg d a => cases h; exact (lane1_eq d a s zero_sub_eq_ofInt :)
  | abs d a => cases h; exact (lane1_eq d a s absW_eq :)
  | bfe d a b => cases h; exact (lane2_eq d a b s bfe_eq :)
  | bfi d a b => cases h; exact (lane3_eq d a b s bfi_eq :)
  | clmul d a b => cases h; exact (lane2_eq d a b s clmul_low_eq :)
  | clmulh d a b => cases h; exact (lane2_eq d a b s clmul_high_eq :)
  | shfld d a b =>
    cases h
    refine congrArg (laneOp d [a, b] s) (funext₂ fun x t => ?_)
    simp only [Nat.lt_succ_iff]
  | _ => cases h

end Sys2Proof.Machine

namespace Sys2Proof.Claims

open Sys2Proof.Machine

/-- Settles O11: the value that each instruction writes by its row of the tables, the frame once for all of them. -/
theorem laneInteger : Obligations.LaneInteger := by
  intro i d sels val hi s x hr
  rw [exec_intLane_value hi]
  exact laneOp_done val hr

end Sys2Proof.Claims
end

section
/-! SEL (08 R193; O12): its condition is read as any source is, and in a state with notes that no wait makes that is not its
register's lane. -/

namespace Sys2Proof.Claims

open Sys2Proof.Machine

/-- SEL by the condition that its source reads as. -/
theorem sel_done {s x : State} {d : BitVec 7} {a b c : Sel} (inv : Bool) (hr : Runs s [a, b, c] [.v d.toNat] x) :
    ∃ t, exec (.sel d a b c inv) s = .next t ∧ LaneDone [a.src, b.src, c.src] s x t 8 d
      (fun k => if x.selCond c.src k != inv then x.laneVal a.src k else x.laneVal b.src k)
      s.g.sys.fpflags s.g.sys.srcnt := by
  obtain ⟨ha, -, -⟩ := ready_ok hr.1
  rw [← ha.sys]
  exact run_laneDone hr rfl ((LaneLeft.refl x).setLanes d _) (setLanes_r x d _)

/-- A group whose notes of a waiting instruction (06 R138) hold a value of thread 0's lane of V0, 1, that is not the lane's, 0. A
wait notes what its specials and queues read, never a register, so no run reaches it; the statement asks it of every state. -/
def notedLane : State :=
  { State.reset with
    groups := [(0, { Group.reset with y := { GSync.reset with sampled := [(.v 0, [1])] } })] }

theorem notedLane_runs : Runs notedLane [⟨.const 1, false⟩, ⟨.const 0, false⟩, ⟨.v 0, false⟩] [.v 1] notedLane := ⟨rfl, rfl⟩

/-- Refutes O12 by its clause on SEL with a V condition: the condition is read as any source is, a noted value before the
register's own (`sel_done`), and in `notedLane` the two differ, so that SEL V1 of 1 and 0 by V0 gives thread 0 the 1. -/
theorem not_laneSelectCompare : ¬ Obligations.LaneSelectCompare := by
  rintro ⟨hsel, -⟩
  obtain ⟨t, ht, -, -, -, -, -, hlane, -⟩ := hsel notedLane notedLane 1 ⟨.const 1, false⟩ ⟨.const 0, false⟩ ⟨.v 0, false⟩ false
    notedLane_runs
  obtain ⟨u, hu, -, -, -, -, -, hread, -⟩ := sel_done (d := 1) false notedLane_runs
  cases ht.symm.trans hu
  have hsame := (hlane 1 0 (by decide)).symm.trans (hread 1 0 (by decide))
  exact absurd hsame (by decide)

end Sys2Proof.Claims
end

section
/-! The flags that the active threads raise (05 R117): lane instructions that raise them, and long-latency writes that begin with
them (05 R111). -/

namespace Sys2Proof.Machine

open Sys2Proof.Claims Sys2Proof.Safety

theorem getLsbD_foldl_flags (p : Nat → Bool) (f : Nat → FFlags) (k : Nat) (l : List Nat) (a : FFlags) :
    (l.foldl (fun a t => if p t then a ||| f t else a) a).getLsbD k =
      (a.getLsbD k || l.any (fun t => p t && (f t).getLsbD k)) := by
  induction l generalizing a with
  | nil => simp
  | cons t l ih =>
    rw [List.foldl_cons, ih, List.any_cons]
    cases p t with
    | false => simp
    | true => simp [Bool.or_assoc]

theorem actFlags_eq_raised (x : State) (f : Nat → FFlags) : (x.actFlags f).zeroExtend 32 = raised x f := by
  refine eq_ofFnLE fun k hk => ?_
  rw [BitVec.zeroExtend, BitVec.getLsbD_setWidth, decide_eq_true hk, Bool.true_and, State.actFlags,
    getLsbD_foldl_flags, show (0 : FFlags).getLsbD k = false from BitVec.getLsbD_zero, Bool.false_or]
  by_cases h4 : k < 4
  · rw [decide_eq_true h4, Bool.true_and]
    rfl
  · rw [decide_eq_false h4, Bool.false_and, List.any_eq_false]
    intro t _
    rw [(f t).getLsbD_of_ge k (by omega), Bool.and_false]
    exact Bool.false_ne_true

theorem raised_zero (x : State) : raised x (fun _ => 0) = 0 := by
  rw [← actFlags_eq_raised, State.actFlags]
  simp

/-! A lane instruction whose results raise flags, and one that rounds (08 R186). -/

section
variable {len : Nat} {s x : State} {sels : List Sel} {dests : List DReg} {d : BitVec 7} (res : State → Nat → FRes)

theorem run_flagged (hr : Runs s sels dests x) :
    ∃ t, run len s sels dests (fun x =>
        .ok ((x.setLanes d (fun t => (res x t).w)).orFlags (x.actFlags (fun t => (res x t).fl)))) = .next t ∧
      LaneDone (sels.map (fun a => a.src)) s x t len d (fun k => BitVec.ofNat 32 (res x k).bits)
        (s.g.sys.fpflags ||| raised x (fun k => (res x k).fl)) s.g.sys.srcnt := by
  obtain ⟨ha, -, -⟩ := ready_ok hr.1
  rw [← ha.sys, ← actFlags_eq_raised]
  exact run_laneDone hr rfl (((LaneLeft.refl x).setLanes d _).orFlags _) ((orFlags_r _ _).trans (setLanes_r ..))

theorem run_rounded (mode : State → RMode) (hr : Runs s sels dests x) :
    ∃ t, run len s sels dests (fun x => .ok (((x.setLanes d (fun t => (res x t).w)).orFlags
        (x.actFlags (fun t => (res x t).fl))).countSr (mode x))) = .next t ∧
      LaneDone (sels.map (fun a => a.src)) s x t len d (fun k => BitVec.ofNat 32 (res x k).bits)
        (s.g.sys.fpflags ||| raised x (fun k => (res x k).fl))
        (if mode x = .sr then s.g.sys.srcnt + 1 else s.g.sys.srcnt) := by
  obtain ⟨ha, -, -⟩ := ready_ok hr.1
  rw [← ha.sys, ← actFlags_eq_raised]
  exact run_laneDone hr rfl ((((LaneLeft.refl x).setLanes d _).orFlags _).countSr _)
    ((countSr_r _ _).trans ((orFlags_r _ _).trans (setLanes_r ..)))

end

/-! Long-latency writes (05 R111). -/

/-- An instruction that raises flags and begins one long-latency write that no path counts. -/
theorem run_flags_produces {len : Nat} {s x : State} {sels : List Sel} {dests : List DReg} {ds : List Dest} {e : FFlags}
    {body : State → Res} (hr : Runs s sels dests x) (hb : body x = .ok ((x.orFlags e).produce ⟨ds, none, none⟩)) :
    ∃ t, run len s sels dests body = .next t ∧
      Producing (sels.map (fun a => a.src)) s x t len ds none (s.g.sys.fpflags ||| e.zeroExtend 32) := by
  obtain ⟨hready, harm⟩ := hr
  obtain ⟨ha, -, -⟩ := ready_ok hready
  have hg := produce_g (x.orFlags e) ds
  rw [orFlags_g, ha.g] at hg
  have hy := unflags_rest ds s.g.y
  generalize s.g.y.unflags ds = y at hy hg
  obtain ⟨t, ht, hout, hoth, -, hrt, hsys, hclk, hkept, ⟨hpaths, hpend⟩, -⟩ := run_only (len := len) hready hb
    ((only_modG x _).trans (only_produce _ ds)) (by rw [hg]; exact (congrArg GSync.stepArmed hy :).trans harm)
  obtain ⟨hexm, hpc⟩ := markDests_keep ds s.g.r x.g.r.exm
  unfold GroupKept at hkept
  rw [hg] at hrt hsys hclk hkept hpaths hpend
  obtain ⟨hlive, hstr, hq3, h3, h7, hpk, hqs, hsn⟩ := hkept
  have hsync {β : Type} {v : β} (p : GSync → β) (h : v = p { y with errs := [] }) : v = p { s.g.y with errs := [] } :=
    h.trans (congrArg p hy)
  refine ⟨t, ht, hout, hoth, ⟨hlive, hstr, fun h => hsync GSync.q3 (hq3 h), hsync GSync.fab3 h3, hsync GSync.fab7 h7,
    hsync GSync.parked hpk, hsync GSync.qsel hqs, hsync GSync.sends hsn⟩, ⟨?_, hclk⟩, ?_, ?_,
    fun h0 h1 => by rw [ready_same hready h0 h1], ?_, fun p => ?_, ?_⟩
  · exact (congrArg (fun (z : SysRegs) => { z with fpflags := 0, srcnt := 0 }) hsys :)
  · exact (congrArg SysRegs.fpflags hsys :)
  · exact (congrArg SysRegs.srcnt hsys :)
  · exact hpend.trans (congrArg (fun (z : GSync) => z.pend ++ [⟨ds, none, none⟩]) hy :)
  · rw [if_neg (by simp), GSync.path, hpaths]
    exact (congrArg (fun (z : GSync) => z.path p) hy :)
  · rw [hrt]
    simp only [hexm, hpc]

end Sys2Proof.Machine
end

section
/-! XRED (08 R196 to R198; O15): the reductions, and the write that begins with each mode. -/

namespace Sys2Proof.Machine

open Sys2Proof.Claims

/-- The lanes of `a` that a reduction over the active threads of `x` that meet `p` finds, in thread order. -/
def State.redLanes (x : State) (a : Src) (p : Nat → Bool) : List (Option W32) :=
  (List.range 16).map (fun u => if x.g.r.exm.getLsbD u && p u then some (x.laneVal a u) else none)

/-- A folding reduction runs over the lanes that are there. -/
theorem red_fold (g : W32 → W32 → W32) (p : Nat → Bool) (v : Nat → W32) (us : List Nat) (e : W32) :
    (RedFn.fold e g).red (us.map (fun u => if p u then some (v u) else none)) =
      ⟨(((us.filter p).map v).foldl g e).toNat, 0⟩ := by
  induction us generalizing e with
  | nil => rfl
  | cons u us ih =>
    rw [List.map_cons, List.filter_cons]
    cases p u with
    | true => exact ih (g e (v u))
    | false => exact ih e

/-- The reductions of R197 but the FADD tree fold their operation from their identity. -/
theorem exec_reduction {i : Instr} {m : XMode} {d : BitVec 7} {a : Sel} {f : List W32 → FRes}
    (h : reduction i = some (m, d, a, f)) : ∃ e g, (∀ s, exec i s = xred (.fold e g) m d a s) ∧
      ∀ l : List W32, f l = ⟨(l.foldl g e).toNat, 0⟩ := by
  cases i with
  | xredAdd m d a | xredAnd m d a | xredOr m d a | xredXor m d a | xredFmin m d a | xredFmax m d a =>
    cases h; exact ⟨_, _, fun _ => rfl, fun _ => rfl⟩
  | xredMin m d a => cases h; exact ⟨_, _, fun _ => rfl, fun _ => by rw [funext₂ smin_eq]⟩
  | xredMax m d a => cases h; exact ⟨_, _, fun _ => rfl, fun _ => by rw [funext₂ smax_eq]⟩
  | xredUmin m d a => cases h; exact ⟨_, _, fun _ => rfl, fun _ => by rw [funext₂ umin_eq]⟩
  | xredUmax m d a => cases h; exact ⟨_, _, fun _ => rfl, fun _ => by rw [funext₂ umax_eq]⟩
  | _ => cases h

section
variable {s x : State} {d : BitVec 7} {a : Sel}

/-- XRED in mode TOTAL-G: the reduction of all active lanes, to Gd. -/
theorem xred_total (fn : RedFn) (hr : Runs s [a] [.g (uniReg s (d.setWidth 6))] x) (hd : d.toNat < 64) :
    ∃ t, xred fn .totalG d a s = .next t ∧ Producing [a.src] s x t 4
      [.g (uniReg s (d.setWidth 6)) (BitVec.ofNat 32 (fn.red (x.redLanes a.src (fun _ => true))).bits)] none
      (s.g.sys.fpflags ||| (fn.red (x.redLanes a.src (fun _ => true))).fl.zeroExtend 32) := by
  have hgd : s.g.gName d.toNat = uniReg s (d.setWidth 6) := by
    rw [← gn_eq_uniReg, State.gn, BitVec.toNat_setWidth, Nat.mod_eq_of_lt hd]
  rw [← hgd] at hr ⊢
  exact run_flags_produces hr rfl

/-- XRED in a V mode: for each active thread the reduction of the lanes that the mode gives it. -/
theorem xred_lanes (fn : RedFn) {m : XMode} {p : Nat → Nat → Bool}
    (hm : (m, p) ∈ [(XMode.totalV, fun _ _ => true), (XMode.forerunner, fun t u => decide (u < t)),
      (XMode.inclusive, fun t u => decide (u ≤ t))]) (hr : Runs s [a] [.v d.toNat] x) :
    ∃ t, xred fn m d a s = .next t ∧ Producing [a.src] s x t 4
      [.v d.toNat x.g.r.exm ((List.range 16).map (fun t => BitVec.ofNat 32 (fn.red (x.redLanes a.src (p t))).bits))] none
      (s.g.sys.fpflags ||| raised x (fun t => (fn.red (x.redLanes a.src (p t))).fl)) := by
  rw [← actFlags_eq_raised]
  simp only [List.mem_cons, Prod.mk.injEq, List.not_mem_nil, or_false] at hm
  rcases hm with ⟨rfl, rfl⟩ | ⟨rfl, rfl⟩ | ⟨rfl, rfl⟩
  · exact run_flags_produces hr rfl
  · exact run_flags_produces hr rfl
  · exact run_flags_produces hr rfl

end

end Sys2Proof.Machine

namespace Sys2Proof.Claims

open Sys2Proof.Machine

/-- Settles O15: each reduction is a fold or the tree, each mode one write that begins. -/
theorem reductions : Obligations.Reductions := by
  refine ⟨fun i m d a f hi s x => ?_, fun s x d a => ?_⟩
  · obtain ⟨e, g, hexec, hf⟩ := exec_reduction hi
    have hred (p : Nat → Bool) : (RedFn.fold e g).red (x.redLanes a.src p) =
        f (((List.range 16).filter (fun u => x.g.r.exm.getLsbD u && p u)).map (x.laneVal a.src)) :=
      (red_fold g _ _ _ e).trans (hf _).symm
    have hfl (l : List W32) : (f l).fl = 0 := by rw [hf]
    refine ⟨fun hm hr hd => ?_, fun p hm hr => ?_⟩
    · subst hm
      have h := xred_total (.fold e g) hr hd
      rw [hred, hfl, ← hexec] at h
      simpa using h
    · have h := xred_lanes (.fold e g) hm hr
      simp only [hred, hfl, raised_zero, ← hexec] at h
      simpa using h
  · exact ⟨xred_total .tree, fun m p => xred_lanes .tree⟩

end Sys2Proof.Claims
end

section
/-! Block scales and RND (08 R205 to R209; O14): QSCL, QCVT and QEXP by the descriptor's format, RND by the Philox word. -/

namespace Sys2Proof.Machine

open Sys2Proof.Claims Sys2Proof.Safety

theorem rmOf_eq_iff {n : Nat} {m : RMode} (hm : m ≠ .cur) : rmOf n = m ↔ n = m.code := by
  unfold rmOf
  split <;> cases m <;> simp_all [RMode.code]

/-- The mode that an instruction finds in RMODE, by its code (05 R118). -/
theorem rmode_eq_iff {s x : State} (ha : Adopted s x) {m : RMode} (hm : m ≠ .cur) :
    x.rmode = m ↔ s.g.sys.rmode = BitVec.ofNat 32 m.code := by
  have hcode : m.code < 2 ^ 32 := by cases m <;> decide
  rw [State.rmode, rmOf_eq_iff hm, ha.sys, ← BitVec.toNat_inj, BitVec.toNat_ofNat, Nat.mod_eq_of_lt hcode]

theorem descFi_eq (w : W32) : descFi w = w.toNat % 16 := by simp [descFi, fieldOf]

theorem runPair_full {s : State} {a : BitVec 7} (t : Bool) (sels : List Sel) (dests : List DReg) (body : State → Res)
    (h0 : s.g.r.vEmpty.getLsbD a.toNat = false) (h1 : s.g.r.vEmpty.getLsbD (a.toNat + 1) = false) :
    runPair s a t sels dests body = run 4 s (⟨.v a, t⟩ :: ⟨.v (a + 1), t⟩ :: sels) dests body := by
  rw [runPair, Regs.emptyV, Regs.emptyV, h0, h1]
  rfl

/-- A V register among the sources pops nothing. -/
theorem laneDone_of_cons_v {r d : BitVec 7} {l : List Src} {s x t : State} {len : Nat} {val : Nat → W32} {fl cnt : W32}
    (h : LaneDone (.v r :: l) s x t len d val fl cnt) : LaneDone l s x t len d val fl cnt := by
  simpa only [LaneDone, RegistersOnly, Outside, GroupKept, SysKept, List.mem_cons, reduceCtorEq, false_or] using h

theorem Adopted.index {s x : State} (h : Adopted s x) : x.t.index = s.t.index := by rw [h.only.t]

/-! The results (R206 to R208). -/

/-- The scale and format code that QSCL gives thread `t`, of the block in `a` and the next register. -/
def State.scaled (x : State) (a : BitVec 7) (b : Src) (t : Nat) : FRes :=
  match fiFmt ((x.laneVal b t).toNat % 16) with
  | none => invalid 0
  | some fmt => ⟨blockScale fmt (x.block a) * 65536 + (x.laneVal b t).toNat % 16, 0⟩

/-- The two elements that QCVT gives thread `t`, of its lanes of `a` and the next register. -/
def State.narrowed (x : State) (a : BitVec 7) (b : Src) (t : Nat) : FRes :=
  match fiFmt ((x.laneVal b t).toNat % 16) with
  | none => invalid 0
  | some fmt =>
    let e := fun (k : Bool) => narrowIn fmt (descScale fmt (x.laneVal b t)) x.rmode (rnd16 k (x.laneRnd t))
      (unpack fp32 (x.g.r.getV (a.toNat + k.toNat) t).toNat)
    ⟨(e false).bits + 2 ^ (blockElem fmt).width * (e true).bits, (e false).fl ||| (e true).fl⟩

/-- Element `k` of thread `t`'s lane of `a`, as QEXP widens it. -/
def State.widened (x : State) (a b : Src) (k : Bool) (t : Nat) : FRes :=
  match fiFmt ((x.laneVal b t).toNat % 16) with
  | none => invalid 0x7FC00000
  | some fmt => narrow fp32 x.rmode (rnd16 k (x.laneRnd t)) (widenIn fmt (descScale fmt (x.laneVal b t))
      (fieldOf (x.laneVal a t).toNat ((blockElem fmt).width * k.toNat) (blockElem fmt).width))

theorem exec_qscl (d a : BitVec 7) (tb : Bool) (b : Sel) (s : State) : exec (.qscl d a tb b) s =
    runPair s a tb [b] [.v d.toNat] (fun x => .ok ((x.setLanes d (fun t => (x.scaled a b.src t).w)).orFlags
      (x.actFlags (fun t => (x.scaled a b.src t).fl)))) := by
  change execQscl d a tb b s = _
  simp only [execQscl, descFi_eq] <;> rfl

theorem exec_qcvt (d a : BitVec 7) (tb : Bool) (b : Sel) (s : State) : exec (.qcvt d a tb b) s =
    runPair s a tb [b] [.v d.toNat] (fun x => .ok (((x.setLanes d (fun t => (x.narrowed a b.src t).w)).orFlags
      (x.actFlags (fun t => (x.narrowed a b.src t).fl))).countSr x.rmode)) := by
  change execQcvt d a tb b s = _
  simp only [execQcvt, descFi_eq] <;> rfl

/-- The state that QEXP leaves of `x`, which its sources are read from. -/
def State.widenedInto (x : State) (d : BitVec 7) (a b : Src) : State :=
  (((x.setLanes d (fun t => (x.widened a b false t).w)).setLanes (d + 1) (fun t => (x.widened a b true t).w)).orFlags
    (x.actFlags (fun t => (x.widened a b false t).fl ||| (x.widened a b true t).fl))).countSr x.rmode

theorem exec_qexp (d : BitVec 7) (a b : Sel) (s : State) : exec (.qexp d a b) s =
    run 4 s [a, b] [.v d.toNat, .v (d + 1).toNat] (fun x => .ok (x.widenedInto d a.src b.src)) := by
  change execQexp d a b s = _
  simp only [execQexp, descFi_eq] <;> rfl

/-! What the instructions leave. -/

section
variable {s x : State} {d a : BitVec 7} {tb : Bool} {b : Sel}

theorem qscl_done (h0 : s.g.r.vEmpty.getLsbD a.toNat = false) (h1 : s.g.r.vEmpty.getLsbD (a.toNat + 1) = false)
    (hr : Runs s [⟨.v a, tb⟩, ⟨.v (a + 1), tb⟩, b] [.v d.toNat] x) :
    ∃ t, exec (.qscl d a tb b) s = .next t ∧ LaneDone [b.src] s x t 4 d (fun k => BitVec.ofNat 32 (x.scaled a b.src k).bits)
      (s.g.sys.fpflags ||| raised x (fun k => (x.scaled a b.src k).fl)) s.g.sys.srcnt := by
  rw [exec_qscl, runPair_full tb _ _ _ h0 h1]
  obtain ⟨t, ht, hdone⟩ := run_flagged (fun x => x.scaled a b.src) hr
  exact ⟨t, ht, laneDone_of_cons_v (laneDone_of_cons_v hdone)⟩

theorem qcvt_done (h0 : s.g.r.vEmpty.getLsbD a.toNat = false) (h1 : s.g.r.vEmpty.getLsbD (a.toNat + 1) = false)
    (hr : Runs s [⟨.v a, tb⟩, ⟨.v (a + 1), tb⟩, b] [.v d.toNat] x) :
    ∃ t, exec (.qcvt d a tb b) s = .next t ∧ LaneDone [b.src] s x t 4 d (fun k => BitVec.ofNat 32 (x.narrowed a b.src k).bits)
      (s.g.sys.fpflags ||| raised x (fun k => (x.narrowed a b.src k).fl))
      (if s.g.sys.rmode = 4 then s.g.sys.srcnt + 1 else s.g.sys.srcnt) := by
  obtain ⟨ha, -, -⟩ := ready_ok hr.1
  have hsr : x.rmode = .sr ↔ s.g.sys.rmode = 4 := rmode_eq_iff ha (by decide)
  simp only [← hsr]
  rw [exec_qcvt, runPair_full tb _ _ _ h0 h1]
  obtain ⟨t, ht, hdone⟩ := run_rounded (fun x => x.narrowed a b.src) State.rmode hr
  exact ⟨t, ht, laneDone_of_cons_v (laneDone_of_cons_v hdone)⟩

end

theorem widenedInto_left (x : State) (d : BitVec 7) (a b : Src) : LaneLeft x (x.widenedInto d a b)
    (x.g.sys.fpflags ||| raised x (fun t => (x.widened a b false t).fl ||| (x.widened a b true t).fl))
    (if x.rmode = .sr then x.g.sys.srcnt + 1 else x.g.sys.srcnt) := by
  rw [← actFlags_eq_raised]
  exact ((((LaneLeft.refl x).setLanes d _).setLanes (d + 1) _).orFlags _).countSr _

theorem widenedInto_r (x : State) (d : BitVec 7) (a b : Src) : (x.widenedInto d a b).g.r =
    (x.g.r.writeV d.toNat x.g.r.exm (fun t => (x.widened a b false t).w)).writeV (d + 1).toNat x.g.r.exm
      (fun t => (x.widened a b true t).w) := by
  rw [State.widenedInto, countSr_r, orFlags_r, setLanes_r, setLanes_r, Regs.writeV_exm]

/-- Lanes of two registers, the second after the first. -/
theorem getV_writeV_writeV (r : Regs) {n m : Nat} (hnm : n ≠ m) (mask : BitVec 16) (f g : Nat → W32) (q : Nat) {k : Nat}
    (hk : k < 16) : ((r.writeV n mask f).writeV m mask g).getV q k =
      if q = n ∧ mask.getLsbD k = true then f k else if q = m ∧ mask.getLsbD k = true then g k else r.getV q k := by
  rw [Regs.writeV_getV _ _ _ _ _ _ hk, Regs.writeV_getV _ _ _ _ _ _ hk]
  by_cases hq : q = n
  · subst hq
    simp [hnm]
  · simp [hq]

end Sys2Proof.Machine

namespace Sys2Proof.Claims

open Sys2Proof.Machine

/-- Settles O14: each of the four by what it gives a thread, and the lanes, flags and SRCNT that it leaves. -/
theorem blockScales : Obligations.BlockScales := by
  refine ⟨fun s x d a tb b h0 h1 hr => ⟨qscl_done h0 h1 hr, qcvt_done h0 h1 hr⟩, fun s x d a b hr hd => ?_,
    fun s x d a b hr => ?_⟩
  · obtain ⟨ha, -, -⟩ := ready_ok hr.1
    have hnext : (d + 1).toNat = d.toNat + 1 := by simp; omega
    have hleft := widenedInto_left x d a.src b.src
    rw [ha.sys] at hleft
    have hsr : x.rmode = .sr ↔ s.g.sys.rmode = 4 := rmode_eq_iff ha (by decide)
    simp only [hsr] at hleft
    obtain ⟨t, ht, hframe, hsys, hfl, hcnt, -, hrt⟩ := run_laneLeft (len := 4)
      (body := fun x => .ok (x.widenedInto d a.src b.src)) hr rfl hleft
    rw [widenedInto_r, ha.r, hnext] at hrt
    rw [exec_qexp]
    refine ⟨t, ht, hframe, hsys, hfl, hcnt, fun r k hk => ?_, ?_⟩
    · have hlanes := getV_writeV_writeV { s.g.r with exm := x.g.r.exm } (show d.toNat ≠ d.toNat + 1 by omega) x.g.r.exm
        (fun t => (x.widened a.src b.src false t).w) (fun t => (x.widened a.src b.src true t).w) r hk
      rw [hrt]
      exact hlanes
    · rw [hrt, Regs.writeV_pc, Regs.writeV_pc]
      exact (congrArg (fun (z : Regs) => { z with pc := s.g.r.pc + 4 })
        ((Regs.writeV_rest _ _ _ _).trans (Regs.writeV_rest { s.g.r with exm := x.g.r.exm } _ _ _)) :)
  · obtain ⟨ha, -, -⟩ := ready_ok hr.1
    have hdone := laneOp_done (fun x t => BitVec.ofNat 32 (philox (x.laneVal a.src t) (x.laneVal b.src t) 5
      (BitVec.ofNat 32 x.t.index) x.l.seed x.g.sys.srkey)) hr
    rw [ha.index, ha.only.l, ha.sys] at hdone
    exact hdone

end Sys2Proof.Claims
end

section
/-! Floating-point lane instructions (08 R186, R199 to R204; O13). -/

namespace Sys2Proof.Machine

open Sys2Proof.Claims

/-! Results without a rounding, and results that round. -/

theorem laneF_done {s x : State} {sels : List Sel} {d : BitVec 7} (mode : State → RMode) (f : State → RMode → Nat → Nat → FRes)
    (hr : Runs s sels [.v d.toNat] x) : ∃ t, laneF d sels s mode f = .next t ∧
      LaneDone (sels.map (fun a => a.src)) s x t 4 d (fun k => BitVec.ofNat 32 (f x (mode x) (x.laneRnd k) k).bits)
        (s.g.sys.fpflags ||| raised x (fun k => (f x (mode x) (x.laneRnd k) k).fl))
        (if mode x = .sr then s.g.sys.srcnt + 1 else s.g.sys.srcnt) :=
  run_rounded (fun x t => f x (mode x) (x.laneRnd t) t) mode hr

/-- The lane row of R132 draws from SRCNT as the instruction found it. -/
theorem laneRnd_adopted {s x : State} (h : Adopted s x) (t : Nat) : x.laneRnd t =
    philox (BitVec.ofNat 32 (s.cur % 64 * 16 + t)) s.g.sys.srcnt 0 (BitVec.ofNat 32 s.t.index) s.l.seed s.g.sys.srkey := by
  rw [State.laneRnd, h.only.cur, h.sys, h.index, h.only.l]
  rfl

theorem fabs_eq (w : W32) : w &&& 0x7FFFFFFF = BitVec.ofNat 32 (w.toNat % 2 ^ 31) := and_lowMask_eq 31 w

/-- The sign bit turned (R201). -/
theorem toNat_xor_sign (w : W32) : (w ^^^ 0x80000000).toNat = (w.toNat + 2 ^ 31) % 2 ^ 32 := by
  have hw := w.isLt
  have hmag : (w.toNat ^^^ 2 ^ 31) % 2 ^ 31 = w.toNat % 2 ^ 31 := by rw [Nat.xor_mod_two_pow, Nat.mod_self, Nat.xor_zero]
  have hsign : (w.toNat ^^^ 2 ^ 31) / 2 ^ 31 = w.toNat / 2 ^ 31 ^^^ 1 := by
    rw [Nat.xor_div_two_pow, Nat.div_self (Nat.two_pow_pos 31)]
  rw [BitVec.toNat_xor, show (0x80000000 : W32).toNat = 2 ^ 31 from rfl]
  rcases (by omega : w.toNat / 2 ^ 31 = 0 ∨ w.toNat / 2 ^ 31 = 1) with h | h
  all_goals
    simp only [h, Nat.zero_xor, Nat.xor_self] at hsign
    omega

theorem fneg_eq (w : W32) : w ^^^ 0x80000000 = BitVec.ofNat 32 ((w.toNat + 2 ^ 31) % 2 ^ 32) := by
  rw [← toNat_xor_sign, BitVec.ofNat_toNat, BitVec.setWidth_eq]

theorem cvtMode_eq (op : CvtOp) (m : RMode) : (fun x : State => x.cvtMode op m) = fun x =>
    (if cvtExact op then none else if m = .cur then some (rmOf x.g.sys.rmode.toNat) else some m).getD .rne := by
  funext x
  rw [State.cvtMode, State.rmode]
  split_ifs <;> rfl

/-- What the table of R199 to R204 says of one instruction: it rounds by `mode`, or by no mode and gives an exact result. -/
def FltRow (i : Instr) (d : BitVec 7) (sels : List Sel) (mode : State → Option RMode) (f : State → RMode → Nat → Nat → FRes) :
    Prop :=
  (∀ s, exec i s = laneF d sels s (fun x => (mode x).getD .rne) f) ∨
  (∃ g : State → Nat → Nat, (∀ x m w t, f x m w t = ⟨g x t, 0⟩) ∧ (∀ x, mode x = none) ∧
    ∀ s, exec i s = laneOp d sels s (fun x t => BitVec.ofNat 32 (g x t)))

/-- The tables of R199 to R204, row by row. -/
theorem fltRow_of_fltLane {i : Instr} {d : BitVec 7} {sels : List Sel} {mode : State → Option RMode}
    {f : State → RMode → Nat → Nat → FRes} (h : fltLane i = some (d, sels, mode, f)) : FltRow i d sels mode f := by
  cases i with
  | fadd d a b | fsub d a b | fmul d a b | ffma d a b | b2add d a b | b2mul d a b | b2fma d a b =>
    cases h; exact .inl fun _ => rfl
  | fsqrt d a | frcp d a | frsq d a | fexp2 d a | flog2 d a | fsin d a | fcos d a | ftanh d a | ffrac d a | frnde d a
  | ftrunc d a | ffloor d a | fceil d a =>
    cases h; exact .inl fun _ => rfl
  | fmin d a b | fmax d a b | b2max d a b | b2min d a b =>
    cases h; exact .inr ⟨_, fun _ _ _ _ => rfl, fun _ => rfl, fun _ => rfl⟩
  | fabs d a => cases h; exact .inr ⟨_, fun _ _ _ _ => rfl, fun _ => rfl, fun s => (lane1_eq d a s fabs_eq :)⟩
  | fneg d a => cases h; exact .inr ⟨_, fun _ _ _ _ => rfl, fun _ => rfl, fun s => (lane1_eq d a s fneg_eq :)⟩
  | cvt op m d a =>
    cases h
    refine .inl fun s => ?_
    change execCvt op m d a s = _
    rw [execCvt, cvtMode_eq]
    rfl
  | _ => cases h

theorem getD_rne_eq_sr {m : Option RMode} : m.getD .rne = .sr ↔ m = some .sr := by
  cases m with
  | none => simp
  | some m => simp

/-! Special operands (R199). -/

section
variable {w : W32} {m : RMode} {rnd a b : Nat}

theorem unpack_fp32 (c : Nat) : unpack fp32 c =
    if 0x7F7FFFFF < c % 2 ^ 31 then
      if (true && decide (c % 2 ^ 31 % 2 ^ 23 = 0)) = true then .inf (decide (c / 2 ^ 31 % 2 = 1)) else .nan
    else if c % 2 ^ 31 / 2 ^ 23 = 0 then dyadic (decide (c / 2 ^ 31 % 2 = 1)) (c % 2 ^ 31 % 2 ^ 23) (-149)
    else dyadic (decide (c / 2 ^ 31 % 2 = 1)) (2 ^ 23 + c % 2 ^ 31 % 2 ^ 23) ((c % 2 ^ 31 / 2 ^ 23 : Nat) - 127 - 23) := rfl

theorem toNat_mag (w : W32) : (w &&& 0x7FFFFFFF).toNat = w.toNat % 2 ^ 31 := by
  rw [fabs_eq, BitVec.toNat_ofNat]
  omega

theorem unpack_nan (h : (w &&& 0x7FFFFFFF).toNat > 0x7F800000) : unpack fp32 w.toNat = .nan := by
  rw [toNat_mag] at h
  rw [unpack_fp32, if_pos (by omega), if_neg (by simp; omega)]

theorem unpack_inf (h : w &&& 0x7FFFFFFF = 0x7F800000) :
    unpack fp32 w.toNat = .inf (decide (w.toNat / 2 ^ 31 % 2 = 1)) := by
  have hm : w.toNat % 2 ^ 31 = 0x7F800000 := by rw [← toNat_mag, h]; rfl
  rw [unpack_fp32, hm, if_pos (by omega), if_pos (by simp)]

theorem unpack_fin (hn : ¬ (w &&& 0x7FFFFFFF).toNat > 0x7F800000) (hi : ¬ w &&& 0x7FFFFFFF = 0x7F800000) :
    ∃ neg num den, unpack fp32 w.toNat = .fin neg num den := by
  have hne : w.toNat % 2 ^ 31 ≠ 0x7F800000 := fun h => hi (BitVec.eq_of_toNat_eq (by rw [toNat_mag, h]; rfl))
  rw [toNat_mag] at hn
  rw [unpack_fp32, if_neg (by omega)]
  split
  · exact ⟨_, _, _, rfl⟩
  · exact ⟨_, _, _, rfl⟩

theorem unpack_zero (h : w &&& 0x7FFFFFFF = 0) : ∃ neg den, unpack fp32 w.toNat = .fin neg 0 den := by
  have hm : w.toNat % 2 ^ 31 = 0 := by rw [← toNat_mag, h]; rfl
  rw [unpack_fp32, hm, if_neg (by omega), if_pos (by omega)]
  exact ⟨_, _, by simp only [dyadic, Nat.zero_mod, Nat.zero_mul]; rfl⟩

/-- The sign bit turned turns the sign of the value. -/
theorem unpack_xor_sign (w : W32) : unpack fp32 (w ^^^ 0x80000000).toNat = (unpack fp32 w.toNat).neg := by
  have hw := w.isLt
  have hmag : (w.toNat + 2 ^ 31) % 2 ^ 32 % 2 ^ 31 = w.toNat % 2 ^ 31 := by omega
  have hsign : decide ((w.toNat + 2 ^ 31) % 2 ^ 32 / 2 ^ 31 % 2 = 1) = !decide (w.toNat / 2 ^ 31 % 2 = 1) := by
    rw [Bool.eq_iff_iff]
    simp only [decide_eq_true_eq, Bool.not_eq_true', decide_eq_false_iff_not]
    omega
  rw [unpack_fp32, unpack_fp32, toNat_xor_sign, hmag, hsign]
  split_ifs <;> rfl

/-- A NaN rounds to the canonical NaN, with the flags of its operation. -/
theorem finishF_nan (e : FFlags) : finishF fp32 m rnd (.nan, e) = ⟨0x7FC00000, e⟩ := by
  simp [finishF, narrow, canonNaN, fp32]

theorem exAdd_nan {v u : FVal} (h : v = .nan ∨ u = .nan) : exAdd m v u = (.nan, 0) := by
  rcases h with rfl | rfl
  · rfl
  · cases v <;> rfl

theorem exMul_nan {v u : FVal} (h : v = .nan ∨ u = .nan) : exMul v u = (.nan, 0) := by
  rcases h with rfl | rfl
  · rfl
  · cases v <;> rfl

theorem fAdd_nan (h : unpack fp32 a = .nan ∨ unpack fp32 b = .nan) : fAdd fp32 m rnd a b = ⟨0x7FC00000, 0⟩ := by
  rw [fAdd, exAdd_nan h, finishF_nan]

theorem fMul_nan (h : unpack fp32 a = .nan ∨ unpack fp32 b = .nan) : fMul fp32 m rnd a b = ⟨0x7FC00000, 0⟩ := by
  rw [fMul, exMul_nan h, finishF_nan]

theorem fAdd_inf_neg {n : Bool} (ha : unpack fp32 a = .inf n) (hb : unpack fp32 b = (unpack fp32 a).neg) :
    fAdd fp32 m rnd a b = ⟨0x7FC00000, fNV⟩ := by
  have hsum : exAdd m (.inf n) (.inf !n) = (.nan, fNV) := by cases n <;> rfl
  rw [fAdd, hb, ha, FVal.neg, hsum, finishF_nan]

theorem fAdd_fin_neg {n : Bool} {num den : Nat} (ha : unpack fp32 a = .fin n num den)
    (hb : unpack fp32 b = (unpack fp32 a).neg) :
    fAdd fp32 m rnd a b = ⟨if m = .rdn then 0x80000000 else 0, 0⟩ := by
  have hsum : exAdd m (.fin n num den) (.fin (!n) num den) = (.fin (decide (m = .rdn)) 0 1, 0) := by
    cases n <;> simp [exAdd]
  rw [fAdd, hb, ha, FVal.neg, hsum]
  by_cases hm : m = .rdn <;> simp [hm, finishF, narrow, signed, fp32]

theorem fMul_zero_inf {n n' : Bool} {den : Nat} (h : unpack fp32 a = .fin n 0 den ∧ unpack fp32 b = .inf n' ∨
    unpack fp32 a = .inf n' ∧ unpack fp32 b = .fin n 0 den) : fMul fp32 m rnd a b = ⟨0x7FC00000, fNV⟩ := by
  have hprod : exMul (unpack fp32 a) (unpack fp32 b) = (.nan, fNV) := by
    rcases h with ⟨ha, hb⟩ | ⟨ha, hb⟩
    · rw [ha, hb]; rfl
    · rw [ha, hb]; rfl
  rw [fMul, hprod, finishF_nan]

end

/-! An active lane. -/

theorem raised_nv {x : State} {f : Nat → FFlags} {k : Nat} (hk : k < 16) (hact : x.g.r.exm.getLsbD k = true)
    (hf : f k = fNV) : (raised x f).getLsbD 0 = true := by
  rw [raised, BitVec.getLsbD_ofFnLE, dif_pos (by omega)]
  refine Bool.and_eq_true_iff.2 ⟨rfl, List.any_eq_true.2 ⟨k, List.mem_range.2 hk, ?_⟩⟩
  rw [hact, hf]
  exact (by decide : (true && fNV.getLsbD 0) = true)

/-- What a lane instruction that rounds under RMODE leaves in an active lane, and in FPFLAGS. -/
theorem laneF_active {s x : State} {sels : List Sel} {d : BitVec 7} {k : Nat} (f : State → RMode → Nat → Nat → FRes)
    (hr : Runs s sels [.v d.toNat] x) (hk : k < 16) (hact : x.g.r.exm.getLsbD k = true) :
    ∃ t, laneF d sels s State.rmode f = .next t ∧
      t.g.r.getV d.toNat k = BitVec.ofNat 32 (f x x.rmode (x.laneRnd k) k).bits ∧
      ((f x x.rmode (x.laneRnd k) k).fl = fNV → t.g.sys.fpflags.getLsbD 0 = true) := by
  obtain ⟨t, ht, -, -, hfl, -, -, hlane, -⟩ := laneF_done State.rmode f hr
  refine ⟨t, ht, (hlane _ _ hk).trans (if_pos ⟨rfl, hact⟩), fun hnv => ?_⟩
  rw [hfl, BitVec.getLsbD_or, raised_nv hk hact hnv, Bool.or_true]

end Sys2Proof.Machine

namespace Sys2Proof.Claims

open Sys2Proof.Machine

/-- Each row of the table writes its results to the active lanes, and its flags to FPFLAGS. -/
theorem fltLane_done {i : Instr} {d : BitVec 7} {sels : List Sel} {mode : State → Option RMode}
    {f : State → RMode → Nat → Nat → FRes} (h : fltLane i = some (d, sels, mode, f)) {s x : State}
    (hr : Runs s sels [.v d.toNat] x) {res : Nat → FRes} (hres : ∀ t, res t = f x ((mode x).getD .rne) (x.laneRnd t) t) :
    ∃ t, exec i s = .next t ∧ LaneDone (sels.map (fun a => a.src)) s x t 4 d (fun k => BitVec.ofNat 32 (res k).bits)
      (s.g.sys.fpflags ||| raised x (fun k => (res k).fl))
      (if mode x = some .sr then s.g.sys.srcnt + 1 else s.g.sys.srcnt) := by
  cases funext hres
  rcases fltRow_of_fltLane h with hexec | ⟨g, hf, hmode, hexec⟩
  · have hdone := laneF_done (fun x => (mode x).getD .rne) f hr
    simp only [getD_rne_eq_sr] at hdone
    rw [hexec]
    exact hdone
  · have hdone := laneOp_done (fun x t => BitVec.ofNat 32 (g x t)) hr
    simp only [hexec, hf, hmode, raised_zero]
    simpa using hdone

/-- Settles O13: the table's rows, and the special operands by the exact sum and product. -/
theorem laneFloatingPoint : Obligations.LaneFloatingPoint := by
  refine ⟨fun i d sels mode f hi s x hr => ?_, fun s x d a b k hr hk hact => ?_⟩
  · obtain ⟨ha, -, -⟩ := ready_ok hr.1
    exact fltLane_done hi hr fun t => by rw [laneRnd_adopted ha]
  · intro av bv nan inf zero
    obtain ⟨ha, -, -⟩ := ready_ok hr.1
    obtain ⟨t, ht, hsum, hsumNv⟩ := laneF_active (fun x m w t =>
      fAdd fp32 m (rnd16 false w) (x.laneVal a.src t).toNat (x.laneVal b.src t).toNat) hr hk hact
    obtain ⟨u, hu, hprod, hprodNv⟩ := laneF_active (fun x m w t =>
      fMul fp32 m (rnd16 false w) (x.laneVal a.src t).toNat (x.laneVal b.src t).toNat) hr hk hact
    refine ⟨t, u, ht, hu, fun hn => ?_, fun hi hneg => ?_, fun hn hi hneg => ?_, fun hz => ?_⟩
    · have h : unpack fp32 av.toNat = .nan ∨ unpack fp32 bv.toNat = .nan := hn.imp unpack_nan unpack_nan
      rw [hsum, hprod, fAdd_nan h, fMul_nan h]
      exact ⟨rfl, rfl⟩
    · have h := fAdd_inf_neg (m := x.rmode) (rnd := rnd16 false (x.laneRnd k)) (unpack_inf hi)
        (hneg ▸ unpack_xor_sign av : unpack fp32 bv.toNat = _)
      rw [h] at hsum hsumNv
      exact ⟨hsum, hsumNv rfl⟩
    · obtain ⟨neg, num, den, hfin⟩ := unpack_fin hn hi
      rw [hsum, fAdd_fin_neg hfin (hneg ▸ unpack_xor_sign av : unpack fp32 bv.toNat = _)]
      have hrdn : x.rmode = .rdn ↔ s.g.sys.rmode = 2 := rmode_eq_iff ha (by decide)
      simp only [hrdn]
      split <;> rfl
    · have h : ∃ n n' den, unpack fp32 av.toNat = .fin n 0 den ∧ unpack fp32 bv.toNat = .inf n' ∨
          unpack fp32 av.toNat = .inf n' ∧ unpack fp32 bv.toNat = .fin n 0 den := by
        rcases hz with ⟨hz, hi⟩ | ⟨hi, hz⟩
        · obtain ⟨n, den, h0⟩ := unpack_zero hz
          exact ⟨n, _, den, .inl ⟨h0, unpack_inf hi⟩⟩
        · obtain ⟨n, den, h0⟩ := unpack_zero hz
          exact ⟨n, _, den, .inr ⟨unpack_inf hi, h0⟩⟩
      obtain ⟨n, n', den, h⟩ := h
      rw [fMul_zero_inf h] at hprod hprodNv
      exact ⟨hprod, hprodNv rfl⟩

end Sys2Proof.Claims
end
